-- ==== Sys2Proof/Word.lean ====
section
/-! DEFINITION. Word.lean: the word types of the MF-960 and the identifiers of its units (R8, R24, R25).
Memory addresses are plain `Nat`: they key the memory's cells. -/

namespace Sys2Proof

/-- A byte, the smallest addressable unit (R8). -/
abbrev Byte := BitVec 8
/-- 16 bits. -/
abbrev Half := BitVec 16
/-- A page register is 32 bits (Registers and access codes). -/
abbrev Word := BitVec 32
/-- A register of the control processor is 64 bits (R246). -/
abbrev DWord := BitVec 64
/-- Four bits: mask selections and operation codes. -/
abbrev Nibble := BitVec 4
/-- A number-format field holds a code 0x0 to 0xF (R30). -/
abbrev FmtCode := BitVec 4

/-- Core id `d:c:k`, 11 bits (R24). -/
abbrev CoreId := Fin 2048
/-- Home number 16d + c of cluster c on die d (R407). -/
abbrev HomeId := Fin 32
/-- Memory stack (R24). -/
abbrev StackId := Fin 16
/-- Sorus engine id, stack × 32 + engine (R24). -/
abbrev EngineId := Fin 512
/-- Rhizome PHY die. -/
abbrev PhyId := Fin 4
/-- A unit with combining tables: Sorus engines 0 to 511, then PHY dies as 512 to 515 (R54, R479). -/
abbrev UnitId := Fin 516
/-- A unit that receives sub-commands and update packets: stacks 0 to 15, then PHY dies as 16 to 19 (R90, R478). -/
abbrev ServerId := Fin 20
/-- Rhizome channel (R24). -/
abbrev RhzCh := Fin 96
/-- A memory channel in training or refresh: pseudo-channels stack × 64 + p as 0 to 1,023, then Rhizome channels
as 1,024 to 1,119. -/
abbrev ChanId := Fin 1120
/-- LPDDR6 package (R477). -/
abbrev PkgId := Fin 24
/-- Link (R24). -/
abbrev LinkId := Fin 16
/-- Host queue pair (R642). -/
abbrev QueueId := Fin 256
/-- Command queue of a stack (R56). -/
abbrev CmdQueue := Fin 64
/-- Stream engine number d × 128 + c × 8 + e (R380). -/
abbrev SEngId := Fin 256
/-- Collective queue (R524). -/
abbrev ColQueue := Fin 16
/-- Filigree channel (R419). -/
abbrev FgChan := Fin 32
/-- Integer register number (R246). -/
abbrev XReg := Fin 32
/-- Tile slot field of 9 bits; slots above 447 do not exist (R260). -/
abbrev TileId := Fin 512
/-- Accumulator slot (R260). -/
abbrev AccId := Fin 16
/-- Vector slot (R314). -/
abbrev VSlot := Fin 64
/-- Mask register (R316). -/
abbrev MaskId := Fin 8
/-- L2 slice (R353). -/
abbrev Slice := Fin 16
/-- L2 way (R353). -/
abbrev Way := Fin 16
/-- Table id, 12 bits (R24). -/
abbrev TableId := Fin 4096
/-- A running routed dispatch (R230). -/
abbrev DispSlot := Fin 4
/-- A physical address divided by 64. -/
abbrev LineAddr := Nat

/-- The field of `w` bits of `v` whose lowest bit is `lo` (R8). -/
def fld (v lo w : Nat) : Nat := (v >>> lo) % 2 ^ w

/-- One bit of `v` (R8). -/
def bitOf (v i : Nat) : Bool := v.testBit i

/-- The value of a list of bytes stored little-endian (R8). -/
def ofBytes (l : List Byte) : Nat := l.foldr (fun b acc => acc * 256 + b.toNat) 0

/-- The `n` bytes of `v`, little-endian (R8). -/
def toBytes : Nat → Nat → List Byte
  | 0, _ => []
  | n + 1, v => BitVec.ofNat 8 v :: toBytes n (v / 256)

/-- Two's complement reading of the low `w` bits of `v`. -/
def sgn (w v : Nat) : Int :=
  let u := v % 2 ^ w
  if u < 2 ^ (w - 1) then (u : Int) else (u : Int) - (2 ^ w : Nat)

/-- The low `w` bits of an integer, two's complement. -/
def unsgn (w : Nat) (i : Int) : Nat := (i % ((2 ^ w : Nat) : Int)).toNat

end Sys2Proof
end

