-- ==== Sys2Proof/Syntax.lean ====
section
/-! DEFINITION. Syntax.lean: the commands of the model, one constructor for each row of spec/opcode_table.json.
The MF-960 is modelled as a block: every row is one indivisible operation or event, and its operands are what the
spec leaves to the sender of the command or to the outside world. -/

namespace Sys2Proof

/-- The operand forms of a vector instruction (R323, R325, R326): 32-bit; 64-bit with a slot, format and mask;
64-bit with a broadcast immediate. `vs2` must be 0 where the function does not use it. -/
inductive VForm where
  | w32 (vs2 : VSlot) (zm : Bool)
  | w64 (vs2 : VSlot) (fmt : FmtCode) (msk : Nibble) (zm : Bool)
  | imm (imm32 : Word) (zm : Bool)
  deriving DecidableEq, Repr

/-- The operand forms of VCVT (R323, R325, R333). -/
inductive VCvtForm where
  | w32 (dfmt : FmtCode) (sr zm : Bool)
  | w64 (fmt : FmtCode) (msk : Nibble) (dfmt : FmtCode) (sr mx : Bool) (scs : VSlot) (zm : Bool)
  deriving DecidableEq, Repr

/-- LOP of VMLOG, 0 to 7 (R331). -/
abbrev LopCode := Fin 8

/-- The scopes of FENCE.S (R411). -/
inductive FenceScope where
  | core | cluster | die | device | global
  deriving DecidableEq, Repr

/-- OP of CRANGE and of MAINT (R364, R411). -/
inductive RangeOp where
  | clean | flush | invalidate
  deriving DecidableEq, Repr

/-- LEVEL of CRANGE (R411). -/
inductive RangeLevel where
  | l1d | l2 | both
  deriving DecidableEq, Repr

/-- What the error check finds on a DRAM read (R467): clean, corrected, or uncorrectable. -/
inductive EccFinding where
  | clean | corrected | uncorrectable
  deriving DecidableEq, Repr

/-- A function of the PCIe endpoint (R626). -/
inductive Fn where
  | pf0 | pf1
  deriving DecidableEq, Repr

/-- An offset in BAR0, 32 MiB (R628). -/
abbrev Bar0Off := BitVec 25
/-- A 4 KiB page of BAR0 (R630). -/
abbrev Bar0Page := Fin 8192

/-- The data of a register write: an aligned 32-bit or 64-bit access (R629). -/
inductive RegVal where
  | w32 (v : Word)
  | w64 (v : DWord)
  deriving DecidableEq, Repr

/-- A host access through BAR2 (R637); a write may carry a poisoned TLP (R656). -/
inductive Bar2Op where
  | read (len : Nat)
  | write (data : List Byte) (poisoned : Bool)
  deriving DecidableEq, Repr

/-- What a transaction at SMBus address 0x5A asks for (R21, R22, R564). -/
inductive SmbusOp where
  | pending | dfinfo
  deriving DecidableEq, Repr

/-- A die whose temperature sensor the CPD samples (R579): clusters 0 to 31, link dies 32 to 39, PHY dies 40 to 43,
hub 44, CPD 45. -/
abbrev SensorId := Fin 46

/-- A command or address parity error of a memory channel, and whether it recurs after the controller's retry (R466, R471). -/
structure ParityError where
  ch : ChanId
  recurs : Bool
  deriving DecidableEq, Repr

/-- What has waited too long: a core on a synchronisation object, or a dispatch for its release (R241, R428). -/
inductive HangWho where
  | core (c : CoreId)
  | dispatch (j : DispSlot)
  deriving DecidableEq, Repr

/-- Where a latent error stands that the next read of the place meets (R352, R374, R376, R467, R468): a 64-byte sector of
HBM, the Rhizome tier or scratch, by physical address / 64; a line that an L2 holds; a line that an L1D holds. -/
inductive UpsetAt where
  | sector (sec : Nat)
  | l2 (h : HomeId) (line : LineAddr)
  | l1d (c : CoreId) (line : LineAddr)
  deriving DecidableEq, Repr

/-- A latent error, corrected by the code that protects the place or not. -/
structure Upset where
  at_ : UpsetAt
  uncorrectable : Bool
  deriving DecidableEq, Repr

/-- What the activity of a slot observes of the hardware it holds (R582): a calibration's timing margin below the
trained minimum; a channel's corrected or uncorrectable scrub findings by line of the half-slice; a self-test chunk's
failures and first failing position; a parity mismatch of the audited page; the sampled stack temperatures. With it come
the latent errors that have arisen in memories and caches since the slot before (R468; log entry 135). -/
structure SlotObs where
  marginLow : Bool
  scrubCorrected : List Nat
  scrubUncorrectable : List Nat
  testFails : Nat
  testFirst : Nat
  auditBad : Bool
  upsets : List Upset := []
  deriving DecidableEq, Repr

/-- Torus coordinate, 18 bits (R24). -/
abbrev Coord := BitVec 18
/-- Link sequence number (R488). -/
abbrev Lseq := BitVec 16
/-- Virtual lane of a link (R492). -/
abbrev VLane := Fin 4
/-- Lane of a link (R486). -/
abbrev Lane := Fin 8
/-- Rank of a module in a slice, at most 1,024 modules (R512). -/
abbrev Rank := Fin 1024

/-- What the hub's reads of the fuse image return: the first, and the second, which it makes when the first fails its check (R598,
R599). -/
structure FuseReads where
  first : List Byte
  second : List Byte := []
  deriving DecidableEq, Repr

/-- A flit as it arrives: its bytes, CRC included (R488). -/
structure Flit where
  bytes : List Byte
  /-- Codewords of the flit that the FEC corrected, and codewords that it could not (R486, R520). -/
  corrected : Nat := 0
  uncorrectable : Nat := 0
  deriving DecidableEq, Repr

/-- A packet: the fields of its 32-byte header, and its payload (R489). -/
structure Packet where
  dst : Coord
  src : Coord
  cls : BitVec 3
  kind : BitVec 5
  detour : Bool
  slow : Bool
  flow : BitVec 12
  fseq : Word
  jobtag : Half
  hops : Byte
  epoch : Byte
  waypt : Coord
  extra : BitVec 48
  payload : List Byte
  deriving DecidableEq, Repr

/-- What a peer's discovery flits carry (R510). -/
structure PeerInfo where
  serial : DWord
  coord : Coord
  link : LinkId
  port : Fin 8
  v2 : Bool
  deriving DecidableEq, Repr

/-- The stream of packets of one source, destination, class and flow id (R504). -/
structure FlowKey where
  src : Coord
  dst : Coord
  cls : BitVec 3
  flow : BitVec 12
  deriving DecidableEq, Repr

/-- The body of an abort flit (R544). -/
structure AbortInfo where
  echo : Bool
  jobtag : Half
  origin : Half
  cause : Byte
  deriving DecidableEq, Repr

/-- A unit that a boot test finds bad (R600, R601). -/
inductive BootUnit where
  | hub | cpd | bridge
  | physCore (h : HomeId) (p : Fin 68)
  | clusterLogic (h : HomeId)
  | l2Way (h : HomeId) (s : Slice) (w : Way)
  | sorusEngine (e : EngineId)
  | stackLogic (s : StackId)
  | lane (l : LinkId) (n : Lane)
  | linkDie (d : Fin 8)
  | phyDie (d : PhyId)
  deriving DecidableEq, Repr

/-- What training finds (R453, R616, R615): failing pseudo-channels (stack × 64 + p) and Rhizome channels, the rate
code each PHY die reaches, and the entries of the repair list that find no spare row. -/
structure TrainResult where
  failedPch : List (Fin 1024)
  failedRhz : List RhzCh
  rates : List (Fin 3)
  noSpare : List Nat
  deriving DecidableEq, Repr

/-- A unit that fetches a firmware section (R608): its kind, 1 to 7, and its id within the kind. -/
structure FwUnit where
  kind : Fin 8
  id : BitVec 11
  deriving DecidableEq, Repr

/-- The commands, in the order of spec/opcode_table.json. -/
inductive Instr where
  /-- PWR_EN_RISE (R16). A rise of PWR_EN starts the module's regulators under an inrush-limited load, and
  releases a held RST_REQ_N. -/
  | pwrEnRise
  /-- PWR_EN_FALL (R580). A fall of PWR_EN powers the module off, losing all state except the fuses, and ends
  any RST_REQ_N request. -/
  | pwrEnFall
  /-- PWRGD_RISE (R18). When every rail has come into regulation, the module asserts PWRGD and the root PLL
  locks to a reference. -/
  | pwrgdRise
  /-- RAIL_LEAVES_REGULATION (R18). A rail leaving regulation makes the module deassert PWRGD within 10 µs and
  remove power from all rails. -/
  | railLeavesRegulation
  /-- PERST_N_ASSERT (R597). An assertion of PERST_N while PWRGD is high resets the device and ends any boot in
  progress. -/
  | perstNAssert
  /-- PERST_N_DEASSERT (R595). A deassertion of PERST_N starts the boot in state ROM. -/
  | perstNDeassert
  /-- ROOT_PLL_LOCK (R571). The root PLL locks within 1 ms of PWRGD to REFCLK_RACK when it is valid, and
  otherwise to REFCLK_PCIE. -/
  | rootPllLock
  /-- REFCLK_RACK_LOSS (R573). When REFCLK_RACK stops being valid, the PLL moves glitch-free to REFCLK_PCIE or
  to holdover, and every link is held down. -/
  | refclkRackLoss
  /-- REFCLK_RACK_RETURN (R573). Once REFCLK_RACK has been valid for 10 ms, the PLL returns to it and the links
  train again. -/
  | refclkRackReturn
  /-- PLL_LOCK_LOSS (R563). A loss of root PLL lock with REFCLK_RACK valid that does not relock within 1 ms is a
  DEVICE_FATAL event. -/
  | pllLockLoss
  /-- RACK_SYNC_EDGE (R516). A rising edge of RACK_SYNC slews the timestamp towards the nearest millisecond, or
  loads TSSET when ARM is set. -/
  | rackSyncEdge
  /-- RACK_SYNC_MISSING (R518). When RACK_SYNC has had no edge for 2 ms, the module sets TIMEERR and raises
  vector 260. -/
  | rackSyncMissing
  /-- SUPPLY_DROOP (R574). A cluster supply droop below threshold stretches that cluster's clock-A cycles until
  the supply recovers. -/
  | supplyDroop (h : HomeId)
  /-- AVS_UPDATE (R575). Every 10 µs the CPD sets each cluster's rail to the lowest voltage at which its path
  monitors report margin. -/
  | avsUpdate (rails : List Nat)
  /-- POWER_BUDGET_UPDATE (R577). Every 10 µs the power manager divides the cluster budget among the clusters
  and sets each cluster's clock-A ratio k. -/
  | powerBudgetUpdate (inputW : Nat) (clusterMw : List Nat)
  /-- FAST_LIMIT (R578). When input power averaged over 10 µs exceeds 110 % of PWRCAP, every cluster drops four
  steps at once. -/
  | fastLimit (avgW : Nat)
  /-- DIE_TEMPERATURE_LEVEL (R579). A sampled die temperature crossing a J level changes that die's clock limit,
  or raises JOB_FATAL at J3. -/
  | dieTemperatureLevel (sensor : SensorId) (temp : Byte)
  /-- MAINTENANCE_FRAME_BOUNDARY (R581). At each 128 µs frame boundary, FRAMECNT advances and update-combining
  entries allocated before the previous boundary are flushed. -/
  | maintenanceFrameBoundary
  /-- SLOT_START (R582). At the start of each 8 µs slot, the sequencer starts the slot's activity on the next
  resource of its rotation. -/
  | slotStart (obs : SlotObs)
  /-- SLOT_END_CUT (R585). An activity unfinished at the end of its slot releases its resource, resumes in its
  next slot, and is counted in SLOTOVR. -/
  | slotEndCut
  /-- PER_BANK_REFRESH (R470). A channel controller issues per-bank refresh and demanded RFM commands at the
  rate its temperature requires. -/
  | perBankRefresh (ch : ChanId) (rfm : Bool)
  /-- AUTO_SNAPSHOT (R594). With AUTOEN set, a snapshot is written to AUTOADDR every PERIOD frames and vector
  262 is raised. -/
  | autoSnapshot
  /-- PLACEMENT_DRAIN_END (R181). When every request resolved before a move's flip has been served, the pinned
  entries are released to the new copy and a demoted slot is freed. -/
  | placementDrainEnd (tid : TableId)
  /-- TRACKER_AGEING (R178). Every AGEFR frames, the placement agent halves COUNT and ERROR of every tracker
  entry and frees entries whose COUNT reaches 0. -/
  | trackerAgeing
  /-- SLOTEN_WRITE (R586). A write of CPD.SLOTEN enables or disables slot activities from the next frame; bits 0
  and 6 cannot be cleared. -/
  | slotenWrite (v : Word)
  /-- RV64IMAC_INSTRUCTION (R246). The control processor executes a standard RV64IMAC/Zicsr/Zifencei
  instruction, raising illegal instruction for any other standard encoding. -/
  | rv64imacInstruction (c : CoreId)
  /-- L1D_LINE_FILL (R351). A missed line returns to L1D, is filled by pseudo-LRU replacement, and releases the
  load waiting on it. -/
  | l1dLineFill (c : CoreId) (line : LineAddr)
  /-- L2_LINE_FILL (R357). After a dirty victim's write is accepted, the L2 slice issues and completes the fill
  read of the missed line. -/
  | l2LineFill (h : HomeId) (line : LineAddr)
  /-- WAY_DISABLE (R374). The sixteenth corrected error in a way's window disables the way, moving its scratch
  lines to another way first. -/
  | wayDisable (h : HomeId) (slice : Slice) (way : Way)
  /-- MMA (R266). MMA starts C += A × B on the accumulator and tiles it names, in the formats given by mxfmt. -/
  | mma (c : CoreId) (acc : AccId) (a : TileId) (b : TileId)
  /-- MMAX (R265). MMAX starts an MMA whose formats, scale mode, engine choice and clear-accumulator bit are
  carried in the instruction. -/
  | mmax (c : CoreId) (acc : AccId) (a : TileId) (b : TileId) (fa : FmtCode) (fb : FmtCode) (mx : Bool) (spa : Bool) (cz : Bool)
  /-- MMA_COMPLETE (R268). 40 cycles after its start, an MMA writes its accumulator and sets sticky matrix
  flags. -/
  | mmaComplete (c : CoreId)
  /-- MLD (R263). MLD loads a tile slot, transposed or not, or its scale area, from memory. -/
  | mld (c : CoreId) (rs1 : XReg) (rs2 : XReg) (t : TileId) (tr : Bool) (sc : Bool) (fsel : Bool)
  /-- MST (R264). MST writes an accumulator out to memory, converted to OFMT, optionally with stochastic
  rounding. -/
  | mst (c : CoreId) (rs1 : XReg) (rs2 : XReg) (acc : AccId) (ofmt : FmtCode) (sr : Bool) (tr : Bool)
  /-- MLDA (R262). MLDA loads an accumulator slot from 16 rows of memory. -/
  | mlda (c : CoreId) (rs1 : XReg) (rs2 : XReg) (acc : AccId)
  /-- MZ (R262). MZ sets each accumulator named in its mask to +0. -/
  | mz (c : CoreId) (mask : Half)
  /-- MTV (R264). MTV writes an accumulator out, converted, into a vector operand slot. -/
  | mtv (c : CoreId) (v : VSlot) (acc : AccId) (ofmt : FmtCode) (sr : Bool)
  /-- MFV (R262). MFV copies bytes 0–511 of a vector slot into a tile slot. -/
  | mfv (c : CoreId) (v : VSlot) (t : TileId)
  /-- SCOMPRESS (R299). SCOMPRESS compresses a dense operand pair into a 4:8 tile, flagging dropped non-zeros
  and non-transposable masks. -/
  | scompress (c : CoreId) (src : TileId) (dst : TileId)
  /-- STRANSPOSE (R303). STRANSPOSE writes the transpose of n compressed tile pairs as n compressed pairs. -/
  | stranspose (c : CoreId) (src : TileId) (dst : TileId)
  /-- SCI (R273). SCI places N 64-byte entries in a stack's command queue, stalling while the queue is full. -/
  | sci (c : CoreId) (rd : XReg) (rs1 : XReg) (rs2 : XReg)
  /-- SCIN (R274). SCIN places N entries in a command queue, or places nothing and returns busy when there is
  not room for all of them. -/
  | scin (c : CoreId) (rd : XReg) (rs1 : XReg) (rs2 : XReg)
  /-- STI (R382). STI places N stream descriptors in a stream engine's queue, stalling while the queue is full.
  -/
  | sti (c : CoreId) (rd : XReg) (rs1 : XReg) (rs2 : XReg)
  /-- STIN (R382). STIN places N stream descriptors, or returns busy without placing any. -/
  | stin (c : CoreId) (rd : XReg) (rs1 : XReg) (rs2 : XReg)
  /-- WEND (R255). WEND ends the active op once its engine instructions have retired, checks its claimed
  objects, and reports the end to the dispatcher. -/
  | wend (c : CoreId)
  /-- OP_START (R254). An op entering the active slot starts the control processor in user mode at its kernel
  entry, with taskid loaded. -/
  | opStart (c : CoreId)
  /-- CORE_SOFT_RESET (R287). Setting COR.CTRL.SOFTRST resets the core, aborts its ops, and resets its owners.
  -/
  | coreSoftReset (c : CoreId)
  /-- CORE_ENABLE (R288). Setting COR.CTRL.EN restarts the control processor in machine mode at its firmware
  entry; clearing it is refused while work remains. -/
  | coreEnable (c : CoreId) (en : Bool)
  /-- HALT (R285). DBGCTL.HALT halts the control processor at the next instruction boundary, when debug is
  unlocked. -/
  | halt (c : CoreId)
  /-- RESUME (R285). DBGCTL.RESUME resumes a halted core. -/
  | resume (c : CoreId)
  /-- STEP (R285). DBGCTL.STEP retires one instruction and halts again. -/
  | step (c : CoreId)
  /-- VSETVL (R318). VSETVL sets VFMT, MSEL and VL and writes the new VL to rd. -/
  | vsetvl (c : CoreId) (rd : XReg) (rs1 : XReg) (vfmt : FmtCode) (msel : Nibble)
  /-- VADD (R328). VADD adds active elements. -/
  | vadd (c : CoreId) (vd : VSlot) (vs1 : VSlot) (f : VForm)
  /-- VSUB (R328). VSUB subtracts active elements. -/
  | vsub (c : CoreId) (vd : VSlot) (vs1 : VSlot) (f : VForm)
  /-- VMUL (R328). VMUL multiplies active elements. -/
  | vmul (c : CoreId) (vd : VSlot) (vs1 : VSlot) (f : VForm)
  /-- VDIV (R328). VDIV divides active elements; integer division by zero yields 0 and sets DZ. -/
  | vdiv (c : CoreId) (vd : VSlot) (vs1 : VSlot) (f : VForm)
  /-- VMAX (R328). VMAX takes the elementwise maximum by R52. -/
  | vmax (c : CoreId) (vd : VSlot) (vs1 : VSlot) (f : VForm)
  /-- VMIN (R328). VMIN takes the elementwise minimum by R52. -/
  | vmin (c : CoreId) (vd : VSlot) (vs1 : VSlot) (f : VForm)
  /-- VFMA (R328). VFMA forms vs1 × vs2 + vd with one rounding. -/
  | vfma (c : CoreId) (vd : VSlot) (vs1 : VSlot) (f : VForm)
  /-- VFMS (R328). VFMS forms vs1 × vs2 − vd with one rounding. -/
  | vfms (c : CoreId) (vd : VSlot) (vs1 : VSlot) (f : VForm)
  /-- VABS (R328). VABS clears the sign bit of each active element. -/
  | vabs (c : CoreId) (vd : VSlot) (vs1 : VSlot) (f : VForm)
  /-- VNEG (R328). VNEG inverts the sign bit of each active element. -/
  | vneg (c : CoreId) (vd : VSlot) (vs1 : VSlot) (f : VForm)
  /-- VSQRT (R328). VSQRT takes the square root of each active floating element. -/
  | vsqrt (c : CoreId) (vd : VSlot) (vs1 : VSlot) (f : VForm)
  /-- VAND (R327). VAND takes the bitwise AND of the element patterns. -/
  | vand (c : CoreId) (vd : VSlot) (vs1 : VSlot) (f : VForm)
  /-- VOR (R327). VOR takes the bitwise OR of the element patterns. -/
  | vor (c : CoreId) (vd : VSlot) (vs1 : VSlot) (f : VForm)
  /-- VXOR (R327). VXOR takes the bitwise XOR of the element patterns. -/
  | vxor (c : CoreId) (vd : VSlot) (vs1 : VSlot) (f : VForm)
  /-- VSHL (R329). VSHL shifts integer elements left. -/
  | vshl (c : CoreId) (vd : VSlot) (vs1 : VSlot) (f : VForm)
  /-- VSRA (R329). VSRA shifts integer elements right arithmetically. -/
  | vsra (c : CoreId) (vd : VSlot) (vs1 : VSlot) (f : VForm)
  /-- EQ (R330). EQ writes mask bits where elements compare equal. -/
  | eq (c : CoreId) (md : MaskId) (vs1 : VSlot) (f : VForm)
  /-- NE (R330). NE writes mask bits where elements compare unequal. -/
  | ne (c : CoreId) (md : MaskId) (vs1 : VSlot) (f : VForm)
  /-- LT (R330). LT writes mask bits where vs1 is less than vs2. -/
  | lt (c : CoreId) (md : MaskId) (vs1 : VSlot) (f : VForm)
  /-- LE (R330). LE writes mask bits where vs1 is less than or equal to vs2. -/
  | le (c : CoreId) (md : MaskId) (vs1 : VSlot) (f : VForm)
  /-- GT (R330). GT writes mask bits where vs1 is greater than vs2. -/
  | gt (c : CoreId) (md : MaskId) (vs1 : VSlot) (f : VForm)
  /-- GE (R330). GE writes mask bits where vs1 is greater than or equal to vs2. -/
  | ge (c : CoreId) (md : MaskId) (vs1 : VSlot) (f : VForm)
  /-- UNORD (R330). UNORD writes mask bits where either operand is NaN. -/
  | unord (c : CoreId) (md : MaskId) (vs1 : VSlot) (f : VForm)
  /-- VMLOG (R331). VMLOG combines two mask registers by LOP. -/
  | vmlog (c : CoreId) (md : MaskId) (ms1 : MaskId) (ms2 : MaskId) (lop : LopCode)
  /-- VMPOP (R331). VMPOP writes the number of set mask bits below VL to rd. -/
  | vmpop (c : CoreId) (rd : XReg) (ms : MaskId)
  /-- VCVT (R332). VCVT converts elements between formats, with block scales when MX is set. -/
  | vcvt (c : CoreId) (vd : VSlot) (vs1 : VSlot) (f : VCvtForm)
  /-- RSUM (R334). RSUM reduces active elements by a fixed-tree sum into element 0. -/
  | rsum (c : CoreId) (vd : VSlot) (vs1 : VSlot) (f : VForm)
  /-- RMAX (R334). RMAX reduces active elements to their maximum. -/
  | rmax (c : CoreId) (vd : VSlot) (vs1 : VSlot) (f : VForm)
  /-- RMIN (R334). RMIN reduces active elements to their minimum. -/
  | rmin (c : CoreId) (vd : VSlot) (vs1 : VSlot) (f : VForm)
  /-- RAMAX (R334). RAMAX reduces active elements to their largest magnitude. -/
  | ramax (c : CoreId) (vd : VSlot) (vs1 : VSlot) (f : VForm)
  /-- VPERM (R335). VPERM gathers elements of vs1 by the indices in vs2. -/
  | vperm (c : CoreId) (vd : VSlot) (vs1 : VSlot) (f : VForm)
  /-- VCOMPRESS (R337). VCOMPRESS packs the active elements of vs1 densely into vd. -/
  | vcompress (c : CoreId) (vd : VSlot) (vs1 : VSlot) (f : VForm)
  /-- VEXPAND (R337). VEXPAND spreads the leading elements of vs1 into the active positions of vd. -/
  | vexpand (c : CoreId) (vd : VSlot) (vs1 : VSlot) (f : VForm)
  /-- VSHUF (R336). VSHUF permutes each group of eight elements by the imm32 pattern. -/
  | vshuf (c : CoreId) (vd : VSlot) (vs1 : VSlot) (imm : Word) (zm : Bool)
  /-- VPACKE (R338). VPACKE writes the even elements of vs1 followed by vs2. -/
  | vpacke (c : CoreId) (vd : VSlot) (vs1 : VSlot) (f : VForm)
  /-- VPACKO (R338). VPACKO writes the odd elements of vs1 followed by vs2. -/
  | vpacko (c : CoreId) (vd : VSlot) (vs1 : VSlot) (f : VForm)
  /-- VUNPKL (R338). VUNPKL interleaves the low halves of vs1 and vs2. -/
  | vunpkl (c : CoreId) (vd : VSlot) (vs1 : VSlot) (f : VForm)
  /-- VUNPKH (R338). VUNPKH interleaves the high halves of vs1 and vs2. -/
  | vunpkh (c : CoreId) (vd : VSlot) (vs1 : VSlot) (f : VForm)
  /-- VLD (R339). VLD loads contiguous elements into a slot. -/
  | vld (c : CoreId) (v : VSlot) (rs1 : XReg) (zm : Bool)
  /-- VLDS (R339). VLDS loads strided elements into a slot. -/
  | vlds (c : CoreId) (v : VSlot) (rs1 : XReg) (rs2 : XReg) (zm : Bool)
  /-- VST (R339). VST stores a slot's active elements contiguously. -/
  | vst (c : CoreId) (v : VSlot) (rs1 : XReg) (zm : Bool)
  /-- VSTS (R339). VSTS stores a slot's active elements at a stride. -/
  | vsts (c : CoreId) (v : VSlot) (rs1 : XReg) (rs2 : XReg) (zm : Bool)
  /-- VMVX (R340). VMVX moves one slot element to an integer register. -/
  | vmvx (c : CoreId) (rd : XReg) (rs1 : XReg) (vs : VSlot)
  /-- VBCI (R324). VBCI broadcasts an immediate to active elements, merging inactive ones. -/
  | vbci (c : CoreId) (vd : VSlot) (imm : Half)
  /-- VBCIZ (R324). VBCIZ broadcasts an immediate to active elements, zeroing inactive ones. -/
  | vbciz (c : CoreId) (vd : VSlot) (imm : Half)
  /-- BST (R413). BST stores to an EMPTY bead, waiting while the bead is FULL. -/
  | bst (c : CoreId) (rd : XReg) (rs1 : XReg) (rs2 : XReg)
  /-- BSTN (R413). BSTN stores to an EMPTY bead, or sets OVF and returns 1 when the bead is FULL. -/
  | bstn (c : CoreId) (rd : XReg) (rs1 : XReg) (rs2 : XReg)
  /-- BLD (R413). BLD waits for a FULL bead, returns its value, and empties it. -/
  | bld (c : CoreId) (rd : XReg) (rs1 : XReg)
  /-- BPEEK (R413). BPEEK returns a bead's value without changing it. -/
  | bpeek (c : CoreId) (rd : XReg) (rs1 : XReg)
  /-- CADD (R416). CADD adds to a counter with saturation and releases every satisfied CWAIT. -/
  | cadd (c : CoreId) (rd : XReg) (rs1 : XReg) (rs2 : XReg)
  /-- CSUB (R416). CSUB subtracts from a counter with saturation. -/
  | csub (c : CoreId) (rd : XReg) (rs1 : XReg) (rs2 : XReg)
  /-- CWAIT (R416). CWAIT waits until a counter reaches a threshold. -/
  | cwait (c : CoreId) (rd : XReg) (rs1 : XReg) (rs2 : XReg)
  /-- CREAD (R411). CREAD returns a counter's value. -/
  | cread (c : CoreId) (rd : XReg) (rs1 : XReg)
  /-- FENCE_S (R417). FENCE.S retires once every operation its scope covers has completed. -/
  | fenceS (c : CoreId) (scope : FenceScope)
  /-- FARRIVE (R420). FARRIVE sets the core's arrival flag on a Filigree channel. -/
  | farrive (c : CoreId) (rd : XReg) (rs1 : XReg)
  /-- FWAIT (R420). FWAIT waits for the release of the phase of the core's last arrival. -/
  | fwait (c : CoreId) (rd : XReg) (rs1 : XReg)
  /-- FSYNC (R420). FSYNC arrives on a Filigree channel and then waits for the release. -/
  | fsync (c : CoreId) (rd : XReg) (rs1 : XReg)
  /-- FILIGREE_RELEASE (R421). When every participant core and stack has arrived, the phase is released, flags
  are cleared and PHASE advances. -/
  | filigreeRelease (ch : FgChan)
  /-- CRANGE (R365). CRANGE cleans, flushes or invalidates the cached lines of a virtual range in L1D, L2 or
  both. -/
  | crange (c : CoreId) (op : RangeOp) (level : RangeLevel) (rs1 : XReg) (rs2 : XReg)
  /-- SCLAIM (R423). SCLAIM claims a run of beads or counters for the active task and records their found state.
  -/
  | sclaim (c : CoreId) (rd : XReg) (rs1 : XReg) (rs2 : XReg)
  /-- CLOCK_GATE (R427). A blocking wait lasting GATETHR gates the core's clocks and returns its power budget.
  -/
  | clockGate (c : CoreId)
  /-- HANG_WATCH (R428). A waiter waiting beyond HWTHR is reported once at its cluster, with vector 261 when
  unrecorded. -/
  | hangWatch (w : HangWho)
  /-- DBGSET (R429). A debugger set writes one bead or counter atomically from DBGNEW and releases waiters as a
  real change would. -/
  | dbgset (h : HomeId) (v : Word)
  /-- PREEMPT (R446). A priority-7 op stops a qualifying core's op at a user-mode boundary, saves its context,
  and starts in its place. -/
  | preempt (h : HomeId)
  /-- PREEMPT_RESTORE (R446). When the priority-7 op ends, the core restores the saved context and resumes the
  pre-empted op. -/
  | preemptRestore (c : CoreId)
  /-- OP_RELEASE (R440). A release arriving at the home dispatcher decrements DEPLEFT, and makes the op ready
  when it reaches 0. -/
  | opRelease (h : HomeId)
  /-- OP_END_REPORT (R440). On an op end the dispatcher writes OSTAT, sends releases to successors, and reports
  the end to the hub. -/
  | opEndReport (h : HomeId)
  /-- OP_PLACEMENT (R443). A dispatcher places the highest-priority, oldest ready op in a work slot, or holds it
  for affinity. -/
  | opPlacement (h : HomeId)
  /-- AFFINITY_HOLD_EXPIRY (R443). An affinity hold that reaches AFFWIN expires, and the op is placed by the
  other steps ahead of its peers. -/
  | affinityHoldExpiry (c : CoreId)
  /-- FRONT_END_TAKE_COMMAND (R59). The front end takes a queue's head command, validates it, and accepts it,
  binding it to a table version. -/
  | frontEndTakeCommand (x : StackId)
  /-- GATHER_POOL (R67). GATHER_POOL resolves indices into fixed-length bags, pools each bag, and writes one row
  per bag. -/
  | gatherPool (x : StackId)
  /-- GATHER (R68). GATHER writes each indexed row raw or converted. -/
  | gather (x : StackId)
  /-- SEG_POOL (R72). SEG_POOL pools bags of varying length defined by an offsets array. -/
  | segPool (x : StackId)
  /-- COPY (R74). COPY copies LEN bytes from the receiving stack's HBM to any device memory. -/
  | copy (x : StackId)
  /-- PROBE (R76). PROBE writes one resolution record per index without reading row data. -/
  | probe (x : StackId)
  /-- HH_READ (R77). HH_READ writes a snapshot of engine heavy-hitter trackers. -/
  | hhRead (x : StackId)
  /-- SCATTER_ADD (R113). SCATTER_ADD adds value rows to the rows named by indices, through the update-combining
  tables. -/
  | scatterAdd (x : StackId)
  /-- SCATTER_MAX (R113). SCATTER_MAX replaces row elements with the maximum of element and value. -/
  | scatterMax (x : StackId)
  /-- SCATTER_MIN (R113). SCATTER_MIN replaces row elements with the minimum of element and value. -/
  | scatterMin (x : StackId)
  /-- UPDATE_FENCE (R141). UPDATE_FENCE waits at each covered receiver for the carried sequence, flushes covered
  entries, and completes when all report. -/
  | updateFence (x : StackId)
  /-- MIGRATE_ROW (R189). MIGRATE_ROW locks each row, copies a snapshot of it to a destination, and clears the
  lock without a flip. -/
  | migrateRow (x : StackId)
  /-- NEIGH_AGG (R202). NEIGH_AGG pools the feature rows of every neighbour of each seed vertex. -/
  | neighAgg (x : StackId)
  /-- CHUNK_TASK_EXPAND (R217). An engine control core expands a dealt chunk task and routes its rows. -/
  | chunkTaskExpand (e : EngineId)
  /-- SAMPLE_AGG (R205). SAMPLE_AGG samples neighbours over up to three hops and pools them into flat or tree
  rows. -/
  | sampleAgg (x : StackId)
  /-- RNG_HEALTH_TEST_FAIL (R211). A failing hardware random source clears HWOK, and SAMPLE_AGG with RSEED 0 is
  then refused. -/
  | rngHealthTestFail (x : StackId)
  /-- SUB_COMMAND_RECEIVE (R90). A stack receives a sub-command carrying a bag's rows and n, and pools its
  partial. -/
  | subCommandReceive (u : ServerId)
  /-- SECTOR_READ_REQUEST (R84). An engine takes a sector read request, serves it from a live combining entry,
  or issues a DRAM read. -/
  | sectorReadRequest (u : UnitId)
  /-- DRAM_READ_RETURN (R467). A DRAM read returns, is ECC-checked and corrected or poisoned, and serves its
  waiting requests. -/
  | dramReadReturn (u : UnitId) (sector : Nat) (finding : EccFinding)
  /-- ROUTING_CONTEXT_RESUME (R83). A routing context that waited for a full engine request queue resumes once
  room frees. -/
  | routingContextResume (x : StackId)
  /-- BAG_MERGE_ROOT (R88). The merge tree root applies the final step and conversion once all partials of a bag
  have joined. -/
  | bagMergeRoot (x : StackId)
  /-- ACCUMULATING_WRITE (R363). An L2 slice applies an atomic FP32 add, maximum or minimum per element to a
  scratch line. -/
  | accumulatingWrite (h : HomeId)
  /-- COMMAND_COMPLETE (R94). Once every destination write is visible, a Sorus command writes its status record
  and then signals. -/
  | commandComplete (x : StackId)
  /-- SECTOR_UPDATE (R123). An engine takes a sector update and combines, allocates, evicts, applies directly,
  or waits. -/
  | sectorUpdate (u : UnitId)
  /-- UCTCTL_FLUSH (R124). Writing SOR.UCTCTL.FLUSH flushes every live update-combining entry of the engine. -/
  | uctctlFlush (e : EngineId)
  /-- UPDATE_PACKET_RECEIVE (R134). A receiver checks an update packet's epoch and sequence against its source
  entry, and accepts or discards it. -/
  | updatePacketReceive (r : ServerId) (replay : Option Nat)
  /-- UPDATE_PACKET_ACK (R135). A sender that receives an acknowledgement frees the packet and unblocks an issue
  stalled on the window. -/
  | updatePacketAck (r : ServerId)
  /-- SRSEED_WRITE (R148). A write of SOR.SRSEED restarts the engine's stochastic-rounding generator. -/
  | srseedWrite (e : EngineId) (v : Word)
  /-- CQCFG_EN (R106). Setting STK.CQCFG.EN enables a command queue unless the depths would exceed the command
  store; clearing it requires an empty queue. -/
  | cqcfgEn (x : StackId) (q : CmdQueue) (v : Word)
  /-- TABLE_REGISTER (R152). TABLE_REGISTER validates a descriptor and installs it as a table's first current
  version. -/
  | tableRegister (q : QueueId)
  /-- TABLE_REPLACE (R171). TABLE_REPLACE loads a held version everywhere, then each front end switches to it
  between acceptances. -/
  | tableReplace (q : QueueId)
  /-- TABLE_RETIRE (R174). TABLE_RETIRE marks a version retiring. -/
  | tableRetire (q : QueueId)
  /-- TABLE_RETIRE_DRAINED (R174). When no command, update or move bound to a retiring version remains, the
  retirement completes and frees its slot. -/
  | tableRetireDrained (tid : TableId) (epoch : Word)
  /-- MIGRATE (R150). MIGRATE runs one MIGRATE_ROW through the stack that serves the rows. -/
  | migrate (q : QueueId)
  /-- EPOCH_WAIT_EXPIRY (R173). A remote part still lacking its epoch after EPWAIT fails, and its lead command
  completes FAULT with 0x8A. -/
  | epochWaitExpiry (x : ServerId)
  /-- ROUTED_DISPATCH (R237). A routed dispatch counts, exchanges counts, buckets and places rows round by
  round, and then combines. -/
  | routedDispatch (q : ColQueue)
  /-- COUNT_EXCHANGE_RECEIVE (R234). A module receives the per-expert counts and check results of its peers and
  computes base positions or refuses in step. -/
  | countExchangeReceive (d : DispSlot) (peer : Rank) (counts : List Nat) (reason : Byte)
  /-- DISPATCH_RELEASE_WAIT_DONE (R240). When the release counter reaches r + 1, a destination returns round r's
  outputs and proceeds to the next round. -/
  | dispatchReleaseWaitDone (d : DispSlot)
  /-- DISPATCH_COMBINE (R238). Once every return row has arrived, the source issues the weighted GATHER_POOL
  that forms the combined rows. -/
  | dispatchCombine (d : DispSlot)
  /-- DISPATCH_COMPLETE (R242). A dispatch completes when its combine and rounds are done, subtracts R from both
  counters, and signals. -/
  | dispatchComplete (d : DispSlot)
  /-- STREAM_DESCRIPTOR_START (R383). A stream engine starts a queued descriptor, validating it and translating
  SIGADDR. -/
  | streamDescriptorStart (e : SEngId)
  /-- STRIDED (R387). A STRIDED stream copies rows and planes of bytes between strided addresses. -/
  | strided (e : SEngId)
  /-- STREAM_GATHER (R388). A stream-mode GATHER copies rows chosen by an index list. -/
  | streamGather (e : SEngId)
  /-- BITMAP (R389). A BITMAP stream expands bitmap tiles into a core's tile slots. -/
  | bitmap (e : SEngId)
  /-- CHAIN (R392). A CHAIN stream reads tiles once and forwards them core to core along a path. -/
  | chain (e : SEngId)
  /-- SORLIST (R390). A SORLIST stream issues a list of Sorus entries into a command queue, waiting on a full
  queue. -/
  | sorlist (e : SEngId)
  /-- TILE_LANDED (R398). A stream's tile lands in a slot, clears its pending mark, and is forwarded to the next
  Chain core. -/
  | tileLanded (e : SEngId)
  /-- STREAM_PAGE_FAULT (R393). An untranslatable stream address halts the engine with its position saved, and
  raises vector 257. -/
  | streamPageFault (e : SEngId)
  /-- PAGE_RESUME (R394). PAGE_RESUME restarts a halted stream from unit P, or ends it FAULT, and releases the
  engine. -/
  | pageResume (q : QueueId)
  /-- STREAM_COMPLETE (R396). A stream completes when all its writes are visible, and signals by R397. -/
  | streamComplete (e : SEngId)
  /-- SRST (R404). Writing SECFG.SRST resets a held, idle stream engine as a source reset. -/
  | srst (e : SEngId)
  /-- CLEAN_RANGE (R366). MAINT OP 1 cleans an L2 physical range. -/
  | cleanRange (h : HomeId)
  /-- FLUSH_RANGE (R366). MAINT OP 2 flushes an L2 physical range. -/
  | flushRange (h : HomeId)
  /-- INVALIDATE_RANGE (R366). MAINT OP 3 invalidates an L2 physical range. -/
  | invalidateRange (h : HomeId)
  /-- CLEAN_ALL (R366). MAINT OP 4 cleans the whole L2. -/
  | cleanAll (h : HomeId)
  /-- FLUSH_ALL (R366). MAINT OP 5 flushes the whole L2. -/
  | flushAll (h : HomeId)
  /-- INVALIDATE_ALL (R370). MAINT OP 6 invalidates the whole L2 and sets INVOK. -/
  | invalidateAll (h : HomeId)
  /-- L2_ENABLE (R371). Setting L2C.CTRL.EN enables the L2, and requires INVOK unless COMPAT is set. -/
  | l2Enable (h : HomeId)
  /-- L2_DISABLE (R372). Clearing L2C.CTRL.EN writes back and invalidates every line, or keeps lines in place
  under COMPAT. -/
  | l2Disable (h : HomeId)
  /-- RGNCOMMIT (R460). A write of RGNCOMMIT checks the staged region modes and replaces the active table. -/
  | rgncommit
  /-- PCCTL_RETRAIN (R471). Writing PCCTL.RETRAIN requests a retrain of an HBM pseudo-channel at the next
  calibration slot. -/
  | pcctlRetrain (e : EngineId) (half : Bool)
  /-- CHCTL_RETRAIN (R485). Writing RHZ.CHCTLc.RETRAIN requests a retrain of a Rhizome channel. -/
  | chctlRetrain (ch : RhzCh)
  /-- FORCED_RETRAIN (R471). LINKERR rising by FORCE within a frame, or a recurring parity error, starts a
  retrain at once. -/
  | forcedRetrain (e : ParityError)
  /-- RETRAIN_ATTEMPT_END (R473). A training attempt ends: the channel returns and serves its held requests in
  order, or it retries. -/
  | retrainAttemptEnd (ch : ChanId) (ok : Bool) (us : Word)
  /-- STACK_TEMPERATURE_LEVEL (R476). A stack temperature crossing T1, T2 or T3 changes its refresh and rate
  limits, or fences it. -/
  | stackTemperatureLevel (x : StackId) (temp : Byte)
  /-- PACKAGE_TEMPERATURE_LEVEL (R477). An LPDDR6 package crossing a level throttles it, or fences its PHY die
  at T3. -/
  | packageTemperatureLevel (k : PkgId) (temp : Byte)
  /-- DATA_FLIT_RECEIVE (R490). A link receiver accepts the next in-order good data flit, or discards it and
  sends a negative acknowledgement. -/
  | dataFlitReceive (l : LinkId) (flit : Flit)
  /-- NEGATIVE_ACK_RECEIVE (R490). A sender receiving a negative acknowledgement resends from the named flit in
  order. -/
  | negativeAckReceive (l : LinkId) (lseq : Lseq)
  /-- LINK_CONTROL_CREDIT (R492). Credits arriving in link-control flits let packets waiting on a virtual lane
  proceed. -/
  | linkControlCredit (l : LinkId) (vl : VLane) (n : Nat)
  /-- FLIT_RESEND_LIMIT (R491). A flit resent 16 times without LACK advancing takes the link down. -/
  | flitResendLimit (l : LinkId)
  /-- LANE_FAILURE (R494). A failed lane makes the link retrain on a clean half, or go DOWN. -/
  | laneFailure (l : LinkId) (lane : Lane)
  /-- LINK_TRAIN_DONE (R493). A link finishes lane training and enters DISCOVER. -/
  | linkTrainDone (l : LinkId)
  /-- LINK_TRAIN_RETRY (R493). A link whose training failed tries again after 10 ms. -/
  | linkTrainRetry (l : LinkId)
  /-- DISCOVERY_EXCHANGE (R510). Discovery flits are exchanged, and the link is classed against the cabling
  plan. -/
  | discoveryExchange (l : LinkId) (peer : PeerInfo)
  /-- DISCOVERY_TIMEOUT (R510). A link not trained 2 s after READY or the plan load is classed then. -/
  | discoveryTimeout
  /-- LINK_DOWN_FAILOVER (R496). A link going DOWN moves its flows to another UP link of the port, which resends
  unacknowledged packets. -/
  | linkDownFailover (l : LinkId)
  /-- PACKET_RECEIVE (R499). A module receives a packet, drops it or forwards it by dimension order, or takes it
  as its destination. -/
  | packetReceive (l : LinkId) (vl : VLane) (pkt : Packet)
  /-- FLOW_PACKET_DELIVER (R506). The destination checks a flow packet's FSEQ, and delivers, holds or discards
  it. -/
  | flowPacketDeliver (pkt : Packet)
  /-- FLOW_ACK_SEND (R507). The destination sends a cumulative acknowledgement at least every 64 packets or 2
  µs. -/
  | flowAckSend (flow : FlowKey)
  /-- FLOW_ACK_RECEIVE (R505). The sender frees acknowledged packets from its replay store. -/
  | flowAckReceive (flow : FlowKey)
  /-- FLOW_RESEND_TIMEOUT (R505). A packet unacknowledged within FLOWRTO is resent, and raises JOB_FATAL after
  16 resends. -/
  | flowResendTimeout (flow : FlowKey)
  /-- TIME_FLIT_EXCHANGE (R517). Once per millisecond, each link exchanges time flits and records TSOFF, setting
  TIMEERR on excess. -/
  | timeFlitExchange (l : LinkId) (off : Int) (corr : Option (Int × Nat))
  /-- PLAN_LOAD (R509). PLANCTL.LOAD loads and checks the cabling plan and reclassifies the links. -/
  | planLoad
  /-- JOB_FORM (R513). JOB_FORM checks ports and declarations, exchanges the job signature, agrees with the
  slice, and forms it. -/
  | jobForm (q : QueueId) (sigs : Bool) (agreed : Bool)
  /-- DISSOLVE (R515). TOP.SLICECTL.DISSOLVE ends a formed slice when no flow or collective is busy. -/
  | dissolve
  /-- DETLOAD (R503). DETLOAD replaces the detour table between two packets. -/
  | detload
  /-- RETRAIN (R520). LCTL.RETRAIN retrains a link, restoring 8 lanes. -/
  | retrain (l : LinkId)
  /-- LINK_HOLD (R520). LCTL.HOLD takes a link DOWN and keeps it there. -/
  | linkHold (l : LinkId)
  /-- LINK_RELEASE (R520). LCTL.RELEASE releases a held link to train. -/
  | linkRelease (l : LinkId)
  /-- COLLECTIVE_ACCEPT (R524). The engine accepts a queue's head collective once the doorbell counter holds its
  NENT, and translates its buffers. -/
  | collectiveAccept (q : ColQueue)
  /-- ALL_REDUCE (R530). An all-reduce reduces COUNT elements over the group. -/
  | allReduce (q : ColQueue)
  /-- REDUCE_SCATTER (R530). A reduce-scatter leaves block r of the reduction at rank r. -/
  | reduceScatter (q : ColQueue)
  /-- ALL_GATHER (R530). An all-gather collects one block from every rank. -/
  | allGather (q : ColQueue)
  /-- BROADCAST (R530). A broadcast copies the root's elements to every rank. -/
  | broadcast (q : ColQueue)
  /-- ALL_TO_ALL_V (R531). An all-to-all-v exchanges variable blocks by the count table. -/
  | allToAllV (q : ColQueue)
  /-- BARRIER (R530). A barrier completes once every group member has arrived. -/
  | barrier (q : ColQueue)
  /-- COLLECTIVE_PACKET_RECEIVE (R538). A collective packet is checked against the current CSEQ, and is taken,
  paused or raises JOB_FATAL. -/
  | collectivePacketReceive (pkt : Packet)
  /-- COLLECTIVE_WAIT_DEADLINE (R539). A collective wait passing its deadline completes the collective TIMEOUT
  and is JOB_FATAL. -/
  | collectiveWaitDeadline (q : ColQueue)
  /-- COLLECTIVE_COMPLETE (R536). A collective writes its completion record once its writes are visible, then
  signals. -/
  | collectiveComplete (q : ColQueue)
  /-- ABORT_RECEIVE (R544). A received abort flit is echoed and, when it is the first, halts the module and is
  relayed. -/
  | abortReceive (l : LinkId) (ab : AbortInfo)
  /-- ABORT_REPEAT (R544). An unechoed abort is resent to a neighbour every 1 µs. -/
  | abortRepeat (l : LinkId)
  /-- JOB_ABORT (R546). JOB_ABORT starts a slice abort with cause 0x87 and completes once the slice dissolves.
  -/
  | jobAbort (q : QueueId)
  /-- JOB_FATAL_HALT (R560). A JOB_FATAL event records itself, stops the cores, aborts work, flushes updates,
  and broadcasts the abort. -/
  | jobFatalHalt
  /-- HALT_TIMEOUT (R563). A halt not completed within 1 ms becomes a DEVICE_FATAL event. -/
  | haltTimeout
  /-- DEVICE_FATAL (R564). A DEVICE_FATAL event stops work, sets DFATAL and DFINFO, asserts ALERT_N, and aborts
  host commands. -/
  | deviceFatal (cause : Byte) (detail : Word)
  /-- HALTCTL_HALT (R568). Writing RAS.HALTCTL.HALT raises a JOB_FATAL event with reason 0x81. -/
  | haltctlHalt
  /-- ERRINJ (R555). A write of ERRINJ injects an error that is detected, classed and recovered as a real one.
  -/
  | errinj (fn : Fn) (off : Bar0Off) (v : Word)
  /-- BOOT_BIST (R601). The hub reads the fuses, runs the boot tests, and reconciles them into the enabled
  units. -/
  | bootBist (fuses : FuseReads) (fails : List BootUnit)
  /-- FWADDR_HI_WRITE (R606). Writing FWADDR_HI in WAITFW starts VERIFY of the bundle. -/
  | fwaddrHiWrite (v : Word)
  /-- VERIFY (R610). The hub checks the manifest, key hash, signature and security version, or returns to
  WAITFW. -/
  | verify
  /-- TRAIN (R616). The hub trains HBM and the Rhizome tier and applies post-package repair. -/
  | train (res : TrainResult)
  /-- LOAD (R613). The hub copies sections into the image area and releases units to fetch them. -/
  | load
  /-- SECTION_FETCH (R613). A unit fetches its section, checks its digest, and starts at ENTRY. -/
  | sectionFetch (u : FwUnit) (badReads : Fin 3)
  /-- READY (R595). Once every section is loaded, the hub enters READY and sets EN in the enabled units' pages.
  -/
  | ready (ms : Half)
  /-- ARBCTL_COMMIT (R611). ARBCTL.COMMIT blows anti-rollback fuses up to the bundle's SVN. -/
  | arbctlCommit
  /-- GETKEY (R618). The DOE GETKEY request returns the identity public key. -/
  | getkey
  /-- ATTEST (R619). The DOE ATTEST request returns a signed attestation report over the verifier nonce. -/
  | attest (nonce : List Byte)
  /-- DBGCHAL (R621). The DOE DBGCHAL request returns the serial number and a fresh challenge nonce. -/
  | dbgchal
  /-- DBGUNLOCK (R621). The DOE DBGUNLOCK request checks a debug token and sets the unlocked scope. -/
  | dbgunlock (token : List Byte)
  /-- SQTAIL_DOORBELL (R644). A write of SQTAIL makes new submission entries available to the hub. -/
  | sqtailDoorbell (q : QueueId) (v : Word)
  /-- CQHEAD_DOORBELL (R644). A write of CQHEAD frees completion entries and lets held postings proceed. -/
  | cqheadDoorbell (q : QueueId) (v : Word)
  /-- QUEUE_ENABLE (R644). Setting QUE.CTRL.EN checks the queue, zeroes its pointers, and empties its command-id
  window. -/
  | queueEnable (q : QueueId)
  /-- HOST_COMMAND_FETCH (R645). The hub fetches a submission entry by priority, checks it, and accepts or
  completes it. -/
  | hostCommandFetch
  /-- COMPLETION_POST (R646). The hub posts a completion entry in submission order with the current phase. -/
  | completionPost (q : QueueId)
  /-- LAUNCH_GRAPH (R436). LAUNCH_GRAPH checks a graph, initialises DEPLEFT, and places its roots. -/
  | launchGraph (q : QueueId)
  /-- DMA_COPY (R653). DMA_COPY copies LEN bytes in class 0, completing PARTIAL at an untranslatable address. -/
  | dmaCopy (q : QueueId)
  /-- FENCE (R654). The host FENCE completes when the earlier commands of its scope are visible everywhere. -/
  | fence (q : QueueId)
  /-- SELFTEST (R622). SELFTEST queues a test of one unit to run in slot chunks and writes a result. -/
  | selftest (q : QueueId)
  /-- CALIBRATE (R587). CALIBRATE moves a resource to the head of its calibration rotation. -/
  | calibrate (q : QueueId)
  /-- SYNC_DUMP (R430). SYNC_DUMP writes the state of every bead, counter and channel to a buffer. -/
  | syncDump (q : QueueId)
  /-- TELEMETRY_SNAPSHOT (R594). TELEMETRY_SNAPSHOT writes a snapshot at the next slot 6. -/
  | telemetrySnapshot (q : QueueId)
  /-- NOP (R648). NOP completes returning its operand bytes. -/
  | nop (q : QueueId)
  /-- INVCMD_ALL (R640). MMU.INVCMD 1 invalidates every translation cache entry. -/
  | invcmdAll
  /-- INVCMD_RANGE (R640). MMU.INVCMD 2 invalidates the entries of a virtual range. -/
  | invcmdRange
  /-- BAR2_ACCESS (R637). A host BAR2 access reaches device memory at B2BASE plus the offset, or fails with UR.
  -/
  | bar2Access (off : BitVec 42) (acc : Bar2Op)
  /-- FLR_PF1 (R664). An FLR of the compute function aborts work, resets its state, and ends the halt. -/
  | flrPf1
  /-- FLR_PF0 (R657). An FLR of the management function resets its configuration, MSI-X and DOE state. -/
  | flrPf0
  /-- DEVRST (R659). Writing 0xA5 to HUB.DEVRST from PF0 resets the device as PERST_N does. -/
  | devrst (fn : Fn) (v : Word)
  /-- CTRL_EN_SET (R633). Setting a page's CTRL.EN runs its configuration-consistency check. -/
  | ctrlEnSet (fn : Fn) (page : Bar0Page)
  /-- REGISTER_WRITE (R633). A write to a register with no row of its own takes effect, or is refused by R662 or
  R663. -/
  | registerWrite (fn : Fn) (off : Bar0Off) (v : RegVal)
  /-- STACK_LINK_FAILURE (R552). A stack-link failure beyond its retry fences the stack by R100 and is a
  JOB_FATAL event. -/
  | stackLinkFailure (x : StackId)
  /-- STACK_LINK_FLIT_RESEND (R556). A bad flit received on a stack link is resent and accepted within 2 µs, as
  a CORRECTED event. -/
  | stackLinkFlitResend (x : StackId)
  /-- PTM_EXCHANGE (R519). At each PCIe Precision Time Measurement exchange, the module records the host's time
  less its own in TOP.PTMOFF. -/
  | ptmExchange (hostTime : Nat)
  /-- SMBUS_TARGET_ACCESS (R22). A transaction at SMBus target address 0x5A is served while PWRGD is high,
  reporting pending conditions and DFINFO. -/
  | smbusTargetAccess (acc : SmbusOp)
  /-- RNG_HEALTH_TEST_PASS (R211). When the hardware random source passes its health tests again, HWOK returns
  to 1 and SAMPLE_AGG with RSEED 0 is accepted. -/
  | rngHealthTestPass (x : StackId)
  /-- REFCLK_PCIE_LOSS (R573). When REFCLK_PCIE stops being valid while the PLL runs on it, the PLL enters
  holdover within ±50 ppm. -/
  | refclkPcieLoss
  /-- REFCLK_PCIE_RETURN (R571). When REFCLK_PCIE becomes valid again while the PLL is in holdover, the PLL
  locks to it. -/
  | refclkPcieReturn
  /-- LO_READ_LATCH (R406). A read of a STALLc_LO or TSNOW_LO register latches the paired _HI half so that a
  low-then-high read is consistent. -/
  | loReadLatch (off : Bar0Off)
  /-- SLOW_RELAY_END (R540). One millisecond after the last packet received with SLOW set, the module stops
  relaying SLOW in its collective packets. -/
  | slowRelayEnd
  /-- SUPPLY_RECOVERY (R574). When a drooped cluster supply recovers, stretching of that cluster's clock-A
  cycles ends. -/
  | supplyRecovery (h : HomeId)
  /-- JOB_FORM_TIMEOUT (R513). When the slice has not agreed within 100 ms that every module passed step 5,
  JOB_FORM completes TIMEOUT and changes nothing. -/
  | jobFormTimeout
  deriving DecidableEq, Repr

end Sys2Proof
end

