-- ==== Sys2Proof/Decode.lean ====
section
/-! DEFINITION. Decode.lean: commands read from table words. The rows of spec/opcode_table.json give no bits: the MF-960 takes
its commands as operations of its interfaces, not as words. The instruction words that a core fetches are decoded in
Machine/Operands.lean. -/

namespace Sys2Proof

/-- The command that a word of the table's bits spells: the table gives no row any bits, so none. -/
def decodeTableWord (_nbits _w : Nat) : Option Instr := none

end Sys2Proof
end

