-- ==== Sys2Proof/Machine/Crypto.lean ====
section
/-! DEFINITION. Machine/Crypto.lean: CRC-32 of IEEE 802.3 (R488) and SHA3-256 of FIPS 202 (R509, R514, R610). -/

namespace Sys2Proof.Machine

open Sys2Proof

/-- One bit of the reflected CRC-32. -/
def crcBit (c : Word) : Word := if c.getLsbD 0 then (c >>> 1) ^^^ 0xEDB88320#32 else c >>> 1

/-- One byte of the reflected CRC-32. -/
def crcByte (c : Word) (b : Byte) : Word :=
  (List.range 8).foldl (fun acc _ => crcBit acc) (c ^^^ b.setWidth 32)

/-- CRC-32 of IEEE 802.3: polynomial 0x04C1_1DB7, initial value all ones, result complemented (R488). -/
def crc32 (l : List Byte) : Word := ~~~(l.foldl crcByte 0xFFFFFFFF#32)

/-! ## SHA3-256 -/

/-- Round constants of Keccak-f[1600]. -/
def keccakRC : List DWord :=
  [0x0000000000000001, 0x0000000000008082, 0x800000000000808A, 0x8000000080008000, 0x000000000000808B,
   0x0000000080000001, 0x8000000080008081, 0x8000000000008009, 0x000000000000008A, 0x0000000000000088,
   0x0000000080008009, 0x000000008000000A] ++
  [0x000000008000808B, 0x800000000000008B, 0x8000000000008089, 0x8000000000008003, 0x8000000000008002,
   0x8000000000000080, 0x000000000000800A, 0x800000008000000A, 0x8000000080008081, 0x8000000000008080,
   0x0000000080000001, 0x8000000080008008]

/-- Rotation offsets of lane x + 5y. -/
def keccakRot : List Nat :=
  [0, 1, 62, 28, 27, 36, 44, 6, 55, 20, 3, 10, 43, 25, 39, 41, 45, 15, 21, 8, 18, 2, 61, 56, 14]

def lane (a : List DWord) (i : Nat) : DWord := a.getD i 0

/-- One round of Keccak-f[1600] on 25 lanes. -/
def keccakRound (a : List DWord) (rc : DWord) : List DWord :=
  let c := (List.range 5).map fun x => lane a x ^^^ lane a (x + 5) ^^^ lane a (x + 10) ^^^ lane a (x + 15) ^^^ lane a (x + 20)
  let d := (List.range 5).map fun x => lane c ((x + 4) % 5) ^^^ (lane c ((x + 1) % 5)).rotateLeft 1
  let a1 := (List.range 25).map fun i => lane a i ^^^ lane d (i % 5)
  -- lane (x, y) of the permuted state comes from lane (x + 3y mod 5, x)
  let b := (List.range 25).map fun i =>
    let x := i % 5
    let y := i / 5
    let j := (x + 3 * y) % 5 + 5 * x
    (lane a1 j).rotateLeft (keccakRot.getD j 0)
  let e := (List.range 25).map fun i =>
    let x := i % 5
    let y := i / 5 * 5
    lane b i ^^^ (~~~(lane b ((x + 1) % 5 + y)) &&& lane b ((x + 2) % 5 + y))
  match e with
  | h :: t => (h ^^^ rc) :: t
  | [] => []

def keccakF (a : List DWord) : List DWord := keccakRC.foldl keccakRound a

/-- Absorb blocks of 136 bytes. -/
def absorb : Nat → List DWord → List Byte → List DWord
  | 0, a, _ => a
  | n + 1, a, l =>
    let blk := l.take 136
    let a1 := (List.range 25).map fun i =>
      if i < 17 then lane a i ^^^ BitVec.ofNat 64 (ofBytes ((blk.drop (8 * i)).take 8)) else lane a i
    absorb n (keccakF a1) (l.drop 136)

/-- Padding of SHA3: domain bits 01, then pad10*1, to a multiple of 136 bytes. -/
def sha3Pad (n : Nat) : List Byte :=
  let r := 136 - n % 136
  if r = 1 then [0x86] else (0x06 : Byte) :: (List.replicate (r - 2) 0 ++ [0x80])

/-- SHA3-256 of a message (FIPS 202). -/
def sha3 (l : List Byte) : List Byte :=
  let m := l ++ sha3Pad l.length
  (absorb (m.length / 136) (List.replicate 25 0) m).take 4 |>.flatMap fun d => toBytes 8 d.toNat

end Sys2Proof.Machine
end

