-- ==== Sys2Proof/Machine/NumFmt.lean ====
section
/-! DEFINITION. Machine/NumFmt.lean: the number formats of R30 to R53: exact values, rounding, conversion, flags,
and the arithmetic every engine shares. Values are exact dyadic numbers, so that one rounding stands where the
spec puts one. -/

namespace Sys2Proof.Machine

/-- A floating format: exponent bits, mantissa bits, bias, and what its top exponent means (R30). -/
structure FFmt where
  ebits : Nat
  mbits : Nat
  bias : Nat
  hasInf : Bool
  hasNan : Bool
  deriving DecidableEq, Repr

/-- The floating formats by code (R30): FP32, BF16, FP16, FP8-E4M3, FP8-E5M2, FP6-E3M2, FP4-E2M1. -/
def ffmt : Nat → Option FFmt
  | 0 => some ⟨8, 23, 127, true, true⟩
  | 1 => some ⟨8, 7, 127, true, true⟩
  | 2 => some ⟨5, 10, 15, true, true⟩
  | 3 => some ⟨4, 3, 7, false, true⟩
  | 4 => some ⟨5, 2, 15, true, true⟩
  | 5 => some ⟨3, 2, 3, false, false⟩
  | 6 => some ⟨2, 1, 1, false, false⟩
  | _ => none

/-- FP32, the accumulation format (R48). -/
def fp32 : FFmt := ⟨8, 23, 127, true, true⟩
/-- FP16, the format of a quantised row's scale and offset (R33). -/
def fp16 : FFmt := ⟨5, 10, 15, true, true⟩
/-- BF16 (R30). -/
def bf16 : FFmt := ⟨8, 7, 127, true, true⟩

/-- Bits of one element of a format code; 0 for a code that is not a format (R30, R31). ROWQ8 and ROWQ4 give the
width of their elements. -/
def fmtBits : Nat → Nat
  | 0 => 32 | 1 => 16 | 2 => 16 | 3 => 8 | 4 => 8 | 5 => 6 | 6 => 4 | 7 => 8 | 8 => 4 | 9 => 32
  | 10 => 8 | 11 => 4 | _ => 0

/-- Integer formats INT8, INT4, INT32 (R30). -/
def isIntFmt (f : Nat) : Bool := f == 7 || f == 8 || f == 9

/-- Sticky flags: NX, UF, OF, DZ, NV, IOR at bits 0 to 5 (R251, R317). -/
abbrev Flags := BitVec 6

def fNX : Flags := 1
def fUF : Flags := 2
def fOF : Flags := 4
def fDZ : Flags := 8
def fNV : Flags := 16
def fIOR : Flags := 32

/-- An exact value: ±m × 2^e, an infinity, or NaN. -/
inductive FVal where
  | num (neg : Bool) (m : Nat) (e : Int)
  | inf (neg : Bool)
  | nan
  deriving DecidableEq, Repr

/-- The value of a pattern of a floating format (R30). -/
def FFmt.decode (f : FFmt) (p : Nat) : FVal :=
  let neg := bitOf p (f.ebits + f.mbits)
  let ex := fld p f.mbits f.ebits
  let mn := p % 2 ^ f.mbits
  let top := 2 ^ f.ebits - 1
  if f.hasInf && ex == top then (if mn == 0 then .inf neg else .nan)
  else if f.hasNan && !f.hasInf && ex == top && mn == 2 ^ f.mbits - 1 then .nan
  else if ex == 0 then .num neg mn (1 - (f.bias : Int) - f.mbits)
  else .num neg (2 ^ f.mbits + mn) ((ex : Int) - f.bias - f.mbits)

/-- The pattern of the largest finite magnitude (R30, R43). -/
def FFmt.maxPat (f : FFmt) : Nat :=
  if f.hasInf then (2 ^ f.ebits - 2) * 2 ^ f.mbits + (2 ^ f.mbits - 1)
  else if f.hasNan then (2 ^ f.ebits - 1) * 2 ^ f.mbits + (2 ^ f.mbits - 2)
  else 2 ^ (f.ebits + f.mbits) - 1

def FFmt.signBit (f : FFmt) (neg : Bool) : Nat := if neg then 2 ^ (f.ebits + f.mbits) else 0

/-- ±infinity's pattern, or the largest finite magnitude's where the format has none (R43). -/
def FFmt.infPat (f : FFmt) (neg : Bool) : Nat :=
  f.signBit neg + (if f.hasInf then (2 ^ f.ebits - 1) * 2 ^ f.mbits else f.maxPat)

/-- The canonical NaN (R44); +0 where the format has no NaN (R43). -/
def FFmt.nanPat (f : FFmt) : Nat :=
  if f.hasInf then (2 ^ f.ebits - 1) * 2 ^ f.mbits + 2 ^ (f.mbits - 1)
  else if f.hasNan then 2 ^ (f.ebits + f.mbits) - 1
  else 0

/-- How a rounding is made: to nearest with ties to even, or stochastically with a 16-bit random value (R40, R41). -/
inductive RMode where
  | nearest
  | stochastic (r : Nat)
  deriving DecidableEq, Repr

/-- Whether the magnitude is rounded up when `shift` low bits of `m` are discarded (R40, R41). -/
def roundUp (mode : RMode) (m shift : Nat) : Bool :=
  let rem := m % 2 ^ shift
  match mode with
  | .nearest =>
    let half := 2 ^ (shift - 1)
    shift != 0 && (rem > half || (rem == half && (m >>> shift) % 2 == 1))
  | .stochastic r =>
    let top := if shift ≥ 16 then rem >>> (shift - 16) else rem <<< (16 - shift)
    top + r ≥ 65536

/-- Discard bits so that the unit in the last place is 2^q: the kept mantissa and whether it is inexact. -/
def keepAt (mode : RMode) (m : Nat) (e q : Int) : Nat × Bool :=
  if q ≤ e then (m <<< (e - q).toNat, false)
  else
    let sh := (q - e).toNat
    ((m >>> sh) + (if roundUp mode m sh then 1 else 0), m % 2 ^ sh != 0)

/-- Round an exact finite value to a floating format (R40, R41, R43). Underflow is raised when the result is inexact
and tiny after rounding (R328). -/
def FFmt.round (f : FFmt) (mode : RMode) (neg : Bool) (m : Nat) (e : Int) : Nat × Flags :=
  if m == 0 then (f.signBit neg, 0)
  else
    let emin : Int := 1 - (f.bias : Int)
    let top : Int := e + (Nat.log2 m : Int)
    let qf := top - f.mbits
    let q := max qf (emin - f.mbits)
    let (k, inex) := keepAt mode m e q
    let pat := (q - (emin - f.mbits)).toNat * 2 ^ f.mbits + k
    let (kf, _) := keepAt mode m e qf
    let tiny := decide (qf + (Nat.log2 kf : Int) < emin)
    if pat > f.maxPat then (f.infPat neg, fOF ||| fNX)
    else (f.signBit neg + pat, (if inex then fNX else 0) ||| (if inex && tiny then fUF else 0))

/-- Write any value in a floating format (R43, R44): NaN becomes the canonical NaN, or +0 with the invalid flag where
the format has none; an infinity becomes the largest finite value with the overflow flag where there is no infinity. -/
def FFmt.encode (f : FFmt) (mode : RMode) : FVal → Nat × Flags
  | .nan => (f.nanPat, if f.hasNan then 0 else fNV)
  | .inf neg => (f.infPat neg, if f.hasInf then 0 else fOF)
  | .num neg m e => f.round mode neg m e

/-- The value of an element of any of the ten arithmetic formats (R30). -/
def decodeElem (fmt p : Nat) : FVal :=
  match ffmt fmt with
  | some f => f.decode p
  | none =>
    let i := sgn (fmtBits fmt) p
    .num (decide (i < 0)) i.natAbs 0

/-- Round an exact value to an integer of `w` bits, to nearest with ties to even, saturating (R45, R46). -/
def toIntFmt (w : Nat) : FVal → Nat × Flags
  | .nan => (0, fNV)
  | .inf neg => (unsgn w (if neg then -(2 ^ (w - 1) : Nat) else (2 ^ (w - 1) : Nat) - 1), fOF)
  | .num neg m e =>
    let (k, inex) := keepAt .nearest m e 0
    let i : Int := if neg then -(k : Int) else k
    let lo : Int := -((2 ^ (w - 1) : Nat) : Int)
    let hi : Int := ((2 ^ (w - 1) : Nat) : Int) - 1
    if i < lo then (unsgn w lo, fOF ||| fNX)
    else if i > hi then (unsgn w hi, fOF ||| fNX)
    else (unsgn w i, if inex then fNX else 0)

/-- Conversion between any two of codes 0x0 to 0x9 (R40, R43, R45 to R47). An integer source that saturates sets the
overflow flag alone (R46). -/
def convertElem (mode : RMode) (src dst p : Nat) : Nat × Flags :=
  let v := decodeElem src p
  match ffmt dst with
  | some f => f.encode mode v
  | none =>
    let (r, fl) := toIntFmt (fmtBits dst) v
    (r, if isIntFmt src then fl &&& fOF else fl)

/-- One step of the stochastic generator (R42). -/
def xorshift (x : Word) : Word :=
  let a := x ^^^ (x <<< 13)
  let b := a ^^^ (a >>> 17)
  b ^^^ (b <<< 5)

/-- A seed of 0 is stored as 1 (R42). -/
def seedOf (v : Word) : Word := if v = 0 then 1 else v

/-- The random value of R41 that a new generator state gives (R42). -/
def randOf (x : Word) : Nat := (x >>> 16).toNat

/-- Stochastic rounding may be selected for these destinations only (R40). -/
def srPermitted (fmt : Nat) : Bool := fmt == 1 || fmt == 3 || fmt == 4 || fmt == 5 || fmt == 6

/-- The sign of a value. -/
def FVal.isNeg : FVal → Bool
  | .num n _ _ => n
  | .inf n => n
  | .nan => false

/-- Whether a value is zero. -/
def FVal.isZero : FVal → Bool
  | .num _ m _ => m == 0
  | _ => false

def FVal.isNan : FVal → Bool
  | .nan => true
  | _ => false

/-- The value with its sign inverted. -/
def FVal.neg : FVal → FVal
  | .num n m e => .num (!n) m e
  | .inf n => .inf (!n)
  | .nan => .nan

/-- The mantissa of `m × 2^e` at the smaller exponent `q`. -/
def alignTo (q : Int) (m : Nat) (e : Int) : Nat := m <<< (e - q).toNat

/-- Exact product (R49, R328). Infinity times zero is NaN. -/
def FVal.mul : FVal → FVal → FVal
  | .nan, _ => .nan
  | _, .nan => .nan
  | .inf n, b => if b.isZero then .nan else .inf (n != b.isNeg)
  | a, .inf n => if a.isZero then .nan else .inf (a.isNeg != n)
  | .num n m e, .num n' m' e' => .num (n != n') (m * m') (e + e')

/-- Exact sum with IEEE 754-2019 signs (R51): opposite zeros give +0, opposite infinities NaN. -/
def FVal.add : FVal → FVal → FVal
  | .nan, _ => .nan
  | _, .nan => .nan
  | .inf n, .inf n' => if n = n' then .inf n else .nan
  | .inf n, _ => .inf n
  | _, .inf n => .inf n
  | .num n m e, .num n' m' e' =>
    let q := min e e'
    let a : Int := if n then -(alignTo q m e : Int) else alignTo q m e
    let b : Int := if n' then -(alignTo q m' e' : Int) else alignTo q m' e'
    let s := a + b
    if s = 0 then .num (n && n') 0 q else .num (decide (s < 0)) s.natAbs q

/-- An exact value scaled by a power of two (R37, R333). -/
def FVal.scale (k : Int) : FVal → FVal
  | .num n m e => .num n m (e + k)
  | v => v

/-- The exact order of two numbers; NaN operands are handled before. -/
def FVal.cmp : FVal → FVal → Ordering
  | .inf n, .inf n' => if n = n' then .eq else if n then .lt else .gt
  | .inf n, _ => if n then .lt else .gt
  | _, .inf n => if n then .gt else .lt
  | .num n m e, .num n' m' e' =>
    let q := min e e'
    let a : Int := if n then -(alignTo q m e : Int) else alignTo q m e
    let b : Int := if n' then -(alignTo q m' e' : Int) else alignTo q m' e'
    if a < b then .lt else if b < a then .gt else .eq
  | _, _ => .eq

/-- A floating operation's result in format `f`, with the invalid flag where the operation itself made the NaN. -/
def FFmt.result (f : FFmt) (invalid : Bool) (v : FVal) : Nat × Flags :=
  let (p, fl) := f.encode .nearest v
  (p, fl ||| (if invalid then fNV else 0))

/-- A signalling NaN of an IEEE format: a NaN whose top mantissa bit is 0. IEEE 754-2019 raises invalid on one. -/
def FFmt.isSnan (f : FFmt) (p : Nat) : Bool :=
  f.hasInf && (f.decode p).isNan && !bitOf p (f.mbits - 1)

/-- Addition, one rounding (R51, R328). -/
def fAdd (f : FFmt) (a b : Nat) : Nat × Flags :=
  let x := f.decode a
  let y := f.decode b
  let r := x.add y
  f.result (f.isSnan a || f.isSnan b || (r.isNan && !x.isNan && !y.isNan)) r

def FFmt.negPat (f : FFmt) (a : Nat) : Nat := a ^^^ f.signBit true

/-- Subtraction (R328). -/
def fSub (f : FFmt) (a b : Nat) : Nat × Flags := fAdd f a (f.negPat b)

/-- Multiplication (R328). -/
def fMul (f : FFmt) (a b : Nat) : Nat × Flags :=
  let x := f.decode a
  let y := f.decode b
  let r := x.mul y
  f.result (f.isSnan a || f.isSnan b || (r.isNan && !x.isNan && !y.isNan)) r

/-- a × b + c with one rounding (R328). Infinity times zero is invalid whatever c is. -/
def fFma (f : FFmt) (a b c : Nat) : Nat × Flags :=
  let x := f.decode a
  let y := f.decode b
  let z := f.decode c
  let p := x.mul y
  let r := p.add z
  let badMul := p.isNan && !x.isNan && !y.isNan
  let badAdd := r.isNan && !p.isNan && !z.isNan
  f.result (f.isSnan a || f.isSnan b || f.isSnan c || badMul || badAdd) r

/-- Division (R328): the quotient to 64 bits beyond the target, with a sticky bit for the remainder. -/
def fDiv (f : FFmt) (a b : Nat) : Nat × Flags :=
  let x := f.decode a
  let y := f.decode b
  let snan := f.isSnan a || f.isSnan b
  match x, y with
  | .nan, _ => f.result snan .nan
  | _, .nan => f.result snan .nan
  | .inf _, .inf _ => f.result true .nan
  | .inf n, y => f.result false (.inf (n != y.isNeg))
  | .num n _ _, .inf n' => f.result false (.num (n != n') 0 0)
  | .num n m e, .num n' m' e' =>
    if m' = 0 then
      if m = 0 then f.result true .nan
      else (f.infPat (n != n'), fDZ)
    else
      let num := m <<< 128
      let q := num / m'
      let st := if num % m' = 0 then 0 else 1
      f.result false (.num (n != n') (q * 2 + st) (e - e' - 129))

/-- Integer square root of `n` by bits, from bit `k` down. -/
def isqrtFrom (n : Nat) : Nat → Nat → Nat
  | 0, r => r
  | k + 1, r =>
    let t := r + 2 ^ k
    isqrtFrom n k (if t * t ≤ n then t else r)

/-- Square root (R328): the root to 64 bits and more, with a sticky bit. -/
def fSqrt (f : FFmt) (a : Nat) : Nat × Flags :=
  match f.decode a with
  | .nan => f.result (f.isSnan a) .nan
  | .inf n => if n then f.result true .nan else f.result false (.inf false)
  | .num n m e =>
    if m = 0 then (f.signBit n, 0)
    else if n then f.result true .nan
    else
      let (m2, e2) := if e % 2 = 0 then (m, e) else (m * 2, e - 1)
      let w := m2 <<< 128
      let r := isqrtFrom w ((Nat.log2 w) / 2 + 1) 0
      let st := if r * r = w then 0 else 1
      f.result false (.num false (r * 2 + st) (e2 / 2 - 65))

/-- IEEE 754-2019 maximum or minimum (R52): any NaN gives the canonical NaN, and −0 orders below +0. -/
def fMaxMin (f : FFmt) (isMax : Bool) (a b : Nat) : Nat × Flags :=
  let x := f.decode a
  let y := f.decode b
  if x.isNan || y.isNan then (f.nanPat, if f.isSnan a || f.isSnan b then fNV else 0)
  else
    let aLess := match x.cmp y with
      | .lt => true
      | .gt => false
      | .eq => x.isNeg && !y.isNeg
    (if aLess = isMax then b else a, 0)

/-- Elements of `w` bits packed from bit 0 (R31, R32). -/
def unpack (w n v : Nat) : List Nat := (List.range n).map fun i => fld v (w * i) w

/-- Pack elements of `w` bits from bit 0 (R31, R32). -/
def pack (w : Nat) (l : List Nat) : Nat := l.foldr (fun x acc => x % 2 ^ w + 2 ^ w * acc) 0

/-- Dequantise an element of a row-quantised row: scale × q + offset in FP32 with one rounding (R34). -/
def dequant (scale offset : Nat) (q : Int) : Nat :=
  let p := (fp16.decode scale).mul (.num (decide (q < 0)) q.natAbs 0)
  (fp32.encode .nearest (p.add (fp16.decode offset))).1

/-- An input element of the Sorus reduce unit as FP32 (R47, R53). -/
def toFp32 (fmt p : Nat) : Nat := (convertElem .nearest fmt 0 p).1

/-- FP32 addition without flags, as the reduce units make it (R51). -/
def add32 (a b : Nat) : Nat := (fAdd fp32 a b).1
/-- FP32 multiplication without flags. -/
def mul32 (a b : Nat) : Nat := (fMul fp32 a b).1
/-- FP32 maximum (R52). -/
def max32 (a b : Nat) : Nat := (fMaxMin fp32 true a b).1
/-- FP32 minimum (R52). -/
def min32 (a b : Nat) : Nat := (fMaxMin fp32 false a b).1
/-- The FP32 pattern of a natural number, rounded to nearest (R46). -/
def natToFp32 (n : Nat) : Nat := (fp32.encode .nearest (.num false n 0)).1

end Sys2Proof.Machine
end

