-- ==== Sys2Proof/Config.lean ====
section
/-! DEFINITION. Config.lean: what an implementation fixes and the spec leaves open. Every constant here is opaque: no
statement can rest on a value of it. -/

namespace Sys2Proof.Config

/-- A byte the spec calls undefined: in the range that event `gen` left undefined, at address `a`
(R360, R460, R567). DESIGN CHOICE, log entry 12. -/
opaque freeByte (gen a : Nat) : Byte

/-- A 64-bit value the spec leaves open, number `n` of the run. DESIGN CHOICE, log entry 3. -/
opaque freeWord (n : Nat) : DWord

/-- A hardware random draw, number `n` of the run (R211, R621). DESIGN CHOICE, log entry 3. -/
opaque randomBytes (n : Nat) : BitVec 256

/-- The way that L1I replaces in a full set (R252 gives no policy). DESIGN CHOICE, log entry 13. -/
opaque l1iVictim (n : Nat) : Fin 4

/-- ML-DSA-44 key generation from a seed: the 1,312-byte public key (FIPS 204, R617). DESIGN CHOICE, log entry 14. -/
opaque mldsaPublic (seed : List Byte) : Vector Byte 1312

/-- ML-DSA-44 signing with the key of a seed: the 2,420-byte signature (FIPS 204, R619). DESIGN CHOICE, log entry 14. -/
opaque mldsaSign (seed message : List Byte) : Vector Byte 2420

/-- ML-DSA-44 verification of a signature (FIPS 204, R610, R621). DESIGN CHOICE, log entry 14. -/
opaque mldsaVerify (key message sig : List Byte) : Bool

/-- The lines that an L2 holds after a device reset, which R370 and R373 leave undefined: way, line address, data, dirty, age.
DESIGN CHOICE, log entry 10. -/
opaque l2Contents (n : Nat) : List (Nat × Nat × BitVec 512 × Bool × Nat)

/-- Packets that a link's receiver can hold on one virtual lane, as credits count them (R492 gives no number). DESIGN CHOICE,
log entry 161. -/
opaque laneCredit : Nat

/-- The set of the update-combining table that a sector address falls in (R122 leaves the hash to the implementation).
DESIGN CHOICE, log entry 15. -/
opaque uctSet (sector : Nat) : Nat

end Sys2Proof.Config
end

