-- ==== Sys2Proof/Machine/State.lean ====
section
/-! DEFINITION. Machine/State.lean: the state of the MF-960 as plain data, the reasons a command can stop, and the
state right after reset. Units of which there are many are held sparsely: a unit that a map does not list stands at
its default value. Page registers are held by BAR0 offset; registers that only show other state are computed from it
(Machine/PageRegs.lean). -/

namespace Sys2Proof.Machine

open Sys2Proof

/-- Sparse data by number, in rising order of the number. -/
abbrev NMap (α : Type) := List (Nat × α)

/-- The reasons a command stops with a fault. -/
inductive Fault where
  /-- Raised by the meanings of commands whose operand is a list (a flit, a packet, a token, a fuse image) that does not
  have the length the interface carries: the outside world cannot present it. Safe: nothing is claimed of the machine. -/
  | illFormed (mnemonic : String)
  deriving DecidableEq, Repr

/-- The reasons a command is refused by the model. -/
inductive Refusal where
  /-- Raised by a dispatch arm whose command has no meaning in the model. Safe: no claim can be proved of it. -/
  | notModelled (mnemonic : String)
  deriving DecidableEq, Repr

/-! ## Cores -/

/-- A line of L1D or L1I, held under set × ways + way (R349, R352). -/
structure L1Line where
  line : Nat
  data : BitVec 512
  dirty : Bool := false
  poison : Bool := false
  /-- A latent error stands in the line: true when it is uncorrectable (R352). -/
  upset : Option Bool := none
  deriving DecidableEq, Repr

/-- An issued and uncompleted MMA with the formats it was issued with (R265, R280, R281). -/
structure MmaOp where
  acc : Nat
  a : Nat
  b : Nat
  fa : Nat
  fb : Nat
  mx : Bool
  spa : Bool
  cz : Bool
  deriving DecidableEq, Repr

/-- An op in a work slot, on a ready list or on hold: its graph entry, index and descriptor (R433, R444). -/
structure OpRef where
  graph : Nat
  index : Nat
  desc : Nat
  prio : Nat
  task : Nat
  entry : Nat
  cmask : Nat
  deriving DecidableEq, Repr

/-- What a core that retires no instruction waits for (R400, R401). -/
inductive Wait where
  | none
  /-- A line missing in L1D (R351). -/
  | line (addr : Nat)
  /-- A blocking bead, counter or Filigree operation whose waiter stands at the home or channel (R415, R420). -/
  | sync
  /-- WEND accepted by the core, the end not yet accepted by the dispatcher (R448). -/
  | opEnd
  deriving DecidableEq, Repr

/-- The context that pre-emption saves in scratch is restored from there; what stays in the core is the op (R446). -/
structure Core where
  x : NMap DWord := []
  pc : DWord := 0
  machine : Bool := true
  mstatus : DWord := 0
  mie : DWord := 0
  mip : DWord := 0
  mtvec : DWord := 0
  mscratch : DWord := 0
  mepc : DWord := 0
  mcause : DWord := 0
  mtval : DWord := 0
  mcounteren : DWord := 0
  mcountinhibit : DWord := 0
  mxfmt : BitVec 10 := 0
  mxflags : BitVec 5 := 0
  vcfg : BitVec 19 := 0
  vflags : BitVec 6 := 0
  syncst : BitVec 5 := 0
  taskid : BitVec 12 := 0
  /-- The CSR minstret, which software writes and mcountinhibit stops; the page's INSTRET is a counter of its own (R284). -/
  minstret : DWord := 0
  /-- LR reservation: physical address and size (R249). -/
  resv : Option (Nat × Nat) := none
  /-- No op is active and the firmware has ended its op: nothing is retired until the next op (R255). -/
  idle : Bool := false
  /-- Executing in machine mode after an exception (R285). -/
  inTrap : Bool := false
  /-- Halted by debug, and the one instruction that STEP allows (R285). -/
  dbgHalt : Bool := false
  stepping : Bool := false
  /-- Clocks gated by a long wait (R427). -/
  gated : Bool := false
  /-- The present wait has been reported by the hang watch (R428). -/
  hangSeen : Bool := false
  wait : Wait := .none
  tiles : NMap (BitVec 4096) := []
  scales : NMap (BitVec 256) := []
  accs : NMap (BitVec 8192) := []
  vslots : NMap (BitVec 8192) := []
  masks : NMap (BitVec 1024) := []
  tileBad : List Nat := []
  accBad : List Nat := []
  vBad : List Nat := []
  maskBad : List Nat := []
  /-- Pending marks of tile slots: slot and stream engine × 65,536 + descriptor serial (R398). -/
  pend : List (Nat × Nat) := []
  mmaQ : List MmaOp := []
  l1d : NMap L1Line := []
  l1dLru : NMap (BitVec 7) := []
  l1i : NMap L1Line := []
  /-- Lines missed in L1D, oldest first: the first 16 are outstanding, those beyond wait; each with whether its request was
  streaming (R351, R355). -/
  misses : List (Nat × Bool) := []
  /-- The load that follows a fill is the one that missed (R351). -/
  replay : Bool := false
  active : Option OpRef := none
  /-- The active op has started its kernel (R254). -/
  started : Bool := false
  prefetched : Option OpRef := none
  preempted : Option OpRef := none
  /-- The op that waits for this core's prefetched slot (R443). -/
  hold : Option OpRef := none
  /-- An op's end reported and not yet taken by the dispatcher: op and status (R255, R448). -/
  ended : List (OpRef × Nat) := []
  /-- A slot was marked poisoned during the active op (R442). -/
  opPoison : Bool := false
  /-- The same of the pre-empted op. -/
  prePoison : Bool := false
  /-- Declared ranges: first object address and count (R423). -/
  ranges : List (Nat × Nat) := []
  /-- Filigree: channel and the phase of the core's last arrival not yet waited for; 65536 stands for an arrival whose phase
  broke off, 65537 for one whose phase was released before its channel restarted (R420, R422). -/
  fgSeen : List (Nat × Nat) := []
  /-- Entries of a blocking SCI or STI still to be placed: address and count (R274). -/
  placing : Option (Nat × Nat) := none
  /-- The bytes of those entries, read at issue (R259, R274). -/
  placeData : List Byte := []
  /-- A blocking SCI or STI that has passed its checks waits for room and has placed nothing (R259, R274, R288). -/
  stalled : Bool := false
  /-- The bits of the engine instruction that waits at the pc: it is the next to issue or to go on (R274, R417). -/
  midway : Option Nat := none
  /-- The update fence that a FENCE.S of device or global scope waits for: stack and serial (R417). -/
  fencing : Option (Nat × Nat) := none
  deriving DecidableEq, Repr

/-! ## Clusters -/

/-- A line of L2, held under (slice × 1,024 + set) × 16 + way (R353, R355). -/
structure L2Line where
  line : Nat
  data : BitVec 512
  dirty : Bool := false
  age : Nat := 0
  poison : Bool := false
  /-- Brought by a prefetch and not used yet (R377 PFUSE). -/
  pf : Bool := false
  /-- A latent error stands in the line: true when it is uncorrectable (R374, R376). -/
  upset : Option Bool := none
  deriving DecidableEq, Repr

/-- A stride detector of a slice (R358, R359). -/
structure Detector where
  requester : Nat
  last : Nat
  stride : Int := 0
  seen : Nat := 0
  used : Nat := 0
  deriving DecidableEq, Repr

/-- A bead (R408). -/
structure Bead where
  value : DWord := 0
  st : Nat := 0
  ovf : Bool := false
  owner : Nat := 0
  found : Bool := false
  deriving DecidableEq, Repr

/-- An event counter (R408). -/
structure Ctr where
  value : Nat := 0
  st : Nat := 0
  sat : Bool := false
  owner : Nat := 0
  found : Nat := 0
  deriving DecidableEq, Repr

/-- What a waiter waits for (R413, R416). -/
inductive WaitKind where
  | bst (value : DWord) | bld | cwait (threshold : Nat)
  deriving DecidableEq, Repr

/-- A waiter entry at a home: the waiting core, the object, the destination register (R415). -/
structure Waiter where
  core : Nat
  obj : Nat
  kind : WaitKind
  rd : Nat
  deriving DecidableEq, Repr

/-- A message to a home's inbox: a release of a successor (its launch's serial, its descriptor and index), or a ready op
placed on this cluster (R439, R440). -/
inductive SchMsg where
  | release (launch : Nat) (desc : Nat) (index : Nat)
  | place (op : OpRef)
  deriving DecidableEq, Repr

/-- An accumulating write that has reached a slice: physical address, operation (0 add, 1 maximum, 2 minimum), FP32
elements, poison (R91, R363). -/
structure AccWrite where
  addr : Nat
  op : Nat
  elems : List Nat
  poison : Bool
  /-- The Sorus command it serves (R93). -/
  tag : Nat := 0
  deriving DecidableEq, Repr

/-- The state of a cluster, as its home (R353, R407, R443). -/
structure Home where
  l2 : NMap L2Line := []
  /-- The contents have been undefined since the device reset and nothing has looked at them (R370, R373; log entry 10). -/
  l2Fresh : Bool := true
  /-- Lines missed, oldest first: line × 8, plus 4 for a prefetch, plus the age at which the line enters. The first 64 of a
  slice are outstanding, those beyond wait (R357). -/
  l2Miss : List Nat := []
  detectors : NMap (List Detector) := []
  detClock : Nat := 0
  /-- The carve in effect (R360). -/
  carve : Nat := 0
  /-- Disabled ways, as slice × 16 + way (R374). -/
  wayOff : List Nat := []
  /-- Scratch ways that stand in another way: slice × 16 + nominal way to the way used (R374). -/
  carveSub : NMap Nat := []
  /-- Corrected errors of a way: count, and when its window opened (R374). -/
  ceWin : NMap (Nat × Nat) := []
  invOk : Bool := false
  mbusy : Bool := false
  beads : NMap Bead := []
  ctrs : NMap Ctr := []
  waiters : List Waiter := []
  ready : List OpRef := []
  /-- Ops whose affinity hold expired, placed before their peers (R443). -/
  expired : List OpRef := []
  inbox : List SchMsg := []
  /-- Messages the dispatcher holds, in order: destination home, whether its full inbox has been counted, message (R448,
  R449). -/
  held : List (Nat × Bool × SchMsg) := []
  accQ : List AccWrite := []
  deriving DecidableEq, Repr

/-- A Filigree channel (R419 to R422). -/
structure FgChanState where
  phase : Nat := 0
  arrived : List Nat := []
  broken : Bool := false
  /-- Cores waiting: core, destination register, and whether it waits to arrive again (R420). -/
  waiters : List (Nat × Nat × Nat) := []
  /-- Commands in the participating stacks' queues when the last core arrived: stack and serial (R421). -/
  covers : List (Nat × Nat) := []
  deriving DecidableEq, Repr

/-- A tile on its way to a slot of the core at position `hop` of its path (R391, R398). -/
structure TileMove where
  k : Nat
  hop : Nat
  data : BitVec 4096
  scale : Option (BitVec 256)
  poison : Bool
  /-- Bits of each line, and of the scale area, that the tile writes (R310). -/
  fill : Nat := 256
  sfill : Nat := 256
  deriving DecidableEq, Repr

/-- A stream descriptor in a queue or at work: its 64 bytes as a number, where it was read, and the priority of the op
that issued it (R384, R392). -/
structure SDesc where
  serial : Nat
  raw : Nat
  addr : Nat
  prio7 : Bool
  /-- Units complete (R393). -/
  pos : Nat := 0
  /-- The signal's physical address, translated at the start (R397). -/
  sig : Option Nat := none
  /-- The path of a Chain (R391). -/
  path : List Nat := []
  moves : List TileMove := []
  /-- Tiles read (R392). -/
  sent : Nat := 0
  /-- Offset of the next bitmap tile (R389). -/
  next : Nat := 0
  poison : Bool := false
  /-- Status and reason once every unit is done (R396). -/
  ended : Option (Nat × Nat) := none
  /-- Remote reads still to come, and the last packet of the stream's writes to another module (R386). -/
  remote : Nat := 0
  rflow : Option (FlowKey × Nat) := none
  deriving DecidableEq, Repr

/-- A stream engine (R381, R393). -/
structure SEng where
  queue : List SDesc := []
  work : List SDesc := []
  halt : Option Nat := none
  serial : Nat := 0
  /-- The core whose blocking STI has placed some of its descriptors (R382). -/
  placer : Option Nat := none
  /-- An address that did not translate: its descriptor, the address, whether a write. The engine issues nothing until what
  was issued has completed, then halts (R393). -/
  fault : Option (Nat × Nat × Bool) := none
  deriving DecidableEq, Repr

/-- A graph launched and not completed (R436 to R438). -/
structure Graph where
  queue : Nat
  cid : Nat
  header : Nat
  nops : Nat
  opBase : Nat
  ktab : Nat
  roots : List Nat
  ended : Nat := 0
  /-- Reason and status of the first end that was not OK (R450). -/
  bad : Option (Nat × Nat) := none
  /-- Names this launch for the releases under way (R440). -/
  serial : Nat := 0
  /-- The next root has been counted as held by a full inbox (R449). -/
  rootHeld : Bool := false
  deriving DecidableEq, Repr

/-! ## Memory -/

/-- Bytes that the spec leaves undefined since some event: addresses `lo` to `hi` − 1, and the number of the event
(R360, R460). -/
structure Junk where
  lo : Nat
  hi : Nat
  gen : Nat
  deriving DecidableEq, Repr

/-- A memory channel: a pseudo-channel or Rhizome channel (R471 to R474, R484). -/
structure Chan where
  /-- 0 ready, 1 held by a slot, 2 retraining, 3 failed. -/
  st : Nat := 0
  attempts : Nat := 0
  /-- Retrain asked for the next calibration slot (R471). -/
  asked : Bool := false
  /-- A retrain started from a slot (R471). -/
  fromSlot : Bool := false
  /-- LINKERR's rise within the frame of this number (R471). -/
  errs : Nat := 0
  errFrame : Nat := 0
  deriving DecidableEq, Repr

/-- A cached translation: the agent that holds it (clusters 0 to 31, stacks 32 to 47, stream engines 64 to 319, hub
320), the page's virtual and physical base, its size and attributes (R639, R640). -/
structure TlbEntry where
  agent : Nat
  va : Nat
  pa : Nat
  size : Nat
  w : Bool
  x : Bool
  c : Bool
  strm : Bool
  deriving DecidableEq, Repr

/-! ## Power, clocks, boot -/

/-- A request for a self-test or calibration waiting for its slot (R587, R622). -/
structure SlotReq where
  queue : Nat
  cid : Nat
  code : Nat
  unit : Nat
  result : Nat
  total : Nat
  run : Nat := 0
  fails : Nat := 0
  first : Option Nat := none
  deriving DecidableEq, Repr

/-- What a placement agent still has to do in its slot 7: the version it works on, its promotion candidates, its demotion list, and
how many moves it may still make (R180). -/
structure PlaceJob where
  tid : Nat
  epoch : Nat
  rows : List Nat
  dem : List Nat
  left : Nat
  deriving DecidableEq, Repr

/-- Pins, clocks, power and the maintenance frame (R16 to R23, R571 to R594). -/
structure Power where
  /-- The pins PWR_EN, PWRGD, PERST_N (asserted) and RST_REQ_N (driven low); power is applied to the rails (R16 to R20). -/
  pwrEn : Bool := true
  powered : Bool := true
  pwrgd : Bool := true
  perst : Bool := true
  rstReq : Bool := false
  /-- The pins of the management cores' console, idle high (R14, R17; log entry 136). -/
  uartTx : Bool := true
  uartRx : Bool := true
  /-- Each reference is valid; the root PLL is locked, runs on REFCLK_PCIE, or runs in holdover (R571, R573). -/
  rackValid : Bool := true
  pcieValid : Bool := true
  locked : Bool := true
  refPcie : Bool := false
  holdover : Bool := false
  /-- Clock-A ratio k of each home (R572, R577). -/
  k : NMap Nat := []
  /-- Rail of each home in mV (R575). -/
  rail : NMap Nat := []
  /-- Homes whose clock-A cycles are stretched, and since when (R574). -/
  droop : NMap Nat := []
  /-- Issue held for a fraction num / den of each period (R577). -/
  issueHold : NMap (Nat × Nat) := []
  /-- Temperature and level of each sensor (R579). -/
  temp : NMap Nat := []
  level : NMap Nat := []
  /-- The last hundred measurements of the input power in W, the newest first: one millisecond; the sum and the number of those
  of this frame (R576, R590, R594). -/
  inputs : List Nat := []
  frameIn : Nat × Nat := (0, 0)
  /-- Input power in W, capping active, fast limit in force (R576 to R578). -/
  inputW : Nat := 0
  capping : Bool := false
  fast : Bool := false
  /-- Input energy since device reset in µJ (R593). -/
  energy : Nat := 0
  /-- The frame number; the frame boundaries counted; the timestamp was loaded and the sequencer resumes where it says; the
  current slot (R581). -/
  frame : Nat := 0
  bounds : Nat := 0
  resync : Bool := false
  slot : Nat := 0
  /-- The slot that starts next; 16 when only a frame boundary is to come (R581). -/
  next : Nat := 0
  /-- A slot holds a resource now (R582). -/
  holding : Bool := false
  /-- Next resource of each rotation (R582). -/
  rot : NMap Nat := []
  /-- The slots enabled in this frame (R586). -/
  slotEn : BitVec 11 := 0x7FF
  /-- Requests for calibrations, tests and snapshots, in arrival order (R587, R594). -/
  cals : List SlotReq := []
  tests : List SlotReq := []
  /-- The chunk of a test that runs in this slot, as the test stands after it (R585, R587). -/
  chunk : Option SlotReq := none
  /-- The half-slice that the cache scrub holds: home × 32 + slice × 2 + half (R582, R583). -/
  scrub : Option Nat := none
  snaps : List (Nat × Nat × Nat) := []
  /-- Frames since the last automatic snapshot (R594). -/
  autoCount : Nat := 0
  /-- The frame boundary of the last tracker ageing (R178), and the work of the placement agents by die (R180). -/
  aged : Nat := 0
  place : NMap PlaceJob := []
  deriving DecidableEq, Repr

/-- Boot, identity and debug (R595 to R625). -/
structure Boot where
  fuses : List Byte := []
  state : Nat := 0
  lastErr : Nat := 0
  clusters : BitVec 32 := 0
  stackSet : BitVec 16 := 0
  links : BitVec 16 := 0
  links4 : BitVec 16 := 0
  /-- Lanes bad at boot, link × 8 + lane (R601). -/
  badLanes : List Nat := []
  /-- HBM channels mapped out, stack × 32 + channel (R475). -/
  hchOut : List Nat := []
  rhzMapped : BitVec 96 := 0
  /-- Link dies 0 to 7, then Rhizome PHY dies, that the boot disabled (R601). -/
  diesOff : BitVec 12 := 0
  /-- Rate code of each Rhizome PHY die (R453). -/
  rates : List Nat := []
  /-- Physical core of each logical core (R602). -/
  phys : NMap Nat := []
  defects : List Word := []
  newDef : Nat := 0
  /-- The manifest copy the hub holds (R610). -/
  manifest : List Byte := []
  pubkey : List Byte := []
  bundle : Nat := 0
  loaded : Bool := false
  fetched : List (Nat × Nat) := []
  /-- The sections in the units' own memories, by kind and id (R613). -/
  fwMem : List ((Nat × Nat) × List Byte) := []
  imgBase : Nat := 0
  imgMib : Nat := 0
  pprDone : Nat := 0
  pprSkip : Nat := 0
  /-- A JOB_FATAL or DEVICE_FATAL event was raised since READY (R611). -/
  fatalSince : Bool := false
  nonce : Option (List Byte) := none
  unlocked : BitVec 2 := 0
  doeResp : List Byte := []
  errUnit : Word := 0
  bootMs : Nat := 0
  deriving DecidableEq, Repr

/-! ## Host queues and faults -/

/-- A fetched host command of a queue, accepted or completed, until its completion is posted (R645, R646). -/
structure HCmd where
  cid : Nat
  raw : Nat
  sqHead : Nat
  started : Bool := false
  /-- Status, reason, result. -/
  done : Option (Nat × Nat × Nat) := none
  /-- The id lies in the window: the entry reports how the earlier command ended (R652). -/
  dup : Bool := false
  /-- Order of fetching across the queues: the model's own (R654). -/
  seq : Nat := 0
  deriving DecidableEq, Repr

/-- A queue pair (R642 to R652). -/
structure HostQ where
  sqHead : Nat := 0
  sqTail : Nat := 0
  cqHead : Nat := 0
  cqTail : Nat := 0
  phase : Bool := true
  /-- The last 4,096 command ids accepted, newest first, with the status and reason they ended with. -/
  window : List (Nat × Option (Nat × Nat)) := []
  cmds : List HCmd := []
  deriving DecidableEq, Repr

/-- A fault event (R569). -/
structure Event where
  cls : Nat
  reason : Nat
  btype : Nat
  inst : Nat
  unit : Nat := 0xFFFF
  dur : Nat := 0
  addr : Option Nat := none
  /-- Timestamp of its detection where the record is written later, at the end of the recovery. -/
  time : Option Nat := none
  deriving DecidableEq, Repr

/-- A recovery in progress (R556, R568): the event it ends with, when it began, the packets whose delivery ends it. -/
structure Recovery where
  event : Event
  since : Nat
  waits : List (FlowKey × Nat)
  deriving DecidableEq, Repr

/-- Fault state (R560 to R569). -/
structure Ras where
  seq : Word := 0
  /-- JOB_FATAL events raised and not yet taken by the halt. -/
  fatals : List Event := []
  halted : Bool := false
  dfatal : Bool := false
  /-- FATALINFO holds an event of the time since the halt last ended (R560, R568). -/
  noted : Bool := false
  /-- Failovers and detours in progress (R556, R568). -/
  recov : List Recovery := []
  deriving DecidableEq, Repr

/-! ## Links -/

/-- A lane drop in progress (R494, R556): the lane, when it was declared, and once the link is `UP` again the last flit resent. -/
structure LaneDrop where
  lane : Nat
  since : Nat
  last : Option Nat := none
  deriving DecidableEq, Repr

/-- A link (R488 to R496). -/
structure Link where
  /-- DOWN 0, TRAIN 1, DISCOVER 2, CHECKED 3, UP 4, EQSTEP 5 (R493). -/
  st : Nat := 0
  x4 : Bool := false
  half : Nat := 0
  failed : Byte := 0
  held : Bool := false
  v2 : Bool := false
  retryTrain : Bool := false
  cls : Nat := 0
  pair : Option Nat := none
  peer : Option PeerInfo := none
  /-- Unacknowledged data flits, oldest first: LSEQ and bytes (R490). -/
  retry : List (Nat × List Byte) := []
  txSeq : Nat := 0
  rxSeq : Nat := 0
  lastAck : Nat := 0
  nakOut : Bool := false
  /-- A negative acknowledgement that came while data flits paused: its LSEQ (R490, R495). -/
  nakIn : Option Nat := none
  resends : Nat := 0
  /-- The peer has been granted this link's receive buffers (R492). -/
  granted : Bool := false
  /-- When the link went DOWN, until its failover is done (R496, R552). -/
  fell : Option Nat := none
  drop : Option LaneDrop := none
  credits : NMap Nat := []
  /-- Packets waiting for credit: virtual lane and packet (R492). -/
  waitPkts : List (Nat × Packet) := []
  /-- Body bytes received of a packet not yet complete, by virtual lane (R489). -/
  rxPart : NMap (List Byte) := []
  /-- Packets received whole and not yet taken: virtual lane and packet. -/
  rxPkts : List (Nat × Packet) := []
  /-- The neighbour has echoed the abort here (R544). -/
  echoed : Bool := false
  offsets : List Int := []
  deriving DecidableEq, Repr

/-- A flow at its sender (R504, R505). -/
structure FlowTx where
  key : FlowKey
  next : Nat := 1
  /-- Unacknowledged packets, oldest first, with how often each was resent. -/
  unacked : List (Packet × Nat) := []
  link : Option Nat := none
  deriving DecidableEq, Repr

/-- A flow at its receiver (R506 to R508). -/
structure FlowRx where
  key : FlowKey
  high : Nat := 0
  held : List Packet := []
  die : Nat := 0
  /-- Delivered and not acknowledged. -/
  owed : Nat := 0
  deriving DecidableEq, Repr

/-- A formed slice (R511 to R514). -/
structure SliceInfo where
  origin : Coord
  extent : BitVec 21
  v2 : Bool
  remote : Bool
  detour : Bool
  rank : Nat
  sig : List Byte
  deriving DecidableEq, Repr

/-- Topology and time (R499 to R521). -/
structure Top where
  plan : Option (List Byte) := none
  slice : Option SliceInfo := none
  /-- A JOB_FORM that waits for the whole slice (R513 step 6): the slice it would form. -/
  forming : Option SliceInfo := none
  detours : NMap Word := []
  decls : List Nat := []
  slew : Int := 0
  rackCorr : Int := 0
  corrFrom : Option Nat := none
  /-- Directions whose traffic follows the detour table since they lost their last link (R502, R552). -/
  detourOn : List Nat := []
  /-- RACK_SYNC is missing; links whose offset is beyond bound (R518). -/
  noSync : Bool := false
  /-- Cause of the slice's first abort since its formation (R544). -/
  abortCause : Option Nat := none
  /-- Packets addressed to this module that no flow check has taken yet, with the link die they came by (R508). -/
  dest : List (Packet × Nat) := []
  /-- The JOB_FORM that waits, or the JOB_ABORTs that do, oldest first: queue and command id. -/
  host : List (Nat × Nat) := []
  /-- Reports that a version has drained at another module: rank, table and epoch (R174). -/
  drained : List (Nat × Nat × Nat) := []
  /-- SLOW packets are relayed until SLOW_RELAY_END (R540). -/
  slowRelay : Bool := false
  /-- When the last packet with SLOW came (R540). -/
  slowAt : Nat := 0
  deriving DecidableEq, Repr

/-- What leaves the module, newest first: the model's own record. -/
inductive Output where
  | packet (link : Nat) (p : Packet)
  | flit (link : Nat) (b : List Byte)
  | tlp (addr : Nat) (data : List Byte) (poisoned : Bool)
  | bar2 (data : List Byte) (poisoned : Bool)
  | unsupported (off : Nat)
  | smbus (v : Word)
  | nak (link : Nat) (lseq : Nat)
  | aer (cause : Nat)
  | correction (link : Nat) (ns : Int) (edge : Nat)
  | credit (link vl n : Nat)
  | discovery (link serial coord port : Nat) (v2 : Bool)
  | time (link ns : Nat)
  deriving DecidableEq, Repr

/-- An operation that a register write started and that waits for a channel: an operation of an L2's MAINT on a run of lines or
on every line, the disabling of an L2, PLAN_LOAD, DETLOAD (R366, R372, R473, R503, R509). -/
inductive HeldOp where
  | maint (h : Nat) (op : RangeOp) (lines : Option (Nat × Nat))
  | l2off (h : Nat)
  | plan
  | det
  deriving DecidableEq, Repr

/-! ## Sorus stacks, engines and PHY dies -/

/-- A row of a table version at a physical address, with its FP32 weight; for one half of a composed row, the ordinal of
the composed row and whether this is the remainder half (R80, R87, R158). -/
structure RowRef where
  pa : Nat
  tid : Nat
  epoch : Nat
  row : Nat
  fmt : Nat
  nelem : Nat
  bytes : Nat
  w : Nat
  comp : Option (Nat × Bool) := none
  /-- The stack that holds or serves the row (R163). -/
  srv : Nat := 0
  /-- Its ordinal among the rows of its bag: a row may stand in a bag more than once (R81). -/
  occ : Nat := 0
  deriving DecidableEq, Repr

/-- A row on another module: its owner's coordinate, the table and epoch it resolves under there, its weight, and for one
half of a composed row which it is (R158, R163). -/
structure RemRow where
  coord : Nat
  tid : Nat
  epoch : Nat
  row : Nat
  w : Nat
  comp : Option (Nat × Bool)
  deriving DecidableEq, Repr

/-- A sector read request of a bag held at a server; `first` marks the row's first request at its unit (R79, R81). -/
structure Req where
  unit : Nat
  sector : Nat
  srv : Nat
  bag : Nat
  row : RowRef
  first : Bool
  /-- Its bandwidth class (R462). -/
  cls : Nat := 3
  deriving DecidableEq, Repr

/-- A composed row being formed from its two halves (R158). -/
structure Comp where
  q : NMap Nat := []
  r : NMap Nat := []
  left : Nat
  qlen : Nat
  op : Nat
  w : Nat
  deriving DecidableEq, Repr

/-- Where a bag's result goes: its destination row; accumulating writes into it (R90 to R92); the merge tree that holds
the lead's bag (R218, R478); the module that asked for it (R222). -/
inductive Sink where
  | row
  | acc
  | bag (stack uid : Nat)
  | far
  deriving DecidableEq, Repr

/-- An open output row or partial of a command at a server (R88, R219). -/
structure Bag where
  uid : Nat
  cmd : Nat
  lead : Nat
  /-- Offset of a raw row in its first sector. -/
  pos : Nat
  n : Nat
  /-- POOL 0 to 5; 6 a converting, 7 a raw GATHER. -/
  kind : Nat
  nelem : Nat
  ofmt : Nat
  dst : Nat
  bytes : Nat
  sink : Sink
  /-- Requests, sub-commands and chunks not joined yet. -/
  left : Nat := 0
  /-- Partials by engine: element to FP32 pattern. -/
  parts : NMap (NMap Nat) := []
  /-- Partials that join at the root, in arrival order. -/
  extra : List (NMap Nat) := []
  comps : NMap Comp := []
  /-- Sectors of a raw row. -/
  raw : NMap Nat := []
  poison : Bool := false
  /-- A fault leaves the row unwritten (R73, R82, R199). -/
  nowrite : Bool := false
  /-- Headers of row-quantised rows that have arrived, by the row's ordinal, and the sectors whose elements wait for theirs:
  request, the elements' codes, poison (R81). -/
  hdrs : NMap Nat := []
  unread : List (Req × NMap Nat × Bool) := []
  /-- Ordinals given to rows so far. -/
  ords : Nat := 0
  /-- Of a hub's row: chunks not yet expanded, and the rows found on other modules so far (R217, R222). -/
  chunksLeft : Nat := 0
  far : List RemRow := []
  /-- It has counted as a split bag, as a remote bag (R93). -/
  split : Bool := false
  remote : Bool := false
  deriving DecidableEq, Repr

/-- A sub-command for a server: rows of a bag to pool there, and where the partial goes (R90, R478). -/
structure SubCmd where
  cmd : Nat
  lead : Nat
  bag : Nat
  n : Nat
  kind : Nat
  nelem : Nat
  ofmt : Nat
  dst : Nat
  sink : Sink
  rows : List RowRef
  deriving DecidableEq, Repr

/-- A chunk of a hub vertex: edge positions `lo` to `hi` − 1, and the neighbours that pool with their weights, each read once
(R214, R217, R223). -/
structure Chunk where
  cmd : Nat
  lead : Nat
  bag : Nat
  lo : Nat
  hi : Nat
  edges : List (Nat × Nat)
  deriving DecidableEq, Repr

/-- An output row of a graph command that no merge tree holds yet: its number, its seed's position, the vertices whose rows it
pools with their weights, the weights of its zero rows, n, and for a hub its first edge position and its edges: neighbour,
weight, whether it pools (R206, R214, R219). -/
structure RowSpec where
  out : Nat
  seed : Nat
  rows : List (Nat × Nat) := []
  zeros : List Nat := []
  n : Nat := 0
  poison : Bool := false
  hub : Option (Nat × List (Nat × Nat × Bool)) := none
  deriving DecidableEq, Repr

/-- What a remote part serves: the asking module's coordinate, the server that holds the bag there, the lead's command, the
bag, its destination's virtual address there, and the half of a composed row (R90, R158, R222). -/
structure RemPart where
  coord : Nat
  lead : Nat
  serial : Nat
  uid : Nat
  dst : Nat
  tag : Nat
  deriving DecidableEq, Repr

/-- A Sorus command in a queue or accepted: who placed it, what it carries, what it has come to (R59 to R101). -/
structure SCmd where
  serial : Nat
  queue : Nat
  raw : Nat
  /-- Streamed index packets that have arrived, and how many are still to come (R70). -/
  stream : List Byte := []
  missing : Nat := 0
  src : Nat
  epoch : Nat
  /-- The update packet's number to this stack (R131). -/
  seq : Nat := 0
  /-- What a fence carries: receiver and last number sent (R141). -/
  carried : List (Nat × Nat) := []
  /-- Versions bound, as table id and epoch; a composed table's two follow it (R170). -/
  vers : List (Nat × Nat) := []
  stat : Option Nat := none
  sig : Option Nat := none
  /-- log2 of H at acceptance, and the graph descriptor's copy (R197, R215). -/
  hlog : Nat := 12
  graph : Nat := 0
  started : Bool := false
  todo : List Req := []
  chunks : List (Nat × Chunk) := []
  /-- Output rows opened later, when the merge tree has room (R219). -/
  waiting : List RowSpec := []
  /-- Sub-commands, remote parts and chunks that the command still waits for (R93). -/
  left : Nat := 0
  rows : Nat := 0
  oob : Nat := 0
  firstpos : Option Nat := none
  reason : Nat := 0
  fault : Bool := false
  poisoned : Bool := false
  aborted : Bool := false
  /-- An address did not translate: nothing more is written (R64). -/
  stop : Bool := false
  refused : Option Nat := none
  /-- Fence: receivers that have not reported, and the serial that bounds what ALLSRC covers (R140, R141). -/
  waitFor : List Nat := []
  bound : Nat := 0
  /-- Flow packets whose acknowledgement the command waits for (R116): flow and number. -/
  flows : List (FlowKey × Nat) := []
  /-- A host MIGRATE that this command serves: queue and command id (R150). -/
  host : Option (Nat × Nat) := none
  /-- A fence that another module sent: its coordinate, lead stack and command (R141). -/
  reply : Option (Nat × Nat × Nat) := none
  /-- A remote part that this entry serves for another module (R173, R222). -/
  part : Option RemPart := none
  /-- The routed dispatch that issued it (R237). -/
  disp : Option Nat := none
  /-- A frozen shard stopped it, and it has been counted (R164). -/
  froze : Bool := false
  deriving DecidableEq, Repr

/-- A server: a stack (0 to 15), or a PHY die (16 to 19) that serves sub-commands (R54, R478). -/
structure Server where
  /-- Command queues: entries waiting, oldest first. -/
  queues : NMap (List SCmd) := []
  /-- Accepted commands, oldest first. -/
  cmds : List SCmd := []
  bags : List Bag := []
  /-- Requests of sub-bags that no routing context has placed yet. -/
  todo : List Req := []
  subs : List SubCmd := []
  /-- The queue served last at each priority, for the round-robin of R58; none yet: 63. -/
  rr : NMap Nat := []
  fenced : Bool := false
  /-- LASTACT of R228. -/
  lastAct : Nat := 0
  deriving DecidableEq, Repr

/-- A DRAM read in flight with the requests it will serve; `comb` when it holds a read-combining entry (R84, R85). -/
structure Flight where
  sector : Nat
  reqs : List Req
  comb : Bool
  deriving DecidableEq, Repr

/-- A read-combining entry: sector, requests entered when it was allocated, whether its data is back, its poison (R85). -/
structure RctEntry where
  sector : Nat
  at_ : Nat
  back : Bool := false
  poison : Bool := false
  deriving DecidableEq, Repr

/-- The issuer of an update: source id, epoch, serial of the command it came from; of a remote flow its packet's number, and the
serial of its acceptance (R129, R140, R141). -/
structure Origin where
  src : Nat
  epoch : Nat
  serial : Nat
  num : Nat := 0
  deriving DecidableEq, Repr

/-- What updates combine by: operation (0 add, 1 maximum, 2 minimum), arithmetic type (format code, or 16 for INT64),
stochastic rounding (R122). -/
structure UKey where
  op : Nat
  ty : Nat
  sr : Bool
  deriving DecidableEq, Repr

/-- A sector update: values by element of the sector (R123). -/
structure UReq where
  unit : Nat
  sector : Nat
  key : UKey
  vals : NMap Nat
  nocomb : Bool
  tid : Nat
  ver : Nat
  org : Origin
  /-- The update packet it belongs to: receiver, source, sequence. -/
  pkt : Nat
  pos : Nat
  deriving DecidableEq, Repr

/-- Why an entry is flushed, for the counters of R148. -/
inductive FlushWhy where
  | evict | frame | fence | other
  deriving DecidableEq, Repr

/-- An update-combining entry (R122, R126). -/
structure UEnt where
  sector : Nat
  key : UKey
  vals : NMap Nat
  frame : Nat
  orgs : List Origin
  vers : List (Nat × Nat)
  /-- The first trigger that was met while the entry could not be flushed (R126). -/
  due : Option FlushWhy := none
  deriving DecidableEq, Repr

/-- A heavy-hitter entry (R78, R79). -/
structure HHEnt where
  tid : Nat
  row : Nat
  count : Nat
  error : Nat
  deriving DecidableEq, Repr

/-- A Sorus engine (0 to 511) or PHY die (512 to 515). -/
structure SUnit where
  rq : List Req := []
  uq : List UReq := []
  fly : List Flight := []
  rct : List RctEntry := []
  /-- Read requests entered, for the window of R85. -/
  entered : Nat := 0
  uct : List UEnt := []
  hh : List (Option HHEnt) := []
  chunks : List Chunk := []
  /-- Queue occupancy sampled each microsecond of this frame, and the sum of the last frame (R220). -/
  occ : Nat := 0
  occPrev : Nat := 0
  deriving DecidableEq, Repr

/-- An update packet from its sending until it is acknowledged (R130, R135): 0 on its way, 1 accepted, 2 every sector
update accepted. -/
structure UPkt where
  id : Nat
  src : Nat
  epoch : Nat
  seq : Nat
  rcv : Nat
  /-- The command it serves: lead stack and serial. -/
  lead : Nat
  cmd : Nat
  org : Origin
  ups : List UReq
  open_ : Nat
  st : Nat := 0
  /-- The flow packet that another module sent, until a failure of it has been reported (R145). -/
  back : Option Packet := none
  deriving DecidableEq, Repr

/-- A receiver's source entry (R132): `win` holds the numbers accepted beyond H. -/
structure SeqRx where
  epoch : Nat := 0
  h : Nat := 0
  win : List Nat := []
  valid : Bool := false
  deriving DecidableEq, Repr

/-! ## Tables -/

/-- A shard of a version (R160, R161). -/
structure Shard where
  first : Nat
  base : Nat
  kind : Nat
  frozen : Bool
  whereAt : Nat
  ind : Nat
  deriving DecidableEq, Repr

/-- An installed version: its descriptor's 128 bytes as a number, its shards (R149, R154). -/
structure Version where
  tid : Nat
  epoch : Nat
  desc : Nat
  shards : List Shard
  current : Bool
  /-- The TABLE_RETIREs that wait for it: queue, command id, and whether the whole slice must report (R174). -/
  retire : List (Nat × Nat × Bool) := []
  /-- This module has reported it drained to the slice (R174). -/
  told : Bool := false
  /-- Rows resolved by shard: total, and during this frame (R187). -/
  load : NMap (Nat × Nat) := []
  last : NMap Nat := []
  /-- Clock hand of the placement loop (R180). -/
  hand : Nat := 0
  /-- Where the home copy of a promoted row lies, by row (R177). -/
  homeAt : NMap Nat := []
  deriving DecidableEq, Repr

/-- A placement move between its flip and its drain (R181): rows' old and new addresses; a demotion frees its slot. -/
structure Move where
  tid : Nat
  epoch : Nat
  row : Nat
  src : Nat
  dst : Nat
  bytes : Nat
  /-- The slot that the row takes: of a promotion. -/
  slot : Option Nat := none
  freeSlot : Option Nat
  /-- The row's bytes are copied; the indirection entry has been flipped; when the lock was set (R181, R182). -/
  copied : Bool := true
  flipped : Bool := false
  since : Nat := 0
  /-- The row promoted into the slot that a demotion frees (R180). -/
  next : Option Nat := none
  deriving DecidableEq, Repr

/-- A remote part that waits for an epoch (R173): the server it came to, and the packet. -/
structure EpWait where
  srv : Nat
  tid : Nat
  epoch : Nat
  pkt : Packet
  /-- Serial number of its acceptance, for what a fence covers (R140). -/
  serial : Nat := 0
  deriving DecidableEq, Repr

/-! ## Collectives and dispatches -/

/-- A collective at the head of its queue (R524 to R540). -/
structure Coll where
  /-- Index of its header entry, the header's 64 bytes and a dispatch's body as numbers. -/
  idx : Nat
  hdr : Nat
  body : Nat := 0
  cseq : Nat
  /-- Running within the limit of R525; its source has been read. -/
  running : Bool := false
  begun : Bool := false
  /-- The count table of an all-to-all-v, as it was accepted (R531). -/
  tbl : List (List Nat) := []
  /-- Elements held, by the group rank whose block they belong to; for a direct collective by the rank they go to. -/
  buf : NMap (List Nat) := []
  /-- Destination elements that depend on a poisoned source element (R535). -/
  bad : List Nat := []
  /-- A read of its source has met poison (R535, R553). -/
  poisoned : Bool := false
  /-- Steps done, and whether the present step's data is sent (R532, R533). -/
  step : Nat := 0
  sent : Bool := false
  /-- Payloads taken, by sender's group rank × 2 + ring direction, in order of first arrival. -/
  rx : List (Nat × List (List Byte)) := []
  /-- When the present wait for a peer passes its deadline (R539). -/
  deadline : Option Nat := none
  /-- Status and reason once it has ended. -/
  done : Option (Nat × Nat) := none
  deriving DecidableEq, Repr

/-- A collective queue (R523). -/
structure ColQ where
  head : Nat := 0
  cseq : Nat := 0
  cur : Option Coll := none
  /-- Packets of peers that are ahead (R538). -/
  ahead : List Packet := []
  deriving DecidableEq, Repr

/-- A routed dispatch (R229 to R244). -/
structure Disp where
  queue : Nat
  body : Nat
  /-- Its place in the order of starts (R245). -/
  serial : Nat := 0
  /-- The expert map, read once (R232). -/
  map : List Nat := []
  /-- Sorus commands that it has issued and waits for; the combine is issued (R237). -/
  waits : Nat := 0
  combining : Bool := false
  /-- A Sorus command of it ended `ABORTED` (R242, R243). -/
  aborted : Bool := false
  /-- The wait for this round's release has been reported as a hang (R241, R428). -/
  hangSeen : Bool := false
  /-- What the checks before the exchange found here (R234). -/
  reason : Nat := 0
  /-- Its present waits for peers' data, with their deadlines (R539). -/
  dues : NMap Nat := []
  /-- An address failed to translate; a row read met poison (R242). -/
  failed : Bool := false
  poisoned : Bool := false
  /-- Assignments of this module in send order: expert and slot t × K + j (R237). -/
  order : List (Nat × Nat) := []
  /-- By slice rank: the counts it reported for the experts held here, and what its checks found (R234). -/
  counts : NMap (List Nat) := []
  oks : NMap Nat := []
  /-- By slice rank of a destination: the base positions it returned for its experts, and the rounds it has opened. -/
  bases : NMap (List Nat) := []
  opened : NMap Nat := []
  /-- By slice rank of a destination: the rounds whose rows this module has sent there. -/
  sentTo : NMap Nat := []
  exchanged : Bool := false
  round : Nat := 0
  rounds : Nat := 1
  /-- Rows placed here in this round; the ready increment of this round is made (R237). -/
  placed : Nat := 0
  ready : Bool := false
  /-- Rows returned to this module so far. -/
  returned : Nat := 0
  destDone : Bool := false
  combined : Bool := false
  /-- Bytes of the message that a peer is sending, by its slice rank. -/
  rx : NMap (List Byte) := []
  deriving DecidableEq, Repr

/-! ## The machine -/

/-- The state of the MF-960. -/
structure State where
  /-- Commands that wait, first in, first out: the model's own. -/
  pending : List Instr := []
  /-- How many free values have been taken: the model's own counter. -/
  free : Nat := 0
  /-- The 64-bit nanosecond timestamp on clock T (R516). -/
  now : DWord := 0
  /-- Page registers by BAR0 offset; an unlisted one stands at its reset value (R631). -/
  regs : NMap Word := []
  mem : List Host.Cell := []
  /-- 64-byte sectors that hold the poison check word, by physical address / 64, rising (R467). -/
  poison : List Nat := []
  /-- Sectors of memory and scratch in which a latent error stands: true when it is uncorrectable (R467, R468; log entry
  135). -/
  upsets : NMap Bool := []
  junk : List Junk := []
  hostMem : List Host.Cell := []
  pw : Power := {}
  boot : Boot := {}
  cores : NMap Core := []
  homes : NMap Home := []
  fg : NMap FgChanState := []
  sengs : NMap SEng := []
  graphs : NMap Graph := []
  chans : NMap Chan := []
  /-- Active interleave modes that differ from DIE, by region (R457). -/
  modes : NMap Nat := []
  tlb : List TlbEntry := []
  queues : NMap HostQ := []
  /-- The submission queue fetched from last at each priority, for the round-robin of R645; none yet: 255. -/
  hostRr : NMap Nat := []
  ras : Ras := {}
  links : NMap Link := []
  /-- The number given to the next Sorus command, bag and update packet: the model's own. -/
  serial : Nat := 1
  servers : NMap Server := []
  units : NMap SUnit := []
  upk : List UPkt := []
  /-- Last number sent, by source × 32 + receiver, in the source's present epoch (R131). -/
  seqTx : NMap Nat := []
  seqRx : NMap SeqRx := []
  srcEpoch : NMap Nat := []
  tables : List Version := []
  moves : List Move := []
  epWaits : List EpWait := []
  /-- Versions whose retirement completed: table id and epoch (R173). -/
  retired : List (Nat × Nat) := []
  /-- Stack repair logs and their row trackers: DRAM rows, newest last (R469). -/
  repair : NMap (List Nat) := []
  rowTrack : NMap (List (Nat × Nat)) := []
  cols : NMap ColQ := []
  disps : NMap Disp := []
  /-- Collective packets delivered by the flow check and not yet taken by the engine (R538). -/
  colIn : List Packet := []
  flowTx : List FlowTx := []
  /-- Packets of flows that wait for room in a replay store, oldest first (R505). -/
  flowWait : List Packet := []
  flowRx : List FlowRx := []
  /-- Payloads received so far of messages longer than a packet, by flow. -/
  rxParts : List (FlowKey × List Byte) := []
  /-- Update packets that failed here (R173): their flow and number, and the flow packet that reports it. -/
  upFails : List ((FlowKey × Nat) × (FlowKey × Nat)) := []
  /-- Update commands of other modules that a frozen shard here has stopped: their flow and serial number (R115, R164). -/
  upStops : List (FlowKey × Nat) := []
  top : Top := {}
  /-- MSI-X vectors raised and pending: function (0 PF0, 1 PF1) and vector (R655). -/
  msix : List (Nat × Nat) := []
  /-- Upper halves that reads of lower halves have latched, by BAR0 offset of the _HI register (R406, R516). -/
  latch : NMap Word := []
  /-- BAR2 accesses that wait for a channel, oldest first: device physical address and access (R473, R637). -/
  bar2Wait : List (Nat × Bar2Op) := []
  /-- What waits for a channel that serves nothing now, oldest first (R465, R473). -/
  chanWait : List HeldOp := []
  out : List Output := []
  deriving DecidableEq, Repr

/-- The state right after a device reset: every register at its reset value, nothing placed, nothing cached, the boot in
state ROM with PERST_N still asserted (R567, R597, R657). -/
def State.reset : State := {}

end Sys2Proof.Machine
end

