-- ==== Sys2Proof/Machine/Ops.lean ====
section
/-! DEFINITION. Machine/Ops.lean: the named operations over the state: sparse maps, page registers, the device physical
map, memory and poison, interrupts and fault events. Every family reads and writes the state through these. -/

namespace Sys2Proof.Machine

open Sys2Proof

/-! ## Sparse maps -/

/-- The value of a key, or none. -/
def nfind {α : Type} : NMap α → Nat → Option α
  | [], _ => none
  | (k, v) :: l, i => if k = i then some v else nfind l i

/-- The value of a key, or the default of an unlisted one. -/
def nget {α : Type} (m : NMap α) (i : Nat) (d : α) : α := (nfind m i).getD d

/-- Set the value of a key; the keys stay in rising order. -/
def nset {α : Type} : NMap α → Nat → α → NMap α
  | [], i, v => [(i, v)]
  | (k, w) :: l, i, v => if i = k then (i, v) :: l else if i < k then (i, v) :: (k, w) :: l else (k, w) :: nset l i v

/-- Remove a key. -/
def ndel {α : Type} (m : NMap α) (i : Nat) : NMap α := m.filter fun p => p.1 != i

/-- Replace element `i` of a list. -/
def lset {α : Type} (l : List α) (i : Nat) (v : α) : List α := l.set i v

/-- Add a number to a list that holds each once. -/
def addOnce (l : List Nat) (i : Nat) : List Nat := if l.contains i then l else i :: l

/-! ## Memory cells -/

/-- The byte at an address; an address that no cell lists reads 0 (DESIGN CHOICE, log entry 2). -/
def cellGet : List Host.Cell → Nat → Byte
  | [], _ => 0
  | (k, v) :: l, a => if k = a then v else if a < k then 0 else cellGet l a

/-- Write a byte, keeping the canonical form: addresses strictly rising, no cell holding 0. -/
def cellSet : List Host.Cell → Nat → Byte → List Host.Cell
  | [], a, v => if v = 0 then [] else [(a, v)]
  | (k, w) :: l, a, v =>
    if a = k then (if v = 0 then l else (a, v) :: l)
    else if a < k then (if v = 0 then (k, w) :: l else (a, v) :: (k, w) :: l)
    else (k, w) :: cellSet l a v

/-- The canonical form of a list of cells. -/
def Memory.wf : List Host.Cell → Bool
  | [] => true
  | [(_, v)] => v != 0
  | (k, v) :: (k', v') :: l => v != 0 && decide (k < k') && Memory.wf ((k', v') :: l)

/-- Write consecutive bytes. -/
def cellsSet (m : List Host.Cell) (a : Nat) : List Byte → List Host.Cell
  | [] => m
  | b :: l => cellsSet (cellSet m a b) (a + 1) l

/-- Sorted set of numbers without repeats. -/
def insNat : List Nat → Nat → List Nat
  | [], i => [i]
  | k :: l, i => if i = k then k :: l else if i < k then i :: k :: l else k :: insNat l i

/-- Cut the addresses `lo` to `hi` − 1 out of the undefined ranges. -/
def junkCut (js : List Junk) (lo hi : Nat) : List Junk :=
  js.flatMap fun j =>
    if hi ≤ j.lo || j.hi ≤ lo then [j]
    else (if j.lo < lo then [{ j with hi := lo }] else []) ++ (if hi < j.hi then [{ j with lo := hi }] else [])

/-- The byte at a device physical address, undefined where an event left it so (R360, R460). -/
def State.byte (s : State) (a : Nat) : Byte :=
  match s.junk.find? (fun j => decide (j.lo ≤ a) && decide (a < j.hi)) with
  | some j => Config.freeByte j.gen a
  | none => cellGet s.mem a

/-- `n` bytes from a device physical address. -/
def State.bytes (s : State) (a n : Nat) : List Byte := (List.range n).map fun i => s.byte (a + i)

/-- A little-endian field of memory (R8). -/
def State.memNat (s : State) (a n : Nat) : Nat := ofBytes (s.bytes a n)

/-- Store bytes at a device physical address, marks apart. -/
def State.setBytes (s : State) (a : Nat) (l : List Byte) : State :=
  { s with mem := cellsSet s.mem a l, junk := junkCut s.junk a (a + l.length) }

/-- Leave the contents of a range undefined (R360, R460, R567). -/
def State.makeJunk (s : State) (lo hi : Nat) : State :=
  { s with
    mem := s.mem.filter (fun c => !(decide (lo ≤ c.1) && decide (c.1 < hi)))
    junk := { lo := lo, hi := hi, gen := s.free } :: junkCut s.junk lo hi
    free := s.free + 1 }

/-- The 64-byte sectors that a range of addresses touches. -/
def sectorsOf (a n : Nat) : List Nat :=
  if n = 0 then [] else (List.range ((a + n - 1) / 64 - a / 64 + 1)).map (a / 64 + ·)

/-- Whether any byte of a range lies in a poisoned sector (R376, R467). -/
def State.isPoisoned (s : State) (a n : Nat) : Bool := (sectorsOf a n).any (s.poison.contains ·)

/-- Take a free value (log entry 3). -/
def State.takeFree (s : State) : DWord × State := (Config.freeWord s.free, { s with free := s.free + 1 })

/-! ## Page registers -/

/-- BAR0 offsets of the pages (R630). -/
def pgHub (p : Nat) : Nat := p * 0x1000
def pgCpd : Nat := 0x40000
def pgThl (d : Nat) : Nat := 0x100000 + d * 0x100000
def pgClu (h : Nat) : Nat := 0x101000 + (h / 16) * 0x100000 + (h % 16) * 0x4000
def pgL2c (h : Nat) : Nat := pgClu h + 0x1000
def pgSch (h : Nat) : Nat := pgClu h + 0x2000
def pgSyn (h : Nat) : Nat := pgClu h + 0x3000
def pgStk (x : Nat) : Nat := 0x400000 + x * 0x10000
def pgCol (i : Nat) : Nat := 0x500000 + i * 0x10000
def pgLnk (l : Nat) : Nat := 0x500000 + (l / 2) * 0x10000 + (1 + l % 2) * 0x1000
def pgRhz (i : Nat) : Nat := 0x580000 + i * 0x10000
def pgQue (q : Nat) : Nat := 0x600000 + q * 0x1000
def pgMmu : Nat := 0x700000
def pgTel : Nat := 0x701000
def pgRas : Nat := 0x702000
def pgTbl : Nat := 0x703000
def pgDsp : Nat := 0x704000
def pgMem : Nat := 0x705000
def pgTop : Nat := 0x706000
def pgCor (c : Nat) : Nat := 0x1000000 + c * 0x1000
def pgSor (e : Nat) : Nat := 0x1800000 + e * 0x1000

/-- The blocks that own pages (R632). -/
inductive Block where
  | hub | cpd | thl | clu | l2c | sch | syn | stk | sor | lnk | col | rhz | que | mmu | tel | ras | tbl | dsp | mem
  | top | cor
  deriving DecidableEq, Repr

/-- Block type code (R632). -/
def Block.code : Block → Nat
  | .hub => 1 | .cpd => 2 | .thl => 3 | .clu => 4 | .l2c => 5 | .sch => 6 | .syn => 7 | .stk => 8 | .sor => 9
  | .lnk => 10 | .col => 11 | .rhz => 12 | .que => 13 | .mmu => 14 | .tel => 15 | .ras => 16 | .tbl => 17
  | .dsp => 18 | .mem => 19 | .top => 20 | .cor => 21

/-- The block and instance of the page at a BAR0 page number, if a page stands there (R630). -/
def pageOf (p : Nat) : Option (Block × Nat) :=
  if p < 0x40 then some (.hub, p)
  else if p = 0x40 then some (.cpd, 0)
  else if 0x100 ≤ p ∧ p < 0x300 then
    let d := (p - 0x100) / 0x100
    let r := (p - 0x100) % 0x100
    if r = 0 then some (.thl, d)
    else if r ≤ 64 then
      let h := 16 * d + (r - 1) / 4
      match (r - 1) % 4 with
      | 0 => some (.clu, h)
      | 1 => some (.l2c, h)
      | 2 => some (.sch, h)
      | _ => some (.syn, h)
    else none
  else if 0x400 ≤ p ∧ p < 0x500 then (if p % 16 = 0 then some (.stk, (p - 0x400) / 16) else none)
  else if 0x500 ≤ p ∧ p < 0x580 then
    let i := (p - 0x500) / 16
    match p % 16 with
    | 0 => some (.col, i)
    | 1 => some (.lnk, 2 * i)
    | 2 => some (.lnk, 2 * i + 1)
    | _ => none
  else if 0x580 ≤ p ∧ p < 0x5C0 then (if p % 16 = 0 then some (.rhz, (p - 0x580) / 16) else none)
  else if 0x600 ≤ p ∧ p < 0x700 then some (.que, p - 0x600)
  else if p = 0x700 then some (.mmu, 0)
  else if p = 0x701 then some (.tel, 0)
  else if p = 0x702 then some (.ras, 0)
  else if p = 0x703 then some (.tbl, 0)
  else if p = 0x704 then some (.dsp, 0)
  else if p = 0x705 then some (.mem, 0)
  else if p = 0x706 then some (.top, 0)
  else if 0x1000 ≤ p ∧ p < 0x1800 then some (.cor, p - 0x1000)
  else if 0x1800 ≤ p ∧ p < 0x1A00 then some (.sor, p - 0x1800)
  else none

/-- Reset values that are not 0, of the registers held by offset (the register tables of each chapter). -/
def blockReset (b : Block) (inst o : Nat) : Nat :=
  match b, o with
  | .stk, 0x040 => 3
  | .stk, 0x058 => 0xFFFFFFFF
  | .stk, 0x300 => 1
  | .stk, _ => if 0x100 ≤ o ∧ o ≤ 0x1FC then 0x68 else 0
  | .sor, 0x040 => 0x400
  | .sor, 0x048 => 0x400
  | .sor, 0x04C => 1
  | .sor, 0x108 => 1
  | .sor, 0x204 => 1
  | .sor, 0x280 => if inst % 32 = 0 then 0x00011008 else 0
  | .sor, 0x284 => if inst % 32 = 0 then 0x0000000C else 0
  | .sor, 0x288 => if inst % 32 = 0 then 0x00000A10 else 0
  | .sor, 0x28C => if inst % 32 = 0 then 0x00000840 else 0
  | .tbl, 0x040 => 3
  | .tbl, 0x044 => 0xC8
  | .tbl, 0x048 => 0x10000810
  | .cor, 0x04C => 1
  | .cor, 0x308 => 1
  | .l2c, 0x040 => 0x11100
  | .clu, 0x040 => 0x448
  | .clu, _ => if 0x100 ≤ o ∧ o < 0x300 ∧ o % 0x40 = 0 then 1 else 0
  | .syn, 0x040 => 3
  | .syn, 0x044 => 0x7D0
  | .syn, 0x048 => 0x186A0
  | .sch, 0x040 => 3
  | .sch, 0x044 => 0xC8
  | .mem, 0x040 => 0x4000
  | .mem, 0x044 => 0x10
  | .mem, 0x060 => 16 + 1024 * 65536
  | .mem, 0x064 => 48 + 1024 * 65536
  | .mem, 0x068 => 48 + 1024 * 65536
  | .mem, 0x06C => 64 + 1024 * 65536
  | .mem, 0x070 => 32 + 1024 * 65536
  | .mem, 0x074 => 32 + 1024 * 65536
  | .mem, 0x078 => 8 + 1024 * 65536
  | .mem, 0x07C => 8 + 1024 * 65536
  | .lnk, 0x040 => 0x4003
  | .top, 0x078 => 0x44222000
  | .top, 0x07C => 0x55333111
  | .top, 0x080 => 0x66543210
  | .top, 0x094 => 0x32
  | .col, 0x040 => if inst = 0 then 0x40032 else 0
  | .col, _ => if inst = 0 ∧ 0x100 ≤ o ∧ o < 0x300 ∧ o % 0x20 = 0 then 0xC else 0
  | .ras, 0x040 => 2
  | .ras, 0x050 => 8
  | .cpd, 0x044 => 0x9C4
  | .cpd, 0x048 => 0x102007
  | .cpd, 0x054 => 0x7FF
  | .tel, 0x040 => 0x800
  | .que, 0x040 => 0x404 + inst * 0x1000000
  | _, _ => 0

/-- The reset value of the register at a BAR0 offset (R631 and the register tables). -/
def resetReg (off : Nat) : Nat :=
  let o := off % 0x1000
  match pageOf (off / 0x1000) with
  | none => 0
  | some (b, inst) =>
    -- MSI-X tables in HUB pages 4, 5 and 7: every vector masked (log entry 86)
    if b = .hub ∧ 4 ≤ inst ∧ inst ≤ 7 then (if o % 16 = 12 ∧ (inst ≤ 5 ∨ (inst = 7 ∧ o < 0x400)) then 1 else 0)
    else if o = 0x030 then 0x100
    else if o < 0x040 then 0
    else if b = .cpd ∧ inst ≠ 0 then 0
    else blockReset b inst o

/-- The stored value of a register (R10). -/
def State.reg (s : State) (off : Nat) : Nat :=
  match nfind s.regs off with
  | some w => w.toNat
  | none => resetReg off

/-- Store a register. -/
def State.setReg (s : State) (off v : Nat) : State := { s with regs := nset s.regs off (BitVec.ofNat 32 v) }

/-- A LO/HI pair as one number (R629). -/
def State.reg64 (s : State) (off : Nat) : Nat := s.reg off + 2 ^ 32 * s.reg (off + 4)

def State.setReg64 (s : State) (off v : Nat) : State := (s.setReg off (v % 2 ^ 32)).setReg (off + 4) (v / 2 ^ 32 % 2 ^ 32)

/-- A field of a register. -/
def State.rfld (s : State) (off lo w : Nat) : Nat := fld (s.reg off) lo w

def State.rbit (s : State) (off i : Nat) : Bool := bitOf (s.reg off) i

def State.setRfld (s : State) (off lo w v : Nat) : State := s.setReg off (setBits (s.reg off) lo w v)
where
  /-- Replace a field of a number. -/
  setBits (r lo w v : Nat) : Nat := r % 2 ^ lo + 2 ^ lo * (v % 2 ^ w) + 2 ^ (lo + w) * (r >>> (lo + w))

/-- Add to a 64-bit counter that wraps (Register page rules). -/
def State.count64 (s : State) (off n : Nat) : State := s.setReg64 off ((s.reg64 off + n) % 2 ^ 64)

/-- Add to a 32-bit counter that saturates (Register page rules). -/
def State.count32 (s : State) (off n : Nat) : State := s.setReg off (min (s.reg off + n) 0xFFFFFFFF)

/-! ## Interrupts and refusals -/

/-- Raise an MSI-X vector of a function (R655): 0 PF0, 1 PF1. -/
def State.raiseVec (s : State) (fn vec : Nat) : State :=
  if s.msix.contains (fn, vec) then s else { s with msix := (fn, vec) :: s.msix }

/-- Set bits of a page's INTSTAT and raise its vector when an enabled bit becomes set (R635). -/
def State.setInt (s : State) (pg bits : Nat) : State :=
  let old := s.reg (pg + 0x028)
  let new := old ||| bits
  let en := s.reg (pg + 0x02C)
  let s1 := s.setReg (pg + 0x028) new
  if (new &&& en) != (old &&& en) then
    let iv := s.reg (pg + 0x030)
    s1.raiseVec (if bitOf iv 9 then 0 else 1) (fld iv 0 9)
  else s1

/-- Write a page's INTEN; a set bit of INTSTAT that it enables raises the vector (R635). -/
def State.setIntEn (s : State) (pg new : Nat) : State :=
  let st := s.reg (pg + 0x028)
  let s1 := s.setReg (pg + 0x02C) new
  if (st &&& new) ||| (st &&& s.reg (pg + 0x02C)) != st &&& s.reg (pg + 0x02C) then
    let iv := s.reg (pg + 0x030)
    s1.raiseVec (if bitOf iv 9 then 0 else 1) (fld iv 0 9)
  else s1

/-- Set a bit of a page's ERRSTAT; an unmasked bit that becomes set sets INTSTAT bit 0 (R631). -/
def State.setErr (s : State) (pg bit : Nat) : State :=
  let old := s.reg (pg + 0x01C)
  let s1 := s.setReg (pg + 0x01C) (old ||| 2 ^ bit)
  if !bitOf old bit && !bitOf (s.reg (pg + 0x020)) bit then s1.setInt pg 1 else s1

/-- Refuse a register write: REFUSED and REASON of the page are set, each later refusal overwriting them (R631, R633). -/
def State.refuse (s : State) (off reason : Nat) : State :=
  let pg := off / 0x1000 * 0x1000
  let s1 := s.setRfld (pg + 0x014) 1 1 1
  let s2 := s1.setReg (pg + 0x018) (reason + 2 ^ 24 * (off / 4 % 256))
  s2.setErr pg 2

/-- A refusal that conflicts with another block: REASON names it (R631, reason 0x03). -/
def State.refuseBy (s : State) (off reason btype inst : Nat) : State :=
  let s1 := s.refuse off reason
  let pg := off / 0x1000 * 0x1000
  s1.setReg (pg + 0x018) (reason + 2 ^ 8 * (btype % 256) + 2 ^ 16 * (inst % 256) + 2 ^ 24 * (off / 4 % 256))

/-- CTRL.EN of a page. -/
def State.enabled (s : State) (pg : Nat) : Bool := s.rbit (pg + 0x010) 0

/-! ## Units -/

def State.core (s : State) (c : Nat) : Core := nget s.cores c {}
def State.setCore (s : State) (c : Nat) (k : Core) : State := { s with cores := nset s.cores c k }
def State.modCore (s : State) (c : Nat) (f : Core → Core) : State := s.setCore c (f (s.core c))
def State.home (s : State) (h : Nat) : Home := nget s.homes h {}
def State.setHome (s : State) (h : Nat) (k : Home) : State := { s with homes := nset s.homes h k }
def State.modHome (s : State) (h : Nat) (f : Home → Home) : State := s.setHome h (f (s.home h))
def State.chan (s : State) (c : Nat) : Chan := nget s.chans c {}
def State.setChan (s : State) (c : Nat) (k : Chan) : State := { s with chans := nset s.chans c k }
def State.link (s : State) (l : Nat) : Link := nget s.links l {}
def State.setLink (s : State) (l : Nat) (k : Link) : State := { s with links := nset s.links l k }
def State.modLink (s : State) (l : Nat) (f : Link → Link) : State := s.setLink l (f (s.link l))
def State.seng (s : State) (e : Nat) : SEng := nget s.sengs e {}
def State.setSeng (s : State) (e : Nat) (k : SEng) : State := { s with sengs := nset s.sengs e k }
def State.hostQ (s : State) (q : Nat) : HostQ := nget s.queues q {}
def State.setHostQ (s : State) (q : Nat) (k : HostQ) : State := { s with queues := nset s.queues q k }
def State.emit (s : State) (o : Output) : State := { s with out := o :: s.out }

/-- The cluster of a core (R24). -/
def homeOf (c : Nat) : Nat := c / 64

/-- A block's registers take an access: the endpoint is up, and in `FAIL` only the `HUB` pages serve (R567, R580, R595). -/
def State.serves (s : State) (b : Block) : Bool :=
  s.pw.pwrgd && !s.pw.perst && (s.boot.state != 7 || b == .hub)

/-- The device is in READY (R595). -/
def State.ready (s : State) : Bool := s.boot.state == 6

/-- The device is powered, out of reset, and neither halted nor stopped by a device-fatal event. -/
def State.working (s : State) : Bool := s.ready && !s.ras.halted && !s.ras.dfatal

/-- Servers: stacks 0 to 15 and PHY dies as 16 to 19; units: engines 0 to 511 and PHY dies as 512 to 515. -/
def State.server (s : State) (x : Nat) : Server := nget s.servers x {}
def State.setServer (s : State) (x : Nat) (v : Server) : State := { s with servers := nset s.servers x v }
def State.modServer (s : State) (x : Nat) (f : Server → Server) : State := s.setServer x (f (s.server x))
def State.unit (s : State) (u : Nat) : SUnit := nget s.units u {}
def State.setUnit (s : State) (u : Nat) (v : SUnit) : State := { s with units := nset s.units u v }
def State.modUnit (s : State) (u : Nat) (f : SUnit → SUnit) : State := s.setUnit u (f (s.unit u))

/-- Serial numbers of the commands in a stack's queues and contexts that have not completed (R421). -/
def State.stackOutstanding (s : State) (st : Nat) : List Nat :=
  ((s.server st).queues.flatMap fun q => q.2.map (·.serial)) ++ ((s.server st).cmds.filter (·.queue < 64)).map (·.serial)

/-! ## The device physical map -/

/-- f3, f4 and f6 of R458. -/
def foldX (w : Nat) (n : Nat) (u : Nat) : Nat := (List.range n).foldl (fun acc i => acc ^^^ fld u (w * i) w) 0

def f3 (u : Nat) : Nat := foldX 3 6 u
def f4 (u : Nat) : Nat := foldX 4 4 u ^^^ fld u 16 2
def f6 (u : Nat) : Nat := foldX 6 3 u

/-- What stands at a device physical address (R454). -/
inductive Place where
  | hbm | rhz
  | scratch (h off : Nat)
  | sync (h off : Nat)
  | host
  | none
  deriving DecidableEq, Repr

/-- The address map of R454, without what is unmapped within a range. -/
def placeOf (a : Nat) : Place :=
  if a < 0x10000000000 then .hbm
  else if 0x20000000000 ≤ a ∧ a < 0x20020000000 then .scratch ((a - 0x20000000000) / 0x1000000) (a % 0x1000000)
  else if 0x30000000000 ≤ a ∧ a < 0x30002000000 then .sync ((a - 0x30000000000) / 0x100000) (a % 0x100000)
  else if 0x40000000000 ≤ a ∧ a < 0x80000000000 then .host
  else if 0x80000000000 ≤ a ∧ a < 0x98000000000 then .rhz
  else .none

/-- The mapped-out HBM channel of a stack, if one (R475). -/
def State.outChan (s : State) (st : Nat) : Option Nat :=
  (s.boot.hchOut.find? (· / 32 = st)).map (· % 32)

/-- The interleave mode of a region (R457, R460). -/
def State.mode (s : State) (r : Nat) : Nat := nget s.modes r 0

/-- A region that is mapped in some mode: its stack is enabled and it is neither a spare column's slab nor the image
area (R475, R612). -/
def State.regionLive (s : State) (r : Nat) : Bool :=
  let st := r / 64
  let k := r % 64
  bitOf s.boot.stackSet.toNat st
    && !((s.outChan st).isSome && (k = 62 || k = 63))
    && !(s.boot.imgMib != 0 && s.boot.imgBase / 2 ^ 30 = r)

/-- A region that is mapped now: the member e of a CHANNEL group whose channel e is mapped out is not (R475). -/
def State.regionMapped (s : State) (r : Nat) : Bool :=
  s.regionLive r && !(s.mode r = 3 && s.outChan (r / 64) = some (r % 64))

/-- Stack, pseudo-channel and address within it of an HBM address (R458), before R475. -/
def State.hbmRaw (s : State) (a : Nat) : Nat × Nat × Nat :=
  let r := a / 2 ^ 30
  let st := r / 64
  let k := r % 64
  let o := a % 2 ^ 30
  match s.mode r with
  | 0 =>
    let g := (st % 8) * 2 ^ 30 + o
    let u := fld g 15 18
    (8 * (st / 8) + (fld g 12 3 ^^^ f3 u), fld g 6 6 ^^^ f6 u, k * 2 ^ 24 + u * 64 + fld g 0 6)
  | 1 =>
    let g := st * 2 ^ 30 + o
    let u := fld g 16 18
    (fld g 12 4 ^^^ f4 u, fld g 6 6 ^^^ f6 u, k * 2 ^ 24 + u * 64 + fld g 0 6)
  | 2 =>
    let u := fld o 12 18
    (st, fld o 6 6 ^^^ f6 u, k * 2 ^ 24 + u * 64 + fld o 0 6)
  | _ =>
    let b := (fld o 6 1 + fld o 12 1 + fld o 18 1 + fld o 24 1) % 2
    (st, 2 * (k % 32) + b, (32 * (k / 32)) * 2 ^ 24 + fld o 7 23 * 64 + fld o 0 6)

/-- Stack, pseudo-channel and address of an HBM address, through the spare columns of a mapped-out channel (R475). -/
def State.hbmPlace (s : State) (a : Nat) : Nat × Nat × Nat :=
  let (st, p, ad) := s.hbmRaw a
  match s.outChan st with
  | some e =>
    if p / 2 = e then
      let k := ad / 2 ^ 24
      let live := (List.range 64).filter fun q => q / 2 != e
      (st, live.getD k 0, (62 + p % 2) * 2 ^ 24 + ad % 2 ^ 24)
    else (st, p, ad)
  | none => (st, p, ad)

/-- Channel and channel address of a Rhizome address (R461). -/
def rhzPlace (a : Nat) : Nat × Nat :=
  let r := a - 0x80000000000
  let g := r / 4096
  let n := g % 96
  let m := g / 96
  ((n + m) % 96, m * 4096 + r % 4096)

/-- The memory channel of an address in HBM or the Rhizome tier: pseudo-channels 0 to 1,023, then Rhizome channels. -/
def State.chanOf (s : State) (a : Nat) : Option Nat :=
  match placeOf a with
  | .hbm => let (st, p, _) := s.hbmPlace a; some (st * 64 + p)
  | .rhz => some (1024 + (rhzPlace a).1)
  | _ => none

/-- Size of the scratch in effect of a home, in bytes; 0 while its L2 is not enabled (R360, R362). -/
def State.scratchSize (s : State) (h : Nat) : Nat :=
  if s.enabled (pgL2c h) then (s.home h).carve * 0x100000 else 0

/-- Whether an address is memory that a Sorus command, stream or DMA may reach: mapped HBM or Rhizome on a channel that
has not failed, scratch in effect, or the host window (R362, R454, R455, R474). -/
def State.reachable (s : State) (a : Nat) : Bool :=
  match placeOf a with
  | .hbm => s.regionMapped (a / 2 ^ 30) && (s.chan ((s.chanOf a).getD 0)).st != 3
  | .rhz => bitOf s.boot.rhzMapped.toNat ((rhzPlace a).1) && (s.chan ((s.chanOf a).getD 0)).st != 3
  | .scratch h off => decide (off < s.scratchSize h)
  | .host => true
  | _ => false

/-- Every sector of a range is reachable. -/
def State.reachableRange (s : State) (a n : Nat) : Bool := (sectorsOf a n).all fun x => s.reachable (64 * x)

/-- The unit that owns a sector (R80): engine stack × 32 + channel, or PHY die as 512 + die. -/
def State.unitOf (s : State) (pa : Nat) : Option Nat :=
  match placeOf pa with
  | .hbm => let (st, p, _) := s.hbmPlace pa; some (st * 32 + p / 2)
  | .rhz => some (512 + (rhzPlace pa).1 / 24)
  | _ => none

/-- A write to a sector invalidates its entry; a read in flight no longer combines (R86). -/
def State.dropSector (s : State) (sec : Nat) : State :=
  match s.unitOf (64 * sec) with
  | some u =>
    if (nfind s.units u).isNone then s
    else s.modUnit u fun k =>
      { k with
        rct := k.rct.filter (·.sector != sec)
        fly := k.fly.map fun f => if f.sector == sec then { f with comb := false } else f }
  | none => s

def State.dropSectors (s : State) (a n : Nat) : State := (sectorsOf a n).foldl State.dropSector s

/-- Write data with its poison, combined reads apart: poisoned data marks every sector it touches; clean data clears the mark
of a sector it covers whole (R376, R467). A latent error ends with the sector that is written whole. -/
def State.storeRaw (s : State) (a : Nat) (l : List Byte) (bad : Bool) : State :=
  let s1 := s.setBytes a l
  let whole := fun x : Nat => decide (a ≤ 64 * x) && decide (64 * x + 64 ≤ a + l.length)
  { s1 with
    poison := if bad then (sectorsOf a l.length).foldl insNat s1.poison else s1.poison.filter fun x => !whole x
    upsets := s1.upsets.filter fun x => !whole x.1 }

/-- Write data with its poison; a combined read of a sector that it touches ends (R86, R376, R467). -/
def State.store (s : State) (a : Nat) (l : List Byte) (bad : Bool) : State := (s.storeRaw a l bad).dropSectors a l.length

/-- Whether a range lies in HBM or the Rhizome tier. -/
def inMemory (a n : Nat) : Bool :=
  decide (a + n ≤ 0x10000000000) || (decide (0x80000000000 ≤ a) && decide (a + n ≤ 0x98000000000))

/-- Whether a range lies in HBM or the host window (R568, R643). -/
def inHbmOrHost (a n : Nat) : Bool :=
  decide (a + n ≤ 0x10000000000) || (decide (0x40000000000 ≤ a) && decide (a + n ≤ 0x80000000000))

/-- The host bus address of a host-window address (R637). -/
def State.hostBus (s : State) (a : Nat) : Nat := s.reg64 (pgHub 1 + 0x040) + (a - 0x40000000000)

/-- Read bytes through the device physical map: host memory through the window, device memory otherwise. -/
def State.readPa (s : State) (a n : Nat) : List Byte :=
  match placeOf a with
  | .host => (List.range n).map fun i => cellGet s.hostMem (s.hostBus (a + i))
  | _ => s.bytes a n

def State.readPaNat (s : State) (a n : Nat) : Nat := ofBytes (s.readPa a n)

/-- Whether reading a range returns poisoned data; the host window never does in this model. -/
def State.badPa (s : State) (a n : Nat) : Bool :=
  match placeOf a with
  | .host => false
  | _ => s.isPoisoned a n

/-- Write bytes through the device physical map, accumulating writes that came before apart; towards the host, poisoned data
leaves as poisoned TLPs (R653). -/
def State.putPa (s : State) (a : Nat) (l : List Byte) (bad : Bool) : State :=
  match placeOf a with
  | .host =>
    let s1 := { s with hostMem := cellsSet s.hostMem (s.hostBus a) l }
    if bad then s1.emit (.tlp (s.hostBus a) l true) else s1
  | _ => s.store a l bad

/-- The cache scrub holds half of a slice of a home's L2: requests to the slice wait (R582, R583). -/
def State.scrubAt (s : State) (h slice : Nat) : Bool := s.pw.scrub.any fun i => i / 32 == h && i / 2 % 16 == slice

/-- What serves an address serves nothing now: a slot holds its memory channel, the channel is retraining, or the scrub holds its
scratch slice (R465, R473, R583). -/
def State.chanOff (s : State) (a : Nat) : Bool :=
  match s.chanOf a with
  | some c => (s.chan c).st == 1 || (s.chan c).st == 2
  | none => match placeOf a with
    | .scratch h off => s.scrubAt h (off / 64 % 16)
    | _ => false

/-- Sorus requests queued at a unit for a channel. -/
def State.queuedFor (s : State) (u ch : Nat) : Nat :=
  let k := s.unit u
  (k.rq.filter fun r => s.chanOf (64 * r.sector) == some ch).length
    + (k.uq.filter fun r => s.chanOf (64 * r.sector) == some ch).length

/-- The request queue of the Rhizome channel of an address is full (R479). -/
def State.rhzFull (s : State) (a : Nat) : Bool :=
  match s.chanOf a with
  | some c => decide (1024 ≤ c) && decide (1024 ≤ s.queuedFor (512 + (c - 1024) / 24) c)
  | none => false

/-- The memory channel of an address takes no request now: it serves nothing, or its queue is full; a request for it waits in its
requester (R465, R473, R479). -/
def State.chanHeld (s : State) (a : Nat) : Bool := s.chanOff a || s.rhzFull a

/-- Some channel serves nothing now, or a PHY die holds as many requests as fill a channel's queue (R465, R473, R479). -/
def State.someHeld (s : State) : Bool :=
  s.chans.any (fun p => p.2.st == 1 || p.2.st == 2) || s.pw.scrub.isSome || s.units.any fun p => decide (512 ≤ p.1) && decide (1024 ≤ p.2.rq.length + p.2.uq.length)

/-- Some sector of a range lies on a channel that takes no request now (R465, R473, R479). -/
def State.anyHeld (s : State) (a n : Nat) : Bool := s.someHeld && (sectorsOf a n).any fun sec => s.chanHeld (64 * sec)

/-! ## Bandwidth classes (R462) -/

/-- What a memory request is part of. -/
inductive Traffic where
  | hostDma
  | stream (raw : Nat)
  | cache
  | gather (stack queue : Nat)
  | update
  | flow
  | move
  | maintenance

/-- The bandwidth class of a request: a stream's from its descriptor, a gather's from its command queue, the others fixed. A
command that stands in no queue of the stack came from a flow (R462). -/
def State.bwClass (s : State) : Traffic → Nat
  | .hostDma => 0
  | .stream raw => fld raw 32 3
  | .cache => 2
  | .gather x q => if q < 64 then s.rfld (pgStk x + 0x100 + 4 * q) 5 3 else 5
  | .update => 4
  | .flow => 5
  | .move => 6
  | .maintenance => 7

/-! ## Fault events (R551 to R569) -/

/-- The bytes of an event's record (R569). -/
def eventRecord (s : State) (e : Event) (seq : Nat) : List Byte :=
  toBytes 8 (e.time.getD s.now.toNat) ++ toBytes 1 e.cls ++ toBytes 1 e.reason ++ toBytes 2 e.btype ++ toBytes 1 e.inst ++ [(0 : Byte)]
    ++ toBytes 2 e.unit ++ toBytes 4 e.dur ++ toBytes 4 seq
    ++ toBytes 8 (match e.addr with | some a => a % 2 ^ 48 + 2 ^ 63 | none => 0)

/-- Write an event's record: EVENT_RECORD. The event number advances for every event; EVCNT counts it; the record is
written to the ring, or counted in LOGLOST when the ring is full or the write does not complete (R569). -/
def State.recordEvent (s : State) (e : Event) : State :=
  let seq := s.ras.seq.toNat + 1
  let s1 := { s with ras := { s.ras with seq := BitVec.ofNat 32 seq } }
  let s2 := s1.count32 (pgRas + 0x060 + 4 * e.cls) 1
  let s3 := s2.setReg (pgRas + 0x084) (max e.dur (s2.reg (pgRas + 0x084)))
  let cfg := s.reg (pgRas + 0x040)
  if !bitOf cfg 3 || (e.cls == 0 && !bitOf cfg 4) then s3
  else
    let size := 2 ^ (s.rfld (pgRas + 0x050) 0 5)
    let head := s.rfld (pgRas + 0x054) 0 16
    let tail := s.rfld (pgRas + 0x058) 0 16
    let base := s.reg64 (pgRas + 0x048) % 2 ^ 48
    if (head + 1) % size = tail % size then s3.count32 (pgRas + 0x05C) 1
    else if !s.reachableRange (base + 32 * head) 32 then s3.count32 (pgRas + 0x05C) 1
    else (s3.putPa (base + 32 * head) (eventRecord s e (seq % 2 ^ 32)) false).setReg (pgRas + 0x054) ((head + 1) % size)

/-- Raise an event that is CORRECTED, RECOVERED or DEGRADED: recorded, then vector 256 when INTMIN allows (R551). -/
def State.lightEvent (s : State) (e : Event) : State :=
  let s1 := s.recordEvent e
  if s.rfld (pgRas + 0x040) 0 3 ≤ e.cls then s1.raiseVec 1 256 else s1

/-- Microseconds since a moment, rounded up (R569). -/
def State.usSince (s : State) (t : Nat) : Nat := (s.now.toNat - t + 999) / 1000

/-- An interruption whose length only the hardware knows: a free value from 1 µs to the bound of R556 (R569; log entry 166). -/
def State.takeDur (s : State) (bound : Nat) : Nat × State :=
  let (w, s1) := s.takeFree
  (1 + w.toNat % bound, s1)

/-- Raise a JOB_FATAL event: it is recorded at its detection, FATALINFO and FATALTS hold the first since the halt last ended, and
the rest of the halt of R560 follows (JOB_FATAL_HALT) (R551, R560, R568, R569). -/
def State.fatalEvent (s : State) (ev : Event) : State :=
  let e := { ev with cls := 3 }
  let s1 := s.recordEvent e
  let s2 := if s1.ras.noted then s1
    else (s1.setReg (pgRas + 0x074) (e.reason % 256 + 2 ^ 8 * (e.btype % 256) + 2 ^ 16 * (e.inst % 256) + 2 ^ 31)).setReg64
      (pgRas + 0x078) s1.now.toNat
  { s2 with
    ras := { s2.ras with fatals := s2.ras.fatals ++ [e], noted := true }
    boot := { s2.boot with fatalSince := true } }

/-- A JOB_FATAL event of a block with a reason. -/
def State.fatal (s : State) (b : Block) (inst reason : Nat) (unit : Nat := 0xFFFF) (addr : Option Nat := none) : State :=
  s.fatalEvent { cls := 3, reason := reason, btype := b.code, inst := inst, unit := unit, addr := addr }

/-- A read of memory, L2 or scratch that returned poisoned data: POISON_READ_EVENT (R553, reason 0x83 of R570). -/
def State.poisonRead (s : State) (b : Block) (inst a : Nat) : State := s.fatal b inst 0x83 0xFFFF (some a)

/-- Input power in W averaged over the last millisecond: over the measurements of that time, rounded down (R590). -/
def State.avgInput (s : State) : Nat := s.pw.inputs.foldl (· + ·) 0 / max s.pw.inputs.length 1

/-- ALERT_N is held low: a thermal or fault condition is pending in the hub and not masked (R21). The condition is
INTSTAT bit 1 of HUB page 1, masked by ERRMASK bit 1 (log entry 16). -/
def State.alertLow (s : State) : Bool :=
  s.pw.pwrgd && s.rbit (pgHub 1 + 0x028) 1 && !s.rbit (pgHub 1 + 0x020) 1

/-- A thermal or fault condition becomes pending in the hub: ALERT_N_ASSERT (R21); PF0 vector 2 reports it (R655). -/
def State.alertOn (s : State) : State :=
  let s1 := s.setReg (pgHub 1 + 0x028) (s.reg (pgHub 1 + 0x028) ||| 2)
  if s1.alertLow then s1.raiseVec 0 2 else s1

/-- The boot enters a state: PF0 vector 1 (R595, R655). -/
def State.bootTo (s : State) (n : Nat) : State := ({ s with boot := { s.boot with state := n } } : State).raiseVec 0 1

/-- The ops on a dispatcher's ready list: an op whose affinity hold expired stands on it too (R443 step 4, R449). -/
def Home.onList (k : Home) : List OpRef := k.ready ++ k.expired

end Sys2Proof.Machine
end

