-- ==== Sys2Proof/Machine/Errors.lean ====
section
/-! DEFINITION. Machine/Errors.lean: table versions as the engines see them, and what a read of memory, scratch or L2 finds:
corrected and uncorrectable errors, their counters, the row tracker, recovery of hot rows (R154 to R162, R179, R374, R376,
R466 to R469, R553, R554). -/

namespace Sys2Proof.Machine

open Sys2Proof

/-- `n` bytes at a byte offset of a structure held as a number. -/
def dfld (raw off n : Nat) : Nat := fld raw (8 * off) (8 * n)

/-- `v` with `n` bits from `lo` replaced by the low `n` bits of `x`. -/
def setFld (v lo n x : Nat) : Nat :=
  v % 2 ^ lo + 2 ^ lo * (x % 2 ^ n) + 2 ^ (lo + n) * (v >>> (lo + n))

/-- The lowest position that satisfies a test. -/
def posOf {α : Type} (p : α → Bool) : List α → Nat → Option Nat
  | [], _ => none
  | x :: l, i => if p x then some i else posOf p l (i + 1)

/-! ## Versions (R149, R154, R162) -/

def Version.fmt (v : Version) : Nat := dfld v.desc 2 1 % 16
def Version.hmode (v : Version) : Nat := dfld v.desc 3 1 % 4
def Version.indir (v : Version) : Bool := bitOf (dfld v.desc 3 1) 2
def Version.plen (v : Version) : Bool := bitOf (dfld v.desc 3 1) 3
def Version.rowBytes (v : Version) : Nat := dfld v.desc 4 2
def Version.nelem (v : Version) : Nat := dfld v.desc 6 2
def Version.nrows (v : Version) : Nat := dfld v.desc 16 6
def Version.seed (v : Version) : Nat := dfld v.desc 24 8
def Version.mult (v : Version) : Nat := dfld v.desc 32 8
def Version.hbits (v : Version) : Nat := dfld v.desc 40 1
def Version.compop (v : Version) : Nat := dfld v.desc 41 1 % 4
def Version.qtid (v : Version) : Nat := dfld v.desc 42 2 % 4096
def Version.rtid (v : Version) : Nat := dfld v.desc 44 2 % 4096
def Version.hotBase (v : Version) : Nat := dfld v.desc 80 6
def Version.hotSlots (v : Version) : Nat := dfld v.desc 88 4
def Version.slotTab (v : Version) : Nat := dfld v.desc 96 6
def Version.promote (v : Version) : Nat := dfld v.desc 104 2
def Version.demote (v : Version) : Nat := dfld v.desc 106 2
def Version.loadAddr (v : Version) : Nat := dfld v.desc 112 6

/-- The current version of a table id (R149). -/
def State.current (s : State) (tid : Nat) : Option Version := s.tables.find? fun v => v.tid == tid && v.current

/-- The version of an epoch, current or retiring. -/
def State.version (s : State) (tid epoch : Nat) : Option Version := s.tables.find? fun v => v.tid == tid && v.epoch == epoch

def State.modVersion (s : State) (tid epoch : Nat) (f : Version → Version) : State :=
  { s with tables := s.tables.map fun v => if v.tid == tid && v.epoch == epoch then f v else v }

/-- The number and entry of the shard that holds a row (R162). -/
def Version.shardOf (v : Version) (row : Nat) : Option (Nat × Shard) :=
  ((List.range v.shards.length).zip v.shards).foldl (fun acc p => if p.2.first ≤ row then some p else acc) none

/-! ## Hot copies (R179) -/

/-- The hot-slot entry of the slot that an address lies in, if one is in use (R179). -/
def State.hotSlotOf (s : State) (pa : Nat) : Option (Version × Nat) :=
  s.tables.findSome? fun v =>
    if v.plen && decide (v.hotBase ≤ pa) && decide (pa < v.hotBase + v.hotSlots * v.rowBytes) then
      some (v, (pa - v.hotBase) / v.rowBytes)
    else none

/-- A write to a hot copy sets the slot's DIRTY bit (R86, R179). -/
def State.dirtyHot (s : State) (pa : Nat) : State :=
  match s.hotSlotOf pa with
  | some (v, i) =>
    let a := v.slotTab + 8 * i
    let e := s.memNat a 8
    if bitOf e 63 then (s.setBytes a (toBytes 8 (setFld e 62 1 1))).dropSectors a 8 else s
  | none => s

/-! ## Memory channels (R466 to R469, R484, R485) -/

/-- Page offset of a channel's error registers: pseudo-channels in the SOR pages, Rhizome channels in the RHZ pages (R484,
R485). -/
def pcRegs (ch : Nat) : Nat :=
  if ch < 1024 then pgSor (ch / 2) + 0x300 + 0x40 * (ch % 2) else pgRhz ((ch - 1024) / 24) + 0x100 + 0x10 * ((ch - 1024) % 24)

/-- The page of a channel's unit: its Sorus engine's, or its PHY die's (R631). -/
def chanPage (ch : Nat) : Nat := if ch < 1024 then pgSor (ch / 2) else pgRhz ((ch - 1024) / 24)

/-- Count a corrected error of a channel. -/
def State.countCE (s : State) (ch : Nat) : State :=
  (if ch < 1024 then s.count64 (pcRegs ch + 0x08) 1 else s.count32 (pcRegs ch + 0x08) 1).setErr (chanPage ch) 0

/-- Count a sector poisoned. -/
def State.countUE (s : State) (ch : Nat) : State :=
  (if ch < 1024 then s.count32 (pcRegs ch + 0x10) 1 else s.count32 (pcRegs ch + 0x0C) 1).setErr (chanPage ch) 1

/-- The DRAM row of an HBM sector, as PPRENT names it (R459, R480): pseudo-channel, bank and row. -/
def State.dramRow (s : State) (sec : Nat) : Nat × Nat :=
  let (st, p, ad) := s.hbmPlace (64 * sec)
  (st, p + 64 * (fld ad 11 6 ^^^ fld ad 17 6) + 4096 * fld ad 17 13)

/-- A row enters the repair log (R469). -/
def State.logRow (s : State) (st row : Nat) : State :=
  let l := nget s.repair st []
  if l.contains row || decide (32 ≤ l.length) then s else { s with repair := nset s.repair st (l ++ [row]) }

/-- The row tracker counts a corrected error; at 4 the row enters the log (R469; ties and a full log: log entry 44). -/
def State.trackRow (s : State) (st row : Nat) : State :=
  let l := nget s.rowTrack st []
  let l1 := match l.find? (·.1 == row) with
    | some (_, n) => l.map fun e => if e.1 == row then (row, n + 1) else e
    | none =>
      if l.length < 64 then l ++ [(row, 1)]
      else
        let m := l.foldl (fun acc e => min acc e.2) (l.headD (0, 0)).2
        match posOf (fun e : Nat × Nat => e.2 == m) l 0 with
        | some i => l.set i (row, 1)
        | none => l
  let s1 := { s with rowTrack := nset s.rowTrack st l1 }
  match l1.find? (·.1 == row) with
  | some (_, n) => if 4 ≤ n then s1.logRow st row else s1
  | none => s1

/-- Two versions share a hot-row region and its slot table (R175). -/
def Version.sharesHot (v w : Version) : Bool := v.plen && w.plen && v.hotBase == w.hotBase && v.slotTab == w.slotTab

/-- The home copy of a row of a version: where the row lay when it was promoted (R166, R177), else its place in the shard
(R156). -/
def Version.homeOf (v : Version) (row : Nat) : Option Nat :=
  match nfind v.homeAt row with
  | some a => some a
  | none => (v.shardOf row).map fun (_, h) => h.base + (row - h.first) * v.rowBytes

/-! ## L2 and scratch (R374, R376) -/

/-- The scratch window of a home (R361). -/
def scratchBase (h : Nat) : Nat := 0x20000000000 + h * 0x1000000

/-- The way in which nominal carved way `w` of a slice stands (R374 step 2). -/
def Home.carvedAt (h : Home) (slice w : Nat) : Nat := nget h.carveSub (slice * 16 + w) w

/-- L2_CORRECTED_ERROR: a corrected error counts in its way's window of one second (R374), in CECNT, and is a CORRECTED
event (R552). -/
def State.l2Corrected (s : State) (h slice way : Nat) : State :=
  let key := slice * 16 + way
  let win := nfind (s.home h).ceWin key
  let t := s.now.toNat
  let new := match win with
    | some (n, t0) => if t - t0 > 1000000000 then (1, t) else (n + 1, t0)
    | none => (1, t)
  let s1 := s.modHome h fun k => { k with ceWin := nset k.ceWin key new }
  let s2 := (s1.count64 (pgL2c h + 0x080) 1).setErr (pgL2c h) 0
  s2.lightEvent { cls := 0, reason := 0, btype := Block.l2c.code, inst := h, unit := way * 16 + slice }

/-- Scratch that a sector number names: its home, slice and the way it stands in now (R361, R374). -/
def State.scratchAt (s : State) (h off : Nat) : Nat × Nat :=
  let slice := off / 64 % 16
  let hm := s.home h
  (slice, hm.carvedAt slice (16 - hm.carve + off / 1024 / 1024))

/-- A sector of scratch, or a dirty line, is marked poisoned: it counts in UECNT (R376). -/
def State.l2CountUE (s : State) (h : Nat) : State := (s.count64 (pgL2c h + 0x088) 1).setErr (pgL2c h) 1

/-! ## What a read finds (R376, R467, R553, R554) -/

/-- The event of a DRAM read that leaves data poisoned, of the unit that owns the sector (R553). -/
def State.dramFatal (s : State) (sec : Nat) : State :=
  match s.unitOf (64 * sec) with
  | some u =>
    s.fatal (if u < 512 then .sor else .rhz) (if u < 512 then u % 256 else u - 512) 0x83 ((s.chanOf (64 * sec)).getD 0) (some (64 * sec))
  | none => s

/-- A corrected error of a memory sector: counted, tracked, a CORRECTED event; the sector is not rewritten (R467, R469,
R552). -/
def State.dramCorrected (s : State) (sec : Nat) : State :=
  let a := 64 * sec
  let ch := (s.chanOf a).getD 0
  let s1 := s.countCE ch
  let s2 := if ch < 1024 then let (st, row) := s1.dramRow sec; s1.trackRow st row else s1
  match s.unitOf a with
  | some u =>
    s2.lightEvent { cls := 0, reason := 0, btype := Block.code (if u < 512 then .sor else .rhz), inst := if u < 512 then u % 256 else u - 512
                    unit := ch, addr := some a }
  | none => s2

/-- An uncorrectable error of a memory sector is counted and its row enters the repair log (R467, R469). -/
def State.dramCountUE (s : State) (sec : Nat) : State :=
  let ch := (s.chanOf (64 * sec)).getD 0
  let s1 := s.countUE ch
  if ch < 1024 then let (st, row) := s1.dramRow sec; s1.logRow st row else s1

/-- A sector that nothing recovers is written back with the poison check word (R467). -/
def State.poisonSector (s : State) (sec : Nat) : State := { s with poison := insNat s.poison sec, upsets := ndel s.upsets sec }

/-- The home sector that stands in for a sector of a hot copy whose slot is in use and not dirty (R554). -/
def State.hotHome (s : State) (sec : Nat) : Option Nat :=
  match s.hotSlotOf (64 * sec) with
  | none => none
  | some (v, i) =>
    let e := s.memNat (v.slotTab + 8 * i) 8
    if !bitOf e 63 || bitOf e 62 then none
    else (v.homeOf (e % 2 ^ 48)).map fun home => home + (64 * sec - (v.hotBase + i * v.rowBytes))

/-- The latent error of a sector that a read meets, other than a hot sector's recovery: none, corrected, or poisoned. -/
def State.meetPlain (s : State) (sec : Nat) : State :=
  match nfind s.upsets sec with
  | none => s
  | some ue =>
    if s.poison.contains sec then { s with upsets := ndel s.upsets sec }
    else match placeOf (64 * sec) with
      | .scratch h off =>
        if ue then (s.poisonSector sec).l2CountUE h
        else let (sl, w) := s.scratchAt h off; s.l2Corrected h sl w
      | _ => if ue then (s.dramCountUE sec).poisonSector sec else s.dramCorrected sec

/-- HOT_ROW_RECOVERY: after an uncorrectable error of a hot sector the same sector of the home copy stands in, when the
slot's DIRTY bit is 0 and the home copy reads clean; the hot sector is rewritten with it (R554). -/
def State.recoverHot (s : State) (sec : Nat) : Option State :=
  match s.hotHome sec with
  | none => none
  | some src =>
    let s1 := (sectorsOf src 64).foldl State.meetPlain s
    if s1.isPoisoned src 64 || !s1.reachableRange src 64 then none
    else
      let (d, s2) := s1.takeDur 5
      some ((s2.storeRaw (64 * sec) (s1.bytes src 64) false).lightEvent
        { cls := 1, reason := 0, btype := Block.code .stk, inst := sec / 2 ^ 30, addr := some (64 * sec), dur := d })

/-- An uncorrectable error met at a memory sector: recovered, or poisoned (R467, R554). -/
def State.dramUncorrectable (s : State) (sec : Nat) : State :=
  let s1 := s.dramCountUE sec
  (s1.recoverHot sec).getD (s1.poisonSector sec)

/-- A read of a sector meets the latent error that stands there. A reader that finds the sector poisoned raises the event
of R553 itself. -/
def State.meetSector (s : State) (sec : Nat) : State :=
  match nfind s.upsets sec with
  | some true => if s.poison.contains sec || (s.hotHome sec).isNone then s.meetPlain sec else s.dramUncorrectable sec
  | _ => s.meetPlain sec

/-! ## Accumulating writes (R91, R363, R376) -/

/-- Apply an accumulating write to its scratch line, each element atomically; poison of the operand or of the line stays in
the line. An uncorrectable error that the line's read meets is JOB_FATAL (R91, R363, R376, R553). -/
def State.accApply (s : State) (h : Nat) (a : AccWrite) : State :=
  let n := 4 * a.elems.length
  let s0 := (sectorsOf a.addr n).foldl State.meetSector s
  let s1 := if s0.isPoisoned a.addr n && !s.isPoisoned a.addr n then s0.fatal .l2c h 0x83 0xFFFF (some a.addr) else s0
  let old := unpack 32 a.elems.length (s1.memNat a.addr n)
  let f := match a.op with
    | 0 => add32
    | 1 => max32
    | _ => min32
  let new := pack 32 (List.zipWith f old a.elems)
  (s1.storeRaw a.addr (toBytes n new) (a.poison || s1.isPoisoned a.addr n)).count64 (pgL2c h + 0x0B8) 1

/-- Accumulating writes that reached the sectors of a range before another access are applied before it (R363). -/
def State.accDrain (s : State) (a n : Nat) : State :=
  match placeOf a with
  | .scratch h _ =>
    let hit := fun w : AccWrite => (sectorsOf a n).contains (w.addr / 64)
    if (s.home h).accQ.any hit then
      ((s.home h).accQ.filter hit).foldl (fun acc w => acc.accApply h w) (s.modHome h fun k => { k with accQ := k.accQ.filter fun w => !hit w })
    else s
  | _ => s

/-- Write bytes through the device physical map, after the accumulating writes that came to its lines before (R363). -/
def State.writePa (s : State) (a : Nat) (l : List Byte) (bad : Bool) : State := (s.accDrain a l.length).putPa a l bad

/-- A read of a range of device memory: the accumulating writes that came before it are applied, and it meets the latent errors
that stand there. With neither it changes nothing. -/
def State.meet (s : State) (a n : Nat) : State :=
  let s1 := s.accDrain a n
  if s1.upsets.isEmpty then s1 else (sectorsOf a n).foldl State.meetSector s1

/-- New latent errors arrive: in a sector of memory or scratch, or in a line that a cache holds (log entry 135). -/
def State.upsetArrives (s : State) (u : Upset) : State :=
  match u.at_ with
  | .sector sec => if inMemory (64 * sec) 64 || (match placeOf (64 * sec) with | .scratch _ _ => true | _ => false) then
      { s with upsets := nset s.upsets sec u.uncorrectable } else s
  | .l2 h line => s.modHome h fun k =>
      { k with l2 := k.l2.map fun p => if p.2.line == line then (p.1, { p.2 with upset := some u.uncorrectable }) else p }
  | .l1d c line => s.modCore c fun k =>
      { k with l1d := k.l1d.map fun p => if p.2.line == line then (p.1, { p.2 with upset := some u.uncorrectable }) else p }

end Sys2Proof.Machine
end

