-- ==== Sys2Proof/Machine/Xlate.lean ====
section
/-! DEFINITION. Machine/Xlate.lean: device virtual addresses: the table walk and the translation caches (R638 to R641). -/

namespace Sys2Proof.Machine

open Sys2Proof

/-- The agents that hold translation caches (R640): clusters as their home number, then these. -/
def agStack (x : Nat) : Nat := 32 + x
def agSeng (e : Nat) : Nat := 64 + e
def agHub : Nat := 320
def agLinkDie (i : Nat) : Nat := 336 + i
def agPhy (i : Nat) : Nat := 344 + i

/-- What a walk finds: a page, nothing, or a poisoned entry at an address (R639). -/
inductive Walk where
  | page (pa size : Nat) (w x c strm : Bool)
  | fail
  | poisoned (addr : Nat)
  deriving DecidableEq, Repr

/-- One level and those below it (R638, R639): `n` levels are left, the table of this one stands at `tbl`. -/
def walkFrom (s : State) (va : Nat) : Nat → Nat → Walk
  | 0, _ => .fail
  | n + 1, tbl =>
    let lvl := 3 - n
    let idx := match lvl with
      | 0 => fld va 39 9
      | 1 => fld va 30 9
      | 2 => fld va 21 9
      | _ => fld va 16 5
    let ea := tbl + 8 * idx
    if !s.reachableRange ea 8 then .fail
    else if s.isPoisoned ea 8 then .poisoned ea
    else
      let e := s.memNat ea 8
      let ad := fld e 8 40 * 256
      let leaf := bitOf e 1
      if !bitOf e 0 || fld e 6 2 != 0 || fld e 48 16 != 0 then .fail
      else if leaf then
        let size := if lvl = 3 then 0x10000 else 0x200000
        if lvl < 2 || ad % size != 0 then .fail
        else .page ad size (bitOf e 2) (bitOf e 3) (bitOf e 4) (bitOf e 5)
      else
        let align := if lvl = 2 then 256 else 4096
        if lvl = 3 || ad % align != 0 || decide (0x10000000000 ≤ ad) then .fail
        else walkFrom s va n ad

/-- The entries that a walk reads, in order. -/
def walkReads (s : State) (va : Nat) : Nat → Nat → List Nat
  | 0, _ => []
  | n + 1, tbl =>
    let idx := match 3 - n with
      | 0 => fld va 39 9
      | 1 => fld va 30 9
      | 2 => fld va 21 9
      | _ => fld va 16 5
    let ea := tbl + 8 * idx
    let e := s.memNat ea 8
    if !s.reachableRange ea 8 then []
    else if !bitOf e 0 || bitOf e 1 then [ea]
    else ea :: walkReads s va n (fld e 8 40 * 256)

/-- A walk's reads meet the latent errors that stand in the entries (R467, R553). -/
def State.meetWalk (s : State) (va : Nat) : State :=
  if s.upsets.isEmpty then s else (walkReads s va 4 (s.reg64 (pgMmu + 0x040) % 2 ^ 48)).foldl (fun acc a => acc.meet a 8) s

/-- A translated page (R639). -/
structure Page where
  pa : Nat
  w : Bool
  x : Bool
  c : Bool
  strm : Bool
  deriving DecidableEq, Repr

/-- Whether a page may be used so (R639). -/
def pageAllows (w x : Bool) (write fetch : Bool) : Bool := (w || !write) && (x || !fetch)

/-- Count a translation failure (R641). -/
def State.xlateFail (s : State) (va : Nat) : State :=
  (s.setReg64 (pgMmu + 0x068) va).count32 (pgMmu + 0x070) 1

/-- TABLE_WALK: translate a device virtual address for an agent, from its translation cache or by a walk that fills it
(R638 to R641). With MMU.CTRL.EN 0 nothing translates. -/
def State.xlate (s : State) (agent va : Nat) (write fetch : Bool) : Option Page × State :=
  if !s.enabled pgMmu || decide (2 ^ 48 ≤ va) then (none, s.xlateFail va)
  else
    match s.tlb.find? (fun e => e.agent == agent && decide (e.va ≤ va) && decide (va < e.va + e.size)) with
    | some e =>
      if pageAllows e.w e.x write fetch then (some ⟨e.pa + (va - e.va), e.w, e.x, e.c, e.strm⟩, s)
      else (none, s.xlateFail va)
    | none =>
      let s0 := s.meetWalk va
      let s1 := s0.count32 (pgMmu + 0x074) 1
      match walkFrom s0 va 4 (s.reg64 (pgMmu + 0x040) % 2 ^ 48) with
      | .page pa size w x c strm =>
        let base := va / size * size
        let s2 := { s1 with tlb := ⟨agent, base, pa, size, w, x, c, strm⟩ :: s1.tlb }
        if pageAllows w x write fetch then (some ⟨pa + va % size, w, x, c, strm⟩, s2) else (none, s2.xlateFail va)
      | .fail => (none, s1.xlateFail va)
      | .poisoned ea => (none, (s1.xlateFail va).poisonRead .mmu 0 ea)

/-- Translating an address reads a table entry on a channel that serves nothing now: the walk waits, and what needs it (R465,
R473). -/
def State.walkHeld (s : State) (agent va : Nat) : Bool :=
  s.someHeld && s.enabled pgMmu && decide (va < 2 ^ 48)
    && !(s.tlb.any fun e => e.agent == agent && decide (e.va ≤ va) && decide (va < e.va + e.size))
    && (walkReads s va 4 (s.reg64 (pgMmu + 0x040) % 2 ^ 48)).any s.chanHeld

/-- Split a range at 64 KiB boundaries, the smallest page (R638). -/
def splitPages : Nat → Nat → Nat → List (Nat × Nat)
  | 0, _, _ => []
  | f + 1, va, n =>
    if n = 0 then []
    else
      let m := min n (0x10000 - va % 0x10000)
      (va, m) :: splitPages f (va + m) (n - m)

/-- The 64 KiB pieces of a range of virtual addresses, which wrap at 2^64. -/
def pieces (va n : Nat) : List (Nat × Nat) := splitPages (n / 0x10000 + 2) va n

/-- Some piece of a range of virtual addresses waits for its walk. -/
def State.walksHeld (s : State) (agent va n : Nat) : Bool := s.someHeld && (pieces va n).any fun p => s.walkHeld agent p.1

/-- Translate every piece for an agent; the first that fails is named. -/
def State.xlateAll (s : State) (agent : Nat) (write : Bool) : List (Nat × Nat) → Except Nat (List (Page × Nat)) × State
  | [] => (.ok [], s)
  | (va, n) :: l =>
    match s.xlate agent va write false with
    | (none, s1) => (.error va, s1)
    | (some p, s1) =>
      match s1.xlateAll agent write l with
      | (.ok ps, s2) => (.ok ((p, n) :: ps), s2)
      | (.error e, s2) => (.error e, s2)

/-- Translate a range for an agent that reads or writes memory directly (R348). -/
def State.xlateRange (s : State) (agent va n : Nat) (write : Bool) : Except Nat (List (Page × Nat)) × State :=
  s.xlateAll agent write (pieces va n)

/-- The reads of translated pieces meet what stands there (R363, R467). -/
def State.meetPieces (s : State) (ps : List (Page × Nat)) : State := ps.foldl (fun acc p => acc.meet p.1.pa p.2) s

/-- Some piece lies on a channel that serves nothing now (R465, R473). -/
def State.piecesHeld (s : State) (ps : List (Page × Nat)) : Bool := ps.any fun p => s.anyHeld p.1.pa p.2

/-- Read translated pieces; poison of any of them. -/
def State.readPieces (s : State) (ps : List (Page × Nat)) : List Byte × Bool :=
  (ps.flatMap fun (p, n) => s.readPa p.pa n, ps.any fun (p, n) => s.badPa p.pa n)

/-- Write data over translated pieces. -/
def State.writePieces (s : State) : List (Page × Nat) → List Byte → Bool → State
  | [], _, _ => s
  | (p, n) :: ps, l, bad => (s.writePa p.pa (l.take n) bad).writePieces ps (l.drop n) bad

/-- Every piece is reachable (R455). -/
def State.piecesOk (s : State) (ps : List (Page × Nat)) : Bool := ps.all fun (p, n) => s.reachableRange p.pa n

/-- MMU.INVCMD 1: every translation cache drops every entry (R640, R641). -/
def execInvcmdAll (s : State) : Host.Outcome State Fault Refusal :=
  if !s.serves .mmu then .next s else
  .next { s with tlb := [] }

/-- The entries of a virtual range leave every translation cache (R640). -/
def State.dropRange (s : State) (va len : Nat) : State :=
  { s with tlb := s.tlb.filter fun e => !(decide (e.va < va + len) && decide (va < e.va + e.size)) }

/-- MMU.INVCMD 2: the entries of the range INVVA, INVLEN × 64 KiB are dropped everywhere; INVLEN 0 is refused with
reason 0x01 (R640, R641, R662). -/
def execInvcmdRange (s : State) : Host.Outcome State Fault Refusal :=
  if !s.serves .mmu then .next s else
  let len := s.reg (pgMmu + 0x058)
  if len = 0 then .next (s.refuse (pgMmu + 0x048) 0x01)
  else .next (s.dropRange (s.reg64 (pgMmu + 0x050) % 2 ^ 48 / 0x10000 * 0x10000) (len * 0x10000))

end Sys2Proof.Machine
end

