-- ==== Sys2Proof/Machine/HostBase.lean ====
section
/-! DEFINITION. Machine/HostBase.lean: how a host command starts and ends (R645 to R652). -/

namespace Sys2Proof.Machine

open Sys2Proof

/-- Completion statuses of host commands (R651). -/
def hsOk : Nat := 0
def hsDuplicate : Nat := 1
def hsRefused : Nat := 2
def hsFault : Nat := 3
def hsAborted : Nat := 4
def hsPoisoned : Nat := 5
def hsTimeout : Nat := 6
def hsPartial : Nat := 7

/-- Commands that run alongside later commands of their queue (R645). -/
def runsAlongside (op : Nat) : Bool := op == 0x01 || op == 0x02 || op == 0x08 || op == 0x09 || op == 0x0A || op == 0x0B

/-- Commands the device still executes in the halt (R561). -/
def runsInHalt (op : Nat) : Bool := op == 0x0F || op == 0x03 || op == 0x02 || op == 0x0A || op == 0x0B || op == 0x0E

/-- Commands are executed in READY (R595); in the halt only those of R561; after a device-fatal event only NOP (R564). -/
def State.mayRun (s : State) (op : Nat) : Bool :=
  s.ready && (if s.ras.dfatal then op == 0x0F else !s.ras.halted || runsInHalt op)

/-- A launch whose roots are not all placed stops its queue (R448). -/
def State.launchHeld (s : State) (q : Nat) : Bool := s.graphs.any fun g => g.2.queue == q && !g.2.roots.isEmpty

/-- The next command of a queue to start, when it has this opcode and may start now: commands start in acceptance order;
one that does not run alongside others, or has `WAIT` set, only when every earlier one has completed (R645). -/
def State.hostNext (s : State) (q op : Nat) : Option HCmd :=
  let cmds := (s.hostQ q).cmds
  if s.launchHeld q || !s.mayRun op then none
  else match cmds.find? fun c => !c.started && c.done.isNone with
  | some c =>
    let earlier := cmds.takeWhile fun x => x.started || x.done.isSome
    if dfld c.raw 0 1 == op
        && ((runsAlongside op && !bitOf (dfld c.raw 1 1) 0) || earlier.all fun x => x.done.isSome) then some c
    else none
  | none => none

def State.modHostQ (s : State) (q : Nat) (f : HostQ → HostQ) : State := s.setHostQ q (f (s.hostQ q))

/-- A command starts. -/
def State.hostStart (s : State) (q cid : Nat) : State :=
  s.modHostQ q fun k => { k with cmds := k.cmds.map fun c => if c.cid == cid && c.done.isNone then { c with started := true } else c }

/-- A command ends with a status, a reason and a result; its completion is posted in its turn (R646, R650). The window of
its queue remembers how it ended, and duplicates of it report that (R652). -/
def State.hostEnd (s : State) (q cid status reason result : Nat) : State :=
  let s1 := s.modHostQ q fun k =>
    { k with
      cmds := k.cmds.map fun c =>
        if c.cid == cid && c.done.isNone then
          { c with started := true, done := some (if c.dup then (hsDuplicate, 0, status + 256 * reason) else (status, reason, result)) }
        else c
      window := k.window.map fun p => if p.1 == cid && p.2.isNone then (cid, some (status, reason)) else p }
  if status = hsRefused then s1.count32 (pgQue q + 0x074) 1 else s1

/-- A command that starts and ends in one step. -/
def State.hostRefuse (s : State) (q cid reason : Nat) : State := s.hostEnd q cid hsRefused reason 0

/-- Run the next command of a queue if it has this opcode and may start. -/
def State.hostRun (s : State) (q op : Nat) (f : HCmd → State → State) : State :=
  match s.hostNext q op with
  | some c => f c s
  | none => s

end Sys2Proof.Machine
end

