-- ==== Sys2Proof/Machine/Link.lean ====
section
/-! DEFINITION. Machine/Link.lean: links: packets and flits, retry and credits, the link states, discovery and the cabling
check (R486 to R496, R509, R510, R517, R518, R520). -/

namespace Sys2Proof.Machine

open Sys2Proof

/-! ## Packets and flits (R488, R489) -/

/-- The 32-byte header and payload of a packet as they cross a link (R489). -/
def packetBytes (p : Packet) : List Byte :=
  toBytes 4 p.dst.toNat ++ toBytes 4 p.src.toNat ++ toBytes 1 (p.cls.toNat + 8 * p.kind.toNat)
    ++ toBytes 1 ((if p.detour then 1 else 0) + (if p.slow then 2 else 0)) ++ toBytes 2 p.flow.toNat
    ++ toBytes 4 p.fseq.toNat ++ toBytes 2 p.jobtag.toNat ++ [p.hops, p.epoch] ++ toBytes 4 p.waypt.toNat
    ++ toBytes 2 p.payload.length ++ toBytes 6 p.extra.toNat ++ p.payload

/-- A packet from its bytes. -/
def packetOf (l : List Byte) : Packet :=
  let f := fun off n => ofBytes ((l.drop off).take n)
  { dst := BitVec.ofNat 18 (f 0 4), src := BitVec.ofNat 18 (f 4 4), cls := BitVec.ofNat 3 (f 8 1)
    kind := BitVec.ofNat 5 (f 8 1 / 8), detour := bitOf (f 9 1) 0, slow := bitOf (f 9 1) 1
    flow := BitVec.ofNat 12 (f 10 2), fseq := BitVec.ofNat 32 (f 12 4), jobtag := BitVec.ofNat 16 (f 16 2)
    hops := BitVec.ofNat 8 (f 18 1), epoch := BitVec.ofNat 8 (f 19 1), waypt := BitVec.ofNat 18 (f 20 4)
    extra := BitVec.ofNat 48 (f 26 6), payload := (l.drop 32).take (f 24 2) }

/-- Body bytes of a flit, and bytes of a whole flit (R488). -/
def bodyLen (v2 : Bool) : Nat := if v2 then 112 else 240
def flitLen (v2 : Bool) : Nat := if v2 then 128 else 256

/-- The largest payload of a packet (R489). -/
def maxPayload (v2 : Bool) : Nat := if v2 then 1024 else 2048

/-- Cut bytes into bodies of `n`. -/
def cut (n : Nat) : Nat → List Byte → List (List Byte)
  | 0, _ => []
  | f + 1, l => if l.isEmpty then [] else l.take n :: cut n f (l.drop n)

/-- A flit (R488). -/
def mkFlit (v2 : Bool) (ftype vl lseq lack : Nat) (body : List Byte) : List Byte :=
  let n := bodyLen v2
  let h := toBytes 1 (ftype + 16 * vl) ++ [0] ++ toBytes 2 lseq ++ toBytes 2 lack ++ toBytes 2 body.length ++ toBytes 4 0
    ++ body ++ List.replicate (n - body.length) 0
  h ++ toBytes 4 (crc32 h).toNat

/-- Flits of a packet: how many. -/
def packetFlits (v2 : Bool) (p : Packet) : Nat := (32 + p.payload.length + bodyLen v2 - 1) / bodyLen v2

/-- Flits the retry buffer holds (R490). -/
def retryCap (v2 : Bool) : Nat := if v2 then 4096 else 2048

/-- `LSEQ` of the last data flit received in order (R488). -/
def Link.lack (k : Link) : Nat := (k.rxSeq + 0xFFFF) % 0x10000

/-- Send a link-control flit: without credit, outside every flow, numbered 0 (R488, R490). -/
def State.sendControl (s : State) (l : Nat) (body : List Byte) : State :=
  s.emit (.flit l (mkFlit (s.link l).v2 3 0 0 (s.link l).lack body))

/-! ## Link events -/

/-- `TOP.LNKEVT` bits; each raises vector 260 (R521, R655). -/
def State.linkEvent (s : State) (bit : Nat) : State :=
  (s.setReg (pgTop + 0x0A4) (s.reg (pgTop + 0x0A4) ||| 2 ^ bit)).raiseVec 1 260

/-- A link that the boot enabled on a device that has started its links (R595, R601). -/
def State.linkOn (s : State) (l : Nat) : Bool :=
  s.ready && bitOf s.boot.links.toNat l && s.enabled (pgLnk l) && s.pw.rackValid && !s.pw.holdover

def State.linkUp (s : State) (l : Nat) : Bool := (s.link l).st == 4 || (s.link l).st == 5

/-- A lane drop ends: its DEGRADED event is recorded with the interruption (R494, R552, R556, R569). -/
def State.dropDone (s : State) (l : Nat) : State :=
  match (s.link l).drop with
  | none => s
  | some d => (s.modLink l fun k => { k with drop := none }).lightEvent
      { cls := 2, reason := 0, btype := Block.code .lnk, inst := l, unit := d.lane, dur := s.usSince d.since, time := some d.since }

/-- A link goes `DOWN`: its transmitter is silent, its numbering will begin anew (R493). Its flows move by
LINK_DOWN_FAILOVER. -/
def State.linkDown (s : State) (l : Nat) : State :=
  (s.dropDone l).modLink l fun k =>
    { k with
      st := 0, retry := [], txSeq := 0, rxSeq := 0, nakOut := false, nakIn := none, resends := 0, credits := [], granted := false
      rxPart := [], retryTrain := false, fell := if k.st = 0 then k.fell else some s.now.toNat }

/-- The lanes of a link that the boot found bad (R601). -/
def State.bootLanes (s : State) (l : Nat) : Byte :=
  (s.boot.badLanes.filter fun n => n / 8 == l).foldl (fun m n => m ||| (1#8 <<< (n % 8))) 0

/-- A link starts training at the rate that `COMPAT` selects (R487, R493). Trained afresh, with a lane that the boot found bad
it trains on the half that holds none (R601); a 4-lane link stays on its half until it is trained afresh (R494), unless both
halves hold a failed lane. -/
def State.linkTrain (s : State) (l : Nat) (fresh : Bool := false) : State :=
  let bad := s.bootLanes l
  s.modLink l fun k =>
    let k1 := { k with st := 1, v2 := s.rbit (pgLnk l + 0x010) 2, retryTrain := false }
    let lost := (k.failed &&& 0x0F) != 0 && (k.failed &&& 0xF0) != 0
    if k.x4 && !fresh && !lost then k1
    else { k1 with failed := bad, x4 := bad != 0, half := if bad &&& 0x0F != 0 then 1 else 0 }

/-! ## Sending (R490, R492) -/

/-- Near-end loopback: what a link sends comes back to its own receiver, and nothing of its peer's does (R520; log entry
163). -/
def State.looped (s : State) (l : Nat) : Bool := s.rbit (pgLnk l + 0x040) 2

/-- Send the flits of a packet on a link: numbered, kept in the retry buffer, counted. Looped back, they are received at once, in
order, and covered. -/
def State.putPacket (s : State) (l vl : Nat) (p : Packet) : State :=
  let k := s.link l
  let bodies := cut (bodyLen k.v2) (packetFlits k.v2 p) (packetBytes p)
  let fl := (bodies.zip (List.range bodies.length)).map fun (b, i) =>
    let n := (k.txSeq + i) % 0x10000
    (n, mkFlit k.v2 (if i = 0 then 1 else 2) vl n k.lack b)
  if s.looped l then
    ((s.setLink l
      { k with
        txSeq := (k.txSeq + fl.length) % 0x10000, rxSeq := (k.rxSeq + fl.length) % 0x10000
        credits := nset k.credits vl (nget k.credits vl 0 - 1), rxPkts := k.rxPkts ++ [(vl, p)] }).count64 (pgLnk l + 0x060) fl.length).count64
      (pgLnk l + 0x068) fl.length
  else
  let s1 := s.setLink l
    { k with
      retry := k.retry ++ fl
      txSeq := (k.txSeq + fl.length) % 0x10000
      credits := nset k.credits vl (nget k.credits vl 0 - 1) }
  let s2 := fl.foldl (fun acc f => acc.emit (.flit l f.2)) s1
  (s2.emit (.packet l p)).count64 (pgLnk l + 0x060) fl.length

/-- A packet may go now: the link carries data, its lane has credit and the retry buffer has room. -/
def State.canPut (s : State) (l vl : Nat) (p : Packet) : Bool :=
  let k := s.link l
  k.st == 4 && decide (0 < nget k.credits vl 0) && decide (k.retry.length + packetFlits k.v2 p ≤ retryCap k.v2)

/-- Send what waits on a link, each lane in order. -/
def State.drainLink (s : State) (l : Nat) : State :=
  let w := (s.link l).waitPkts
  let (s1, left, _) := w.foldl (fun (acc : State × List (Nat × Packet) × List Nat) (e : Nat × Packet) =>
      let (a, left, stuck) := acc
      if !stuck.contains e.1 && a.canPut l e.1 e.2 then (a.putPacket l e.1 e.2, left, stuck)
      else (a, left ++ [e], e.1 :: stuck))
    (s.modLink l fun k => { k with waitPkts := [] }, [], [])
  s1.modLink l fun k => { k with waitPkts := left }

/-- Send a packet on a link's virtual lane; it waits for credit behind those of its lane (R492). -/
def State.sendOn (s : State) (l vl : Nat) (p : Packet) : State :=
  (s.modLink l fun k => { k with waitPkts := k.waitPkts ++ [(vl, p)] }).drainLink l

/-- Flits queued at a link (R498). -/
def State.queuedFlits (s : State) (l : Nat) : Nat :=
  let k := s.link l
  k.retry.length + (k.waitPkts.map fun e => packetFlits k.v2 e.2).foldl (· + ·) 0

/-- Resend the unacknowledged flits from a position on: a CORRECTED event of at most 5 µs (R490, R552, R556). -/
def State.resendFrom (s : State) (l i : Nat) : State :=
  let fl := (s.link l).retry.drop i
  if fl.isEmpty then s
  else
    let s1 := fl.foldl (fun acc f => acc.emit (.flit l f.2)) s
    let (d, s2) := (s1.count32 (pgLnk l + 0x080) fl.length).takeDur 5
    s2.lightEvent { cls := 0, reason := 0, btype := Block.code .lnk, inst := l, unit := l, dur := d }

/-! ## Receiving (R488, R490) -/

/-- `LACK` frees the data flits it covers; what waits for their room goes. A lane drop ends when the flits resent for it are
covered (R490, R556). -/
def State.takeLack (s : State) (l lack : Nat) : State :=
  match posOfSeq (s.link l).retry lack 0 with
  | some i =>
    let s1 := s.modLink l fun k => { k with retry := k.retry.drop (i + 1), lastAck := lack, resends := 0 }
    let past := ((s1.link l).drop.bind (·.last)).any fun n => (posOfSeq (s1.link l).retry n 0).isNone
    (if past then s1.dropDone l else s1).drainLink l
  | none => s
where
  /-- Position of a number in the retry buffer. -/
  posOfSeq : List (Nat × List Byte) → Nat → Nat → Option Nat
    | [], _, _ => none
    | f :: r, n, i => if f.1 = n then some i else posOfSeq r n (i + 1)

/-- Discard a data flit: a negative acknowledgement names the number expected. Until that flit arrives the flits behind it are
discarded in silence, but one that fails its CRC may be the resent flit itself and is answered again (R490; log entry 162). -/
def State.sendNak (s : State) (l : Nat) (crc : Bool) : State :=
  if (s.link l).nakOut && !crc then s
  else (s.modLink l fun k => { k with nakOut := true }).emit (.nak l (s.link l).rxSeq)

/-- A body joins its packet; a packet whose payload is complete has been received (R489). -/
def State.takeBody (s : State) (l vl : Nat) (first : Bool) (body : List Byte) : State :=
  let k := s.link l
  let old := if first then [] else nget k.rxPart vl []
  if !first && old.isEmpty then s
  else
    let all := old ++ body
    let p := packetOf all
    let want := 32 + ofBytes ((all.drop 24).take 2)
    if decide (32 ≤ all.length) && decide (want ≤ all.length) then
      s.setLink l { k with rxPart := ndel k.rxPart vl, rxPkts := k.rxPkts ++ [(vl, p)] }
    else s.setLink l { k with rxPart := nset k.rxPart vl all }

/-- FEC codewords of a flit that were corrected or could not be: counted; a correction is a CORRECTED event (R520, R552). -/
def State.fecCount (s : State) (l : Nat) (flit : Flit) : State :=
  let s1 := (s.count64 (pgLnk l + 0x070) flit.corrected).count32 (pgLnk l + 0x078) flit.uncorrectable
  if flit.corrected = 0 then s1 else s1.lightEvent { cls := 0, reason := 0, btype := Block.code .lnk, inst := l, unit := l }

/-- DATA_FLIT_RECEIVE: a flit arrives on a link that carries data (R488 to R490). -/
def execDataFlitReceive (l : LinkId) (flit : Flit) (s0 : State) : Host.Outcome State Fault Refusal :=
  let k := s0.link l
  if flit.bytes.length != flitLen k.v2 then .fault (.illFormed "DATA_FLIT_RECEIVE")
  else if (k.st != 4 && k.st != 5) || s0.looped l then .next s0
  else
    let s := s0.fecCount l flit
    let n := flit.bytes.length - 4
    let f := fun off m => ofBytes ((flit.bytes.drop off).take m)
    let ftype := f 0 1 % 16
    if (crc32 (flit.bytes.take n)).toNat != f n 4 || decide (6 ≤ ftype) then
      .next ((s.count32 (pgLnk l + 0x07C) 1).sendNak l true)
    else
      let s1 := s.takeLack l (f 4 2)
      if ftype != 1 && ftype != 2 then .next s1
      else if f 2 2 != k.rxSeq then .next (s1.sendNak l false)
      else
        let s2 := s1.modLink l fun x => { x with rxSeq := (x.rxSeq + 1) % 0x10000, nakOut := false }
        .next ((s2.count64 (pgLnk l + 0x068) 1).takeBody l (f 0 1 / 16 % 4) (ftype == 1)
          ((flit.bytes.drop 12).take (min (f 6 2) (bodyLen k.v2))))

/-- The sender resends from the named flit in order, unless it has been resent 16 times (R490, R491). -/
def State.takeNak (s : State) (l lseq : Nat) : State :=
  match State.takeLack.posOfSeq (s.link l).retry lseq 0 with
  | some i =>
    if 16 ≤ (s.link l).resends then s else (s.modLink l fun x => { x with resends := x.resends + 1 }).resendFrom l i
  | none => s

/-- NEGATIVE_ACK_RECEIVE: the sender resends from the named flit; during an equalisation step, which pauses data flits, at its end
(R490, R495). -/
def execNegativeAckReceive (l : LinkId) (lseq : Lseq) (s : State) : Host.Outcome State Fault Refusal :=
  if (s.link l).st = 4 then .next (s.takeNak l lseq.toNat)
  else if (s.link l).st = 5 then .next (s.modLink l fun k => { k with nakIn := some lseq.toNat })
  else .next s

/-- An equalisation step ends: a resend that was asked for during it goes first, then what waits (R490, R495). -/
def State.eqDone (s : State) (l : Nat) : State :=
  let s1 := s.modLink l fun k => { k with st := 4, nakIn := none }
  (match (s.link l).nakIn with | some n => s1.takeNak l n | none => s1).drainLink l

/-- Credits of a lane reach the peer in a link-control flit; looped back, they are this link's own (R492). -/
def State.sendCredit (s : State) (l vl n : Nat) : State :=
  if s.looped l then (s.modLink l fun k => { k with credits := nset k.credits vl (nget k.credits vl 0 + n) }).drainLink l
  else s.emit (.credit l vl n)

/-- FLIT_RESEND_LIMIT: a flit resent 16 times without `LACK` advancing takes the link down (R491). -/
def execFlitResendLimit (l : LinkId) (s : State) : Host.Outcome State Fault Refusal :=
  if 16 ≤ (s.link l).resends then .next (s.linkDown l) else .next s

/-- LINK_CONTROL_CREDIT: credits let packets waiting on a lane proceed (R492). -/
def execLinkControlCredit (l : LinkId) (vl : VLane) (n : Nat) (s : State) : Host.Outcome State Fault Refusal :=
  if ((s.link l).st = 4 ∨ (s.link l).st = 5) ∧ s.looped l = false then
    .next ((s.modLink l fun k => { k with credits := nset k.credits vl (nget k.credits vl 0 + n) }).drainLink l)
  else .next s

/-! ## States (R493, R494) -/

def halfMask (h : Nat) : Byte := if h = 0 then 0x0F else 0xF0

/-- LANE_FAILURE: with `AUTOX4` the link retrains on the half that holds no failed lane, keeping its retry buffer and
numbering; with both halves failed it goes `DOWN`. An equalisation step is abandoned (R494, R559). -/
def execLaneFailure (l : LinkId) (lane : Lane) (s : State) : Host.Outcome State Fault Refusal :=
  let k := s.link l
  if k.st = 0 then .next s
  else
    let failed := k.failed ||| (1#8 <<< lane.val)
    let s0 := s.setLink l { k with failed := failed }
    let s1 := if k.st = 5 then s0.eqDone l else s0
    let bad0 := (failed &&& halfMask 0) != 0
    let bad1 := (failed &&& halfMask 1) != 0
    if bad0 && bad1 then .next (s1.linkDown l)
    else if !s.rbit (pgLnk l + 0x040) 0 then .next s1
    else
      let h := if bad0 then 1 else 0
      if k.x4 && k.half == h then .next s1
      else
        let s2 := s1.modLink l fun x =>
          { x with
            st := 1, x4 := true, half := h, retryTrain := false
            drop := x.drop.orElse fun _ => some { lane := lane, since := s.now.toNat } }
        .next (s2.count32 (pgLnk l + 0x084) 1)


/-- LINK_TRAIN_RETRY: training failed; a v3 link tries 100 Gb/s once to read its peer's discovery flits, and is classed
`VERSION` if it trains so (R493, R510). -/
def execLinkTrainRetry (l : LinkId) (s : State) : Host.Outcome State Fault Refusal :=
  let k := s.link l
  if k.st = 1 then .next (s.setLink l { k with retryTrain := !k.v2 && !k.retryTrain }) else .next s

/-- RETRAIN: `LCTL.RETRAIN` retrains a link on 8 lanes (R494, R520). -/
def execRetrain (l : LinkId) (s : State) : Host.Outcome State Fault Refusal :=
  if !s.serves .lnk || (s.link l).held || !s.linkOn l then .next s
  else .next (s.linkTrain l true)

/-- LINK_HOLD: `LCTL.HOLD` takes a link `DOWN` and keeps it there (R493, R520). -/
def execLinkHold (l : LinkId) (s : State) : Host.Outcome State Fault Refusal :=
  .next (if s.serves .lnk then (s.linkDown l).modLink l fun k => { k with held := true } else s)

/-- LINK_RELEASE: a released link trains when the reference is valid (R493, R520). -/
def execLinkRelease (l : LinkId) (s : State) : Host.Outcome State Fault Refusal :=
  if !s.serves .lnk then .next s else
  let s1 := s.modLink l fun k => { k with held := false }
  if (s.link l).st = 0 ∧ s.linkOn l = true then .next (s1.linkTrain l) else .next s1

/-! ## Ports (R497) -/

/-- The port of a link, or none. -/
def State.portOf (s : State) (l : Nat) : Option Nat :=
  let p := fld (if l < 8 then s.reg (pgTop + 0x078) else s.reg (pgTop + 0x07C)) (4 * (l % 8)) 4
  if p < 8 then some p else none

/-- The direction of a port, or none. -/
def State.portDir (s : State) (p : Nat) : Option Nat :=
  let d := s.rfld (pgTop + 0x080) (4 * p) 4
  if d < 6 then some d else none

/-- The links that serve a direction: of every port of that direction (R497). -/
def State.dirLinks (s : State) (d : Nat) : List Nat :=
  (List.range 16).filter fun l => match s.portOf l with
    | some p => s.portDir p == some d
    | none => false

/-- The direction that a link serves. -/
def State.linkDir (s : State) (l : Nat) : Option Nat := (s.portOf l).bind s.portDir

/-- Other links of the port that are `UP`. -/
def State.portPeersUp (s : State) (l : Nat) : List Nat :=
  match s.portOf l with
  | some p => (List.range 16).filter fun m => m != l && s.portOf m == some p && s.linkUp m
  | none => []

/-! ## Discovery and the cabling check (R509, R510) -/

/-- A link enters `DISCOVER` and sends its discovery flits: serial hash, own coordinate, port (15 for none) and link, protocol
(R493, R510). -/
def State.toDiscover (s : State) (l : Nat) : State :=
  (s.modLink l fun k => { k with st := 2 }).emit
    (.discovery l (s.reg64 (pgTop + 0x044)) (s.reg (pgTop + 0x040) % 2 ^ 18) ((s.portOf l).getD 15) (s.link l).v2)

/-- LINK_TRAIN_DONE: a trained link exchanges discovery flits (R493). -/
def execLinkTrainDone (l : LinkId) (s : State) : Host.Outcome State Fault Refusal :=
  if (s.link l).st = 1 ∧ s.linkOn l = true then .next (s.toDiscover l) else .next s

/-- A field of the loaded plan. -/
def planFld (pl : List Byte) (off n : Nat) : Nat := ofBytes ((pl.drop off).take n)

def planSer (pl : List Byte) (l : Nat) : Nat := planFld pl (64 + 32 * l) 8
def planLink (pl : List Byte) (l : Nat) : Nat := planFld pl (64 + 32 * l + 12) 1 % 16
def planV2 (pl : List Byte) (l : Nat) : Bool := bitOf (planFld pl (64 + 32 * l + 13) 1) 0

/-- A peer matches the entry of a link (R510). -/
def peerMatches (pl : List Byte) (l : Nat) (p : PeerInfo) : Bool :=
  p.serial.toNat == planSer pl l && p.link.val == planLink pl l

/-- Change a link's class; each change is a link event (R510). -/
def State.setClass (s : State) (l cls : Nat) (pair : Option Nat) : State :=
  let k := s.link l
  let s1 := s.setLink l { k with cls := cls, pair := pair }
  if k.cls = cls then s1 else s1.linkEvent 0

/-- A link's peer runs another protocol than its entry or than the link, or was met at 100 Gb/s by a link of 200 (R493, R510). -/
def State.versionBad (s : State) (pl : List Byte) (l : Nat) (p : PeerInfo) : Bool :=
  p.v2 != planV2 pl l || p.v2 != (s.link l).v2 || (s.link l).retryTrain

/-- Another link beyond `DISCOVER` whose entry the peer matches, and whose peer matches this link's entry. -/
def State.swappedWith (s : State) (pl : List Byte) (l : Nat) (p : PeerInfo) : Option Nat :=
  (List.range 16).find? fun m =>
    m != l && decide (3 ≤ (s.link m).st) && peerMatches pl m p
      && (match (s.link m).peer with | some pm => peerMatches pl l pm | none => false)

/-- The partner of a swapped link is classed with it, unless an earlier row of the table applies to it (R510). -/
def State.classPartner (s : State) (pl : List Byte) (l m : Nat) : State :=
  match (s.link m).peer with
  | none => s
  | some pm =>
    if planSer pl m = 0 ∨ s.versionBad pl m pm = true ∨ peerMatches pl m pm = true then s
    else (s.setClass m 4 (some l)).modLink m fun x => { x with st := 3 }

/-- A link becomes `UP`: its receive buffers are granted to the peer if they are not yet, unacknowledged flits are resent, waiting
packets go (R490, R492, R493, R494). -/
def State.linkGoUp (s : State) (l : Nat) : State :=
  let last := (s.link l).retry.getLast?.map (·.1)
  let s1 := s.modLink l fun k =>
    { k with st := 4, granted := true, fell := none, drop := k.drop.map fun d => { d with last := last } }
  let s2 : State := { s1 with top := { s1.top with detourOn := s1.top.detourOn.filter fun d => s1.linkDir l != some d } }
  let s3 := if (s.link l).granted then s2 else (List.range 4).foldl (fun acc vl => acc.sendCredit l vl Config.laneCredit) s2
  let s4 := if last.isNone then s3.dropDone l else s3
  (s4.resendFrom l 0).drainLink l

/-- Class a link that has exchanged discovery flits (R510). -/
def State.classify (s : State) (l : Nat) : State :=
  match s.top.plan, (s.link l).peer with
  | some pl, some p =>
    let k := s.link l
    let toChecked := fun (a : State) => a.modLink l fun x => { x with st := 3 }
    if planSer pl l = 0 then toChecked (s.setClass l 3 none)
    else if s.versionBad pl l p then toChecked (s.setClass l 6 none)
    else if peerMatches pl l p then
      let s1 := s.setClass l 1 none
      if k.st = 4 then s1 else s1.linkGoUp l
    else
      match s.swappedWith pl l p with
      | some m => (toChecked (s.setClass l 4 (some m))).classPartner pl l m
      | none => toChecked (s.setClass l 5 none)
  | _, _ => s.modLink l fun x => { x with st := 3 }

/-- A link's numbering and credit begin anew with a peer it has not carried data with (R490, R492, R493). -/
def Link.afresh (k : Link) : Link :=
  { k with
    retry := [], txSeq := 0, rxSeq := 0, nakOut := false, nakIn := none, resends := 0, credits := [], granted := false, rxPart := [] }

/-- DISCOVERY_EXCHANGE: a link in `DISCOVER` learns its peer and is classed; a new peer on a link beyond it takes it back to
`DISCOVER`, to exchange discovery flits with that peer (R493, R510). -/
def execDiscoveryExchange (l : LinkId) (peer : PeerInfo) (s : State) : Host.Outcome State Fault Refusal :=
  let k := s.link l
  if k.st = 2 then
    .next ((s.setLink l { (if k.peer = some peer then k else k.afresh) with st := 3, peer := some peer }).classify l)
  else if 2 < k.st ∧ k.peer ≠ some peer then .next ((s.setLink l { k.afresh with peer := none }).toDiscover l)
  else .next s

/-- The port that lost a link is degraded (R510, R521). -/
def State.portDegraded (s : State) : State := s.linkEvent 1

/-- DISCOVERY_TIMEOUT: two seconds after READY and the plan load, a link that has not trained and whose entry expects a
peer is `MISSING` (R510). -/
def execDiscoveryTimeout (s : State) : Host.Outcome State Fault Refusal :=
  match s.top.plan with
  | none => .next s
  | some pl =>
    .next ((List.range 16).foldl (fun acc l =>
      if acc.ready && bitOf acc.boot.links.toNat l && decide ((acc.link l).st < 2) && planSer pl l != 0 then
        ((acc.setClass l 2 none).linkDown l).portDegraded
      else acc) s)

/-- Own coordinate, from the plan (R509, R521). -/
def State.coord (s : State) : Nat := s.reg (pgTop + 0x040) % 2 ^ 18

/-- Whether the reserved fields of a plan are 0 and its extents 1 to 64 (R509). -/
def planOk (pl : List Byte) : Bool :=
  let pe := planFld pl 20 4
  fld (planFld pl 16 4) 18 14 == 0 && pe / 2 ^ 21 == 0 && fld (planFld pl 24 1) 4 4 == 0
    && ((pl.drop 25).take 39).all (· == 0)
    && [fld pe 0 7, fld pe 7 7, fld pe 14 7].all (fun e => decide (1 ≤ e) && decide (e ≤ 64))
    && (List.range 16).all fun l =>
      let o := 64 + 32 * l
      fld (planFld pl (o + 8) 4) 18 14 == 0 && fld (planFld pl (o + 12) 1) 4 4 == 0 && fld (planFld pl (o + 13) 1) 1 7 == 0
        && ((pl.drop (o + 14)).take 18).all (· == 0)

/-- Load and check the cabling plan, and class the links again; the read waits for a channel that serves nothing (R465, R473,
R509, R510, R521, R522). -/
def planLoad (s : State) : State :=
  let off := pgTop + 0x058
  let a := s.reg64 (pgTop + 0x050) % 2 ^ 48
  if s.top.slice.isSome then s.refuse off 0x0D
  else if a % 64 ≠ 0 then s.refuse off 0x05
  else if !s.reachableRange a 576 then s.refuse off 0x06
  else if s.anyHeld a 576 then { s with chanWait := s.chanWait ++ [.plan] }
  else
  let s := s.meet a 576
  if s.badPa a 576 then (s.poisonRead .top 0 a).refuse off 0x80
  else
    let pl := s.readPa a 576
    if planFld pl 8 8 != s.reg64 (pgTop + 0x044) || !planOk pl then s.refuse off 0x80
    else
      let s1 := (({ s with top := { s.top with plan := some pl } }).setReg (pgTop + 0x040) (planFld pl 16 4 + 2 ^ 31)).setReg64
        (pgTop + 0x060) (planFld pl 0 8)
      (List.range 16).foldl (fun acc l => if 3 ≤ (acc.link l).st then acc.classify l else acc) s1

/-- PLAN_LOAD (R509, R521). -/
def execPlanLoad (s : State) : Host.Outcome State Fault Refusal := .next (if s.serves .top then planLoad s else s)

/-! ## Time flits (R517, R518) -/

/-- Two's complement of a signed nanosecond count in 32 bits. -/
def ns32 (i : Int) : Nat := unsgn 32 i

/-- Links beyond their bound, with their offsets: 10 ns on X and Y, 100 ns on Z (R518). -/
def State.timeExcess (s : State) : List (Nat × Nat) :=
  (List.range 16).filterMap fun l =>
    match s.linkDir l, (s.link l).st with
    | some d, 4 =>
      let o := (sgn 32 (s.reg (pgLnk l + 0x05C))).natAbs
      if (if d < 4 then 10 else 100) < o then some (l, o) else none
    | _, _ => none

/-- `TIMEERR` shows what holds now; a condition that arises is a link event (R518, R521). -/
def State.timeCheck (s : State) : State :=
  let ex := s.timeExcess
  let big := ex.foldl (fun (acc : Nat × Nat) e => if acc.2 < e.2 then e else acc) (0, 0)
  let v := (if s.top.noSync then 1 else 0) + (if ex.isEmpty then 0 else 2 + 4 * big.1)
  let old := s.reg (pgTop + 0x0A8)
  let s1 := s.setReg (pgTop + 0x0A8) v
  if (bitOf v 0 && !bitOf old 0) || (bitOf v 1 && !bitOf old 1) then s1.linkEvent 3 else s1

/-- A correction is taken, to be applied at the `RACK_SYNC` edge of timestamp `edge`, and goes out over the X and Y links that are
`UP`, but for the one it came by (R517; log entry 165). -/
def State.takeCorr (s : State) (c : Int) (edge : Nat) (by_ : Option Nat) : State :=
  (List.range 16).foldl (fun acc l => match s.linkDir l with
    | some d => if d < 4 ∧ (s.link l).st = 4 ∧ by_ ≠ some l then acc.emit (.correction l c edge) else acc
    | none => acc) { s with top := { s.top with rackCorr := c, corrFrom := some edge } }

/-- The `RACK_SYNC` edge 8 ms from now: an edge comes at a multiple of 1,000,000 (R516, R517). -/
def State.corrEdge (s : State) : Nat := (s.now.toNat + 8500000) / 1000000 * 1000000

/-- TIME_FLIT_EXCHANGE: a link sends its time and records its peer's offset; the gateway averages 256 of its Z link towards the
reference into the rack's correction; another module of the rack takes, and passes on, the correction that its X or Y peer carries
with the edge it is for (R517). -/
def execTimeFlitExchange (l : LinkId) (off : Int) (corr : Option (Int × Nat)) (s : State) : Host.Outcome State Fault Refusal :=
  if (s.link l).st ≠ 4 then .next s
  else
    let s1 := ((s.emit (.time l s.now.toNat)).setReg (pgLnk l + 0x05C) (ns32 off)).timeCheck
    let fl := planFld (s.top.plan.getD []) 24 1
    let timeref := bitOf fl 2
    if bitOf fl 1 then
      let want := if bitOf fl 3 then 4 else 5
      if s.linkDir l = some want then
        let os := off :: (s.link l).offsets
        if 256 ≤ os.length then
          let s2 := s1.modLink l fun k => { k with offsets := [] }
          if timeref then .next s2 else .next (s2.takeCorr (os.foldl (· + ·) 0 / 256) s.corrEdge none)
        else .next (s1.modLink l fun k => { k with offsets := os })
      else .next s1
    else
      match corr, s.linkDir l with
      | some (c, edge), some d =>
        if d < 4 ∧ timeref = false ∧ s.now.toNat < edge ∧ s.top.corrFrom ≠ some edge then .next (s1.takeCorr c edge (some l))
        else .next s1
      | _, _ => .next s1

/-- The clock is aligned to the rack: its reference is valid and the PLL runs from it (R573). -/
def State.rackAligned (s : State) : Bool := s.pw.powered && s.pw.rackValid && !s.pw.holdover

/-- RACK_SYNC_EDGE: the timestamp takes `TSSET` when armed, and the maintenance frame follows it (R581); otherwise it slews by at
most 1 ns towards the nearest millisecond, and by at most 1 ns of a rack correction that is due (R516, R517). Without the rack's
reference the timestamp runs on unaligned (R573). -/
def execRackSyncEdge (s : State) : Host.Outcome State Fault Refusal :=
  if !s.pw.powered then .next s
  else
  let s0 := ({ s with top := { s.top with noSync := false } }).timeCheck
  if !s.rackAligned then .next s0
  else if s.rbit (pgTop + 0x0AC) 0 then
    .next (({ s0 with
      now := BitVec.ofNat 64 (s.reg64 (pgTop + 0x0B8)), pw := { s0.pw with resync := true } } : State).setReg (pgTop + 0x0AC) 0)
  else
    let t := s.now.toNat % 1000000
    let near : Int := if t = 0 then 0 else if t ≤ 500000 then -1 else 1
    -- a correction that is due joins the slew still to be made
    let (slew, top) := match s0.top.corrFrom with
      | some d => if d ≤ s.now.toNat + 500000 then (s0.top.slew + s0.top.rackCorr, { s0.top with corrFrom := none }) else (s0.top.slew, s0.top)
      | none => (s0.top.slew, s0.top)
    let applied := s0.top.corrFrom.isSome && top.corrFrom.isNone
    let step : Int := if slew = 0 then near else if 0 < slew then 1 else -1
    let s1 := { s0 with
      now := BitVec.ofInt 64 ((s.now.toNat : Int) + step)
      top := { top with slew := if slew = 0 then 0 else slew - step } }
    .next (if applied then s1.setReg (pgTop + 0x0C0) (ns32 s.top.rackCorr) else s1)

/-- RACK_SYNC_MISSING: no edge for 2 ms (R518). -/
def execRackSyncMissing (s : State) : Host.Outcome State Fault Refusal :=
  if s.pw.powered then .next ({ s with top := { s.top with noSync := true } }).timeCheck else .next s

/-- PTM_EXCHANGE: the host's time less the device's is recorded (R519). -/
def execPtmExchange (hostTime : Nat) (s : State) : Host.Outcome State Fault Refusal :=
  if !s.pw.powered then .next s
  else .next (s.setReg64 (pgTop + 0x0C4) (unsgn 64 ((hostTime : Int) - (s.now.toNat : Int))))

end Sys2Proof.Machine
end

