-- ==== Sys2Proof/Machine/Route.lean ====
section
/-! DEFINITION. Machine/Route.lean: the torus: slices and ranks, dimension-order routing with detours, flows at their two
ends (R496 to R508, R512). -/

namespace Sys2Proof.Machine

open Sys2Proof

/-! ## Coordinates and the slice (R24, R512) -/

/-- Coordinate on an axis: 0 X, 1 Y, 2 Z. -/
def axisOf (c axis : Nat) : Nat := fld c (12 - 6 * axis) 6

def mkCoord (x y z : Nat) : Nat := x * 4096 + y * 64 + z

/-- Extent of the pod on an axis; 1 without a plan (R509). -/
def State.podExt (s : State) (axis : Nat) : Nat :=
  match s.top.plan with
  | some pl => fld (planFld pl 20 4) (7 * axis) 7
  | none => 1

def SliceInfo.ext (i : SliceInfo) (axis : Nat) : Nat := fld i.extent.toNat (7 * axis) 7
def SliceInfo.size (i : SliceInfo) : Nat := i.ext 0 * i.ext 1 * i.ext 2

/-- Offset of a coordinate from the slice origin on an axis, modulo the pod extent. -/
def State.offsetIn (s : State) (i : SliceInfo) (c axis : Nat) : Nat :=
  let e := s.podExt axis
  (axisOf c axis + e - axisOf i.origin.toNat axis % (max e 1)) % (max e 1)

/-- A coordinate lies in the slice (R512). -/
def State.inSlice (s : State) (i : SliceInfo) (c : Nat) : Bool :=
  [0, 1, 2].all fun a => decide (axisOf c a < s.podExt a) && decide (s.offsetIn i c a < i.ext a)

/-- Rank of a coordinate (R512). -/
def State.rankOf (s : State) (i : SliceInfo) (c : Nat) : Nat :=
  s.offsetIn i c 2 * i.ext 0 * i.ext 1 + s.offsetIn i c 1 * i.ext 0 + s.offsetIn i c 0

/-- Coordinate of a rank. -/
def State.coordOfRank (s : State) (i : SliceInfo) (r : Nat) : Nat :=
  let at_ := fun a o => (axisOf i.origin.toNat a + o) % max (s.podExt a) 1
  mkCoord (at_ 0 (r % i.ext 0)) (at_ 1 (r / i.ext 0 % i.ext 1)) (at_ 2 (r / (i.ext 0 * i.ext 1)))

/-- An axis that the slice spans whole is a ring (R499). -/
def State.isRing (s : State) (i : SliceInfo) (axis : Nat) : Bool := i.ext axis == s.podExt axis

/-- Directions that lead from here to a slice neighbour (R513). -/
def State.neighbourDirs (s : State) (i : SliceInfo) : List Nat :=
  (List.range 6).filter fun d =>
    let a := d / 2
    let o := s.offsetIn i s.coord a
    if i.ext a ≤ 1 then false
    else if s.isRing i a then true
    else if d % 2 = 0 then decide (o + 1 < i.ext a) else decide (0 < o)

/-! ## Routing (R499 to R503) -/

/-- The direction of dimension order towards a coordinate, and whether the hop crosses the axis's wrap link. -/
def State.dirTo (s : State) (i : SliceInfo) (c : Nat) : Option (Nat × Bool) :=
  let me := s.coord
  [0, 1, 2].findSome? fun a =>
    let x := axisOf me a
    let t := axisOf c a
    if x = t then none
    else
      let e := max (s.podExt a) 1
      let pos :=
        if s.isRing i a then decide ((t + e - x) % e ≤ (x + e - t) % e)
        else decide (s.offsetIn i me a < s.offsetIn i c a)
      some (2 * a + (if pos then 0 else 1), s.isRing i a && (if pos then x + 1 == e else x == 0))

/-- The `UP` links of a direction. -/
def State.upLinks (s : State) (d : Nat) : List Nat := (s.dirLinks d).filter s.linkUp

/-- The link that holds the fewest queued flits (R498). -/
def State.leastQueued (s : State) : List Nat → Option Nat
  | [] => none
  | l :: ls =>
    match s.leastQueued ls with
    | none => some l
    | some m => if s.queuedFlits m < s.queuedFlits l then some m else some l

/-- The virtual lane of a hop: lane 1 from the wrap link of an axis to its end, lane 0 otherwise; lanes 2 and 3 with
`DETOUR` (R500). `arr` is the axis and lane by which the packet came. -/
def hopLane (d : Nat) (wrap : Bool) (detour : Bool) (arr : Option (Nat × Nat)) : Nat :=
  let base := if wrap then 1 else match arr with
    | some (a, vl) => if a = d / 2 then vl % 2 else 0
    | none => 0
  base + (if detour then 2 else 0)

/-- A packet with no route is `JOB_FATAL` (R502, R552). -/
def State.noRoute (s : State) : State := s.fatal .top 0 0

/-- The link of a direction that a packet takes: the one its flow is pinned to, unless that is `DOWN`; then another `UP` link of
the same port; else the link of the direction that holds the fewest queued flits (R496, R498). -/
def State.pinLink (s : State) (d : Nat) (pin : Option Nat) : Option Nat :=
  match pin with
  | some l =>
    if s.linkDir l ≠ some d then s.leastQueued (s.upLinks d)
    else if (s.link l).st ≠ 0 then some l
    else (s.leastQueued (s.portPeersUp l)).orElse fun _ => s.leastQueued (s.upLinks d)
  | none => s.leastQueued (s.upLinks d)

/-- A packet's next hop: its link, whether it crosses the wrap, and the direction that it is detoured from here. -/
structure NextHop where
  link : Nat
  dir : Nat
  wrap : Bool
  pkt : Packet
  detoured : Option Nat

/-- Where a packet goes next, with its detour set where it needs one (R502). -/
def State.nextHop (s : State) (i : SliceInfo) (p : Packet) (pin : Option Nat) : Option NextHop :=
  match s.dirTo i (if p.detour then p.waypt.toNat else p.dst.toNat) with
  | none => none
  | some (d, w) =>
    match s.pinLink d pin with
    | some l => some { link := l, dir := d, wrap := w, pkt := p, detoured := none }
    | none =>
      let e := (nget s.top.detours (1024 * d + s.rankOf i p.dst.toNat) 0).toNat
      if !bitOf e 18 then none
      else (s.dirTo i (e % 2 ^ 18)).bind fun (d1, w1) =>
        (s.pinLink d1 pin).map fun l =>
          { link := l, dir := d1, wrap := w1, pkt := { p with detour := true, waypt := BitVec.ofNat 18 e }, detoured := some d }

/-- A detour taken is a link event, and a DEGRADED event once since the direction lost its last link (R521, R552; log entry
166). -/
def State.detourTaken (s : State) (d : Nat) : State :=
  let s1 := s.linkEvent 2
  if s1.top.detourOn.contains d then s1
  else ({ s1 with top := { s1.top with detourOn := d :: s1.top.detourOn } } : State).lightEvent
    { cls := 2, reason := 0, btype := Block.code .top, inst := 0 }

/-- Send a packet one hop towards its destination, on the link its flow is pinned to where it may. `HOPS` counts the hop
(R499). -/
def State.hop (s : State) (p : Packet) (arr : Option (Nat × Nat)) (pin : Option Nat) : State × Option Nat :=
  match s.top.slice with
  | none => (s, none)
  | some i =>
    if 64 ≤ p.hops.toNat + 1 then ((s.count32 (pgTop + 0x09C) 1).fatal .top 0 0, none)
    else
      match s.nextHop i p pin with
      | none => (s.noRoute, none)
      | some h =>
        ((match h.detoured with | some d => s.detourTaken d | none => s).sendOn h.link (hopLane h.dir h.wrap h.pkt.detour arr)
          { h.pkt with hops := h.pkt.hops + 1 }, some h.link)

/-! ## Flows at their sender (R498, R504, R505) -/

def pktKey (p : Packet) : FlowKey := { src := p.src, dst := p.dst, cls := p.cls, flow := p.flow }

def State.flowTxOf (s : State) (k : FlowKey) : FlowTx := (s.flowTx.find? fun f => f.key == k).getD { key := k }

def State.setFlowTx (s : State) (f : FlowTx) : State :=
  { s with flowTx := if s.flowTx.any (fun g => g.key == f.key) then s.flowTx.map (fun g => if g.key == f.key then f else g)
                     else s.flowTx ++ [f] }

/-- Bytes of a packet, and of a flow's unacknowledged packets, in a replay store. -/
def storeBytes (p : Packet) : Nat := 32 + p.payload.length

def FlowTx.bytes (f : FlowTx) : Nat := (f.unacked.map fun u => storeBytes u.1).foldl (· + ·) 0

/-- Bytes held in a link die's replay store (R505). -/
def State.replayBytes (s : State) (die : Nat) : Nat :=
  (s.flowTx.map fun f => if f.link.map (· / 2) == some die then f.bytes else 0).foldl (· + ·) 0

/-- The replay store of the die of link `l` has room for `n` further bytes of a flow, and for the packets that the flow brings with
it from another die (R505). -/
def State.storeRoom (s : State) (f : FlowTx) (l n : Nat) : Bool :=
  decide (s.replayBytes (l / 2) + n + (if f.link.map (· / 2) = some (l / 2) then 0 else f.bytes) ≤ 2 ^ 23)

/-- The link that a flow is pinned to: none while it has no unacknowledged packet (R498). -/
def FlowTx.pin (f : FlowTx) : Option Nat := if f.unacked.isEmpty then none else f.link

/-- A flow may send a further packet: fewer than 4,096 unacknowledged, room in the store (R505). -/
def State.flowRoom (s : State) (f : FlowTx) (p : Packet) : Bool :=
  decide (f.unacked.length < 4096)
    && (match s.top.slice.bind fun i => s.nextHop i p f.pin with
        | some h => s.storeRoom f h.link (storeBytes p)
        | none => true)

/-- Send a packet of a flow and keep it for replay; a flow without unacknowledged packets is pinned afresh (R498). -/
def State.flowPut (s : State) (k : FlowKey) (p : Packet) : State :=
  let f := s.flowTxOf k
  let (s1, l) := s.hop p none f.pin
  s1.setFlowTx { s1.flowTxOf k with unacked := f.unacked ++ [(p, 0)], link := l.orElse fun _ => f.link }

/-- Who issues the packets of a flow: a stack's front end, a stream engine, a collective queue; each other flow by itself (R505;
flow ids and issuers: log entries 37, 164). -/
def flowIssuer (k : FlowKey) : Nat :=
  let f := k.flow.toNat
  let g := f / 256
  if f < 16 then f
  else if g = 1 ∨ g = 3 ∨ g = 4 then f % 16
  else if g = 9 ∨ g = 10 then 0x900 + f % 256
  else if g = 12 then 0xC00 + f % 256 / 2
  else 0x1000 + f + 0x10000 * k.dst.toNat

/-- An issuer waits behind a packet that has no room (R505). -/
def State.sendStuck (s : State) (issuer : Nat) : Bool := s.flowWait.any fun p => flowIssuer (pktKey p) == issuer

/-- Send what waits for room in a replay store, oldest first, each packet behind those of its issuer (R505). -/
def State.flowDrain (s : State) : State :=
  let (s1, left, _) := s.flowWait.foldl (fun (acc : State × List Packet × List Nat) (p : Packet) =>
      let (a, left, stuck) := acc
      let k := pktKey p
      if stuck.contains (flowIssuer k) || !a.flowRoom (a.flowTxOf k) p then (a, left ++ [p], flowIssuer k :: stuck)
      else (a.flowPut k p, left, stuck))
    (({ s with flowWait := [] } : State), [], [])
  { s1 with flowWait := left }

/-- Give a flow's next packet its number and send it, or let it wait (R504, R505). -/
def State.flowSend (s : State) (dst cls flow kind epoch extra : Nat) (payload : List Byte) (slow : Bool := false) : State :=
  match s.top.slice with
  | none => s
  | some i =>
    let k : FlowKey :=
      { src := BitVec.ofNat 18 s.coord, dst := BitVec.ofNat 18 dst, cls := BitVec.ofNat 3 cls, flow := BitVec.ofNat 12 flow }
    let f := s.flowTxOf k
    let p : Packet :=
      { dst := k.dst, src := k.src, cls := k.cls, kind := BitVec.ofNat 5 kind, detour := false, slow := slow, flow := k.flow
        fseq := BitVec.ofNat 32 f.next, jobtag := BitVec.ofNat 16 (ofBytes (i.sig.take 2)), hops := 0
        epoch := BitVec.ofNat 8 epoch, waypt := 0, extra := BitVec.ofNat 48 extra, payload := payload }
    let s1 := s.setFlowTx { f with next := (f.next + 1) % 2 ^ 32 }
    ({ s1 with flowWait := s1.flowWait ++ [p] } : State).flowDrain

/-- Send data too long for one packet as several; `ex` gives each packet's kind-specific bytes by its offset. -/
def State.flowSendAll (s : State) (dst cls flow kind epoch : Nat) (ex : Nat → Bool → Nat) (data : List Byte) : State :=
  let m := maxPayload (match s.top.slice with | some i => i.v2 | none => false)
  let parts := cut m (data.length / m + 1) data
  let parts := if parts.isEmpty then [[]] else parts
  (parts.zip (List.range parts.length)).foldl (fun acc (b, i) =>
    acc.flowSend dst cls flow kind epoch (ex (i * m) (i + 1 == parts.length)) b) s

/-- A flow's last number sent to its destination (R130). -/
def State.flowLast (s : State) (k : FlowKey) : Nat := ((s.flowTxOf k).next + 2 ^ 32 - 1) % 2 ^ 32

/-- Any flow with unacknowledged or waiting packets (R515). -/
def State.flowsBusy (s : State) : Bool := !s.flowWait.isEmpty || s.flowTx.any fun f => !f.unacked.isEmpty

/-- A flow pinned to a link that is `DOWN` moves to another link, on whose die its unacknowledged packets find room, and resends
them in order with their original headers (R496, R502, R505). -/
def State.moveFlow (s : State) (k : FlowKey) : State :=
  let f := s.flowTxOf k
  match f.link, f.unacked with
  | some l, (p, _) :: _ =>
    if (s.link l).st ≠ 0 then s
    else
      match s.top.slice.bind fun i => s.nextHop i p (some l) with
      | none => s.noRoute
      | some h =>
        if !s.storeRoom f h.link 0 then s
        else f.unacked.foldl (fun a u =>
          let (a1, ln) := a.hop u.1 none (a.flowTxOf k).link
          a1.setFlowTx { a1.flowTxOf k with link := ln.orElse fun _ => (a1.flowTxOf k).link }) (s.setFlowTx { f with link := some h.link })
  | _, _ => s

/-- A flow packet sent from here has been acknowledged (R116, R505). -/
def State.flowDone (s : State) (k : FlowKey) (n : Nat) : Bool :=
  !((s.flowTxOf k).unacked.any fun u => u.1.fseq.toNat == n) && !(s.flowWait.any fun p => pktKey p == k && p.fseq.toNat == n)

/-- Recoveries whose delayed packets have all been delivered end: their events are recorded with the interruption (R556, R569). -/
def State.recovDone (s : State) : State :=
  let ended := fun r : Recovery => r.waits.all fun w => s.flowDone w.1 w.2
  (s.ras.recov.filter ended).foldl (fun acc r => acc.lightEvent { r.event with dur := if r.waits.isEmpty then 0 else s.usSince r.since, time := some r.since })
    { s with ras := { s.ras with recov := s.ras.recov.filter fun r => !ended r } }

/-- Acknowledge every packet of a flow up to H; the room lets flows move from links that are `DOWN`, and waiting packets of any
flow go (R505, R507). -/
def State.flowAcked (s : State) (k : FlowKey) (h : Nat) : State :=
  let f := s.flowTxOf k
  let left := f.unacked.filter fun u => decide (0 < (u.1.fseq.toNat + 2 ^ 32 - h) % 2 ^ 32) && decide ((u.1.fseq.toNat + 2 ^ 32 - h) % 2 ^ 32 < 2 ^ 31)
  let s1 := s.setFlowTx { f with unacked := left }
  (s1.flowTx.foldl (fun acc g => acc.moveFlow g.key) s1).flowDrain.recovDone

/-- FLOW_RESEND_TIMEOUT: the oldest unacknowledged packet is resent with its original header; after 16 resends the event
is `JOB_FATAL` with reason 0x82 and it is resent no further (R505). -/
def execFlowResendTimeout (flow : FlowKey) (s : State) : Host.Outcome State Fault Refusal :=
  let f := s.flowTxOf flow
  match f.unacked with
  | [] => .next s
  | (p, n) :: rest =>
    if 16 < n then .next s
    else if n = 16 then .next ((s.setFlowTx { f with unacked := (p, 17) :: rest }).fatal .ras 0 0x82)
    else
      let s0 := s.setFlowTx { f with unacked := (p, n + 1) :: rest }
      if f.link.any fun l => (s.link l).st == 0 then .next (s0.moveFlow flow)
      else
        let (s1, l) := s0.hop p none f.link
        .next (s1.setFlowTx { s1.flowTxOf flow with link := l.orElse fun _ => f.link })

/-- The axis and lane by which a packet that waits on a link came to this module: its lane is the one it waits on, but for a hop
that crosses the wrap, whose packet was on lane 0 before (R500). -/
def State.cameBy (s : State) (l vl : Nat) (p : Packet) : Option (Nat × Nat) :=
  (s.linkDir l).map fun d =>
    let wraps := (s.top.slice.bind fun i => s.dirTo i (if p.detour then p.waypt.toNat else p.dst.toNat)).any fun h => h.1 == d && h.2
    (d / 2, if wraps then 0 else vl)

/-- The recovery that a link's going `DOWN` begins: a failover within the port while it keeps an `UP` link, a detour where the
direction keeps none and flows are delayed (R496, R502, R552, R556). -/
def State.failRecovery (s : State) (l : Nat) (since : Nat) (fs : List FlowTx) : Option Recovery :=
  let waits := fs.filterMap fun f => f.unacked.getLast?.map fun u => (f.key, u.1.fseq.toNat)
  let ev : Event := { cls := 2, reason := 0, btype := Block.code .lnk, inst := l, unit := l }
  if !(s.portPeersUp l).isEmpty then some { event := ev, since := since, waits := waits }
  else match s.linkDir l with
    | some d =>
      if (s.upLinks d).isEmpty && !waits.isEmpty then
        some { event := { ev with btype := Block.code .top, inst := 0, unit := 0xFFFF }, since := since, waits := waits }
      else none
    | none => none

/-- LINK_DOWN_FAILOVER: flows pinned to a link that went `DOWN` move to another link and resend, in order and with their
original headers; other packets that waited there are routed again. The port is degraded; the recovery's DEGRADED event comes when
the delayed packets have been delivered (R496, R500, R502, R521, R552, R556). -/
def execLinkDownFailover (l : LinkId) (s : State) : Host.Outcome State Fault Refusal :=
  if (s.link l).st ≠ 0 ∨ s.pw.powered = false then .next s
  else
    let w := (s.link l).waitPkts
    let fs := s.flowTx.filter fun f => f.link == some l.val
    let s0 := s.modLink l fun k => { k with waitPkts := [], fell := none }
    let s1 := match (s.link l).fell with
      | none => s0
      | some t =>
        let a := s0.portDegraded
        match a.failRecovery l t fs with
        | none => a
        | some r => { a with
            ras := { a.ras with recov := a.ras.recov ++ [r] }
            top := { a.top with detourOn := match a.linkDir l with
              | some d => if (a.upLinks d).isEmpty ∧ a.top.detourOn.contains d = false then d :: a.top.detourOn else a.top.detourOn
              | none => a.top.detourOn } }
    let s2 := fs.foldl (fun acc f => acc.moveFlow f.key) s1
    -- packets in transit, and acknowledgements of flows, are not in the replay store
    .next (w.foldl (fun acc e =>
      if e.2.src.toNat = s.coord ∧ e.2.kind ≠ 5 then acc
      else (acc.hop { e.2 with hops := e.2.hops - 1 } (s.cameBy l e.1 e.2) none).1) s2).recovDone

/-! ## Packets at a module (R499 to R501) -/

/-- A packet for the formed slice between two of its members (R501). -/
def State.sliceAllows (s : State) (p : Packet) : Bool :=
  match s.top.slice with
  | none => false
  | some i =>
    p.jobtag.toNat == ofBytes (i.sig.take 2) && s.inSlice i p.src.toNat && s.inSlice i p.dst.toNat

/-- PACKET_RECEIVE: a packet arrives by a link and lane: dropped, forwarded, or taken as the destination (R499 to
R502). -/
def execPacketReceive (l : LinkId) (vl : VLane) (pkt : Packet) (s : State) : Host.Outcome State Fault Refusal :=
  if maxPayload (s.link l).v2 < pkt.payload.length then .fault (.illFormed "PACKET_RECEIVE")
  else if (s.link l).st ≠ 4 then .next s
  else
    -- its buffer is free again (log entry 161)
    let s0 := (s.modLink l fun k => { k with rxPkts := k.rxPkts.erase (vl.val, pkt) }).sendCredit l vl 1
    if !s.sliceAllows pkt then .next (s0.count32 (pgTop + 0x098) 1)
    else
      let p := if pkt.detour && pkt.waypt.toNat == s.coord then { pkt with detour := false, waypt := 0 } else pkt
      if p.dst.toNat = s.coord then .next { s0 with top := { s0.top with dest := s0.top.dest ++ [(p, l.val / 2)] } }
      else .next (s0.hop p ((s.linkDir l).map fun d => (d / 2, vl.val)) none).1

/-! ## Flows at their receiver (R506 to R508) -/

def State.flowRxOf (s : State) (k : FlowKey) : FlowRx := (s.flowRx.find? fun f => f.key == k).getD { key := k }

def State.setFlowRx (s : State) (f : FlowRx) : State :=
  { s with flowRx := if s.flowRx.any (fun g => g.key == f.key) then s.flowRx.map (fun g => if g.key == f.key then f else g)
                     else s.flowRx ++ [f] }

/-- Bytes held in a link die's reorder store (R506). -/
def State.reorderBytes (s : State) (die : Nat) : Nat :=
  (s.flowRx.map fun f => if f.die = die then (f.held.map fun p => 32 + p.payload.length).foldl (· + ·) 0 else 0).foldl (· + ·) 0

/-- A declared remote update flow (R511): its receiver, stack 0–15 or PHY die 16–19, and the number of its declaration among
those of that receiver. -/
def State.declOf (s : State) (coord flow : Nat) : Option (Nat × Nat) :=
  let rcv := fun d : Nat => if bitOf d 22 then 16 + fld d 18 2 else fld d 18 4
  match s.top.decls.findIdx? fun d => fld d 0 18 == coord && fld d 32 12 == flow with
  | none => none
  | some i =>
    let r := rcv (s.top.decls.getD i 0)
    some (r, ((s.top.decls.take i).filter fun d => rcv d == r).length)

/-- Source id of a declared flow at its receiver (R129, R138). -/
def srcDecl (i : Nat) : Nat := 0x6000 + i

/-- Numbers of a remote update flow's packets that are delivered and not accepted yet (R116): an acknowledgement stops before
the first of them (log entry 49). -/
def State.unaccepted (s : State) (k : FlowKey) : List Nat :=
  if k.cls ≠ 5 ∨ 16 ≤ k.flow.toNat then []
  else
    let waits := (s.epWaits.filter fun w => w.pkt.kind == 4 && pktKey w.pkt == k).map fun w => w.pkt.fseq.toNat
    let fails := (s.upFails.filter fun f => f.1.1 == k && !s.flowDone f.2.1 f.2.2).map fun f => f.1.2
    match s.declOf k.src.toNat k.flow.toNat with
    | none => []
    | some (r, i) => ((s.upk.filter fun p => p.rcv == r && p.src == srcDecl i && p.st != 2).map (·.seq)) ++ waits ++ fails

/-- Send the cumulative acknowledgement of a flow: a packet of `KIND` 5 that carries H (R507), or for an update flow the number
before its first packet not yet accepted (R116). -/
def State.sendAck (s : State) (k : FlowKey) : State :=
  match s.top.slice with
  | none => s
  | some i =>
    let f := s.flowRxOf k
    let wait := s.unaccepted k
    let behind := fun n => (f.high + 2 ^ 32 - n) % 2 ^ 32
    let h := wait.foldl (fun acc n => if behind acc < behind n + 1 then (n + 2 ^ 32 - 1) % 2 ^ 32 else acc) f.high
    let p : Packet :=
      { dst := k.src, src := k.dst, cls := k.cls, kind := 5, detour := false, slow := false, flow := k.flow
        fseq := BitVec.ofNat 32 h, jobtag := BitVec.ofNat 16 (ofBytes (i.sig.take 2)), hops := 0, epoch := 0
        waypt := 0, extra := 0, payload := [] }
    let s1 := { s with upFails := s.upFails.filter fun e => e.1.1 != k || wait.contains e.1.2 }
    ((s1.setFlowRx { f with owed := wait.length }).hop p none none).1

/-- Packets of a flow that follow in sequence, and H after them. -/
def followers (held : List Packet) (h : Nat) : Nat → List Packet × List Packet × Nat
  | 0 => ([], held, h)
  | n + 1 =>
    let nx := (h + 1) % 2 ^ 32
    match held.find? fun p => p.fseq.toNat == nx with
    | none => ([], held, h)
    | some p =>
      let (ds, rest, h1) := followers (held.filter fun q => q.fseq.toNat != nx) nx n
      (p :: ds, rest, h1)

/-- The check of R506: the packets that the arrival of `p` by link die `die` delivers, in order. The die takes the flow's
state first (R508). An acknowledgement goes at once for a duplicate and after 64 deliveries (R507). -/
def State.flowArrive (s : State) (p : Packet) (die : Nat) : List Packet × State :=
  let k := pktKey p
  let f := { s.flowRxOf k with die := die }
  let d := (p.fseq.toNat + 2 ^ 32 - f.high) % 2 ^ 32
  if d = 0 ∨ 2 ^ 31 ≤ d ∨ f.held.any (fun q => q.fseq == p.fseq) = true then
    ([], ((s.setFlowRx f).count32 (pgTop + 0x0A0) 1).sendAck k)
  else if d = 1 then
    let (ds, rest, h) := followers f.held ((f.high + 1) % 2 ^ 32) f.held.length
    let all := p :: ds
    let s1 := s.setFlowRx { f with high := h, held := rest, owed := f.owed + all.length }
    (all, if 64 ≤ f.owed + all.length then s1.sendAck k else s1)
  else if d ≤ 4096 then
    if s.reorderBytes die + 32 + p.payload.length ≤ 2 ^ 22 then ([], s.setFlowRx { f with held := p :: f.held })
    else ([], s.setFlowRx f)
  else ([], (s.setFlowRx f).fatal .top 0 0)

/-- FLOW_ACK_SEND: the cumulative acknowledgement that is due while a flow has unacknowledged deliveries (R507). -/
def execFlowAckSend (flow : FlowKey) (s : State) : Host.Outcome State Fault Refusal :=
  if (s.flowRxOf flow).owed = 0 then .next s else .next (s.sendAck flow)

/-! ## The detour table (R503) -/

/-- Entries of a detour table with bits that are not 0. -/
def detEntries (img : List Byte) : NMap Word :=
  (List.range 6144).filterMap fun i =>
    let e := ofBytes ((img.drop (4 * i)).take 4)
    if e = 0 then none else some (i, BitVec.ofNat 32 e)

/-- Reserved bits are 0 and valid waypoints lie in the slice. -/
def State.detOk (s : State) (i : SliceInfo) (t : NMap Word) : Bool :=
  t.all fun e => e.2.toNat / 2 ^ 19 == 0 && (!bitOf e.2.toNat 18 || s.inSlice i (e.2.toNat % 2 ^ 18))

/-- Read a detour table: its entries, or how the command that names it ends. -/
def State.readDetours (s : State) (i : SliceInfo) (a : Nat) : Except (Nat × Nat) (NMap Word) :=
  if !s.reachableRange a 24576 then .error (hsRefused, 0x06)
  else if s.badPa a 24576 then .error (hsPoisoned, 0)
  else
    let t := detEntries (s.readPa a 24576)
    if s.detOk i t then .ok t else .error (hsRefused, 0x01)

/-- Replace the detour table between two packets; refused with 0x0D while no slice is formed. The read waits for a channel that
serves nothing (R465, R473, R503, R521). -/
def detLoad (s : State) : State :=
  let off := pgTop + 0x090
  match s.top.slice with
  | none => s.refuse off 0x0D
  | some i =>
    let a := s.reg64 (pgTop + 0x088) % 2 ^ 48
    if s.reachableRange a 24576 && s.anyHeld a 24576 then { s with chanWait := s.chanWait ++ [.det] }
    else
      let s := s.meet a 24576
      match s.readDetours i a with
      | .ok t => { s with top := { s.top with detours := t } }
      | .error (st, r) => if st = hsPoisoned then (s.poisonRead .top 0 a).refuse off 0x01 else s.refuse off r

/-- DETLOAD (R503, R521). -/
def execDetload (s : State) : Host.Outcome State Fault Refusal := .next (if s.serves .top then detLoad s else s)

end Sys2Proof.Machine
end

