-- ==== Sys2Proof/Machine/Sorus.lean ====
section
/-! DEFINITION. Machine/Sorus.lean: what the Sorus commands share: table versions and the resolution of an index, units
and their queues, read combining, update combining and its flushes, memory lists and destinations, the placing of a
command in a queue (R54 to R62, R79 to R86, R119 to R132, R156 to R167, R187). -/

namespace Sys2Proof.Machine

open Sys2Proof

/-! ## Versions and rows -/

/-- The row of an index, or none when it is out of range (R157). A composed table has no rows of its own. -/
def Version.rowOf (v : Version) (i : Nat) : Option Nat :=
  match v.hmode with
  | 0 => if i < v.nrows then some i else none
  | _ => some ((((i ^^^ v.seed) * v.mult) % 2 ^ 64) >>> (64 - v.hbits))

/-- The server of a unit: its stack, or the PHY die as 16 + die. -/
def serverOf (u : Nat) : Nat := if u < 512 then u / 32 else 16 + (u - 512)

/-- A unit's page. -/
def pgUnit (u : Nat) : Nat := if u < 512 then pgSor u else pgRhz (u - 512)

/-- Add to a 64-bit counter of an engine's page, or of a PHY die's page where it has one. -/
def State.unitCount (s : State) (u engOff rhzOff n : Nat) : State :=
  if u < 512 then s.count64 (pgSor u + engOff) n else if rhzOff = 0 then s else s.count64 (pgRhz (u - 512) + rhzOff) n

/-- The state of the channel that serves an address. -/
def State.chanSt (s : State) (pa : Nat) : Nat := (s.chan ((s.chanOf pa).getD 0)).st

/-! ## Read combining (R84 to R86) -/

def rctCap (u : Nat) : Nat := if u < 512 then 4096 else 1024

/-- The window of a unit: WINDOW, or 1,024 at a PHY die (R479). -/
def State.rctWindow (s : State) (u : Nat) : Nat := if u < 512 then s.rfld (pgSor u + 0x048) 0 11 else 1024

/-- Whether read combining is on for a unit (R104). -/
def State.combining (s : State) (u : Nat) : Bool := if u < 512 then s.rbit (pgStk (u / 32) + 0x040) 0 else true

/-- A live entry: its data is not back, or fewer than WINDOW further requests have entered (R85), the request that looks it up
not counted (log entry 55). -/
def RctEntry.live (e : RctEntry) (win now : Nat) : Bool := !e.back || decide (now < e.at_ + win)

def State.liveRct (s : State) (u : Nat) : List RctEntry :=
  (s.unit u).rct.filter fun e => e.live (s.rctWindow u) (s.unit u).entered

/-! ## Heavy hitters (R78, R79, R178) -/

def hhCap (u : Nat) : Nat := if u < 512 then 256 else 1024

/-- Put an entry at a position, growing the list with free entries. -/
def hhPut : List (Option HHEnt) → Nat → HHEnt → List (Option HHEnt)
  | [], 0, e => [some e]
  | [], n + 1, e => none :: hhPut [] n e
  | _ :: l, 0, e => some e :: l
  | x :: l, n + 1, e => x :: hhPut l n e

/-- The entry of least count, the lowest-numbered on a tie. -/
def hhLeast : List (Option HHEnt) → Nat → Option (Nat × HHEnt) → Option (Nat × HHEnt)
  | [], _, acc => acc
  | none :: l, i, acc => hhLeast l (i + 1) acc
  | some e :: l, i, acc =>
    hhLeast l (i + 1) (match acc with
      | none => some (i, e)
      | some (j, f) => if e.count < f.count then some (i, e) else some (j, f))

/-- Space-Saving: count a request for a row (R79). -/
def hhCount (cap : Nat) (l : List (Option HHEnt)) (tid row : Nat) : List (Option HHEnt) :=
  let same := fun o : Option HHEnt => match o with
    | some e => e.tid == tid && e.row == row
    | none => false
  match posOf same l 0 with
  | some i =>
    match l.getD i none with
    | some e => hhPut l i { e with count := e.count + 1 }
    | none => l
  | none =>
    match posOf (·.isNone) l 0 with
    | some i => hhPut l i ⟨tid, row, 1, 0⟩
    | none =>
      if l.length < cap then hhPut l l.length ⟨tid, row, 1, 0⟩
      else
        match hhLeast l 0 none with
        | some (i, e) => hhPut l i ⟨tid, row, e.count + 1, e.count⟩
        | none => l

/-- Count a row request at a unit whose tracker counts (R107 HHCFG). -/
def State.hhRequest (s : State) (u tid row : Nat) : State :=
  if u < 512 && !s.rbit (pgSor u + 0x04C) 0 then s
  else s.modUnit u fun k => { k with hh := hhCount (hhCap u) k.hh tid row }

/-! ## Requests and room (R83, R108, R473, R479) -/

/-- A unit takes a further request for an address. -/
def State.room (s : State) (u pa : Nat) : Bool :=
  let k := s.unit u
  let ch := (s.chanOf pa).getD 0
  let held := (s.chan ch).st == 2
  if u < 512 then
    let d := s.rfld (pgSor u + 0x040) 0 11
    !s.rbit (pgSor u + 0x040) 16 && decide (k.rq.length + k.uq.length < d) && (!held || decide (s.queuedFor u ch < d / 2))
  else decide (s.queuedFor u ch < (if held then 512 else 1024))

/-! ## Rows where they stand -/

/-- Where a row's current copy lies (R160 to R167). `poison` gives the address of a poisoned entry, and whether a combining entry
served the read of it. -/
inductive Loc where
  | at_ (pa : Nat) (hot : Bool) (kind : Nat)
  | remote (coord : Nat)
  | fault (reason : Nat)
  | poison (pa : Nat) (hit : Bool)

/-- A unit reads a poisoned sector as one of its requests: an event of the unit, unless a combining entry served the read (R167,
R553). -/
def State.poisonUnit (s : State) (pa : Nat) (hit : Bool) : State :=
  match s.unitOf pa with
  | some u =>
    if hit then s
    else s.fatal (if u < 512 then .sor else .rhz) (if u < 512 then u % 256 else u - 512) 0x83 ((s.chanOf pa).getD 0) (some pa)
  | none => s

/-- The live combining entry that serves a read of a sector at a unit (R84, R85). -/
def State.rctHit (s : State) (u sec : Nat) : Option RctEntry :=
  if s.combining u then (s.liveRct u).find? (·.sector == sec) else none

/-- What a front end's read through an engine brings: 8 bytes, their poison, and whether a combining entry served it. -/
structure EngData where
  val : Nat
  poison : Bool
  hit : Bool

/-- The front end's read of 8 bytes through the owning engine, as one of its requests; a read of DRAM meets the error that
stands in the sector, a read that an entry serves gets that entry's poison (R98, R167, R467, R553; log entry 35). -/
def State.engRead (s : State) (pa : Nat) : EngData × State :=
  match s.unitOf pa with
  | none => (⟨s.memNat pa 8, s.isPoisoned pa 8, false⟩, s)
  | some u =>
    let s1 := (s.modUnit u fun k => { k with entered := k.entered + 1 }).unitCount u 0x050 0x058 1
    let live := s.liveRct u
    let sec := pa / 64
    match s.rctHit u sec with
    | some e =>
      let s2 := s1.unitCount u 0x058 0x060 1
      (⟨s2.memNat pa 8, e.poison || s2.isPoisoned pa 8, true⟩, s2)
    | none =>
      let m := s1.meetSector sec
      let bad := m.isPoisoned pa 8
      let s2 := if s1.combining u && decide (live.length < rctCap u) then
          (m.modUnit u fun k => { k with rct := live ++ [{ sector := sec, at_ := k.entered, back := true, poison := bad }] }).unitCount u 0x068 0 1
        else (if s1.combining u then m.unitCount u 0x060 0 1 else m).unitCount u 0x068 0 1
      (⟨s2.memNat pa 8, bad, false⟩, s2)

/-- Count a row resolved in a shard (R187). -/
def State.countLoad (s : State) (v : Version) (shard : Nat) : State :=
  s.modVersion v.tid v.epoch fun v =>
    let (t, f) := nget v.load shard (0, 0)
    { v with load := nset v.load shard ((t + 1) % 2 ^ 64, min (f + 1) 0xFFFFFFFF) }

/-- Resolve a row of a version to its current copy (R160 to R167). -/
def State.locate (s : State) (v : Version) (row : Nat) (count : Bool) : Loc × State :=
  match v.shardOf row with
  | none => (.fault 0x06, s)
  | some (i, sh) =>
    let s1 := if count then s.countLoad v i else s
    if sh.kind = 2 then (.remote sh.whereAt, s1)
    else if !v.indir then (.at_ (sh.base + (row - sh.first) * v.rowBytes) false sh.kind, s1)
    else
      let ea := sh.ind + 8 * (row - sh.first)
      if !s1.reachable ea then (.fault 0x06, s1)
      else
        let (e, s2) := s1.engRead ea
        if e.poison then (.poison ea e.hit, s2)
        -- an entry with a reserved bit set is rejected (R12, R165; log entry 137)
        else if fld e.val 44 20 != 0 then (.fault 0x01, s2)
        else (.at_ (fld e.val 0 42 * 64) (bitOf e.val 42) sh.kind, s2)

/-! ## What a command needs (R83, R99, R100, R108, R473, R477) -/

/-- Whether something that a command needs can be used now: yes; it waits for a channel or an engine (R83, R99, R473); or it is
lost with a fenced stack or PHY die, and the command ends `ABORTED` (R100, R477). -/
inductive Need where
  | go
  | wait
  | lost
  deriving DecidableEq, Repr

/-- What needs two things. -/
def Need.and : Need → Need → Need
  | .lost, _ => .lost
  | .go, n => n
  | .wait, .lost => .lost
  | .wait, _ => .wait

/-- What needs every thing of a list. -/
def needAll {α : Type} (f : α → Need) (l : List α) : Need := l.foldr (fun a n => (f a).and n) .go

/-- A PHY die is fenced (R477). -/
def State.dieFenced (s : State) : Bool := [16, 17, 18, 19].any fun r => (s.server r).fenced

/-- A range of memory touches the channels of a fenced PHY die (R477). -/
def State.anyLost (s : State) (a n : Nat) : Bool :=
  s.dieFenced && (sectorsOf a n).any fun sec => match s.unitOf (64 * sec) with
    | some u => decide (512 ≤ u) && (s.server (serverOf u)).fenced
    | none => false

/-- What a read of a range of memory needs. -/
def State.readNeed (s : State) (a n : Nat) : Need :=
  if s.anyLost a n then .lost else if s.anyHeld a n then .wait else .go

/-- What the read of a row's indirection entry needs: an engine that takes new requests, and a channel that serves or a combining
entry that holds the data (R83, R84, R99, R108, R167, R473). -/
def State.entryNeed (s : State) (v : Version) (row : Nat) : Need :=
  match v.shardOf row with
  | none => .go
  | some (_, sh) =>
    let ea := sh.ind + 8 * (row - sh.first)
    if sh.kind == 2 || !v.indir || !s.reachable ea then .go
    else match s.unitOf ea with
      | some u =>
        if (s.server (serverOf u)).fenced then .lost
        else if !s.room u ea || (s.chanOff ea && !((s.rctHit u (ea / 64)).any (·.back))) then .wait
        else .go
      | none => .go

/-- A row's reference for pooling. -/
def Version.ref (v : Version) (row pa w : Nat) (comp : Option (Nat × Bool) := none) : RowRef :=
  { pa := pa, tid := v.tid, epoch := v.epoch, row := row, fmt := v.fmt, nelem := v.nelem, bytes := v.rowBytes, w := w, comp := comp
    srv := match v.shardOf row with | some (_, sh) => sh.whereAt % 16 | none => 0 }

/-- The bandwidth class of a bag's requests: that of its command's queue (R462). -/
def State.bagClass (s : State) (srv bag : Nat) : Nat :=
  match (s.server srv).bags.find? (·.uid == bag) with
  | some b => s.bwClass (.gather b.lead (((s.server b.lead).cmds.find? (·.serial == b.cmd)).map (·.queue) |>.getD 64))
  | none => s.bwClass .flow

/-- The requests of a row (R80, R81): one for each sector it touches; the first at each unit counts in the tracker. -/
def State.rowReqs (s : State) (srv bag : Nat) (r : RowRef) : List Req :=
  let us := (sectorsOf r.pa r.bytes).map fun sec => (sec, (s.unitOf (64 * sec)).getD 0)
  (us.zip (List.range us.length)).map fun ((sec, u), i) =>
    { unit := u, sector := sec, srv := srv, bag := bag, row := r, first := !((us.take i).any fun p => p.2 == u), cls := s.bagClass srv bag }

/-- Bits of the row's elements before element 0: the header of a row-quantised row (R33). -/
def headerBits (fmt : Nat) : Nat := if fmt = 10 ∨ fmt = 11 then 32 else 0

/-- The code of element j of a row image (R31, R33). -/
def rowCode (fmt img j : Nat) : Nat := fld img (headerBits fmt + fmtBits fmt * j) (fmtBits fmt)

/-- An element as FP32 (R34, R47). The header of a row-quantised row holds the scale in bytes 0–1, the offset in bytes 2–3. -/
def rowElem (fmt hdr p : Nat) : Nat :=
  if fmt = 10 ∨ fmt = 11 then dequant (fld hdr 0 16) (fld hdr 16 16) (sgn (fmtBits fmt) p) else toFp32 fmt p

/-- Elements of a row whose first bit lies in a sector (R81). -/
def elemsIn (r : RowRef) (sec : Nat) : List Nat :=
  (List.range r.nelem).filter fun j => (r.pa + (headerBits r.fmt + fmtBits r.fmt * j) / 8) / 64 == sec

/-! ## Lists and destinations (R64, R94) -/

/-- What a range of an agent's memory needs: an address that does not translate needs nothing, its command ends (R64, R99,
R473, R477). -/
def State.rangeNeed (s : State) (ag va n : Nat) (write : Bool) : Need :=
  if n = 0 ∨ (s.someHeld = false ∧ s.dieFenced = false) then .go
  else if s.walksHeld ag va n then .wait
  else match (s.xlateRange ag va n write).1 with
    | .ok ps => needAll (fun p => s.readNeed p.1.pa p.2) ps
    | .error _ => .go

/-- Elements of `w` bytes of translated pieces, with their poison. -/
def State.pieceElems (s : State) (w : Nat) (ps : List (Page × Nat)) : List (Nat × Bool) :=
  ps.flatMap fun (p, n) => (List.range (n / w)).map fun i => (s.readPaNat (p.pa + i * w) w, s.badPa (p.pa + i * w) w)

/-- Read `n` elements of `w` bytes at a virtual address for an agent; none when some address does not translate or
reaches nothing (R64, R455). Poisoned data is an event of the block given (R553). -/
def State.readList (s : State) (ag va n w : Nat) (b : Block) (inst : Nat) : Option (List (Nat × Bool)) × State :=
  if n = 0 then (some [], s)
  else
    match s.xlateRange ag va (n * w) false with
    | (.error _, s1) => (none, s1)
    | (.ok ps, s1) =>
      if !s1.piecesOk ps then (none, s1)
      else
        let s2 := s1.meetPieces ps
        let l := s2.pieceElems w ps
        (some l, if l.any (·.2) then s2.fatal b inst 0x83 else s2)

/-! ## Memory-side adders (R119 to R121) -/

/-- Bits of an element by arithmetic type. -/
def ubits (ty : Nat) : Nat := if ty = 16 then 64 else fmtBits ty

/-- Maximum or minimum of two elements of a type (R52). -/
def umaxmin (mx : Bool) (ty a b : Nat) : Nat :=
  match ffmt ty with
  | some f => (fMaxMin f mx a b).1
  | none => if (sgn (ubits ty) a < sgn (ubits ty) b) == mx then b else a

/-- The combining step (R119). -/
def ucombine (k : UKey) (a b : Nat) : Nat :=
  match k.op with
  | 0 => if k.ty = 9 then (a + b) % 2 ^ 32 else if k.ty = 16 then (a + b) % 2 ^ 64 else add32 a b
  | 1 => umaxmin true k.ty a b
  | _ => umaxmin false k.ty a b

/-- The application of a partial to a stored element (R119). -/
def uapply (k : UKey) (mode : RMode) (stored p : Nat) : Nat :=
  if k.op = 0 ∧ (k.ty = 1 ∨ k.ty = 2) then
    match ffmt k.ty with
    | some f => (f.encode mode ((f.decode stored).add (fp32.decode p))).1
    | none => p
  else ucombine k stored p

/-- A finite value that became an infinity (R121). -/
def madeInf (ty old new : Nat) : Bool :=
  match ffmt ty with
  | some f =>
    (match f.decode old with | .num _ _ _ => true | _ => false) && (match f.decode new with | .inf _ => true | _ => false)
  | none => false

/-- Apply partials to a sector's image; stochastic rounding advances the generator once for each BF16 element (R120).
The count is of applications that overflowed. -/
def applyAll (k : UKey) : Word → NMap Nat → Nat → Nat × Word × Nat
  | x, [], img => (img, x, 0)
  | x, (j, p) :: l, img =>
    let w := ubits k.ty
    let x1 := if k.sr then xorshift x else x
    let old := fld img (w * j) w
    let new := uapply k (if k.sr then .stochastic (randOf x1) else .nearest) old p
    let (r, x2, n) := applyAll k x1 l (setFld img (w * j) w new)
    (r, x2, n + if madeInf k.ty old new then 1 else 0)

/-- One read-modify-write of a sector by the adders (R119, R125). Its read meets the error that stands in the sector (R142,
R467). The flag says that the sector was poisoned: it stays so, is counted and is JOB_FATAL (R142, R553). The adders of a PHY
die round to nearest even (R40). -/
def State.rmw (s0 : State) (u sec : Nat) (k0 : UKey) (vals : NMap Nat) : Bool × State :=
  let pa := 64 * sec
  let k := if u < 512 then k0 else { k0 with sr := false }
  let s := s0.meetSector sec
  let s1 := (s.dropSector sec).unitCount u 0x138 0x068 1
  if s.isPoisoned pa 64 then
    let s2 := if u < 512 then s1.count64 (pgStk (u / 32) + 0x330) 1 else s1
    (true, s2.fatal (if u < 512 then .stk else .rhz) (if u < 512 then u / 32 else u - 512) 0x83 (u % 512) (some pa))
  else
    let (img, x, ov) := applyAll k (BitVec.ofNat 32 (s.reg (pgSor u + 0x108))) vals (s.memNat pa 64)
    let s2 := (s1.store pa (toBytes 64 img) false).dirtyHot pa
    let s3 := if k.sr then s2.setReg (pgSor u + 0x108) x.toNat else s2
    (false, if ov = 0 then s3 else if u < 512 then s3.count32 (pgStk (u / 32) + 0x338) ov else s3.count32 (pgRhz (u - 512) + 0x094) ov)

/-- An entry is pinned: its channel retrains, or its row waits for a move's drain (R126). -/
def State.pinned (s : State) (sec : Nat) : Bool :=
  s.chanSt (64 * sec) == 2
    || s.moves.any fun m => decide (m.src / 64 ≤ sec) && decide (64 * sec < m.src + m.bytes)

/-- An entry cannot be flushed now: it is pinned, or a slot holds its channel (R126, R465). -/
def State.flushHeld (s : State) (sec : Nat) : Bool := s.pinned sec || s.chanOff (64 * sec)

/-- ALLSRC of a fence. -/
def fAllSrc (raw : Nat) : Bool := bitOf (dfld raw 6 1) 2
def fScope (raw : Nat) : Nat := dfld raw 6 1 % 4

/-- An update of a remote flow lies within a number carried in an epoch: its own number does, or its epoch is older (R133, R141). -/
def Origin.within (o : Origin) (ep n : Nat) : Bool :=
  let de := (ep + 256 - o.epoch % 256) % 256
  if de = 0 then decide ((n + 2 ^ 32 - o.num) % 2 ^ 32 < 2 ^ 31) else decide (de < 128)

/-- A fence covers an update by who sent it and when: a command placed before it, for a fence from another module the numbers of
the flow up to the one carried, and with ALLSRC what was accepted before (R140, R141). -/
def SCmd.covers (c : SCmd) (o : Origin) : Bool :=
  (o.src == c.src && (match c.reply, c.carried.head? with
    | some _, some (_, n) => o.within c.epoch n
    | _, _ => decide (o.serial < c.serial)))
    || (fAllSrc c.raw && decide (o.serial < c.bound))

/-- A fence of lead stack `x` covers updates at receiver `r` (R140). -/
def SCmd.scopes (c : SCmd) (x r : Nat) : Bool := fScope c.raw != 0 || x == r

/-- A covered update met poison where it was applied, at receiver `r`: the fences that wait for it end `POISONED` (R142). -/
def State.poisonFences (s : State) (r : Nat) (orgs : List Origin) : State :=
  { s with
    servers := s.servers.map fun p => (p.1, { p.2 with
      cmds := p.2.cmds.map fun c =>
        if c.raw % 256 == 0x1C && c.refused.isNone && c.scopes p.1 r && orgs.any c.covers then { c with poisoned := true } else c }) }

/-- Apply updates of the origins given to their sector. -/
def State.applyVals (s : State) (u sec : Nat) (k : UKey) (vals : NMap Nat) (orgs : List Origin) : State :=
  let (bad, s1) := s.rmw u sec k vals
  if bad then s1.poisonFences (serverOf u) orgs else s1

/-- The counter of a flush (R148). -/
def FlushWhy.count (w : FlushWhy) (u : Nat) (s : State) : State :=
  match w with
  | .evict => s.unitCount u 0x120 0 1
  | .frame => s.unitCount u 0x128 0 1
  | .fence => s.unitCount u 0x130 0 1
  | .other => s

/-- FLUSH: the entry of a sector leaves the table by one read-modify-write (R125). -/
def State.flushSector (s : State) (u sec : Nat) (why : FlushWhy) : State :=
  match (s.unit u).uct.find? (·.sector == sec) with
  | none => s
  | some e =>
    let s1 := s.modUnit u fun k => { k with uct := k.uct.filter (·.sector != sec) }
    (why.count u s1).applyVals u sec e.key e.vals e.orgs

/-- The entry of a sector has met a trigger that takes effect once it can be flushed; the first such trigger is the one that its
flush counts for (R126, R148). -/
def State.markDue (s : State) (u sec : Nat) (why : FlushWhy) : State :=
  s.modUnit u fun k =>
    { k with uct := k.uct.map fun x => if x.sector == sec then { x with due := x.due.orElse fun _ => some why } else x }

/-- Flush every entry of a unit that satisfies a test; those that cannot be flushed now keep the trigger until their release
(R124, R126). -/
def State.flushWhere (s : State) (u : Nat) (p : UEnt → Bool) (why : FlushWhy) : State :=
  (s.unit u).uct.foldl (fun acc e =>
    if !p e then acc
    else if acc.flushHeld e.sector then acc.markDue u e.sector why
    else acc.flushSector u e.sector why) s

/-- An entry of the sector's unit holds updates. -/
def State.hasEntry (s : State) (sec : Nat) : Bool :=
  match s.unitOf (64 * sec) with
  | some u => (s.unit u).uct.any (·.sector == sec)
  | none => false

/-- Flush the entries that hold updates of a range of memory; those that cannot be flushed now keep the trigger (R124, R126). -/
def State.flushRange (s : State) (a n : Nat) : State :=
  (sectorsOf a n).foldl (fun acc sec =>
    match acc.unitOf (64 * sec) with
    | some u => if !acc.hasEntry sec then acc else if acc.flushHeld sec then acc.markDue u sec .other else acc.flushSector u sec .other
    | none => acc) s

/-- Before a write to sectors by COPY, MIGRATE_ROW or host DMA their entries are flushed (R124), and their combined reads
end (R86). -/
def State.beforeWrite (s : State) (a n : Nat) : State := (s.flushRange a n).dropSectors a n

/-- Flush entries that met a trigger while they could not be flushed, and can be now (R126). -/
def State.flushDue (s : State) (u : Nat) : State :=
  (s.unit u).uct.foldl (fun acc e =>
    match e.due with
    | some why => if acc.flushHeld e.sector then acc else acc.flushSector u e.sector why
    | none => acc) s

/-- A write to a range must wait: a channel of it serves nothing now, or it is ordered after updates that a pinned entry holds
(R126, R127, R473). -/
def State.writeHeld (s : State) (a n : Nat) : Bool :=
  s.anyHeld a n || ((s.someHeld || !s.moves.isEmpty) && (sectorsOf a n).any fun sec => s.pinned sec && s.hasEntry sec)

/-- What a write to a range of memory needs. -/
def State.writeNeed (s : State) (a n : Nat) : Need :=
  if s.anyLost a n then .lost else if s.writeHeld a n then .wait else .go

/-- Write data over translated pieces; combined reads of the sectors end (R86). -/
def State.writeDest (s : State) : List (Page × Nat) → List Byte → Bool → State
  | [], _, _ => s
  | (p, n) :: ps, l, bad =>
    ((s.writePa p.pa (l.take n) bad).dirtyHot p.pa).writeDest ps (l.drop n) bad

/-! ## Update packets on their way to the engines (R83, R130, R135) -/

/-- Place sector updates with their engines, in order, up to the first that its engine has no room for. -/
def State.placeUps (s : State) : List UReq → List UReq × State
  | [] => ([], s)
  | r :: rs =>
    if s.room r.unit (64 * r.sector) then
      ((s.modUnit r.unit fun k => { k with uq := k.uq ++ [r] }).unitCount r.unit 0x110 0 1).placeUps rs
    else (r :: rs, s)

def State.modUpk (s : State) (id : Nat) (f : UPkt → UPkt) : State :=
  { s with upk := s.upk.map fun p => if p.id == id then f p else p }

/-- Place what is left of an accepted update packet. -/
def State.routePacket (s : State) (id : Nat) : State :=
  match s.upk.find? fun p => p.id == id && p.st == 1 with
  | none => s
  | some p =>
    let (rest, s1) := s.placeUps p.ups
    s1.modUpk id fun q => { q with ups := rest, st := if rest.isEmpty && q.open_ == 0 then 2 else 1 }

/-- Place what is left of every update packet that a receiver has accepted. -/
def State.routeUpdates (s : State) (r : Nat) : State :=
  (s.upk.filter fun p => p.rcv == r && p.st == 1).foldl (fun acc p => acc.routePacket p.id) s

/-- A sector update of a packet has been accepted, or never will be (R116, R135). -/
def State.upAccepted (s : State) (id : Nat) : State :=
  s.modUpk id fun p => { p with open_ := p.open_ - 1, st := if p.ups.isEmpty && p.open_ ≤ 1 then 2 else p.st }

/-! ## Sequence numbers (R129 to R137) -/

def srcCore (c : Nat) : Nat := c
def srcSeng (e : Nat) : Nat := 0x2000 + e
def srcStack (x : Nat) : Nat := 0x4000 + x

def State.epochOf (s : State) (src : Nat) : Nat := nget s.srcEpoch src 0
def State.lastSent (s : State) (src rcv : Nat) : Nat := nget s.seqTx (src * 32 + rcv) 0
def State.setLastSent (s : State) (src rcv n : Nat) : State := { s with seqTx := nset s.seqTx (src * 32 + rcv) n }
def State.seqEntry (s : State) (rcv src : Nat) : SeqRx := nget s.seqRx (rcv * 0x10000 + src) {}
def State.setSeqEntry (s : State) (rcv src : Nat) (e : SeqRx) : State :=
  { s with seqRx := nset s.seqRx (rcv * 0x10000 + src) e }

/-- The window of a source: 4,096 for remote sources, 1,024 otherwise (R132). -/
def winOf (src : Nat) : Nat := if src / 0x2000 = 3 then 4096 else 1024

/-- Advance H over the numbers accepted beyond it (R134). -/
def SeqRx.advance (e : SeqRx) : Nat → SeqRx
  | 0 => e
  | n + 1 =>
    let nx := (e.h + 1) % 2 ^ 32
    if e.win.contains nx then ({ e with h := nx, win := e.win.filter (· != nx) }).advance n else e

/-- What the check of R134 finds. -/
inductive SeqFind where
  | stale | dup | accept | viol
  deriving DecidableEq, Repr

/-- The check of R134 on a packet of epoch `ep` and number `sq`: its finding and the entry after it (R133). -/
def SeqRx.check (e0 : SeqRx) (w ep sq : Nat) : SeqFind × SeqRx :=
  let e1 : SeqRx := if e0.valid then e0 else { epoch := ep, h := 0, win := [], valid := true }
  let de := (ep + 256 - e1.epoch % 256) % 256
  if 128 ≤ de then (.stale, e1)
  else
    let e : SeqRx := if de = 0 then e1 else { epoch := ep, h := 0, win := [], valid := true }
    let d := (sq + 2 ^ 32 - e.h) % 2 ^ 32
    if d = 0 ∨ 2 ^ 31 ≤ d then (.dup, e)
    else if d ≤ w then
      if e.win.contains sq then (.dup, e) else (.accept, ({ e with win := sq :: e.win }).advance (w + 1))
    else (.viol, e)

/-- The register page and offsets of a receiver's sequence errors: SEQERR, DUPCNT, STALECNT (R146, R485). -/
def State.seqError (s : State) (r src ep bit : Nat) : State :=
  if r < 16 then
    (s.setReg (pgStk r + 0x308) (s.reg (pgStk r + 0x308) ||| 2 ^ bit)).setReg (pgStk r + 0x30C) (src + 0x10000 * ep)
  else s.setReg (pgRhz (r - 16) + 0x048) (s.reg (pgRhz (r - 16) + 0x048) ||| 2 ^ bit)

def State.seqCount (s : State) (r : Nat) (dup : Bool) : State :=
  if r < 16 then (if dup then s.count64 (pgStk r + 0x318) 1 else s.count32 (pgStk r + 0x33C) 1)
  else if dup then s.count64 (pgRhz (r - 16) + 0x050) 1 else s.count32 (pgRhz (r - 16) + 0x070) 1

/-- Check a packet's number at a receiver and count what is discarded (R134). -/
def State.seqCheck (s : State) (r src ep sq : Nat) : SeqFind × State :=
  let (f, e) := (s.seqEntry r src).check (winOf src) ep sq
  let s1 := s.setSeqEntry r src e
  match f with
  | .stale => (f, (s1.seqCount r false).seqError r src ep 1)
  | .dup => (f, s1.seqCount r true)
  | .accept => (f, s1)
  | .viol => (f, (s1.seqError r src ep 0).fatal (if r < 16 then .stk else .rhz) (r % 16) 0x89)

/-- SOURCE_RESET: the source's epoch advances and its numbering restarts (R137). -/
def State.sourceReset (s : State) (src : Nat) : State :=
  { s with
    srcEpoch := nset s.srcEpoch src ((s.epochOf src + 1) % 256)
    seqTx := s.seqTx.filter fun p => p.1 / 32 != src }

/-! ## Queues (R55 to R62, R131) -/

def isScatter (op : Nat) : Bool := op == 0x18 || op == 0x19 || op == 0x1A

/-- Entries a waiting command occupies. -/
def SCmd.entries (c : SCmd) : Nat := 1 + c.stream.length / 64

def State.queueOcc (s : State) (x q : Nat) : Nat :=
  ((nget (s.server x).queues q []).map SCmd.entries).foldl (· + ·) 0

def State.queueDepth (s : State) (x q : Nat) : Nat := 2 ^ s.rfld (pgStk x + 0x100 + 4 * q) 1 4

/-- A queue may take commands: stack enabled and not fenced, queue enabled (R274). -/
def State.queueOn (s : State) (x q : Nat) : Bool :=
  s.ready && bitOf s.boot.stackSet.toNat x && s.enabled (pgStk x) && !(s.server x).fenced
    && s.rbit (pgStk x + 0x100 + 4 * q) 0

/-- Update packets of a source to a stack that are not acknowledged, those of waiting commands included (R135). -/
def State.unacked (s : State) (src x : Nat) : Nat :=
  (s.upk.filter fun p => p.src == src && p.rcv == x).length
    + ((s.server x).queues.flatMap fun q => q.2.filter fun c => c.src == src && isScatter (c.raw % 256)).length
    + ((s.server x).cmds.filter fun c => c.src == src && isScatter (c.raw % 256) && !c.started).length

/-- Put a command at the end of a queue with the packets that have room; the sender's number is assigned now (R131,
R140). -/
def State.enqueue (s : State) (x q raw : Nat) (packets : List Byte) (missing src : Nat) : State :=
  let op := raw % 256
  let n := (s.lastSent src x + 1) % 2 ^ 32
  let c : SCmd :=
    { serial := s.serial, queue := q, raw := raw, stream := packets, missing := missing, src := src, epoch := s.epochOf src
      seq := if isScatter op then n else 0
      carried := if op = 0x1C then (List.range 20).map fun r => (r, s.lastSent src r) else [] }
  let s1 := s.modServer x fun k => { k with queues := nset k.queues q (nget k.queues q [] ++ [c]) }
  let s2 := if isScatter op then s1.setLastSent src x n else s1
  { s2 with serial := s2.serial + 1 }

/-- A SORLIST of another issuer is in the midst of its entries for a queue: none falls between them (R275, R390). -/
def State.listBusy (s : State) (x q src : Nat) : Bool :=
  s.sengs.any fun p => srcSeng p.1 != src && p.2.work.any fun d =>
    d.raw % 16 == 4 && dfld d.raw 6 1 % 16 == x && dfld d.raw 7 1 % 64 == q && d.ended.isNone && decide (0 < d.pos)
      && decide (d.pos < dfld d.raw 16 4)

/-- What an issue comes to (R62, R274). -/
inductive Issued where
  | placed (serial missing : Nat)
  | busy
  | refused
  deriving DecidableEq, Repr

/-- Issue N entries, the descriptor and its index packets, to a queue: all of them where there is room; a blocking issue
places what fits and the rest as room frees (R62, R70, R274, R275). -/
def State.issueCmd (s : State) (x q : Nat) (data : List Byte) (blocking : Bool) (src : Nat) : Issued × State :=
  let n := data.length / 64
  if !s.queueOn x q || n == 0 then (.refused, s)
  else
    let room := s.queueDepth x q - s.queueOcc x q
    let raw := ofBytes (data.take 64)
    let full := isScatter (raw % 256) && decide (1024 ≤ s.unacked src x)
    if full || s.listBusy x q src || room == 0 || (!blocking && decide (room < n)) then (.busy, s)
    else
      let m := min n room
      (.placed s.serial (n - m), s.enqueue x q raw ((data.drop 64).take (64 * (m - 1))) (n - m) src)

/-- Give further packets to a command of a blocking issue: into its queue as room frees, or straight to it once it is
accepted, when the front end consumes them as they arrive (R70). The answer is how many are still to come. -/
def State.feedCmd (s : State) (x serial : Nat) (rest : List Byte) : Nat × State :=
  let n := rest.length / 64
  match (s.server x).cmds.find? (·.serial == serial) with
  | some _ =>
    (0, s.modServer x fun k =>
      { k with cmds := k.cmds.map fun c => if c.serial == serial then { c with stream := c.stream ++ rest, missing := 0 } else c })
  | none =>
    match (s.server x).queues.findSome? fun (q, l) => (l.find? (·.serial == serial)).map fun c => (q, c) with
    | none => (0, s)
    | some (q, _) =>
      let m := min n (s.queueDepth x q - s.queueOcc x q)
      (n - m, s.modServer x fun k =>
        { k with queues := nset k.queues q ((nget k.queues q []).map fun c =>
            if c.serial == serial then { c with stream := c.stream ++ rest.take (64 * m), missing := n - m } else c) })

/-- Change an accepted command. -/
def State.modCmd (s : State) (x serial : Nat) (f : SCmd → SCmd) : State :=
  s.modServer x fun k => { k with cmds := k.cmds.map fun c => if c.serial == serial then f c else c }

def State.cmd (s : State) (x serial : Nat) : Option SCmd := (s.server x).cmds.find? (·.serial == serial)

/-- The first fault of a command decides its reason and position (R95). -/
def SCmd.addFault (c : SCmd) (reason : Nat) (pos : Option Nat) : SCmd :=
  if c.fault then c else { c with fault := true, reason := reason, firstpos := pos }

end Sys2Proof.Machine
end

