-- ==== Sys2Proof/Machine/Firmware.lean ====
section
/-! DEFINITION. Machine/Firmware.lean: the manifest that the hub holds and the image area (R607 to R613). -/

namespace Sys2Proof.Machine

open Sys2Proof

/-- A field of the manifest copy. -/
def manFld (m : List Byte) (off n : Nat) : Nat := ofBytes ((m.drop off).take n)

/-- Sections of the manifest (R607). -/
def manSections (m : List Byte) : Nat := manFld m 6 2

/-- Offset of section entry j (R607). -/
def secAt (j : Nat) : Nat := 64 + 64 * j

def secKind (m : List Byte) (j : Nat) : Nat := manFld m (secAt j) 1
def secFirst (m : List Byte) (j : Nat) : Nat := manFld m (secAt j + 2) 2
def secLast (m : List Byte) (j : Nat) : Nat := manFld m (secAt j + 4) 2
def secOffset (m : List Byte) (j : Nat) : Nat := manFld m (secAt j + 8) 8
def secLength (m : List Byte) (j : Nat) : Nat := manFld m (secAt j + 16) 4
def secEntry (m : List Byte) (j : Nat) : Nat := manFld m (secAt j + 20) 4
def secDigest (m : List Byte) (j : Nat) : List Byte := (m.drop (secAt j + 32)).take 32

/-- The section whose range of a kind holds a unit (R608, R609). -/
def sectionOf (m : List Byte) (kind id : Nat) : Option Nat :=
  (List.range (manSections m)).find? fun j =>
    secKind m j == kind && decide (secFirst m j ≤ id) && decide (id ≤ secLast m j)

/-- Where a unit starts: the entry of its section, at the device physical address of the section's copy in the image area
(R612, R613; log entry 38). -/
def State.fwEntry (s : State) (kind id : Nat) : Nat :=
  match sectionOf s.boot.manifest kind id with
  | some j => s.boot.imgBase + secOffset s.boot.manifest j + secEntry s.boot.manifest j
  | none => 0

/-- A unit has fetched its section (R613). -/
def State.fwLoaded (s : State) (kind id : Nat) : Bool := s.boot.fetched.contains (kind, id)

/-- Sixteen bits of a unit's section in its own memory, at the address where the section's copy lies in the image area (R613; log
entry 38). -/
def State.fwHalf (s : State) (kind id a : Nat) : Option Nat :=
  match sectionOf s.boot.manifest kind id, s.boot.fwMem.find? fun e => e.1 == (kind, id) with
  | some j, some (_, l) =>
    let base := s.boot.imgBase + secOffset s.boot.manifest j
    if base ≤ a ∧ a + 2 ≤ base + l.length then some (ofBytes ((l.drop (a - base)).take 2)) else none
  | _, _ => none

end Sys2Proof.Machine
end

