-- ==== Sys2Proof/Machine/Operands.lean ====
section
/-! DEFINITION. Machine/Operands.lean: the engine instructions of the control processor in one form, their encodings
(R257, R258, R262, R265, R272, R298, R303, R323 to R326, R411), and the fields of 64-byte command and descriptor
structures. -/

namespace Sys2Proof.Machine

open Sys2Proof

/-- Groups 0 and 1 of custom-1, in FN order (R323). -/
inductive VArith where
  | add | sub | mul | div | max | min | fma | fms | abs | neg | sqrt | and | or | xor | shl | sra
  deriving DecidableEq, Repr

/-- Group 2 of custom-1 without VMLOG (R323). -/
inductive VCmp where
  | eq | ne | lt | le | gt | ge | unord
  deriving DecidableEq, Repr

/-- Reductions of group 3 (R323). -/
inductive VRed where
  | sum | max | min | amax
  deriving DecidableEq, Repr

/-- Group 4 without VSHUF (R323). -/
inductive VPerm where
  | perm | compress | expand | packe | packo | unpkl | unpkh
  deriving DecidableEq, Repr

/-- Loads and stores of group 5 (R323). -/
inductive VMem where
  | ld | lds | st | sts
  deriving DecidableEq, Repr

/-- custom-2 issue instructions (R272). -/
inductive IssueFn where
  | sci | scin | sti | stin
  deriving DecidableEq, Repr

/-- Bead operations (R411). -/
inductive BeadFn where
  | bst | bstn | bld | bpeek
  deriving DecidableEq, Repr

/-- Counter operations (R411). -/
inductive CtrFn where
  | cadd | csub | cwait | cread
  deriving DecidableEq, Repr

/-- Filigree operations (R411). -/
inductive FilFn where
  | farrive | fwait | fsync
  deriving DecidableEq, Repr

/-- An engine instruction (R257). -/
inductive EngOp where
  | mma (acc : AccId) (a b : TileId)
  | mmax (acc : AccId) (a b : TileId) (fa fb : FmtCode) (mx spa cz : Bool)
  | mld (rs1 rs2 : XReg) (t : TileId) (tr sc fsel : Bool)
  | mst (rs1 rs2 : XReg) (acc : AccId) (ofmt : FmtCode) (sr tr : Bool)
  | mlda (rs1 rs2 : XReg) (acc : AccId)
  | mz (mask : Half)
  | sparse (transpose : Bool) (src dst : TileId)
  | mtv (v : VSlot) (acc : AccId) (ofmt : FmtCode) (sr : Bool)
  | mfv (v : VSlot) (t : TileId)
  | issue (fn : IssueFn) (rd rs1 rs2 : XReg)
  | wend
  | varith (op : VArith) (vd vs1 : VSlot) (f : VForm)
  | vcmp (op : VCmp) (md : MaskId) (vs1 : VSlot) (f : VForm)
  | vmlog (md ms1 ms2 : MaskId) (lop : LopCode)
  | vcvt (vd vs1 : VSlot) (f : VCvtForm)
  | vred (op : VRed) (vd vs1 : VSlot) (f : VForm)
  | vmpop (rd : XReg) (ms : MaskId)
  | vperm (op : VPerm) (vd vs1 : VSlot) (f : VForm)
  | vshuf (vd vs1 : VSlot) (imm : Word) (zm : Bool)
  | vmem (op : VMem) (v : VSlot) (rs1 rs2 : XReg) (zm : Bool)
  | vsetvl (rd rs1 : XReg) (vfmt : FmtCode) (msel : Nibble)
  | vmvx (rd rs1 : XReg) (vs : VSlot)
  | vbci (zero : Bool) (vd : VSlot) (imm : Half)
  | bead (fn : BeadFn) (rd rs1 rs2 : XReg)
  | ctr (fn : CtrFn) (rd rs1 rs2 : XReg)
  | fence (scope : FenceScope)
  | fil (fn : FilFn) (rd rs1 : XReg)
  | crange (op : RangeOp) (level : RangeLevel) (rs1 rs2 : XReg)
  | sclaim (rd rs1 rs2 : XReg)
  deriving DecidableEq, Repr

/-- An operation that a word can spell: BLD, BPEEK and CREAD have no second source register (R411). -/
def EngOp.wf : EngOp → Bool
  | .bead .bld _ _ rs2 => rs2 == 0
  | .bead .bpeek _ _ rs2 => rs2 == 0
  | .ctr .cread _ _ rs2 => rs2 == 0
  | _ => true

/-- Place a value in a field. -/
def at_ (v lo : Nat) : Nat := v * 2 ^ lo

def b1 (b : Bool) (lo : Nat) : Nat := if b then 2 ^ lo else 0

/-- MOP and FN of an arithmetic instruction (R323). -/
def VArith.code : VArith → Nat × Nat
  | .add => (0, 0) | .sub => (0, 1) | .mul => (0, 2) | .div => (0, 3) | .max => (0, 4) | .min => (0, 5)
  | .fma => (0, 6) | .fms => (0, 7) | .abs => (1, 0) | .neg => (1, 1) | .sqrt => (1, 2) | .and => (1, 3)
  | .or => (1, 4) | .xor => (1, 5) | .shl => (1, 6) | .sra => (1, 7)

def VArith.ofCode (m f : Nat) : VArith :=
  match m, f with
  | 0, 0 => .add | 0, 1 => .sub | 0, 2 => .mul | 0, 3 => .div | 0, 4 => .max | 0, 5 => .min | 0, 6 => .fma | 0, _ => .fms
  | _, 0 => .abs | _, 1 => .neg | _, 2 => .sqrt | _, 3 => .and | _, 4 => .or | _, 5 => .xor | _, 6 => .shl | _, _ => .sra

def VCmp.code : VCmp → Nat
  | .eq => 0 | .ne => 1 | .lt => 2 | .le => 3 | .gt => 4 | .ge => 5 | .unord => 6

def VCmp.ofCode : Nat → VCmp
  | 0 => .eq | 1 => .ne | 2 => .lt | 3 => .le | 4 => .gt | 5 => .ge | _ => .unord

def VRed.code : VRed → Nat
  | .sum => 1 | .max => 2 | .min => 3 | .amax => 4

def VRed.ofCode : Nat → VRed
  | 1 => .sum | 2 => .max | 3 => .min | _ => .amax

def VPerm.code : VPerm → Nat
  | .perm => 0 | .compress => 1 | .expand => 2 | .packe => 4 | .packo => 5 | .unpkl => 6 | .unpkh => 7

def VPerm.ofCode : Nat → VPerm
  | 0 => .perm | 1 => .compress | 2 => .expand | 4 => .packe | 5 => .packo | 6 => .unpkl | _ => .unpkh

def VMem.code : VMem → Nat
  | .ld => 0 | .lds => 1 | .st => 2 | .sts => 3

def VMem.ofCode : Nat → VMem
  | 0 => .ld | 1 => .lds | 2 => .st | _ => .sts

def IssueFn.code : IssueFn → Nat
  | .sci => 0 | .scin => 1 | .sti => 2 | .stin => 3

def IssueFn.ofCode : Nat → IssueFn
  | 0 => .sci | 1 => .scin | 2 => .sti | _ => .stin

def BeadFn.code : BeadFn → Nat
  | .bst => 0 | .bstn => 1 | .bld => 2 | .bpeek => 3

def BeadFn.ofCode : Nat → BeadFn
  | 0 => .bst | 1 => .bstn | 2 => .bld | _ => .bpeek

def CtrFn.code : CtrFn → Nat
  | .cadd => 0 | .csub => 1 | .cwait => 2 | .cread => 3

def CtrFn.ofCode : Nat → CtrFn
  | 0 => .cadd | 1 => .csub | 2 => .cwait | _ => .cread

def FilFn.code : FilFn → Nat
  | .farrive => 0 | .fwait => 1 | .fsync => 2

def FilFn.ofCode : Nat → FilFn
  | 0 => .farrive | 1 => .fwait | _ => .fsync

def scopeCode : FenceScope → Nat
  | .core => 0 | .cluster => 1 | .die => 2 | .device => 3 | .global => 4

def scopeOfCode : Nat → FenceScope
  | 0 => .core | 1 => .cluster | 2 => .die | 3 => .device | _ => .global

def rangeOpCode : RangeOp → Nat
  | .clean => 1 | .flush => 2 | .invalidate => 3

def rangeOpOf : Nat → RangeOp
  | 1 => .clean | 2 => .flush | _ => .invalidate

def levelCode : RangeLevel → Nat
  | .l1d => 1 | .l2 => 2 | .both => 3

def levelOf : Nat → RangeLevel
  | 1 => .l1d | 2 => .l2 | _ => .both

/-- custom-1 word in its 32-bit form (R323). -/
def w1 (mop fn vd vs1 vs2 : Nat) (zm : Bool) : Nat :=
  0x2B + at_ mop 7 + at_ vd 10 + at_ vs1 16 + at_ vs2 22 + b1 zm 28 + at_ fn 29

/-- The low half of a 64-bit custom-1 instruction (R325). -/
def w1long (mop fn vd vs1 : Nat) (zm imm : Bool) : Nat :=
  0x3F + at_ 1 7 + at_ mop 9 + at_ fn 12 + at_ vd 15 + at_ vs1 21 + b1 zm 27 + b1 imm 28

/-- A custom-1 instruction in any operand form: word and length in bytes. -/
def encV (mop fn vd vs1 : Nat) : VForm → Nat × Nat
  | .w32 vs2 zm => (w1 mop fn vd vs1 vs2.val zm, 4)
  | .w64 vs2 fmt msk zm => (w1long mop fn vd vs1 zm false + at_ vs2.val 32 + at_ fmt.toNat 38 + at_ msk.toNat 42, 8)
  | .imm i zm => (w1long mop fn vd vs1 zm true + at_ i.toNat 32, 8)

/-- R-type word of custom-2 and custom-3 (R272, R411). -/
def rtype (opc rd f3 rs1 rs2 f7 : Nat) : Nat := opc + at_ rd 7 + at_ f3 12 + at_ rs1 15 + at_ rs2 20 + at_ f7 25

/-- The word and length of an engine instruction (R257 to R265, R272, R323 to R326, R411). -/
def encodeEng : EngOp → Nat × Nat
  | .mma acc a b => (0x0B + at_ acc.val 10 + at_ a.val 14 + at_ b.val 23, 4)
  | .mmax acc a b fa fb mx spa cz =>
    (0x3F + at_ acc.val 12 + at_ a.val 16 + at_ b.val 25 + at_ fa.toNat 34 + at_ fb.toNat 38 + b1 mx 42 + b1 spa 43
      + b1 cz 44, 8)
  | .mld rs1 rs2 t tr sc fsel =>
    (0x0B + at_ 1 7 + at_ rs1.val 10 + at_ rs2.val 15 + at_ t.val 20 + b1 tr 29 + b1 sc 30 + b1 fsel 31, 4)
  | .mst rs1 rs2 acc ofmt sr tr =>
    (0x0B + at_ 2 7 + at_ rs1.val 10 + at_ rs2.val 15 + at_ acc.val 20 + at_ ofmt.toNat 24 + b1 sr 28 + b1 tr 29, 4)
  | .mlda rs1 rs2 acc => (0x0B + at_ 3 7 + at_ rs1.val 10 + at_ rs2.val 15 + at_ acc.val 20, 4)
  | .mz mask => (0x0B + at_ 4 7 + at_ mask.toNat 10, 4)
  | .sparse tr src dst => (0x0B + at_ 5 7 + b1 tr 10 + at_ src.val 13 + at_ dst.val 22, 4)
  | .mtv v acc ofmt sr => (0x0B + at_ 6 7 + at_ v.val 11 + at_ acc.val 17 + at_ ofmt.toNat 21 + b1 sr 25, 4)
  | .mfv v t => (0x0B + at_ 6 7 + 2 ^ 10 + at_ v.val 11 + at_ t.val 17, 4)
  | .issue fn rd rs1 rs2 => (rtype 0x5B rd.val fn.code rs1.val rs2.val 0, 4)
  | .wend => (rtype 0x5B 0 4 0 0 0, 4)
  | .varith op vd vs1 f => encV op.code.1 op.code.2 vd.val vs1.val f
  | .vcmp op md vs1 f => encV 2 op.code md.val vs1.val f
  | .vmlog md ms1 ms2 lop => (0x2B + at_ 2 7 + at_ md.val 10 + at_ ms1.val 16 + at_ ms2.val 22 + at_ lop.val 25 + at_ 7 29, 4)
  | .vcvt vd vs1 (.w32 dfmt sr zm) =>
    (0x2B + at_ 3 7 + at_ vd.val 10 + at_ vs1.val 16 + at_ dfmt.toNat 22 + b1 sr 26 + b1 zm 28, 4)
  | .vcvt vd vs1 (.w64 fmt msk dfmt sr mx scs zm) =>
    (w1long 3 0 vd.val vs1.val zm false + at_ fmt.toNat 38 + at_ msk.toNat 42 + b1 sr 46 + at_ dfmt.toNat 47 + b1 mx 51
      + at_ scs.val 52, 8)
  | .vred op vd vs1 f => encV 3 op.code vd.val vs1.val f
  | .vmpop rd ms => (0x2B + at_ 3 7 + at_ rd.val 10 + at_ ms.val 16 + at_ 5 29, 4)
  | .vperm op vd vs1 f => encV 4 op.code vd.val vs1.val f
  | .vshuf vd vs1 i zm => (w1long 4 3 vd.val vs1.val zm true + at_ i.toNat 32, 8)
  | .vmem op v rs1 rs2 zm =>
    (0x2B + at_ 5 7 + at_ v.val 10 + at_ rs1.val 16 + at_ rs2.val 21 + b1 zm 28 + at_ op.code 29, 4)
  | .vsetvl rd rs1 vfmt msel =>
    (0x2B + at_ 5 7 + at_ rd.val 10 + at_ rs1.val 15 + at_ vfmt.toNat 20 + at_ msel.toNat 24 + at_ 6 29, 4)
  | .vmvx rd rs1 vs => (0x2B + at_ 5 7 + at_ rd.val 10 + at_ rs1.val 15 + at_ vs.val 20 + at_ 7 29, 4)
  | .vbci zero vd i => (0x2B + at_ (if zero then 7 else 6) 7 + at_ vd.val 10 + at_ i.toNat 16, 4)
  | .bead fn rd rs1 rs2 => (rtype 0x7B rd.val 0 rs1.val rs2.val fn.code, 4)
  | .ctr fn rd rs1 rs2 => (rtype 0x7B rd.val 1 rs1.val rs2.val fn.code, 4)
  | .fence sc => (rtype 0x7B 0 2 0 0 (scopeCode sc), 4)
  | .fil fn rd rs1 => (rtype 0x7B rd.val 3 rs1.val 0 fn.code, 4)
  | .crange op lv rs1 rs2 => (rtype 0x7B 0 4 rs1.val rs2.val (rangeOpCode op + at_ (levelCode lv) 2), 4)
  | .sclaim rd rs1 rs2 => (rtype 0x7B rd.val 5 rs1.val rs2.val 0, 4)

/-- A register field. -/
def xr (w lo : Nat) : XReg := Fin.ofNat 32 (w >>> lo)
def tl (w lo : Nat) : TileId := Fin.ofNat 512 (w >>> lo)
def ac (w lo : Nat) : AccId := Fin.ofNat 16 (w >>> lo)
def vs (w lo : Nat) : VSlot := Fin.ofNat 64 (w >>> lo)
def mk (w lo : Nat) : MaskId := Fin.ofNat 8 (w >>> lo)
def nb (w lo : Nat) : BitVec 4 := BitVec.ofNat 4 (w >>> lo)

/-- The operation when every reserved field of its form is 0, otherwise none (R259). -/
def ifZero (reserved : Nat) (op : EngOp) : Option EngOp := if reserved = 0 then some op else none

/-- A 32-bit custom-0 word (R262). -/
def decodeMatrix (w : Nat) : Option EngOp :=
  match fld w 7 3 with
  | 0 => some (.mma (ac w 10) (tl w 14) (tl w 23))
  | 1 => some (.mld (xr w 10) (xr w 15) (tl w 20) (bitOf w 29) (bitOf w 30) (bitOf w 31))
  | 2 => ifZero (fld w 30 2) (.mst (xr w 10) (xr w 15) (ac w 20) (nb w 24) (bitOf w 28) (bitOf w 29))
  | 3 => ifZero (fld w 24 8) (.mlda (xr w 10) (xr w 15) (ac w 20))
  | 4 => ifZero (fld w 26 6) (.mz (BitVec.ofNat 16 (w >>> 10)))
  | 5 => if fld w 10 3 ≤ 1 then ifZero (fld w 31 1) (.sparse (bitOf w 10) (tl w 13) (tl w 22)) else none
  | 6 =>
    if bitOf w 10 then ifZero (fld w 26 6) (.mfv (vs w 11) (tl w 17))
    else ifZero (fld w 26 6) (.mtv (vs w 11) (ac w 17) (nb w 21) (bitOf w 25))
  | _ => none

/-- A 32-bit custom-1 word (R323). Bits that a function does not use are reserved. -/
def decodeVector (w : Nat) : Option EngOp :=
  let fn := fld w 29 3
  let f : VForm := .w32 (vs w 22) (bitOf w 28)
  match fld w 7 3 with
  | 0 => some (.varith (VArith.ofCode 0 fn) (vs w 10) (vs w 16) f)
  | 1 => some (.varith (VArith.ofCode 1 fn) (vs w 10) (vs w 16) f)
  | 2 =>
    if fn = 7 then
      ifZero (fld w 13 3 + fld w 19 3 + fld w 28 1)
        (.vmlog (mk w 10) (mk w 16) (mk w 22) (Fin.ofNat 8 (w >>> 25)))
    else ifZero (fld w 13 3) (.vcmp (VCmp.ofCode fn) (mk w 10) (vs w 16) f)
  | 3 =>
    match fn with
    | 0 => ifZero (fld w 27 1) (.vcvt (vs w 10) (vs w 16) (.w32 (nb w 22) (bitOf w 26) (bitOf w 28)))
    | 5 => ifZero (fld w 15 1 + fld w 19 10) (.vmpop (xr w 10) (mk w 16))
    | 6 => none
    | 7 => none
    | _ => some (.vred (VRed.ofCode fn) (vs w 10) (vs w 16) f)
  | 4 => if fn = 3 then none else some (.vperm (VPerm.ofCode fn) (vs w 10) (vs w 16) f)
  | 5 =>
    match fn with
    | 4 => none
    | 5 => none
    | 6 => ifZero (fld w 28 1) (.vsetvl (xr w 10) (xr w 15) (nb w 20) (nb w 24))
    | 7 => ifZero (fld w 26 3) (.vmvx (xr w 10) (xr w 15) (vs w 20))
    | _ => ifZero (fld w 26 2) (.vmem (VMem.ofCode fn) (vs w 10) (xr w 16) (xr w 21) (bitOf w 28))
  | 6 => some (.vbci false (vs w 10) (BitVec.ofNat 16 (w >>> 16)))
  | _ => some (.vbci true (vs w 10) (BitVec.ofNat 16 (w >>> 16)))

/-- A custom-2 word (R272). -/
def decodeIssue (w : Nat) : Option EngOp :=
  if fld w 25 7 != 0 then none
  else
    match fld w 12 3 with
    | 4 => ifZero (fld w 7 5 + fld w 15 5 + fld w 20 5) .wend
    | 5 => none
    | 6 => none
    | 7 => none
    | f => some (.issue (IssueFn.ofCode f) (xr w 7) (xr w 15) (xr w 20))

/-- A custom-3 word (R411). -/
def decodeSync (w : Nat) : Option EngOp :=
  let f7 := fld w 25 7
  let rd := xr w 7
  let rs1 := xr w 15
  let rs2 := xr w 20
  match fld w 12 3 with
  | 0 => if f7 ≤ 1 then some (.bead (BeadFn.ofCode f7) rd rs1 rs2)
    else if f7 ≤ 3 then ifZero (fld w 20 5) (.bead (BeadFn.ofCode f7) rd rs1 rs2) else none
  | 1 => if f7 ≤ 2 then some (.ctr (CtrFn.ofCode f7) rd rs1 rs2)
    else if f7 = 3 then ifZero (fld w 20 5) (.ctr .cread rd rs1 rs2) else none
  | 2 => if f7 ≤ 4 then ifZero (fld w 7 5 + fld w 15 5 + fld w 20 5) (.fence (scopeOfCode f7)) else none
  | 3 => if f7 ≤ 2 then ifZero (fld w 20 5) (.fil (FilFn.ofCode f7) rd rs1) else none
  | 4 => if fld f7 0 2 = 0 ∨ fld f7 2 2 = 0 then none
    else ifZero (fld f7 4 3 + fld w 7 5) (.crange (rangeOpOf (fld f7 0 2)) (levelOf (fld f7 2 2)) rs1 rs2)
  | 5 => ifZero f7 (.sclaim rd rs1 rs2)
  | _ => none

/-- A 32-bit word of one of the four custom spaces (R257). -/
def decodeEng32 (w : Nat) : Option EngOp :=
  match fld w 0 7 with
  | 0x0B => decodeMatrix w
  | 0x2B => decodeVector w
  | 0x5B => decodeIssue w
  | 0x7B => decodeSync w
  | _ => none

/-- The operand form of a 64-bit custom-1 instruction (R325, R326). SR, DFMT, MX and SCS are 0 except in VCVT. -/
def form64 (w : Nat) : Option VForm :=
  if bitOf w 28 then some (.imm (BitVec.ofNat 32 (w >>> 32)) (bitOf w 27))
  else if fld w 46 18 = 0 then some (.w64 (vs w 32) (nb w 38) (nb w 42) (bitOf w 27))
  else none

/-- A 64-bit custom-1 instruction (R325). -/
def decodeVector64 (w : Nat) : Option EngOp :=
  let fn := fld w 12 3
  let vd := vs w 15
  let vs1 := vs w 21
  if fld w 29 3 != 0 then none
  else
    match fld w 9 3 with
    | 0 => (form64 w).map (.varith (VArith.ofCode 0 fn) vd vs1)
    | 1 => (form64 w).map (.varith (VArith.ofCode 1 fn) vd vs1)
    | 2 => if fn = 7 ∨ fld w 18 3 ≠ 0 then none else (form64 w).map (.vcmp (VCmp.ofCode fn) (mk w 15) vs1)
    | 3 =>
      match fn with
      | 0 =>
        if bitOf w 28 || fld w 32 6 != 0 || fld w 58 6 != 0 then none
        else some (.vcvt vd vs1 (.w64 (nb w 38) (nb w 42) (nb w 47) (bitOf w 46) (bitOf w 51) (vs w 52) (bitOf w 27)))
      | 5 => none
      | 6 => none
      | 7 => none
      | _ => (form64 w).map (.vred (VRed.ofCode fn) vd vs1)
    | 4 =>
      if fn = 3 then (if bitOf w 28 then some (.vshuf vd vs1 (BitVec.ofNat 32 (w >>> 32)) (bitOf w 27)) else none)
      else (form64 w).map (.vperm (VPerm.ofCode fn) vd vs1)
    | _ => none

/-- A 64-bit engine instruction (R258, R265, R325). -/
def decodeEng64 (w : Nat) : Option EngOp :=
  if fld w 0 7 != 0x3F then none
  else
    match fld w 7 2 with
    | 0 =>
      if fld w 9 3 != 0 || fld w 45 19 != 0 then none
      else some (.mmax (ac w 12) (tl w 16) (tl w 25) (nb w 34) (nb w 38) (bitOf w 42) (bitOf w 43) (bitOf w 44))
    | 1 => decodeVector64 w
    | _ => none

end Sys2Proof.Machine
end

