-- ==== Sys2Proof/Machine/CoreOps.lean ====
section
/-! DEFINITION. Machine/CoreOps.lean: what every instruction of a core shares: integer registers, retiring, taking an
exception and returning from one, the conditions under which a core may retire (R246 to R259, R285, R288). -/

namespace Sys2Proof.Machine

open Sys2Proof

/-- Read an integer register; x0 reads 0 (R246). -/
def Core.getX (k : Core) (r : XReg) : DWord := if r.val = 0 then 0 else nget k.x r.val 0

/-- Write an integer register; a write of x0 is discarded (R246). -/
def Core.setX (k : Core) (r : XReg) (v : DWord) : Core := if r.val = 0 then k else { k with x := nset k.x r.val v }

/-- The result of one instruction: it retires, jumps, raises an exception, or does not retire now. -/
inductive IRes where
  | done (s : State)
  | jump (pc : DWord) (s : State)
  | trap (cause : Nat) (tval : Nat) (s : State)
  | stall (s : State)

/-- Exception codes of the RISC-V privileged architecture that the core raises (R246 to R249, R259, R376). -/
def exIllegal : Nat := 2
def exBreak : Nat := 3
def exFetchAccess : Nat := 1
def exFetchPage : Nat := 12
def exLoadMis : Nat := 4
def exLoadAccess : Nat := 5
def exStoreMis : Nat := 6
def exStoreAccess : Nat := 7
def exLoadPage : Nat := 13
def exStorePage : Nat := 15

/-- mstatus fields: MIE 3, MPIE 7, MPP 12:11, MPRV 17. -/
def msMIE (m : DWord) : Bool := m.getLsbD 3
def msMPIE (m : DWord) : Bool := m.getLsbD 7
def msMPP (m : DWord) : Nat := fld m.toNat 11 2

/-- mstatus after an exception is taken from a mode: MPIE takes MIE, MIE is cleared, MPP records the mode. -/
def mstatusTrap (m : DWord) (machine : Bool) : DWord :=
  BitVec.ofNat 64 (setF (setF (setF m.toNat 7 1 (if msMIE m then 1 else 0)) 3 1 0) 11 2 (if machine then 3 else 0))
where
  setF (v lo n x : Nat) : Nat := v % 2 ^ lo + 2 ^ lo * (x % 2 ^ n) + 2 ^ (lo + n) * (v >>> (lo + n))

/-- mstatus after MRET: MIE takes MPIE, MPIE is set, MPP becomes user mode, MPRV is cleared on a return to user mode. -/
def mstatusRet (m : DWord) : DWord :=
  let v := mstatusTrap.setF (mstatusTrap.setF (mstatusTrap.setF m.toNat 3 1 (if msMPIE m then 1 else 0)) 7 1 1) 11 2 0
  BitVec.ofNat 64 (if msMPP m = 3 then v else mstatusTrap.setF v 17 1 0)

/-- CORE_EXCEPTION: take an exception in machine mode (R247). The pc is saved in mepc, the cause and value registers
are written, and the pc goes to the handler's base; the debug registers of the page record it (R284). -/
def State.takeTrap (s : State) (c : Nat) (cause tval : Nat) : State :=
  let k := s.core c
  let s1 := s.setCore c
    { k with
      mepc := k.pc
      mcause := BitVec.ofNat 64 cause
      mtval := BitVec.ofNat 64 tval
      mstatus := mstatusTrap k.mstatus k.machine
      machine := true
      inTrap := true
      resv := none
      midway := none
      pc := k.mtvec &&& ~~~3#64 }
  (s1.setReg64 (pgCor c + 0x070) k.pc.toNat).setReg (pgCor c + 0x078) (cause % 256)

/-- MRET: the return from an exception. -/
def Core.mret (k : Core) : Core :=
  { k with machine := msMPP k.mstatus == 3, mstatus := mstatusRet k.mstatus, inTrap := false }

/-- Retire an instruction: the pc moves to `pc`, INSTRET counts, minstret too unless mcountinhibit stops it, a single step ends
(R284, R285). -/
def State.retireTo (s : State) (c : Nat) (pc : DWord) : State :=
  (s.modCore c fun k =>
    { k with
      pc := pc, dbgHalt := k.dbgHalt || k.stepping, stepping := false, midway := none
      minstret := if k.mcountinhibit.getLsbD 2 then k.minstret else k.minstret + 1 }).count64 (pgCor c + 0x088) 1

/-- Retire an instruction of `len` bytes. -/
def State.retire (s : State) (c len : Nat) : State := s.retireTo c ((s.core c).pc + BitVec.ofNat 64 len)

/-- Finish an instruction of `len` bytes with its result. -/
def IRes.finish (c len : Nat) : IRes → State
  | .done s => s.retire c len
  | .jump pc s => s.retireTo c pc
  | .trap cause tval s => s.takeTrap c cause tval
  | .stall s => s

/-- The core runs: its cluster is enabled, CTRL.EN is set, and no halt has stopped it (R288, R560, R636). -/
def State.coreOn (s : State) (c : Nat) : Bool :=
  s.working && bitOf s.boot.clusters.toNat (homeOf c) && s.enabled (pgCor c)

/-- The core may begin an instruction now: enabled, not halted by debug or by the job halt, not waiting, and not inside an
instruction that waits at its pc (R274, R285, R288, R400, R417, R560). -/
def State.canIssue (s : State) (c : Nat) : Bool :=
  let k := s.core c
  s.coreOn c && !k.idle && (!k.dbgHalt || k.stepping) && k.wait == .none && k.midway.isNone

/-- An instruction of the core has passed its checks and completes whatever follows: it has entries to place, or a fence to wait
for (R259, R274, R417). -/
def Core.begun (k : Core) : Bool := k.placing.isSome || k.stalled || k.fencing.isSome

/-- The engine instruction that waits at the core's pc goes on; one that has begun does so under a debug halt too, which takes the
core at the next boundary (R274, R285, R417). -/
def State.resumes (s : State) (c : Nat) (op : EngOp) : Bool :=
  let k := s.core c
  s.coreOn c && !k.idle && k.wait == .none && k.midway == some (encodeEng op).1 && (k.begun || !k.dbgHalt || k.stepping)

/-- An instruction that waits stays the core's present one, unless it waits at an object's home (R426). -/
def State.stayAt (s : State) (c bits : Nat) : State :=
  if (s.core c).wait == .none then s.modCore c fun k => { k with midway := some bits } else s

/-- Run one engine instruction of a core: nothing happens unless the core may begin it or stands at it; otherwise its result is
finished with its length, and one that waits stays the core's present instruction (R259, R274, R417). -/
def State.issue (s : State) (c : Nat) (op : EngOp) (f : State → IRes) : State :=
  if s.canIssue c || s.resumes c op then
    match f s with
    | .stall s1 => s1.stayAt c (encodeEng op).1
    | r => r.finish c (encodeEng op).2
  else s

/-- The illegal-instruction exception of an engine instruction: mtval holds the whole instruction (R259). -/
def illegal (op : EngOp) (s : State) : IRes := .trap exIllegal (encodeEng op).1 s

/-- The active op of a core has priority 7 (R283). -/
def Core.prio7 (k : Core) : Bool :=
  match k.active with
  | some op => op.prio == 7
  | none => false

/-- A slot named in breach of the pre-emption partition (R283). -/
def State.partBreach (s : State) (c : Nat) (inPart : Bool) : Bool :=
  s.rbit (pgCor c + 0x040) 0 && ((s.core c).prio7 != inPart)

/-- Tile, accumulator and vector slots that lie in the partition (R283). -/
def tilePart (t : Nat) : Bool := decide (384 ≤ t)
def accPart (a : Nat) : Bool := decide (14 ≤ a)
def vPart (v : Nat) : Bool := decide (56 ≤ v)

/-- Some slot of those named breaches the partition. -/
def State.anyBreach (s : State) (c : Nat) (tiles accs vslots : List Nat) : Bool :=
  tiles.any (fun t => s.partBreach c (tilePart t)) || accs.any (fun a => s.partBreach c (accPart a))
    || vslots.any fun v => s.partBreach c (vPart v)

/-- A partition violation sets ENGERR.PARTV with the illegal-instruction exception (R283). -/
def partTrap (c : Nat) (op : EngOp) (s : State) : IRes :=
  illegal op (s.setReg (pgCor c + 0x054) (s.reg (pgCor c + 0x054) ||| 2))

/-- Record that a slot was marked poisoned (R282, R442). -/
def State.markPoison (s : State) (c : Nat) : State :=
  (s.setReg (pgCor c + 0x054) (s.reg (pgCor c + 0x054) ||| 1)).modCore c fun k => { k with opPoison := true }

/-- Add or remove a slot in a list of poisoned slots. -/
def markIf (bad : Bool) (l : List Nat) (i : Nat) : List Nat := if bad then addOnce l i else l.filter (· != i)

/-- Write an integer register of a core. -/
def State.setX (s : State) (c : Nat) (r : XReg) (v : DWord) : State := s.modCore c fun k => k.setX r v

def State.setXn (s : State) (c : Nat) (r : XReg) (v : Nat) : State := s.setX c r (BitVec.ofNat 64 v)

end Sys2Proof.Machine
end

