-- ==== Sys2Proof/Machine/Flags.lean ====
section
/-! DEFINITION. Machine/Flags.lean: the sticky flags of the matrix, vector and sparse engines and of synchronisation
(R251, R270, R317, R341, R412). -/

namespace Sys2Proof.Machine

open Sys2Proof

/-- The matrix flags keep NX, UF, OF and NV; bit 3 reads 0 (R251). -/
def mxMask (f : Flags) : BitVec 5 := BitVec.ofNat 5 (f.toNat % 32) &&& 0b10111#5

/-- Set sticky matrix flags (R270). -/
def Core.addMx (k : Core) (f : Flags) : Core := { k with mxflags := k.mxflags ||| mxMask f }

/-- Set sticky vector flags (R341). -/
def Core.addV (k : Core) (f : Flags) : Core := { k with vflags := k.vflags ||| f }

/-- A flush of a subnormal result sets UF (R270). -/
def flushFlags (flushed : Bool) : Flags := if flushed then fUF else 0

/-- `syncst` after a bead or counter operation (R412): status, the object's STATE before, its OVF or SAT after. -/
def syncStatus (st before : Nat) (flag : Bool) : BitVec 5 :=
  BitVec.ofNat 5 (st % 4 + 4 * (before % 4) + (if flag then 16 else 0))

/-- Sticky sparse flags of `COR.SPFLAGS` (R313). -/
def spDROP : Nat := 1
def spNT : Nat := 2
def spTDROP : Nat := 4
def spCODE : Nat := 8

def State.addSp (s : State) (c f : Nat) : State := s.setReg (pgCor c + 0x400) (s.reg (pgCor c + 0x400) ||| f)

end Sys2Proof.Machine
end

