-- ==== Sys2Proof/Machine/Cache.lean ====
section
/-! DEFINITION. Machine/Cache.lean: L1I, L1D, the cluster L2 with its stride prefetch, carved scratch, range operations,
enable and disable, way failure (R347 to R379), and the accesses of a core through them. -/

namespace Sys2Proof.Machine

open Sys2Proof

/-! ## L2 -/

/-- Slice of a physical line (R353). -/
def l2Slice (line : Nat) : Nat := fld line 0 4 ^^^ fld line 12 4 ^^^ fld line 24 4

/-- Set of a physical line (R353). -/
def l2Set (line : Nat) : Nat := fld line 4 10

def l2Key (slice set way : Nat) : Nat := (slice * 1024 + set) * 16 + way

/-- The carved ways of a slice (R360). -/
def Home.carved (h : Home) (slice : Nat) : List Nat :=
  (List.range h.carve).map fun i => h.carvedAt slice (16 - h.carve + i)

/-- Enabled ways of a slice that are not carved: the candidates of a fill (R356). -/
def Home.candidates (h : Home) (slice : Nat) : List Nat :=
  (List.range 16).filter fun w => !h.wayOff.contains (slice * 16 + w) && !(h.carved slice).contains w

/-- The entry that holds a line. -/
def Home.findLine (h : Home) (line : Nat) : Option (Nat × L2Line) :=
  let sl := l2Slice line
  let st := l2Set line
  (h.candidates sl).findSome? fun w =>
    match nfind h.l2 (l2Key sl st w) with
    | some e => if e.line == line then some (l2Key sl st w, e) else none
    | none => none

def State.l2On (s : State) (h : Nat) : Bool := s.enabled (pgL2c h)

/-- The L2 serves this line: it is enabled and the slice has a way for it (R370, R375). -/
def State.l2Serves (s : State) (h line : Nat) : Bool :=
  s.l2On h && !((s.home h).candidates (l2Slice line)).isEmpty

/-- A number as the 64 bytes of a line, and back. -/
def lineBytes (d : BitVec 512) : List Byte := toBytes 64 d.toNat
def lineOf (l : List Byte) : BitVec 512 := BitVec.ofNat 512 (ofBytes l)

/-- An uncorrectable L2 error: a clean line is invalidated and refetched, and counts as a corrected error of its way; a dirty
line is marked poisoned and counts in UECNT (R376). -/
def State.l2Uncorrectable (s : State) (h key : Nat) : State :=
  match nfind (s.home h).l2 key with
  | none => s
  | some e =>
    if e.dirty then (s.modHome h fun k => { k with l2 := nset k.l2 key { e with poison := true, upset := none } }).l2CountUE h
    else
      let s0 := s.meet (64 * e.line) 64
      let s1 := s0.modHome h fun k =>
        { k with l2 := nset k.l2 key { e with data := lineOf (s0.bytes (64 * e.line) 64), poison := s0.isPoisoned (64 * e.line) 64, upset := none } }
      s1.l2Corrected h (key / 16384) (key % 16)

/-- An access to an L2 entry meets the latent error that stands in it (R374, R376). -/
def State.l2Meet (s : State) (h key : Nat) : State :=
  match (nfind (s.home h).l2 key).bind (·.upset) with
  | none => s
  | some ue => if ue then s.l2Uncorrectable h key else s.l2Corrected h (key / 16384) (key % 16)

/-- Whether an L2 entry is marked poisoned. -/
def State.l2Bad (s : State) (h key : Nat) : Bool := ((nfind (s.home h).l2 key).map (·.poison)).getD false

/-- An access that returns the data to nobody meets the latent error of an L2 entry: one that leaves the line poisoned is
JOB_FATAL (R553). -/
def State.l2MeetAlone (s : State) (h key : Nat) : State :=
  let s1 := s.l2Meet h key
  if s1.l2Bad h key && !s.l2Bad h key then
    s1.fatal .l2c h 0x83 (key % 16 * 16 + key / 16384) ((nfind (s.home h).l2 key).map fun e => 64 * e.line)
  else s1

/-- Write an L2 entry back to memory when it is dirty; a poisoned line is written poisoned (R376). -/
def State.l2WriteBack (s0 : State) (h key : Nat) : State :=
  let s := if ((nfind (s0.home h).l2 key).map (·.dirty)).getD false then s0.l2MeetAlone h key else s0
  match nfind (s.home h).l2 key with
  | some e =>
    if e.dirty then
      let s1 := (s.store (64 * e.line) (lineBytes e.data) e.poison).count64 (pgL2c h + 0x0A0) 1
      s1.modHome h fun k => { k with l2 := nset k.l2 key { e with dirty := false } }
    else s
  | none => s

/-- Remove an L2 entry. -/
def State.l2Drop (s : State) (h key : Nat) : State := s.modHome h fun k => { k with l2 := ndel k.l2 key }

/-- Age of the entry of a way; none when the way is invalid. -/
def Home.ageOf (h : Home) (slice set w : Nat) : Option Nat := (nfind h.l2 (l2Key slice set w)).map (·.age)

/-- Add to the age of each candidate way of a set (R356). -/
def Home.addAge (h : Home) (slice set d : Nat) : List Nat → Home
  | [] => h
  | w :: ws =>
    let h1 := match nfind h.l2 (l2Key slice set w) with
      | some e => { h with l2 := nset h.l2 (l2Key slice set w) { e with age := e.age + d } }
      | none => h
    h1.addAge slice set d ws

/-- The victim way of a fill (R356). -/
def Home.victim (h : Home) (slice set : Nat) : Home × Nat :=
  let cs := h.candidates slice
  match cs.find? (fun w => (h.ageOf slice set w).isNone) with
  | some w => (h, w)
  | none =>
    match cs.find? (fun w => h.ageOf slice set w == some 3) with
    | some w => (h, w)
    | none =>
      let m := cs.foldl (fun acc w => max acc ((h.ageOf slice set w).getD 0)) 0
      let h1 := h.addAge slice set (3 - m) cs
      (h1, (cs.find? (fun w => h1.ageOf slice set w == some 3)).getD 0)

/-- Put a line in the L2, its victim written back first (R356, R357). -/
def State.l2Install (s : State) (h : Nat) (e : L2Line) : State :=
  let sl := l2Slice e.line
  let st := l2Set e.line
  let (h1, w) := (s.home h).victim sl st
  let key := l2Key sl st w
  let s1 := (s.setHome h h1).l2WriteBack h key
  s1.modHome h fun k => { k with l2 := nset k.l2 key e }

/-- Fill a line from memory, whose read meets what stands there (R355, R357, R467). -/
def State.l2Fill (s : State) (h line age : Nat) (pf : Bool) : State :=
  let s1 := s.meet (64 * line) 64
  s1.l2Install h
    { line := line, data := lineOf (s1.bytes (64 * line) 64), age := age, poison := s1.isPoisoned (64 * line) 64, pf := pf }

/-- Fill a line that nobody waits for: an uncorrectable error that poisons it is JOB_FATAL all the same (R359, R553). -/
def State.l2FillAhead (s : State) (h line age : Nat) : State :=
  let s1 := s.l2Fill h line age true
  if s1.isPoisoned (64 * line) 64 && !s.isPoisoned (64 * line) 64 then s1.dramFatal line else s1

/-- A dirty victim that a line's coming to the L2 writes back lies on a channel that serves nothing now; where the L2 does not
serve the line, its own channel counts (R357, R473). -/
def State.l2PutHeld (s : State) (h line : Nat) : Bool :=
  if s.l2Serves h line then
    s.scrubAt h (l2Slice line) || ((s.home h).findLine line).isNone &&
      match nfind (s.home h).l2 (l2Key (l2Slice line) (l2Set line) ((s.home h).victim (l2Slice line) (l2Set line)).2) with
      | some e => e.dirty && s.chanHeld (64 * e.line)
      | none => false
  else s.chanHeld (64 * line)

/-- Two lines lie in one 64 KiB block, which a prefetch never leaves (R359). -/
def sameBlock (a b : Nat) : Bool := a / 1024 == b / 1024

/-- The lines that a confirmed detector prefetches (R359). -/
def prefetchLines (line : Nat) (stride : Int) (dist : Nat) : List Nat :=
  (List.range dist).filterMap fun (i : Nat) =>
    let t : Int := (line : Int) + stride * ((i : Int) + 1)
    if 0 ≤ t && sameBlock t.toNat line then some t.toNat else none

/-- Lines of a slice that are outstanding: its 64 oldest misses (R357). -/
def Home.outstanding (h : Home) (line : Nat) : Bool :=
  ((h.l2Miss.filter fun m => l2Slice (m / 8) == l2Slice line).take 64).any fun m => m / 8 == line

/-- A line waits in the misses of its slice. -/
def Home.missing (h : Home) (line : Nat) : Bool := h.l2Miss.any fun m => m / 8 == line

/-- The slice of a line holds all its 64 outstanding misses (R357). -/
def Home.sliceFull (h : Home) (line : Nat) : Bool := decide (64 ≤ (h.l2Miss.filter fun m => l2Slice (m / 8) == l2Slice line).length)

/-- A miss of a line takes its place in its slice, with the age at which its fill enters (R355, R357). -/
def State.noteMiss (s : State) (h line age : Nat) : State :=
  if (s.home h).missing line then s else s.modHome h fun m => { m with l2Miss := m.l2Miss ++ [line * 8 + age] }

/-- L2_PREFETCH: bring one line at age 3 unless the L2 has it; one outside mapped memory is dropped, one whose channel serves
nothing now, or whose slice has 64 misses outstanding, waits among the misses (R357, R359, R473). -/
def State.prefetch (s : State) (h line : Nat) : State :=
  let hm := s.home h
  if (hm.findLine line).isSome || hm.missing line || !s.reachable (64 * line) || !s.l2Serves h line then s
  else if s.chanHeld (64 * line) || s.l2PutHeld h line || hm.sliceFull line then
    (s.noteMiss h line 7).count64 (pgL2c h + 0x0A8) 1
  else (s.l2FillAhead h line 3).count64 (pgL2c h + 0x0A8) 1

/-- A requester's access trains its stride detector and prefetches when it is confirmed (R358, R359). An access matches
the requester's detector whose last line lies in its 64 KiB block (log entry 17). -/
def State.train (s : State) (h req line : Nat) : State :=
  let hm := s.home h
  let ds := nget hm.detectors (req % 16) []
  let clk := hm.detClock + 1
  let mine := fun (d : Detector) => d.requester == req && sameBlock d.last line
  match ds.find? mine with
  | some d =>
    if d.last = line then
      s.setHome h { hm with detClock := clk, detectors := nset hm.detectors (req % 16) ({ d with used := clk } :: ds.filter fun x => !mine x) }
    else
      let str : Int := (line : Int) - d.last
      let seen := if str = d.stride then d.seen + 1 else 1
      let d1 := { d with last := line, stride := str, seen := seen, used := clk }
      let s1 := s.setHome h
        { hm with detClock := clk, detectors := nset hm.detectors (req % 16) (d1 :: ds.filter fun x => !mine x) }
      if decide (3 ≤ d.seen) && str == d.stride && s.rbit (pgL2c h + 0x040) 8 then
        (prefetchLines line str (s.rfld (pgL2c h + 0x040) 9 6)).foldl (fun acc l => acc.prefetch h l) s1
      else s1
  | none =>
    let d1 : Detector := { requester := req, last := line, used := clk }
    let keep := if ds.length < 32 then ds
      else
        let oldest := ds.foldl (fun acc x => min acc x.used) clk
        ds.filter fun x => x.used != oldest
    s.setHome h { hm with detClock := clk, detectors := nset hm.detectors (req % 16) (d1 :: keep) }

/-- Where bitmap tiles that follow each other end, as far as their headers tell: each one gives its BYTES (R307, R389). -/
def State.tilesEnd (s : State) (h : Nat) : Nat → Nat → Nat
  | 0, va => va
  | n + 1, va =>
    match (s.xlate h va false false).1 with
    | none => va
    | some p =>
      let b := s.memNat (p.pa + 4) 4
      if b < 16 ∨ 560 < b then va else s.tilesEnd h n (va + b)

/-- The virtual addresses from which a stream of a cluster reads its source: the first, and the first beyond (R387 to R391). -/
def State.streamSource (s : State) (h raw : Nat) : Nat × Nat :=
  let src : Int := dfld raw 8 8
  let span := fun (st n : Nat) => sgn 32 st * ((n - 1 : Nat) : Int)
  match dfld raw 0 1 % 16 with
  | 0 =>
    let a := span (dfld raw 32 4) (dfld raw 28 2)
    let b := span (dfld raw 40 4) (dfld raw 30 2)
    ((src + min a 0 + min b 0).toNat, (src + max a 0 + max b 0 + (dfld raw 24 4 : Nat)).toNat)
  | 1 => (dfld raw 8 8, dfld raw 8 8 + (dfld raw 48 6 - 1) * dfld raw 40 4 + dfld raw 36 4)
  | 2 => (dfld raw 8 8, s.tilesEnd h (dfld raw 18 2) (dfld raw 8 8))
  | 3 => (dfld raw 8 8, dfld raw 8 8 + (dfld raw 26 2 - 1) * dfld raw 32 4 + (if bitOf raw 48 then 544 else 512))
  | _ => (dfld raw 8 8, dfld raw 8 8 + 64 * dfld raw 16 4)

/-- A line lies in the source range of an active stream of the cluster with STRM set; streams translate as their cluster, and a
remote source is no line of this module (R385, R386). -/
def State.streaming (s : State) (h line : Nat) : Bool :=
  (List.range 8).any fun i =>
    (s.seng (8 * h + i)).work.any fun d =>
      bitOf d.raw 11 && !bitOf d.raw 12 && s.tlb.any fun t =>
        let va := t.va + (64 * line - t.pa)
        t.agent == h && decide (t.pa ≤ 64 * line) && decide (64 * line < t.pa + t.size)
          && decide ((s.streamSource h d.raw).1 < va + 64) && decide (va < (s.streamSource h d.raw).2)

/-- The age at which a demand fill enters (R355). -/
def State.fillAge (s : State) (h line : Nat) (strm : Bool) : Nat := if strm || s.streaming h line then 3 else 0

/-- A hit: the age becomes 0, the hit counts, and so does the first use of a prefetched line (R355, R377). -/
def State.l2Hit (s : State) (h key : Nat) : State :=
  match nfind (s.home h).l2 key with
  | none => s
  | some e =>
    let s2 := (s.modHome h fun k => { k with l2 := nset k.l2 key { e with age := 0, pf := false } }).count64 (pgL2c h + 0x090) 1
    if e.pf then s2.count64 (pgL2c h + 0x0B0) 1 else s2

/-- A cached access reaches the L2: a hit sets the age to 0, a miss fills the line (R355 to R359). -/
def State.l2Access (s : State) (h req line : Nat) (strm : Bool) : State :=
  let s1 := s.train h req line
  match (s1.home h).findLine line with
  | some (key, _) => (s1.l2Meet h key).l2Hit h key
  | none => (s1.l2Fill h line (s.fillAge h line strm) false).count64 (pgL2c h + 0x098) 1

/-- Write a whole line into the L2 without fetching it (R354), or to memory where the L2 does not serve it. -/
def State.l2WriteLine (s : State) (h line : Nat) (d : BitVec 512) (bad : Bool) : State :=
  if s.l2Serves h line then
    match (s.home h).findLine line with
    | some (key, _) =>
      (s.l2Hit h key).modHome h fun k =>
        { k with l2 := match nfind k.l2 key with
          | some e => nset k.l2 key { e with data := d, dirty := true, poison := bad, upset := none }
          | none => k.l2 }
    | none => (s.l2Install h { line := line, data := d, dirty := true, poison := bad }).count64 (pgL2c h + 0x098) 1
  else s.store (64 * line) (lineBytes d) bad

/-- A line as the cluster sees it: from the L2, or from memory where the L2 does not serve it (R370). -/
def State.clusterLine (s : State) (h req line : Nat) (strm : Bool) : BitVec 512 × Bool × State :=
  if s.l2Serves h line then
    let s1 := s.l2Access h req line strm
    match (s1.home h).findLine line with
    | some (_, e) => (e.data, e.poison, s1)
    | none => (0, false, s1)
  else
    let s1 := s.meet (64 * line) 64
    (lineOf (s1.bytes (64 * line) 64), s1.isPoisoned (64 * line) 64, s1)

/-- A line for an access that trained and counted when it missed: as the L2 holds it, or from memory where the L2 does not serve
it (R351, R370, R374, R377). -/
def State.clusterLineAgain (s : State) (h line : Nat) : BitVec 512 × Bool × State :=
  match (s.home h).findLine line with
  | some (key, _) =>
    let s1 := s.l2Meet h key
    match nfind (s1.home h).l2 key with
    | some e => (e.data, e.poison, s1)
    | none => (0, false, s1)
  | none =>
    let s1 := s.meet (64 * line) 64
    (lineOf (s1.bytes (64 * line) 64), s1.isPoisoned (64 * line) 64, s1)

/-- Reservations of the cluster's cores on a line end when another access writes it (R249). -/
def State.dropResv (s : State) (h line : Nat) (but : Nat) : State :=
  { s with cores := s.cores.map fun (c, k) =>
      if homeOf c = h && c != but && (match k.resv with | some (a, _) => a / 64 == line | none => false)
      then (c, { k with resv := none }) else (c, k) }

/-! ## L1D -/

/-- The entry of L1D that holds a line (R349). -/
def Core.findL1 (k : Core) (line : Nat) : Option (Nat × L1Line) :=
  (List.range 8).findSome? fun w =>
    match nfind k.l1d (line % 256 * 8 + w) with
    | some e => if e.line == line then some (w, e) else none
    | none => none

/-- Point each bit on way w's path away from w (R350). -/
def lruTouch (b : BitVec 7) (w : Nat) : BitVec 7 :=
  let put (b : BitVec 7) (i : Nat) (up : Bool) : BitVec 7 :=
    if up then b ||| BitVec.ofNat 7 (2 ^ i) else b &&& ~~~(BitVec.ofNat 7 (2 ^ i))
  let b1 := put b 0 (decide (w < 4))
  let b2 := put b1 (1 + w / 4) (decide (w % 4 < 2))
  put b2 (3 + w / 2) (decide (w % 2 = 0))

/-- The way to which the bits point (R350). -/
def lruVictim (b : BitVec 7) : Nat :=
  let h := if b.getLsbD 0 then 1 else 0
  let p := 2 * h + (if b.getLsbD (1 + h) then 1 else 0)
  2 * p + (if b.getLsbD (3 + p) then 1 else 0)

def Core.touchL1 (k : Core) (line w : Nat) : Core :=
  { k with l1dLru := nset k.l1dLru (line % 256) (lruTouch (nget k.l1dLru (line % 256) 0) w) }

/-- The way a fill takes: the lowest invalid way, otherwise the one to which the bits point (R350). -/
def Core.l1Way (k : Core) (line : Nat) : Nat :=
  match (List.range 8).find? fun w => (nfind k.l1d (line % 256 * 8 + w)).isNone with
  | some w => w
  | none => lruVictim (nget k.l1dLru (line % 256) 0)

/-- Whether an L1D entry is marked poisoned. -/
def State.l1Bad (s : State) (c key : Nat) : Bool := ((nfind (s.core c).l1d key).map (·.poison)).getD false

/-- A corrected error of L1D, or one of a clean line that is refetched, counts in L1DCE and is a CORRECTED event (R352,
R552). -/
def State.l1Corrected (s : State) (c line : Nat) : State :=
  ((s.count32 (pgCor c + 0x518) 1).setErr (pgCor c) 0).lightEvent
    { cls := 0, reason := 0, btype := Block.code .cor, inst := c % 256, addr := some (64 * line) }

/-- The latent error of an L1D line that is kept: a corrected one counts in L1DCE; an uncorrectable one of a dirty line marks it
poisoned and counts in L1DUE (R352). -/
def State.l1MeetKept (s : State) (c key : Nat) : State :=
  match nfind (s.core c).l1d key with
  | none => s
  | some e =>
    match e.upset with
    | none => s
    | some false => s.l1Corrected c e.line
    | some true =>
      if e.dirty then
        ((s.modCore c fun k => { k with l1d := nset k.l1d key { e with poison := true, upset := none } }).count32 (pgCor c + 0x51C) 1).setErr
          (pgCor c) 1
      else s

/-- An error that leaves an L1D line poisoned while its data goes to nobody is JOB_FATAL (R553). -/
def State.l1MeetAlone (s : State) (c key : Nat) : State :=
  let s1 := s.l1MeetKept c key
  if s1.l1Bad c key && !s.l1Bad c key then
    s1.fatal .cor (c % 256) 0x83 0xFFFF ((nfind (s.core c).l1d key).map fun e => 64 * e.line)
  else s1

/-- Write a dirty L1D entry to the cluster's L2 (R351). -/
def State.l1WriteBack (s0 : State) (c key : Nat) : State :=
  let s := if ((nfind (s0.core c).l1d key).map (·.dirty)).getD false then s0.l1MeetAlone c key else s0
  match nfind (s.core c).l1d key with
  | some e =>
    if e.dirty then
      let s1 := ((s.l2WriteLine (homeOf c) e.line e.data e.poison).dropResv (homeOf c) e.line c).count64 (pgCor c + 0x510) 1
      s1.modCore c fun k => { k with l1d := nset k.l1d key { e with dirty := false } }
    else s
  | none => s

/-- Put a line in L1D (R350, R351). -/
def State.l1Install (s : State) (c : Nat) (e : L1Line) : State :=
  let w := (s.core c).l1Way e.line
  let key := e.line % 256 * 8 + w
  let s1 := s.l1WriteBack c key
  s1.modCore c fun k => ({ k with l1d := nset k.l1d key e }).touchL1 e.line w

/-- Fill an L1D line from the cluster (R351). -/
def State.l1Fill (s : State) (c line : Nat) (strm : Bool) : State :=
  let (d, bad, s1) := s.clusterLine (homeOf c) (c % 64) line strm
  s1.l1Install c { line := line, data := d, poison := bad }

/-- An access to an L1D line meets the latent error that stands in it: a clean line with an uncorrectable one is invalidated
and refetched, as streaming where the request is (R352, R355). -/
def State.l1Meet (s : State) (c key : Nat) (strm : Bool) : State :=
  match nfind (s.core c).l1d key with
  | none => s
  | some e =>
    if e.upset == some true && !e.dirty then
      ((s.modCore c fun k => { k with l1d := ndel k.l1d key }).l1Corrected c e.line).l1Fill c e.line strm
    else s.l1MeetKept c key

/-- The key of the L1D entry that holds a line. -/
def State.l1Key (s : State) (c line : Nat) : Option Nat := ((s.core c).findL1 line).map fun p => line % 256 * 8 + p.1

/-- A store to an L1D line meets the latent error that stands in it; one that leaves a dirty line poisoned is JOB_FATAL, since its
data goes to nobody (R352, R553). -/
def State.l1MeetStore (s : State) (c key : Nat) (strm : Bool) : State :=
  if ((nfind (s.core c).l1d key).map (·.dirty)).getD false then s.l1MeetAlone c key else s.l1Meet c key strm

/-- The entry that holds a line is touched. -/
def State.l1Touch (s : State) (c line : Nat) : State :=
  match (s.core c).findL1 line with
  | some (w, _) => s.modCore c fun k => k.touchL1 line w
  | none => s

/-- A line present in L1D: a hit meets what stands in it and touches it, a miss fills it (the accesses of the engines, R278). -/
def State.l1Ensure (s : State) (c line : Nat) (strm write : Bool) : State :=
  match s.l1Key c line with
  | some key => ((if write then s.l1MeetStore c key strm else s.l1Meet c key strm).l1Touch c line).count64 (pgCor c + 0x500) 1
  | none => (s.l1Fill c line strm).count64 (pgCor c + 0x508) 1

/-- Replace bytes of a line. -/
def patch (d : BitVec 512) (off : Nat) (l : List Byte) : BitVec 512 :=
  BitVec.ofNat 512 (setFld d.toNat (8 * off) (8 * l.length) (ofBytes l))

/-- Write bytes into a line present in L1D; the poison mark clears only when all 64 bytes are written clean (R376). -/
def State.l1Write (s : State) (c line off : Nat) (l : List Byte) (bad : Bool) : State :=
  match (s.core c).findL1 line with
  | some (w, e) =>
    s.modCore c fun k =>
      let e1 := { e with
        data := patch e.data off l, dirty := true, poison := bad || (e.poison && l.length != 64)
        upset := if l.length = 64 then none else e.upset }
      { k with l1d := nset k.l1d (line % 256 * 8 + w) e1 }
  | none => s

/-! ## Accesses of a core -/

/-- A translated target of a core's access (R247, R347). -/
structure Target where
  pa : Nat
  cached : Bool
  strm : Bool
  deriving DecidableEq, Repr

/-- Loads and stores use device physical addresses: in machine mode every address is one (R247). -/
def Core.physical (k : Core) : Bool := k.machine

/-- Whether HBM or the Rhizome tier stands at an address, which caches hold (R347). -/
def cacheable (pa : Nat) : Bool :=
  match placeOf pa with
  | .hbm => true
  | .rhz => true
  | _ => false

/-- A core's caches hold an address: HBM or the Rhizome tier stands there, and the cluster's L2 is enabled, without which
cacheable accesses go to memory uncached (R347, R370, R373). -/
def State.caches (s : State) (c pa : Nat) : Bool := cacheable pa && s.l2On (homeOf c)

/-- Translate an address of a core (R247). -/
def State.coreXlate (s : State) (c va : Nat) (write fetch : Bool) : Option Target × State :=
  let k := s.core c
  if (if fetch then k.machine else k.physical) then (some ⟨va, s.caches c va, false⟩, s)
  else
    match s.xlate (homeOf c) va write fetch with
    | (some p, s1) => (some ⟨p.pa, p.c && s.caches c p.pa, p.strm⟩, s1)
    | (none, s1) => (none, s1)

/-- Translate every piece of an engine's memory operand at issue (R259); the first address that fails is named. -/
def State.coreXlateAll (s : State) (c : Nat) (write : Bool) : List (Nat × Nat) → Except Nat (List (Target × Nat)) × State
  | [] => (.ok [], s)
  | (va, n) :: l =>
    match s.coreXlate c va write false with
    | (none, s1) => (.error va, s1)
    | (some t, s1) =>
      match s1.coreXlateAll c write l with
      | (.ok ts, s2) => (.ok ((t, n) :: ts), s2)
      | (.error e, s2) => (.error e, s2)

/-- A core's load, store or engine operand may reach a target: memory, scratch or the host window, as R455 and R362 allow; bead
and counter space is reached by the operations of R409 alone. -/
def State.coreReach (s : State) (t : Target) (n : Nat) : Bool := s.reachableRange t.pa n

/-- L1D's victim for a line is dirty, and its way to the L2 waits for a channel that serves nothing now (R351, R473). -/
def State.l1VictimHeld (s : State) (c line : Nat) : Bool :=
  match nfind (s.core c).l1d (line % 256 * 8 + (s.core c).l1Way line) with
  | some e => e.dirty && s.l2PutHeld (homeOf c) e.line
  | none => false

/-- The cluster's L2 is being disabled and waits for a channel: accesses that reach it wait (R372). -/
def State.l2Closing (s : State) (h : Nat) : Bool := s.chanWait.any fun w => w == .l2off h

/-- A line must come to the cluster from memory and cannot now: its channel, or that of the victim it displaces, serves nothing, or
its slice has 64 misses outstanding; or the cache scrub holds its slice (R357, R465, R473, R583). -/
def State.l2LineHeld (s : State) (h line : Nat) : Bool :=
  s.l2Closing h || (s.l2Serves h line && s.scrubAt h (l2Slice line)) || (((s.home h).findLine line).isNone
    && (s.chanHeld (64 * line) || s.l2PutHeld h line || (s.l2Serves h line && (s.home h).sliceFull line)))

/-- The target's line waits on its way to the core: beyond its L1D, or because of the victim that it displaces there (R357, R465,
R473). -/
def State.lineHeld (s : State) (c line : Nat) : Bool :=
  ((s.core c).findL1 line).isNone && (s.l2LineHeld (homeOf c) line || s.l1VictimHeld c line)

def State.targetHeld (s : State) (c : Nat) (t : Target) (n : Nat) : Bool :=
  if t.cached then (sectorsOf t.pa n).any (s.lineHeld c ·) else s.anyHeld t.pa n

/-- A core's access waits for the walk that translates it (R465, R473). -/
def State.coreWalkHeld (s : State) (c va n : Nat) : Bool := !(s.core c).physical && s.walksHeld (homeOf c) va n

/-- Read one line's part of a cached target. -/
def State.readPart (s : State) (c line off n : Nat) (strm : Bool) : List Byte × Bool × State :=
  let s1 := s.l1Ensure c line strm false
  match (s1.core c).findL1 line with
  | some (_, e) => (((lineBytes e.data).drop off).take n, e.poison, s1)
  | none => (List.replicate n 0, false, s1)

/-- Read the lines of a cached target one by one; `f` bounds them. -/
def State.readLines (s : State) (c : Nat) (strm : Bool) : Nat → Nat → Nat → List Byte × Bool × State
  | 0, _, _ => ([], false, s)
  | f + 1, pa, n =>
    if n = 0 then ([], false, s)
    else
      let m := min n (64 - pa % 64)
      let (l, b, s1) := s.readPart c (pa / 64) (pa % 64) m strm
      let (l2, b2, s2) := s1.readLines c strm f (pa + m) (n - m)
      (l ++ l2, b || b2, s2)

/-- An engine's read of a target through L1D (R278), or directly where it is not cached (R347). Each read that returns
poisoned data is an event (R553). -/
def State.coreRead (s : State) (c : Nat) (t : Target) (n : Nat) : List Byte × Bool × State :=
  let (l, bad, s1) :=
    if t.cached then s.readLines c t.strm (n / 64 + 2) t.pa n
    else let a := s.meet t.pa n; (a.readPa t.pa n, a.badPa t.pa n, a)
  (l, bad, if bad then s1.poisonRead .cor (c % 256) t.pa else s1)

/-- Write the lines of a cached target; a partial write fetches the line first (R354). -/
def State.writeLines (s : State) (c : Nat) (strm bad : Bool) : Nat → Nat → List Byte → State
  | 0, _, _ => s
  | f + 1, pa, l =>
    if l.isEmpty then s
    else
      let m := 64 - pa % 64
      let s1 := (s.l1Ensure c (pa / 64) strm true).l1Write c (pa / 64) (pa % 64) (l.take m) bad
      s1.writeLines c strm bad f (pa + m) (l.drop m)

/-- An engine's write of a target through L1D, or directly where it is not cached. -/
def State.coreWrite (s : State) (c : Nat) (t : Target) (l : List Byte) (bad : Bool) : State :=
  if t.cached then s.writeLines c t.strm bad (l.length / 64 + 2) t.pa l else s.writePa t.pa l bad

/-- The pieces of several rows of a memory operand: row i of `n` bytes at base + i × stride. -/
def rowPieces (base stride : Nat) (n : Nat) (rows : Nat) : List (Nat × Nat) :=
  (List.range rows).flatMap fun i => pieces ((base + i * stride) % 2 ^ 64) n

/-- Read translated pieces in order. -/
def State.coreReadAll (s : State) (c : Nat) : List (Target × Nat) → List Byte × Bool × State
  | [] => ([], false, s)
  | (t, n) :: ts =>
    let (l, b, s1) := s.coreRead c t n
    let (l2, b2, s2) := s1.coreReadAll c ts
    (l ++ l2, b || b2, s2)

/-- Write translated pieces in order. -/
def State.coreWriteAll (s : State) (c : Nat) (bad : Bool) : List (Target × Nat) → List Byte → State
  | [], _ => s
  | (t, n) :: ts, l => (s.coreWrite c t (l.take n) bad).coreWriteAll c bad ts (l.drop n)

/-- The outcome of the checks on an engine's memory operand at issue. -/
inductive MemChk where
  | ok (ts : List (Target × Nat)) (s : State)
  | bad (r : IRes)

/-- Check and translate an engine's memory operand: page faults and access faults at issue (R259, R455), and a wait
while a line's channel retrains (R473). -/
def State.memCheck (s : State) (c : Nat) (write : Bool) (ps : List (Nat × Nat)) : MemChk :=
  if ps.any fun p => s.coreWalkHeld c p.1 p.2 then .bad (.stall s) else
  match s.coreXlateAll c write ps with
  | (.error va, s1) => .bad (.trap (if write then exStorePage else exLoadPage) va s1)
  | (.ok ts, s1) =>
    match (ts.zip ps).find? fun ((t, n), _) => !s1.coreReach t n with
    | some (_, (va, _)) => .bad (.trap (if write then exStoreAccess else exLoadAccess) va s1)
    | none => if ts.any fun (t, n) => s1.targetHeld c t n then .bad (.stall s1) else .ok ts s1

/-! ## The control processor's own loads and stores -/

/-- A load or store that misses takes an outstanding miss and waits for its line; the L2 counts its hit or miss now (R351, R355,
R357, R377). -/
def State.missLine (s : State) (c line : Nat) (strm : Bool) : State :=
  let h := homeOf c
  let k := s.core c
  if k.misses.any (·.1 == line) then s.modCore c fun k => { k with wait := .line line }
  else
    let s1 := (s.setCore c { k with misses := k.misses ++ [(line, strm)], wait := .line line }).count64 (pgCor c + 0x508) 1
    if s1.l2Serves h line then
      let s2 := s1.train h (c % 64) line
      match (s2.home h).findLine line with
      | some (key, _) => s2.l2Hit h key
      | none => (s2.count64 (pgL2c h + 0x098) 1).noteMiss h line (s.fillAge h line strm)
    else s1

/-- The control processor reads n bytes: the data, or the instruction waits, or it takes an exception (R247, R351,
R376). -/
inductive LdRes where
  | data (v : Nat) (s : State)
  | res (r : IRes)

/-- Load `n` bytes at a virtual address (R247, R248, R351, R376, R409). -/
def State.cpLoad (s : State) (c va n : Nat) : LdRes :=
  if va % n != 0 then .res (.trap exLoadMis va s)
  else if s.coreWalkHeld c va n then .res (.stall s)
  else
    match s.coreXlate c va false false with
    | (none, s1) => .res (.trap exLoadPage va s1)
    | (some t, s1) =>
      if !s1.coreReach t n then .res (.trap exLoadAccess va s1)
      else if t.cached then
        match s1.l1Key c (t.pa / 64) with
        | some key =>
          let s0 := s1.l1Meet c key t.strm
          (match (s0.core c).findL1 (t.pa / 64) with
          | some (w, e) =>
            let s2 := s0.modCore c fun k => ({ k with replay := false }).touchL1 (t.pa / 64) w
            let s3 := if (s1.core c).replay then s2 else s2.count64 (pgCor c + 0x500) 1
            if e.poison then .res (.trap exLoadAccess va (s3.poisonRead .cor (c % 256) t.pa))
            else .data (fld e.data.toNat (8 * (t.pa % 64)) (8 * n)) s3
          | none => .res (.stall s0))
        | none => .res (.stall (s1.missLine c (t.pa / 64) t.strm))
      else if s1.chanHeld t.pa then .res (.stall s1)
      else
        let s2 := s1.meet t.pa n
        if s2.badPa t.pa n then .res (.trap exLoadAccess va (s2.poisonRead .cor (c % 256) t.pa))
        else .data (s2.readPaNat t.pa n) s2

/-- Store `n` bytes at a virtual address (R247, R248, R349, R354). -/
def State.cpStore (s : State) (c va n v : Nat) : IRes :=
  if va % n != 0 then .trap exStoreMis va s
  else if s.coreWalkHeld c va n then .stall s
  else
    match s.coreXlate c va true false with
    | (none, s1) => .trap exStorePage va s1
    | (some t, s1) =>
      if !s1.coreReach t n then .trap exStoreAccess va s1
      else if t.cached then
        match s1.l1Key c (t.pa / 64) with
        | some key =>
          let s2 := ((s1.l1MeetStore c key t.strm).l1Touch c (t.pa / 64)).modCore c fun k => { k with replay := false }
          let s3 := if (s1.core c).replay then s2 else s2.count64 (pgCor c + 0x500) 1
          .done (s3.l1Write c (t.pa / 64) (t.pa % 64) (toBytes n v) false)
        | none => .stall (s1.missLine c (t.pa / 64) t.strm)
      else if s1.chanHeld t.pa then .stall s1
      else .done (s1.writePa t.pa (toBytes n v) false)

/-- Flush one line out of a core's L1D (R364). -/
def State.l1FlushLine (s : State) (c line : Nat) : State :=
  match (s.core c).findL1 line with
  | some (w, _) =>
    let key := line % 256 * 8 + w
    (s.l1WriteBack c key).modCore c fun k => { k with l1d := ndel k.l1d key }
  | none => s

/-- The line of an atomic operation as the cluster's L2 holds it; the core's own L1D copy goes there first (R249; log
entry 18). An address the caches do not hold is read where it stands. -/
def State.atomicRead (s : State) (c : Nat) (t : Target) (n : Nat) : Nat × Bool × State :=
  if t.cached then
    let s1 := s.l1FlushLine c (t.pa / 64)
    let (d, bad, s2) := s1.clusterLine (homeOf c) (c % 64) (t.pa / 64) t.strm
    (fld d.toNat (8 * (t.pa % 64)) (8 * n), bad, s2)
  else
    let s1 := s.meet t.pa n
    (s1.readPaNat t.pa n, s1.badPa t.pa n, s1)

/-- Write the result of an atomic operation (R249). -/
def State.atomicWrite (s : State) (c : Nat) (t : Target) (n v : Nat) : State :=
  let s1 := s.dropResv (homeOf c) (t.pa / 64) 4096
  if t.cached && s1.l2Serves (homeOf c) (t.pa / 64) then
    match (s1.home (homeOf c)).findLine (t.pa / 64) with
    | some (key, e) =>
      s1.modHome (homeOf c) fun k =>
        { k with l2 := nset k.l2 key { e with data := patch e.data (t.pa % 64) (toBytes n v), dirty := true } }
    | none => s1
  else s1.writePa t.pa (toBytes n v) false

/-! ## Instruction fetch -/

/-- Set of L1I that a line falls in: 128 sets of 4 ways (R252). -/
def Core.findI (k : Core) (line : Nat) : Option L1Line :=
  (List.range 4).findSome? fun w =>
    match nfind k.l1i (line % 128 * 4 + w) with
    | some e => if e.line == line then some e else none
    | none => none

/-- Fill a line of L1I from the cluster's L2; the spec gives no replacement (log entry 13). -/
def State.fillI (s : State) (c line : Nat) (strm : Bool) : State :=
  match (s.core c).findI line with
  | some _ => s
  | none =>
    let (d, bad, s1) := s.clusterLine (homeOf c) (c % 64) line strm
    let k := s1.core c
    let free := (List.range 4).find? fun w => (nfind k.l1i (line % 128 * 4 + w)).isNone
    let (w, s2) := match free with
      | some w => (w, s1)
      | none => ((Config.l1iVictim s1.free).val, { s1 with free := s1.free + 1 })
    s2.modCore c fun k => { k with l1i := nset k.l1i (line % 128 * 4 + w) { line := line, data := d, poison := bad } }

/-- What a fetch of 16 bits gives. -/
inductive FetchRes where
  | half (v : Nat) (s : State)
  | trap (cause : Nat) (s : State)
  | wait (s : State)

/-- Fetch 16 bits of instruction (R247, R252). -/
def State.fetchHalf (s : State) (c va : Nat) : FetchRes :=
  if !(s.core c).machine && s.walksHeld (homeOf c) va 2 then .wait s else
  match s.coreXlate c va false true with
  | (none, s1) => .trap exFetchPage s1
  | (some t, s1) =>
    -- firmware runs from the core's own memory, in machine mode (R613)
    match (if (s1.core c).machine then s1.fwHalf 1 c t.pa else none) with
    | some v => .half v s1
    | none =>
    if !s1.reachableRange t.pa 2 then .trap exFetchAccess s1
    else if t.cached then
      if ((s1.core c).findI (t.pa / 64)).isNone && s1.l2LineHeld (homeOf c) (t.pa / 64) then .wait s1
      else
        let s2 := s1.fillI c (t.pa / 64) t.strm
        match (s2.core c).findI (t.pa / 64) with
        | some e =>
          if e.poison then .trap exFetchAccess (s2.poisonRead .cor (c % 256) t.pa)
          else .half (fld e.data.toNat (8 * (t.pa % 64)) 16) s2
        | none => .wait s2
    else if s1.chanHeld t.pa then .wait s1
    else
      let s2 := s1.meet t.pa 2
      if s2.badPa t.pa 2 then .trap exFetchAccess (s2.poisonRead .cor (c % 256) t.pa)
      else .half (s2.readPaNat t.pa 2) s2

/-! ## Range operations (R364 to R369) -/

/-- Apply a range operation to one L1D entry. -/
def State.l1Op (s : State) (c : Nat) (op : RangeOp) (key : Nat) : State :=
  match op with
  | .clean => s.l1WriteBack c key
  | .flush => (s.l1WriteBack c key).modCore c fun k => { k with l1d := ndel k.l1d key }
  | .invalidate => s.modCore c fun k => { k with l1d := ndel k.l1d key }

/-- Apply a range operation to one L2 entry. -/
def State.l2Op (s : State) (h : Nat) (op : RangeOp) (key : Nat) : State :=
  match op with
  | .clean => s.l2WriteBack h key
  | .flush => (s.l2WriteBack h key).l2Drop h key
  | .invalidate => s.l2Drop h key

/-- A range operation on the L1D lines of a set of lines (R367). -/
def State.l1Range (s : State) (c : Nat) (op : RangeOp) (inRange : Nat → Bool) : State :=
  (s.core c).l1d.foldl (fun acc (key, e) => if inRange e.line then acc.l1Op c op key else acc) s

/-- The entries of lines as the L2 places them. -/
def freshLines (l : List (Nat × Nat × BitVec 512 × Bool × Nat)) : NMap L2Line :=
  l.foldl (fun m (w, line, d, dirty, age) =>
    nset m (l2Key (l2Slice line) (l2Set line) (w % 16)) { line := line, data := d, dirty := dirty, age := age % 4 }) []

/-- The L2's contents come to light for the first time since the device reset, which left them undefined (R370, R373). -/
def State.l2Known (s : State) (h : Nat) : State :=
  if (s.home h).l2Fresh then
    { (s.modHome h fun k => { k with l2Fresh := false, l2 := freshLines (Config.l2Contents s.free) }) with free := s.free + 1 }
  else s

/-- A range operation on the L2 lines of a set of lines; carved ways hold no cached line (R367). -/
def State.l2Range (s0 : State) (h : Nat) (op : RangeOp) (inRange : Nat → Bool) : State :=
  let s := s0.l2Known h
  (s.home h).l2.foldl (fun acc (key, e) => if inRange e.line then acc.l2Op h op key else acc) s

/-- The physical lines of translated pieces. -/
def inPieces (ts : List (Target × Nat)) (line : Nat) : Bool :=
  ts.any fun (t, n) => n != 0 && decide (t.pa / 64 ≤ line) && decide (line ≤ (t.pa + n - 1) / 64)

/-- A dirty line of a set of lines goes back to a channel that serves nothing now (R465, R473). -/
def State.writeBackHeld (s : State) (h : Nat) (inRange : Nat → Bool) : Bool :=
  s.someHeld && ((s.l2Known h).home h).l2.any fun p => p.2.dirty && inRange p.2.line && s.chanHeld (64 * p.2.line)

/-- The same of a core's L1D, whose lines go to the L2. -/
def State.l1BackHeld (s : State) (c : Nat) (inRange : Nat → Bool) : Bool :=
  s.someHeld && (s.core c).l1d.any fun p =>
    p.2.dirty && inRange p.2.line && (s.l2PutHeld (homeOf c) p.2.line || s.chanHeld (64 * p.2.line))

/-- CRANGE (R365, R367): checks and translation at issue, then L1D first and L2 after it. It waits while a line that it writes
back belongs to a channel that serves nothing (R465, R473). -/
def cacheRange (c : Nat) (op : EngOp) (o : RangeOp) (lv : RangeLevel) (rs1 rs2 : XReg) (s : State) : IRes :=
  let k := s.core c
  let va := (k.getX rs1).toNat
  let n := (k.getX rs2).toNat
  if n > 0x1000000 then illegal op s
  else if o = .invalidate && (va % 64 != 0 || n % 64 != 0) then illegal op s
  else
    if s.coreWalkHeld c va n then .stall s else
    match s.coreXlateAll c true (pieces va n) with
    | (.error a, s1) => .trap exStorePage a s1
    | (.ok ts, s1) =>
      if o != .invalidate && ((lv != .l2 && s1.l1BackHeld c (inPieces ts)) || (lv != .l1d && s1.writeBackHeld (homeOf c) (inPieces ts)))
      then .stall s1 else
      let s2 := if lv = .l2 then s1 else s1.l1Range c o (inPieces ts)
      .done (if lv = .l1d then s2 else s2.l2Range (homeOf c) o (inPieces ts))

/-- CRANGE (R365). -/
def execCrange (c : CoreId) (op : RangeOp) (level : RangeLevel) (rs1 rs2 : XReg) (s : State) :
    Host.Outcome State Fault Refusal :=
  .next (s.issue c (.crange op level rs1 rs2) (cacheRange c (.crange op level rs1 rs2) op level rs1 rs2))

/-- L1D_LINE_FILL: a missed line returns to L1D and releases the load that waits for it (R350, R351). It waits while the
cluster's L2 still misses the line, or misses it again, and while the line's channel retrains (R355, R357, R473). -/
def execL1dLineFill (c : CoreId) (line : LineAddr) (s : State) : Host.Outcome State Fault Refusal :=
  let h := homeOf c
  match ((s.core c).misses.take 16).find? fun m => m.1 == line with
  | none => .next s
  | some (_, strm) =>
    if (s.home h).missing line then .next s
    else if ((s.core c).findL1 line).isNone && s.l2Serves h line && ((s.home h).findLine line).isNone then
      .next (s.noteMiss h line (s.fillAge h line strm))
    else if s.lineHeld c line then .next s
    else
      let s1 := s.modCore c fun k => { k with misses := k.misses.filter fun m => m.1 != line }
      let s2 := match (s1.core c).findL1 line with
        | some _ => s1
        | none =>
          let (d, bad, a) := s1.clusterLineAgain h line
          a.l1Install c { line := line, data := d, poison := bad }
      .next (s2.modCore c fun k =>
        if k.wait == .line line then { k with wait := .none, replay := true } else k)

/-- L2_LINE_FILL: the slice sends a dirty victim's write first and completes the fill read of one of its 64 oldest misses (R355
to R357). It waits while the line's channel, or the victim's, serves nothing (R465, R473). -/
def execL2LineFill (h : HomeId) (line : LineAddr) (s : State) : Host.Outcome State Fault Refusal :=
  match (s.home h).l2Miss.find? (· / 8 == line) with
  | none => .next s
  | some m =>
    if !(s.home h).outstanding line || s.chanHeld (64 * line) || s.l2PutHeld h line then .next s
    else
      let s1 := s.modHome h fun k => { k with l2Miss := k.l2Miss.filter (· / 8 != line) }
      .next (if s1.l2Serves h line && ((s1.home h).findLine line).isNone then
        (if 4 ≤ m % 8 then s1.l2FillAhead h line 3 else s1.l2Fill h line (m % 4) false) else s1)

/-! ## L2 maintenance (R366 to R373) -/

/-- The physical range of a MAINT operation, and the reason it is refused with (R366). -/
def maintCheck (s : State) (h : Nat) (inval : Bool) : Option Nat :=
  let a := s.reg64 (pgL2c h + 0x050) % 2 ^ 48
  let n := s.reg (pgL2c h + 0x058)
  if (s.home h).mbusy then some 0x0D
  else if !inMemory a n then some 0x06
  else if inval && (a % 64 != 0 || n % 64 != 0) then some 0x05
  else none

/-- The lines of a maintenance operation: a number of lines from a first one on, or every line. -/
def linesOf (r : Option (Nat × Nat)) (line : Nat) : Bool :=
  match r with
  | some (lo, n) => decide (lo ≤ line) && decide (line < lo + n)
  | none => true

/-- A range operation of MAINT on lines that waits for no channel is done at once; another stays in progress, with MBUSY, until
its channels serve again (R366, R367, R465, R473). -/
def State.maintRun (s : State) (h : Nat) (op : RangeOp) (r : Option (Nat × Nat)) : State :=
  if op != .invalidate && s.writeBackHeld h (linesOf r) then
    { s.modHome h fun k => { k with mbusy := true } with chanWait := s.chanWait ++ [.maint h op r] }
  else (s.l2Range h op (linesOf r)).modHome h fun k => { k with mbusy := false }

/-- A physical range operation on a cluster's L2 (R366, R367). -/
def maintRange (s : State) (h : Nat) (op : RangeOp) : State :=
  match maintCheck s h (op == .invalidate) with
  | some r => s.refuse (pgL2c h + 0x048) r
  | none =>
    let a := s.reg64 (pgL2c h + 0x050) % 2 ^ 48
    let n := s.reg (pgL2c h + 0x058)
    s.maintRun h op (some (a / 64, if n = 0 then 0 else (a + n - 1) / 64 + 1 - a / 64))

/-- A whole-cache operation (R366, R367, R370). -/
def maintAll (s : State) (h : Nat) (op : RangeOp) : State :=
  if (s.home h).mbusy then s.refuse (pgL2c h + 0x048) 0x0D
  else
    let s1 := s.maintRun h op none
    if op = .invalidate then s1.modHome h fun k => { k with invOk := true } else s1

def execCleanRange (h : HomeId) (s : State) : Host.Outcome State Fault Refusal :=
  if !s.serves .l2c then .next s else
  .next (maintRange s h .clean)
def execFlushRange (h : HomeId) (s : State) : Host.Outcome State Fault Refusal :=
  if !s.serves .l2c then .next s else
  .next (maintRange s h .flush)
def execInvalidateRange (h : HomeId) (s : State) : Host.Outcome State Fault Refusal :=
  if !s.serves .l2c then .next s else
  .next (maintRange s h .invalidate)
def execCleanAll (h : HomeId) (s : State) : Host.Outcome State Fault Refusal :=
  if !s.serves .l2c then .next s else
  .next (maintAll s h .clean)
def execFlushAll (h : HomeId) (s : State) : Host.Outcome State Fault Refusal :=
  if !s.serves .l2c then .next s else
  .next (maintAll s h .flush)
def execInvalidateAll (h : HomeId) (s : State) : Host.Outcome State Fault Refusal :=
  .next (if s.serves .l2c then maintAll s h .invalidate else s)

/-- Set or clear CTRL.EN of a page and its STATUS.ENABLED; an accepted write to CTRL clears REFUSED and REASON (R633). -/
def State.setEn (s : State) (pg : Nat) (on : Bool) : State :=
  let s1 := s.setRfld (pg + 0x010) 0 1 (if on then 1 else 0)
  (s1.setReg (pg + 0x014) (s1.reg (pg + 0x014) / 4 * 4 + (if on then 1 else 0))).setReg (pg + 0x018) 0

/-- A carve takes effect: its contents become undefined (R360). -/
def State.carveNow (s : State) (h w : Nat) : State :=
  if (s.home h).carve = w then s
  else
    let s1 := s.modHome h fun k => { k with carve := w, carveSub := [] }
    let s2 := (s1.home h).l2.foldl (fun acc (key, e) =>
      if ((s1.home h).candidates (l2Slice e.line)).contains (key % 16) then acc else (acc.l2WriteBack h key).l2Drop h key) s1
    { s2.makeJunk (scratchBase h) (scratchBase h + 0x1000000) with
      poison := s2.poison.filter fun x => !(decide (scratchBase h ≤ 64 * x) && decide (64 * x < scratchBase h + 0x1000000)) }

/-- Setting L2C.CTRL.EN (R370, R371, R373, R378, R636). -/
def l2Enable (s : State) (h : Nat) : State :=
  let pg := pgL2c h
  let cfg := s.reg (pg + 0x040)
  let compat := s.rbit (pg + 0x010) 2
  if !bitOf s.boot.clusters.toNat h then s.refuse (pg + 0x010) 0x0A
  else if fld cfg 0 4 > 8 || fld cfg 9 6 = 0 then s.refuse (pg + 0x010) 0x01
  else if !compat && !(s.home h).invOk then s.refuse (pg + 0x010) 0x04
  else ((s.l2Known h).carveNow h (fld cfg 0 4)).setEn pg true

/-- L2_ENABLE (R371). -/
def execL2Enable (h : HomeId) (s : State) : Host.Outcome State Fault Refusal := .next (if s.serves .l2c then l2Enable s h else s)

/-- Clearing L2C.CTRL.EN (R372, R373): with COMPAT 0 every dirty line is written back and every line invalidated, the
carved ways included; EN reads 0 when this is complete, and a line whose channel serves nothing makes it wait. With COMPAT 1 the
contents stay unwritten and INVOK becomes 0. -/
def l2Disable (s : State) (h : Nat) : State :=
  let pg := pgL2c h
  if s.rbit (pg + 0x010) 2 then (s.modHome h fun k => { k with invOk := false }).setEn pg false
  else if s.writeBackHeld h (fun _ => true) then (if s.l2Closing h then s else { s with chanWait := s.chanWait ++ [.l2off h] })
  else
    let s1 := s.l2Range h .flush fun _ => true
    let s2 := (s1.modHome h fun k => { k with l2 := [] })
    let s3 := if (s2.home h).carve = 0 then s2
      else s2.makeJunk (scratchBase h) (scratchBase h + (s2.home h).carve * 0x100000)
    s3.setEn pg false

/-- L2_DISABLE (R372). -/
def execL2Disable (h : HomeId) (s : State) : Host.Outcome State Fault Refusal := .next (if s.serves .l2c then l2Disable s h else s)

/-! ## Way failure (R374 to R376) -/

/-- The scratch addresses that nominal carved way `w` of a slice holds (R361): sector numbers. -/
def scratchSectors (hm : Home) (h slice w : Nat) : List Nat :=
  (List.range 1024).map fun set => (scratchBase h) / 64 + ((w - (16 - hm.carve)) * 1024 + set) * 16 + slice

/-- Write back and drop the cached lines of one way of a slice. -/
def State.clearWay (s : State) (h slice way : Nat) : State :=
  (s.home h).l2.foldl (fun acc (key, _) =>
    if key / 16384 = slice && key % 16 = way then (acc.l2WriteBack h key).l2Drop h key else acc) s

/-- Disable a way (R374, R375): dirty lines are written back; a carved way's scratch lines move to the lowest enabled way
that is not carved, or are marked poisoned when there is none; WAYOFF and LASTWD record it. -/
def wayDisable (s : State) (h slice way : Nat) : State :=
  let hm := s.home h
  if hm.wayOff.contains (slice * 16 + way) then s
  else
    let s1 := s.clearWay h slice way
    let nominal := (List.range hm.carve).find? fun i => hm.carvedAt slice (16 - hm.carve + i) = way
    let s2 := match nominal with
      | none => s1
      | some i =>
        match hm.candidates slice with
        | t :: _ => (s1.clearWay h slice t).modHome h fun k =>
            { k with carveSub := nset k.carveSub (slice * 16 + (16 - hm.carve + i)) t }
        | [] => { s1 with poison := (scratchSectors hm h slice (16 - hm.carve + i)).foldl insNat s1.poison }
    let s3 := s2.modHome h fun k => { k with wayOff := (slice * 16 + way) :: k.wayOff }
    let wo := pgL2c h + 0x060 + 4 * (slice / 2)
    let s4 := s3.setReg wo (s3.reg wo ||| 2 ^ (16 * (slice % 2) + way))
    let s5 := s4.setReg (pgL2c h + 0x0C0) (way + 16 * slice + 2 ^ 31)
    let (d, s6) := s5.takeDur 20
    s6.lightEvent { cls := 2, reason := 0, btype := Block.l2c.code, inst := h, unit := way * 16 + slice, dur := d }

/-- A line of a way that would be written back belongs to a channel that serves nothing now. -/
def State.wayHeld (s : State) (h slice way : Nat) : Bool :=
  s.someHeld && (s.home h).l2.any fun p => p.1 / 16384 == slice && p.1 % 16 == way && p.2.dirty && s.chanHeld (64 * p.2.line)

/-- WAY_DISABLE: the sixteenth corrected error of a way's window disables the way when WDEN is 1; it waits while a line of the way,
or of the one that takes its place, belongs to a channel that serves nothing (R374, R465, R473). -/
def execWayDisable (h : HomeId) (slice : Slice) (way : Way) (s : State) : Host.Outcome State Fault Refusal :=
  let (n, _) := nget (s.home h).ceWin (slice.val * 16 + way.val) (0, 0)
  let held := s.wayHeld h slice way || (((s.home h).candidates slice).head?.map (s.wayHeld h slice)).getD false
  if 16 ≤ n && s.rbit (pgL2c h + 0x040) 16 && !held then .next (wayDisable s h slice way) else .next s

/-- ACCUMULATING_WRITE: the oldest accumulating write that reached the cluster's slices is applied (R91, R363, R376). -/
def execAccumulatingWrite (h : HomeId) (s : State) : Host.Outcome State Fault Refusal :=
  match (s.home h).accQ with
  | [] => .next s
  | a :: q => if s.chanHeld a.addr then .next s else .next ((s.modHome h fun k => { k with accQ := q }).accApply h a)

end Sys2Proof.Machine
end

