-- ==== Sys2Proof/Machine/Sync.lean ====
section
/-! DEFINITION. Machine/Sync.lean: beads, event counters, signals, owners, Filigree channels, long waits and the
debugger set (R407 to R432). -/

namespace Sys2Proof.Machine

open Sys2Proof

/-! ## Objects at their home -/

/-- An object: a bead or a counter of a home (R407). -/
inductive Obj where
  | bead (h b : Nat)
  | ctr (h k : Nat)
  deriving DecidableEq, Repr

/-- The object at a device physical address of an enabled cluster (R407, R409). -/
def State.objAt (s : State) (pa : Nat) : Option Obj :=
  match placeOf pa with
  | .sync h off =>
    if !bitOf s.boot.clusters.toNat h || pa % 8 != 0 then none
    else if off < 0x40000 then some (.bead h (off / 8))
    else if off < 0x48000 then some (.ctr h ((off - 0x40000) / 8))
    else none
  | _ => none

/-- The number under which waiters name an object of a home: beads, then counters. -/
def Obj.num : Obj → Nat
  | .bead _ b => b
  | .ctr _ k => 32768 + k

def Obj.home : Obj → Nat
  | .bead h _ => h
  | .ctr h _ => h

def State.bead (s : State) (h b : Nat) : Bead := nget (s.home h).beads b {}
def State.setBead (s : State) (h b : Nat) (v : Bead) : State := s.modHome h fun k => { k with beads := nset k.beads b v }
def State.ctr (s : State) (h k : Nat) : Ctr := nget (s.home h).ctrs k {}
def State.setCtr (s : State) (h k : Nat) (v : Ctr) : State := s.modHome h fun m => { m with ctrs := nset m.ctrs k v }

/-- A waiting core's instruction completes: rd and syncst are written, the core goes on past it (R412, R415). -/
def State.wake (s : State) (c : Nat) (rd : Nat) (v : Nat) (st : BitVec 5) : State :=
  (s.modCore c fun k =>
    { (k.setX (Fin.ofNat 32 rd) (BitVec.ofNat 64 v)) with wait := .none, gated := false, hangSeen := false, syncst := st }).retire c 4

/-- Remove a waiter. -/
def State.dropWaiter (s : State) (h : Nat) (w : Waiter) : State :=
  s.modHome h fun k => { k with waiters := k.waiters.filter (· != w) }

/-- WAITER_RELEASE: while the bead's state lets a waiter complete, the oldest one does, in the same step (R415). -/
def State.releaseBead (s : State) (h b : Nat) : Nat → State
  | 0 => s
  | f + 1 =>
    let o := s.bead h b
    let ws := (s.home h).waiters.filter (·.obj == b)
    if o.st = 0 then
      match ws.find? fun w => match w.kind with | .bst _ => true | _ => false with
      | some w =>
        match w.kind with
        | .bst v =>
          let s1 := (s.dropWaiter h w).setBead h b { o with value := v, st := 1 }
          (s1.wake w.core w.rd 0 (syncStatus 0 0 o.ovf)).releaseBead h b f
        | _ => s
      | none => s
    else if o.st = 1 then
      match ws.find? fun w => w.kind == .bld with
      | some w =>
        let s1 := (s.dropWaiter h w).setBead h b { o with st := 0 }
        (s1.wake w.core w.rd o.value.toNat (syncStatus 0 1 o.ovf)).releaseBead h b f
      | none => s
    else s

def State.beadSettled (s : State) (h b : Nat) : State := s.releaseBead h b ((s.home h).waiters.length + 1)

/-- Every waiting CWAIT whose threshold the value has reached completes, in arrival order (R416). -/
def State.releaseCtr (s : State) (h k : Nat) : State :=
  let o := s.ctr h k
  ((s.home h).waiters.filter (·.obj == 32768 + k)).foldl (fun acc w =>
    match w.kind with
    | .cwait t => if t ≤ o.value then (acc.dropWaiter h w).wake w.core w.rd o.value (syncStatus 0 o.st o.sat) else acc
    | _ => acc) s

/-- All waiters on an object complete with POISONED (R425, R429). `count` counts them in POISONCNT. -/
def State.poisonWaiters (s : State) (o : Obj) (count : Bool) : State :=
  let h := o.home
  ((s.home h).waiters.filter (·.obj == o.num)).foldl (fun acc w =>
    let v := match w.kind, o with
      | .bst _, _ => 2
      | .bld, _ => 0
      | .cwait _, .ctr h k => (s.ctr h k).value
      | .cwait _, _ => 0
    let flag := match o with
      | .bead h b => (s.bead h b).ovf
      | .ctr h k => (s.ctr h k).sat
    let a := (acc.dropWaiter h w).wake w.core w.rd v (syncStatus 2 2 flag)
    if count then a.count32 (pgSyn h + 0x098) 1 else a) s

/-- An operation performed at a home counts in SOPCNT (R432). -/
def State.syncOp (s : State) (h : Nat) : State := s.count64 (pgSyn h + 0x080) 1

/-- A non-blocking store to a bead (R413, R414): status 0, 1 FULL, or 2 POISONED. -/
def State.storeBead (s : State) (h b : Nat) (v : DWord) : Nat × State :=
  let o := s.bead h b
  let s1 := s.syncOp h
  if o.st = 0 then (0, (s1.setBead h b { o with value := v, st := 1 }).beadSettled h b)
  else if o.st = 1 then (1, (s1.setBead h b { o with ovf := true }).count32 (pgSyn h + 0x088) 1)
  else (2, s1)

/-- Add to a counter with saturation, and release waiters (R416). -/
def State.addCtr (s : State) (h k n : Nat) : State :=
  let o := s.ctr h k
  let s1 := s.syncOp h
  if o.st = 2 then s1
  else
    let v := o.value + n
    if v > 0xFFFF then
      ((s1.setCtr h k { o with value := 0xFFFF, sat := true }).count32 (pgSyn h + 0x08C) 1).releaseCtr h k
    else (s1.setCtr h k { o with value := v }).releaseCtr h k

/-- Subtract from a counter with saturation (R416). -/
def State.subCtr (s : State) (h k n : Nat) : State :=
  let o := s.ctr h k
  let s1 := s.syncOp h
  if o.st = 2 then s1
  else if n > o.value then (s1.setCtr h k { o with value := 0, sat := true }).count32 (pgSyn h + 0x08C) 1
  else s1.setCtr h k { o with value := o.value - n }

/-- BEAD_SIGNAL: a completion signal stores to a bead if it is empty, or adds 1 to a counter; an address outside bead and
counter space, or of the other kind, signals nothing (R97, R409, R414). -/
def State.signal (s : State) (pa : Nat) (counter : Bool) (v : Nat) : State :=
  match s.objAt pa with
  | some (.bead h b) => if counter then s else (s.storeBead h b (BitVec.ofNat 64 v)).2
  | some (.ctr h k) => if counter then s.addCtr h k 1 else s
  | none => s

/-! ## The instructions -/

/-- Which exceptions an operation's address raises: those of a store when it may change the object (log entry 20). -/
def syncTarget (s : State) (c : Nat) (rs1 : XReg) (write : Bool) : Except IRes (Obj × State) :=
  let va := ((s.core c).getX rs1).toNat
  if va % 8 != 0 then .error (.trap (if write then exStoreMis else exLoadMis) va s)
  else if s.coreWalkHeld c va 8 then .error (.stall s)
  else
    match s.coreXlate c va write false with
    | (none, s1) => .error (.trap (if write then exStorePage else exLoadPage) va s1)
    | (some t, s1) =>
      match s1.objAt t.pa with
      | some o => .ok (o, s1)
      | none => .error (.trap (if write then exStoreAccess else exLoadAccess) va s1)

/-- Complete a bead or counter instruction: rd and syncst (R412). -/
def State.syncDone (s : State) (c : Nat) (rd : XReg) (v : Nat) (st before : Nat) (flag : Bool) : IRes :=
  .done ((s.setXn c rd v).modCore c fun k => { k with syncst := syncStatus st before flag })

/-- The instruction waits at the home: a waiter entry is made and the core stops retiring (R413, R415). -/
def State.waitAt (s : State) (c : Nat) (o : Obj) (kind : WaitKind) (rd : XReg) : IRes :=
  let s1 := (s.syncOp o.home).modHome o.home fun k =>
    { k with waiters := k.waiters ++ [{ core := c, obj := o.num, kind := kind, rd := rd.val }] }
  .stall (s1.modCore c fun k => { k with wait := .sync })

/-- The bead instructions (R412, R413). -/
def beadInstr (c : Nat) (fn : BeadFn) (rd rs1 rs2 : XReg) (s : State) : IRes :=
  match syncTarget s c rs1 (fn != .bpeek) with
  | .error r => r
  | .ok (.ctr _ _, s1) =>
    .trap (if fn = .bpeek then exLoadAccess else exStoreAccess) ((s.core c).getX rs1).toNat s1
  | .ok (.bead h b, s1) =>
    let o := s1.bead h b
    let v := (s1.core c).getX rs2
    match fn with
    | .bpeek => (s1.syncOp h).syncDone c rd o.value.toNat (if o.st = 2 then 2 else 0) o.st o.ovf
    | .bstn =>
      let (st, s2) := s1.storeBead h b v
      s2.syncDone c rd st st o.st (o.ovf || st == 1)
    | .bst =>
      if o.st = 1 then s1.waitAt c (.bead h b) (.bst v) rd
      else
        let (st, s2) := s1.storeBead h b v
        s2.syncDone c rd st st o.st o.ovf
    | .bld =>
      if o.st = 0 then s1.waitAt c (.bead h b) .bld rd
      else if o.st = 2 then (s1.syncOp h).syncDone c rd 0 2 2 o.ovf
      else (((s1.syncOp h).setBead h b { o with st := 0 }).beadSettled h b).syncDone c rd o.value.toNat 0 1 o.ovf

/-- The counter instructions (R412, R416). -/
def ctrInstr (c : Nat) (fn : CtrFn) (rd rs1 rs2 : XReg) (s : State) : IRes :=
  match syncTarget s c rs1 (fn = .cadd || fn = .csub) with
  | .error r => r
  | .ok (.bead _ _, s1) =>
    .trap (if fn = .cadd ∨ fn = .csub then exStoreAccess else exLoadAccess) ((s.core c).getX rs1).toNat s1
  | .ok (.ctr h k, s1) =>
    let o := s1.ctr h k
    let n := fld ((s1.core c).getX rs2).toNat 0 16
    let st := if o.st = 2 then 2 else 0
    match fn with
    | .cread => (s1.syncOp h).syncDone c rd o.value st o.st o.sat
    | .cadd =>
      let s2 := s1.addCtr h k n
      s2.syncDone c rd (s2.ctr h k).value st o.st (s2.ctr h k).sat
    | .csub =>
      let s2 := s1.subCtr h k n
      s2.syncDone c rd (s2.ctr h k).value st o.st (s2.ctr h k).sat
    | .cwait =>
      if o.st = 2 || n ≤ o.value then (s1.syncOp h).syncDone c rd o.value st o.st o.sat
      else s1.waitAt c (.ctr h k) (.cwait n) rd

def execBst (c : CoreId) (rd rs1 rs2 : XReg) (s : State) : Host.Outcome State Fault Refusal :=
  .next (s.issue c (.bead .bst rd rs1 rs2) (beadInstr c .bst rd rs1 rs2))
def execBstn (c : CoreId) (rd rs1 rs2 : XReg) (s : State) : Host.Outcome State Fault Refusal :=
  .next (s.issue c (.bead .bstn rd rs1 rs2) (beadInstr c .bstn rd rs1 rs2))
def execBld (c : CoreId) (rd rs1 : XReg) (s : State) : Host.Outcome State Fault Refusal :=
  .next (s.issue c (.bead .bld rd rs1 0) (beadInstr c .bld rd rs1 0))
def execBpeek (c : CoreId) (rd rs1 : XReg) (s : State) : Host.Outcome State Fault Refusal :=
  .next (s.issue c (.bead .bpeek rd rs1 0) (beadInstr c .bpeek rd rs1 0))
def execCadd (c : CoreId) (rd rs1 rs2 : XReg) (s : State) : Host.Outcome State Fault Refusal :=
  .next (s.issue c (.ctr .cadd rd rs1 rs2) (ctrInstr c .cadd rd rs1 rs2))
def execCsub (c : CoreId) (rd rs1 rs2 : XReg) (s : State) : Host.Outcome State Fault Refusal :=
  .next (s.issue c (.ctr .csub rd rs1 rs2) (ctrInstr c .csub rd rs1 rs2))
def execCwait (c : CoreId) (rd rs1 rs2 : XReg) (s : State) : Host.Outcome State Fault Refusal :=
  .next (s.issue c (.ctr .cwait rd rs1 rs2) (ctrInstr c .cwait rd rs1 rs2))
def execCread (c : CoreId) (rd rs1 : XReg) (s : State) : Host.Outcome State Fault Refusal :=
  .next (s.issue c (.ctr .cread rd rs1 0) (ctrInstr c .cread rd rs1 0))

/-! ## Owners (R423 to R425) -/

/-- The n objects of one kind and one home from an object on, when they all exist (R423). -/
def runOf (o : Obj) (n : Nat) : Option (List Obj) :=
  match o with
  | .bead h b => if b + n ≤ 32768 then some ((List.range n).map fun i => .bead h (b + i)) else none
  | .ctr h k => if k + n ≤ 4096 then some ((List.range n).map fun i => .ctr h (k + i)) else none

def State.owner (s : State) : Obj → Nat
  | .bead h b => (s.bead h b).owner
  | .ctr h k => (s.ctr h k).owner

/-- Claim one object for a task (R423). -/
def State.claim (s : State) (task : Nat) : Obj → State
  | .bead h b =>
    let o := s.bead h b
    let o1 := if o.st = 2 then { o with st := 0, value := 0 } else o
    s.setBead h b { o1 with owner := task, ovf := false, found := o1.st == 1 }
  | .ctr h k =>
    let o := s.ctr h k
    let o1 := if o.st = 2 then { o with st := 0, value := 0 } else o
    s.setCtr h k { o1 with owner := task, sat := false, found := o1.value }

/-- SCLAIM (R423): the first of results 3, 2 and 1 that applies, otherwise the claim. -/
def sclaimInstr (c : Nat) (rd rs1 rs2 : XReg) (s : State) : IRes :=
  match syncTarget s c rs1 true with
  | .error r => r
  | .ok (o, s1) =>
    let k := s1.core c
    let n := fld (k.getX rs2).toNat 0 9
    let task := k.taskid.toNat
    match runOf o n with
    | none => .done (s1.setXn c rd 3)
    | some run =>
      if task = 0 ∨ n = 0 ∨ n > 256 then .done (s1.setXn c rd 3)
      else if k.ranges.length ≥ 8 then .done (s1.setXn c rd 2)
      else if run.any fun x => s1.owner x != 0 && s1.owner x != task then .done (s1.setXn c rd 1)
      else
        let pa := match o with
          | .bead h b => 0x30000000000 + h * 0x100000 + b * 8
          | .ctr h x => 0x30000000000 + h * 0x100000 + 0x40000 + x * 8
        let s2 := run.foldl (fun acc x => acc.claim task x) s1
        .done ((s2.modCore c fun k => { k with ranges := k.ranges ++ [(pa, n)] }).setXn c rd 0)

def execSclaim (c : CoreId) (rd rs1 rs2 : XReg) (s : State) : Host.Outcome State Fault Refusal :=
  .next (s.issue c (.sclaim rd rs1 rs2) (sclaimInstr c rd rs1 rs2))

/-- OWNER_RESET of one home: every object of the task becomes POISONED, keeping its value, and its waiters complete
(R425). -/
def State.ownerResetHome (s : State) (h task : Nat) : State :=
  let hm := s.home h
  let s1 := hm.beads.foldl (fun acc (b, o) =>
    if o.owner = task then (acc.setBead h b { o with st := 2, owner := 0 }).poisonWaiters (.bead h b) true else acc) s
  hm.ctrs.foldl (fun acc (k, o) =>
    if o.owner = task then (acc.setCtr h k { o with st := 2, owner := 0 }).poisonWaiters (.ctr h k) true else acc) s1

/-- OWNER_RESET (R425). -/
def State.ownerReset (s : State) (task : Nat) : State :=
  if task = 0 then s else (List.range 32).foldl (fun acc h => acc.ownerResetHome h task) s

/-- Whether a claimed object is leaked (R424). -/
def State.leaked (s : State) (task : Nat) : Obj → Bool
  | .bead h b =>
    let o := s.bead h b
    o.st != (if o.found then 1 else 0) || o.ovf || o.owner != task
  | .ctr h k =>
    let o := s.ctr h k
    o.st != 0 || o.value != o.found || o.sat || o.owner != task

/-- Report one leak at its home (R424). -/
def State.reportLeak (s : State) (task : Nat) (o : Obj) : State :=
  let pg := pgSyn o.home
  let s1 := s.count32 (pg + 0x090) 1
  if s.rbit (pg + 0x050) 1 then s1
  else
    let num := match o with | .bead _ b => b | .ctr _ k => k + 2 ^ 15
    let s2 := (s1.setReg (pg + 0x058) (num + 2 ^ 16 * task + 2 ^ 31)).setReg (pg + 0x050) (s1.reg (pg + 0x050) ||| 2)
    if s.rbit (pg + 0x040) 1 then s2.raiseVec 1 261 else s2

/-- Give up the ownership of an object held by the task. -/
def State.disown (s : State) (task : Nat) : Obj → State
  | .bead h b =>
    let o := s.bead h b
    if o.owner = task then s.setBead h b { o with owner := 0 } else s
  | .ctr h k =>
    let o := s.ctr h k
    if o.owner = task then s.setCtr h k { o with owner := 0 } else s

/-- LEAK_CHECK: the objects of every declared range are compared with what was found, leaks are reported, ownership is
cleared and the table emptied (R424). -/
def State.leakCheck (s : State) (c : Nat) : State :=
  let k := s.core c
  let task := k.taskid.toNat
  let objs := k.ranges.flatMap fun (pa, n) =>
    match s.objAt pa with
    | some o => (runOf o n).getD []
    | none => []
  let s1 := objs.foldl (fun acc o => if s.leaked task o then acc.reportLeak task o else acc) s
  (objs.foldl (fun acc o => acc.disown task o) s1).modCore c fun k => { k with ranges := [] }

/-! ## Filigree (R419 to R422) -/

def fgBase (n : Nat) : Nat := pgThl 0 + 0x100 + 0x10 * n
def State.fgState (s : State) (n : Nat) : FgChanState := nget s.fg n {}
def State.setFg (s : State) (n : Nat) (f : FgChanState) : State := { s with fg := nset s.fg n f }
def State.fgOn (s : State) (n : Nat) : Bool := s.rbit (fgBase n) 0

/-- Whether a core takes part in a channel (R419). -/
def State.fgPart (s : State) (n c : Nat) : Bool :=
  s.rbit (fgBase n + 4) (homeOf c) && s.rbit (pgSyn (homeOf c) + 0x100 + 8 * n + 4 * (c % 64 / 32)) (c % 32)

/-- Participating cores and stacks of a channel (R419). -/
def State.fgCores (s : State) (n : Nat) : List Nat :=
  ((List.range 32).filter fun h => s.rbit (fgBase n + 4) h).flatMap fun h =>
    ((List.range 64).map (64 * h + ·)).filter fun c => s.fgPart n c
def State.fgStacks (s : State) (n : Nat) : List Nat := (List.range 16).filter fun x => s.rbit (fgBase n + 8) x

/-- Every participant core has arrived in the current phase. -/
def State.fgAllCores (s : State) (n : Nat) : Bool := (s.fgCores n).all fun c => (s.fgState n).arrived.contains c

/-- A core arrives: its flag is set; the last arrival fixes the commands that the stacks must complete (R420, R421). -/
def State.fgArrive (s : State) (n c : Nat) : State :=
  let f := s.fgState n
  let s1 := s.setFg n { f with arrived := f.arrived ++ [c] }
  let s2 := s1.modCore c fun k => { k with fgSeen := (n, f.phase) :: k.fgSeen.filter fun p => p.1 != n }
  if s2.fgAllCores n then
    let cov := (s2.fgStacks n).flatMap fun x => (s2.stackOutstanding x).map fun i => (x, i)
    s2.setFg n { s2.fgState n with covers := cov }
  else s2

/-- Waiter modes of a channel: FWAIT, FARRIVE waiting to arrive, FSYNC waiting to arrive, FSYNC waiting for the release. -/
def fgWait : Nat := 0
def fgArr : Nat := 1
def fgSyncArr : Nat := 2
def fgSyncRel : Nat := 3

def State.fgEnqueue (s : State) (n c : Nat) (rd : XReg) (mode : Nat) : IRes :=
  let f := s.fgState n
  .stall ((s.setFg n { f with waiters := f.waiters ++ [(c, rd.val, mode)] }).modCore c fun k => { k with wait := .sync })

/-- What `Core.fgSeen` holds of an arrival once its channel has failed: the phase broke off, or had been released before
(R420, R422). -/
def fgLost : Nat := 65536
def fgPast : Nat := 65537

/-- Arrive now or wait to arrive in the next phase (R420). `sync` says the instruction is FSYNC. -/
def fgArriveInstr (c n : Nat) (rd : XReg) (sync : Bool) (s : State) : IRes :=
  if !s.fgPart n c then .done (s.setXn c rd 1)
  else if !s.fgOn n || (s.fgState n).broken then .done (s.setXn c rd 2)
  else if (s.fgState n).arrived.contains c then s.fgEnqueue n c rd (if sync then fgSyncArr else fgArr)
  else
    let s1 := s.fgArrive n c
    if sync then s1.fgEnqueue n c rd fgSyncRel else .done (s1.setXn c rd 0)

/-- FWAIT (R420). -/
def fgWaitInstr (c n : Nat) (rd : XReg) (s : State) : IRes :=
  let k := s.core c
  let clear := fun (s : State) => s.modCore c fun k => { k with fgSeen := k.fgSeen.filter fun p => p.1 != n }
  match k.fgSeen.find? (·.1 == n) with
  | none => .done (s.setXn c rd 1)
  | some (_, ph) =>
    let f := s.fgState n
    if ph = fgLost then .done ((clear s).setXn c rd 2)
    else if ph != f.phase then .done ((clear s).setXn c rd 0)
    else if !s.fgOn n || f.broken then .done ((clear s).setXn c rd 2)
    else s.fgEnqueue n c rd fgWait

/-- The Filigree instructions (R420). -/
def filInstr (c : Nat) (fn : FilFn) (rd rs1 : XReg) (s : State) : IRes :=
  let n := fld ((s.core c).getX rs1).toNat 0 5
  match fn with
  | .farrive => fgArriveInstr c n rd false s
  | .fwait => fgWaitInstr c n rd s
  | .fsync => fgArriveInstr c n rd true s

def execFarrive (c : CoreId) (rd rs1 : XReg) (s : State) : Host.Outcome State Fault Refusal :=
  .next (s.issue c (.fil .farrive rd rs1) (filInstr c .farrive rd rs1))
def execFwait (c : CoreId) (rd rs1 : XReg) (s : State) : Host.Outcome State Fault Refusal :=
  .next (s.issue c (.fil .fwait rd rs1) (filInstr c .fwait rd rs1))
def execFsync (c : CoreId) (rd rs1 : XReg) (s : State) : Host.Outcome State Fault Refusal :=
  .next (s.issue c (.fil .fsync rd rs1) (filInstr c .fsync rd rs1))

/-- A waiting Filigree instruction completes with a result (R420). -/
def State.fgWake (s : State) (c rd v : Nat) : State :=
  (s.modCore c fun k =>
    { (k.setX (Fin.ofNat 32 rd) (BitVec.ofNat 64 v)) with wait := .none, gated := false, hangSeen := false }).retire c 4

/-- After a release: waiting FWAITs complete, waiting arrivals arrive in the new phase (R420, R421). -/
def State.fgServe (s : State) (n : Nat) : State :=
  let ws := (s.fgState n).waiters
  let s0 := s.setFg n { s.fgState n with waiters := [] }
  ws.foldl (fun acc (c, rd, mode) =>
    if mode = fgWait ∨ mode = fgSyncRel then
      (acc.modCore c fun k => { k with fgSeen := k.fgSeen.filter fun p => p.1 != n }).fgWake c rd 0
    else if mode = fgArr then (acc.fgArrive n c).fgWake c rd 0
    else
      let a := acc.fgArrive n c
      a.setFg n { a.fgState n with waiters := (a.fgState n).waiters ++ [(c, rd, fgSyncRel)] }) s0

/-- The stacks that have arrived: every core has, and the commands placed before the last arrival have completed (R421). -/
def State.fgStacksDone (s : State) (n : Nat) : List Nat :=
  (s.fgStacks n).filter fun x =>
    (s.fgState n).covers.all fun (y, i) => y != x || !(s.stackOutstanding x).contains i

/-- The stacks that have arrived, as a mask: none before every core has (R421, R430, R431). -/
def State.fgStackMask (s : State) (n : Nat) : Nat :=
  if s.fgAllCores n && !(s.fgCores n).isEmpty then (s.fgStacksDone n).foldl (fun a x => a + 2 ^ x) 0 else 0

/-- FILIGREE_RELEASE: when every participant has arrived the phase is released: flags cleared, PHASE + 1, waiting FWAITs
completed (R421). -/
def execFiligreeRelease (ch : FgChan) (s : State) : Host.Outcome State Fault Refusal :=
  let n := ch.val
  let f := s.fgState n
  if s.fgOn n && !f.broken && !(s.fgCores n).isEmpty && s.fgAllCores n
      && (s.fgStacksDone n).length == (s.fgStacks n).length then
    .next ((s.setFg n { f with phase := (f.phase + 1) % 65536, arrived := [], covers := [] }).fgServe n)
  else .next s

/-- Every wait on a channel completes with 2; an arrival of the phase that breaks off gives 2 to its FWAIT later, one of a
released phase still 0 (R420, R422). -/
def State.fgFail (s : State) (n : Nat) : State :=
  let f := s.fgState n
  let s0 := s.setFg n { f with waiters := [] }
  let s1 := f.waiters.foldl (fun acc (c, rd, mode) =>
    (if mode = fgWait ∨ mode = fgSyncRel then
      acc.modCore c fun k => { k with fgSeen := k.fgSeen.filter fun p => p.1 != n }
    else acc).fgWake c rd 2) s0
  let mark := fun p : Nat × Nat =>
    if p.1 = n ∧ p.2 < fgLost then (n, if p.2 = f.phase then fgLost else fgPast) else p
  { s1 with cores := s1.cores.map fun (p : Nat × Core) => (p.1, { p.2 with fgSeen := p.2.fgSeen.map mark }) }

/-- FILIGREE_BREAK: a participant core reset or disabled, or a participant stack fenced, while a phase is incomplete
breaks the channel (R422). -/
def State.fgBreak (s : State) (n : Nat) : State :=
  let s1 := s.setFg n { s.fgState n with broken := true }
  (s1.setReg (fgBase n) (s1.reg (fgBase n) ||| 2)).fgFail n

/-- A phase is incomplete: some participant has arrived in it (R422; log entry 24). -/
def State.fgBusy (s : State) (n : Nat) : Bool := !(s.fgState n).arrived.isEmpty

def State.fgBreakCore (s : State) (c : Nat) : State :=
  (List.range 32).foldl (fun acc n =>
    if acc.fgOn n && acc.fgPart n c && acc.fgBusy n && !(acc.fgState n).broken then acc.fgBreak n else acc) s

def State.fgBreakStack (s : State) (x : Nat) : State :=
  (List.range 32).foldl (fun acc n =>
    if acc.fgOn n && acc.rbit (fgBase n + 8) x && acc.fgBusy n && !(acc.fgState n).broken then acc.fgBreak n else acc) s

/-! ## Long waits (R427, R428) -/

/-- CLOCK_GATE: a blocking wait that has lasted GATETHR gates the core's clocks (R427); GATETHR 0 disables gating. -/
def execClockGate (c : CoreId) (s : State) : Host.Outcome State Fault Refusal :=
  if (s.core c).wait == .sync && s.rfld (pgSyn (homeOf c) + 0x044) 0 16 != 0 then
    .next (s.modCore c fun k => { k with gated := true })
  else .next s

/-- What a core waits for, as HWINFO writes it: object or channel, and kind (R432). -/
def State.waitInfo (s : State) (c : Nat) : Option (Nat × Nat) :=
  match (List.range 32).findSome? fun h => (s.home h).waiters.find? (·.core == c) with
  | some w => some (if w.obj < 32768 then (w.obj, 0) else (w.obj - 32768, 1))
  | none =>
    ((List.range 32).find? fun n => (s.fgState n).waiters.any fun x => x.1 == c).map fun n => (n, 2)

/-- Report a hang at a cluster: HANGCNT; HWINFO and vector 261 when HANG is not set yet (R428). -/
def State.hangReport (s : State) (h o kind core : Nat) : State :=
  let pg := pgSyn h
  let s1 := s.count32 (pg + 0x094) 1
  if s.rbit (pg + 0x050) 0 then s1
  else
    let s2 := s1.setReg (pg + 0x054) (o + 2 ^ 15 * kind + 2 ^ 17 * core + 2 ^ 31)
    (s2.setReg (pg + 0x050) (s2.reg (pg + 0x050) ||| 1)).raiseVec 1 261

/-- A core's wait has exceeded HWTHR: it is reported once, at its cluster (R428). -/
def State.hangCore (s : State) (c : Nat) : State :=
  match s.waitInfo c with
  | none => s
  | some (o, kind) =>
    if !s.rbit (pgSyn (homeOf c) + 0x040) 0 || (s.core c).wait != .sync || (s.core c).hangSeen then s
    else (s.modCore c fun k => { k with hangSeen := true }).hangReport (homeOf c) o kind c

/-! ## The debugger set (R429) -/

/-- A write of SYN.DBGSET: one object takes DBGNEW and the named state, and waiters complete as a real change would
complete them (R429). -/
def dbgSet (s : State) (h v : Nat) : State :=
  let pg := pgSyn h
  let sel := s.reg (pg + 0x05C)
  let num := fld sel 0 15
  let isCtr := bitOf sel 15
  let st := fld v 0 2
  let val := s.reg64 (pg + 0x06C)
  if !s.boot.unlocked.getLsbD 1 then s.refuse (pg + 0x074) 0x80
  else if st = 3 ∨ (isCtr ∧ st = 1) then s.refuse (pg + 0x074) 0x01
  else if isCtr then
    let o := s.ctr h num
    let o1 := { o with
      value := val % 65536, st := st, sat := o.sat && !bitOf v 2, owner := if bitOf v 3 then 0 else o.owner }
    let s1 := s.setCtr h num o1
    if st = 2 then s1.poisonWaiters (.ctr h num) false else s1.releaseCtr h num
  else
    let o := s.bead h num
    let o1 := { o with
      value := BitVec.ofNat 64 val, st := st, ovf := o.ovf && !bitOf v 2, owner := if bitOf v 3 then 0 else o.owner }
    let s1 := s.setBead h num o1
    if st = 2 then s1.poisonWaiters (.bead h num) false else s1.beadSettled h num

/-- DBGSET (R429). -/
def execDbgset (h : HomeId) (v : Word) (s : State) : Host.Outcome State Fault Refusal :=
  .next (if s.serves .syn then dbgSet s h v.toNat else s)

end Sys2Proof.Machine
end

