-- ==== Sys2Proof/Machine/SorusFront.lean ====
section
/-! DEFINITION. Machine/SorusFront.lean: a stack's front end takes and validates commands, and commands complete (R58 to
R77, R91, R94 to R97, R109 to R118, R139, R170, R188, R197, R200 to R204). -/

namespace Sys2Proof.Machine

open Sys2Proof

/-! ## Fields of a descriptor (R63, R65, R71, R74, R76, R77, R109, R139, R188, R200, R204) -/

def opGATHER : Nat := 0x10
def opGPOOL : Nat := 0x11
def opSEG : Nat := 0x12
def opSAMPLE : Nat := 0x13
def opNEIGH : Nat := 0x14
def opADD : Nat := 0x18
def opMAX : Nat := 0x19
def opMIN : Nat := 0x1A
def opFENCE : Nat := 0x1C
def opCOPY : Nat := 0x20
def opMIGROW : Nat := 0x21
def opPROBE : Nat := 0x22
def opHH : Nat := 0x23

/-- Fields of a command. -/
def cOp (raw : Nat) : Nat := dfld raw 0 1
def cFlags (raw : Nat) : Nat := dfld raw 1 1
def cOrd (raw : Nat) : Bool := bitOf (cFlags raw) 0
def cSigen (raw : Nat) : Bool := bitOf (cFlags raw) 1
def cSigcnt (raw : Nat) : Bool := bitOf (cFlags raw) 2
def cStaten (raw : Nat) : Bool := bitOf (cFlags raw) 3
def cSkipEmpty (raw : Nat) : Bool := bitOf (cFlags raw) 4
def cTag (raw : Nat) : Nat := dfld raw 2 2
def cTable (raw : Nat) : Nat := dfld raw 4 2 % 4096
def cMode (raw : Nat) : Nat := dfld raw 6 1
def cFmt (raw : Nat) : Nat := dfld raw 7 1
def cOfmt (raw : Nat) : Nat := cFmt raw % 16
def cPool (raw : Nat) : Nat := cMode raw % 8
def cIdx64 (raw : Nat) : Bool := bitOf (cMode raw) 3
def cIdxW (raw : Nat) : Nat := if cIdx64 raw then 8 else 4
def cIsrc (raw : Nat) : Bool := bitOf (cMode raw) 4
def cOob (raw : Nat) : Nat := fld (cMode raw) 5 2
def cN (raw : Nat) : Nat := dfld raw 32 4
def cDst (raw : Nat) : Nat := dfld raw 24 6

/-- Size in bytes of an element of FP32, BF16 or FP16. -/
def esz (fmt : Nat) : Nat := if fmt = 0 then 4 else 2

def alignUp (n a : Nat) : Nat := (n + a - 1) / a * a

/-- Bytes 48–55 and 56–63 keep bits [63:48] zero, also where SIGEN or STATEN is 0; the high flag bits and those of TABLE are
reserved (R12, R63; log entry 145). -/
def commonOk (raw : Nat) : Bool :=
  cFlags raw < 32 && dfld raw 4 2 < 4096 && dfld raw 54 2 == 0 && dfld raw 62 2 == 0

/-- An 8-byte address field keeps bits [63:48] zero (R63). -/
def adrOk (raw off : Nat) : Bool := dfld raw (off + 6) 2 == 0

/-- The fields of a command against reserved bits and stated values (R12, R63 to R76, R101, R109 to R111, R139, R188, R200 to
R204): the reason 0x01 when one breaks them. -/
def fieldsOk (raw : Nat) : Bool :=
  let m := cMode raw
  let f := cFmt raw
  let z := fun off n => dfld raw off n == 0
  commonOk raw &&
  match cOp raw with
  | 0x10 =>
    m &&& 0x86 == 0 && fld m 5 2 != 3 && f < 16 && (if bitOf m 0 then f < 3 else f == 0) && adrOk raw 8 && z 16 8 && adrOk raw 24
      && z 36 4 && z 44 4 && (!cIsrc raw || z 8 8)
  | 0x11 =>
    m &&& 0x80 == 0 && m % 8 < 6 && fld m 5 2 != 3 && f % 16 < 3 && (if m % 8 = 5 then f / 16 < 3 else f / 16 == 0)
      && adrOk raw 8 && adrOk raw 16 && (m % 8 == 5 || z 16 8) && adrOk raw 24 && !(z 36 2) && z 38 2 && z 44 4
      && (!cIsrc raw || z 8 8)
  | 0x12 =>
    m &&& 0x10 == 0 && m % 8 < 6 && fld m 5 2 != 3 && f % 16 < 3 && (if m % 8 = 5 then f / 16 < 3 else f / 16 == 0)
      && adrOk raw 8 && adrOk raw 16 && adrOk raw 24 && adrOk raw 32 && (m % 8 == 5 || z 32 8) && z 43 1
  | 0x13 =>
    let hops := fld f 4 2
    m % 8 < 6 && fld m 5 2 != 3 && f % 16 < 3 && hops != 0 && f < 64 && adrOk raw 8 && adrOk raw 16 && adrOk raw 24
      && fld (dfld raw 42 3) 18 6 == 0 && (2 ≤ hops || fld (dfld raw 42 3) 6 6 == 0) && (hops == 3 || fld (dfld raw 42 3) 12 6 == 0)
  | 0x14 =>
    m &&& 0x80 == 0 && m % 8 < 6 && fld m 5 2 != 3 && f < 3 && adrOk raw 8 && adrOk raw 16 && adrOk raw 24 && z 36 4 && z 44 4
  | 0x18 => scatterOk raw
  | 0x19 => scatterOk raw && !bitOf m 2 && !bitOf f 4
  | 0x1A => scatterOk raw && !bitOf m 2 && !bitOf f 4
  | 0x1C => z 4 2 && m < 8 && m % 4 != 3 && z 7 41
  | 0x20 => z 4 2 && z 6 2 && adrOk raw 8 && z 16 8 && adrOk raw 24 && z 36 12
  | 0x21 => m < 2 && z 7 1 && adrOk raw 8 && adrOk raw 16 && dfld raw 28 4 < 2 ^ 18 && (m == 1 || z 28 4) && z 32 16
  | 0x22 => m &&& 0xF7 == 0 && z 7 1 && adrOk raw 8 && z 16 8 && adrOk raw 24 && z 36 12
  | 0x23 => z 4 2 && m < 64 && z 7 17 && adrOk raw 24 && z 32 16
  | _ => false
where
  /-- What the three scatter commands share (R109, R110). -/
  scatterOk (raw : Nat) : Bool :=
    let m := cMode raw
    let f := cFmt raw
    m % 4 < 2 && fld m 5 2 < 2 && f < 32 && adrOk raw 8 && adrOk raw 16 && dfld raw 24 8 == 0 && dfld raw 44 4 == 0
      && (bitOf f 4 || dfld raw 36 4 == 0) && (!cIsrc raw || dfld raw 8 8 == 0)

/-- The addresses of a command against their alignments: the reason 0x05 (R75, R101, R139, R145, R188, R223). A stride of values
that is not a multiple of 16 is misaligned too (log entry 146). -/
def alignOk (raw : Nat) : Bool :=
  let al := fun off n => dfld raw off 6 % n == 0
  let stat := !cStaten raw || al 56 16
  let wsz := esz (cFmt raw / 16)
  stat && match cOp raw with
  | 0x10 => al 8 (cIdxW raw) && al 24 16 && dfld raw 40 4 % 16 == 0
  | 0x11 => al 8 (cIdxW raw) && al 16 wsz && al 24 16 && dfld raw 40 4 % 16 == 0
  | 0x12 =>
    al 8 (cIdxW raw) && al 16 (if bitOf (cMode raw) 7 then 8 else 4) && al 24 16 && al 32 wsz && dfld raw 44 4 % 16 == 0
  | 0x13 => al 8 (cIdxW raw) && al 16 64 && al 24 16 && al 36 8
  | 0x14 => al 8 (cIdxW raw) && al 16 64 && al 24 16 && dfld raw 40 4 % 16 == 0
  | 0x20 => al 8 64 && al 24 64 && dfld raw 32 4 % 64 == 0
  | 0x21 => al 16 64
  | 0x22 => al 8 (cIdxW raw) && al 24 16
  | 0x23 => al 24 32
  | 0x1C => true
  | _ => al 8 (cIdxW raw) && al 16 16 && dfld raw 40 4 % 16 == 0

/-! ## Checks against the table (R91, R101, R110 to R112, R118, R155, R159, R170, R174, R188) -/

/-- A command that names a table. -/
def usesTable (op : Nat) : Bool := op != opCOPY && op != opHH && op != opFENCE

/-- The versions a command binds to, the table's own first, then those of its quotient and remainder (R170, R174). -/
def State.bindTo (s : State) (tid : Nat) : Option (List Version) :=
  match s.current tid with
  | none => none
  | some v =>
    if v.hmode = 2 then
      match s.current v.qtid, s.current v.rtid with
      | some q, some r => some [v, q, r]
      | _, _ => none
    else some [v]

/-- Elements of a row as pooling sees it. -/
def outElems (v : Version) : Nat := v.nelem

/-- Bytes of an output row (R69). -/
def outBytes (raw : Nat) (v : Version) : Nat :=
  if cOp raw = opGATHER ∧ bitOf (cMode raw) 0 = false then v.rowBytes else v.nelem * esz (cOfmt raw)

/-- The stride between output rows as given (R65, R71, R200); SAMPLE_AGG's rows are packed (R204). -/
def dstStride (raw : Nat) : Nat :=
  if cOp raw = opSEG then dfld raw 44 4 else if cOp raw = opSAMPLE then 0 else dfld raw 40 4

def isPoolOp (op : Nat) : Bool := op == opGPOOL || op == opSEG
def isGraphOp (op : Nat) : Bool := op == opNEIGH || op == opSAMPLE

/-- What a command asks of its table's format and mode: the reason 0x01. -/
def tableOk (raw : Nat) (v : Version) : Bool :=
  let op := cOp raw
  let gatherFmt := v.fmt != 9
  let strideOk := dstStride raw == 0 || decide (outBytes raw v ≤ dstStride raw)
  if op = opGATHER then (if bitOf (cMode raw) 0 then gatherFmt else v.hmode != 2) && strideOk
  else if isPoolOp op || isGraphOp op then gatherFmt && strideOk
  else if isScatter op then
    let vf := cFmt raw % 16
    let i64 := cMode raw % 4 == 1
    (v.fmt == 0 || v.fmt == 1 || v.fmt == 2 || v.fmt == 9) && v.hmode != 2
      && (!i64 || (v.fmt == 9 && v.nelem % 2 == 0))
      && (!bitOf (cMode raw) 2 || v.fmt == 1)
      && (if op = opADD then (if v.fmt = 9 then vf == 9 else vf < 3) else vf == v.fmt)
      && (!bitOf (cFmt raw) 4 || v.fmt != 9)
      && (dfld raw 40 4 == 0 || decide (v.nelem * fmtBits vf / 8 ≤ dfld raw 40 4))
  else true

/-- The shards of the versions that hold rows. -/
def boundShards (vs : List Version) : List Shard := vs.flatMap fun v => if v.hmode = 2 then [] else v.shards

def anyOther (x : Nat) (vs : List Version) : Bool := (boundShards vs).any fun h => h.kind != 2 && h.whereAt % 16 != x
def anyRemote (vs : List Version) : Bool := (boundShards vs).any fun h => h.kind == 2

/-- The job permits remote flows (R386, R515). -/
def State.remoteAllowed (s : State) : Bool := match s.top.slice with | some i => i.remote | none => false

/-- The destination address lies in an L2 scratch window; an address that does not translate is left to R64 (log entry
42). -/
def State.dstInScratch (s : State) (x raw : Nat) : Bool × State :=
  match s.xlate (agStack x) (cDst raw) true false with
  | (some p, s1) => (match placeOf p.pa with | .scratch h o => decide (o < s1.scratchSize h) | _ => false, s1)
  | (none, s1) => (true, s1)

/-- The conditions of R91 and R118 on rows outside the lead stack; a slice that forbids remote flows counts as an enable that is 0
(log entry 147). -/
def State.spreadCheck (s : State) (x raw : Nat) (vs : List Version) : Option Nat × State :=
  let op := cOp raw
  let other := isPoolOp op && anyOther x vs
  let rem := anyRemote vs
  if isScatter op then
    (if rem && (!s.rbit (pgStk x + 0x300) 1 || !s.remoteAllowed) then some 0x88 else none, s)
  else if op = opPROBE ∨ op = opMIGROW then (none, s)
  else
    let needOut := other || (rem && (isPoolOp op || isGraphOp op))
    let (inScr, s1) := if needOut then s.dstInScratch x raw else (true, s)
    if needOut && (cOfmt raw != 0 || !inScr) then (some 0x81, s1)
    else if other && !s.rbit (pgStk x + 0x040) 1 then (some 0x84, s1)
    else if rem && (!s.rbit (pgStk x + 0x040) 2 || !s.remoteAllowed) then (some 0x85, s1)
    else (none, s1)

/-- MIGRATE_ROW's rows lie in one shard that the stack holds or serves; a COUNT of 0 names no row (R188). -/
def migShard (x raw : Nat) (v : Version) : Bool :=
  let first := dfld raw 8 6
  let n := dfld raw 24 4
  n == 0 || (v.hmode != 2 && decide (first + n ≤ v.nrows) &&
    match v.shardOf first, v.shardOf (first + n - 1) with
    | some (i, h), some (j, _) => i == j && h.kind != 2 && h.whereAt % 16 == x
    | _, _ => false)

/-! ## Checks of one opcode -/

/-- A range lies in the receiving stack's HBM (R75). -/
def State.inStack (s : State) (x a n : Nat) : Bool :=
  (sectorsOf a n).all fun sec => match placeOf (64 * sec) with
    | .hbm => s.regionMapped (64 * sec / 2 ^ 30) && (s.hbmPlace (64 * sec)).1 == x
    | _ => false

/-- An engine is enabled (R636): its stack is, it is not mapped out, and its page's EN is 1. -/
def State.engineOn (s : State) (e : Nat) : Bool :=
  bitOf s.boot.stackSet.toNat (e / 32) && s.outChan (e / 32) != some (e % 32) && s.enabled (pgSor e)

/-- The reserved fields and values of a graph descriptor (R195, R197, R201). -/
def graphFieldsOk (g : Nat) (pool : Nat) : Bool :=
  [0, 8, 16, 24, 32].all (fun o => dfld g (o + 6) 2 == 0) && dfld g 40 1 < 2 && dfld g 41 1 < 16 && dfld g 42 22 == 0
    && (if dfld g 32 8 = 0 then dfld g 41 1 == 0 else dfld g 41 1 < 3) && (pool != 5 || dfld g 32 8 != 0)

def graphAligned (g : Nat) : Bool :=
  dfld g 16 6 % 8 == 0 && dfld g 24 6 % (if bitOf (dfld g 40 1) 0 then 8 else 4) == 0
    && (dfld g 32 8 == 0 || dfld g 32 6 % esz (dfld g 41 1 % 16) == 0)

/-- What reading the graph descriptor at acceptance finds (R197): a copy, a fault of its address, poison. -/
inductive GraphRead where
  | ok (g : Nat)
  | fault
  | poison

def State.readGraph (s : State) (x raw : Nat) : GraphRead × State :=
  match s.readList (agStack x) (dfld raw 16 6) 8 8 .stk x with
  | (none, s1) => (.fault, s1)
  | (some l, s1) => if l.any (·.2) then (.poison, s1) else (.ok (ofBytes (l.flatMap fun e => toBytes 8 e.1)), s1)

/-! ## STATADDR and SIGADDR (R94) -/

def State.statAddr (s : State) (x raw : Nat) : Option Nat × State :=
  if !cStaten raw then (none, s)
  else match s.xlate (agStack x) (dfld raw 56 6) true false with
    | (some p, s1) =>
      (match placeOf p.pa with
        | .none => none
        | .sync _ _ => none
        | _ => if s1.reachableRange p.pa 16 then some p.pa else none, s1)
    | (none, s1) => (none, s1)

def State.sigAddr (s : State) (x raw : Nat) : Option Nat × State :=
  if !cSigen raw then (none, s)
  else match s.xlate (agStack x) (dfld raw 48 6) true false with
    | (some p, s1) => (some p.pa, s1)
    | (none, s1) => (none, s1)

/-! ## FRONT_END_TAKE_COMMAND (R58 to R61) -/

/-- A stack serves commands. -/
def State.stackLive (s : State) (x : Nat) : Bool :=
  s.working && bitOf s.boot.stackSet.toNat x && s.enabled (pgStk x) && !(s.server x).fenced

/-- The head of a queue may be taken: with `ORD` or `ORDALL` only when no earlier command of the queue is uncompleted
(R61). -/
def State.takeable (s : State) (x q : Nat) : Bool :=
  s.rbit (pgStk x + 0x100 + 4 * q) 0 &&
  match nget (s.server x).queues q [] with
  | [] => false
  | c :: _ =>
    !(cOrd c.raw || s.rbit (pgStk x + 0x100 + 4 * q) 11) || !((s.server x).cmds.any fun k => k.queue == q)

/-- `CQCFG.PRIO` of a queue. -/
def State.cqPrio (s : State) (x q : Nat) : Nat := s.rfld (pgStk x + 0x100 + 4 * q) 8 3

/-- The queue the front end takes from: by priority, then round-robin after the queue of that priority served last (R58). -/
def State.pickQueue (s : State) (x : Nat) : Option Nat :=
  let qs := (List.range 64).filter (s.takeable x)
  let top := qs.foldl (fun acc q => max acc (s.cqPrio x q)) 0
  let last := nget (s.server x).rr top 63
  ((List.range 64).map fun i => (last + 1 + i) % 64).find? fun q => s.takeable x q && s.cqPrio x q == top

/-- What validation comes to: a refusal, or acceptance with the graph's copy, and what was met in reading it: a fault, poison, or a
fenced PHY die. -/
structure Verdict where
  refuse : Option Nat := none
  vers : List Version := []
  graph : Nat := 0
  fault : Bool := false
  poison : Bool := false
  lost : Bool := false

/-- The checks of one opcode that read no memory: COPY's source (R75), HH_READ's engine (R77), MIGRATE_ROW's shard (R188), the
hardware random source (R211). -/
def State.opCheck (s : State) (x raw : Nat) (vs : List Version) : Verdict × State :=
  let op := cOp raw
  if op = opCOPY then
    let n := dfld raw 32 4
    if n = 0 then ({}, s)
    else match s.xlateRange (agStack x) (dfld raw 8 6) n false with
      | (.ok ps, s1) => if ps.all (fun p => s1.inStack x p.1.pa p.2) then ({}, s1) else ({ refuse := some 0x82 }, s1)
      | (.error _, s1) => ({}, s1)
  else if op = opHH then
    if !bitOf (cMode raw) 5 && !s.engineOn (32 * x + cMode raw % 32) then ({ refuse := some 0x0A }, s) else ({}, s)
  else if op = opMIGROW then
    match vs.head? with
    | some v =>
      ({ refuse := if !migShard x raw v then some 0x8C else if bitOf (cMode raw) 0 && !s.remoteAllowed then some 0x85 else none
         vers := vs }, s)
    | none => ({}, s)
  else if isGraphOp op then
    ({ refuse := if op = opSAMPLE ∧ dfld raw 45 3 = 0 ∧ s.rbit (pgSor (32 * x) + 0x204) 0 = false then some 0x8F else none
       vers := vs }, s)
  else ({ vers := vs }, s)

/-- What taking a command needs: the walks of STATADDR and SIGADDR, and the read of its graph descriptor (R99, R473, R477). -/
def State.graphNeed (s : State) (x raw : Nat) : Need :=
  if (cStaten raw && s.walkHeld (agStack x) (dfld raw 56 6)) || (cSigen raw && s.walkHeld (agStack x) (dfld raw 48 6)) then .wait
  else if isGraphOp (cOp raw) then s.rangeNeed (agStack x) (dfld raw 16 6) 64 false else .go

/-- The graph descriptor of a command that has passed every other check is read and checked (R195, R197, R201, R223). A command
whose descriptor is read poisoned is accepted, writes nothing and ends `POISONED` (R98; DESIGN CHOICE, log entry 148). -/
def State.graphCheck (s : State) (x raw : Nat) (v : Verdict) : Verdict × State :=
  if !isGraphOp (cOp raw) || v.refuse.isSome then (v, s)
  else if s.graphNeed x raw = .lost then ({ v with lost := true }, s)
  else match s.readGraph x raw with
    | (.ok g, s1) =>
      if !graphFieldsOk g (cPool raw) then ({ v with refuse := some 0x01 }, s1)
      else if !graphAligned g then ({ v with refuse := some 0x05 }, s1)
      else ({ v with graph := g }, s1)
    | (.fault, s1) => ({ v with fault := true }, s1)
    | (.poison, s1) => ({ v with poison := true }, s1)

/-- Validate a command at stack `x`, its STATADDR, SIGADDR and graph descriptor apart (R59, R60; the order of the checks: log
entry 43). -/
def State.validate (s : State) (x raw : Nat) : Verdict × State :=
  let op := cOp raw
  if !fieldsOk raw then ({ refuse := some 0x01 }, s)
  else if !alignOk raw then ({ refuse := some 0x05 }, s)
  else if !usesTable op then s.opCheck x raw []
  else
    match s.bindTo (cTable raw) with
    | none => ({ refuse := some 0x80 }, s)
    | some [] => ({ refuse := some 0x80 }, s)
    | some (v :: vs) =>
      if !tableOk raw v then ({ refuse := some 0x01 }, s)
      else
        match s.spreadCheck x raw (v :: vs) with
        | (some r, s1) => ({ refuse := some r }, s1)
        | (none, s1) => s1.opCheck x raw (v :: vs)

/-- Accept a command or mark it refused: what is bound and copied then (R59, R60, R94, R170, R197, R215). -/
def State.takeOne (s : State) (x : Nat) (c : SCmd) : State :=
  let raw := c.raw
  let (v0, s1) := s.validate x raw
  let (st, s2) := s1.statAddr x raw
  let (sg, s2a) := s2.sigAddr x raw
  let badAddr := (cStaten raw && st.isNone) || (cSigen raw && sg.isNone)
  -- a command that is refused reads no memory (R60, R94)
  let (v, s3) := s2a.graphCheck x raw { v0 with refuse := v0.refuse.orElse fun _ => if badAddr then some 0x06 else none }
  let refuse := v.refuse
  let c1 : SCmd :=
    { c with
      vers := if refuse.isSome then [] else v.vers.map fun k => (k.tid, k.epoch)
      stat := st, sig := sg, refused := refuse
      hlog := s.rfld (pgSor (32 * x) + 0x284) 0 5
      graph := v.graph
      started := refuse.isSome || v.lost
      aborted := v.lost
      stop := v.fault || v.poison
      poisoned := v.poison
      bound := s.serial }
  let c2 := if v.fault then c1.addFault 0x06 none else c1
  let s4 := s3.modServer x fun k => { k with cmds := k.cmds ++ [c2] }
  -- a refused scatter keeps its number, which the receiver accepts (R131)
  if refuse.isSome && isScatter (cOp raw) then (s4.seqCheck x c.src c.epoch c.seq).2 else s4

/-- FRONT_END_TAKE_COMMAND: the front end takes a queue's head command and validates it (R58 to R61). -/
def execFrontEndTakeCommand (x : StackId) (s : State) : Host.Outcome State Fault Refusal :=
  if !s.stackLive x then .next s
  else
    match s.pickQueue x with
    | none => .next s
    | some q =>
      match nget (s.server x).queues q [] with
      | [] => .next s
      | c :: rest =>
        if s.graphNeed x c.raw = .wait then .next s
        else
        let s1 := s.modServer x fun k => { k with queues := nset k.queues q rest, rr := nset k.rr (s.cqPrio x q) q }
        let s2 := s1.count64 (pgStk x + 0x060) 1
        let s3 := if isScatter (cOp c.raw) then s2.count64 (pgStk x + 0x310) 1 else s2
        .next (s3.takeOne x c)

/-! ## Running commands -/

/-- Change the command a bag, packet or chunk serves, wherever it leads. -/
def State.leadCmd (s : State) (lead serial : Nat) (f : SCmd → SCmd) : State := s.modCmd lead serial f

/-! ## COMMAND_COMPLETE (R94 to R97, R103) -/

/-- Completion statuses (R95). -/
def SCmd.status (c : SCmd) : Nat :=
  if c.refused.isSome then 0x02 else if c.aborted then 0x04 else if c.poisoned then 0x05 else if c.fault then 0x03 else 0

def SCmd.finalReason (c : SCmd) : Nat :=
  match c.refused with
  | some r => r
  | none => if c.fault then c.reason else 0

/-- The 16-byte status record (R95). -/
def SCmd.record (c : SCmd) : List Byte :=
  let sat := fun n => min n 0xFFFFFFFF
  toBytes 1 c.status ++ toBytes 1 c.finalReason ++ toBytes 2 (cTag c.raw) ++ toBytes 4 (sat c.rows) ++ toBytes 4 (sat c.oob)
    ++ toBytes 4 (match c.firstpos with | some p => sat p | none => 0xFFFFFFFF)

/-- Accumulating writes of a command are still on their way to scratch (R93). -/
def State.accPending (s : State) (serial : Nat) : Bool :=
  s.homes.any fun h => h.2.accQ.any fun a => a.tag == serial

/-- The accumulating writes of a command that are on their way are applied (R93). -/
def State.accFinish (s : State) (serial : Nat) : State :=
  s.homes.foldl (fun acc h =>
    (h.2.accQ.filter (·.tag == serial)).foldl (fun a w => (a.modHome h.1 fun k => { k with accQ := k.accQ.erase w }).accApply h.1 w) acc) s

/-- Everything a command does has been done: its requests, bags, packets, chunks and flows (R93, R94, R116). -/
def State.cmdDone (s : State) (x : Nat) (c : SCmd) : Bool :=
  c.refused.isSome || (c.aborted && !s.accPending c.serial) ||
    (c.started && c.todo.isEmpty && c.chunks.isEmpty && c.waiting.isEmpty && c.left == 0 && c.waitFor.isEmpty
      && (c.missing == 0)
      && !((s.server x).bags.any fun b => b.lead == x && b.cmd == c.serial)
      && !(s.upk.any fun p => p.lead == x && p.cmd == c.serial)
      && c.flows.all (fun f => s.flowDone f.1 f.2)
      && !s.accPending c.serial)

/-- Record a completion other than `OK` in QERR and FAULTQ, and every completion in LASTST (R103, R104). -/
def State.qRecord (s : State) (x : Nat) (c : SCmd) : State :=
  let st := c.status
  let s1 := s.setRfld (pgStk x + 0x200 + 4 * c.queue) 24 8 st
  if st = 0 then s1
  else
    let off := pgStk x + 0x048 + 4 * (c.queue / 32)
    let first := !s.rbit (pgStk x + 0x050) 31
    let s2 := s1.setReg off (s1.reg off ||| 2 ^ (c.queue % 32))
    if first then
      ((s2.setReg (pgStk x + 0x050) (c.queue + 2 ^ 8 * cOp c.raw + 2 ^ 16 * c.finalReason + 2 ^ 31)).setReg (pgStk x + 0x054)
        (cTag c.raw)).setReg (pgStk x + 0x058) (match c.firstpos with | some p => min p 0xFFFFFFFF | none => 0xFFFFFFFF)
    else s2

/-- The control packets of a fence that covers remote update flows (R141; payload layouts: log entry 37): the request names
the flow, the number carried and the fence; the report carries how the covered flushes went. -/
def flowFence (x : Nat) : Nat := 0x400 + x
def flowFenceReport (x : Nat) : Nat := 0x500 + x

def State.sendFenceReport (s : State) (coord lead serial status : Nat) : State :=
  s.flowSend coord 5 (flowFenceReport lead) 7 0 0 (toBytes 1 2 ++ toBytes 1 lead ++ toBytes 4 serial ++ toBytes 1 status)

/-- A remote part that ended without its partial is reported to the module that asked (R173; payload: log entry 37). -/
def flowPart (x : Nat) : Nat := 0x600 + x

def State.sendPartFail (s : State) (p : RemPart) (status reason : Nat) (back : Bool) : State :=
  s.flowSend p.coord 5 (flowPart p.lead) 7 0 0
    (toBytes 1 4 ++ toBytes 1 status ++ toBytes 1 reason ++ toBytes 1 p.lead ++ toBytes 4 p.serial ++ toBytes 8 p.uid
      ++ toBytes 1 (if back then 1 else 0))

/-- A Sorus command that a routed dispatch issued has ended: the dispatch learns how, and its combine may be done by it (R237,
R242). -/
def State.dispEnds (s : State) (j st : Nat) : State :=
  let upd := fun d : Disp =>
    { d with
      waits := d.waits - 1, poisoned := d.poisoned || st == 5, failed := d.failed || st == 2 || st == 3, aborted := d.aborted || st == 4
      combined := d.combined || (d.combining && decide (d.waits ≤ 1)) }
  { s with disps := s.disps.map fun (p : Nat × Disp) => if p.1 = j then (j, upd p.2) else p }

/-- What an aborted command has open at the servers is dropped (R100). -/
def State.dropBags (s : State) (x : Nat) (c : SCmd) : State :=
  if !c.aborted then s
  else { s with
    servers := s.servers.map fun p => (p.1, { p.2 with
      bags := p.2.bags.filter fun b => !(b.lead == x && b.cmd == c.serial)
      subs := p.2.subs.filter fun d => !(d.lead == x && d.cmd == c.serial) }) }

/-- Complete a command: status record, then signal; a host MIGRATE or a dispatch that it serves learns its end (R94, R97, R150, R237). A fence counts
in FENCECNT (R146). `sig` is false where R664 withholds the signal. -/
def State.complete (s : State) (x : Nat) (c : SCmd) (sig : Bool) : State :=
  let s00 := (s.modServer x fun k => { k with cmds := k.cmds.filter fun d => d.serial != c.serial }).dropBags x c
  let s0 := if cOp c.raw = opFENCE ∧ c.refused = none ∧ c.queue < 64 then s00.count64 (pgStk x + 0x320) 1 else s00
  let s1 := match c.stat with
    | some a => if s0.reachableRange a 16 && !s0.anyLost a 16 then s0.writePa a c.record false else s0
    | none => s0
  let s2 := if c.queue < 64 then s1.qRecord x c else s1
  let s3 := match c.sig with
    | some a => if sig then s2.signal a (cSigcnt c.raw) (cTag c.raw * 65536 + c.finalReason * 256 + c.status) else s2
    | none => s2
  let s4 := match c.host with
    | some (q, cid) => s3.hostEnd q cid c.status c.finalReason 0
    | none => s3
  let s5 := match c.disp with
    | some j => s4.dispEnds j c.status
    | none => s4
  match c.reply, c.part with
  | some (coord, lead, serial), _ => s5.sendFenceReport coord lead serial c.status
  | none, some p => if c.fault || c.aborted then s5.sendPartFail p c.status c.finalReason (decide (6 ≤ cMode c.raw)) else s5
  | none, none => s5

/-- The status record of a command must wait for its channel (R99, R473). -/
def State.statHeld (s : State) (c : SCmd) : Bool := match c.stat with | some a => s.anyHeld a 16 | none => false

/-- COMMAND_COMPLETE: the oldest command of a stack that has done everything, and whose status record need not wait for its
channel, completes (R94, R473). -/
def execCommandComplete (x : StackId) (s : State) : Host.Outcome State Fault Refusal :=
  match (s.server x).cmds.find? fun c => s.cmdDone x c && !s.statHeld c with
  | none => .next s
  | some c => .next (s.complete x c true)

/-- The lead commands whose rows, sub-commands, updates or chunks a stack holds for other stacks, those on their way to it
included (R100). -/
def State.guests (s : State) (x : Nat) : List (Nat × Nat) :=
  let k := s.server x
  let bagOf := fun r : Req => ((s.server r.srv).bags.find? fun b => b.uid == r.bag).map fun b => (b.lead, b.cmd)
  let us := (List.range 32).map fun e => s.unit (32 * x + e)
  let here := fun u : Nat => decide (u < 512) && u / 32 == x
  (s.servers.flatMap fun p =>
    ((p.2.todo ++ p.2.cmds.flatMap (·.todo)).filter fun r => here r.unit).filterMap bagOf
      ++ (p.2.cmds.filter fun c => c.chunks.any fun d => here d.1).map fun c => (p.1, c.serial))
  ++ k.bags.map (fun b => (b.lead, b.cmd)) ++ k.subs.map (fun c => (c.lead, c.cmd))
    ++ us.flatMap (fun u => u.rq.filterMap bagOf ++ u.fly.flatMap (fun f => f.reqs.filterMap bagOf) ++ u.chunks.map fun c => (c.lead, c.cmd))
    ++ (s.upk.filter fun p => p.rcv == x).map fun p => (p.lead, p.cmd)

/-- STACK_FENCE: every command accepted or queued completes `ABORTED`, and so does every command of another stack that the
stack serves; the queues are left empty; later issues are refused (R100). `fence` is true when the stack stays fenced; in a
job-fatal halt a command that met poison keeps `POISONED` (R560). -/
def State.abortStack (s : State) (x : Nat) (fence : Bool) : State :=
  let k := s.server x
  let waiting := k.queues.flatMap (·.2)
  let ab := fun d : SCmd => if fence || !d.poisoned then { d with aborted := true } else d
  let s0 := k.cmds.foldl (fun acc c => acc.accFinish c.serial) ((s.guests x).foldl (fun acc g => acc.leadCmd g.1 g.2 ab) s)
  let s1 := waiting.foldl (fun acc c =>
    let (st, a1) := acc.statAddr x c.raw
    let (sg, a2) := a1.sigAddr x c.raw
    a2.complete x { c with stat := st, sig := sg, aborted := true } true) s0
  let s2 := k.cmds.foldl (fun acc c => acc.complete x (if c.refused.isSome then c else ab c) true) s1
  let s3 := { s2 with upk := s2.upk.filter fun p => p.rcv != x }
  let s4 := (List.range 32).foldl (fun acc e =>
    if (nfind acc.units (32 * x + e)).isNone then acc
    else acc.modUnit (32 * x + e) fun u => { u with rq := [], uq := [], fly := [], chunks := [] }) s3
  s4.modServer x fun k => { k with queues := [], bags := [], subs := [], todo := [], fenced := k.fenced || fence }

end Sys2Proof.Machine
end

