-- ==== Sys2Proof/Machine/SorusNeed.lean ====
section
/-! DEFINITION. Machine/SorusNeed.lean: what a command reads before it routes, and what it then needs: the channels, engines and
PHY dies it must wait for or has lost, and the routing contexts (R54, R65 to R76, R83, R99, R100, R108, R473, R477). -/

namespace Sys2Proof.Machine

open Sys2Proof

/-! ## Index lists, weights, segments (R64, R70, R72, R73) -/

/-- Bound versions of a command. -/
def State.versOf (s : State) (c : SCmd) : List Version := c.vers.filterMap fun p => s.version p.1 p.2

/-- A pooling weight in FP32 (R87). -/
def weight32 (fmt p : Nat) : Nat := toFp32 fmt p

/-- Elements of `w` bytes of a streamed list (R70). -/
def streamElems (l : List Byte) (w n : Nat) : List (Nat × Bool) :=
  (List.range n).map fun i => (ofBytes ((l.drop (i * w)).take w), false)

/-- The index list of a command: streamed, or read from memory (R64, R70). -/
def State.indexList (s : State) (x : Nat) (c : SCmd) (n : Nat) : Option (List (Nat × Bool)) × State :=
  if cIsrc c.raw then (some (streamElems c.stream (cIdxW c.raw) n), s)
  else s.readList (agStack x) (dfld c.raw 8 6) n (cIdxW c.raw) .stk x

/-- Pair indices with weights. -/
def withWeights (idx wts : List (Nat × Bool)) (fmt : Nat) : List ((Nat × Nat) × Bool) :=
  if wts.isEmpty then idx.map fun e => ((e.1, 0), e.2)
  else (idx.zip wts).map fun (i, w) => ((i.1, weight32 fmt w.1), i.2 || w.2)

/-- Numbered groups of `n`. -/
def groups {α : Type} (n : Nat) : Nat → Nat → List α → List (Nat × Nat × List α)
  | 0, _, _ => []
  | f + 1, k, l => if l.isEmpty then [] else (k, k * n, l.take n) :: groups n f (k + 1) (l.drop n)

/-- The segments of SEG_POOL (R72, R73): for each bag its number, first position and length; a malformed one is none. -/
def segments : Nat → List (Nat × Bool) → List (Nat × Option (Nat × Nat) × Bool)
  | k, a :: b :: l => (k, (if b.1 < a.1 ∨ 65535 < b.1 - a.1 then none else some (a.1, b.1 - a.1)), a.2 || b.2) :: segments (k + 1) (b :: l)
  | _, _ => []

/-- Bytes of an offset of SEG_POOL. -/
def segWidth (raw : Nat) : Nat := if bitOf (cMode raw) 7 then 8 else 4

/-- Bytes of an element of the value rows of a scatter command. -/
def valBytes (raw : Nat) : Nat := if cMode raw % 4 = 1 then 8 else if cFmt raw % 16 = 0 ∨ cFmt raw % 16 = 9 then 4 else 2

/-- Elements of a row as updates see them. -/
def upElems (raw : Nat) (v : Version) : Nat := if cMode raw % 4 = 1 then v.nelem / 2 else v.nelem

/-- The stride between the value rows of a scatter command (R109). -/
def valStride (raw : Nat) (v : Version) : Nat :=
  if dfld raw 40 4 = 0 then alignUp (upElems raw v * valBytes raw) 16 else dfld raw 40 4

/-! ## What a command needs -/

/-- The rows that an index names, each with its version (R157 to R159). -/
def idxRows (vs : List Version) (i : Nat) : List (Version × Nat) :=
  match vs with
  | [v, q, rm] =>
    let d := max rm.nrows 1
    if v.hmode = 2 then [(q, (i / d) % max q.nrows 1), (rm, i % d)] else []
  | v :: _ => (v.rowOf i).toList.map fun row => (v, row)
  | [] => []

/-- What the resolution of an index needs: the indirection entries of its rows (R83, R99, R108, R167). -/
def State.indexNeed (s : State) (vs : List Version) (i : Nat) : Need := needAll (fun p => s.entryNeed p.1 p.2) (idxRows vs i)

/-- What the resolution of a list's indices needs; nothing where no version has indirection entries. -/
def State.indicesNeed (s : State) (vs : List Version) (l : Option (List (Nat × Bool))) : Need :=
  if vs.all (!·.indir) then .go else needAll (fun e => if e.2 then .go else s.indexNeed vs e.1) (l.getD [])

/-- What the index list of a command needs (R64, R99, R473). -/
def State.idxNeed (s : State) (x : Nat) (c : SCmd) : Need :=
  if cIsrc c.raw then .go else s.rangeNeed (agStack x) (dfld c.raw 8 6) (cN c.raw * cIdxW c.raw) false

/-- What a segment of SEG_POOL needs: its indices and weights, and the entries of its indices. -/
def State.segNeed (s : State) (x : Nat) (c : SCmd) (off len : Nat) : Need :=
  let iw := cIdxW c.raw
  let ia := dfld c.raw 8 6 + off * iw
  let ew := esz (cFmt c.raw / 16)
  ((s.rangeNeed (agStack x) ia (len * iw) false).and
    (if cPool c.raw = 5 then s.rangeNeed (agStack x) (dfld c.raw 32 6 + off * ew) (len * ew) false else .go)).and
      (s.indicesNeed (s.versOf c) (s.readList (agStack x) ia len iw .stk x).1)

/-- What SEG_POOL needs. -/
def State.segsNeed (s : State) (x : Nat) (c : SCmd) : Need :=
  let n := dfld c.raw 40 3 + 1
  let w := segWidth c.raw
  if n = 1 ∨ (s.someHeld = false ∧ s.dieFenced = false ∧ (s.versOf c).all (!·.indir) = true) then .go
  else (s.rangeNeed (agStack x) (dfld c.raw 16 6) (n * w) false).and
    (needAll (fun e => match e with
      | (_, some (off, len), false) => s.segNeed x c off len
      | _ => .go) (segments 0 ((s.readList (agStack x) (dfld c.raw 16 6) n w .stk x).1.getD [])))

/-- What a scatter command needs: its list, its value rows, the entries of its indices. -/
def State.scatterNeed (s : State) (x : Nat) (c : SCmd) : Need :=
  match s.versOf c with
  | [] => .go
  | v :: _ =>
    (s.idxNeed x c).and
      (if s.someHeld = false ∧ s.dieFenced = false ∧ v.indir = false then .go
      else
        let idx := (s.indexList x c (cN c.raw)).1.getD []
        needAll (fun e =>
          if e.1.2 then .go
          else (s.rangeNeed (agStack x) (dfld c.raw 16 6 + e.2 * valStride c.raw v) (upElems c.raw v * valBytes c.raw) false).and
            (s.indexNeed [v] e.1.1)) (idx.zip (List.range idx.length)))

/-- What the writes to an agent's range need: its channels, and updates that pinned entries hold (R126, R473). -/
def State.destNeed (s : State) (ag va n : Nat) : Need :=
  if n = 0 ∨ (s.someHeld = false ∧ s.dieFenced = false ∧ s.moves.isEmpty = true) then .go
  else if s.walksHeld ag va n then .wait
  else match (s.xlateRange ag va n true).1 with
    | .ok ps => needAll (fun p => s.writeNeed p.1.pa p.2) ps
    | .error _ => .go

/-- What a row of MIGRATE_ROW needs: its entry, unlocked, the channels of both copies, and updates that pinned entries hold (R126, R167,
R183, R473). -/
def State.migrateNeed (s : State) (c : SCmd) (v : Version) (i : Nat) : Need :=
  let row := dfld c.raw 8 6 + i
  let n := v.rowBytes
  -- a row that is locked for another copy makes it wait (R183)
  let locked := match v.shardOf row with
    | some (_, sh) => v.indir && bitOf (s.memNat (sh.ind + 8 * (row - sh.first)) 8) 43
    | none => false
  (s.entryNeed v row).and (if locked then .wait else match (s.locate v row false).1 with
    | .at_ pa _ _ => (s.writeNeed pa n).and (if bitOf (cMode c.raw) 0 then .go else s.writeNeed (dfld c.raw 16 6 + i * n) n)
    | _ => .go)

/-- What an accepted command needs before it starts (R83, R99, R100, R108, R473, R477). -/
def State.cmdNeed (s : State) (x : Nat) (c : SCmd) : Need :=
  let raw := c.raw
  let op := cOp raw
  let n := cN raw
  if c.stop then .go
  else if op = opGATHER ∨ op = opGPOOL then
    ((s.idxNeed x c).and (if op = opGPOOL ∧ cPool raw = 5 then s.rangeNeed (agStack x) (dfld raw 16 6) (n * esz (cFmt raw / 16)) false else .go)).and
      (s.indicesNeed (s.versOf c) (s.indexList x c n).1)
  else if op = opSEG then s.segsNeed x c
  else if isGraphOp op then s.rangeNeed (agStack x) (dfld raw 8 6) (n * cIdxW raw) false
  else if isScatter op then s.scatterNeed x c
  else if op = opCOPY then
    (s.rangeNeed (agStack x) (dfld raw 8 6) (dfld raw 32 4) false).and (s.destNeed (agStack x) (cDst raw) (dfld raw 32 4))
  else if op = opMIGROW then
    match s.versOf c with
    | [] => .go
    | v :: _ => needAll (s.migrateNeed c v) (List.range (dfld raw 24 4))
  else if op = opPROBE then
    ((s.rangeNeed (agStack x) (dfld raw 8 6) (n * cIdxW raw) false).and (s.rangeNeed (agStack x) (cDst raw) (32 * n) true)).and
      (s.indicesNeed (s.versOf c) (s.readList (agStack x) (dfld raw 8 6) n (cIdxW raw) .stk x).1)
  else if op = opHH then s.rangeNeed (agStack x) (cDst raw) (if bitOf (cMode raw) 5 then 262144 else 8192) true
  else .go

/-! ## Which command runs (R54, R83, R99, R104) -/

/-- Commands that a routing context runs. -/
def routed (op : Nat) : Bool := op == opGATHER || isPoolOp op || isGraphOp op || isScatter op

/-- A routing context works on a command: it routes, or it waits for what the command needs (R83). -/
def State.inContext (s : State) (x : Nat) (c : SCmd) : Bool :=
  c.refused.isNone &&
    (if c.started then !(c.todo.isEmpty && c.waiting.isEmpty && c.chunks.isEmpty)
    else routed (cOp c.raw) && c.missing == 0 && s.cmdNeed x c == .wait)

/-- Routing contexts in use (R54, R104). -/
def State.ctxBusy (s : State) (x : Nat) : Nat := min 8 ((s.server x).cmds.filter (s.inContext x)).length

/-- The oldest accepted command of an opcode that has not started and need not wait, on a stack that serves commands and whose
front end does not wait behind a packet of its own (R83, R99, R505). -/
def State.nextCmd (s : State) (x op : Nat) : Option SCmd :=
  if s.stackLive x && !s.sendStuck x then (s.server x).cmds.find? fun c => cOp c.raw == op && !c.started && s.cmdNeed x c != .wait else none

/-- The oldest command of an opcode that a routing context can take: its packets are there, it need not wait, and a context is
free beside those that route and those that wait with older commands (R54, R70, R83). -/
def State.startable (s : State) (x op : Nat) : Option SCmd :=
  let cs := (s.server x).cmds
  let busy := fun c : SCmd =>
    ((cs.filter fun d => d.started && s.inContext x d) ++ ((cs.takeWhile (·.serial != c.serial)).filter fun d => !d.started && s.inContext x d)).length
  if s.stackLive x && !s.sendStuck x then
    cs.find? fun c => cOp c.raw == op && !c.started && c.missing == 0 && decide (busy c < 8) && s.cmdNeed x c != .wait
  else none

/-- Start a command: nothing else runs it, its requests wait for routing. -/
def State.startCmd (s : State) (x serial : Nat) : State := s.modCmd x serial fun c => { c with started := true }

/-- A command that has lost what it needs with a fenced stack or PHY die ends `ABORTED` (R100, R477). -/
def State.loseCmd (s : State) (x serial : Nat) : State := s.modCmd x serial fun c => { c with started := true, aborted := true }

end Sys2Proof.Machine
end

