-- ==== Sys2Proof/Machine/SorusPool.lean ====
section
/-! DEFINITION. Machine/SorusPool.lean: pooling: from an index list to bags, from bags to sector requests, and back through
the merge tree to rows; GATHER, GATHER_POOL, SEG_POOL, COPY, PROBE and HH_READ (R65 to R93, R98, R158, R167, R178, R222,
R467, R469, R478, R554). -/

namespace Sys2Proof.Machine

open Sys2Proof

/-! ## Arithmetic of pooling (R87 to R89) -/

def negInf32 : Nat := 0xFF800000
def posInf32 : Nat := 0x7F800000

/-- The accumulator's start (R87). -/
def poolStart (kind : Nat) : Nat := if kind = 3 then negInf32 else if kind = 4 then posInf32 else 0

/-- One accumulation step (R87). -/
def poolStep (kind w acc x : Nat) : Nat :=
  match kind with
  | 3 => max32 acc x
  | 4 => min32 acc x
  | 5 => (fFma fp32 w x acc).1
  | _ => add32 acc x

/-- Join two partials of one element in the merge tree (R88). -/
def poolJoin (kind a b : Nat) : Nat :=
  match kind with
  | 3 => max32 a b
  | 4 => min32 a b
  | _ => add32 a b

/-- The exact quotient by an integer, rounded once to FP32 (R87). -/
def divNat32 (a n : Nat) : Nat :=
  match fp32.decode a with
  | .num neg m e =>
    let q := (m <<< 128) / n
    let st := if (m <<< 128) % n = 0 then 0 else 1
    (fp32.encode .nearest (.num neg (q * 2 + st) (e - 129))).1
  | v => (fp32.encode .nearest v).1

/-- √n rounded to FP32 (R87). -/
def sqrtNat32 (n : Nat) : Nat :=
  let w := n <<< 128
  let r := isqrtFrom w (Nat.log2 w / 2 + 1) 0
  (fp32.encode .nearest (.num false (r * 2 + (if r * r = w then 0 else 1)) (-65))).1

/-- The final step (R87). -/
def poolFinal (kind n acc : Nat) : Nat :=
  match kind with
  | 1 => divNat32 acc n
  | 2 => (fDiv fp32 acc (sqrtNat32 n)).1
  | _ => acc

/-- Join partials element by element; an element that one side lacks passes through (R88). -/
def joinParts (kind : Nat) (a b : NMap Nat) : NMap Nat :=
  b.foldl (fun acc (j, x) => match nfind acc j with | some y => nset acc j (poolJoin kind y x) | none => nset acc j x) a

/-- One level of the merge tree: neighbours join, a missing partial passes its sibling through (R88). -/
def treeLevel (kind : Nat) : List (Option (NMap Nat)) → List (Option (NMap Nat))
  | [] => []
  | [a] => [a]
  | a :: b :: l =>
    (match a, b with
      | some x, some y => some (joinParts kind x y)
      | some x, none => some x
      | none, y => y) :: treeLevel kind l

/-- The partials of a stack's 32 engines, joined in the fixed order of the five levels (R88). -/
def mergeTree (kind : Nat) (parts : NMap (NMap Nat)) : NMap Nat :=
  let l0 := (List.range 32).map fun e => nfind parts e
  match (List.range 5).foldl (fun l _ => treeLevel kind l) l0 with
  | [some p] => p
  | _ => []

/-- A bag's partial: the engines' tree, then what joined at the root in arrival order (R88). -/
def Bag.partial_ (b : Bag) : NMap Nat :=
  b.extra.foldl (fun acc p => joinParts b.kind acc p) (mergeTree b.kind b.parts)

/-- The canonical NaN of FP32, BF16 or FP16. -/
def nanOf (fmt : Nat) : Nat := match ffmt fmt with | some f => f.nanPat | none => 0

/-- The bytes of a row of equal elements. -/
def rowFill (fmt n p : Nat) : List Byte := (List.range n).flatMap fun _ => toBytes (esz fmt) p

/-! ## Sector requests (R80, R83) -/

/-- A request for a unit of a fenced stack or PHY die is lost, and its bag's command ends `ABORTED` (R100, R477). -/
def State.reqLost (s : State) (r : Req) : Bool := (s.server (serverOf r.unit)).fenced

def State.loseReq (s : State) (r : Req) : State :=
  match (s.server r.srv).bags.find? fun b => b.uid == r.bag with
  | some b => s.leadCmd b.lead b.cmd fun d => { d with aborted := true }
  | none => s

/-- Place requests with their units, in order, up to the first that its unit has no room for (R83). -/
def State.route (s : State) : List Req → State × List Req
  | [] => (s, [])
  | r :: rs =>
    if s.reqLost r then (s.loseReq r).route rs
    else if s.room r.unit (64 * r.sector) then
      (s.modUnit r.unit fun k => { k with rq := k.rq ++ [r] }).route rs
    else (s, r :: rs)

/-- The same for the requests of several sub-commands: one that waits holds back those of its own bag alone (R83). -/
def State.routeEach (s : State) (blocked : List Nat) : List Req → State × List Req
  | [] => (s, [])
  | r :: rs =>
    if s.reqLost r then (s.loseReq r).routeEach blocked rs
    else if !blocked.contains r.bag && s.room r.unit (64 * r.sector) then
      (s.modUnit r.unit fun k => { k with rq := k.rq ++ [r] }).routeEach blocked rs
    else
      let (s1, rest) := s.routeEach (addOnce blocked r.bag) rs
      (s1, r :: rest)

/-- Route a command's requests as far as they go. -/
def State.routeCmd (s : State) (x serial : Nat) : State :=
  match s.cmd x serial with
  | none => s
  | some c =>
    let (s1, rest) := s.route c.todo
    s1.modCmd x serial fun d => { d with todo := rest }

/-- Route the requests of a server's sub-bags as far as they go. -/
def State.routeServer (s : State) (x : Nat) : State :=
  let (s1, rest) := s.routeEach [] (s.server x).todo
  s1.modServer x fun k => { k with todo := rest }

/-! ## Opening bags (R82, R89 to R92, R158, R163) -/

def State.addBag (s : State) (x : Nat) (b : Bag) : State := s.modServer x fun k => { k with bags := k.bags ++ [b] }

/-- A command meets poison: it ends `POISONED` whatever else becomes of it, but for `ABORTED` (R95, R98, R553). -/
def State.meetPoison (s : State) (lead serial : Nat) : State := s.leadCmd lead serial fun d => { d with poisoned := true }

/-- A bag is poisoned, and another outcome leaves it unwritten (R98; DESIGN CHOICE, log entry 151). -/
def State.lostPoison (s : State) (x serial : Nat) : State := (s.meetPoison x serial).count64 (pgStk x + 0x090) 1

/-- A bag that is poisoned before any of its rows is read. -/
def State.addSpoilt (s : State) (x : Nat) (b : Bag) : State := (s.addBag x { b with poison := true }).meetPoison b.lead b.cmd

def State.modBag (s : State) (x uid : Nat) (f : Bag → Bag) : State :=
  s.modServer x fun k => { k with bags := k.bags.map fun b => if b.uid == uid then f b else b }

/-- Hand a sub-command to a server; one for a fenced stack ends its command `ABORTED` (R100). -/
def State.addSub (s : State) (x : Nat) (c : SubCmd) : State :=
  if (s.server x).fenced then s.leadCmd c.lead c.cmd fun d => { d with aborted := true }
  else s.modServer x fun k => { k with subs := k.subs ++ [c] }

/-- Rows of a bag as the front end resolves them. -/
structure Resolved where
  refs : List RowRef := []
  remote : List RemRow := []
  /-- Weights of zero rows. -/
  zeros : List Nat := []
  comps : NMap Comp := []
  poison : Bool := false
  /-- The reason of an address that reaches nothing, or of an indirection entry that is rejected. -/
  fault : Option Nat := none
  /-- The next ordinal of a row. -/
  ord : Nat := 0

/-- A whole row lies in memory that can be reached (R166, R455). -/
def State.rowOk (s : State) (v : Version) (pa : Nat) : Bool := inMemory pa v.rowBytes && s.reachableRange pa v.rowBytes

/-- Resolve one row of a version that pools directly (R157, R160 to R167). -/
def State.resolveRow (s : State) (v : Version) (row w : Nat) (comp : Option (Nat × Bool)) (r : Resolved) : Resolved × State :=
  match s.locate v row true with
  | (.at_ pa _ _, s1) =>
    if s1.rowOk v pa then ({ r with refs := r.refs ++ [{ v.ref row pa w comp with occ := r.ord }], ord := r.ord + 1 }, s1)
    else ({ r with fault := some 0x06 }, s1)
  | (.remote c, s1) => ({ r with remote := r.remote ++ [⟨c, v.tid, v.epoch, row, w, comp⟩] }, s1)
  | (.fault e, s1) => ({ r with fault := some e }, s1)
  | (.poison a h, s1) => ({ r with poison := true }, s1.poisonUnit a h)

/-- Resolve one index of a command bound to `vs` (R157 to R159); the flag says that it is out of range. -/
def State.resolveIdx (s : State) (vs : List Version) (i w : Nat) (r : Resolved) : Bool × Resolved × State :=
  match vs with
  | [v, q, rm] =>
    if v.hmode = 2 then
      let d := max rm.nrows 1
      let ord := r.ord
      let (r1, s1) := s.resolveRow q ((i / d) % max q.nrows 1) w (some (ord, false)) { r with ord := ord + 1 }
      let (r2, s2) := s1.resolveRow rm (i % d) w (some (ord, true)) r1
      (false, { r2 with comps := r2.comps ++ [(ord, { left := 0, qlen := q.nelem, op := v.compop, w := w })] }, s2)
    else (false, r, s)
  | v :: _ =>
    match v.rowOf i with
    | none => (true, r, s)
    | some row => let (r1, s1) := s.resolveRow v row w none r; (false, r1, s1)
  | [] => (false, r, s)

/-- Resolve the indices of a bag in order (R82). `oob` is OOBPOL; the answer is how many rows count towards n. -/
def State.resolveBag (s : State) (vs : List Version) (oob : Nat) : List (Nat × Nat) → Resolved → Nat × Resolved × State
  | [], r => (0, r, s)
  | (i, w) :: l, r =>
    let (out, r1, s1) := s.resolveIdx vs i w r
    let r2 := if out && oob == 2 then { r1 with zeros := r1.zeros ++ [w] } else r1
    let (n, r3, s2) := s1.resolveBag vs oob l r2
    (if out && oob != 2 then n else n + 1, r3, s2)

/-- An index of a list is out of range; one that was read poisoned is not judged (R82, R98). -/
def oobAt (vs : List Version) (e : (Nat × Nat) × Bool) : Bool :=
  match vs with
  | v :: _ => !e.2 && v.hmode == 0 && decide (v.nrows ≤ e.1.1)
  | [] => false

/-- How many indices of a list are out of range, checked before any index of the bag is routed (R82). -/
def oobCount (vs : List Version) (l : List ((Nat × Nat) × Bool)) : Nat := (l.filter (oobAt vs)).length

/-- Position of the first index out of range. -/
def oobFirst (vs : List Version) (l : List ((Nat × Nat) × Bool)) : Nat := (posOf (oobAt vs) l 0).getD 0

/-- The value that one whole row contributes as a partial of its own; the row of a converting GATHER passes as it is (R68). -/
def rowPartial (kind w : Nat) (x : NMap Nat) : NMap Nat :=
  if 6 ≤ kind then x else x.map fun (j, v) => (j, poolStep kind w (poolStart kind) v)

/-- A zero row of a weight as a partial that joins at the root (R82, R87, R88). -/
def zeroRow (kind w n : Nat) : NMap Nat := rowPartial kind w ((List.range n).map fun j => (j, 0))

/-- Requests of rows at the units that serve them, for a bag held at server `srv`. -/
def State.reqsOf (s : State) (srv bag : Nat) (rows : List RowRef) (p : Nat → Bool) : List Req :=
  rows.flatMap fun r => (s.rowReqs srv bag r).filter fun q => p q.unit

/-- A destination row's physical pieces. -/
def State.dstPieces (s : State) (x dst n : Nat) : Option (List (Page × Nat)) × State :=
  match s.xlateRange (agStack x) dst n true with
  | (.ok ps, s1) => (if s1.piecesOk ps then some ps else none, s1)
  | (.error _, s1) => (none, s1)

/-- Cut the FP32 elements from an address on into writes of one 64-byte line each (R363). -/
def accLines : Nat → Nat → List Nat → List (Nat × List Nat)
  | 0, _, _ => []
  | f + 1, a, l =>
    if l.isEmpty then []
    else
      let n := (64 - a % 64) / 4
      (a, l.take n) :: accLines f (a + 4 * n) (l.drop n)

/-- Send accumulating writes of a partial into a destination in scratch, piece by piece and line by line (R91, R93, R363). -/
def State.accumulate (s : State) (ps : List (Page × Nat)) (op : Nat) (vals : List Nat) (bad : Bool) (tag : Nat) : State :=
  match ps with
  | [] => s
  | (p, n) :: l =>
    let h := match placeOf p.pa with | .scratch h _ => h | _ => 0
    (s.modHome h fun k =>
      { k with
        accQ := k.accQ ++ (accLines (n / 4) p.pa (vals.take (n / 4))).map fun e =>
          { addr := e.1, op := op, elems := e.2, poison := bad, tag := tag } }).accumulate l op (vals.drop (n / 4)) bad tag

/-- The operation of accumulating writes for a pooling kind (R91). -/
def accOp (kind : Nat) : Nat := if kind = 3 then 1 else if kind = 4 then 2 else 0

/-- Flow ids that the model gives its flows (log entry 37). -/
def flowGather (x : Nat) : Nat := 0x100 + x
def flowReply (x : Nat) : Nat := 0x200 + x
def flowUpdate (x : Nat) : Nat := x
def flowMigrate (x : Nat) : Nat := 0x300 + x

/-- The request for a bag's rows at another module (R90, R222; payload layout: log entry 37): table, epoch, n, pooling
kind, lead stack, elements, the bag, the destination's virtual address, the command, the half of a composed row, then row
and weight of each. -/
def gatherPayload (tid epoch kind x tag : Nat) (b : Bag) (rows : List (Nat × Nat)) : List Byte :=
  toBytes 2 tid ++ toBytes 4 epoch ++ toBytes 8 b.n ++ toBytes 1 kind ++ toBytes 1 x ++ toBytes 4 b.nelem ++ toBytes 8 b.uid
    ++ toBytes 8 b.dst ++ toBytes 4 b.cmd ++ toBytes 4 tag ++ toBytes 4 rows.length
    ++ rows.flatMap fun r => toBytes 8 r.1 ++ toBytes 4 r.2

/-- A half of a composed row as a number: 0 for a whole row. -/
def compTag : Option (Nat × Bool) → Nat
  | none => 0
  | some (o, r) => 1 + 2 * o + (if r then 1 else 0)

def State.sendGather (s : State) (x coord : Nat) (payload : List Byte) : State :=
  s.flowSendAll coord 5 (flowGather x) 2 0 (fun _ last => if last then 1 else 0) payload

/-- Rows of a bag that come back to it one by one: GATHER's, and the halves of composed rows (log entry 36). -/
def comesBack (b : Bag) (r : RemRow) : Bool := r.comp.isSome || decide (6 ≤ b.kind)

/-- Send the remote rows of a bag to their owners (R90, R163, R222): rows that the owner pools in one request per owner,
whose partial goes into the destination by accumulating writes; others one by one. -/
def State.sendRemote (s : State) (x : Nat) (b : Bag) (rem : List RemRow) : State :=
  let pooled := rem.filter fun r => !comesBack b r
  let owners := (pooled.map (·.coord)).foldl (fun acc c => if acc.contains c then acc else acc ++ [c]) []
  let s1 := owners.foldl (fun acc c =>
    let rs := pooled.filter (·.coord == c)
    let tid := (rs.map (·.tid)).headD 0
    let ep := (rs.map (·.epoch)).headD 0
    (acc.sendGather x c (gatherPayload tid ep b.kind x 0 b (rs.map fun r => (r.row, r.w)))).modCmd x b.cmd fun d =>
      { d with left := d.left + 1 }) s
  (rem.filter (comesBack b)).foldl (fun acc r =>
    acc.sendGather x r.coord (gatherPayload r.tid r.epoch (if b.kind = 7 then 7 else 6) x (compTag r.comp) b [(r.row, r.w)])) s1

/-- Make a lead bag one that accumulating writes complete: the identity of its operation goes to the destination first (R90).
The answer is none when the destination does not translate. -/
def State.spreadBag (s : State) (x : Nat) (b : Bag) : Option State :=
  match s.dstPieces x b.dst b.bytes with
  | (none, _) => none
  | (some ps, s1) =>
    some ((s1.writeDest ps (rowFill 0 b.nelem (poolStart b.kind)) false).modBag x b.uid fun k => { k with sink := .acc })

/-- A lead bag whose destination does not translate writes nothing (R64). -/
def State.lostBag (s : State) (x : Nat) (b : Bag) : State :=
  (s.modBag x b.uid fun k => { k with nowrite := true, left := 0 }).modCmd x b.cmd fun d => { (d.addFault 0x06 none) with stop := true }

/-- The sub-command of a bag for some of its rows. -/
def Bag.sub (b : Bag) (rows : List RowRef) (snk : Sink) : SubCmd :=
  { cmd := b.cmd, lead := b.lead, bag := b.uid, n := b.n, kind := b.kind, nelem := b.nelem, ofmt := b.ofmt, dst := b.dst, sink := snk
    rows := rows }

/-- The rows of a bag that its own server pools: requests to engines, and sub-commands to the PHY dies for rows in the Rhizome
tier (R163, R478). The requests are returned, and the bag waits for all of them. -/
def State.ownRows (s : State) (x : Nat) (b : Bag) (rows : List RowRef) : List Req × State :=
  -- the halves of composed rows, and GATHER's rows, are read straight from the units that own them (log entry 36)
  let far := fun q : RowRef => q.comp.isNone && decide (b.kind < 6) && decide (0x10000000000 ≤ q.pa)
  let reqs := s.reqsOf x b.uid (rows.filter fun q => !far q) (fun _ => true)
  let rhz := rows.filter far
  let dies := (List.range 4).filter fun d => !(s.reqsOf x b.uid rhz (· == 512 + d)).isEmpty
  (reqs, dies.foldl (fun acc d => acc.addSub (16 + d) (b.sub rhz (.bag x b.uid)))
    (s.modBag x b.uid fun k => { k with left := k.left + reqs.length + dies.length }))

/-- Composed rows, zero rows and rows that come back join a bag (R88, R158). -/
def Bag.expect (b : Bag) (r : Resolved) (reqs : List Req) : Bag :=
  { b with
    left := b.left + (r.remote.filter (comesBack b)).length
    ords := r.ord
    comps := r.comps.foldl (fun m (o, c) => nset m o { c with
      left := (reqs.filter fun q => q.row.comp.map (·.1) == some o).length
        + (r.remote.filter fun q => q.comp.map (·.1) == some o).length }) b.comps
    extra := b.extra ++ r.zeros.map fun w => zeroRow b.kind w b.nelem }

/-- An output row whose rows lie on several stacks, or on other modules, counts once as a split and once as a remote bag, at its
lead; a part served for another module does not (R93). -/
def State.noteSpread (s : State) (at_ : Nat × Nat) (split remote : Bool) : State :=
  match (s.server at_.1).bags.find? fun b => b.uid == at_.2 && b.lead == at_.1 && b.kind < 6 with
  | none => s
  | some b =>
    if b.sink = .far then s
    else
      let s1 := if split && !b.split then s.count64 (pgStk at_.1 + 0x080) 1 else s
      let s2 := if remote && !b.remote then s1.count64 (pgStk at_.1 + 0x088) 1 else s1
      s2.modBag at_.1 at_.2 fun k => { k with split := k.split || split, remote := k.remote || remote }

/-- The output row that a bag at server `x` is, or joins (R218). -/
def Bag.root (b : Bag) (x : Nat) : Nat × Nat := match b.sink with | .bag y u => (y, u) | _ => (x, b.uid)

/-- Open a bag at its lead stack with resolved rows (R82, R88 to R92): its own requests, sub-commands for rows that other
stacks hold and for home copies in the Rhizome tier, requests to other modules. A bag of the lead with rows outside it is
completed by accumulating writes. The requests are returned. -/
def State.openBag (s : State) (x : Nat) (b : Bag) (r : Resolved) : List Req × State :=
  let whole := fun q : RowRef => q.comp.isNone && decide (b.kind < 6)
  let mine := r.refs.filter fun q => !whole q || q.srv == x
  let away := r.refs.filter fun q => whole q && q.srv != x
  let others := (List.range 16).filter fun y => away.any (·.srv == y)
  let b0 := { b with pos := match r.refs with | q :: _ => q.pa % 64 | [] => 0 }
  let (reqs, s1) := (s.addBag x b0).ownRows x b0 mine
  let s2 := s1.modBag x b.uid fun k => k.expect r reqs
  let s4 := s2.noteSpread (b.root x) (r.refs.any (·.srv != b.lead)) (!r.remote.isEmpty)
  if b.sink == .row && b.n != 0 && (!others.isEmpty || r.remote.any fun q => !comesBack b q) then
    match s4.spreadBag x b with
    | none => ([], s4.lostBag x b)
    | some s5 =>
      (reqs, (others.foldl (fun acc y =>
        (acc.addSub y (b.sub (away.filter (·.srv == y)) .acc)).modCmd x b.cmd fun d => { d with left := d.left + 1 }) s5).sendRemote x b r.remote)
  else (reqs, s4.sendRemote x b r.remote)

/-! ## A pooled command (R65 to R73, R82) -/

/-- End a command at an address that does not translate (R64). -/
def State.endFault (s : State) (x serial reason : Nat) : State :=
  s.modCmd x serial fun d => { (d.addFault reason none) with stop := true }

/-- What the bags of a command share. -/
structure PoolJob where
  x : Nat
  serial : Nat
  raw : Nat
  kind : Nat
  nelem : Nat
  ofmt : Nat
  bytes : Nat
  stride : Nat
  vers : List Version

/-- One bag: its number, the position of its first index, index and weight of each with their poison (R82, R98). An address
that reaches nothing is no faulting index: it leaves FIRSTPOS as it was (DESIGN CHOICE, log entry 139). -/
def State.pooledBag (s : State) (j : PoolJob) (k first : Nat) (l : List ((Nat × Nat) × Bool)) : List Req × State :=
  match s.cmd j.x j.serial with
  | none => ([], s)
  | some c =>
    if c.stop then ([], s)
    else
      let bad := l.any (·.2)
      let out := oobCount j.vers l
      let s0 := if out = 0 then s
        else (s.count64 (pgStk j.x + 0x078) out).modCmd j.x j.serial fun d => { d with oob := d.oob + out }
      let b : Bag :=
        { uid := s.serial, cmd := j.serial, lead := j.x, pos := 0, n := 0, kind := j.kind, nelem := j.nelem, ofmt := j.ofmt
          dst := cDst j.raw + k * j.stride, bytes := j.bytes, sink := .row }
      let s1 := { s0 with serial := s0.serial + 1 }
      if out ≠ 0 ∧ cOob j.raw = 0 then
        ([], (if bad then s1.lostPoison j.x j.serial else s1).modCmd j.x j.serial fun d =>
          d.addFault 0x87 (some (first + oobFirst j.vers l)))
      else if bad then ([], s1.addSpoilt j.x { b with n := l.length })
      else
        let (n, r, s2) := s1.resolveBag j.vers (cOob j.raw) (l.map (·.1)) {}
        let bn := { b with n := n }
        match r.fault with
        | some e => ([], (if r.poison then s2.lostPoison j.x j.serial else s2).endFault j.x j.serial e)
        | none => if r.poison then ([], s2.addSpoilt j.x bn) else s2.openBag j.x bn r

/-- The bags of a command in order. -/
def State.pooledBags (s : State) (j : PoolJob) : List (Nat × Nat × List ((Nat × Nat) × Bool)) → List Req → List Req × State
  | [], acc => (acc, s)
  | (k, first, l) :: rest, acc =>
    let (rs, s1) := s.pooledBag j k first l
    s1.pooledBags j rest (acc ++ rs)

/-- What a command's bags share, from its descriptor and version (R69, R91). -/
def State.poolJob (s : State) (x : Nat) (c : SCmd) : PoolJob :=
  let vs := s.versOf c
  let v := vs.headD { tid := 0, epoch := 0, desc := 0, shards := [], current := false }
  let op := cOp c.raw
  let kind := if op = opGATHER then (if bitOf (cMode c.raw) 0 then 6 else 7) else cPool c.raw
  let bytes := outBytes c.raw v
  let st := dstStride c.raw
  { x := x, serial := c.serial, raw := c.raw, kind := kind, nelem := v.nelem, ofmt := cOfmt c.raw, bytes := bytes
    stride := if st = 0 then alignUp bytes 16 else st
    vers := vs }

/-- Further requests of a command, routed as far as they fit. -/
def State.routeMore (s : State) (x serial : Nat) (reqs : List Req) : State :=
  (s.modCmd x serial fun c => { c with todo := c.todo ++ reqs }).routeCmd x serial

/-- Run the bags and route what fits. -/
def State.runBags (s : State) (x serial : Nat) (j : PoolJob) (bags : List (Nat × Nat × List ((Nat × Nat) × Bool))) : State :=
  let (reqs, s1) := s.pooledBags j bags []
  s1.routeMore x serial reqs

/-- The bags of a command whose lists have been read. -/
def State.pool (s : State) (x : Nat) (c : SCmd) (bags : List (Nat × Nat × List ((Nat × Nat) × Bool))) : State :=
  s.runBags x c.serial (s.poolJob x c) bags

/-- A list that was read poisoned poisons what depends on it, also where an address fault ends the command (R95, R98). -/
def State.notePoison (s : State) (x serial : Nat) (l : List (Nat × Bool)) : State :=
  if l.any (·.2) then s.modCmd x serial fun d => { d with poisoned := true } else s

/-- GATHER_POOL: bags of fixed length (R67). -/
def execGatherPool (x : StackId) (s : State) : Host.Outcome State Fault Refusal :=
  match s.startable x opGPOOL with
  | none => .next s
  | some c =>
    let n := cN c.raw
    let s0 := s.startCmd x c.serial
    let wf := cFmt c.raw / 16
    if s.cmdNeed x c = .lost then .next (s.loseCmd x c.serial)
    else if c.stop then .next s0
    else
      match s0.indexList x c n with
      | (none, s1) => .next (s1.endFault x c.serial 0x06)
      | (some idx, s1) =>
        let (w, s2) := if cPool c.raw = 5 then (s1.notePoison x c.serial idx).readList (agStack x) (dfld c.raw 16 6) n (esz wf) .stk x
          else (some [], s1)
        match w with
        | none => .next (s2.endFault x c.serial 0x06)
        | some wts =>
          let bl := dfld c.raw 36 2
          .next (s2.pool x c (groups bl (n / bl + 1) 0 (withWeights idx wts wf)))

/-- GATHER: each row on its own, raw or converted (R68). A row of another module is read there and written from there. -/
def execGather (x : StackId) (s : State) : Host.Outcome State Fault Refusal :=
  match s.startable x opGATHER with
  | none => .next s
  | some c =>
    let n := cN c.raw
    let s0 := s.startCmd x c.serial
    if s.cmdNeed x c = .lost then .next (s.loseCmd x c.serial)
    else if c.stop then .next s0
    else
      match s0.indexList x c n with
      | (none, s1) => .next (s1.endFault x c.serial 0x06)
      | (some idx, s1) => .next (s1.pool x c (groups 1 (n + 1) 0 (withWeights idx [] 0)))

/-- One segment of SEG_POOL (R72, R73, R98): a poisoned offset poisons its bag, a malformed one gives no bag, any other reads its
indices and weights and opens its bag. -/
def State.segBag (s : State) (j : PoolJob) (c : SCmd) (k : Nat) (seg : Option (Nat × Nat)) (bad : Bool) : List Req × State :=
  if bad then s.pooledBag j k 0 [((0, 0), true)]
  else
    match seg with
    | none => ([], s.modCmd j.x c.serial fun d => d.addFault 0x83 none)
    | some (off, len) =>
      let iw := cIdxW c.raw
      let wf := cFmt c.raw / 16
      match s.readList (agStack j.x) (dfld c.raw 8 6 + off * iw) len iw .stk j.x with
      | (none, s1) => ([], s1.endFault j.x c.serial 0x06)
      | (some idx, s1) =>
        match (if cPool c.raw = 5 then
            (s1.notePoison j.x c.serial idx).readList (agStack j.x) (dfld c.raw 32 6 + off * esz wf) len (esz wf) .stk j.x
          else (some [], s1)) with
        | (none, s2) => ([], s2.endFault j.x c.serial 0x06)
        | (some wts, s2) => s2.pooledBag j k off (withWeights idx wts wf)

/-- The segments in order, so that the first fault in that order decides (R95); nothing more is read once an address has failed
(R64). -/
def State.segBags (s : State) (j : PoolJob) (c : SCmd) : List (Nat × Option (Nat × Nat) × Bool) → List Req → List Req × State
  | [], acc => (acc, s)
  | (k, seg, bad) :: rest, acc =>
    if (s.cmd j.x c.serial).all (·.stop) then (acc, s)
    else
      let (rs, s1) := s.segBag j c k seg bad
      s1.segBags j c rest (acc ++ rs)

/-- SEG_POOL: bags of varying length (R72, R73). -/
def execSegPool (x : StackId) (s : State) : Host.Outcome State Fault Refusal :=
  match s.startable x opSEG with
  | none => .next s
  | some c =>
    let nb := dfld c.raw 40 3
    let s0 := s.startCmd x c.serial
    if s.cmdNeed x c = .lost then .next (s.loseCmd x c.serial)
    else if c.stop || nb == 0 then .next s0
    else
      match s0.readList (agStack x) (dfld c.raw 16 6) (nb + 1) (segWidth c.raw) .stk x with
      | (none, s1) => .next (s1.endFault x c.serial 0x06)
      | (some offs, s1) =>
        let (reqs, s2) := s1.segBags (s1.poolJob x c) c (segments 0 offs) []
        .next (s2.routeMore x c.serial reqs)

/-- SUB_COMMAND_RECEIVE: a server takes its oldest sub-command and pools the bag's rows that it holds (R90, R163, R478). Rows of
the lead stack itself pool in the row's own bag, whose engine partials join in the fixed order (R218). -/
def execSubCommandReceive (u : ServerId) (s : State) : Host.Outcome State Fault Refusal :=
  match (s.server u).subs with
  | [] => .next s
  | c :: rest =>
    let s0 := s.modServer u fun k => { k with subs := rest }
    match (s0.server u).bags.find? fun b => c.sink == .bag u b.uid with
    | some b =>
      let (reqs, s1) := (s0.modBag u b.uid fun k => { k with left := k.left - 1, ords := k.ords + c.rows.length }).ownRows u b
        ((c.rows.zip (List.range c.rows.length)).map fun (q, i) => { q with occ := b.ords + i })
      .next ((s1.modServer u fun k => { k with todo := k.todo ++ reqs }).routeServer u)
    | none =>
      let b : Bag :=
        { uid := s.serial, cmd := c.cmd, lead := c.lead, pos := 0, n := c.n, kind := c.kind, nelem := c.nelem, ofmt := c.ofmt
          dst := c.dst, bytes := 4 * c.nelem, sink := c.sink }
      let s1 := ({ s0 with serial := s0.serial + 1 } : State).addBag u b
      let (reqs, s2) :=
        if u.val < 16 then s1.ownRows u b c.rows
        else
          let reqs := s1.reqsOf u b.uid c.rows (· == 512 + (u.val - 16))
          (reqs, s1.modBag u b.uid fun k => { k with left := reqs.length })
      .next ((s2.modServer u fun k => { k with todo := k.todo ++ reqs }).routeServer u)

/-! ## The engines (R84, R85, R87, R467) -/

/-- Hand a partial to the bag it joins at the root of (R88, R218, R478). -/
def State.joinAt (s : State) (x uid : Nat) (p : NMap Nat) (bad : Bool) : State :=
  s.modBag x uid fun b => { b with left := b.left - 1, extra := if p.isEmpty then b.extra else b.extra ++ [p], poison := b.poison || bad }

/-- A PHY die's bag that is complete returns its partial (R478). -/
def State.settlePhy (s : State) (x uid : Nat) : State :=
  if x < 16 then s
  else match (s.server x).bags.find? fun b => b.uid == uid && b.left == 0 with
    | none => s
    | some b =>
      let s1 := s.modServer x fun k => { k with bags := k.bags.filter (·.uid != uid) }
      let p := b.parts.foldl (fun acc q => joinParts b.kind acc q.2) []
      match b.sink with
      | .bag y u => s1.joinAt y u p b.poison
      | _ => s1

/-- The vector of a composed row (R158). -/
def Comp.value (c : Comp) : NMap Nat :=
  match c.op with
  | 2 => c.q ++ c.r.map fun (j, v) => (c.qlen + j, v)
  | o => c.q.map fun (j, a) => (j, match nfind c.r j with | some b => if o = 0 then add32 a b else mul32 a b | none => a)

/-- Elements of one half of a composed row arrive; the vector of a composed row that is whole joins at the root (R88,
R158). -/
def Bag.takeHalf (b : Bag) (o : Nat) (isR : Bool) (vals : NMap Nat) : Bag :=
  let c0 := nget b.comps o { left := 1, qlen := 0, op := 0, w := 0 }
  let c1 := if isR then { c0 with r := vals.foldl (fun m v => nset m v.1 v.2) c0.r, left := c0.left - 1 }
    else { c0 with q := vals.foldl (fun m v => nset m v.1 v.2) c0.q, left := c0.left - 1 }
  if c1.left = 0 then { b with comps := ndel b.comps o, extra := b.extra ++ [rowPartial b.kind c1.w c1.value] }
  else { b with comps := nset b.comps o c1 }

/-- The elements of a sector of the request's row, once its header is known, reach the bag (R34, R81, R87, R158). ELEMCNT counts
them, those of a GATHER too (log entry 138). -/
def State.applySector (s : State) (r : Req) (codes : NMap Nat) (hdr : Nat) (bad : Bool) : State :=
  match (s.server r.srv).bags.find? fun b => b.uid == r.bag with
  | none => s
  | some b =>
    let vals := codes.map fun (j, p) => (j, rowElem r.row.fmt hdr p)
    let b0 := { b with left := b.left - 1, poison := b.poison || bad }
    let b1 := match r.row.comp with
      | some (o, isR) => b0.takeHalf o isR vals
      | none =>
        if b.kind = 7 then b0
        else if b.kind = 6 then { b0 with extra := b0.extra ++ [vals] }
        else
          let u := if r.unit < 512 then r.unit % 32 else r.unit
          let p0 := nget b0.parts u []
          let p1 := vals.foldl (fun m v => nset m v.1 (poolStep b.kind r.row.w (nget m v.1 (poolStart b.kind)) v.2)) p0
          { b0 with parts := nset b0.parts u p1 }
    let s1 := if bad then s.meetPoison b.lead b.cmd else s
    ((s1.modBag r.srv r.bag fun _ => b1).unitCount r.unit 0x070 0 vals.length).settlePhy r.srv r.bag

/-- The bag that keeps the headers of a request's rows: a PHY die's sub-bag looks to the bag that it serves. -/
def State.hdrBag (s : State) (r : Req) : Nat × Nat :=
  match (s.server r.srv).bags.find? fun b => b.uid == r.bag with
  | some b => (match b.sink with | .bag y u => if 16 ≤ r.srv then (y, u) else (r.srv, r.bag) | _ => (r.srv, r.bag))
  | none => (r.srv, r.bag)

/-- A row-quantised row's header has arrived: the elements that waited for it go on (R81). -/
def State.passHeader (s : State) (at_ : Nat × Nat) (occ hdr : Nat) : State :=
  match (s.server at_.1).bags.find? fun b => b.uid == at_.2 with
  | none => s
  | some b =>
    let s1 := s.modBag at_.1 at_.2 fun k =>
      { k with hdrs := nset k.hdrs occ hdr, unread := k.unread.filter fun e => e.1.row.occ != occ }
    (b.unread.filter fun e => e.1.row.occ == occ).foldl (fun acc e => acc.applySector e.1 e.2.1 hdr e.2.2) s1

/-- A sector's data reaches the request's bag. The elements of a row-quantised row's further sectors are held until the header,
which its first sector brings, is there (R81). -/
def State.deliver (s : State) (r : Req) (bad : Bool) : State :=
  match (s.server r.srv).bags.find? fun b => b.uid == r.bag with
  | none => s
  | some b =>
    let img := s.memNat r.row.pa r.row.bytes
    let codes := (elemsIn r.row r.sector).map fun j => (j, rowCode r.row.fmt img j)
    if b.kind = 7 then
      (s.modBag r.srv r.bag fun k => { k with raw := nset k.raw r.sector (s.memNat (64 * r.sector) 64) }).applySector r codes 0 bad
    else if headerBits r.row.fmt = 0 then s.applySector r codes 0 bad
    else
      let at_ := s.hdrBag r
      if r.sector = r.row.pa / 64 then (s.applySector r codes (img % 2 ^ 32) bad).passHeader at_ r.row.occ (img % 2 ^ 32)
      else
        match ((s.server at_.1).bags.find? fun k => k.uid == at_.2).bind fun k => nfind k.hdrs r.row.occ with
        | some h => s.applySector r codes h bad
        | none => s.modBag at_.1 at_.2 fun k => { k with unread := k.unread ++ [(r, codes, bad)] }

/-- A request that finds its channel failed: the bag's command ends with reason 0x06 (R455, R474). -/
def State.failReq (s : State) (r : Req) : State :=
  match (s.server r.srv).bags.find? fun b => b.uid == r.bag with
  | none => s
  | some b =>
    let at_ := s.hdrBag r
    let s1 := s.modBag r.srv r.bag fun k => { k with left := k.left - 1, nowrite := true }
    let s2 := s1.leadCmd b.lead b.cmd fun d => { (d.addFault 0x06 none) with stop := true }
    (if r.sector = r.row.pa / 64 then s2.passHeader at_ r.row.occ 0 else s2).settlePhy r.srv r.bag

/-- The first request of a queue that can be served: a combining hit, or one whose channel is ready or failed (R99,
R473). -/
def State.servable (s : State) (u : Nat) (r : Req) : Bool :=
  let st := s.chanSt (64 * r.sector)
  -- a read does not pass a write to its sector that is held for the channel (R473)
  let behind := (s.unit u).uq.any fun q => q.nocomb && q.sector == r.sector && !s.pinned r.sector
  (st == 0 && !behind) || st == 3 || (s.combining u && (s.liveRct u).any (·.sector == r.sector))

/-- SECTOR_READ_REQUEST: an engine takes a sector read request (R79, R84, R85). Read requests and reads of indirection entries
count among the further requests of WINDOW, and updates do not (DESIGN CHOICE, log entry 160). -/
def execSectorReadRequest (u : UnitId) (s : State) : Host.Outcome State Fault Refusal :=
  match (s.unit u).rq.find? (s.servable u) with
  | none => .next s
  | some r =>
    let s0 := s.modUnit u fun k => { k with rq := k.rq.erase r, entered := k.entered + 1 }
    let s1 := s0.unitCount u 0x050 0x058 1
    let s2 := if r.first then s1.hhRequest u r.row.tid r.row.row else s1
    let live := s.liveRct u
    let s3 :=
      if s.chanSt (64 * r.sector) = 3 then s2.failReq r
      else match (if s2.combining u then live.find? (·.sector == r.sector) else none) with
        | some e =>
          let s4 := s2.unitCount u 0x058 0x060 1
          if e.back then s4.deliver r (e.poison || s4.isPoisoned (64 * r.sector) 64)
          else s4.modUnit u fun k =>
            { k with fly := k.fly.map fun f => if f.sector == r.sector && f.comb then { f with reqs := f.reqs ++ [r] } else f }
        | none =>
          let room := s2.combining u && decide (live.length < rctCap u)
          let s4 := if s2.combining u && !room then s2.unitCount u 0x060 0 1 else s2
          (s4.modUnit u fun k =>
            { k with
              rct := if room then live ++ [{ sector := r.sector, at_ := k.entered }] else live
              fly := k.fly ++ [{ sector := r.sector, reqs := [r], comb := room }] }).unitCount u 0x068 0 1
    .next (if 512 ≤ u.val then s3.routeServer (serverOf u) else s3)

/-! ## DRAM_READ_RETURN (R467 to R469, R553, R554) -/

/-- The error check of one DRAM read of a sector by its engine: the state after it, and whether the data is poisoned (R467,
R553, R554). A latent error of the sector is found where the command names none. -/
def State.checkRead (s : State) (sec : Nat) (f : EccFinding) : Bool × State :=
  let found : EccFinding := match f, nfind s.upsets sec with
    | .clean, some ue => if ue then .uncorrectable else .corrected
    | g, _ => g
  let s1 :=
    if s.poison.contains sec then s
    else match found with
      | .clean => s
      | .corrected => s.dramCorrected sec
      | .uncorrectable => s.dramUncorrectable sec
  let bad := s1.poison.contains sec
  (bad, if bad then s1.dramFatal sec else s1)

/-- DRAM_READ_RETURN: a read returns, is checked, and serves every request that waits for it (R84, R85, R467). -/
def execDramReadReturn (u : UnitId) (sector : Nat) (finding : EccFinding) (s : State) : Host.Outcome State Fault Refusal :=
  match (s.unit u).fly.find? (·.sector == sector) with
  | none => .next s
  | some f =>
    let s0 := s.modUnit u fun k => { k with fly := k.fly.erase f }
    let (bad, s1) := s0.checkRead sector finding
    let s2 := if f.comb then
        s1.modUnit u fun k => { k with rct := k.rct.map fun e => if e.sector == sector then { e with back := true, poison := bad } else e }
      else s1
    .next (f.reqs.foldl (fun acc r => acc.deliver r bad) s2)

/-! ## BAG_MERGE_ROOT (R87 to R93, R98) -/

/-- Drop a bag. -/
def State.dropBag (s : State) (x uid : Nat) : State := s.modServer x fun k => { k with bags := k.bags.filter (·.uid != uid) }

/-- Convert a row of FP32 elements, counting overflows (R40, R43, R88). -/
def convRow (fmt : Nat) (l : List Nat) : List Byte × Nat :=
  let c := l.map fun v => convertElem .nearest 0 fmt v
  let ov := ((l.zip c).filter fun (v, p) => fmt != 0 && (p.2 &&& fOF) != 0 && (match fp32.decode v with | .num _ _ _ => true | _ => false)).length
  (c.flatMap fun p => toBytes (esz fmt) p.1, ov)

/-- The bytes of an output row (R87 to R89, R98), and conversions that overflowed. -/
def Bag.outRow (b : Bag) : List Byte × Nat :=
  if b.poison then
    (if b.kind = 7 then ((rowFill 0 ((b.bytes + 3) / 4) (nanOf 0)).take b.bytes, 0) else (rowFill b.ofmt b.nelem (nanOf b.ofmt), 0))
  else if b.kind = 7 then
    match b.raw with
    | [] => (List.replicate b.bytes 0, 0)
    | (_, _) :: _ =>
      let all := b.raw.flatMap fun (_, d) => toBytes 64 d
      ((all.drop (b.pos % 64)).take b.bytes, 0)
  else if b.n = 0 then (List.replicate b.bytes 0, 0)
  else
    let p := b.partial_
    convRow b.ofmt ((List.range b.nelem).map fun j => poolFinal b.kind b.n (nget p j 0))

/-- Write a finished row of a lead bag to its destination (R88, R89, R94). -/
def State.finishRow (s : State) (x : Nat) (b : Bag) : State :=
  let s0 := s.dropBag x b.uid
  match s.cmd b.lead b.cmd with
  | none => s0
  | some c =>
    if b.nowrite || c.stop then (if b.poison then s0.count64 (pgStk x + 0x090) 1 else s0)
    else
      let empty := b.n == 0 && !b.poison
      let s1 := if empty then s0.count64 (pgStk x + 0x070) 1 else s0
      if empty && cSkipEmpty c.raw then s1
      else
        let (row, ov) := b.outRow
        let s2 := if b.poison then s1.count64 (pgStk x + 0x090) 1 else s1
        match s2.dstPieces x b.dst row.length with
        | (none, s3) => s3.endFault x b.cmd 0x06
        | (some ps, s3) =>
          let s4 := (s3.writeDest ps row false).count64 (pgStk x + 0x068) 1
          let s5 := if ov = 0 then s4 else s4.count32 (pgStk x + 0x098) ov
          s5.modCmd x b.cmd fun d => { d with rows := d.rows + 1, poisoned := d.poisoned || b.poison }

/-- Add a finished partial into the destination by accumulating writes (R90 to R93, R98). -/
def State.finishAcc (s : State) (x : Nat) (b : Bag) : State :=
  let s0 := s.dropBag x b.uid
  match s.cmd b.lead b.cmd with
  | none => s0
  | some c =>
    let lead := b.lead == x
    let own := !b.parts.isEmpty || !b.extra.isEmpty || b.poison
    let vals := if b.poison then List.replicate b.nelem (nanOf 0)
      else (List.range b.nelem).map fun j => poolFinal b.kind b.n (nget b.partial_ j (poolStart b.kind))
    let s1 := if b.nowrite || c.stop || !own then s0
      else match s0.dstPieces x b.dst b.bytes with
        | (none, s2) => s2.leadCmd b.lead b.cmd fun d => { (d.addFault 0x06 none) with stop := true }
        | (some ps, s2) => s2.accumulate ps (accOp b.kind) vals false b.cmd
    let s2 := if b.poison then s1.count64 (pgStk x + 0x090) 1 else s1
    let empty := lead && b.n == 0
    let s3 := if empty then s2.count64 (pgStk x + 0x070) 1 else s2
    let s4 := if lead && !b.nowrite then s3.count64 (pgStk x + 0x068) 1 else s3
    s4.leadCmd b.lead b.cmd fun d =>
      { d with
        rows := if lead && !b.nowrite then d.rows + 1 else d.rows
        left := if lead then d.left else d.left - 1
        poisoned := d.poisoned || b.poison }

/-- The finished rows of a remote part go back to the module that asked: a pooled partial as accumulating writes into the
destination (R90, R92, R222), the elements or bytes of other rows as a read response (log entries 36 and 37). -/
def State.finishFar (s : State) (x : Nat) (b : Bag) : State :=
  let s0 := s.dropBag x b.uid
  match (s.cmd b.lead b.cmd).bind fun c => if c.stop || b.nowrite then none else c.part with
  | none => s0
  | some p =>
    let bad := if b.poison then 1 else 0
    let s1 := if b.poison then s0.count64 (pgStk x + 0x090) 1 else s0
    if b.kind < 6 then
      let vals := if b.poison then List.replicate b.nelem (nanOf 0)
        else (List.range b.nelem).map fun j => poolFinal b.kind b.n (nget b.partial_ j (poolStart b.kind))
      let gs := groups 64 (b.nelem + 1) 0 vals
      gs.foldl (fun acc (k, first, vs) =>
        acc.flowSend p.coord 5 (flowReply p.lead) 1 0 (if k + 1 = gs.length then 1 else 0)
          (toBytes 1 p.lead ++ toBytes 4 p.serial ++ toBytes 1 (accOp b.kind) ++ toBytes 1 bad ++ toBytes 6 (p.dst + 4 * first)
            ++ vs.flatMap (toBytes 4))) s1
    else
      let data := if b.kind = 7 then b.outRow.1
        else ((List.range b.nelem).map fun j => if b.poison then nanOf 0 else nget b.partial_ j 0).flatMap (toBytes 4)
      s1.flowSendAll p.coord 5 (flowReply p.lead) 3 0 (fun _ last => if last then 1 else 0)
        (toBytes 1 p.lead ++ toBytes 8 p.uid ++ toBytes 4 p.tag ++ toBytes 1 bad ++ data)

/-- What a finished row needs: its destination (R99, R473, R477). -/
def State.rowNeed (s : State) (x : Nat) (b : Bag) : Need :=
  if b.sink = .row then s.rangeNeed (agStack x) b.dst b.bytes true else .go

/-- BAG_MERGE_ROOT: a bag of the stack whose partials have all joined is finished at the root (R88, R92, R218). A destination at a
fenced PHY die ends the command `ABORTED` (R477). -/
def execBagMergeRoot (x : StackId) (s : State) : Host.Outcome State Fault Refusal :=
  match (s.server x).bags.find? fun b => b.left == 0 && s.rowNeed x b != .wait with
  | none => .next s
  | some b =>
    if s.rowNeed x b = .lost then .next ((s.dropBag x b.uid).leadCmd b.lead b.cmd fun d => { d with aborted := true })
    else match b.sink with
    | .row => .next (s.finishRow x b)
    | .acc => .next (s.finishAcc x b)
    | .far => .next (s.finishFar x b)
    | .bag y u => .next ((s.dropBag x b.uid).joinAt y u b.partial_ b.poison)

/-! ## COPY, PROBE, HH_READ (R74 to R79) -/

/-- Copy translated pieces to translated pieces 64 bytes at a time, poison with the data. -/
def State.copySectors (s : State) : List (Nat × Nat) → State
  | [] => s
  | (a, b) :: l =>
    let s1 := s.meet a 64
    (((s1.beforeWrite b 64).writePa b (s1.readPa a 64) (s1.badPa a 64)).dirtyHot b).copySectors l

/-- The 64-byte units of translated pieces. -/
def units64 (ps : List (Page × Nat)) : List Nat := ps.flatMap fun (p, n) => (List.range (n / 64)).map fun i => p.pa + 64 * i

/-- COPY (R74, R75). -/
def execCopy (x : StackId) (s : State) : Host.Outcome State Fault Refusal :=
  match s.nextCmd x opCOPY with
  | none => .next s
  | some c =>
    let n := dfld c.raw 32 4
    let s0 := s.startCmd x c.serial
    if s.cmdNeed x c = .lost then .next (s.loseCmd x c.serial)
    else if n = 0 then .next s0
    else
      match s0.xlateRange (agStack x) (dfld c.raw 8 6) n false, s0.xlateRange (agStack x) (cDst c.raw) n true with
      | (.ok ps, s1), (.ok qs, _) =>
        let (_, s2) := s1.xlateRange (agStack x) (cDst c.raw) n true
        let src := units64 ps
        let dst := units64 qs
        let okDst := dst.all fun a => match placeOf a with
          | .hbm => s.reachable a
          | .rhz => s.reachable a
          | .scratch _ _ => s.reachable a
          | _ => false
        if !okDst || !(src.all s.reachable) then .next (s2.endFault x c.serial 0x06)
        else
          let s2a := src.foldl (fun acc a => acc.meet a 64) s2
          let bad := src.filter fun a => s2a.badPa a 64
          let s3 := bad.foldl (fun acc a => acc.poisonRead .stk x a) s2a
          .next ((s3.copySectors (src.zip dst)).modCmd x c.serial fun d => { d with rows := n / 64, poisoned := d.poisoned || !bad.isEmpty })
      | (.ok _, s1), (.error _, _) =>
        let (_, s2) := s1.xlateRange (agStack x) (cDst c.raw) n true
        .next (s2.endFault x c.serial 0x06)
      | (.error _, s1), _ => .next (s1.endFault x c.serial 0x06)

/-- One record of PROBE (R76): its bytes, the state after, whether the entry was poisoned; or the reason that ends the command.
TIER says where the row lies, and a row that memory does not hold ends the command as it ends a gather (R76, R455). PADDR of an
index out of range and of a row on another module is 0, and a composed index reports its quotient row with the
quotient table's EPOCH (DESIGN CHOICE, log entry 139). -/
def State.probeOne (s : State) (vs : List Version) (i : Nat) : Except Nat (List Byte × Bool) × State :=
  let rec_ := fun (row pa tier pch epoch st stack : Nat) =>
    toBytes 8 i ++ toBytes 8 row ++ toBytes 6 pa ++ toBytes 1 tier ++ toBytes 1 pch ++ toBytes 4 epoch ++ toBytes 1 st
      ++ toBytes 1 stack ++ toBytes 2 0
  match vs with
  | [] => (.error 0x06, s)
  | v :: rest =>
    -- a composed index reports its quotient row (R159)
    let (w, j) := match rest with
      | [q, rm] => if v.hmode = 2 then (q, some ((i / max rm.nrows 1) % max q.nrows 1)) else (v, v.rowOf i)
      | _ => (v, v.rowOf i)
    match j with
    | none => (.ok (rec_ (2 ^ 64 - 1) 0 0xFF 0xFF v.epoch 0 0xFF, false), s)
    | some row =>
      match s.locate w row false with
      | (.at_ pa hot _, s1) =>
        let ent := match w.shardOf row with
          | some (_, sh) => if w.indir then s1.memNat (sh.ind + 8 * (row - sh.first)) 8 else 0
          | none => 0
        let st := (if bitOf ent 43 then 1 else 0) + (if s1.isPoisoned pa 1 then 2 else 0)
        (match placeOf pa with
          | .hbm =>
            let (stk, p, _) := s1.hbmPlace pa
            if s1.rowOk w pa then .ok (rec_ row (pa / 64 * 64) (if hot then 1 else 0) p w.epoch st stk, false) else .error 0x06
          | _ => if s1.rowOk w pa then .ok (rec_ row (pa / 64 * 64) 2 0xFF w.epoch st 0xFF, false) else .error 0x06, s1)
      | (.remote _, s1) => (.ok (rec_ row 0 3 0xFF w.epoch 0 0xFF, false), s1)
      | (.poison a h, s1) => (.ok (rec_ row 0 0xFF 0xFF w.epoch 4 0xFF, true), s1.poisonUnit a h)
      | (.fault e, s1) => (.error e, s1)

/-- The records of PROBE in order. The record of an index that is itself read poisoned shows what the value read resolves to (DESIGN
CHOICE, log entry 139). -/
def State.probeAll (s : State) (x serial : Nat) (vs : List Version) : List (Nat × Bool) → List Byte → Except Nat (List Byte) × State
  | [], acc => (.ok acc, s)
  | (i, _) :: l, acc =>
    match s.probeOne vs i with
    | (.ok (b, bad), s1) => (if bad then s1.meetPoison x serial else s1).probeAll x serial vs l (acc ++ b)
    | (.error e, s1) => (.error e, s1)

/-- PROBE (R76, R82). BAGS counts the records (DESIGN CHOICE, log entry 139). -/
def execProbe (x : StackId) (s : State) : Host.Outcome State Fault Refusal :=
  match s.nextCmd x opPROBE with
  | none => .next s
  | some c =>
    let s0 := s.startCmd x c.serial
    let vs := s.versOf c
    let n := cN c.raw
    if s.cmdNeed x c = .lost then .next (s.loseCmd x c.serial)
    else
    match s0.readList (agStack x) (dfld c.raw 8 6) n (cIdxW c.raw) .stk x with
    | (none, s1) => .next (s1.endFault x c.serial 0x06)
    | (some idx, s1) =>
      match (s1.notePoison x c.serial idx).probeAll x c.serial vs idx [] with
      | (.error e, s2) => .next (s2.endFault x c.serial e)
      | (.ok recs, s2) =>
        let out := oobCount vs (idx.map fun e => ((e.1, 0), false))
        let s3 := if out = 0 then s2 else s2.count64 (pgStk x + 0x078) out
        let fin := fun (a : State) => a.modCmd x c.serial fun d => { d with rows := cN c.raw, oob := out }
        if recs.isEmpty then .next (fin s3)
        else match s3.dstPieces x (cDst c.raw) recs.length with
          | (none, s4) => .next (s4.endFault x c.serial 0x06)
          | (some ps, s4) => .next (fin ((s4.writeDest ps recs false).count64 (pgStk x + 0x068) (cN c.raw)))

/-- The record of a tracker entry (R78). -/
def hhRecord : Option HHEnt → List Byte
  | some e => toBytes 8 e.row ++ toBytes 2 (e.tid + 0x8000) ++ toBytes 6 0 ++ toBytes 8 e.count ++ toBytes 8 e.error
  | none => toBytes 32 0

/-- The 256 records of an engine; those of a disabled engine are not valid (R77). -/
def State.hhDump (s : State) (e : Nat) : List Byte :=
  let l := if s.engineOn e then (s.unit e).hh else []
  (List.range 256).flatMap fun i => hhRecord (l.getD i none)

/-- HH_READ (R77, R78). BAGS counts the entries written (DESIGN CHOICE, log entry 139). -/
def execHhRead (x : StackId) (s : State) : Host.Outcome State Fault Refusal :=
  match s.nextCmd x opHH with
  | none => .next s
  | some c =>
    let s0 := s.startCmd x c.serial
    let es := if bitOf (cMode c.raw) 5 then List.range 32 else [cMode c.raw % 32]
    let data := es.flatMap fun e => s.hhDump (32 * x + e)
    if s.cmdNeed x c = .lost then .next (s.loseCmd x c.serial)
    else
    match s0.dstPieces x (cDst c.raw) data.length with
    | (none, s1) => .next (s1.endFault x c.serial 0x06)
    | (some ps, s1) => .next ((s1.writeDest ps data false).modCmd x c.serial fun d => { d with rows := 256 * es.length })

end Sys2Proof.Machine
end

