-- ==== Sys2Proof/Machine/SorusUpdate.lean ====
section
/-! DEFINITION. Machine/SorusUpdate.lean: scatter commands, update packets and their sequence check, the update-combining
tables, update fences, and the fence of a core (R109 to R143, R164, R417, R418). -/

namespace Sys2Proof.Machine

open Sys2Proof

/-! ## Scatter commands (R109 to R118, R145, R164) -/

/-- What the updates of a scatter command combine by (R110, R119, R122). -/
def upKey (raw : Nat) (v : Version) : UKey :=
  { op := cOp raw - opADD, ty := if cMode raw % 4 = 1 then 16 else v.fmt, sr := bitOf (cMode raw) 2 }

/-- A value element as the adders take it: for an addition to a floating-point table converted to FP32 and scaled (R114,
R119), otherwise as it stands. -/
def upValue (raw : Nat) (p : Nat) : Nat :=
  let f := cFmt raw % 16
  if cOp raw = opADD ∧ f < 3 ∧ cMode raw % 4 = 0 then
    (let x := toFp32 f p
     if bitOf (cFmt raw) 4 then mul32 x (dfld raw 36 4) else x)
  else p

/-- The sectors of a row at an address, each with the elements of it that an update touches (R113). -/
def upSectors (ty pa : Nat) (vals : NMap Nat) : List (Nat × NMap Nat) :=
  let w := ubits ty / 8
  let secs := vals.foldl (fun acc (j, _) => insNat acc ((pa + j * w) / 64)) []
  secs.map fun sec => (sec, (vals.filter fun e => (pa + e.1 * w) / 64 == sec).map fun e => ((pa + e.1 * w) % 64 / w, e.2))

/-- The sector updates of one row (R80, R113). -/
def State.rowUps (s : State) (k : UKey) (nocomb : Bool) (v : Version) (pa : Nat) (vals : NMap Nat) (org : Origin) (pos : Nat) :
    List UReq :=
  (upSectors k.ty pa vals).map fun (sec, vs) =>
    { unit := (s.unitOf (64 * sec)).getD 0, sector := sec, key := k, vals := vs, nocomb := nocomb, tid := v.tid, ver := v.epoch
      org := org, pkt := 0, pos := pos }

/-- An address is memory of a mapped region or channel, failed or not (R474). -/
def State.mapped (s : State) (a : Nat) : Bool :=
  match placeOf a with
  | .hbm => s.regionMapped (a / 2 ^ 30)
  | .rhz => bitOf s.boot.rhzMapped.toNat ((rhzPlace a).1)
  | _ => false

/-- What the positions of a scatter command come to, in list order. -/
structure Scat where
  ups : List UReq := []
  remote : List (Nat × Nat × Nat × NMap Nat) := []
  rows : Nat := 0
  oob : Nat := 0
  poisoned : Bool := false
  frozen : Bool := false
  /-- Reason and position at which the front end stopped. -/
  halt : Option (Nat × Option Nat) := none

/-- The positions of a scatter command from `i` on: index, and the value row read for it (R112 to R115, R145, R164). -/
def State.scatterRows (s : State) (x : Nat) (c : SCmd) (v : Version) (org : Origin) (stride : Nat) :
    List (Nat × Bool) → Nat → Scat → Scat × State
  | [], _, a => (a, s)
  | (idx, bad) :: rest, i, a =>
    let go := fun (t : State) (b : Scat) => t.scatterRows x c v org stride rest (i + 1) b
    if bad then go s { a with poisoned := true }
    else
      match v.rowOf idx with
      | none =>
        -- counted under FAULT too (log entry 65)
        let s1 := s.count64 (pgStk x + 0x328) 1
        if cOob c.raw = 0 then ({ a with oob := a.oob + 1, halt := some (0x87, some i) }, s1) else go s1 { a with oob := a.oob + 1 }
      | some row =>
        match v.shardOf row with
        | none => ({ a with halt := some (0x06, none) }, s)
        | some (_, sh) =>
          if sh.frozen then ({ a with halt := some (0x8B, some i), frozen := true }, s)
          else
            let w := valBytes c.raw
            match s.readList (agStack x) (dfld c.raw 16 6 + i * stride) (upElems c.raw v) w .stk x with
            | (none, s1) => ({ a with halt := some (0x06, none) }, s1)
            | (some l, s1) =>
              if l.any (·.2) then go s1 { a with poisoned := true }
              else
                let vals := (List.range l.length).zip (l.map fun e => upValue c.raw e.1)
                match s1.locate v row true with
                | (.at_ pa _ _, s2) =>
                  if !(sectorsOf pa v.rowBytes).all (fun q => s2.mapped (64 * q)) then ({ a with halt := some (0x06, none) }, s2)
                  else
                    go s2 { a with
                      ups := a.ups ++ s2.rowUps (upKey c.raw v) (bitOf (cMode c.raw) 7) v pa vals org i
                      rows := a.rows + 1 }
                | (.remote co, s2) => go s2 { a with remote := a.remote ++ [(co, row, i, vals)], rows := a.rows + 1 }
                | (.fault e, s2) => ({ a with halt := some (e, none) }, s2)
                | (.poison pa h, s2) => go (s2.poisonUnit pa h) { a with poisoned := true }

/-- Send an update packet to a receiver of this module (R130, R131); one to a fenced stack ends its command `ABORTED` (R100). -/
def State.sendUpk (s : State) (src epoch seq rcv lead cmd : Nat) (org : Origin) (ups : List UReq) : State :=
  if (s.server rcv).fenced then s.leadCmd lead cmd fun d => { d with aborted := true }
  else
  { s with
    upk := s.upk ++ [{ id := s.serial, src := src, epoch := epoch, seq := seq, rcv := rcv, lead := lead, cmd := cmd, org := org
                       ups := ups.map fun r => { r with pkt := s.serial }, open_ := ups.length }]
    serial := s.serial + 1 }

/-- The sender's number to a receiver, for a sub-command of a front end (R131). -/
def State.sendSub (s : State) (x rcv cmd : Nat) (org : Origin) (ups : List UReq) : State :=
  let src := srcStack x
  let n := (s.lastSent src rcv + 1) % 2 ^ 32
  (s.setLastSent src rcv n).sendUpk src (s.epochOf src) n rcv x cmd org ups

/-- The number under which the epoch of the module's own remote update flows is kept (R137). -/
def srcRemote : Nat := 0x6000

/-- Payload of a remote update packet (R118, R130; layout: log entry 37): table, epoch, row, the combining key, NOCOMB, the
first element, the position in the command's list and the command, then the elements. -/
def updatePayload (k : UKey) (nocomb : Bool) (tid epoch row first pos serial : Nat) (vals : List Nat) : List Byte :=
  toBytes 2 tid ++ toBytes 4 epoch ++ toBytes 8 row ++ toBytes 1 k.op ++ toBytes 1 k.ty
    ++ toBytes 1 ((if k.sr then 1 else 0) + if nocomb then 2 else 0) ++ toBytes 2 first ++ toBytes 4 pos ++ toBytes 4 serial
    ++ vals.flatMap (toBytes (if k.ty = 16 then 8 else 4))

/-- Send one row's updates to its owner, and note what the command then waits for (R116, R118). -/
def State.sendRemoteUps (s : State) (x serial : Nat) (k : UKey) (nocomb : Bool) (v : Version) (row pos : Nat) (co : Nat)
    (parts : List (Nat × Nat × List Nat)) : State :=
  parts.foldl (fun acc (_, first, vals) =>
    let key : FlowKey :=
      { src := BitVec.ofNat 18 acc.coord, dst := BitVec.ofNat 18 co, cls := 5, flow := BitVec.ofNat 12 (flowUpdate x) }
    let n := (acc.flowTxOf key).next
    (acc.flowSend co 5 (flowUpdate x) 4 (acc.epochOf srcRemote) 0 (updatePayload k nocomb v.tid v.epoch row first pos serial vals)).modCmd x
      serial fun d => { d with flows := d.flows ++ [(key, n)] }) s

/-- A scatter command of the stack is run by its front end: its positions in order, then an update packet to each receiver
(R113 to R118, R130). -/
def State.scatter (s : State) (x op : Nat) : State :=
  match s.startable x op with
  | none => s
  | some c =>
    if (List.range 20).any fun r => decide (1024 ≤ (s.upk.filter fun p => p.src == srcStack x && p.rcv == r).length) then s
    else
      let org : Origin := { src := c.src, epoch := c.epoch, serial := c.serial }
      let s0 := s.startCmd x c.serial
      let own := fun (t : State) ups => t.sendUpk c.src c.epoch c.seq x x c.serial org ups
      if s.cmdNeed x c = .lost then own (s.loseCmd x c.serial) []
      else match s.versOf c with
      | [] => own s0 []
      | v :: _ =>
        match s0.indexList x c (cN c.raw) with
        | (none, s1) => own (s1.endFault x c.serial 0x06) []
        | (some idx, s1) =>
          let (a, s2) := s1.scatterRows x c v org (valStride c.raw v) idx 0 {}
          let s3 := s2.modCmd x c.serial fun d =>
            let d1 := { d with rows := a.rows, oob := a.oob, poisoned := d.poisoned || a.poisoned, froze := a.frozen }
            match a.halt with
            | some (r, p) => d1.addFault r p
            | none => d1
          let s4 := if a.frozen then s3.count32 (pgTbl + 0x084) 1 else s3
          let toSrv := fun r => a.ups.filter fun q => serverOf q.unit == r
          let s5 := own s4 (toSrv x)
          let s6 := (List.range 20).foldl (fun acc r =>
            if r = x ∨ (toSrv r).isEmpty then acc else acc.sendSub x r c.serial org (toSrv r)) s5
          let k := upKey c.raw v
          a.remote.foldl (fun acc (co, row, pos, vals) =>
            acc.sendRemoteUps x c.serial k (bitOf (cMode c.raw) 7) v row pos co (groups 64 (vals.length + 1) 0 (vals.map (·.2)))) s6

/-- SCATTER_ADD (R113). -/
def execScatterAdd (x : StackId) (s : State) : Host.Outcome State Fault Refusal := .next (s.scatter x opADD)
/-- SCATTER_MAX (R113). -/
def execScatterMax (x : StackId) (s : State) : Host.Outcome State Fault Refusal := .next (s.scatter x opMAX)
/-- SCATTER_MIN (R113). -/
def execScatterMin (x : StackId) (s : State) : Host.Outcome State Fault Refusal := .next (s.scatter x opMIN)

/-! ## UPDATE_PACKET_RECEIVE and UPDATE_PACKET_ACK (R130 to R136) -/

/-- A receiver takes update packets: neither fenced nor off. -/
def State.receiverLive (s : State) (r : Nat) : Bool :=
  s.working && !(s.server r).fenced && (16 ≤ r || bitOf s.boot.stackSet.toNat r)

/-- A packet reaches its receiver for the first time (R134). A stale or violating packet is discarded; a duplicate is
acknowledged. -/
def State.upkArrive (s : State) (r : Nat) (p : UPkt) : State :=
  match s.seqCheck r p.src p.epoch p.seq with
  | (.accept, s1) => (s1.modUpk p.id fun q => { q with st := 1 }).routePacket p.id
  | (.dup, s1) => s1.modUpk p.id fun q => { q with st := 2, ups := [], open_ := 0 }
  | (_, s1) => { s1 with upk := s1.upk.filter fun q => q.id != p.id }

/-- UPDATE_PACKET_RECEIVE: the oldest update packet on its way to the receiver arrives; with `replay` n, a replay of its
n-th unacknowledged packet arrives, with its original source, epoch and number (R134, R136). -/
def execUpdatePacketReceive (r : ServerId) (replay : Option Nat) (s : State) : Host.Outcome State Fault Refusal :=
  if !s.receiverLive r then .next s
  else
    match replay with
    | none =>
      (match s.upk.find? fun p => p.rcv == r.val && p.st == 0 with
      | none => .next s
      | some p => .next (s.upkArrive r p))
    | some n =>
      match (s.upk.filter fun p => p.rcv == r.val)[n]? with
      | none => .next s
      | some p => if p.st = 0 then .next (s.upkArrive r p) else .next (s.seqCheck r p.src p.epoch p.seq).2

/-- UPDATE_PACKET_ACK: the oldest packet of the receiver whose every sector update is accepted is acknowledged; its sender
frees it (R135). -/
def execUpdatePacketAck (r : ServerId) (s : State) : Host.Outcome State Fault Refusal :=
  match s.upk.find? fun p => p.rcv == r.val && p.st == 2 with
  | none => .next s
  | some p => .next { s with upk := s.upk.filter fun q => q.id != p.id }

/-! ## SECTOR_UPDATE (R122, R123) -/

def uctSets (u : Nat) : Nat := if u < 512 then 512 else 256

/-- Update combining is on for a unit (R147). -/
def State.ucombining (s : State) (u : Nat) : Bool := if u < 512 then s.rbit (pgStk (u / 32) + 0x300) 0 else true

/-- What R123 does with a sector update. -/
inductive UAct where
  | failed
  | apply
  | combine
  | replace
  | allocate
  | evict (sector : Nat)
  | wait
  deriving DecidableEq, Repr

def uctSetOf (u sec : Nat) : Nat := Config.uctSet sec % uctSets u

/-- The first row of R123 that applies. Where it names a read-modify-write or a flush that a pin or a held channel forbids (R126,
R465), the update waits in the request queue (DESIGN CHOICE, log entry 140). -/
def State.updateAction (s : State) (u : Nat) (r : UReq) : UAct :=
  if s.chanSt (64 * r.sector) = 3 then .failed
  else if r.nocomb || !s.ucombining u then (if s.flushHeld r.sector then .wait else .apply)
  else
    let t := (s.unit u).uct
    match t.find? (·.sector == r.sector) with
    | some e => if e.key = r.key then .combine else if s.flushHeld r.sector then .wait else .replace
    | none =>
      let same := t.filter fun e => uctSetOf u e.sector == uctSetOf u r.sector
      if same.length < 16 then .allocate
      else match same.find? fun e => !s.pinned e.sector with
        | some e => if s.chanOff (64 * e.sector) then .wait else .evict e.sector
        | none => .wait

/-- Combine values into an entry (R119). -/
def UEnt.take (e : UEnt) (r : UReq) : UEnt :=
  { e with
    vals := r.vals.foldl (fun m (j, x) => match nfind m j with | some y => nset m j (ucombine r.key y x) | none => nset m j x) e.vals
    orgs := if e.orgs.contains r.org then e.orgs else e.orgs ++ [r.org]
    vers := if e.vers.contains (r.tid, r.ver) then e.vers else e.vers ++ [(r.tid, r.ver)] }

/-- A new entry for a sector update (R122). -/
def State.allocEntry (s : State) (u : Nat) (r : UReq) : State :=
  s.modUnit u fun k =>
    { k with uct := k.uct ++ [{ sector := r.sector, key := r.key, vals := r.vals, frame := s.pw.bounds, orgs := [r.org], vers := [(r.tid, r.ver)] }] }

/-- The first update of a queue that does not wait, with its action; an update never passes one to its own sector. -/
def State.pickUpdate (s : State) (u : Nat) : List UReq → List Nat → Option (UReq × UAct)
  | [], _ => none
  | r :: rs, seen =>
    if seen.contains r.sector then s.pickUpdate u rs seen
    else match s.updateAction u r with
      | .wait => s.pickUpdate u rs (r.sector :: seen)
      | a => some (r, a)

/-- A fault at a position of a list, of which the first position concerned is kept (R145). -/
def SCmd.faultAt (c : SCmd) (reason pos : Nat) : SCmd :=
  if c.fault && c.reason == reason then { c with firstpos := (c.firstpos.map fun q => min q pos).orElse fun _ => some pos }
  else c.addFault reason (some pos)

/-- A remote update that cannot be applied is reported to its sender, with its position where one is concerned, and acknowledged
once the report is (log entry 49). -/
def State.updateFails (s : State) (p : Packet) (status reason : Nat) (pos : Nat) : State :=
  let fl := flowPart (p.flow.toNat % 16)
  let key : FlowKey := { src := BitVec.ofNat 18 s.coord, dst := p.src, cls := 5, flow := BitVec.ofNat 12 fl }
  let n := (s.flowTxOf key).next
  ({ s with upFails := s.upFails ++ [((pktKey p, p.fseq.toNat), (key, n))] } : State).flowSend p.src.toNat 5 fl 7 0 0
    (toBytes 1 5 ++ toBytes 1 status ++ toBytes 1 reason ++ toBytes 2 p.flow.toNat ++ toBytes 4 p.fseq.toNat ++ toBytes 4 pos)

/-- A sector update whose channel has failed for good: its command ends with reason 0x06 at the first such position, at the module
that sent it where that is another (R145, R474). -/
def State.updateFailed (s : State) (r : UReq) : State :=
  match s.upk.find? fun p => p.id == r.pkt with
  | none => s
  | some p =>
    match p.back with
    | some q => (s.modUpk p.id fun k => { k with back := none }).updateFails q 3 0x06 r.pos
    | none => s.leadCmd p.lead p.cmd fun d => d.faultAt 0x06 r.pos

/-- SECTOR_UPDATE: an engine takes a sector update and combines, allocates, evicts, applies directly, or waits (R123). The flush of
a live entry before an update is applied by itself counts in FLEVICT (DESIGN CHOICE, log entry 140). -/
def execSectorUpdate (u : UnitId) (s : State) : Host.Outcome State Fault Refusal :=
  match s.pickUpdate u (s.unit u).uq [] with
  | none => .next s
  | some (r, act) =>
    let s0 := s.modUnit u fun k => { k with uq := k.uq.erase r }
    let s1 := match act with
      | .failed => s0.updateFailed r
      | .apply => (s0.flushSector u r.sector .evict).applyVals u r.sector r.key r.vals [r.org]
      | .combine =>
        (s0.modUnit u fun k => { k with uct := k.uct.map fun e : UEnt => if e.sector == r.sector then e.take r else e }).unitCount u 0x118 0 1
      | .replace => (s0.flushSector u r.sector .evict).allocEntry u r
      | .allocate => s0.allocEntry u r
      | .evict sec => (s0.flushSector u sec .evict).allocEntry u r
      | .wait => s0
    .next ((s1.upAccepted r.pkt).routeUpdates (serverOf u))

/-! ## Flush and seed registers (R124, R148) -/

/-- UCTCTL_FLUSH: every live entry of the engine is flushed (R124). -/
def execUctctlFlush (e : EngineId) (s : State) : Host.Outcome State Fault Refusal :=
  .next (if s.serves .sor then s.flushWhere e (fun _ => true) .other else s)

/-- SRSEED_WRITE: the generator restarts at the value written; 0 stores 1 (R42, R148). -/
def execSrseedWrite (e : EngineId) (v : Word) (s : State) : Host.Outcome State Fault Refusal :=
  .next (if s.serves .sor then s.setReg (pgSor e + 0x108) (if v = 0 then 1 else v.toNat) else s)

/-- A write of a queue's configuration (R56, R105, R106, R662, R663). -/
def State.cqcfg (s : State) (x q v : Nat) : State :=
  let off := pgStk x + 0x100 + 4 * q
  let old := s.reg off
  let new := v % 2 ^ 12
  if bitOf old 0 then
    let s1 := if bitOf new 0 then s else if s.queueOcc x q != 0 then s.refuse off 0x0D else s.setRfld off 0 1 0
    if new / 2 != old / 2 then s1.refuse off 0x0D else s1
  else if fld new 1 4 < 4 || 10 < fld new 1 4 then s.refuse off 0x01
  else
    let others := ((List.range 64).map fun i => if i ≠ q ∧ s.rbit (pgStk x + 0x100 + 4 * i) 0 = true then s.queueDepth x i else 0).foldl (· + ·) 0
    if bitOf new 0 && decide (8192 < others + 2 ^ fld new 1 4) then (s.setReg off (new / 2 * 2)).refuse off 0x86
    else s.setReg off new

/-- CQCFG_EN: a write of CQCFGq: setting `EN` enables the queue unless the enabled depths would exceed the command store;
clearing it needs an empty queue (R106). -/
def execCqcfgEn (x : StackId) (q : CmdQueue) (v : Word) (s : State) : Host.Outcome State Fault Refusal :=
  .next (if s.serves .stk then s.cqcfg x q v.toNat else s)

/-! ## UPDATE_FENCE (R139 to R143) -/

/-- The units of a receiver. -/
def unitsOf (r : Nat) : List Nat := if r < 16 then (List.range 32).map (32 * r + ·) else [512 + (r - 16)]

/-- H of the fence's source at a receiver has reached the number carried (R141). A fence whose epoch is older than the receiver's
entry counts as reached (DESIGN CHOICE, log entry 140). A fence from another module waits everywhere for the receiver of its flow,
from which updates go on to the others. -/
def State.reached (s : State) (c : SCmd) (r : Nat) : Bool :=
  (if c.reply.isSome then c.carried else c.carried.filter (·.1 == r)).all fun p =>
    let n := p.2
    let e := s.seqEntry p.1 c.src
    let de := (c.epoch + 256 - e.epoch % 256) % 256
    let h := if e.valid && de == 0 then e.h else 0
    n == 0 || (e.valid && decide (128 ≤ de)) || decide ((h + 2 ^ 32 - n) % 2 ^ 32 < 2 ^ 31)

/-- Covered updates for a receiver that no entry holds yet: in packets on their way to it, in packets whose sector updates belong to
it, in its queues, and, for a flow of another module, in packets that wait for an epoch and may come to any receiver. -/
def State.fencePending (s : State) (c : SCmd) (r : Nat) : Bool :=
  (s.upk.any fun p => (p.rcv == r || p.ups.any fun q => serverOf q.unit == r) && p.st != 2 && c.covers p.org
      && (p.st == 1 || p.org.src == c.src))
    || (s.epWaits.any fun w => (w.srv == r || c.reply.isSome) && w.pkt.kind == 4 && match s.declOf w.pkt.src.toNat w.pkt.flow.toNat with
      | some (_, i) => c.covers { src := srcDecl i, epoch := w.pkt.epoch.toNat, serial := w.serial, num := w.pkt.fseq.toNat }
      | none => false)
    || (unitsOf r).any fun u => (s.unit u).uq.any fun q => c.covers q.org

/-- What a receiver does with a fence (R141): the covered entries are flushed, pinned ones later (R143). The flag says that every
covered update is applied. -/
def State.fenceAt (s : State) (c : SCmd) (r : Nat) : Bool × State :=
  if !s.reached c r || s.fencePending c r then (false, s)
  else
    let cov := fun e : UEnt => e.orgs.any c.covers
    let s1 := (unitsOf r).foldl (fun acc u => if (acc.unit u).uct.any cov then acc.flushWhere u cov .fence else acc) s
    (!((unitsOf r).any fun u => (s1.unit u).uct.any cov), s1)

/-- The receivers a fence covers on this module (R140): 32 stands for the remote receivers. -/
def State.fenceScope (s : State) (x : Nat) (c : SCmd) : List Nat :=
  if fScope c.raw = 0 then [x]
  else
    ((List.range 16).filter fun r => bitOf s.boot.stackSet.toNat r) ++ [16, 17, 18, 19]
      ++ (if fScope c.raw = 2 ∧ s.top.slice.isSome then [32] else [])

/-- Scatter commands of the issuer, placed before the fence, whose front end has not run them (R140). -/
def State.unsent (s : State) (c : SCmd) : Bool :=
  let earlier := fun d : SCmd => isScatter (cOp d.raw) && d.src == c.src && decide (d.serial < c.serial)
  s.servers.any fun p =>
    (p.2.queues.any fun q => q.2.any earlier) || p.2.cmds.any fun d => earlier d && !d.started && d.refused.isNone && !d.aborted

/-- Send a fence to the receivers of the module's remote update flows, with the flows' present epoch and the number carried
(R141). -/
def State.fanRemote (s : State) (x : Nat) (c : SCmd) : State :=
  let fs := s.flowTx.filter fun f => f.key.cls == 5 && decide (f.key.flow.toNat < 16) && f.next != 1
  fs.foldl (fun acc f =>
    (acc.flowSend f.key.dst.toNat 5 (flowFence x) 7 0 0
      (toBytes 1 1 ++ toBytes 1 x ++ toBytes 4 c.serial ++ toBytes 2 f.key.flow.toNat ++ toBytes 4 (acc.flowLast f.key)
        ++ toBytes 1 (if fAllSrc c.raw then 1 else 0) ++ toBytes 1 (acc.epochOf srcRemote))).modCmd x c.serial fun d => { d with left := d.left + 1 }) s

/-- One receiver of a fence. -/
def State.fenceOne (s : State) (x serial r : Nat) : State :=
  match s.cmd x serial with
  | none => s
  | some c =>
    if c.aborted then s
    else if r = 32 then (s.modCmd x serial fun d => { d with waitFor := d.waitFor.filter (· != 32) }).fanRemote x c
    else if (s.server r).fenced then s.modCmd x serial fun d => { d with aborted := true }
    else
      let (fin, s1) := s.fenceAt c r
      s1.modCmd x serial fun d => { d with waitFor := if fin then d.waitFor.filter (· != r) else d.waitFor }

/-- A fence goes as far as it can. -/
def State.runFence (s : State) (x : Nat) (c : SCmd) : State :=
  let rs := if c.started then c.waitFor else s.fenceScope x c
  let s1 := if c.started then s else s.modCmd x c.serial fun d => { d with started := true, waitFor := rs }
  if fScope c.raw ≠ 0 ∧ s1.unsent c = true then s1 else rs.foldl (fun acc r => acc.fenceOne x c.serial r) s1

/-- UPDATE_FENCE: each fence of the stack goes as far as it can: at each covered receiver it waits for the carried number,
then the covered entries are flushed and the receiver reports (R141). -/
def execUpdateFence (x : StackId) (s : State) : Host.Outcome State Fault Refusal :=
  if !s.stackLive x then .next s
  else
    .next (((s.server x).cmds.filter fun c => cOp c.raw == opFENCE && c.refused.isNone && !c.aborted && (!c.started || !c.waitFor.isEmpty)).foldl
      (fun acc c => acc.runFence x c) s)

/-- The lowest stack that serves commands. -/
def State.firstStack (s : State) : Option Nat := (List.range 16).find? s.stackLive

/-- A fence that no queue holds: of a core's FENCE.S, or from another module. It stands as an accepted command whose queue
number is 64. -/
def State.addFence (s : State) (x : Nat) (c : SCmd) : State :=
  ({ s with serial := s.serial + 1 } : State).modServer x fun k => { k with cmds := k.cmds ++ [c] }

/-- A fence arrives from another module for the source entry of a receiver (R141). -/
def State.remoteFence (s : State) (coord lead serial rcv src n epoch : Nat) (allsrc : Bool) : State :=
  match s.firstStack with
  | none => s.sendFenceReport coord lead serial 0x04
  | some x =>
    s.addFence x
      { serial := s.serial, queue := 64, raw := opFENCE + 2 ^ 48 * (if allsrc then 5 else 1), src := src
        epoch := epoch, carried := [(rcv, n)], bound := s.serial, started := true
        waitFor := s.fenceScope x { serial := 0, queue := 64, raw := opFENCE + 2 ^ 48, src := 0, epoch := 0 }
        reply := some (coord, lead, serial) }

/-! ## FENCE.S (R278, R367, R417, R418) -/

/-- FENCE.S. Loads, stores, engine accesses, range operations and bead operations of the core complete where they are
executed, so the scopes up to the die are met at once; at device and global scope the core waits for an update fence over
its own scatter commands. -/
def fenceInstr (c : Nat) (sc : FenceScope) (s : State) : IRes :=
  let wide := sc == .device || sc == .global
  match (s.core c).fencing with
  | some (x, serial) =>
    if (s.cmd x serial).isSome then .stall s else .done (s.modCore c fun k => { k with fencing := none })
  | none =>
    let src := srcCore c
    if !wide || !(s.seqTx.any fun p => p.1 / 32 == src) then .done s
    else
      match s.firstStack with
      | none => .done s
      | some x =>
        .stall ((s.addFence x
          { serial := s.serial, queue := 64, raw := opFENCE + 2 ^ 48 * (if sc == .global then 2 else 1), src := src
            epoch := s.epochOf src, carried := (List.range 20).map fun r => (r, s.lastSent src r), bound := s.serial }).modCore c fun k =>
              { k with fencing := some (x, s.serial) })

def execFenceS (c : CoreId) (scope : FenceScope) (s : State) : Host.Outcome State Fault Refusal :=
  .next (s.issue c (.fence scope) (fenceInstr c scope))

end Sys2Proof.Machine
end

