-- ==== Sys2Proof/Machine/SorusGraph.lean ====
section
/-! DEFINITION. Machine/SorusGraph.lean: graph aggregation: expansion, sampling, hub splitting, the rows it opens (R195 to
R222), and the resuming of routing contexts (R83, R219). -/

namespace Sys2Proof.Machine

open Sys2Proof

/-! ## The graph's arrays (R195, R196, R198, R199) -/

def gNvert (g : Nat) : Nat := dfld g 0 6
def gNedge (g : Nat) : Nat := dfld g 8 6
def gOff (g : Nat) : Nat := dfld g 16 6
def gNbr (g : Nat) : Nat := dfld g 24 6
def gEw (g : Nat) : Nat := dfld g 32 6
def gIdW (g : Nat) : Nat := if bitOf (dfld g 40 1) 0 then 8 else 4
def gEwFmt (g : Nat) : Nat := dfld g 41 1 % 16

/-- What stands in place of a reason where a read must wait for its channel: the command goes on later (R99, R473). -/
def graphWait : Nat := 0

/-- What stands in place of a reason where a read needs a fenced PHY die: the command ends `ABORTED` (R477). -/
def graphLost : Nat := 0x100

/-- What becomes of a command that stops in the middle of its expansion: none where it waits, and is tried again later. -/
def State.graphStop (s : State) (x serial r : Nat) : Option State :=
  if r = graphWait then none else if r = graphLost then some (s.loseCmd x serial) else some (s.endFault x serial r)

/-- Read elements of a graph array: reason 0x8D in the host window, 0x06 where an address does not translate (R64, R198). -/
def State.graphList (s : State) (x va n w : Nat) : Except Nat (List (Nat × Bool)) × State :=
  if n = 0 then (.ok [], s)
  else
    match s.xlateRange (agStack x) va (n * w) false with
    | (.error _, s1) => (.error 0x06, s1)
    | (.ok ps, s1) =>
      if ps.any fun p => (match placeOf p.1.pa with | .host => true | _ => false) then (.error 0x8D, s1)
      else if !s1.piecesOk ps then (.error 0x06, s1)
      else match needAll (fun p => s1.readNeed p.1.pa p.2) ps with
      | .lost => (.error graphLost, s1)
      | .wait => (.error graphWait, s1)
      | .go =>
        let s2 := s1.meetPieces ps
        let l := s2.pieceElems w ps
        (.ok l, if l.any (·.2) then s2.fatal .stk x 0x83 else s2)

/-- The degree and first position of a vertex; malformed or poisoned ones stand as degree 0 (R196, R199). -/
structure VEdges where
  start : Nat := 0
  deg : Nat := 0
  malformed : Bool := false
  poison : Bool := false

def State.vertexEdges (s : State) (x g v : Nat) : Except Nat VEdges × State :=
  match s.graphList x (gOff g + 8 * v) 2 8 with
  | (.error r, s1) => (.error r, s1)
  | (.ok l, s1) =>
    let a := (l.headD (0, false)).1
    let b := ((l.drop 1).headD (0, false)).1
    if l.any (·.2) then (.ok { poison := true }, s1)
    else if b < a || gNedge g < b then (.ok { malformed := true }, s1.count32 (pgSor (32 * x) + 0x2B0) 1)
    else (.ok { start := a, deg := b - a }, s1)

/-- An edge as expansion reads it: the neighbour, its weight, whether the id and the weight were read poisoned. -/
structure Edge where
  id : Nat
  w : Nat
  poison : Bool
  wbad : Bool
  deriving DecidableEq

/-- Read `n` edges from a position on, with their weights under `WSUM`. -/
def State.edgesAt (s : State) (x g : Nat) (wsum : Bool) (lo n : Nat) : Except Nat (List Edge) × State :=
  match s.graphList x (gNbr g + lo * gIdW g) n (gIdW g) with
  | (.error r, s1) => (.error r, s1)
  | (.ok ids, s1) =>
    if !wsum then (.ok (ids.map fun e => ⟨e.1, 0, e.2, false⟩), s1)
    else
      match s1.graphList x (gEw g + lo * esz (gEwFmt g)) n (esz (gEwFmt g)) with
      | (.error r, s2) => (.error r, s2)
      | (.ok ws, s2) => (.ok ((ids.zip ws).map fun (i, w) => ⟨i.1, weight32 (gEwFmt g) w.1, i.2, w.2⟩), s2)

/-- A vertex id is out of range for the graph or the feature table (R212). -/
def vOob (g : Nat) (vs : List Version) (v : Nat) : Bool :=
  decide (gNvert g ≤ v) || match vs with
  | t :: _ => t.hmode == 0 && decide (t.nrows ≤ v)
  | [] => false

/-- FP32 1.0, the weight of a SELF row (R203, R207). -/
def one32 : Nat := 0x3F800000

/-- Count out-of-range ids (R212). -/
def State.countOob (s : State) (x serial n : Nat) : State :=
  if n = 0 then s else (s.count64 (pgStk x + 0x078) n).modCmd x serial fun d => { d with oob := d.oob + n }

/-! ## Rows in the merge tree (R218, R219) -/

/-- Open output rows of graph commands at a lead stack (R219). -/
def State.openRows (s : State) (x : Nat) : Nat :=
  let k := s.server x
  let graph := fun serial => k.cmds.any fun c => c.serial == serial && isGraphOp (cOp c.raw)
  (k.bags.filter fun b => b.lead == x && (match b.sink with | .bag _ _ => false | _ => true) && graph b.cmd).length

/-- Resolve rows of vertices in order. -/
def State.resolveVerts (s : State) (vs : List Version) : List (Nat × Nat) → Resolved → Resolved × State
  | [], r => (r, s)
  | (v, w) :: l, r =>
    let (_, r1, s1) := s.resolveIdx vs v w r
    s1.resolveVerts vs l r1

/-- Give the whole rows that stacks other than `y` hold to those stacks; their partials join the row `root` of the lead
(R218). -/
def State.treeRows (s : State) (y : Nat) (b : Bag) (root : Nat × Nat) (r : Resolved) : Resolved × State :=
  let mine := fun q : RowRef => q.comp.isSome || q.srv == y
  let far := r.refs.filter fun q => !mine q
  let others := (List.range 16).filter fun z => far.any (·.srv == z)
  ({ r with refs := r.refs.filter mine },
   others.foldl (fun acc z =>
    (acc.addSub z (b.sub (far.filter (·.srv == z)) (.bag root.1 root.2))).modBag root.1 root.2 fun k => { k with left := k.left + 1 })
    (s.noteSpread root (r.refs.any (·.srv != b.lead)) false))

/-- Open a bag of graph rows at stack `y`, which is or joins the row `root` of the lead (R218). -/
def State.openTree (s : State) (y : Nat) (b : Bag) (root : Nat × Nat) (r : Resolved) : List Req × State :=
  let (mine, _) := s.treeRows y b root r
  let (reqs, s1) := s.openBag y b mine
  (reqs, (s1.treeRows y { b with uid := root.2 } root r).2)

/-! ## Hub splitting (R214 to R217) -/

/-- The spread order of a lead stack (R216). -/
def spreadOrder (x : Nat) : List Nat :=
  let die := fun (d at_ : Nat) => (List.range 8).map fun i => 8 * d + (at_ + i) % 8
  die (x / 8) (x % 8) ++ die (1 - x / 8) (x % 8)

/-- An engine of a stack that is on, from the one named onwards (R216). -/
def State.engineFrom (s : State) (y e : Nat) : Option Nat :=
  ((List.range 32).map fun i => 32 * y + (e + i) % 32).find? s.engineOn

/-- The chunks of a hub's edges, each with the engine that it is dealt to (R214, R216). A stack with no engine that is on is left out
of the list, k counts over the stacks that the list has, and with none the chunks go to the lead's engine 0 (DESIGN CHOICE, log
entry 152). -/
def State.cutHub (s : State) (x serial bag h start : Nat) (edges : List (Nat × Nat × Bool)) : List (Nat × Chunk) :=
  let d := edges.length
  let c := (d + h - 1) / h
  let cps := max (s.rfld (pgSor (32 * x) + 0x28C) 0 8) 1
  let want := min ((c + cps - 1) / cps) (s.rfld (pgSor (32 * x) + 0x28C) 8 5)
  let ok := (spreadOrder x).filter fun y =>
    bitOf s.boot.stackSet.toNat y && s.enabled (pgStk y) && !(s.server y).fenced && (s.engineFrom y 0).isSome
  let st := ok.take want
  let n := max st.length 1
  (List.range c).map fun k =>
    ((s.engineFrom (st.getD (k % n) x) (k / n % 32)).getD (32 * x),
      { cmd := serial, lead := x, bag := bag, lo := start + k * h, hi := start + min ((k + 1) * h) d
        edges := (((edges.drop (k * h)).take h).filter (·.2.2)).map fun e => (e.1, e.2.1) })

/-- Deal a command's chunks in order, up to the first whose engine is full (R217). -/
def State.deal (s : State) : List (Nat × Chunk) → List (Nat × Chunk) × State
  | [] => ([], s)
  | (u, c) :: l =>
    if (s.unit u).chunks.length < 64 then (s.modUnit u fun k => { k with chunks := k.chunks ++ [c] }).deal l
    else ((u, c) :: l, s)

def State.dealCmd (s : State) (x serial : Nat) : State :=
  match s.cmd x serial with
  | none => s
  | some c =>
    let (rest, s1) := s.deal c.chunks
    s1.modCmd x serial fun d => { d with chunks := rest }

/-- A hub's chunks have all been expanded: the rows found on other modules are asked for, in one request to each owner (R90,
R222). -/
def State.closeHub (s : State) (x uid : Nat) : State :=
  match (s.server x).bags.find? fun b => b.uid == uid && b.chunksLeft == 0 && !b.far.isEmpty with
  | none => s
  | some b =>
    let s1 := (s.modBag x uid fun k => { k with far := [] }).noteSpread (x, uid) false true
    match s1.spreadBag x b with
    | none => s1.lostBag x b
    | some s2 => s2.sendRemote x b b.far

/-- Open one output row (R202, R206, R218). -/
def State.openSpec (s : State) (x : Nat) (c : SCmd) (j : PoolJob) (sp : RowSpec) : State :=
  let b : Bag :=
    { uid := s.serial, cmd := c.serial, lead := x, pos := 0, n := sp.n, kind := j.kind, nelem := j.nelem, ofmt := j.ofmt
      dst := cDst j.raw + sp.out * j.stride, bytes := j.bytes, sink := .row }
  let s1 := { s with serial := s.serial + 1 }
  if sp.poison then s1.addSpoilt x b
  else
    let (r0, s2) := s1.resolveVerts j.vers sp.rows {}
    let r := { r0 with zeros := r0.zeros ++ sp.zeros }
    match r.fault with
    | some e => (if r.poison then s2.lostPoison x c.serial else s2).endFault x c.serial e
    | none =>
      if r.poison then s2.addSpoilt x b
      else
        match sp.hub with
        | none =>
          let (reqs, s3) := s2.openTree x b (x, b.uid) r
          s3.modCmd x c.serial fun d => { d with todo := d.todo ++ reqs }
        | some (start, edges) =>
          let far := r.remote.filter fun q => !comesBack b q
          let cs := s2.cutHub x c.serial b.uid (2 ^ c.hlog) start edges
          let (reqs, s3) := s2.openTree x { b with left := cs.length, chunksLeft := cs.length, far := far } (x, b.uid)
            { r with remote := r.remote.filter (comesBack b) }
          (s3.modCmd x c.serial fun d => { d with todo := d.todo ++ reqs, chunks := d.chunks ++ cs }).closeHub x b.uid

/-- Open a command's rows while the merge tree has room and no indirection entry makes the next wait; deal its chunks and route
its requests (R83, R167, R217, R219). -/
def State.openWaiting (s : State) (x serial : Nat) : Nat → State
  | 0 => (s.dealCmd x serial).routeCmd x serial
  | f + 1 =>
    match s.cmd x serial with
    | none => s
    | some c =>
      match c.waiting with
      | [] => (s.dealCmd x serial).routeCmd x serial
      | sp :: rest =>
        if c.stop || c.aborted then (s.modCmd x serial fun d => { d with waiting := [] }).openWaiting x serial f
        else if 4096 ≤ s.openRows x ∨ s.sendStuck x = true then (s.dealCmd x serial).routeCmd x serial
        else match needAll (fun v => s.indexNeed (s.versOf c) v.1) sp.rows with
        | .wait => (s.dealCmd x serial).routeCmd x serial
        | .lost => (s.loseCmd x serial).openWaiting x serial f
        | .go => ((s.modCmd x serial fun d => { d with waiting := rest }).openSpec x c (s.poolJob x c) sp).openWaiting x serial f

def State.resumeCmd (s : State) (x serial : Nat) : State :=
  match s.cmd x serial with
  | none => s
  | some c => s.openWaiting x serial (c.waiting.length + 1)

/-- ROUTING_CONTEXT_RESUME: contexts that waited for room go on (R83, R219); so do the updates and sub-commands the stack
holds. -/
def execRoutingContextResume (x : StackId) (s : State) : Host.Outcome State Fault Refusal :=
  if !s.stackLive x then .next s
  else
    let s1 := ((s.server x).cmds.filter fun c => c.started && !(c.todo.isEmpty && c.waiting.isEmpty && c.chunks.isEmpty)).foldl
      (fun acc c => acc.resumeCmd x c.serial) s
    .next ((s1.routeServer x).routeUpdates x)

/-! ## NEIGH_AGG (R200 to R203, R212 to R217) -/

/-- Edges that pool: out-of-range ones contribute nothing under SKIP and a zero row under ZERO (R212). -/
def splitOob (g : Nat) (vs : List Version) (l : List Edge) : List Edge × List Edge :=
  (l.filter fun e => !vOob g vs e.id, l.filter fun e => vOob g vs e.id)

/-- The fault of an out-of-range id or a malformed vertex, at a seed's position. -/
def State.seedFault (s : State) (x serial reason p : Nat) : State := s.modCmd x serial fun d => d.addFault reason (some p)

/-- What was read for an edge spoils the row that pools it: its id, or, unless the edge is out of range and contributes nothing, its
weight (R98, R212). -/
def Edge.spoils (g : Nat) (vs : List Version) (zero : Bool) (e : Edge) : Bool := e.poison || (e.wbad && (zero || !vOob g vs e.id))

/-- The row of a seed whose edges have been read (R202, R203, R212): its out-of-range neighbours count whatever was read poisoned, and
under FAULT leave it unwritten; `hub` is a hub's first edge position (R214). -/
def State.neighRow (s : State) (x : Nat) (c : SCmd) (vs : List Version) (p v : Nat) (es : List Edge) (hub : Option Nat) :
    Option RowSpec × State :=
  let g := c.graph
  let zero := cOob c.raw == 2
  let clean := es.filter (!·.poison)
  let (ok, out) := splitOob g vs clean
  let s1 := if es.any fun e => e.poison || e.wbad then s.meetPoison x c.serial else s
  let s2 := s1.countOob x c.serial out.length
  let bad := es.any (Edge.spoils g vs zero)
  if !out.isEmpty && cOob c.raw == 0 then
    (none, (if bad then s2.lostPoison x c.serial else s2).seedFault x c.serial 0x87 p)
  else if bad then (some { out := p, seed := p, poison := true }, s2)
  else
    let self := if bitOf (cMode c.raw) 4 then [(v, one32)] else []
    let z := if zero then out.map (·.w) else []
    (some { out := p, seed := p, rows := self ++ (if hub.isNone then ok.map fun e => (e.id, e.w) else []), zeros := z
            n := ok.length + z.length + self.length
            hub := hub.map fun start => (start, es.map fun e => (e.id, e.w, !vOob g vs e.id)) }, s2)

/-- The row of one seed, if one is to be written; a reason ends the command (R198), or it waits. -/
def State.neighSeed (s : State) (x : Nat) (c : SCmd) (vs : List Version) (p : Nat) (seed : Nat × Bool) :
    Except Nat (Option RowSpec) × State :=
  let g := c.graph
  if seed.2 then (.ok (some { out := p, seed := p, poison := true }), s.meetPoison x c.serial)
  else if vOob g vs seed.1 then
    (let s1 := s.countOob x c.serial 1
     if cOob c.raw = 0 then (.ok none, s1.seedFault x c.serial 0x87 p) else (.ok (some { out := p, seed := p }), s1))
  else
    match s.vertexEdges x g seed.1 with
    | (.error r, s1) => (.error r, s1)
    | (.ok v, s1) =>
      if v.malformed then (.ok none, s1.seedFault x c.serial 0x8E p)
      else if v.poison then (.ok (some { out := p, seed := p, poison := true }), s1.meetPoison x c.serial)
      else
        -- each edge of a hub is read once too, and its out-of-range neighbours are judged before any of the row is done (R212, R223)
        match s1.edgesAt x g (cPool c.raw == 5) v.start v.deg with
        | (.error r, s2) => (.error r, s2)
        | (.ok es, s2) =>
          let hub := decide (2 ^ c.hlog < v.deg)
          let s3 := if hub then s2.count64 (pgSor (32 * x) + 0x294) 1 else s2.count64 (pgSor (32 * x) + 0x2A8) v.deg
          let (sp, s4) := s3.neighRow x c vs p seed.1 es (if hub then some v.start else none)
          (.ok sp, s4)

/-- The rows of the seeds in order; none when a read must wait. -/
def State.neighSeeds (s : State) (x : Nat) (c : SCmd) (vs : List Version) : Nat → List (Nat × Bool) → Option State
  | _, [] => some s
  | p, seed :: l =>
    match s.neighSeed x c vs p seed with
    | (.error r, s1) => s1.graphStop x c.serial r
    | (.ok none, s1) => s1.neighSeeds x c vs (p + 1) l
    | (.ok (some sp), s1) => (s1.modCmd x c.serial fun d => { d with waiting := d.waiting ++ [sp] }).neighSeeds x c vs (p + 1) l

/-- NEIGH_AGG: the seeds' neighbours are expanded in order, and each seed's row is opened (R202). -/
def execNeighAgg (x : StackId) (s : State) : Host.Outcome State Fault Refusal :=
  match s.startable x opNEIGH with
  | none => .next s
  | some c =>
    let s0 := s.startCmd x c.serial
    if s.cmdNeed x c = .lost then .next (s.loseCmd x c.serial)
    else if c.stop then .next s0
    else
      match s0.readList (agStack x) (dfld c.raw 8 6) (cN c.raw) (cIdxW c.raw) .stk x with
      | (none, s1) => .next (s1.endFault x c.serial 0x06)
      | (some seeds, s1) =>
        match s1.neighSeeds x c (s1.versOf c) 0 seeds with
        | none => .next s
        | some s2 => .next (s2.resumeCmd x c.serial)

/-- A chunk's neighbours at an engine (R217): the rows of its stack are pooled, at the lead in the row's own bag (R218), elsewhere
into a partial for it; rows of other stacks are sent there; rows of other modules are gathered until the hub's last chunk (R222). -/
def State.expandChunk (s : State) (e : Nat) (k : Chunk) : State :=
  let y := e / 32
  let x := k.lead
  let drop := fun (n : Nat) (t : State) => t.modBag x k.bag fun b => { b with left := b.left - n, chunksLeft := b.chunksLeft - 1 }
  match s.cmd x k.cmd, (s.server x).bags.find? fun b => b.uid == k.bag with
  | some c, some row =>
    if c.stop || c.aborted then drop 1 s
    else
      let vs := s.versOf c
      let s1 := (s.count64 (pgSor e + 0x208) 1).count64 (pgSor e + 0x210) (k.hi - k.lo)
      let (r, s2) := s1.resolveVerts vs k.edges { ord := if y = x then row.ords else 0 }
      match r.fault with
      | some f => (drop 1 (if r.poison then s2.lostPoison x k.cmd else s2)).endFault x k.cmd f
      | none =>
        let s3 := ((if r.poison then s2.meetPoison x k.cmd else s2).modBag x k.bag fun b =>
          { b with poison := b.poison || r.poison, far := b.far ++ r.remote.filter fun q => !comesBack row q }).noteSpread (x, k.bag)
            (r.refs.any (·.srv != x)) (!r.remote.isEmpty)
        let r1 := { r with remote := r.remote.filter (comesBack row) }
        if y = x then
          let (mine, s4) := (drop 1 s3).treeRows x row (x, k.bag) r1
          let (reqs, s5) := s4.ownRows x row mine.refs
          let s6 := (s5.modBag x k.bag fun b => b.expect mine reqs).sendRemote x row mine.remote
          ((s6.modCmd x k.cmd fun d => { d with todo := d.todo ++ reqs }).closeHub x k.bag).routeCmd x k.cmd
        else
          let b : Bag :=
            { uid := s3.serial, cmd := row.cmd, lead := x, pos := 0, n := row.n, kind := row.kind, nelem := row.nelem, ofmt := row.ofmt
              dst := row.dst, bytes := row.bytes, sink := .bag x k.bag }
          let (reqs, s4) := ({ drop 0 s3 with serial := s3.serial + 1 } : State).openTree y b (x, k.bag) r1
          ((s4.modServer y fun v => { v with todo := v.todo ++ reqs }).closeHub x k.bag).routeServer y
  | _, _ => s

/-- CHUNK_TASK_EXPAND: an engine's control core expands the oldest chunk that it holds, unless an indirection entry makes it wait
(R167, R217). -/
def execChunkTaskExpand (e : EngineId) (s : State) : Host.Outcome State Fault Refusal :=
  match (s.unit e).chunks with
  | [] => .next s
  | k :: rest =>
    let need : Need := match s.cmd k.lead k.cmd with
      | some c => if c.stop then .go else needAll (fun v => s.indexNeed (s.versOf c) v.1) k.edges
      | none => .go
    let s1 := s.modUnit e fun u => { u with chunks := rest }
    .next (match need with
      | .wait => s
      | .lost => s1.loseCmd k.lead k.cmd
      | .go => s1.expandChunk e k)

/-! ## SAMPLE_AGG (R204 to R212) -/

/-- mix64 of R210. -/
def mix64 (z : Nat) : Nat :=
  let z1 := z ^^^ (z >>> 30)
  let z2 := z1 * 0xBF58476D1CE4E5B9 % 2 ^ 64
  let z3 := z2 ^^^ (z2 >>> 27)
  let z4 := z3 * 0x94D049BB133111EB % 2 ^ 64
  z4 ^^^ (z4 >>> 31)

/-- Draw j of an expansion, below i + 1: from the key, or from the hardware random source when RSEED is 0 (R210, R211). -/
def State.draw (s : State) (key : Option Nat) (j i : Nat) : Nat × State :=
  match key with
  | some k => (((mix64 ((k + j * 0x9E3779B97F4A7C15) % 2 ^ 64) >>> 32) * (i + 1)) >>> 32, s)
  | none => (((((Config.randomBytes s.free).toNat % 2 ^ 64) >>> 32) * (i + 1)) >>> 32, { s with free := s.free + 1 })

/-- The loop of R209: `left` draws remain, the next is draw `j` at `i`. -/
def State.choose (s : State) (key : Option Nat) : Nat → Nat → Nat → List Nat → List Nat × State
  | 0, _, _, ch => (ch, s)
  | left + 1, j, i, ch =>
    let (t, s1) := s.draw key j i
    s1.choose key left (j + 1) (i + 1) (insNat ch (if ch.contains t then i else t))

/-- A sampled vertex in a slot, and whether its id and its edge's weight were read poisoned. -/
structure Smp where
  id : Nat
  w : Nat
  poison : Bool
  wbad : Bool
  oob : Bool
  deriving DecidableEq

/-- The expansion of one vertex at one hop: its slots, and what spoils the rows that depend on it. -/
structure Hop where
  slots : List (Option Smp)
  malformed : Bool := false
  poison : Bool := false

/-- Sample up to `f` neighbours of a vertex (R209). -/
def State.sampleAt (s : State) (x g : Nat) (wsum : Bool) (vs : List Version) (key : Option Nat) (v f : Nat) :
    Except Nat Hop × State :=
  match s.vertexEdges x g v with
  | (.error r, s1) => (.error r, s1)
  | (.ok ve, s1) =>
    let empty := List.replicate f none
    if ve.malformed || ve.poison then (.ok { slots := empty, malformed := ve.malformed, poison := ve.poison }, s1)
    else
      let smp := fun e : Edge => some { id := e.id, w := e.w, poison := e.poison, wbad := e.wbad, oob := !e.poison && vOob g vs e.id : Smp }
      if ve.deg ≤ f then
        match s1.edgesAt x g wsum ve.start ve.deg with
        | (.error r, s2) => (.error r, s2)
        | (.ok es, s2) => (.ok { slots := (es.map smp ++ empty).take f }, s2.count64 (pgSor (32 * x) + 0x2A8) ve.deg)
      else
        let (ch, s2) := s1.choose key f 1 (ve.deg - f) []
        let s3 := (s2.count64 (pgSor (32 * x) + 0x2A0) f).count64 (pgSor (32 * x) + 0x2A8) f
        let rec go (t : State) : List Nat → Except Nat (List (Option Smp)) × State
          | [] => (.ok [], t)
          | q :: l =>
            match t.edgesAt x g wsum (ve.start + q) 1 with
            | (.error r, t1) => (.error r, t1)
            | (.ok es, t1) =>
              match go t1 l with
              | (.error r, t2) => (.error r, t2)
              | (.ok rest, t2) => (.ok (es.map smp ++ rest), t2)
        match go s3 ch with
        | (.error r, s4) => (.error r, s4)
        | (.ok sl, s4) => (.ok { slots := sl }, s4)

/-- One group of slots of a hop: its parent, the parent's slot number, what was sampled, and whether the rows that depend on
the group are unwritten or poisoned. -/
structure Grp where
  parent : Option Smp
  slots : List (Option Smp)
  bad : Bool
  poison : Bool

/-- The slots of a group with the spoiling that their children inherit. -/
def Grp.children (g : Grp) : List (Option Smp × Bool × Bool) :=
  g.slots.map fun o => (o, g.bad, g.poison || match o with | some v => v.poison | none => false)

/-- Expand the parents of one hop in slot order (R205): `h` the hop, `f` its fanout, `pk` the P of R210 for a parent's slot
number. -/
def State.expandHop (s : State) (x g : Nat) (wsum : Bool) (vs : List Version) (base : Option Nat) (h f : Nat) (pk : Nat → Nat) :
    Nat → List (Option Smp × Bool × Bool) → Except Nat (List Grp) × State
  | _, [] => (.ok [], s)
  | i, (o, bad, poison) :: l =>
    let key := base.map fun k => k ^^^ (h * 4096 + pk i)
    let live := match o with | some v => if v.oob || v.poison then none else some v | none => none
    let (res, s1) : Except Nat Hop × State := match live with
      | some v => s.sampleAt x g wsum vs key v.id f
      | none => (.ok { slots := List.replicate f none }, s)
    match res with
    | .error r => (.error r, s1)
    | .ok hp =>
      match s1.expandHop x g wsum vs base h f pk (i + 1) l with
      | (.error r, s2) => (.error r, s2)
      | (.ok gs, s2) => (.ok ({ parent := live, slots := hp.slots, bad := bad || hp.malformed, poison := poison || hp.poison } :: gs), s2)

/-- A row that pools groups (R206, R207, R212): its vertices, zero rows and n; poison of a group, of a sampled id, or of the weight of
an edge that contributes. A row depends on a malformed vertex when it pools that vertex's neighbours or theirs, not when it pools the
vertex's own feature row (R199; DESIGN CHOICE, log entry 153), and an out-of-range parent adds no SELF row (log entry 154). -/
def poolGroups (self zero : Bool) (out p : Nat) (gs : List Grp) : Option RowSpec :=
  if gs.any (·.bad) then none
  else
    let smps := gs.flatMap fun g => g.slots.filterMap id
    let rows := (smps.filter fun v => !v.oob).map fun v => (v.id, v.w)
    let selfs := if self then gs.filterMap fun g => g.parent.map fun v => (v.id, one32) else []
    let z := if zero then (smps.filter (·.oob)).map (·.w) else []
    some { out := out, seed := p, rows := selfs ++ rows, zeros := z, n := selfs.length + rows.length + z.length
           poison := gs.any (·.poison) || smps.any fun v => v.poison || (v.wbad && (zero || !v.oob)) }

/-- Rows per seed (R206). -/
def rowsPerSeed (tree : Bool) (hops f1 f2 : Nat) : Nat :=
  if !tree then hops else match hops with | 1 => 1 | 2 => 1 + f1 | _ => 1 + f1 + f1 * f2

/-- The hops of one seed: the groups of each. -/
def State.sampleHops (s : State) (x : Nat) (c : SCmd) (vs : List Version) (p seed : Nat) : Except Nat (List (List Grp)) × State :=
  let raw := c.raw
  let g := c.graph
  let wsum := cPool raw == 5
  let hops := fld (cFmt raw) 4 2
  let fan := dfld raw 42 3
  let f1 := fld fan 0 6 + 1
  let f2 := fld fan 6 6 + 1
  let f3 := fld fan 12 6 + 1
  let rs := dfld raw 45 3
  let base := if rs = 0 then none else some (mix64 (rs * 2 ^ 32 + p))
  let root : Smp := { id := seed, w := 0, poison := false, wbad := false, oob := false }
  match s.expandHop x g wsum vs base 1 f1 (fun _ => 0) 0 [(some root, false, false)] with
  | (.error r, s1) => (.error r, s1)
  | (.ok g1, s1) =>
    if hops = 1 then (.ok [g1], s1)
    else match s1.expandHop x g wsum vs base 2 f2 (fun i => i * 64) 0 (g1.flatMap Grp.children) with
      | (.error r, s2) => (.error r, s2)
      | (.ok g2, s2) =>
        if hops = 2 then (.ok [g1, g2], s2)
        else match s2.expandHop x g wsum vs base 3 f3 (fun i => i / f2 * 64 + i % f2) 0 (g2.flatMap Grp.children) with
          | (.error r, s3) => (.error r, s3)
          | (.ok g3, s3) => (.ok [g1, g2, g3], s3)

/-- What a seed's part of the sample list needs (R473, R477). -/
def State.sampleNeed (s : State) (x : Nat) (c : SCmd) (p total : Nat) : Need :=
  let a := dfld c.raw 36 6
  let w := gIdW c.graph
  if a = 0 then .go else s.rangeNeed (agStack x) (a + p * total * w) (total * w) true

/-- Write a seed's part of the sample list (R208). -/
def State.sampleList (s : State) (x : Nat) (c : SCmd) (p total : Nat) (ids : List (Option Nat)) : State :=
  let a := dfld c.raw 36 6
  if a = 0 then s
  else
    let w := gIdW c.graph
    let data := ((ids ++ List.replicate (total - ids.length) none).take total).flatMap fun (o : Option Nat) => toBytes w (o.getD (2 ^ (8 * w) - 1))
    match s.dstPieces x (a + p * total * w) data.length with
    | (some ps, s1) => s1.writeDest ps data false
    | (none, s1) => s1.endFault x c.serial 0x06

/-- One seed of SAMPLE_AGG (R205 to R212); none when a read or the sample list must wait. -/
def State.sampleSeed (s : State) (x : Nat) (c : SCmd) (vs : List Version) (p : Nat) (seed : Nat × Bool) : Option State :=
  let raw := c.raw
  let hops := fld (cFmt raw) 4 2
  let fan := dfld raw 42 3
  let f1 := fld fan 0 6 + 1
  let f2 := fld fan 6 6 + 1
  let f3 := fld fan 12 6 + 1
  let self := bitOf (cMode raw) 4
  let tree := bitOf (cMode raw) 7
  let zero := cOob raw == 2
  let rn := rowsPerSeed tree hops f1 f2
  let total := f1 + (if 2 ≤ hops then f1 * f2 else 0) + (if hops = 3 then f1 * f2 * f3 else 0)
  let emit := fun (t : State) (sps : List RowSpec) => t.modCmd x c.serial fun d => { d with waiting := d.waiting ++ sps }
  let every := fun poison => (List.range rn).map fun i => ({ out := p * rn + i, seed := p, poison := poison } : RowSpec)
  if s.sampleNeed x c p total = .wait then none
  else if s.sampleNeed x c p total = .lost then some (s.loseCmd x c.serial)
  else if seed.2 then some (emit ((s.meetPoison x c.serial).sampleList x c p total []) (every true))
  else if vOob c.graph vs seed.1 then
    (let s1 := (s.countOob x c.serial 1).sampleList x c p total []
     some (if cOob raw = 0 then s1.seedFault x c.serial 0x87 p else emit s1 (every false)))
  else
    match s.sampleHops x c vs p seed.1 with
    | (.error r, s1) => s1.graphStop x c.serial r
    | (.ok gs, s1) =>
      let all := gs.flatMap fun h => h.flatMap (·.slots)
      let bad := (gs.any fun h => h.any (·.poison)) || all.any fun o => match o with | some v => v.poison || v.wbad | none => false
      let s2 := (if bad then s1.meetPoison x c.serial else s1).sampleList x c p total (all.map fun o => o.map (·.id))
      let oob := (all.filter fun o => match o with | some v => v.oob | none => false).length
      let s3 := s2.countOob x c.serial oob
      let s4 := if gs.any fun h => h.any (·.bad) then s3.seedFault x c.serial 0x8E p else s3
      if oob ≠ 0 ∧ cOob raw = 0 then some (s4.seedFault x c.serial 0x87 p)
      else
        let specs : List (Option RowSpec) :=
          if tree then
            let grps := gs.flatMap id
            (grps.zip (List.range grps.length)).map fun (h, i) => poolGroups self zero (p * rn + i) p [h]
          else (gs.zip (List.range gs.length)).map fun (h, i) => poolGroups self zero (p * rn + i) p h
        some (emit s4 (specs.filterMap id))

def State.sampleSeeds (s : State) (x : Nat) (c : SCmd) (vs : List Version) : Nat → List (Nat × Bool) → Option State
  | _, [] => some s
  | p, seed :: l =>
    match s.cmd x c.serial with
    | none => some s
    | some d =>
      if d.stop || d.aborted then some s
      else match s.sampleSeed x c vs p seed with
        | none => none
        | some s1 => s1.sampleSeeds x c vs (p + 1) l

/-- SAMPLE_AGG: each seed's neighbours are sampled hop by hop and its rows are opened (R205, R206). -/
def execSampleAgg (x : StackId) (s : State) : Host.Outcome State Fault Refusal :=
  match s.startable x opSAMPLE with
  | none => .next s
  | some c =>
    let s0 := s.startCmd x c.serial
    if s.cmdNeed x c = .lost then .next (s.loseCmd x c.serial)
    else if c.stop then .next s0
    else
      match s0.readList (agStack x) (dfld c.raw 8 6) (cN c.raw) (cIdxW c.raw) .stk x with
      | (none, s1) => .next (s1.endFault x c.serial 0x06)
      | (some seeds, s1) =>
        match s1.sampleSeeds x c (s1.versOf c) 0 seeds with
        | none => .next s
        | some s2 => .next (s2.resumeCmd x c.serial)

/-- The state of a stack's hardware random source, as the pages of its 32 engines show it (R211, R226). -/
def State.setHwok (s : State) (x v : Nat) : State := (List.range 32).foldl (fun acc e => acc.setRfld (pgSor (32 * x + e) + 0x204) 0 1 v) s

/-- RNG_HEALTH_TEST_FAIL: the stack's hardware random source fails; HWOK reads 0 (R211). -/
def execRngHealthTestFail (x : StackId) (s : State) : Host.Outcome State Fault Refusal :=
  .next (if s.pw.powered then s.setHwok x 0 else s)

/-- RNG_HEALTH_TEST_PASS: the source passes again; HWOK reads 1 (R211). -/
def execRngHealthTestPass (x : StackId) (s : State) : Host.Outcome State Fault Refusal :=
  .next (if s.pw.powered then s.setHwok x 1 else s)

end Sys2Proof.Machine
end

