-- ==== Sys2Proof/Machine/Placement.lean ====
section
/-! DEFINITION. Machine/Placement.lean: moving rows: MIGRATE_ROW, the placement loop with its promotions and demotions, tracker
ageing, load records and the hub threshold loop (R126, R177 to R189, R220). -/

namespace Sys2Proof.Machine

open Sys2Proof

/-! ## MIGRATE_ROW (R188, R189) -/

/-- Copy a row's bytes; the poison of each sector of the copy is that of the sectors copied into it (R376, R467). -/
def State.copyRow (s : State) (src dst n : Nat) : State :=
  let s1 := s.meet src n
  let s2 := (s1.beforeWrite dst n).store dst (s1.bytes src n) false
  let bad := ((sectorsOf src n).filter s1.poison.contains).flatMap fun sec =>
    let lo := max src (64 * sec)
    sectorsOf (dst + (lo - src)) (min (src + n) (64 * sec + 64) - lo)
  ({ s2 with poison := bad.foldl insNat s2.poison } : State).dirtyHot dst

/-- Payload of a write from another module (KIND 0; layout: log entry 37): the physical address, the poison of the data, the
data. -/
def writePayload (a : Nat) (bad : Bool) (data : List Byte) : List Byte :=
  toBytes 6 a ++ toBytes 2 (if bad then 1 else 0) ++ data

/-- Send a range of memory to another module as writes of one flow, at most 512 bytes each; the numbers of its packets. -/
def State.sendWrites (s : State) (coord cls flow : Nat) : List (Nat × Nat × List Nat) → Nat → Nat → List (FlowKey × Nat) × State
  | [], _, _ => ([], s)
  | (_, off, bs) :: l, src, dst =>
    let key : FlowKey :=
      { src := BitVec.ofNat 18 s.coord, dst := BitVec.ofNat 18 coord, cls := BitVec.ofNat 3 cls, flow := BitVec.ofNat 12 flow }
    let n := (s.flowTxOf key).next
    let s1 := s.flowSend coord cls flow 0 0 0
      (writePayload (dst + off) (s.badPa (src + off) bs.length) (s.readPa (src + off) bs.length))
    let (ks, s2) := s1.sendWrites coord cls flow l src dst
    ((key, n) :: ks, s2)

/-- Copy row `i` of a MIGRATE_ROW: its entries are flushed, then its snapshot is copied (R189). -/
def State.migrateOne (s : State) (x : Nat) (c : SCmd) (v : Version) (first i : Nat) : State :=
  match s.cmd x c.serial with
  | none => s
  | some d =>
    if d.stop || d.aborted then s
    else
      match s.locate v (first + i) false with
      | (.at_ pa _ _, s1) =>
        let n := v.rowBytes
        let dst := dfld c.raw 16 6 + i * n
        let s2 := (s1.flushRange pa n).meet pa n
        if !s2.reachableRange pa n then s2.endFault x c.serial 0x06
        else
          let bad := s2.isPoisoned pa n
          let s3 := if bad then s2.poisonRead .stk x pa else s2
          let ok := fun (t : State) => t.modCmd x c.serial fun k => { k with rows := k.rows + 1, poisoned := k.poisoned || bad }
          if bitOf (cMode c.raw) 0 then
            let (ks, s4) := s3.sendWrites (dfld c.raw 28 4) 6 (flowMigrate x) (groups 512 (n / 512 + 1) 0 (List.replicate n 0)) pa dst
            ok (s4.modCmd x c.serial fun k => { k with flows := k.flows ++ ks })
          else if !s3.reachableRange dst n then s3.endFault x c.serial 0x06
          else ok (match placeOf dst with
            | .host => s3.writePa dst (s3.bytes pa n) bad
            | _ => s3.copyRow pa dst n)
      | (.poison a h, s1) => (s1.poisonUnit a h).modCmd x c.serial fun k => { k with poisoned := true }
      | (.fault e, s1) => s1.endFault x c.serial e
      | (.remote _, s1) => s1.endFault x c.serial 0x06

/-- MIGRATE_ROW: each row is locked, flushed and copied, and the lock is cleared (R189). -/
def execMigrateRow (x : StackId) (s : State) : Host.Outcome State Fault Refusal :=
  match s.nextCmd x opMIGROW with
  | none => .next s
  | some c =>
    if s.cmdNeed x c = .lost then .next (s.loseCmd x c.serial)
    else match s.versOf c with
    | [] => .next (s.startCmd x c.serial)
    | v :: _ =>
      let first := dfld c.raw 8 6
      let n := dfld c.raw 24 4
      .next ((List.range n).foldl (fun acc i => acc.migrateOne x c v first i) (s.startCmd x c.serial))

/-! ## Moves (R126, R179 to R184) -/

/-- The shard of kind 1 of a version (R162). -/
def Version.rhzShard (v : Version) : Option Shard := v.shards.find? (·.kind == 1)

/-- The address of a row's indirection entry. -/
def Version.indOf (v : Version) (row : Nat) : Option Nat :=
  if v.indir then (v.shardOf row).map fun (_, h) => h.ind + 8 * (row - h.first) else none

/-- A single 64-bit write of an indirection or hot-slot entry; combined reads of its sector end (R86, R165). -/
def State.setEntry (s : State) (a e : Nat) : State := (s.setBytes a (toBytes 8 e)).dropSectors a 8

/-- Steps 1 to 4 of R181: the lock, the flush, the copy, the slot's entry; the flip and the drain follow. -/
def State.startMove (s : State) (v : Version) (row src dst : Nat) (copy : Bool) (slot freed next : Option Nat) : State :=
  match v.indOf row with
  | none => s
  | some ea =>
    let s1 := (s.setEntry ea (setFld (s.memNat ea 8) 43 1 1)).flushRange src v.rowBytes
    let s2 := if copy then s1.copyRow src dst v.rowBytes else s1
    let s3 := match slot with
      | some i => s2.setEntry (v.slotTab + 8 * i) (row + 2 ^ 63)
      | none => s2
    { s3 with moves := s3.moves ++ [{ tid := v.tid, epoch := v.epoch, row := row, src := src, dst := dst, bytes := v.rowBytes
                                      slot := slot, freeSlot := freed, copied := copy, since := s.now.toNat, next := next }] }

/-- Step 5 of R181: ADDR of the new copy with HOT updated and LOCK 0, in one write; the home copy's place is kept while the row is
promoted (R177), the move counts, and LOCKMAX keeps the longest lock, which R182 bounds by 2 µs. ADDR names a sector: of a slot that
does not begin one, it names the sector that the slot begins in (DESIGN CHOICE, log entry 155). -/
def State.flipMove (s : State) (m : Move) : State :=
  match s.version m.tid m.epoch with
  | none => s
  | some v =>
    match v.indOf m.row with
    | none => s
    | some ea =>
      let hot := if m.slot.isSome then 1 else 0
      let s1 := s.setEntry ea (setFld (setFld (setFld (s.memNat ea 8) 0 42 (m.dst / 64)) 42 1 hot) 43 1 0)
      let s2 : State := { s1 with
        tables := s1.tables.map fun w =>
          if w.sharesHot v then { w with homeAt := if m.slot.isSome then nset w.homeAt m.row m.src else ndel w.homeAt m.row } else w }
      let s3 := if m.slot.isSome then s2.count64 (pgTbl + 0x060) 1
        else if m.copied then (s2.count64 (pgTbl + 0x068) 1).count64 (pgTbl + 0x070) 1 else s2.count64 (pgTbl + 0x068) 1
      let s4 := s3.setReg (pgTbl + 0x088) (max (s3.reg (pgTbl + 0x088)) (min 2000 (s.now.toNat - m.since)))
      { s4 with moves := s4.moves.map fun k => if k = m then { k with flipped := true } else k }

/-- The moves that wait for their flip are flipped (R181). -/
def State.flipMoves (s : State) (p : Move → Bool) : State := (s.moves.filter fun m => !m.flipped && p m).foldl State.flipMove s

/-- A forced retrain starts on a channel that a move is copying: the move is abandoned. LOCK is cleared without a flip, a slot that
step 4 wrote is free again, the pins are released to the current copy, and the move counts in MOVESKIP (R559). -/
def State.abandonMove (s : State) (m : Move) : State :=
  let s0 : State := { s with moves := s.moves.filter (· != m) }
  let s1 := match s0.version m.tid m.epoch with
    | none => s0
    | some v =>
      let s2 := match v.indOf m.row with
        | some ea => s0.setEntry ea (setFld (s0.memNat ea 8) 43 1 0)
        | none => s0
      match m.slot with
      | some i => s2.setEntry (v.slotTab + 8 * i) (s2.memNat (v.slotTab + 8 * i) 8 % 2 ^ 63)
      | none => s2
  ((sectorsOf m.src m.bytes).foldl (fun acc sec => match acc.unitOf (64 * sec) with | some u => acc.flushDue u | none => acc) s1).count32
    (pgTbl + 0x08C) 1

def State.abandonMoves (s : State) (ch : Nat) : State :=
  (s.moves.filter fun m => !m.flipped && m.copied
    && (sectorsOf m.src m.bytes ++ sectorsOf m.dst m.bytes).any fun sec => s.chanOf (64 * sec) == some ch).foldl State.abandonMove s

/-- A hot slot's address. -/
def Version.slotAddr (v : Version) (i : Nat) : Nat := v.hotBase + i * v.rowBytes

/-- The current copy of a row under an indirection entry, and whether it is hot or locked; none where the entry is poisoned or has a
reserved bit set (R12, R165; log entry 137). -/
def State.indEntry (s : State) (v : Version) (row : Nat) : Option (Nat × Bool × Bool) :=
  (v.indOf row).bind fun ea =>
    let e := s.memNat ea 8
    if s.isPoisoned ea 8 || fld e 44 20 != 0 then none else some (fld e 0 42 * 64, bitOf e 42, bitOf e 43)

/-- A move whose copy would touch a channel that is not ready is skipped (R180). -/
def State.moveBlocked (s : State) (a b n : Nat) : Bool :=
  ((sectorsOf a n) ++ (sectorsOf b n)).any fun sec => s.chanSt (64 * sec) != 0

/-- Promote a row into a slot; the flag says that it was started (R180, R181). -/
def State.promote (s : State) (v : Version) (row slot : Nat) : Bool × State :=
  match s.indEntry v row with
  | none => (false, s)
  | some (src, hot, lock) =>
    if hot || (s.moves.any fun m => m.tid == v.tid && m.row == row) then (false, s)
    else if lock || s.moveBlocked src (v.slotAddr slot) v.rowBytes then (false, s.count32 (pgTbl + 0x08C) 1)
    else (true, s.startMove v row src (v.slotAddr slot) true (some slot) none none)

/-- Demote the row of a slot; `next` is promoted into the slot that frees. A clean row is not copied, so that no channel blocks
it (R180, R181). -/
def State.demote (s : State) (v : Version) (slot : Nat) (next : Option Nat) : Bool × State :=
  let e := s.memNat (v.slotTab + 8 * slot) 8
  let row := e % 2 ^ 48
  match v.homeOf row, s.indEntry v row with
  | some home, some (_, hot, lock) =>
    let copies := bitOf e 62 || (sectorsOf (v.slotAddr slot) v.rowBytes).any s.hasEntry
    if !hot then (false, s)
    else if lock || (copies && s.moveBlocked (v.slotAddr slot) home v.rowBytes) then (false, s.count32 (pgTbl + 0x08C) 1)
    else
      -- the flush of step 2 sets DIRTY
      (true, (s.flushRange (v.slotAddr slot) v.rowBytes).startMove v row (v.slotAddr slot) home copies none (some slot) next)
  | _, _ => (false, s)

/-- The guaranteed count of a row in a set of trackers: the largest of them (R178; log entry 45). -/
def State.guaranteed (s : State) (units : List Nat) (tid row : Nat) : Nat :=
  units.foldl (fun acc u =>
    (s.unit u).hh.foldl (fun a o => match o with
      | some e => if e.tid = tid ∧ e.row = row then max a (e.count - e.error) else a
      | none => a) acc) 0

/-- Insert by descending count. -/
def insDesc (e : Nat × Nat) : List (Nat × Nat) → List (Nat × Nat)
  | [] => [e]
  | k :: l => if k.2 < e.2 then e :: k :: l else k :: insDesc e l

/-- Promotion candidates of a table, rows of its kind-1 shard, in descending order of guaranteed count (R177, R180). -/
def State.candidates (s : State) (v : Version) : List Nat :=
  let rows := [512, 513, 514, 515].flatMap fun u => (s.unit u).hh.filterMap fun o => match o with
    | some e => if e.tid = v.tid ∧ (v.shardOf e.row).any (fun h => h.2.kind == 1) then some e.row else none
    | none => none
  let uniq := rows.foldl (fun acc r => if acc.contains r then acc else acc ++ [r]) []
  let withC := (uniq.map fun r => (r, s.guaranteed [512, 513, 514, 515] v.tid r)).filter fun e => decide (v.promote ≤ e.2)
  (withC.foldl (fun acc e => insDesc e acc) []).map (·.1)

/-- The slots that the clock hand scans whose rows may be demoted, at most 64 (R180). -/
def State.demotable (s : State) (v : Version) (serving : Nat) : List Nat :=
  let scan := s.rfld (pgTbl + 0x048) 16 16
  let slots := (List.range (min scan v.hotSlots)).map fun i => (v.hand + i) % max v.hotSlots 1
  (slots.filter fun i =>
    let e := s.memNat (v.slotTab + 8 * i) 8
    -- an entry with a reserved bit set is rejected (R12, R179; log entry 137)
    bitOf e 63 && fld e 48 14 == 0 && !(s.moves.any fun m => m.tid == v.tid && m.row == e % 2 ^ 48)
      && decide (s.guaranteed (unitsOf serving) v.tid (e % 2 ^ 48) < v.demote)).take 64

/-- A slot that is free and does not wait for a drain (R184). -/
def State.freeSlot (s : State) (v : Version) : Option Nat :=
  (List.range v.hotSlots).find? fun i =>
    let e := s.memNat (v.slotTab + 8 * i) 8
    !bitOf e 63 && fld e 48 14 == 0

/-- The placement loop works on a version (R177). -/
def State.placing (s : State) (v : Version) : Bool :=
  v.current && v.plen && v.indir && v.rhzShard.isSome && s.rbit (pgTbl + 0x040) 0

/-- Step 3 of R180 for one die's agent: candidates in order, while its slot lasts, moves remain, and fewer than four are under
way. A demotion leaves one further move for the row that takes the slot. -/
def State.runPlace (s : State) (d : Nat) : Nat → State
  | 0 => s
  | f + 1 =>
    match nfind s.pw.place d with
    | none => s
    | some j =>
      let go := fun (t : State) (k : PlaceJob) => ({ t with pw := { t.pw with place := nset t.pw.place d k } } : State).runPlace d f
      match j.rows, s.version j.tid j.epoch with
      | row :: rows, some v =>
        if !s.placing v || s.ras.halted || s.pw.slot != 7 || j.left == 0 || decide (4 ≤ (s.moves.filter fun m => m.tid % 4 == d).length) then s
        else
          match s.indEntry v row with
          | some (_, false, false) =>
            (match s.freeSlot v with
            | some i =>
              let (ok, s1) := s.promote v row i
              go s1 { j with rows := rows, left := if ok then j.left - 1 else j.left }
            | none =>
              match j.dem with
              | [] => s
              | i :: is =>
                if j.left < 2 then s
                else
                  let (ok, s1) := s.demote v i (some row)
                  if ok then go s1 { j with rows := rows, dem := is, left := j.left - 2 } else go s1 { j with dem := is })
          | some (_, false, true) => go (s.count32 (pgTbl + 0x08C) 1) { j with rows := rows }
          | _ => go s { j with rows := rows }
      | _, _ => s

/-- Steps that an agent may take before it stops. -/
def PlaceJob.fuel (j : PlaceJob) : Nat := j.rows.length + j.dem.length + 1

/-- The agents go on, each as far as it can. -/
def State.runAgents (s : State) : State :=
  [0, 1, 2, 3].foldl (fun acc d => acc.runPlace d ((nfind acc.pw.place d).map PlaceJob.fuel |>.getD 0)) s

/-- One die's agent in slot 7: the next table of its rotation (R180). -/
def State.placeDie (s : State) (d : Nat) : State :=
  let vs := s.tables.filter fun v => v.tid % 4 == d && s.placing v
  let last := nget s.pw.rot (72 + d) 0
  -- tables in turn: the lowest id from the one after the last
  let pick := (vs.filter fun v => decide (last ≤ v.tid)).foldl (fun acc v => match acc with
    | none => some v
    | some (w : Version) => if v.tid < w.tid then some v else some w) none
  let pick := pick.orElse fun _ => vs.foldl (fun acc v => match acc with
    | none => some v
    | some (w : Version) => if v.tid < w.tid then some v else some w) none
  match pick with
  | none => { s with pw := { s.pw with place := ndel s.pw.place d } }
  | some v =>
    let serving := match v.rhzShard with | some h => h.whereAt % 16 | none => 0
    let dem := s.demotable v serving
    let scan := min (s.rfld (pgTbl + 0x048) 16 16) v.hotSlots
    let s1 := ({ s with pw := { s.pw with rot := nset s.pw.rot (72 + d) (v.tid + 1) } } : State).modVersion v.tid v.epoch fun w =>
      { w with hand := (w.hand + scan) % max w.hotSlots 1 }
    let j : PlaceJob := { tid := v.tid, epoch := v.epoch, rows := s1.candidates v, dem := dem, left := s.rfld (pgTbl + 0x048) 0 7 }
    { s1 with pw := { s1.pw with place := nset s1.pw.place d j } }

/-- PLACEMENT_SLOT: each agent works on one table (R180). -/
def State.placementSlot (s : State) : State :=
  if s.enabled pgTbl && !s.ras.halted then ([0, 1, 2, 3].foldl State.placeDie s).runAgents else s

/-! ## PLACEMENT_DRAIN_END (R126, R181, R184) -/

/-- A read resolved before a move's flip is still to be served. Updates resolved before it are held, and forwarded with the entries
(R183). -/
def State.moveBusy (s : State) (m : Move) : Bool :=
  let hit := fun sec : Nat => decide (m.src < 64 * sec + 64) && decide (64 * sec < m.src + m.bytes)
  let req := fun r : Req => r.row.tid == m.tid && r.row.row == m.row && hit r.sector
  (s.servers.any fun p => p.2.todo.any req || (p.2.cmds.any fun c => c.todo.any req) || p.2.subs.any fun c => c.rows.any fun q => q.tid == m.tid && q.row == m.row && q.pa == m.src)
    || (s.units.any fun p => p.2.rq.any req || p.2.fly.any fun f => f.reqs.any req)

/-- The parts of a pinned entry that belong to a moved row, by sector of the new copy, and what stays. -/
def splitEntry (e : UEnt) (src dst n : Nat) : List (Nat × NMap Nat) × NMap Nat :=
  let w := ubits e.key.ty / 8
  let addr := fun j : Nat => 64 * e.sector + j * w
  let mine := e.vals.filter fun v => decide (src ≤ addr v.1) && decide (addr v.1 < src + n)
  let moved := mine.map fun v => (dst + (addr v.1 - src), v.2)
  let secs := moved.foldl (fun acc v => insNat acc (v.1 / 64)) []
  (secs.map fun sec => (sec, (moved.filter fun v => v.1 / 64 == sec).map fun v => (v.1 % 64 / w, v.2)),
   e.vals.filter fun v => !(decide (src ≤ addr v.1) && decide (addr v.1 < src + n)))

/-- Hand what an entry holds of a sector of the new copy to the unit that owns it (R126): applied there, or, while that sector's
own entry cannot be flushed, combined into it or held in an entry of its own; none while there is room for neither (R122). -/
def State.forwardEntry (s : State) (e : UEnt) (sec : Nat) (vals : NMap Nat) : Option State :=
  match s.unitOf (64 * sec) with
  | none => some s
  | some u =>
    if s.chanSt (64 * sec) = 3 then some s
    else if !s.flushHeld sec then some ((s.flushSector u sec .other).applyVals u sec e.key vals e.orgs)
    else
      match (s.unit u).uct.find? (·.sector == sec) with
      | some k =>
        if k.key != e.key then none
        else
          let add := fun k : UEnt =>
            { k with
              vals := vals.foldl (fun m (j, v) => match nfind m j with | some y => nset m j (ucombine e.key y v) | none => nset m j v) k.vals
              orgs := e.orgs.foldl (fun acc o => if acc.contains o then acc else acc ++ [o]) k.orgs
              vers := e.vers.foldl (fun acc o => if acc.contains o then acc else acc ++ [o]) k.vers
              due := k.due.orElse fun _ => e.due }
          some (s.modUnit u fun k => { k with uct := k.uct.map fun x : UEnt => if x.sector == sec then add x else x })
      | none =>
        if 16 ≤ ((s.unit u).uct.filter fun k => uctSetOf u k.sector == uctSetOf u sec).length then none
        else some (s.modUnit u fun k => { k with uct := k.uct ++ [{ e with sector := sec, vals := vals }] })

/-- One entry of the old copy leaves for the new copy, but for what belongs to other rows of its sector. -/
def State.releaseEntry (s : State) (m : Move) (u : Nat) (e : UEnt) : Option State :=
  let (parts, stay) := splitEntry e m.src m.dst m.bytes
  let s1 := s.modUnit u fun k =>
    { k with uct := (k.uct.map fun x : UEnt => if x.sector == e.sector then { x with vals := stay } else x).filter fun x => !x.vals.isEmpty }
  parts.foldl (fun acc p => acc.bind fun t => t.forwardEntry e p.1 p.2) (some s1)

/-- A sector update of the moved row follows it to the new copy. -/
def State.redirect (s : State) (m : Move) (q : UReq) : UReq :=
  let w := ubits q.key.ty / 8
  if q.tid == m.tid && q.vals.all fun v => decide (m.src ≤ 64 * q.sector + v.1 * w) && decide (64 * q.sector + v.1 * w < m.src + m.bytes) then
    (let sec := q.sector + m.dst / 64 - m.src / 64
     { q with sector := sec, unit := (s.unitOf (64 * sec)).getD q.unit })
  else q

/-- The updates of the moved row that no entry holds yet follow it to the new copy (R183). -/
def State.redirectAll (s : State) (m : Move) : State :=
  let goes := fun q : UReq => (s.redirect m q).sector != q.sector
  let moved := s.units.flatMap fun p => (p.2.uq.filter goes).map (s.redirect m)
  let s1 : State := { s with
    units := s.units.map fun p => (p.1, { p.2 with uq := p.2.uq.filter fun q => !goes q })
    upk := s.upk.map fun p => { p with ups := p.ups.map (s.redirect m) } }
  moved.foldl (fun acc q => acc.modUnit q.unit fun k => { k with uq := k.uq ++ [q] }) s1

/-- PINNED_ENTRY_RELEASE of a move: what was held at the old copy goes to the units of the new copy (R126); none while they have no
room for it. -/
def State.releaseMove (s : State) (m : Move) : Option State :=
  ((sectorsOf m.src m.bytes).foldl (fun acc sec =>
    acc.bind fun t =>
      match t.unitOf (64 * sec) with
      | none => some t
      | some u => ((t.unit u).uct.filter (·.sector == sec)).foldl (fun a e => a.bind fun b => b.releaseEntry m u e) (some t)) (some s)).map
    fun t => t.redirectAll m

/-- One move drains (R181): its pins are released, and what stays in a sector of the old copy meets the triggers that it waited
with (R126); a demoted slot's USED bit is cleared, and while the agent's slot lasts the candidate that waits for it is promoted into
it (R180, R184, R194). A halt starts no move (R560). -/
def State.drainMove (s : State) (m : Move) : State :=
  match ({ s with moves := s.moves.filter (· != m) } : State).releaseMove m with
  | none => s
  | some s1 =>
    let s2 := (sectorsOf m.src m.bytes).foldl (fun acc sec => match acc.unitOf (64 * sec) with | some u => acc.flushDue u | none => acc) s1
    match m.freeSlot, s2.version m.tid m.epoch with
    | some i, some v =>
      let s3 := s2.setEntry (v.slotTab + 8 * i) (s2.memNat (v.slotTab + 8 * i) 8 % 2 ^ 63)
      (match m.next with
      | some row => if s3.placing v && s3.pw.slot == 7 && !s3.ras.halted then (s3.promote v row i).2 else s3
      | none => s3)
    | _, _ => s2

/-- PLACEMENT_DRAIN_END: the moves of a table are flipped, those whose earlier requests have all been served end, and the agents go
on (R180, R181). -/
def execPlacementDrainEnd (tid : TableId) (s : State) : Host.Outcome State Fault Refusal :=
  let s1 := s.flipMoves fun m => m.tid == tid.val
  .next ((s1.moves.filter fun m => m.tid == tid.val).foldl (fun acc m => if acc.moveBusy m then acc else acc.drainMove m) s1).runAgents

/-! ## TRACKER_AGEING, load records, the hub threshold -/

/-- TRACKER_AGEING: COUNT and ERROR of every entry of every tracker are halved once AGEFR frames have passed since the last time;
an entry whose COUNT becomes 0 is freed (R178). -/
def execTrackerAgeing (s : State) : Host.Outcome State Fault Refusal :=
  if s.pw.bounds - s.pw.aged < s.rfld (pgTbl + 0x048) 8 4 then .next s
  else
  let age := fun o : Option HHEnt => match o with
    | some e => if e.count / 2 = 0 then none else some { e with count := e.count / 2, error := e.error / 2 }
    | none => none
  .next { s with
    units := s.units.map fun (u, k) => (u, { k with hh := k.hh.map age })
    pw := { s.pw with aged := s.pw.bounds } }

/-- SHARD_LOAD_RECORD: one record per shard of each version with a LOADADDR, in slot 6 (R187). -/
def State.loadRecords (s : State) : State :=
  if !s.rbit (pgTbl + 0x040) 1 then s
  else
    s.tables.foldl (fun acc v =>
      if v.loadAddr = 0 then acc
      else
        (List.range v.shards.length).foldl (fun a i =>
          a.writePa (v.loadAddr + 16 * i)
            (toBytes 8 (nget v.load i (0, 0)).1 ++ toBytes 4 (nget v.last i 0) ++ toBytes 4 ((s.pw.frame + 2 ^ 32 - 1) % 2 ^ 32)) false) acc) s

/-- HUB_THRESHOLD_UPDATE of one stack, in slot 8 (R220). -/
def State.thresholdLoop (s : State) (x : Nat) : State :=
  let pg := pgSor (32 * x)
  if !bitOf s.boot.stackSet.toNat x || !s.rbit (pg + 0x280) 16 then s
  else
    let es := ((List.range 32).map (32 * x + ·)).filter s.engineOn
    let occ := es.map fun e => (s.unit e).occPrev
    let a := occ.foldl (· + ·) 0
    let m := occ.foldl max 0
    let n := es.length
    let h := s.rfld (pg + 0x284) 0 5
    let lo := s.rfld (pg + 0x280) 0 5
    let hi := s.rfld (pg + 0x280) 8 5
    let up := s.rfld (pg + 0x288) 0 8
    let down := s.rfld (pg + 0x288) 8 8
    let act := fun (t : State) v => t.modServer x fun k => { k with lastAct := v }
    if a = 0 then act s 0
    else if up * a ≤ 8 * n * m ∧ lo < h then act ((s.setRfld (pg + 0x284) 0 5 (h - 1)).count32 (pg + 0x29C) 1) 1
    else if 8 * n * m ≤ down * a ∧ h < hi then act ((s.setRfld (pg + 0x284) 0 5 (h + 1)).count32 (pg + 0x29C) 1) 2
    else act s 0

end Sys2Proof.Machine
end

