-- ==== Sys2Proof/Machine/MemSys.lean ====
section
/-! DEFINITION. Machine/MemSys.lean: the memory system's own commands: region modes, refresh, retraining of channels,
temperatures of stacks and packages (R457 to R485). -/

namespace Sys2Proof.Machine

open Sys2Proof

/-! ## Region modes (R457, R460, R475) -/

/-- The staged mode of a region (R482). -/
def State.staged (s : State) (r : Nat) : Nat := s.rfld (pgMem + 0x400 + 4 * (r / 8)) (4 * (r % 8)) 2

/-- The regions of the group that a mode forms around a region (R457). -/
def groupOf (m r : Nat) : List Nat :=
  let k := r % 64
  let st := r / 64
  match m with
  | 0 => (List.range 8).map fun i => (st / 8 * 8 + i) * 64 + k
  | 1 => (List.range 16).map fun i => i * 64 + k
  | 2 => [r]
  | _ => (List.range 32).map fun i => st * 64 + k / 32 * 32 + i

/-- What is wrong with the staged mode of a mapped region: members that disagree, or a member that is unmapped in every
mode (R460, R475). -/
def State.regionWrong (s : State) (r : Nat) : Option Nat :=
  if !s.regionLive r then none
  else
    let m := s.staged r
    let g := groupOf m r
    if g.any fun q => s.regionLive q && s.staged q != m then some 0x80
    else if g.any fun q => !s.regionLive q then some 0x81
    else none

/-- RGNCOMMIT: check every group; the staged modes replace the active ones, of every region of the table, and the contents of a region whose mode
changed are not defined (R460). -/
def rgncommit (s : State) : State :=
  match (List.range 1024).findSome? fun r => (s.regionWrong r).map fun c => (r, c) with
  | some (r, c) => (s.setReg (pgMem + 0x04C) (r + 2 ^ 31)).refuse (pgMem + 0x048) c
  | none =>
    let changed := (List.range 1024).filter fun r => s.regionLive r && s.staged r != s.mode r
    -- the region of the image area stays in its mode (R612)
    let img := fun r => s.boot.imgMib != 0 && s.boot.imgBase / 2 ^ 30 == r
    let s1 := { s with modes := (List.range 1024).foldl (fun m r =>
      if img r then m else if s.staged r = 0 then ndel m r else nset m r (s.staged r)) s.modes }
    (changed.foldl (fun acc r => acc.makeJunk (r * 2 ^ 30) ((r + 1) * 2 ^ 30)) s1).setReg (pgMem + 0x04C) 0

/-- RGNCOMMIT (R460). -/
def execRgncommit (s : State) : Host.Outcome State Fault Refusal := .next (if s.serves .mem then rgncommit s else s)

/-! ## Channels (R470 to R474) -/

/-- A channel that the boot left in use (R475, R601). -/
def State.chanLive (s : State) (ch : Nat) : Bool :=
  if ch < 1024 then bitOf s.boot.stackSet.toNat (ch / 64) && s.outChan (ch / 64) != some (ch % 64 / 2)
  else bitOf s.boot.rhzMapped.toNat (ch - 1024)

/-- The stack or PHY die of a channel, as a server. -/
def chanOwner (ch : Nat) : Nat := if ch < 1024 then ch / 64 else 16 + (ch - 1024) / 24

/-- The unit whose requests a channel serves. -/
def chanUnit (ch : Nat) : Nat := if ch < 1024 then ch / 2 else 512 + (ch - 1024) / 24

/-- Block, instance and unit number of a channel in an event record (R569). -/
def chanEvent (ch cls : Nat) : Event :=
  if ch < 1024 then { cls := cls, reason := 0, btype := Block.code .sor, inst := ch / 2 % 256, unit := ch % 64 }
  else { cls := cls, reason := 0, btype := Block.code .rhz, inst := (ch - 1024) / 24, unit := (ch - 1024) % 24 }

/-- A channel leaves service to train; a forced retrain ends the moves that copy there (R471, R559). -/
def State.startRetrain (s : State) (ch : Nat) (fromSlot : Bool) : State :=
  (if fromSlot then s else s.abandonMoves ch).setChan ch { s.chan ch with st := 2, attempts := 1, asked := false, fromSlot := fromSlot }

/-- A retrain that a slot started runs in the same stack or PHY die (R471). -/
def State.slotRetrains (s : State) (owner : Nat) : Bool :=
  s.chans.any fun c => chanOwner c.1 == owner && c.2.st == 2 && c.2.fromSlot

/-- Ask for a retrain at the next calibration slot; a failed channel refuses it (R471, R484, R485). -/
def askRetrain (s : State) (ch : Nat) : State :=
  if !s.chanLive ch then s
  else if (s.chan ch).st = 3 then s.refuse (pcRegs ch + 4) 0x0A
  else s.setChan ch { s.chan ch with asked := true }

/-- PCCTL_RETRAIN (R471, R484). -/
def execPcctlRetrain (e : EngineId) (half : Bool) (s : State) : Host.Outcome State Fault Refusal :=
  .next (if s.serves .sor then askRetrain s (2 * e.val + (if half then 1 else 0)) else s)

/-- CHCTL_RETRAIN (R471, R485). -/
def execChctlRetrain (ch : RhzCh) (s : State) : Host.Outcome State Fault Refusal := .next (if s.serves .rhz then askRetrain s (1024 + ch.val) else s)

/-- A command or address parity error of a channel counts: in LINKERR of a pseudo-channel, and in the frame's rise (R466,
R471). -/
def State.countLinkErr (s : State) (ch : Nat) : State :=
  let s1 := if ch < 1024 then s.count32 (pcRegs ch + 0x20) 1 else s
  let k := s.chan ch
  s1.setChan ch { k with errs := if k.errFrame = s.pw.bounds then k.errs + 1 else 1, errFrame := s.pw.bounds }

/-- FORCED_RETRAIN: a command or address parity error on a channel in service, retried once. The retry is a CORRECTED event;
when the error recurs after it, or the frame's errors reach `MEM.RTCFG.FORCE`, the channel starts to train at once, whatever
its stack or PHY die does (R466, R471, R552; log entry 46). -/
def execForcedRetrain (e : ParityError) (s : State) : Host.Outcome State Fault Refusal :=
  let ch := e.ch
  if !s.ready || !s.chanLive ch || decide (2 ≤ (s.chan ch).st) then .next s
  else
    let s1 := s.countLinkErr ch
    let s2 := if e.recurs then s1 else s1.lightEvent (chanEvent ch 0)
    .next (if e.recurs || decide (s.rfld (pgMem + 0x044) 0 8 ≤ (s1.chan ch).errs) then s2.startRetrain ch false else s2)

/-- PER_BANK_REFRESH: the controller refreshes at the rate that the temperature requires and issues the RFM commands that
the DRAM demands. The contents stay as they are, and no register shows it (R470). -/
def execPerBankRefresh (_ch : ChanId) (_rfm : Bool) (s : State) : Host.Outcome State Fault Refusal := .next s

/-! ## Temperatures (R476, R477) -/

/-- The level of a temperature: a level is entered at its threshold and left 5 °C below it (R476, R579). -/
def tempLevel (thr : List Nat) (old temp : Nat) : Nat :=
  (List.range thr.length).foldl (fun acc i =>
    if thr.getD i 0 ≤ temp ∨ (i < old ∧ thr.getD i 0 < temp + 5) then i + 1 else acc) 0

/-- A change of level raises vector 259 and makes the thermal condition pending in the hub (R21, R476, R579). -/
def State.levelChange (s : State) : State := (s.raiseVec 1 259).alertOn

/-- STACK_TEMPERATURE_LEVEL: the stack's temperature and level; T1 and T2 limit it, T3 fences it and is JOB_FATAL (R100,
R476). -/
def execStackTemperatureLevel (x : StackId) (temp : Byte) (s : State) : Host.Outcome State Fault Refusal :=
  if !s.ready || !bitOf s.boot.stackSet.toNat x then .next s
  else
    let r := pgMem + 0x100 + 0x10 * x.val
    let old := s.rfld r 8 2
    let new := tempLevel [95, 105, 115] old temp.toNat
    let fenced := s.rbit r 10
    let s1 := s.setReg r (temp.toNat + 2 ^ 8 * new + (if fenced || new == 3 then 2 ^ 10 else 0))
    let s2 := s1.setReg (r + 4) (max temp.toNat (s.rfld (r + 4) 0 8))
    let s3 := if old < new then s2.count32 (r + 8) 1 else s2
    let s4 := if old = new then s3 else s3.levelChange
    if new = 3 && !fenced then
      .next (((s4.abortStack x true).fgBreakStack x).fatalEvent
        { cls := 3, reason := 0, btype := Block.code .stk, inst := x.val, unit := 0xFFFF })
    else .next s4

/-- A PHY die is fenced: every command that has work there completes ABORTED, and what the die holds is dropped (R100,
R477). -/
def State.fencePhy (s : State) (d : Nat) : State :=
  let x := 16 + d
  let u := s.unit (512 + d)
  let k := s.server x
  let bagOf := fun r : Req => ((s.server r.srv).bags.find? fun b => b.uid == r.bag).map fun b => (b.lead, b.cmd)
  let guests := k.bags.map (fun b => (b.lead, b.cmd)) ++ k.subs.map (fun c => (c.lead, c.cmd)) ++ u.rq.filterMap bagOf
    ++ u.fly.flatMap (fun f => f.reqs.filterMap bagOf) ++ (s.upk.filter fun p => p.rcv == x).map fun p => (p.lead, p.cmd)
  let s1 := guests.foldl (fun acc g => acc.leadCmd g.1 g.2 fun c => { c with aborted := true }) s
  let s2 := { s1 with upk := s1.upk.filter fun p => p.rcv != x }
  let s3 := s2.modUnit (512 + d) fun u => { u with rq := [], uq := [], fly := [] }
  (s3.modServer x fun k => { k with bags := [], subs := [], todo := [], fenced := true }).setReg (pgRhz d + 0x090) 1

/-- PACKAGE_TEMPERATURE_LEVEL: the package's temperature and level; at T3 its PHY die is fenced and the event is JOB_FATAL
(R477). -/
def execPackageTemperatureLevel (k : PkgId) (temp : Byte) (s : State) : Host.Outcome State Fault Refusal :=
  if !s.ready then .next s
  else
    let d := k.val / 6
    let r := pgRhz d + 0x078 + 4 * (k.val % 6)
    let old := s.rfld r 8 2
    let new := tempLevel [85, 95, 105] old temp.toNat
    let s1 := s.setReg r (temp.toNat + 2 ^ 8 * new)
    let s2 := if old = new then s1 else s1.levelChange
    if new = 3 && !s.rbit (pgRhz d + 0x090) 0 then
      .next ((s2.fencePhy d).fatalEvent { cls := 3, reason := 0, btype := Block.code .rhz, inst := d, unit := k.val % 6 })
    else .next s2

end Sys2Proof.Machine
end

