-- ==== Sys2Proof/Machine/Matrix.lean ====
section
/-! DEFINITION. Machine/Matrix.lean: the staging buffer and the dense matrix engine (R260 to R283), with the products of
the sparse engine (R289 to R297). -/

namespace Sys2Proof.Machine

open Sys2Proof

/-! ## Formats and slots -/

/-- K of R266 by format; 0 for a format that no tile has. -/
def tileK (f : Nat) : Nat :=
  match f with
  | 1 => 16 | 2 => 16 | 3 => 32 | 4 => 32 | 5 => 32 | 6 => 64 | 7 => 32 | 8 => 64 | _ => 0

/-- Line length L in bytes (R261). -/
def tileL (f : Nat) : Nat := if f = 5 then 24 else 32

def Core.tile (k : Core) (t : Nat) : Nat := (nget k.tiles t 0).toNat
def Core.scale (k : Core) (t : Nat) : Nat := (nget k.scales t 0).toNat
def Core.acc (k : Core) (a : Nat) : Nat := (nget k.accs a 0).toNat
def Core.vslot (k : Core) (v : Nat) : Nat := (nget k.vslots v 0).toNat
def Core.setTile (k : Core) (t v : Nat) (bad : Bool) : Core :=
  { k with tiles := nset k.tiles t (BitVec.ofNat 4096 v), tileBad := markIf bad k.tileBad t }
def Core.setScale (k : Core) (t v : Nat) : Core := { k with scales := nset k.scales t (BitVec.ofNat 256 v) }
def Core.setAcc (k : Core) (a v : Nat) (bad : Bool) : Core :=
  { k with accs := nset k.accs a (BitVec.ofNat 8192 v), accBad := markIf bad k.accBad a }
def Core.setV (k : Core) (v x : Nat) : Core := { k with vslots := nset k.vslots v (BitVec.ofNat 8192 x) }

/-- Element `i` of line `l` of a tile (R261). -/
def tileElem (tile f l i : Nat) : Nat := fld tile (256 * l + fmtBits f * i) (fmtBits f)

/-- A slot is pending: a stream's tile has yet to land there (R398). -/
def Core.pending (k : Core) (ts : List Nat) : Bool := ts.any fun t => k.pend.any fun p => p.1 == t

/-- Formats permitted to a dense MMA (R266, R267). -/
def denseOk (fa fb : Nat) (mx : Bool) : Bool :=
  tileK fa != 0 && tileK fb != 0 && (fa == fb || (decide (3 ≤ fa ∧ fa ≤ 5) && decide (3 ≤ fb ∧ fb ≤ 5)))
    && (!mx || decide (3 ≤ fa ∧ fa ≤ 6))

/-- Formats of R292. -/
def sparseFmt (f : Nat) : Bool := f == 1 || f == 2 || f == 3 || f == 4 || f == 6

/-- Formats permitted to a sparse MMA (R271, R292). -/
def sparseOk (fa fb : Nat) (mx : Bool) : Bool :=
  sparseFmt fa && (fa == fb || (decide (3 ≤ fa ∧ fa ≤ 4) && decide (3 ≤ fb ∧ fb ≤ 4)))
    && (!mx || decide (3 ≤ fa ∧ fa ≤ 6))

/-! ## The MMA -/

/-- The value of an element with its block scale (R36 to R38); `e` is the scale byte. -/
def scaled (mx : Bool) (e f p : Nat) : FVal :=
  let v := decodeElem f p
  if !mx then v else if e = 255 then .nan else v.scale ((e : Int) - 127)

/-- One product of an MMA's element. -/
structure Term where
  a : FVal
  b : FVal

/-- The value of A's and B's element k for output (l, j), dense (R261, R266). -/
def denseTerms (k : Core) (op : MmaOp) (l j : Nat) : List Term :=
  let kk := tileK op.fa
  let ta := k.tile op.a
  let tb := k.tile op.b
  let sa := k.scale op.a
  let sb := k.scale op.b
  (List.range kk).map fun i =>
    { a := scaled op.mx (fld sa (8 * (l * (kk / 32) + i / 32)) 8) op.fa (tileElem ta op.fa l i)
      b := scaled op.mx (fld sb (8 * (j * (kk / 32) + i / 32)) 8) op.fb (tileElem tb op.fb j i) }

/-- The position code of kept value i of line l (R293). -/
def codeOf (codes l i : Nat) : Nat := fld codes (256 * l + 3 * i) 3

/-- Products of a sparse MMA's element (R292 to R295): kept value i of A line l with the B element its code names. -/
def sparseTerms (k : Core) (op : MmaOp) (l j : Nat) : List Term :=
  let kk := tileK op.fa
  let ta := k.tile op.a
  let codes := k.tile (op.a + 1)
  let sa := k.scale op.a + 2 ^ 256 * k.scale (op.a + 1)
  (List.range kk).map fun i =>
    let pos := 8 * (i / 4) + codeOf codes l i
    let half := pos / kk
    let p := pos % kk
    { a := scaled op.mx (fld sa (8 * (l * (2 * kk / 32) + pos / 32)) 8) op.fa (tileElem ta op.fa l i)
      b := scaled op.mx (fld (k.scale (op.b + half)) (8 * (j * (kk / 32) + p / 32)) 8) op.fb
        (tileElem (k.tile (op.b + half)) op.fb j p) }

/-- FP32 accumulation (R49): the exact sum of the products and the accumulator's value, rounded once, a subnormal
flushed to zero with its sign. -/
def accFloat (old : Nat) (ts : List Term) : Nat × Flags :=
  let v := ts.foldl (fun acc t => acc.add (t.a.mul t.b)) (fp32.decode old)
  let (p, fl) := fp32.encode .nearest v
  let sub := fld p 23 8 == 0 && p % 2 ^ 23 != 0
  let keep := fl &&& (fNX ||| fOF)
  (if sub then fp32.signBit (bitOf p 31) else p, keep ||| flushFlags sub ||| (if v.isNan then fNV else 0))

/-- The exact integer of an integer element. -/
def FVal.toInt : FVal → Int
  | .num n m _ => if n then -(m : Int) else m
  | _ => 0

/-- INT32 accumulation with saturation (R50). -/
def accInt (old : Nat) (ts : List Term) : Nat × Flags :=
  let v := ts.foldl (fun acc t => acc + t.a.toInt * t.b.toInt) (sgn 32 old)
  if v > 2147483647 then (0x7FFFFFFF, fOF)
  else if v < -2147483648 then (0x80000000, fOF)
  else (unsgn 32 v, 0)

/-- Output elements in row-major order (R260). -/
def mmaCells : List (Nat × Nat) := (List.range 16).flatMap fun l => (List.range 16).map fun j => (l, j)

/-- The accumulator after an MMA, and the flags (R49, R50, R266, R295). -/
def mmaResult (k : Core) (op : MmaOp) : Nat × Flags :=
  let old := if op.cz then 0 else k.acc op.acc
  let res := mmaCells.map fun (l, j) =>
    let e := fld old (32 * (16 * l + j)) 32
    let ts := if op.spa then sparseTerms k op l j else denseTerms k op l j
    if isIntFmt op.fa then accInt e ts else accFloat e ts
  (pack 32 (res.map (·.1)), res.foldl (fun f r => f ||| r.2) 0)

/-- The tile slots an MMA names (R271, R291). -/
def mmaTiles (a b : Nat) (spa : Bool) : List Nat := if spa then [a, a + 1, b, b + 1] else [a, b]

/-- Some group of a compressed tile has codes that do not ascend strictly (R296). -/
def codesBad (codes f : Nat) : Bool :=
  (List.range 16).any fun l => (List.range (tileK f / 4)).any fun g =>
    let c := fun i => codeOf codes l (4 * g + i)
    !(decide (c 0 < c 1) && decide (c 1 < c 2) && decide (c 2 < c 3))

/-- An MMA completes: its accumulator and flags are written, poison passes, the counters count (R268, R270, R282,
R284, R296). -/
def State.mmaDone (s : State) (c : Nat) (op : MmaOp) : State :=
  let k := s.core c
  let (v, fl) := mmaResult k op
  let bad := (mmaTiles op.a op.b op.spa).any (k.tileBad.contains ·) || (!op.cz && k.accBad.contains op.acc)
  let s1 := s.setCore c ((k.setAcc op.acc v bad).addMx fl)
  let s2 := if bad then s1.markPoison c else s1
  if op.spa then
    let s3 := if codesBad (k.tile (op.a + 1)) op.fa then s2.addSp c spCODE else s2
    s3.count64 (pgCor c + 0x098) 1
  else s2.count64 (pgCor c + 0x090) 1

/-- The oldest issued MMA completes. -/
def State.mmaPop (s : State) (c : Nat) : State :=
  match (s.core c).mmaQ with
  | [] => s
  | op :: q => (s.modCore c fun k => { k with mmaQ := q }).mmaDone c op

/-- Every issued MMA completes, oldest first, before an instruction that could observe one (R277; log entry 32). -/
def State.drainN (s : State) (c : Nat) : Nat → State
  | 0 => s
  | n + 1 => (s.mmaPop c).drainN c n

def State.drain (s : State) (c : Nat) : State := s.drainN c (s.core c).mmaQ.length

/-- MMA_COMPLETE: 40 cycles after its start the oldest MMA writes its accumulator and flags (R268). -/
def execMmaComplete (c : CoreId) (s : State) : Host.Outcome State Fault Refusal := .next (s.mmaPop c)

/-- Issue an MMA: checks, then a place among the 16 uncompleted ones (R259, R267, R271, R280, R283, R398). -/
def mmaIssue (c : Nat) (op : EngOp) (m : MmaOp) (s : State) : IRes :=
  let k := s.core c
  let ts := mmaTiles m.a m.b m.spa
  if !(if m.spa then sparseOk m.fa m.fb m.mx else denseOk m.fa m.fb m.mx) then illegal op s
  else if ts.any fun t => decide (447 < t) then illegal op s
  else if s.anyBreach c ts [m.acc] [] then partTrap c op s
  else if k.pending ts || decide (16 ≤ k.mmaQ.length) then .stall s
  else .done (s.setCore c { k with mmaQ := k.mmaQ ++ [m] })

/-- The operands of an MMA with the formats of `mxfmt` (R251, R262, R281). -/
def mmaOf (k : Core) (acc : AccId) (a b : TileId) : MmaOp :=
  let m := k.mxfmt.toNat
  { acc := acc.val, a := a.val, b := b.val, fa := fld m 0 4, fb := fld m 4 4, mx := bitOf m 8, spa := bitOf m 9, cz := false }

/-- MMA (R262, R266). -/
def execMma (c : CoreId) (acc : AccId) (a b : TileId) (s : State) : Host.Outcome State Fault Refusal :=
  .next (s.issue c (.mma acc a b) (mmaIssue c (.mma acc a b) (mmaOf (s.core c) acc a b)))

def mmaxOf (acc : AccId) (a b : TileId) (fa fb : FmtCode) (mx spa cz : Bool) : MmaOp :=
  { acc := acc.val, a := a.val, b := b.val, fa := fa.toNat, fb := fb.toNat, mx := mx, spa := spa, cz := cz }

/-- MMAX (R265). -/
def execMmax (c : CoreId) (acc : AccId) (a b : TileId) (fa fb : FmtCode) (mx spa cz : Bool) (s : State) :
    Host.Outcome State Fault Refusal :=
  .next (s.issue c (.mmax acc a b fa fb mx spa cz)
    (mmaIssue c (.mmax acc a b fa fb mx spa cz) (mmaxOf acc a b fa fb mx spa cz)))

/-! ## Loads, stores and moves -/

/-- rs1 and the stride of a memory operand must be multiples of 4 (R262): the address that is not. -/
def misaligned4 (base stride : Nat) : Option Nat :=
  if base % 4 != 0 then some base else if stride % 4 != 0 then some (base + stride) else none

/-- Continue with the checked memory operand, or end with what the check found. -/
def withMem (s : State) (c : Nat) (write : Bool) (ps : List (Nat × Nat)) (f : List (Target × Nat) → State → IRes) : IRes :=
  match s.memCheck c write ps with
  | .bad r => r
  | .ok ts s1 => f ts s1

/-- Split bytes into runs of n. -/
def chunks (n : Nat) : Nat → List Byte → List (List Byte)
  | 0, _ => []
  | f + 1, l => l.take n :: chunks n f (l.drop n)

/-- A tile from its 16 lines, the bytes of each line beyond L kept (R261, R263). -/
def tileFromLines (old ll : Nat) (lines : List (List Byte)) : Nat :=
  (lines.zip (List.range 16)).foldl (fun acc (b, l) => setFld acc (256 * l) (8 * ll) (ofBytes b)) old

/-- A tile from K rows of 16 elements, element j of row i going to position i of line j (R263). -/
def tileFromRows (old f : Nat) (rows : List (List Byte)) : Nat :=
  let w := fmtBits f
  (rows.zip (List.range (tileK f))).foldl (fun acc (b, i) =>
    (List.range 16).foldl (fun a j => setFld a (256 * j + w * i) w (fld (ofBytes b) (w * j) w)) acc) old

/-- MLD (R263, R282). -/
def mldInstr (c : Nat) (op : EngOp) (rs1 rs2 : XReg) (t : Nat) (tr sc fsel : Bool) (s0 : State) : IRes :=
  let k := s0.core c
  let m := k.mxfmt.toNat
  let f := if fsel then fld m 4 4 else fld m 0 4
  let base := (k.getX rs1).toNat
  let stride := (k.getX rs2).toNat
  if decide (447 < t) || (sc && (rs2.val != 0 || tr)) || (!sc && tileK f == 0) then illegal op s0
  else if s0.anyBreach c [t] [] [] then partTrap c op s0
  else
    match misaligned4 base stride with
    | some a => .trap exLoadMis a s0
    | none =>
      if k.pending [t] then .stall s0
      else
        let n := if sc then 32 else if tr then 16 * fmtBits f / 8 else tileL f
        let rows := if sc then 1 else if tr then tileK f else 16
        withMem s0 c false (rowPieces base stride n rows) fun ts s1 =>
          let (l, bad, s2) := (s1.drain c).coreReadAll c ts
          let s3 := s2.modCore c fun k =>
            if sc then
              { (k.setScale t (ofBytes l)) with tileBad := if bad then addOnce k.tileBad t else k.tileBad }
            else if tr then k.setTile t (tileFromRows (k.tile t) f (chunks n rows l)) bad
            else k.setTile t (tileFromLines (k.tile t) (tileL f) (chunks n rows l)) bad
          .done (if bad then s3.markPoison c else s3)

def execMld (c : CoreId) (rs1 rs2 : XReg) (t : TileId) (tr sc fsel : Bool) (s : State) :
    Host.Outcome State Fault Refusal :=
  .next (s.issue c (.mld rs1 rs2 t tr sc fsel) (mldInstr c (.mld rs1 rs2 t tr sc fsel) rs1 rs2 t.val tr sc fsel))

/-- Convert elements in order; stochastic rounding advances the generator once for each (R40 to R46). -/
def convertAll (src dst : Nat) (sr : Bool) : Word → List Nat → List Nat × Flags × Word
  | x, [] => ([], 0, x)
  | x, p :: l =>
    let x1 := if sr then xorshift x else x
    let (r, f) := convertElem (if sr then .stochastic (randOf x1) else .nearest) src dst p
    let (rs, fs, x2) := convertAll src dst sr x1 l
    (r :: rs, f ||| fs, x2)

/-- The 256 elements of an accumulator, by row, or by column with TR (R264). -/
def accElems (v : Nat) (tr : Bool) : List Nat :=
  mmaCells.map fun (r, j) => fld v (32 * (if tr then 16 * j + r else 16 * r + j)) 32

/-- MST and MTV read the accumulator as FP32, or as INT32 when `mxfmt.FMTA` is an integer format (R264, R269; log
entry 25). -/
def accKind (k : Core) : Nat := if isIntFmt (fld k.mxfmt.toNat 0 4) then 9 else 0

/-- The matrix flags of a write-out (R270): the flags of the conversions, NaN to a format without NaN raising NV. -/
def writeOut (s : State) (c acc ofmt : Nat) (sr tr : Bool) : List Nat × State :=
  let k := s.core c
  let seed := BitVec.ofNat 32 (s.reg (pgCor c + 0x04C))
  let (es, fl, x) := convertAll (accKind k) ofmt sr seed (accElems (k.acc acc) tr)
  let s1 := s.modCore c fun k => k.addMx (fl &&& (fNX ||| fOF ||| fNV))
  (es, if sr then s1.setReg (pgCor c + 0x04C) x.toNat else s1)

/-- Whether OFMT and SR are permitted (R40, R264). -/
def ofmtOk (ofmt : Nat) (sr : Bool) : Bool := decide (ofmt ≤ 9) && (!sr || srPermitted ofmt)

/-- Bytes of rows of 16 elements packed by R31. -/
def rowBytes (w : Nat) (es : List Nat) : List Byte :=
  (List.range 16).flatMap fun r => toBytes (2 * w) (pack w ((es.drop (16 * r)).take 16))

/-- MST (R264, R282). -/
def mstInstr (c : Nat) (op : EngOp) (rs1 rs2 : XReg) (acc ofmt : Nat) (sr tr : Bool) (s0 : State) : IRes :=
  let k := s0.core c
  let base := (k.getX rs1).toNat
  let stride := (k.getX rs2).toNat
  if !ofmtOk ofmt sr then illegal op s0
  else if s0.anyBreach c [] [acc] [] then partTrap c op s0
  else
    match misaligned4 base stride with
    | some a => .trap exStoreMis a s0
    | none =>
      let w := fmtBits ofmt
      withMem s0 c true (rowPieces base stride (2 * w) 16) fun ts s1 =>
        let s2 := s1.drain c
        let bad := (s2.core c).accBad.contains acc
        let (es, s3) := writeOut s2 c acc ofmt sr tr
        .done (s3.coreWriteAll c bad ts (rowBytes w es))

def execMst (c : CoreId) (rs1 rs2 : XReg) (acc : AccId) (ofmt : FmtCode) (sr tr : Bool) (s : State) :
    Host.Outcome State Fault Refusal :=
  .next (s.issue c (.mst rs1 rs2 acc ofmt sr tr) (mstInstr c (.mst rs1 rs2 acc ofmt sr tr) rs1 rs2 acc.val ofmt.toNat sr tr))

/-- MLDA (R262, R282). -/
def mldaInstr (c : Nat) (op : EngOp) (rs1 rs2 : XReg) (acc : Nat) (s0 : State) : IRes :=
  let k := s0.core c
  let base := (k.getX rs1).toNat
  let stride := (k.getX rs2).toNat
  if s0.anyBreach c [] [acc] [] then partTrap c op s0
  else
    match misaligned4 base stride with
    | some a => .trap exLoadMis a s0
    | none =>
      withMem s0 c false (rowPieces base stride 64 16) fun ts s1 =>
        let (l, bad, s2) := (s1.drain c).coreReadAll c ts
        let s3 := s2.modCore c fun k => k.setAcc acc (ofBytes l) bad
        .done (if bad then s3.markPoison c else s3)

def execMlda (c : CoreId) (rs1 rs2 : XReg) (acc : AccId) (s : State) : Host.Outcome State Fault Refusal :=
  .next (s.issue c (.mlda rs1 rs2 acc) (mldaInstr c (.mlda rs1 rs2 acc) rs1 rs2 acc.val))

/-- Set accumulators of a list to +0, clean (R262). -/
def Core.zeroAccs (k : Core) : List Nat → Core
  | [] => k
  | a :: l => (k.setAcc a 0 false).zeroAccs l

def maskAccs (mask : Half) : List Nat := (List.range 16).filter fun a => mask.getLsbD a

/-- MZ (R262). -/
def mzInstr (c : Nat) (op : EngOp) (mask : Half) (s : State) : IRes :=
  if s.anyBreach c [] (maskAccs mask) [] then partTrap c op s
  else .done ((s.drain c).modCore c fun k => k.zeroAccs (maskAccs mask))

def execMz (c : CoreId) (mask : Half) (s : State) : Host.Outcome State Fault Refusal :=
  .next (s.issue c (.mz mask) (mzInstr c (.mz mask) mask))

/-- Write the low bits of a vector slot and its mark: a slot written whole from clean data is clean (R342). -/
def Core.writeV (k : Core) (v nbits x : Nat) (bad : Bool) : Core :=
  let k1 := k.setV v (setFld (k.vslot v) 0 nbits x)
  { k1 with vBad := if bad then addOnce k.vBad v else if nbits = 8192 then k.vBad.filter (· != v) else k.vBad }

/-- MTV (R264, R282). -/
def mtvInstr (c : Nat) (op : EngOp) (v acc ofmt : Nat) (sr : Bool) (s0 : State) : IRes :=
  if !ofmtOk ofmt sr then illegal op s0
  else if s0.anyBreach c [] [acc] [v] then partTrap c op s0
  else
    let s1 := s0.drain c
    let bad := (s1.core c).accBad.contains acc
    let (es, s2) := writeOut s1 c acc ofmt sr false
    let w := fmtBits ofmt
    let s3 := s2.modCore c fun k => k.writeV v (256 * w) (pack w es) bad
    .done (if bad then s3.markPoison c else s3)

def execMtv (c : CoreId) (v : VSlot) (acc : AccId) (ofmt : FmtCode) (sr : Bool) (s : State) :
    Host.Outcome State Fault Refusal :=
  .next (s.issue c (.mtv v acc ofmt sr) (mtvInstr c (.mtv v acc ofmt sr) v.val acc.val ofmt.toNat sr))

/-- MFV (R262, R282). -/
def mfvInstr (c : Nat) (op : EngOp) (v t : Nat) (s0 : State) : IRes :=
  if 447 < t then illegal op s0
  else if s0.anyBreach c [t] [] [v] then partTrap c op s0
  else if (s0.core c).pending [t] then .stall s0
  else
    let s1 := s0.drain c
    let bad := (s1.core c).vBad.contains v
    let s2 := s1.modCore c fun k => k.setTile t (k.vslot v) bad
    .done (if bad then s2.markPoison c else s2)

def execMfv (c : CoreId) (v : VSlot) (t : TileId) (s : State) : Host.Outcome State Fault Refusal :=
  .next (s.issue c (.mfv v t) (mfvInstr c (.mfv v t) v.val t.val))

end Sys2Proof.Machine
end

