-- ==== Sys2Proof/Machine/Issue.lean ====
section
/-! DEFINITION. Machine/Issue.lean: Sorus and stream issue, the end and the start of an op, core reset, enabling and debug
(R253 to R256, R272 to R276, R285 to R288, R382, R442). -/

namespace Sys2Proof.Machine

open Sys2Proof

/-! ## SCI and SCIN (R272 to R275) -/

/-- The address of the first poisoned entry among those that stand at `va`. -/
def badEntry (s : State) (c va : Nat) : List (Target × Nat) → Nat
  | [] => va
  | (t, n) :: ts =>
    match (List.range (n / 64)).find? fun i => (s.coreRead c { t with pa := t.pa + 64 * i } 64).2.1 with
    | some i => va + 64 * i
    | none => badEntry s c (va + n) ts

/-- Read `n` contiguous 64-byte entries at `va` at issue, as the core's own loads (R273, R382). A poisoned one raises the load
access-fault exception (R376). Entries placed later are read here too (log entry 130). -/
def withEntries (s : State) (c : Nat) (va n : Nat) (f : List Byte → State → IRes) : IRes :=
  withMem s c false (pieces va (64 * n)) fun ts s1 =>
    let (l, bad, s2) := s1.coreReadAll c ts
    if bad then .trap exLoadAccess (badEntry s1 c va ts) s2 else f l s2

/-- A blocking issue that has room for nothing stalls with the entries that it read at issue (R62, R259, R274). -/
def issueStall (s : State) (c : Nat) (l : List Byte) : IRes := .stall (s.modCore c fun k => { k with stalled := true, placeData := l })

/-- What is left of a blocking issue once `left` entries remain of those whose bytes are `l`. -/
def issuePlaced (s : State) (c left : Nat) (tag : Nat) (l : List Byte) (ok : State → IRes) : IRes :=
  if left = 0 then ok (s.modCore c fun k => { k with placing := none, placeData := [], stalled := false })
  else
    .stall (s.modCore c fun k =>
      { k with placing := some (tag, left), placeData := l.drop (l.length - 64 * left), stalled := false })

/-- An issue that ends with nothing placed. -/
def issueEnd (s : State) (c : Nat) (rd : XReg) (v : Nat) : IRes :=
  .done ((s.modCore c fun k => { k with stalled := false, placeData := [] }).setXn c rd v)

/-- The issue of a core's Sorus command. What an earlier attempt did not place follows without a further check of its memory
(R259, R274). -/
def sciInstr (c : Nat) (blocking : Bool) (rd rs1 rs2 : XReg) (s : State) : IRes :=
  let k := s.core c
  let base := (k.getX rs1).toNat
  let v := (k.getX rs2).toNat
  let x := fld v 0 4
  let q := fld v 4 6
  let n := fld v 16 16
  let ok := fun (s : State) => IRes.done ((s.count64 (pgCor c + 0x0B0) 1).setXn c rd 0)
  let try_ := fun (l : List Byte) (s1 : State) =>
    if fld v 10 6 != 0 || fld v 32 32 != 0 || n == 0 || !s1.queueOn x q then issueEnd s1 c rd 2
    else
      match s1.issueCmd x q l blocking (srcCore c) with
      | (.refused, s2) => issueEnd s2 c rd 2
      | (.busy, s2) => if blocking then issueStall s2 c l else issueEnd s2 c rd 1
      | (.placed serial missing, s2) => issuePlaced s2 c missing serial l ok
  match k.placing with
  | some (serial, _) =>
    let (left, s1) := s.feedCmd x serial k.placeData
    issuePlaced s1 c left serial k.placeData ok
  | none =>
    if k.stalled then try_ k.placeData s
    else if base % 64 != 0 then .trap exLoadMis base s
    else withEntries s c base n try_

/-- SCI (R272, R273). -/
def execSci (c : CoreId) (rd rs1 rs2 : XReg) (s : State) : Host.Outcome State Fault Refusal :=
  .next (s.issue c (.issue .sci rd rs1 rs2) (sciInstr c true rd rs1 rs2))

/-- SCIN (R272, R274). -/
def execScin (c : CoreId) (rd rs1 rs2 : XReg) (s : State) : Host.Outcome State Fault Refusal :=
  .next (s.issue c (.issue .scin rd rs1 rs2) (sciInstr c false rd rs1 rs2))

/-! ## STI and STIN (R382) -/

/-- A stream engine's registers. -/
def pgSeng (e : Nat) : Nat := pgClu (e / 8) + 0x100 + 0x40 * (e % 8)

/-- A stream engine takes new descriptors: enabled and not held (R382, R403). -/
def State.sengOn (s : State) (e : Nat) : Bool :=
  bitOf s.boot.clusters.toNat (e / 8) && s.rbit (pgSeng e) 0 && !s.rbit (pgSeng e) 1

/-- Put descriptors at the end of an engine's queue, in order. -/
def State.putDescs (s : State) (e : Nat) (addr : Nat) (prio7 : Bool) : List (List Byte) → State
  | [] => s
  | d :: ds =>
    let k := s.seng e
    (s.setSeng e { k with
      queue := k.queue ++ [{ serial := k.serial, raw := ofBytes d, addr := addr % 2 ^ 48, prio7 := prio7 }]
      serial := k.serial + 1 }).putDescs e (addr + 64) prio7 ds

/-- The issue of stream descriptors: an entry is placed as room frees; no other issuer's falls between (R382). -/
def stiInstr (c : Nat) (blocking : Bool) (rd rs1 rs2 : XReg) (s : State) : IRes :=
  let k := s.core c
  let base := (k.getX rs1).toNat
  let v := (k.getX rs2).toNat
  let e := homeOf c * 8 + fld v 0 3
  let n := fld v 16 16
  let put := fun (left : Nat) (l : List Byte) (s1 : State) =>
    let m := min left (64 - (s1.seng e).queue.length)
    let s2 := s1.putDescs e (base + 64 * (n - left)) k.prio7 (chunks 64 m l)
    let s3 := s2.setSeng e { s2.seng e with placer := if m == left then none else some c }
    issuePlaced s3 c (left - m) 0 l fun s4 => .done (s4.setXn c rd 0)
  let try_ := fun (l : List Byte) (s1 : State) =>
    if fld v 3 13 != 0 || fld v 32 32 != 0 || n == 0 || decide (64 < n) || !s1.sengOn e then issueEnd s1 c rd 2
    else
      let room := if (s1.seng e).placer.isSome then 0 else 64 - (s1.seng e).queue.length
      if !blocking && decide (room < n) then issueEnd s1 c rd 1
      else if room = 0 then issueStall s1 c l
      else put n l s1
  match k.placing with
  | some (_, left) => put left k.placeData s
  | none =>
    if k.stalled then try_ k.placeData s
    else if base % 64 != 0 then .trap exLoadMis base s
    else withEntries s c base n try_

/-- STI (R382). -/
def execSti (c : CoreId) (rd rs1 rs2 : XReg) (s : State) : Host.Outcome State Fault Refusal :=
  .next (s.issue c (.issue .sti rd rs1 rs2) (stiInstr c true rd rs1 rs2))

/-- STIN (R382). -/
def execStin (c : CoreId) (rd rs1 rs2 : XReg) (s : State) : Host.Outcome State Fault Refusal :=
  .next (s.issue c (.issue .stin rd rs1 rs2) (stiInstr c false rd rs1 rs2))

/-! ## WEND and OP_START (R254 to R256, R424, R442, R444) -/

/-- The status an op ends with at WEND (R442): from machine mode `FAULT`, with a slot marked poisoned `POISONED`. -/
def Core.endStatus (k : Core) : Nat := if k.machine then 3 else if k.opPoison then 5 else 0

/-- WEND: the engine instructions of the op complete, its claimed objects are checked, and its end goes to the dispatcher;
the core stays at op end until the dispatcher takes it (R255, R424, R448). It waits until every earlier SCI and STI has placed
its entries and every earlier fence has completed. Firmware that executes it while no op is active retires nothing until an op
starts (log entry 39). -/
def wendInstr (c : Nat) (s0 : State) : IRes :=
  let k0 := s0.core c
  if k0.placing.isSome || k0.stalled || k0.fencing.isSome then .stall s0
  else
  let s := s0.drain c
  match (s.core c).active with
  | none => .done (s.modCore c fun k => { k with idle := true })
  | some op =>
    let st := (s.core c).endStatus
    let s1 := (s.leakCheck c).count64 (pgCor c + 0x0A8) 1
    .done (s1.modCore c fun k =>
      { k with
        active := none, started := false, idle := true, taskid := 0, opPoison := false, wait := .opEnd
        ended := k.ended ++ [(op, st)] })

/-- WEND (R255, R272). -/
def execWend (c : CoreId) (s : State) : Host.Outcome State Fault Refusal :=
  .next (s.issue c .wend (wendInstr c))

/-- The integer registers at the start of an op: x10 the descriptor, x11 the core id, every other one undefined
(R254). -/
def startRegs (free c desc : Nat) : NMap DWord :=
  (List.range 31).map fun i =>
    (i + 1, if i + 1 = 10 then BitVec.ofNat 64 desc else if i + 1 = 11 then BitVec.ofNat 64 c else Config.freeWord (free + i))

/-- An op in the active slot starts: user mode, at its kernel's entry, with its task id (R254, R444). -/
def State.startOp (s : State) (c : Nat) (op : OpRef) : State :=
  let s1 : State := { s with free := s.free + 31 }
  s1.modCore c fun k =>
    { k with
      x := startRegs s.free c op.desc, pc := BitVec.ofNat 64 op.entry, machine := false, inTrap := false, resv := none
      taskid := BitVec.ofNat 12 op.task, active := some op, started := true, idle := false, opPoison := false, wait := .none
      replay := false, gated := false, hangSeen := false, midway := none }

/-- OP_START: the op in the active slot starts; an empty active slot takes the prefetched slot's op first (R254, R255). -/
def execOpStart (c : CoreId) (s : State) : Host.Outcome State Fault Refusal :=
  let k := s.core c
  if !s.coreOn c || k.started || k.wait == .opEnd || k.preempted.isSome then .next s
  else
    match k.active with
    | some op => .next (s.startOp c op)
    | none =>
      match k.prefetched with
      | some op => .next ((s.modCore c fun k => { k with prefetched := none }).startOp c op)
      | none => .next s

/-! ## Marks of pending tile slots (R398) -/

/-- The mark that a descriptor leaves on a tile slot, and the one it leaves once a later descriptor's tile has landed
(R398). -/
def markOf (e : Nat) (d : SDesc) : Nat := e * 65536 + d.serial % 65536
def supersededMark : Nat := 2 ^ 40

/-! ## Core reset and enabling (R137, R287, R288, R425, R426) -/

/-- A core's waiters leave their homes and channels (R426). -/
def State.withdraw (s : State) (c : Nat) : State :=
  let s1 : State := { s with
    homes := s.homes.map fun p => (p.1, { p.2 with waiters := p.2.waiters.filter fun w => w.core != c })
    fg := s.fg.map fun p => (p.1, { p.2 with waiters := p.2.waiters.filter fun w => w.1 != c }) }
  s1.modCore c fun k => { k with wait := .none, gated := false, hangSeen := false }

/-- The control processor starts again, in machine mode at the entry of its firmware section (R288, R613). -/
def State.restartCore (s : State) (c : Nat) : State :=
  let e := s.fwEntry 1 c
  s.modCore c fun k =>
    { k with
      pc := BitVec.ofNat 64 e, machine := true, inTrap := false, idle := false, wait := .none, resv := none, replay := false
      dbgHalt := false, stepping := false, midway := none }

/-- CORE_SOFT_RESET: the work slots, the staging buffer, the operand cache and the control processor are cleared; ops in a
slot end `ABORTED`; the core's owners and its source are reset (R287, R425, R422, R137). Its caches and its memory's lines
are kept, and the marks of slots that a bitmap stream still fills: a stream that the core issued lands its data (R287). -/
def State.resetCore (s : State) (c : Nat) : State :=
  let k := s.core c
  let ops := k.active.toList ++ k.preempted.toList ++ k.prefetched.toList
  let s0 := ops.foldl (fun acc o => acc.ownerReset o.task) s
  let s1 := ((s0.ownerReset k.taskid.toNat).withdraw c).fgBreakCore c
  let s2 : State := { s1 with
    sengs := s1.sengs.map fun p => (p.1, if p.2.placer == some c then { p.2 with placer := none } else p.2) }
  let s3 := s2.setCore c
    { l1d := k.l1d, l1dLru := k.l1dLru, l1i := k.l1i, hold := k.hold
      pend := k.pend.filter fun m =>
        s1.sengs.any fun p => p.2.work.any fun d => m.2 % supersededMark == markOf p.1 d && d.raw % 16 == 2
      ended := k.ended ++ ops.map fun o => (o, 4) }
  let s4 := (s3.setReg (pgCor c + 0x04C) 1).setReg (pgCor c + 0x308) 1
  (s4.sourceReset (srcCore c)).restartCore c

/-- CORE_SOFT_RESET: setting `COR.CTRL.SOFTRST` (R287). -/
def execCoreSoftReset (c : CoreId) (s : State) : Host.Outcome State Fault Refusal :=
  if !s.serves .cor then .next s else
  if bitOf s.boot.clusters.toNat (homeOf c) then .next (s.resetCore c) else .next (s.refuse (pgCor c + 0x010) 0x0A)

/-- The core has work: an op in a slot, a hold that names it, an uncompleted engine instruction, one that waits at
issue too, entries unplaced (R288). -/
def Core.busy (k : Core) : Bool :=
  k.active.isSome || k.prefetched.isSome || k.preempted.isSome || k.hold.isSome || !k.mmaQ.isEmpty || k.placing.isSome
    || k.stalled || k.fencing.isSome || k.midway.isSome || k.wait == .sync

/-- Setting or clearing `COR.CTRL.EN` (R286, R288). -/
def coreEnable (s : State) (c : Nat) (en : Bool) : State :=
  let off := pgCor c + 0x010
  if en then
    if !bitOf s.boot.clusters.toNat (homeOf c) then s.refuse off 0x0A
    else if !s.fwLoaded 1 c then s.refuse off 0x0E
    else if s.enabled (pgCor c) then s.setEn (pgCor c) true
    else (s.setEn (pgCor c) true).restartCore c
  else if (s.core c).busy then s.refuse off 0x0D
  else ((s.fgBreakCore c).withdraw c).setEn (pgCor c) false

/-- CORE_ENABLE (R288). -/
def execCoreEnable (c : CoreId) (en : Bool) (s : State) : Host.Outcome State Fault Refusal :=
  .next (if s.serves .cor then coreEnable s c en else s)

/-! ## Debug (R285, R286) -/

/-- A write of `COR.DBGCTL`: without effect, and refused, while core debug is locked (R286). -/
def dbgCtl (s : State) (c : Nat) (f : Core → Core) : State :=
  if s.boot.unlocked.getLsbD 0 then s.modCore c f else s.refuse (pgCor c + 0x058) 0x80

/-- HALT (R285). -/
def execHalt (c : CoreId) (s : State) : Host.Outcome State Fault Refusal :=
  .next (if s.serves .cor then dbgCtl s c fun k => { k with dbgHalt := true, stepping := false } else s)

/-- RESUME (R285). -/
def execResume (c : CoreId) (s : State) : Host.Outcome State Fault Refusal :=
  .next (if s.serves .cor then dbgCtl s c fun k => { k with dbgHalt := false, stepping := false } else s)

/-- STEP: one instruction retires, then the core halts again (R285). -/
def execStep (c : CoreId) (s : State) : Host.Outcome State Fault Refusal :=
  .next (if s.serves .cor then dbgCtl s c fun k => { k with stepping := true } else s)

end Sys2Proof.Machine
end

