-- ==== Sys2Proof/Machine/Sched.lean ====
section
/-! DEFINITION. Machine/Sched.lean: graphs, releases, the placing of ops, pre-emption (R433 to R448). -/

namespace Sys2Proof.Machine

open Sys2Proof

/-! ## Graphs in memory (R433, R434) -/

/-- Read memory for an agent at a device virtual address: the bytes and their poison; none where an address does not
translate or reaches nothing. -/
def State.vaRead (s : State) (ag va n : Nat) : Option (List Byte × Bool) × State :=
  match s.xlateRange ag va n false with
  | (.error _, s1) => (none, s1)
  | (.ok ps, s1) => if s1.piecesOk ps then let s2 := s1.meetPieces ps; (some (s2.readPieces ps), s2) else (none, s1)

/-- A range of device virtual addresses translates, and some of it stands on a channel that serves nothing now: what reads
or writes it waits (R465, R473). -/
def State.vaHeld (s : State) (ag va n : Nat) : Bool :=
  s.someHeld && (s.walksHeld ag va n || match s.xlateRange ag va n false with
    | (.error _, _) => false
    | (.ok ps, s1) => s1.piecesOk ps && s1.piecesHeld ps)

/-- Write memory for an agent at a device virtual address; what does not translate is not written. -/
def State.vaWrite (s : State) (ag va : Nat) (l : List Byte) : State :=
  match s.xlateRange ag va l.length true with
  | (.error _, s1) => s1
  | (.ok ps, s1) => if s1.piecesOk ps then s1.writeDest ps l false else s1

/-- The number at a device virtual address as a dispatcher reads it; poisoned data is an event (R553). -/
def State.dispRead (s : State) (h va n : Nat) : Option Nat × State :=
  match s.vaRead h va n with
  | (some (l, bad), s1) => (some (ofBytes l), if bad then s1.fatal .sch h 0x83 else s1)
  | (none, s1) => (none, s1)

/-- Fields of an op descriptor held as a number (R433). -/
def oKernel (d : Nat) : Nat := dfld d 0 2
def oPrio (d : Nat) : Nat := dfld d 2 1 % 8
def oTask (d : Nat) : Nat := dfld d 4 2 % 4096
def oHome (d : Nat) : Nat := dfld d 6 2 % 32
def oCmask (d : Nat) : Nat := dfld d 8 4
def oDepcnt (d : Nat) : Nat := dfld d 12 2
def oNsucc (d : Nat) : Nat := dfld d 14 2

/-- Reserved fields and values of an op descriptor against the launch (R433, R436). -/
def opDescOk (d nkern lmask : Nat) : Bool :=
  dfld d 2 1 < 8 && dfld d 3 1 == 0 && dfld d 4 2 < 4096 && dfld d 6 2 < 32 && dfld d 21 3 == 0
    && (if oNsucc d ≤ 8 then dfld d 24 8 == 0 && (List.range 8).all (fun i => decide (i < oNsucc d) || dfld d (32 + 4 * i) 4 == 0)
        else dfld d 24 8 % 4 == 0)
    && decide (oKernel d < nkern) && bitOf lmask (oHome d) && oCmask d != 0 && (oCmask d &&& lmask) == oCmask d

/-- Fields of a graph header (R434). -/
def ghOk (g : Nat) : Bool :=
  let nops := dfld g 0 4
  decide (1 ≤ nops ∧ nops ≤ 2 ^ 24) && decide (1 ≤ dfld g 4 4 ∧ dfld g 4 4 ≤ nops) && dfld g 32 2 != 0 && dfld g 34 2 == 0
    && dfld g 40 24 == 0

/-- An op as the dispatchers hold it: its descriptor read, and its kernel's entry (R433, R444). -/
def State.opRef (s : State) (h gid : Nat) (g : Graph) (i : Nat) : Option OpRef × State :=
  let desc := g.opBase + 128 * i
  match s.dispRead h desc 128 with
  | (none, s1) => (none, s1)
  | (some d, s1) =>
    let (e, s2) := s1.dispRead h (g.ktab + 8 * oKernel d) 8
    (some { graph := gid, index := i, desc := desc, prio := oPrio d, task := oTask d, entry := (e.getD 0) % 2 ^ 48, cmask := oCmask d }, s2)

/-- An op's descriptor or its kernel's entry stands on a channel that serves nothing now (R473). -/
def State.opHeld (s : State) (h ktab desc : Nat) : Bool :=
  s.vaHeld h desc 128 || s.vaHeld h (ktab + 8 * ((s.dispRead h desc 2).1.getD 0)) 8

/-! ## Messages (R439, R440, R448) -/

def inboxCap : Nat := 256
def readyCap : Nat := 1024

/-- Placements in the inbox move to the ready list while it has room (R448). -/
def State.absorb (s : State) (h : Nat) : State :=
  s.modHome h fun k =>
    let (inb, rdy) := k.inbox.foldl (fun (acc : List SchMsg × List OpRef) m => match m with
      | .place op => if acc.2.length + k.expired.length < readyCap then (acc.1, acc.2 ++ [op]) else (acc.1 ++ [m], acc.2)
      | .release _ _ _ => (acc.1 ++ [m], acc.2)) ([], k.ready)
    { k with inbox := inb, ready := rdy }

/-- Send a message to a home's inbox: false where it is full. A placement goes on to the ready list, or waits in the inbox
when that list is full, which RLFULL counts (R448, R449). -/
def State.post (s : State) (h : Nat) (m : SchMsg) : Bool × State :=
  let k := s.home h
  if inboxCap ≤ k.inbox.length then (false, s)
  else
    let full := match m with
      | .place _ => decide (readyCap ≤ k.onList.length)
      | .release _ _ _ => false
    let s1 := (s.modHome h fun k => { k with inbox := k.inbox ++ [m] }).absorb h
    (true, if full then s1.count32 (pgSch h + 0x074) 1 else s1)

/-- INBFULL counts a message, once, when it is held because the inbox it goes to is full (R449). -/
def State.countInbox (s : State) (to_ : Nat) (counted : Bool) : State :=
  if counted || (s.home to_).inbox.length < inboxCap then s else s.count32 (pgSch to_ + 0x078) 1

/-- A dispatcher holds a message, behind those it holds already (R448). -/
def State.holdMsg (s : State) (h to_ : Nat) (m : SchMsg) : State :=
  (s.countInbox to_ false).modHome h fun k => { k with held := k.held ++ [(to_, decide (inboxCap ≤ (s.home to_).inbox.length), m)] }

/-- A dispatcher sends a message, in order behind those it holds; a full inbox makes it hold the message (R448). -/
def State.sendMsg (s : State) (h to_ : Nat) (m : SchMsg) : State :=
  if !(s.home h).held.isEmpty then s.holdMsg h to_ m
  else
    let (ok, s1) := s.post to_ m
    if ok then s1 else s.holdMsg h to_ m

/-- A dispatcher sends what it holds, in order, as far as the inboxes have room. -/
def State.sendHeld (s : State) (h : Nat) : Nat → State
  | 0 => s
  | n + 1 =>
    match (s.home h).held with
    | [] => s
    | (to_, counted, m) :: rest =>
      let (ok, s1) := s.post to_ m
      if ok then (s1.modHome h fun k => { k with held := rest }).sendHeld h n
      else (s.countInbox to_ counted).modHome h fun k => { k with held := (to_, true, m) :: rest }

/-- The cluster whose ready list a ready op joins: that of `LASTCORE`, or the one with the fewest entries (R439). -/
def State.placeHome (s : State) (op : OpRef) (lastcore : Nat) : Nat :=
  let lh := fld lastcore 6 5
  if bitOf lastcore 15 && bitOf op.cmask lh then lh
  else
    let hs := (List.range 32).filter fun h => bitOf op.cmask h
    match hs with
    | [] => 0
    | h :: t => t.foldl (fun b h => if (s.home h).onList.length < (s.home b).onList.length then h else b) h

/-- Place a ready op: the dispatcher `h` sends it to the inbox of its cluster (R439). -/
def State.placeReady (s : State) (h gid i : Nat) : State :=
  match nfind s.graphs gid with
  | none => s
  | some g =>
    match s.opRef h gid g i with
    | (none, s1) => s1
    | (some op, s1) =>
      let (lc, s2) := s1.dispRead h (op.desc + 16) 2
      s2.sendMsg h (s2.placeHome op (lc.getD 0)) (.place op)

/-! ## The hub's count of a graph (R438, R440, R450) -/

/-- The first end that was not `OK`, or the first dropped release, decides a graph's status (R438). -/
def State.graphBad (s : State) (gid status reason : Nat) : State :=
  match nfind s.graphs gid with
  | some g => if g.bad.isSome then s else { s with graphs := nset s.graphs gid { g with bad := some (reason, status) } }
  | none => s

/-- A launch completes (R438). -/
def State.graphEnd (s : State) (gid : Nat) (status reason : Nat) : State :=
  match nfind s.graphs gid with
  | some g => ({ s with graphs := ndel s.graphs gid } : State).hostEnd g.queue g.cid status reason 0
  | none => s

/-- The hub counts an op's end; the last one completes the launch (R438). -/
def State.graphCount (s : State) (gid status : Nat) : State :=
  let s1 := if status = 0 then s else s.graphBad gid status 0
  match nfind s1.graphs gid with
  | none => s1
  | some g =>
    let g1 := { g with ended := g.ended + 1 }
    let s2 : State := { s1 with graphs := nset s1.graphs gid g1 }
    if g1.ended = g1.nops then s2.graphEnd gid (match g1.bad with | some b => b.2 | none => 0) (match g1.bad with | some b => b.1 | none => 0)
    else s2

/-! ## LAUNCH_GRAPH (R436, R437) -/

/-- Place what roots are left, while the inboxes take them; the hub keeps the rest (R448). -/
def State.placeRoots (s : State) (gid : Nat) : List Nat → State
  | [] => s
  | i :: rest =>
    match nfind s.graphs gid with
    | none => s
    | some g =>
      match s.opRef agHub gid g i with
      | (none, s1) => ({ s1 with graphs := nset s1.graphs gid { g with roots := rest } } : State).placeRoots gid rest
      | (some op, s1) =>
        let (lc, s2) := s1.dispRead agHub (op.desc + 16) 2
        let to_ := s2.placeHome op (lc.getD 0)
        let (ok, s3) := s2.post to_ (.place op)
        if ok then ({ s3 with graphs := nset s3.graphs gid { g with roots := rest, rootHeld := false } } : State).placeRoots gid rest
        else { s2.countInbox to_ g.rootHeld with graphs := nset s2.graphs gid { g with roots := i :: rest, rootHeld := true } }

/-- Check every descriptor of a graph once, lowest first (R436). -/
def State.checkOps (s : State) (g nkern lmask : Nat) : Nat → Nat → (Option (Nat × Nat)) × State
  | 0, _ => (none, s)
  | n + 1, i =>
    match s.vaRead agHub (dfld g 8 8 + 128 * i) 128 with
    | (none, s1) => (some (hsRefused, 0x06), s1)
    | (some (l, bad), s1) =>
      if bad then (some (hsPoisoned, 0), s1.fatal .hub 0 0x83)
      else if !opDescOk (ofBytes l) nkern lmask then (some (hsRefused, 0x80), s1)
      else s1.checkOps g nkern lmask n (i + 1)

/-- Check the root list (R436). -/
def State.checkRoots (s : State) (g nops : Nat) : List Nat → (Option (Nat × Nat)) × State
  | [] => (none, s)
  | r :: rs =>
    if nops ≤ r then (some (hsRefused, 0x81), s)
    else
      match s.vaRead agHub (dfld g 8 8 + 128 * r + 12) 2 with
      | (some (l, _), s1) => if ofBytes l != 0 then (some (hsRefused, 0x81), s1) else s1.checkRoots g nops rs
      | (none, s1) => (some (hsRefused, 0x06), s1)

/-- Write `DEPLEFT` = `DEPCNT` in every descriptor (R437). -/
def State.initOps (s : State) (base : Nat) : Nat → Nat → State
  | 0, _ => s
  | n + 1, i =>
    let a := base + 128 * i
    match s.vaRead agHub (a + 12) 2 with
    | (some (l, _), s1) => (s1.vaWrite agHub (a + 18) l).initOps base n (i + 1)
    | (none, s1) => s1.initOps base n (i + 1)

/-- Check the kernel table: a non-zero reserved field, or an entry address that is not 2-byte aligned (R12, R434). -/
def checkKtab (l : List Byte) (nkern : Nat) : Option (Nat × Nat) :=
  let es := (List.range nkern).map fun i => ofBytes ((l.drop (8 * i)).take 8)
  if es.any fun e => 2 ^ 48 ≤ e then some (hsRefused, 0x01)
  else if es.any fun e => e % 2 == 1 then some (hsRefused, 0x05)
  else none

/-- What LAUNCH_GRAPH reads stands on a channel that serves nothing now: it waits (R473). -/
def State.launchReadsHeld (s : State) (c : HCmd) : Bool :=
  let ha := dfld c.raw 8 8
  s.vaHeld agHub ha 64 || (match s.vaRead agHub ha 64 with
    | (none, _) => false
    | (some (l, _), _) =>
      let g := ofBytes l
      ghOk g && (s.vaHeld agHub (dfld g 8 8) (128 * dfld g 0 4) || s.vaHeld agHub (dfld g 16 8) (4 * dfld g 4 4)
        || s.vaHeld agHub (dfld g 24 8) (8 * dfld g 32 2)))

/-- The lowest free graph entry (R437). -/
def State.freeGraph (s : State) : Option Nat := (List.range 16).find? fun i => (nfind s.graphs i).isNone

/-- Check and launch a graph (R436, R437). -/
def launchGraph (q : Nat) (c : HCmd) (s : State) : State :=
  let ha := dfld c.raw 8 8
  let fin := fun (r : Nat × Nat) (a : State) => a.hostEnd q c.cid r.1 r.2 0
  if ha % 64 != 0 then fin (hsRefused, 0x05) s
  else
    match s.vaRead agHub ha 64 with
    | (none, s1) => fin (hsRefused, 0x06) s1
    | (some (l, bad), s1) =>
      let g := ofBytes l
      let nops := dfld g 0 4
      let lmask := dfld g 36 4
      if bad then fin (hsPoisoned, 0) (s1.fatal .hub 0 0x83)
      else if !ghOk g then fin (hsRefused, 0x01) s1
      else if dfld g 8 8 % 128 != 0 || dfld g 16 8 % 4 != 0 || dfld g 24 8 % 8 != 0 then fin (hsRefused, 0x05) s1
      else if lmask = 0 ∨ (lmask &&& s.boot.clusters.toNat) ≠ lmask then fin (hsRefused, 0x0A) s1
      else
        match s1.checkOps g (dfld g 32 2) lmask nops 0 with
        | (some r, s2) => fin r s2
        | (none, s2) =>
          match s2.vaRead agHub (dfld g 16 8) (4 * dfld g 4 4) with
          | (none, s3) => fin (hsRefused, 0x06) s3
          | (some (rl, rbad), s3) =>
            let roots := (List.range (dfld g 4 4)).map fun i => ofBytes ((rl.drop (4 * i)).take 4)
            if rbad then fin (hsPoisoned, 0) (s3.fatal .hub 0 0x83)
            else
              match s3.checkRoots g nops roots with
              | (some r, s4) => fin r s4
              | (none, s4) =>
                match s4.vaRead agHub (dfld g 24 8) (8 * dfld g 32 2) with
                | (none, s5) => fin (hsRefused, 0x06) s5
                | (some (kl, kbad), s5) =>
                  match (if kbad then some (hsPoisoned, 0) else checkKtab kl (dfld g 32 2)), s5.freeGraph with
                  | some r, _ => fin r (if kbad then s5.fatal .hub 0 0x83 else s5)
                  | none, none => fin (hsRefused, 0x07) s5
                  | none, some gid =>
                    let gr : Graph :=
                      { queue := q, cid := c.cid, header := ha, nops := nops, opBase := dfld g 8 8, ktab := dfld g 24 8, roots := roots
                        serial := s5.serial }
                    let s6 := (({ s5 with serial := s5.serial + 1 } : State).hostStart q c.cid).initOps gr.opBase nops 0
                    ({ s6 with graphs := nset s6.graphs gid gr } : State).placeRoots gid roots

/-- LAUNCH_GRAPH: the queue's next command launches a graph; or the roots that a held launch still has are placed (R436,
R448). -/
def execLaunchGraph (q : QueueId) (s : State) : Host.Outcome State Fault Refusal :=
  if !s.working then .next s
  else
    match s.graphs.find? fun g => g.2.queue == q.val && !g.2.roots.isEmpty with
    | some (gid, g) => .next (if g.roots.any fun i => s.opHeld agHub g.ktab (g.opBase + 128 * i) then s else s.placeRoots gid g.roots)
    | none => .next (s.hostRun q 0x01 fun c a => if a.launchReadsHeld c then a else launchGraph q c a)

/-! ## OP_RELEASE and OP_END_REPORT (R440, R442) -/

/-- The graph entry that a launch holds, while it has not completed (R438, R440). -/
def State.launchOf (s : State) (serial : Nat) : Option (Nat × Graph) := s.graphs.find? fun p => p.2.serial == serial

/-- Treat a release at its home: `DEPLEFT` in memory decides, also once the launch has completed (R440). -/
def State.takeRelease (s : State) (h serial desc i : Nat) : State :=
  let a := desc + 18
  let s1 := s.count64 (pgSch h + 0x068) 1
  match s1.dispRead h a 2 with
  | (none, s2) => s2
  | (some 0, s2) =>
    let s3 := s2.count32 (pgSch h + 0x07C) 1
    match s3.launchOf serial with
    | some (gid, _) => s3.graphBad gid 3 0x83
    | none => s3
  | (some n, s2) =>
    let s3 := s2.vaWrite h a (toBytes 2 (n - 1))
    match s3.launchOf serial with
    | some (gid, _) => if n = 1 then s3.placeReady h gid i else s3
    | none => s3

/-- What a release touches stands on a channel that serves nothing now: it waits (R473). -/
def State.releaseHeld (s : State) (h serial desc : Nat) : Bool :=
  match s.launchOf serial with
  | some (_, g) => s.opHeld h g.ktab desc
  | none => s.vaHeld h desc 128

/-- OP_RELEASE: a dispatcher sends what it holds as far as it can, and the oldest release in its inbox is treated, whatever
it still holds, so that the back-pressure resolves (R440, R448). -/
def execOpRelease (h : HomeId) (s : State) : Host.Outcome State Fault Refusal :=
  if !s.working then .next s
  else
    let s1 := (s.sendHeld h (s.home h).held.length).absorb h
    match (s1.home h).inbox.findIdx? fun m => match m with | .release _ _ _ => true | .place _ => false with
    | none => .next s1
    | some i =>
      match (s1.home h).inbox[i]? with
      | some (.release ser desc ix) =>
        .next (if s1.releaseHeld h ser desc then s1
          else (s1.modHome h fun k => { k with inbox := k.inbox.eraseIdx i }).takeRelease h ser desc ix)
      | _ => .next s1

/-- Send the releases of an ended op, in successor-array order; an index beyond the graph is dropped (R440). -/
def State.releaseAll (s : State) (h gid : Nat) (g : Graph) : List Nat → State
  | [] => s
  | i :: is =>
    if g.nops ≤ i then ((s.count32 (pgSch h + 0x07C) 1).graphBad gid 3 0x82).releaseAll h gid g is
    else
      let desc := g.opBase + 128 * i
      match s.dispRead h (desc + 6) 2 with
      | (none, s1) => s1.releaseAll h gid g is
      | (some hm, s1) => (s1.sendMsg h (hm % 32) (.release g.serial desc i)).releaseAll h gid g is

/-- The successors of an op (R433). -/
def State.successors (s : State) (h : Nat) (desc : Nat) : List Nat × State :=
  match s.dispRead h desc 64 with
  | (none, s1) => ([], s1)
  | (some d, s1) =>
    let n := oNsucc d
    if n ≤ 8 then ((List.range n).map fun i => dfld d (32 + 4 * i) 4, s1)
    else
      match s1.dispRead h (dfld d 24 8) (4 * n) with
      | (some l, s2) => ((List.range n).map fun i => dfld l (4 * i) 4, s2)
      | (none, s2) => ([], s2)

/-- The dispatcher takes an op's end: `OSTAT`, the releases, the report to the hub (R440). -/
def State.takeEnd (s : State) (h : Nat) (op : OpRef) (status : Nat) : State :=
  let s1 := s.count64 (pgSch h + 0x058) 1
  let s2 := if status = 4 then s1.count32 (pgSch h + 0x080) 1 else s1
  match nfind s2.graphs op.graph with
  | none => s2
  | some g =>
    let s3 := s2.vaWrite h (op.desc + 20) (toBytes 1 status)
    let (succ, s4) := s3.successors h op.desc
    (s4.releaseAll h op.graph g succ).graphCount op.graph status

/-- What an op's end reads or writes stands on a channel that serves nothing now: it waits (R473). -/
def State.endHeld (s : State) (h : Nat) (op : OpRef) : Bool :=
  s.vaHeld h op.desc 128 || (match nfind s.graphs op.graph with
    | none => false
    | some g =>
      let d := ((s.dispRead h op.desc 64).1).getD 0
      (decide (8 < oNsucc d) && s.vaHeld h (dfld d 24 8) (4 * oNsucc d))
        || ((s.successors h op.desc).1.any fun i => s.vaHeld h (g.opBase + 128 * i) 128))

/-- OP_END_REPORT: a dispatcher that holds no message takes the oldest reported end of its lowest-numbered core that has
one (R440, R448). -/
def execOpEndReport (h : HomeId) (s : State) : Host.Outcome State Fault Refusal :=
  if !s.working then .next s
  else
    let s1 := s.sendHeld h (s.home h).held.length
    if !(s1.home h).held.isEmpty then .next s1
    else
      match ((List.range 64).map (64 * h.val + ·)).find? fun c => !(s1.core c).ended.isEmpty with
      | none => .next s1
      | some c =>
        match (s1.core c).ended with
        | [] => .next s1
        | (op, st) :: rest =>
          .next (if s1.endHeld h op then s1 else (s1.modCore c fun k => { k with ended := rest, wait := if k.wait == .opEnd then .none else k.wait }).takeEnd h op st)

/-! ## Placement (R443, R444) -/

/-- A core that the dispatcher may place ops on (R443). -/
def State.placeable (s : State) (c : Nat) : Bool :=
  s.coreOn c && !s.rbit (pgCor c + 0x040) 1

/-- The active slot is empty: no op in it, none ended and not yet reported, none pre-empted from it. -/
def Core.activeFree (k : Core) : Bool := k.active.isNone && k.preempted.isNone && k.wait != .opEnd

/-- `LASTCORE` is written and the op counted (R444, R449). -/
def State.notePlaced (s : State) (h c : Nat) (op : OpRef) : State :=
  (s.vaWrite h (op.desc + 16) (toBytes 2 (c + 0x8000))).count64 (pgSch h + 0x050) 1

/-- Where steps 2 and 3 of R443 put an op: core, and whether it is the active slot. -/
def State.slotFor (s : State) (h : Nat) : Option (Nat × Bool) :=
  let cs := ((List.range 64).map (64 * h + ·)).filter s.placeable
  match cs.find? fun c => (s.core c).activeFree && (s.core c).prefetched.isNone with
  | some c => some (c, true)
  | none => (cs.find? fun c => (s.core c).prefetched.isNone).map fun c => (c, false)

/-- Put an op in a slot by steps 2 and 3 of R443; none where no slot is free. -/
def State.placeFree (s : State) (h : Nat) (op : OpRef) : Option State :=
  match s.slotFor h with
  | none => none
  | some (c, true) => some ((s.modCore c fun k => { k with active := some op, started := false }).notePlaced h c op)
  | some (c, false) => some ((s.modCore c fun k => { k with prefetched := some op }).notePlaced h c op)

/-- The core of `LASTCORE` for step 1 of R443. -/
def State.affine (s : State) (h : Nat) (op : OpRef) : Option Nat :=
  if !s.rbit (pgSch h + 0x040) 1 then none
  else
    match (s.dispRead h (op.desc + 16) 2).1 with
    | some lc =>
      let c := lc % 2048
      if bitOf lc 15 && homeOf c == h && s.placeable c then some c else none
    | none => none

/-- Place one ready op by the first step of R443 that applies; none where it stays on the list. -/
def State.placeOne (s : State) (h : Nat) (op : OpRef) (expired : Bool) : Option State :=
  match if expired then none else s.affine h op with
  | some c =>
    if (s.core c).prefetched.isNone then
      some (((s.modCore c fun k => { k with prefetched := some op }).notePlaced h c op).count64 (pgSch h + 0x060) 1)
    else if (s.core c).hold.isNone then some (s.modCore c fun k => { k with hold := some op })
    else s.placeFree h op
  | none => s.placeFree h op

/-- The order in which a dispatcher considers its ready ops: by priority; those whose hold expired ahead of their equals;
oldest first (R443). -/
def Home.order (k : Home) : List (OpRef × Bool) :=
  [7, 6, 5, 4, 3, 2, 1, 0].flatMap fun p =>
    ((k.expired.filter (·.prio == p)).map fun o => (o, true)) ++ (k.ready.filter (·.prio == p)).map fun o => (o, false)

/-- Take an op off the lists. -/
def Home.takeOp (k : Home) (op : OpRef) (expired : Bool) : Home :=
  if expired then { k with expired := k.expired.erase op } else { k with ready := k.ready.erase op }

/-- The first op of an order that finds a place; an op whose descriptor waits for its channel makes those behind it wait
(R473). -/
def State.placeFirst (s : State) (h : Nat) : List (OpRef × Bool) → Option State
  | [] => none
  | (op, ex) :: rest =>
    if s.vaHeld h op.desc 128 then none
    else
      match s.placeOne h op ex with
      | some s1 => some ((s1.modHome h fun k => k.takeOp op ex).absorb h)
      | none => s.placeFirst h rest

/-- A held op whose core's prefetched slot has emptied goes there (R443). -/
def State.placeHeld (s : State) (h : Nat) : Option State :=
  ((List.range 64).map (64 * h + ·)).findSome? fun c =>
    let k := s.core c
    match k.hold with
    | some op =>
      if k.prefetched.isNone && s.placeable c && !s.vaHeld h op.desc 128 then
        some (((s.modCore c fun k => { k with prefetched := some op, hold := none }).notePlaced h c op).count64 (pgSch h + 0x060) 1)
      else none
    | none => none

/-- OP_PLACEMENT: a dispatcher places one op (R443, R444). -/
def execOpPlacement (h : HomeId) (s : State) : Host.Outcome State Fault Refusal :=
  if !s.working then .next s
  else
    let s1 := s.absorb h
    match s1.placeHeld h with
    | some s2 => .next s2
    | none => .next ((s1.placeFirst h (s1.home h).order).getD s1)

/-- AFFINITY_HOLD_EXPIRY: a hold that reaches AFFWIN expires, and its op goes by the other steps at once (R443, R449). -/
def execAffinityHoldExpiry (c : CoreId) (s : State) : Host.Outcome State Fault Refusal :=
  match (s.core c).hold with
  | none => .next s
  | some op =>
    let h := homeOf c
    let s1 := (s.modCore c fun k => { k with hold := none }).count32 (pgSch h + 0x084) 1
    if s.working && !s.vaHeld h op.desc 128 then .next ((s1.placeFree h op).getD (s1.modHome h fun k => { k with expired := k.expired ++ [op] }))
    else .next (s1.modHome h fun k => { k with expired := k.expired ++ [op] })

/-! ## Pre-emption (R445 to R447) -/

/-- Where the context of a core is saved (R447). -/
def State.ctxAddr (s : State) (c : Nat) : Nat :=
  scratchBase (homeOf c) + (s.home (homeOf c)).carve * 0x100000 - 0x40000 + (c % 64) * 0x1000

/-- The 4 KiB context of a core (R447). -/
def State.context (s : State) (c : Nat) (op : OpRef) : List Byte :=
  let k := s.core c
  let w := toBytes 8
  (List.range 32).flatMap (fun i => w (if i = 0 then 0 else (nget k.x i 0).toNat))
    ++ w k.pc.toNat ++ w k.mxfmt.toNat ++ w k.mxflags.toNat ++ w (s.reg (pgCor c + 0x04C)) ++ w k.vcfg.toNat ++ w k.vflags.toNat
    ++ w (s.reg (pgCor c + 0x308)) ++ w k.syncst.toNat ++ w k.taskid.toNat ++ w op.desc ++ List.replicate 0x30 (0 : Byte)
    ++ (List.range 8).flatMap (fun i => match k.ranges[i]? with
        | some (a, n) => toBytes 16 (a % 2 ^ 48 + 2 ^ 48 * (n % 512) + 2 ^ 127)
        | none => toBytes 16 0)
    ++ (List.range 8).flatMap (fun i => toBytes 128 (nget k.masks i 0).toNat)
    ++ List.replicate 0xA00 (0 : Byte)

/-- The core that a priority-7 op pre-empts: the lowest priority, then the lowest number (R445). -/
def State.victim (s : State) (h : Nat) : Option (Nat × OpRef) :=
  ((List.range 64).map (64 * h + ·)).foldl (fun best c =>
    let k := s.core c
    match k.active with
    | some op =>
      if s.placeable c && s.rbit (pgCor c + 0x040) 0 && decide (0 < s.scratchSize h) && decide (op.prio < 7) && k.preempted.isNone then
        match best with
        | some (_, o) => if op.prio < OpRef.prio o then some (c, op) else best
        | none => some (c, op)
      else best
    | none => best) none

/-- The op has started and its core stands at an instruction boundary in user mode, or inside an instruction that R426
withdraws. -/
def State.preemptible (s : State) (c : Nat) : Bool :=
  let k := s.core c
  let inFsync := s.fg.any fun p => p.2.waiters.any fun w => w.1 == c && decide (2 ≤ w.2.2)
  k.started && !k.machine && !k.begun && !k.dbgHalt && (k.wait == .none || (k.wait == .sync && !inFsync))

/-- Save a core's context and start a priority-7 op in its place (R446, R447). -/
def State.preemptCore (s0 : State) (h c : Nat) (old op : OpRef) : State :=
  let s := (s0.withdraw c).drain c
  let s1 := s.writePa (s.ctxAddr c) (s.context c old) false
  let s2 := s1.modCore c fun k =>
    { k with preempted := some old, prePoison := k.opPoison, mxflags := 0, vflags := 0, ranges := [], resv := none, midway := none }
  ((s2.startOp c op).notePlaced h c op).count32 (pgSch h + 0x070) 1

/-- PREEMPT: a priority-7 op left on the list pre-empts the op of lowest priority on a core that qualifies, once that core
stands at a boundary in user mode (R445, R446). -/
def execPreempt (h : HomeId) (s : State) : Host.Outcome State Fault Refusal :=
  if !s.working || !s.rbit (pgSch h + 0x040) 0 then .next s
  else
    match (s.home h).order.find? fun o => o.1.prio == 7 && (s.placeOne h o.1 o.2).isNone with
    | none => .next s
    | some (op, ex) =>
      match s.victim h with
      | none => .next s
      | some (c, old) =>
        if s.preemptible c && !s.vaHeld h op.desc 128 then
          .next (((s.modHome h fun k => k.takeOp op ex).absorb h).preemptCore h c old op)
        else .next s

/-- Restore a context of 4 KiB into a core; poison that the read meets is an event (R446, R447, R553). -/
def State.restoreCtx (s0 : State) (c : Nat) (op : OpRef) : State :=
  let a := s0.ctxAddr c
  let sm := s0.meet a 0x1000
  let s := if sm.isPoisoned a 0x1000 then sm.poisonRead .l2c (homeOf c) a else sm
  let l := s.bytes a 0x1000
  let f := fun off n => ofBytes ((l.drop off).take n)
  let rg := fun i => f (0x180 + 16 * i) 16
  let s1 := (s.setReg (pgCor c + 0x04C) (f 0x118 4)).setReg (pgCor c + 0x308) (f 0x130 4)
  s1.modCore c fun k =>
    { k with
      x := (List.range 31).map fun i => (i + 1, BitVec.ofNat 64 (f (8 * (i + 1)) 8))
      pc := BitVec.ofNat 64 (f 0x100 8), mxfmt := BitVec.ofNat 10 (f 0x108 8), mxflags := BitVec.ofNat 5 (f 0x110 8)
      vcfg := BitVec.ofNat 19 (f 0x120 8), vflags := BitVec.ofNat 6 (f 0x128 8), syncst := BitVec.ofNat 5 (f 0x138 8)
      taskid := BitVec.ofNat 12 (f 0x140 8)
      ranges := ((List.range 8).filter fun i => bitOf (rg i) 127).map fun i => (fld (rg i) 0 48, fld (rg i) 48 9)
      masks := (List.range 8).map fun i => (i, BitVec.ofNat 1024 (f (0x200 + 128 * i) 128))
      active := some op, preempted := none, started := true, idle := false, machine := false, inTrap := false, resv := none
      opPoison := k.prePoison, wait := .none, midway := none }

/-- PREEMPT_RESTORE: the priority-7 op has ended; the core takes its context back and the pre-empted op goes on at its
saved pc (R446). -/
def execPreemptRestore (c : CoreId) (s : State) : Host.Outcome State Fault Refusal :=
  let k := s.core c
  match k.preempted with
  | none => .next s
  | some op =>
    if k.active.isSome || k.wait == .opEnd || !s.coreOn c then .next s else .next (s.restoreCtx c op)

end Sys2Proof.Machine
end

