-- ==== Sys2Proof/Machine/Collective.lean ====
section
/-! DEFINITION. Machine/Collective.lean: the collective engine (R523 to R541). What the packets of a step carry is the
model's own (log entry 47): a block of elements goes as packets of at most the slice's payload, in order, on flow
0xC00 + 2 × queue + ring direction. -/

namespace Sys2Proof.Machine

open Sys2Proof

/-! ## Header and group (R527, R529) -/

def Coll.type (c : Coll) : Nat := dfld c.hdr 0 1
def Coll.flags (c : Coll) : Nat := dfld c.hdr 1 1
def Coll.direct (c : Coll) : Bool := bitOf c.flags 2 || c.type == 4
def Coll.i64 (c : Coll) : Bool := bitOf (dfld c.hdr 3 1) 2
/-- Element type: a format code, or 16 for INT64. -/
def Coll.ty (c : Coll) : Nat := if c.i64 then 16 else dfld c.hdr 2 1 % 16
def Coll.rop (c : Coll) : Nat := dfld c.hdr 3 1 % 4
def Coll.axes (c : Coll) : Nat := dfld c.hdr 4 1 % 8
def Coll.tag (c : Coll) : Nat := dfld c.hdr 6 2
def Coll.src (c : Coll) : Nat := dfld c.hdr 8 8
def Coll.dst (c : Coll) : Nat := dfld c.hdr 16 8
def Coll.count (c : Coll) : Nat := dfld c.hdr 24 8
def Coll.root (c : Coll) : Nat := dfld c.hdr 32 4
def Coll.cnt (c : Coll) : Nat := dfld c.hdr 40 8
def Coll.sig (c : Coll) : Nat := dfld c.hdr 48 8
/-- Bytes of an element. -/
def Coll.esz (c : Coll) : Nat := if c.ty = 16 then 8 else ubits c.ty / 8

/-- Byte 30 of a packet: DFMT, ROP and I64 (R537). -/
def Coll.fmtByte (c : Coll) : Nat := dfld c.hdr 2 1 % 16 + 16 * c.rop + (if c.i64 then 64 else 0)

/-- The module's group in the slice: its axes, its extents and the module's place on each axis (R529). -/
structure Group where
  slice : SliceInfo
  axes : Nat
  ext : List Nat
  pos : List Nat

def Group.e (g : Group) (a : Nat) : Nat := g.ext.getD a 1
def Group.p (g : Group) (a : Nat) : Nat := g.pos.getD a 0
def Group.size (g : Group) : Nat := g.e 0 * g.e 1 * g.e 2
/-- Coordinate of a group rank on an axis of the group. -/
def Group.at_ (g : Group) (r a : Nat) : Nat := match a with
  | 0 => r % g.e 0
  | 1 => r / g.e 0 % g.e 1
  | _ => r / (g.e 0 * g.e 1)
def Group.rank (g : Group) : Nat := g.p 2 * g.e 0 * g.e 1 + g.p 1 * g.e 0 + g.p 0

def State.group (s : State) (i : SliceInfo) (axes : Nat) : Group :=
  { slice := i, axes := axes
    ext := [0, 1, 2].map fun a => if bitOf axes a then i.ext a else 1
    pos := [0, 1, 2].map fun a => if bitOf axes a then s.offsetIn i s.coord a else 0 }

/-- Torus coordinate of a group rank. -/
def State.groupCoord (s : State) (g : Group) (r : Nat) : Nat :=
  let o := fun a => if bitOf g.axes a then g.at_ r a else s.offsetIn g.slice s.coord a
  let at_ := fun a => (axisOf g.slice.origin.toNat a + o a) % max (s.podExt a) 1
  mkCoord (at_ 0) (at_ 1) (at_ 2)

/-- Group rank of a coordinate. -/
def State.groupRank (s : State) (g : Group) (c : Nat) : Nat :=
  let o := fun a => if bitOf g.axes a then s.offsetIn g.slice c a else 0
  o 2 * g.e 0 * g.e 1 + o 1 * g.e 0 + o 0

/-- The checks of a collective other than a routed dispatch (R12, R527 to R529). -/
def collCheck (c : Coll) (g : Group) : Option Nat :=
  let t := c.type
  let bar := t == 5
  let bits := fun off w lo n => fld (dfld c.hdr off w) lo n
  if decide (6 < t) || bits 1 1 3 5 != 0 || bits 2 1 4 4 != 0 || bits 3 1 3 5 != 0 || bits 4 1 3 5 != 0
      || dfld c.hdr 5 1 != 1 || c.axes == 0 || bits 24 8 40 24 != 0 || dfld c.hdr 36 4 != 0 || dfld c.hdr 56 8 != 0
      || (!bar && !(c.ty == 0 || c.ty == 1 || c.ty == 2 || c.ty == 9 || c.ty == 16))
      || (!bar && c.i64 && dfld c.hdr 2 1 % 16 != 9) || c.rop == 3 || (decide (2 ≤ t) && c.rop != 0)
      || (t != 3 && c.root != 0) || decide (g.size ≤ c.root) || (t != 4 && c.cnt != 0)
      || (t == 4 && c.count != 0) || (bar && (c.i64 || c.src != 0 || c.dst != 0 || c.count != 0)) then some 0x01
  else if c.src % 64 != 0 || c.dst % 64 != 0 || c.cnt % 16 != 0 then some 0x05
  else none

/-- The count table of an all-to-all-v, read when the collective is accepted: for each peer, send offset and count, receive
offset and count, and whether the read met poison, which is an event (R531, R553). -/
def State.countTable (s : State) (c : Coll) (n : Nat) : Option (List (List Nat) × Bool) × State :=
  match s.vaRead (agLinkDie 0) c.cnt (16 * n) with
  | (some (l, bad), s1) =>
    (some ((List.range n).map fun r => (List.range 4).map fun i => ofBytes ((l.drop (16 * r + 4 * i)).take 4), bad),
      if bad then s1.fatal .col 0 0x83 else s1)
  | (none, s1) => (none, s1)

/-- The ranges of addresses that a collective reads and writes (R530, R531). -/
def collRanges (c : Coll) (g : Group) (tbl : List (List Nat)) : List (Nat × Nat) × List (Nat × Nat) :=
  let n := c.count * c.esz
  match c.type with
  | 0 => ([(c.src, n)], [(c.dst, n)])
  | 1 => ([(c.src, g.size * n)], [(c.dst, n)])
  | 2 => ([(c.src, n)], [(c.dst, g.size * n)])
  | 3 => (if g.rank = c.root then [(c.src, n)] else [], [(c.dst, n)])
  | 4 => (tbl.map fun e => (c.src + e.getD 0 0 * c.esz, e.getD 1 0 * c.esz), tbl.map fun e => (c.dst + e.getD 2 0 * c.esz, e.getD 3 0 * c.esz))
  | _ => ([], [])

/-- Translate every page of the buffers (R528). -/
def State.rangesOk (s : State) (write : Bool) : List (Nat × Nat) → Bool × State
  | [] => (true, s)
  | (va, n) :: l =>
    match s.xlateRange (agLinkDie 0) va n write with
    | (.ok ps, s1) => if s1.piecesOk ps then s1.rangesOk write l else (false, s1)
    | (.error _, s1) => (false, s1)

/-! ## Queues -/

def State.colQ (s : State) (q : Nat) : ColQ := nget s.cols q {}
def State.setColQ (s : State) (q : Nat) (k : ColQ) : State := { s with cols := nset s.cols q k }
def State.setColl (s : State) (q : Nat) (c : Coll) : State := s.setColQ q { s.colQ q with cur := some c }
def pgColQ (q : Nat) : Nat := pgCol 0 + 0x100 + 0x20 * q

/-- A refusal, a fault, a peer out of step or a deadline is JOB_FATAL (R528, R538, R539). -/
def State.colFatal (s : State) (reason : Nat) : State := s.fatal .col 0 reason

/-- Wait deadlines of R539. -/
def State.tmo (s : State) : Nat := s.rfld (pgCol 0 + 0x040) 0 10 * 1000000

/-- The module sends SLOW while a stack is at T2 or higher, or while it relays SLOW (R540). -/
def State.slowNow (s : State) : Bool :=
  s.top.slowRelay || (List.range 16).any fun x => bitOf s.boot.stackSet.toNat x && decide (2 ≤ s.rfld (pgMem + 0x100 + 0x10 * x) 8 2)

/-! ## Steps of the bucket algorithm (R532) -/

/-- The steps: axis, gathering or reducing, step on the axis. -/
def collSteps (c : Coll) (g : Group) : List (Nat × Bool × Nat) :=
  let axes := [0, 1, 2].filter fun a => decide (1 < g.e a)
  let on := fun (ag : Bool) (a : Nat) => (List.range (g.e a - 1)).map fun t => (a, ag, t)
  let rs := axes.flatMap (on false)
  let ga := axes.reverse.flatMap (on true)
  match c.type with
  | 0 => rs ++ ga
  | 1 => rs
  | 2 => ga
  | 3 => ga
  | 5 => rs ++ ga
  | _ => []

/-- The ring of an axis in one direction: positions in order. A line's one ring runs up the even positions and down the
odd ones. -/
def State.ring (s : State) (g : Group) (a d : Nat) : List Nat :=
  let n := g.e a
  if s.isRing g.slice a then (if d = 0 then List.range n else (List.range n).reverse)
  else (List.range n).filter (· % 2 = 0) ++ ((List.range n).filter (· % 2 = 1)).reverse

/-- Directions in which data runs on an axis: two on a ring, one on a line. -/
def State.ringDirs (s : State) (g : Group) (a : Nat) : List Nat := if s.isRing g.slice a then [0, 1] else [0]

/-- Elements of rank r's block. -/
def blockSize (c : Coll) (g : Group) (r : Nat) : Nat :=
  match c.type with
  | 0 => let per := (c.count + g.size - 1) / g.size; min per (c.count - r * per)
  | 3 => if r = c.root then c.count else 0
  | 5 => 0
  | _ => c.count

/-- The part of a block that a ring direction carries: half of the data each (R532). -/
def halfOf (two : Bool) (d : Nat) (n : Nat) : Nat × Nat :=
  if !two then (0, n) else if d = 0 then (0, (n + 1) / 2) else ((n + 1) / 2, n / 2)

/-- The ranks whose blocks stand at position j of an axis, among those that agree with this module on the axes before. -/
def blockRanks (g : Group) (a j : Nat) : List Nat :=
  (List.range g.size).filter fun r => g.at_ r a == j && (List.range a).all fun b => g.at_ r b == g.p b

/-- What a step sends and receives in one direction: the peer to send to and the position sent, the peer to receive from
and the position received. -/
def State.stepPlan (s : State) (g : Group) (st : Nat × Bool × Nat) (d : Nat) : Nat × Nat × Nat × Nat :=
  let (a, ag, t) := st
  let o := s.ring g a d
  let n := o.length
  let i := (posOf (fun x => x == g.p a) o 0).getD 0
  let peer := fun j => g.rank - g.p a * (match a with | 0 => 1 | 1 => g.e 0 | _ => g.e 0 * g.e 1)
    + j * (match a with | 0 => 1 | 1 => g.e 0 | _ => g.e 0 * g.e 1)
  let at_ := fun k => o.getD ((i + 2 * n - k) % n) 0
  (peer (o.getD ((i + 1) % n) 0), at_ (if ag then t else t + 1), peer (at_ 1), at_ (if ag then t + 1 else t + 2))

/-- Payload lengths of data of n bytes. -/
def packLens (m n : Nat) : List Nat :=
  if n = 0 then [0] else List.replicate (n / m) m ++ (if n % m = 0 then [] else [n % m])

/-- Elements that a step moves in one direction for a position: rank, offset in its block, how many. -/
def stepElems (c : Coll) (g : Group) (two : Bool) (a d j : Nat) : List (Nat × Nat × Nat) :=
  (blockRanks g a j).map fun r => let (o, n) := halfOf two d (blockSize c g r); (r, o, n)

def stepBytes (c : Coll) (es : List (Nat × Nat × Nat)) : Nat := (es.map fun e => e.2.2).foldl (· + ·) 0 * c.esz

def State.payMax (s : State) : Nat := maxPayload (match s.top.slice with | some i => i.v2 | none => false)

/-- Send the data of one direction to a peer (R533, R537). -/
def State.collSend (s : State) (q : Nat) (c : Coll) (g : Group) (peer d : Nat) (data : List Byte) : State :=
  let m := s.payMax
  let ex := q % 16 + 2 ^ 8 * c.type + 2 ^ 16 * c.cseq + 2 ^ 32 * c.fmtByte + 2 ^ 40 * c.axes
  let parts := if data.isEmpty then [[]] else cut m ((data.length + m - 1) / m) data
  parts.foldl (fun acc b => acc.flowSend (acc.groupCoord g peer) 5 (0xC00 + 2 * q + d) 6 0 ex b s.slowNow) s

/-- One reduction of two elements: exact, rounded once to the element format (R534). -/
def collCombine (c : Coll) (x y : Nat) : Nat :=
  match c.rop with
  | 0 =>
    match ffmt c.ty with
    | some f => (f.encode .nearest ((f.decode x).add (f.decode y))).1
    | none => (x + y) % 2 ^ ubits c.ty
  | 1 => umaxmin true c.ty x y
  | _ => umaxmin false c.ty x y

/-- Combine two lists of elements, and count the sums that became infinite. -/
def collMerge (c : Coll) (x y : List Nat) : List Nat × Nat :=
  let r := (x.zip y).map fun (a, b) => (collCombine c a b, madeInf c.ty a (collCombine c a b) && madeInf c.ty b (collCombine c a b))
  (r.map (·.1), if c.rop = 0 then (r.filter (·.2)).length else 0)

/-- Elements as bytes and back. -/
def elemBytes (w : Nat) (l : List Nat) : List Byte := l.flatMap (toBytes w)
def bytesElems (w : Nat) (l : List Byte) : List Nat := (cut w (l.length / w) l).map ofBytes

/-- Payloads taken from a stream. -/
def Coll.stream (c : Coll) (key : Nat) : List (List Byte) := (c.rx.find? fun p => p.1 == key).elim [] (·.2)

def Coll.push (c : Coll) (key : Nat) (b : List Byte) : Coll :=
  { c with rx := if c.rx.any (·.1 == key) then c.rx.map fun p => if p.1 == key then (key, p.2 ++ [b]) else p else c.rx ++ [(key, [b])] }

/-- The payload lengths that a stream will carry, in order (R531, R538). -/
def State.streamLens (s : State) (c : Coll) (g : Group) (tbl : List (List Nat)) (key : Nat) : List Nat :=
  let r := key / 2
  let d := key % 2
  let m := s.payMax
  if c.direct then
    if d != 0 then []
    else packLens m (match c.type with
      | 0 => c.count * c.esz
      | 1 => c.count * c.esz
      | 2 => c.count * c.esz
      | 3 => if r = c.root then c.count * c.esz else 0
      | 4 => (tbl.getD r []).getD 3 0 * c.esz
      | _ => 0)
  else
    (collSteps c g).flatMap fun st =>
      let two := s.isRing g.slice st.1
      if !(s.ringDirs g st.1).contains d then []
      else
        let (_, _, from_, j) := s.stepPlan g st d
        if from_ = r then packLens m (stepBytes c (stepElems c g two st.1 d j)) else []

/-- Packets of a stream that belong to the steps before `n`. -/
def State.streamBefore (s : State) (c : Coll) (g : Group) (key n : Nat) : Nat :=
  (((collSteps c g).take n).map fun st =>
      if !(s.ringDirs g st.1).contains (key % 2) then 0
      else
        let (_, _, from_, j) := s.stepPlan g st (key % 2)
        if from_ = key / 2 then (packLens s.payMax (stepBytes c (stepElems c g (s.isRing g.slice st.1) st.1 (key % 2) j))).length else 0).foldl (· + ·) 0

/-- The elements of a step's blocks out of what the collective holds. -/
def Coll.pick (c : Coll) (es : List (Nat × Nat × Nat)) : List Nat :=
  es.flatMap fun (r, o, n) => ((nget c.buf r []).drop o).take n

/-- Take a step's incoming elements: combined with the local partial, or put in its place. -/
def Coll.take_ (c : Coll) (ag : Bool) (es : List (Nat × Nat × Nat)) (inc : List Nat) : Coll × Nat × Nat :=
  let (c1, _, ov, n) := es.foldl (fun (acc : Coll × List Nat × Nat × Nat) (e : Nat × Nat × Nat) =>
    let (k, rest, ov, cnt) := acc
    let (r, o, n) := e
    let old := nget k.buf r (List.replicate (o + n) 0)
    let (mid, v) := if ag then (rest.take n, 0) else collMerge k (rest.take n) ((old.drop o).take n)
    ({ k with buf := nset k.buf r (old.take o ++ mid ++ old.drop (o + n)) }, rest.drop n, ov + v, if ag then cnt else cnt + n)) (c, inc, 0, 0)
  (c1, ov, n)

/-- The link die by which the flow of a group rank's data arrives (R496, R548). -/
def State.collDie (s : State) (g : Group) (q r d : Nat) : Nat :=
  let src := s.groupCoord g r
  ((s.flowRx.find? fun f => f.key.src.toNat == src && f.key.flow.toNat == 0xC00 + 2 * q + d).map (·.die)).getD 0

/-- Count reductions at the die where the data arrived (R548; log entry 98). -/
def State.redCount (s : State) (die n ov : Nat) : State := (s.count64 (pgCol die + 0x060) n).count32 (pgCol die + 0x068) ov

/-- The steps of the bucket algorithm as far as they go. -/
def State.bucketRun (s : State) (q : Nat) (g : Group) : Nat → Coll → State × Coll × Bool
  | 0, c => (s, c, false)
  | f + 1, c =>
    match (collSteps c g)[c.step]? with
    | none => (s, c, true)
    | some st =>
      let dirs := s.ringDirs g st.1
      let two := s.isRing g.slice st.1
      let s1 := if c.sent then s else dirs.foldl (fun acc d =>
        let (to_, j, _, _) := s.stepPlan g st d
        acc.collSend q c g to_ d (elemBytes c.esz (c.pick (stepElems c g two st.1 d j)))) s
      let c1 := if c.sent then c else { c with sent := true, deadline := some (s.now.toNat + s.tmo) }
      let plan := dirs.map fun d =>
        let (_, _, from_, j) := s.stepPlan g st d
        let es := stepElems c g two st.1 d j
        (es, ((c1.stream (from_ * 2 + d)).drop (s.streamBefore c g (from_ * 2 + d) c.step)).take (packLens s.payMax (stepBytes c es)).length,
          (packLens s.payMax (stepBytes c es)).length, s.collDie g q from_ d)
      if plan.all fun p => p.2.1.length == p.2.2.1 then
        let (c2, s2) := plan.foldl (fun (acc : Coll × State) p =>
          let (k, ov, n) := acc.1.take_ st.2.1 p.1 (bytesElems c.esz (p.2.1.flatMap id))
          (k, acc.2.redCount p.2.2.2 n ov)) (c1, s1)
        s2.bucketRun q g f { c2 with step := c.step + 1, sent := false, deadline := none }
      else (s1, c1, false)

/-- The direct algorithm: this module's data goes to every member; the members' data is reduced or placed here (R533). -/
def State.directRun (s : State) (q : Nat) (g : Group) (tbl : List (List Nat)) (c : Coll) : State × Coll × Bool :=
  let me := g.rank
  let peers := (List.range g.size).filter (· != me)
  let s1 := if c.sent then s else peers.foldl (fun acc r => acc.collSend q c g r 0 (elemBytes c.esz (nget c.buf r []))) s
  let c1 := if c.sent then c else { c with sent := true, deadline := some (s.now.toNat + s.tmo) }
  let whole := fun r => (c1.stream (2 * r)).length == (s.streamLens c g tbl (2 * r)).length
  if !peers.all whole then (s1, c1, false)
  else
    let data := fun r => bytesElems c.esz ((c1.stream (2 * r)).flatMap id)
    if c.type ≤ 1 then
      let (acc, s2) := (c1.rx.map fun p => p.1 / 2).foldl (fun (a : List Nat × State) r =>
        let (l, ov) := collMerge c (data r) a.1
        (l, a.2.redCount (s.collDie g q r 0) l.length ov)) (nget c1.buf me [], s1)
      (s2, { c1 with buf := nset [] me acc }, true)
    else (s1, { c1 with buf := peers.foldl (fun m r => nset m r (data r)) (nset [] me (nget c1.buf me [])) }, true)

/-! ## Reading the source, writing the destination (R530, R531, R535) -/

/-- Elements of a source range with their poison; a poisoned read is an event (R553). -/
def State.collRead (s : State) (c : Coll) (va n : Nat) : Option (List (Nat × Bool)) × State :=
  match s.xlateRange (agLinkDie 0) va (n * c.esz) false with
  | (.error _, s1) => (none, s1)
  | (.ok ps, s1) =>
    if !s1.piecesOk ps then (none, s1)
    else
      let s2 := s1.meetPieces ps
      let l := s2.pieceElems c.esz ps
      (some l, if l.any (·.2) then s2.fatal .col 0 0x83 else s2)

/-- Positions of poisoned elements. -/
def badAt (base : Nat) (l : List (Nat × Bool)) : List Nat :=
  ((l.zip (List.range l.length)).filter fun p => p.1.2).map fun p => base + p.2

/-- Read the source into the blocks that the collective moves. Poison on any source element makes the collective `POISONED`; the
elements that depend on it here are written poisoned, and packets carry none to a peer (R535; log entry 158). -/
def State.collBegin (s : State) (c : Coll) (g : Group) (tbl : List (List Nat)) : Option Coll × State :=
  let me := g.rank
  let vals := fun (l : List (Nat × Bool)) => l.map (·.1)
  match c.type with
  | 0 =>
    match s.collRead c c.src c.count with
    | (none, s1) => (none, s1)
    | (some l, s1) =>
      let per := (c.count + g.size - 1) / g.size
      let buf := (List.range g.size).map fun r =>
        (r, if c.direct then vals l else ((vals l).drop (r * per)).take (blockSize c g r))
      (some { c with begun := true, buf := buf, bad := badAt 0 l, poisoned := l.any (·.2) }, s1)
  | 1 =>
    match s.collRead c c.src (g.size * c.count) with
    | (none, s1) => (none, s1)
    | (some l, s1) =>
      let buf := (List.range g.size).map fun r => (r, ((vals l).drop (r * c.count)).take c.count)
      (some { c with begun := true, buf := buf, bad := badAt 0 ((l.drop (me * c.count)).take c.count), poisoned := l.any (·.2) }, s1)
  | 2 =>
    match s.collRead c c.src c.count with
    | (none, s1) => (none, s1)
    | (some l, s1) =>
      let buf := if c.direct then (List.range g.size).map fun r => (r, vals l) else [(me, vals l)]
      (some { c with begun := true, buf := buf, bad := badAt (me * c.count) l, poisoned := l.any (·.2) }, s1)
  | 3 =>
    if me != c.root then (some { c with begun := true }, s)
    else
      match s.collRead c c.src c.count with
      | (none, s1) => (none, s1)
      | (some l, s1) =>
        let buf := if c.direct then (List.range g.size).map fun r => (r, vals l) else [(me, vals l)]
        (some { c with begun := true, buf := buf, bad := badAt 0 l, poisoned := l.any (·.2) }, s1)
  | 4 =>
    let (out, ok, s1) := (List.range g.size).foldl (fun (acc : NMap (List (Nat × Bool)) × Bool × State) r =>
      let e := tbl.getD r []
      match acc.2.2.collRead c (c.src + e.getD 0 0 * c.esz) (e.getD 1 0) with
      | (some l, a1) => (acc.1 ++ [(r, l)], acc.2.1, a1)
      | (none, a1) => (acc.1, false, a1)) ([], true, s)
    if !ok then (none, s1)
    else
      (some { c with
        begun := true
        buf := out.map fun (r, l) => (r, vals l)
        bad := badAt ((tbl.getD me []).getD 2 0) (nget out me [])
        poisoned := out.any fun o => o.2.any (·.2) }, s1)
  | _ => (some { c with begun := true }, s)

/-- The destination's elements: where each run starts, and its elements. -/
def collOut (c : Coll) (g : Group) (tbl : List (List Nat)) : List (Nat × List Nat) :=
  let me := g.rank
  let per := (c.count + g.size - 1) / g.size
  match c.type with
  | 0 => if c.direct then [(0, nget c.buf me [])] else (List.range g.size).map fun r => (r * per, nget c.buf r [])
  | 1 => [(0, nget c.buf me [])]
  | 2 => (List.range g.size).map fun r => (r * c.count, nget c.buf r [])
  | 3 => [(0, nget c.buf c.root [])]
  | 4 => (List.range g.size).map fun r => ((tbl.getD r []).getD 2 0, nget c.buf r [])
  | _ => []

/-- Write over translated pages, poisoned or not. -/
def State.vaPut (s : State) (va : Nat) (l : List Byte) (bad : Bool) : State :=
  match s.xlateRange (agLinkDie 0) va l.length true with
  | (.ok ps, s1) => if s1.piecesOk ps then s1.writeDest ps l bad else s1
  | (.error _, s1) => s1

/-- A collective whose data has all arrived writes its destination (R535, R536). -/
def State.collFinish (s : State) (c : Coll) (g : Group) (tbl : List (List Nat)) : State × Coll :=
  let s1 := (collOut c g tbl).foldl (fun acc (o, l) =>
    if l.isEmpty then acc else acc.vaPut (c.dst + o * c.esz) (elemBytes c.esz l) false) s
  let vals := (collOut c g tbl).flatMap fun (o, l) => (l.zip (List.range l.length)).map fun (v, i) => (o + i, v)
  let s2 := vals.foldl (fun acc (i, v) => if c.bad.contains i then acc.vaPut (c.dst + i * c.esz) (toBytes c.esz v) true else acc) s1
  (s2, { c with deadline := none, done := some (if c.poisoned then (5, 0) else (0, 0)) })

/-- Collectives that run now (R525). -/
def State.colRunning (s : State) : Nat :=
  (s.cols.filter fun p => match p.2.cur with | some c => c.running && c.done.isNone | none => false).length

/-- Some of the ranges stand on a channel that serves nothing now (R473). -/
def State.rangesHeld (s : State) (l : List (Nat × Nat)) : Bool := l.any fun r => s.vaHeld (agLinkDie 0) r.1 r.2

/-- A queue's collective goes as far as it can; its reads and its writes wait for a channel that serves nothing (R473, R530 to
R535). -/
def State.collRun (s : State) (q : Nat) (c0 : Coll) (i : SliceInfo) : State :=
  let g := s.group i c0.axes
  let c := { c0 with running := true }
  let (rd, wr) := collRanges c g c.tbl
  if !c.begun && s.rangesHeld rd then s.setColl q c
  else
    match if c.begun then (some c, s) else s.collBegin c g c.tbl with
    | (none, s1) => (s1.setColl q { c with deadline := none, done := some (3, 0x06) }).colFatal 0x06
    | (some c1, s1) =>
      -- the module's own block of an all-to-all-v must be as long as it expects (R531)
      let own := c.tbl.getD g.rank []
      if c.type = 4 ∧ own.getD 1 0 ≠ own.getD 3 0 then (s1.setColl q c1).colFatal 0x85 else
      let (s2, c2, all) :=
        if c.direct then s1.directRun q g c.tbl c1 else s1.bucketRun q g ((collSteps c g).length + 1) c1
      if !all then s2.setColl q c2
      else if s1.rangesHeld wr then s1.setColl q c1
      else let (s3, c3) := s2.collFinish c2 g c.tbl; s3.setColl q c3

/-- Run the collective of a queue if it is of a type and may run. -/
def runColl (q t : Nat) (s : State) : State :=
  match (s.colQ q).cur, s.top.slice with
  | some c, some i =>
    if s.working && c.type == t && c.done.isNone && (c.running || decide (s.colRunning < 8)) then s.collRun q c i else s
  | _, _ => s

/-- ALL_REDUCE (R530). -/
def execAllReduce (q : ColQueue) (s : State) : Host.Outcome State Fault Refusal := .next (runColl q 0 s)

/-- REDUCE_SCATTER (R530). -/
def execReduceScatter (q : ColQueue) (s : State) : Host.Outcome State Fault Refusal := .next (runColl q 1 s)

/-- ALL_GATHER (R530). -/
def execAllGather (q : ColQueue) (s : State) : Host.Outcome State Fault Refusal := .next (runColl q 2 s)

/-- BROADCAST (R530). -/
def execBroadcast (q : ColQueue) (s : State) : Host.Outcome State Fault Refusal := .next (runColl q 3 s)

/-- ALL_TO_ALL_V (R531). -/
def execAllToAllV (q : ColQueue) (s : State) : Host.Outcome State Fault Refusal := .next (runColl q 4 s)

/-- BARRIER (R530). -/
def execBarrier (q : ColQueue) (s : State) : Host.Outcome State Fault Refusal := .next (runColl q 5 s)

/-! ## Packets (R537, R538, R540) -/

/-- The sequence number that a queue has reached: that of its current collective, or of the last one. -/
def ColQ.reached (k : ColQ) : Nat := match k.cur with
  | some c => c.cseq
  | none => (k.cseq + 0xFFFF) % 0x10000

/-- A message of a dispatch goes on to its dispatch. -/
def Disp.take_ (d : Disp) (rank : Nat) (b : List Byte) : Disp := { d with rx := nset d.rx rank (nget d.rx rank [] ++ b) }

/-! ## Messages of a routed dispatch (R231, R237, R538) -/

def Disp.f (d : Disp) (off n : Nat) : Nat := dfld d.body off n
def Disp.nexp (d : Disp) : Nat := d.f 0 2
def Disp.k (d : Disp) : Nat := d.f 2 1 % 16
def Disp.cfmt (d : Disp) : Nat := d.f 3 1 % 16
def Disp.ttid (d : Disp) : Nat := d.f 4 2 % 4096
def Disp.rtid (d : Disp) : Nat := d.f 6 2 % 4096
def Disp.ntok (d : Disp) : Nat := d.f 8 4
def Disp.nloc (d : Disp) : Nat := d.f 12 2
def Disp.cap (d : Disp) : Nat := d.f 14 2
def Disp.tag (d : Disp) : Nat := d.f 112 2
/-- Bytes of a token row and of a return row. -/
def State.tokBytes (s : State) (d : Disp) : Nat := ((s.current d.ttid).map (·.rowBytes)).getD 0
def State.retBytes (s : State) (d : Disp) : Nat := ((s.current d.rtid).map (·.rowBytes)).getD 0

/-- Positions of the assignments that a rank sends for one local expert here: counts of lower ranks come first (R235). -/
def Disp.base (d : Disp) (rank l : Nat) : Nat :=
  ((List.range rank).map fun r => (nget d.counts r []).getD l 0).foldl (· + ·) 0

/-- Messages that stand whole at the front of a stream are cut away: what is left of the last one. -/
def tailMsg : Nat → List Byte → List Byte
  | 0, b => b
  | f + 1, b =>
    let n := ofBytes (b.take 4)
    if decide (5 ≤ n) && decide (n ≤ b.length) then tailMsg f (b.drop n) else b

/-- Rows that a rank has for the present round here (R235, R237). -/
def Disp.rowsFrom (d : Disp) (rank : Nat) : Nat :=
  ((List.range d.nloc).map fun l =>
    ((List.range ((nget d.counts rank []).getD l 0)).filter fun n => (d.base rank l + n) / d.cap == d.round).length).foldl (· + ·) 0

/-- A message of this length may have this kind: whole counts, rows or positions, and of rows placed as many as that rank has for
the present round (log entry 48). -/
def State.dispKindOk (s : State) (d : Disp) (rank kind n : Nat) : Bool :=
  match kind with
  | 0 => decide (0 < n) && (n - 1) % 4 == 0
  | 1 => d.exchanged && n == (s.tokBytes d + 7) * d.rowsFrom rank
  | 2 => n % (s.retBytes d + 7) == 0
  | 3 => n % 4 == 0
  | 4 => n == 0
  | _ => false

/-- The payload that a rank sends next has the length that its messages give it: what is left of a message, at most a packet's
payload (R538). -/
def State.dispLenOk (s : State) (d : Disp) (i : SliceInfo) (rank : Nat) (b : List Byte) : Bool :=
  let m := maxPayload i.v2
  let old := nget d.rx rank []
  let part := tailMsg (old.length / 5 + 1) old
  if part.isEmpty then
    let n := ofBytes (b.take 4)
    decide (5 ≤ b.length) && decide (5 ≤ n) && b.length == min m n && s.dispKindOk d rank (ofBytes ((b.drop 4).take 1)) (n - 5)
  else b.length == min m (ofBytes (part.take 4) - part.length)

/-- The flow of a packet of a later collective has delivered less than the present one expects of it: what is missing cannot come
any more (R531, R538; log entry 157). -/
def State.shortBy (s : State) (q : Nat) (p : Packet) : Bool :=
  match (s.colQ q).cur, s.top.slice with
  | some c, some i =>
    let g := s.group i c.axes
    let key := 2 * s.groupRank g p.src.toNat + p.flow.toNat % 2
    decide (c.type < 6) && c.done.isNone && s.groupCoord g (key / 2) == p.src.toNat
      && decide ((c.stream key).length < (s.streamLens c g c.tbl key).length)
  | _, _ => false

/-- Check a packet against its queue's current collective and take it, hold it, or raise JOB_FATAL (R538). -/
def State.colCheck (s : State) (p : Packet) : State :=
  let ex := p.extra.toNat
  let q := fld ex 0 4
  let k := s.colQ q
  let out := fun (r : Nat) => (s.count32 (pgCol 0 + 0x04C) 1).colFatal r
  let d := (fld ex 16 16 + 0x10000 - k.reached) % 0x10000
  match s.top.slice with
  | none => s
  | some i =>
    if k.ahead.any (fun o => pktKey o == pktKey p) then s.setColQ q { k with ahead := k.ahead ++ [p] }
    else if 1 ≤ d ∧ d < 0x8000 then
      if s.shortBy q p then out 0x85 else s.setColQ q { k with ahead := k.ahead ++ [p] }
    else if d = 0 then
      match k.cur with
      | none => out 0x84
      | some c =>
        if fld ex 8 8 != c.type || fld ex 32 8 != c.fmtByte || fld ex 40 8 != c.axes then out 0x84
        else if c.type = 6 then
          let r := s.rankOf i p.src.toNat
          match s.disps.find? fun e => e.2.queue == q with
          | some (j, e) =>
            if s.dispLenOk e i r p.payload then { s with disps := nset s.disps j (e.take_ r p.payload) } else out 0x85
          | none =>
            let e : Disp := { queue := q, body := c.body, rx := [(r, (c.stream (2 * r)).flatMap id)] }
            if s.dispLenOk e i r p.payload then s.setColl q (c.push (2 * r) p.payload) else out 0x85
        else
          let g := s.group i c.axes
          let key := 2 * s.groupRank g p.src.toNat + p.flow.toNat % 2
          if (s.streamLens c g c.tbl key)[(c.stream key).length]? != some p.payload.length then out 0x85
          else s.setColl q (c.push key p.payload)
    else out 0x84

/-- SLOW_FLAG_RECEIVE: SLOW is relayed, and every present wait's deadline moves (R540). -/
def State.slowReceive (s : State) : State :=
  let t := s.now.toNat + s.tmo * s.rfld (pgCol 0 + 0x040) 16 4
  let s1 := { s with
    top := { s.top with slowRelay := true, slowAt := s.now.toNat }
    disps := s.disps.map fun e : Nat × Disp => (e.1, { e.2 with dues := e.2.dues.map fun w : Nat × Nat => (w.1, max w.2 t) })
    cols := s.cols.map fun e : Nat × ColQ =>
      (e.1, { e.2 with cur := e.2.cur.map fun c : Coll => { c with deadline := c.deadline.map fun d => max d t } }) }
  s1.count32 (pgCol 0 + 0x054) 1

/-- COLLECTIVE_PACKET_RECEIVE: the engine takes a delivered packet, those of a flow in order and each once (R538, R540, R541). -/
def execCollectivePacketReceive (pkt : Packet) (s : State) : Host.Outcome State Fault Refusal :=
  if s.colIn.find? (fun o => pktKey o == pktKey pkt) != some pkt then .next s
  else
    let s0 := { s with colIn := s.colIn.erase pkt }
    if !s.working then .next s0 else .next ((if pkt.slow then s0.slowReceive else s0).colCheck pkt)

/-- SLOW_RELAY_END: the relaying of SLOW ends one millisecond after the last packet with it, and not before (R540). -/
def execSlowRelayEnd (s : State) : Host.Outcome State Fault Refusal :=
  .next (if s.top.slowRelay && decide (s.top.slowAt + 1000000 ≤ s.now.toNat) then { s with top := { s.top with slowRelay := false } } else s)

/-! ## Acceptance, deadline, completion (R524 to R526, R528, R536, R539) -/

/-- Packets that waited for the collective just accepted are checked again, in order (R538). -/
def State.takeAhead (s : State) (q : Nat) : State :=
  let ps := (s.colQ q).ahead
  ps.foldl State.colCheck (s.setColQ q { s.colQ q with ahead := [] })

/-- The header fields that a routed dispatch must leave 0 (R527). -/
def dispHeaderOk (h : Nat) : Bool := dfld h 5 1 == 3 && dfld h 1 4 == 0 && dfld h 6 58 == 0

/-- Accept the head collective of a queue: its number, its checks, its buffers' translation (R524, R526, R528). It takes the NENT
entries that its header names, one where that is 0; an entry or a count table read poisoned ends it `POISONED` (R553; log entry 158). -/
def State.collAccept (s : State) (q h ck : Nat) (i : SliceInfo) : State :=
  let k := s.colQ q
  let n := 2 ^ s.rfld (pgColQ q) 1 4
  let base := s.reg64 (pgColQ q + 8) % 2 ^ 48
  let entry := fun (a : State) (j : Nat) => match a.vaRead (agLinkDie 0) (base + 64 * ((k.head + j) % n)) 64 with
    | (some (l, bad), a1) => (some (ofBytes l, bad), if bad then a1.fatal .col 0 0x83 else a1)
    | (none, a1) => (none, a1)
  let (hd, s1) := entry s 0
  let hdr := (hd.map (·.1)).getD 0
  let nent := max 1 (dfld hdr 5 1)
  if (s1.ctr h ck).value < nent then s1
  else
    let (b1, s2) := if nent = 3 then entry s1 1 else (some (0, false), s1)
    let (b2, s3) := if nent = 3 then entry s2 2 else (some (0, false), s2)
    let body := (b1.map (·.1)).getD 0 + 2 ^ 512 * (b2.map (·.1)).getD 0
    let c : Coll := { idx := k.head % n, hdr := hdr, body := body, cseq := k.cseq }
    let s4 := (s3.subCtr h ck nent).setColQ q { k with head := (k.head + nent) % n, cseq := (k.cseq + 1) % 0x10000, cur := some c }
    let s5 := s4.setReg (pgColQ q + 4) ((k.head + nent) % n % 4096 + 2 ^ 16 * ((k.cseq + 1) % 0x10000))
    let stop := fun (a : State) (st r : Nat) => (a.setColl q { c with done := some (st, r) }).colFatal r
    if hd.isNone || b1.isNone || b2.isNone then stop s5 3 0x06
    else if [hd, b1, b2].any fun e => (e.map (·.2)).getD false then s5.setColl q { c with done := some (5, 0) }
    else if c.type = 6 then s5
    else
      let g := s5.group i c.axes
      match collCheck c g with
      | some r => stop s5 2 r
      | none =>
        let (tbl, s6) := if c.type = 4 then s5.countTable c g.size else (some ([], false), s5)
        match tbl with
        | none => stop s6 3 0x06
        | some (_, true) => s6.setColl q { c with done := some (5, 0) }
        | some (tbl, false) =>
          let (rd, wr) := collRanges c g tbl
          let (o1, s7) := s6.rangesOk false rd
          let (o2, s8) := s7.rangesOk true wr
          if o1 && o2 then s8.setColl q { c with tbl := tbl } else stop s8 3 0x06

/-- The queue's next entries, or the count table that its head names, stand on a channel that serves nothing now (R473). -/
def State.entriesHeld (s : State) (q : Nat) (i : SliceInfo) : Bool :=
  let k := s.colQ q
  let n := 2 ^ s.rfld (pgColQ q) 1 4
  let at_ := fun j => s.reg64 (pgColQ q + 8) % 2 ^ 48 + 64 * ((k.head + j) % n)
  s.someHeld && (([0, 1, 2].any fun j => s.vaHeld (agLinkDie 0) (at_ j) 64) || (match s.vaRead (agLinkDie 0) (at_ 0) 64 with
    | (some (l, _), _) =>
      let c : Coll := { idx := k.head, hdr := ofBytes l, body := 0, cseq := k.cseq }
      c.type == 4 && s.vaHeld (agLinkDie 0) c.cnt (16 * (s.group i c.axes).size)
    | (none, _) => false))

/-- COLLECTIVE_ACCEPT: the engine accepts a queue's head collective once the doorbell counter holds its entries (R524,
R525). -/
def execCollectiveAccept (q : ColQueue) (s : State) : Host.Outcome State Fault Refusal :=
  match s.top.slice, (s.colQ q).cur with
  | some i, none =>
    if !s.working || !s.rbit (pgColQ q) 0 then .next s
    else
      match s.xlate (agLinkDie 0) (s.reg64 (pgColQ q + 0x10) % 2 ^ 48) true false with
      | (some p, s1) =>
        match s1.objAt p.pa with
        | some (.ctr h k) => if (s1.ctr h k).value = 0 || s1.entriesHeld q i then .next s1 else .next ((s1.collAccept q h k i).takeAhead q)
        | _ => .next s1
      | (none, s1) => .next s1
  | _, _ => .next s

/-- COLLECTIVE_WAIT_DEADLINE: a wait that passes its deadline, one of a routed dispatch too, ends the collective TIMEOUT, and is
JOB_FATAL (R539). -/
def execCollectiveWaitDeadline (q : ColQueue) (s : State) : Host.Outcome State Fault Refusal :=
  match (s.colQ q).cur with
  | some c =>
    let mine := s.disps.filter fun e => e.2.queue == q.val
    let dues := c.deadline.toList ++ mine.flatMap fun e => e.2.dues.map (·.2)
    if c.done.isNone && dues.any fun d => decide (d ≤ s.now.toNat) then
      let s1 : State := { s with disps := s.disps.filter fun e => e.2.queue != q.val }
      .next (((s1.setColl q { c with deadline := none, done := some (6, 0x86) }).count32 (pgCol 0 + 0x050) 1).colFatal 0x86)
    else .next s
  | none => .next s

/-- Write a collective's completion record (R536). -/
def State.collRecord (s : State) (q : Nat) (c : Coll) (status reason : Nat) : State :=
  let tag := if c.type = 6 then dfld c.body 112 2 else c.tag
  (s.vaPut (s.reg64 (pgColQ q + 0x18) % 2 ^ 48 + 8 * c.idx) (toBytes 1 status ++ toBytes 1 reason ++ toBytes 2 tag ++ toBytes 4 c.cseq) false)

/-- A collective leaves its queue: its record, its signal, the count; a dispatch stores its tag and status to its bead, and is
counted (R242, R245, R536). -/
def State.collEnd (s : State) (q : Nat) (c : Coll) (status reason : Nat) (sig : Bool) : State :=
  let s1 := s.collRecord q c status reason
  let disp := c.type == 6
  let (va, counter, v) := if disp then (dfld c.body 104 8, false, dfld c.body 112 2 * 65536 + status)
    else (c.sig % 2 ^ 64, bitOf c.flags 1, c.tag * 65536 + reason * 256 + status)
  let s2 := if sig && (disp || bitOf c.flags 0) then
      match s1.xlate (agLinkDie 0) va true false with
      | (some p, a) => a.signal p.pa counter v
      | (none, a) => a
    else s1
  let s3 := if disp then s2.count64 (pgDsp + 0x048) 1 else s2
  (s3.setColQ q { s3.colQ q with cur := none }).count64 (pgCol 0 + 0x058) 1

/-- COLLECTIVE_COMPLETE: the record is written once the writes are visible, then the signal; a record whose channel serves
nothing waits (R473, R536). -/
def execCollectiveComplete (q : ColQueue) (s : State) : Host.Outcome State Fault Refusal :=
  match (s.colQ q).cur with
  | some c =>
    match c.done with
    | some (st, r) =>
      .next (if s.vaHeld (agLinkDie 0) (s.reg64 (pgColQ q + 0x18) % 2 ^ 48 + 8 * c.idx) 8 then s else s.collEnd q c st r true)
    | none => .next s
  | none => .next s

end Sys2Proof.Machine
end

