-- ==== Sys2Proof/Machine/RoutedDispatch.lean ====
section
/-! DEFINITION. Machine/RoutedDispatch.lean: the routed dispatch (R229 to R245). The messages that modules exchange are the
model's own (log entry 48): their length, their kind (0 counts, 1 rows placed, 2 rows returned, 3 base positions, 4 a round
opened), then their content, on the flow of the collective queue. -/

namespace Sys2Proof.Machine

open Sys2Proof

/-! ## The body (R231) -/

/-- Assignments and slots: NTOK × K. -/
def Disp.slots (d : Disp) : Nat := d.ntok * d.k

/-- The agent that translates for a dispatch. -/
def agDisp : Nat := agLinkDie 0

/-- Range and alignment of the body's fields (R231), and the header of R527. -/
def bodyReason (d : Disp) (hdr tokBytes retBytes : Nat) : Option Nat :=
  if !dispHeaderOk hdr || d.nexp == 0 || d.k == 0 || decide (8 < d.k) || decide (2 < d.cfmt) || fld (d.f 2 1) 4 4 != 0
      || fld (d.f 3 1) 4 4 != 0 || fld (d.f 4 2) 12 4 != 0 || fld (d.f 6 2) 12 4 != 0 || decide (1048576 < d.ntok)
      || d.nloc == 0 || decide (1024 < d.nloc) || d.cap == 0 || d.f 114 2 != 0 || d.f 124 4 != 0
      || decide (d.f 48 4 < d.cap * tokBytes) || decide (d.f 52 4 < d.cap * retBytes) then some 0x01
  else if d.f 16 8 % 2 != 0 || d.f 24 8 % 4 != 0 || d.f 32 8 % 8 != 0 || d.f 40 8 % 64 != 0 || d.f 56 8 % 64 != 0
      || d.f 64 8 % 64 != 0 || d.f 72 8 % 16 != 0 || d.f 80 8 % 16 != 0 || d.f 116 8 % 4 != 0 then some 0x05
  else none

/-- A table that R233 allows: hash mode NONE, one kind-0 shard, rows enough. -/
def tableFits (v : Version) (rows : Nat) : Bool :=
  v.hmode == 0 && v.shards.length == 1 && v.shards.all (·.kind == 0) && decide (rows ≤ v.nrows)

/-! ## Reading the arrays -/

def State.disp (s : State) (j : Nat) : Option Disp := nfind s.disps j
def State.setDisp (s : State) (j : Nat) (d : Disp) : State := { s with disps := nset s.disps j d }
def State.modDisp (s : State) (j : Nat) (f : Disp → Disp) : State :=
  match s.disp j with
  | some d => s.setDisp j (f d)
  | none => s

/-- Numbers of w bytes at a virtual address, for a dispatch: none where it does not translate; poison is an event and makes the
dispatch `POISONED` (R98, R242, R553). -/
def State.dispList (s : State) (j va w n : Nat) : Option (List Nat) × State :=
  match s.vaRead agDisp va (w * n) with
  | (some (l, bad), s1) =>
    (some (bytesElems w l), if bad then (s1.fatal .dsp 0 0x83).modDisp j (fun d => { d with poisoned := true }) else s1)
  | (none, s1) => (none, s1)

/-- The expert map: coordinate and local index of each expert (R232). -/
def mapEntry (e : Nat) : Nat × Nat := (fld e 0 18, fld e 32 10)

/-- A map entry whose reserved bits are 0 (R12, R232). -/
def mapEntryOk (e : Nat) : Bool := fld e 18 14 == 0 && fld e 42 22 == 0

/-- The slice's experts at a rank, with their local indices, in expert order. -/
def State.expertsOf (s : State) (i : SliceInfo) (map : List Nat) (r : Nat) : List (Nat × Nat) :=
  ((List.range map.length).filter fun e => s.rankOf i (mapEntry (map.getD e 0)).1 == r).map fun e => (e, (mapEntry (map.getD e 0)).2)

/-- The checks before the exchange: the reason, or the arrays (R12, R232 to R234); 0x06 says that an address did not translate
(R64). The owner's own NLOC bounds the local index of
the experts that it holds; another module's experts are checked there. -/
def State.dispCheck (s : State) (j : Nat) (d : Disp) (hdr : Nat) (i : SliceInfo) : Except Nat (List Nat × List Nat) × State :=
  let tt := s.current d.ttid
  let rt := s.current d.rtid
  match bodyReason d hdr ((tt.map (·.rowBytes)).getD 0) ((rt.map (·.rowBytes)).getD 0) with
  | some r => (.error r, s)
  | none =>
    match tt, rt with
    | some t, some r =>
      if !tableFits t d.ntok || !tableFits r d.slots || decide (2 < r.fmt) then (.error 0x83, s)
      else
        match s.dispList j (d.f 16 8) 2 d.slots with
        | (none, s1) => (.error 0x06, s1)
        | (some ex, s1) =>
          match s1.dispList j (d.f 32 8) 8 d.nexp with
          | (none, s2) => (.error 0x06, s2)
          | (some map, s2) =>
            if !map.all mapEntryOk then (.error 0x01, s2)
            else if ex.any fun e => e != 0xFFFF && decide (d.nexp ≤ e) then (.error 0x80, s2)
            else if map.any fun e => !s2.inSlice i (mapEntry e).1 then (.error 0x81, s2)
            else if map.any fun e => (mapEntry e).1 == s2.coord && decide (d.nloc ≤ (mapEntry e).2) then (.error 0x82, s2)
            else (.ok (ex, map), s2)
    | _, _ => (.error 0x83, s)

/-- The assignments of a list of experts, ordered by expert, token and slot (R237). -/
def sendOrder (ex : List Nat) (experts : List Nat) : List (Nat × Nat) :=
  experts.flatMap fun e => ((ex.zip (List.range ex.length)).filter fun p => p.1 == e).map fun p => (e, p.2)

/-! ## Messages -/

/-- Send a message to another module of the slice. -/
def State.dispSend (s : State) (j : Nat) (i : SliceInfo) (rank kind : Nat) (content : List Byte) : State :=
  match s.disp j with
  | none => s
  | some d =>
    let cs := match (s.colQ d.queue).cur with | some c => c.cseq | none => 0
    let msg := toBytes 4 (content.length + 5) ++ toBytes 1 kind ++ content
    (cut s.payMax ((msg.length + s.payMax - 1) / s.payMax) msg).foldl (fun acc b =>
      acc.flowSend (acc.coordOfRank i rank) 5 (0xC00 + 2 * d.queue) 6 0 (d.queue + 2 ^ 8 * 6 + 2 ^ 16 * cs) b acc.slowNow) s

/-! ## Rows -/

/-- Physical address of a row of one of the dispatch's tables. -/
def State.dispRow (s : State) (tid row : Nat) : Option Nat × State :=
  match s.current tid with
  | none => (none, s)
  | some v =>
    match s.locate v row false with
    | (.at_ pa _ _, s1) => (if s1.reachableRange pa v.rowBytes then some pa else none, s1)
    | (_, s1) => (none, s1)

/-- Note that an address failed, or that a row was poisoned (R242). -/
def State.dispFail (s : State) (j : Nat) : State := s.modDisp j fun d => { d with failed := true }

/-- Write a return row (R237 phases 1 and 7). -/
def State.putReturn (s : State) (j slot : Nat) (data : List Byte) (bad : Bool) : State :=
  match s.disp j with
  | none => s
  | some d =>
    match s.dispRow d.rtid slot with
    | (some pa, s1) => ((s1.beforeWrite pa data.length).store pa data bad).dropSectors pa data.length
    | (none, s1) => s1.dispFail j

/-- Write through a virtual address, poisoned or not; a failure makes the dispatch fail. -/
def State.dispPut (s : State) (j va : Nat) (l : List Byte) (bad : Bool := false) : State :=
  match s.xlateRange agDisp va l.length true with
  | (.ok ps, s1) => if s1.piecesOk ps then s1.writeDest ps l bad else s1.dispFail j
  | (.error _, s1) => s1.dispFail j

def Disp.total (d : Disp) (l : Nat) : Nat := (d.counts.map fun c => c.2.getD l 0).foldl (· + ·) 0

/-- Rows of a local expert that round r holds. -/
def Disp.rowsIn (d : Disp) (l r : Nat) : Nat := min d.cap (d.total l - r * d.cap)

/-- Place one row in an input buffer, poisoned where it was read so (R98, R237 phase 4). -/
def State.placeRow (s : State) (j l p : Nat) (data : List Byte) (bad : Bool) : State :=
  match s.disp j with
  | none => s
  | some d =>
    let s1 := s.dispPut j (d.f 40 8 + l * d.f 48 4 + p % d.cap * data.length) data bad
    let s2 := (s1.modDisp j fun d => { d with placed := d.placed + 1 }).count64 (pgDsp + 0x058) 1
    if p / d.cap = 0 then s2 else s2.count64 (pgDsp + 0x060) 1

/-- A source's assignments for a rank with their positions there: local expert, position, index in the send order, slot. -/
def State.assigned (s : State) (d : Disp) (i : SliceInfo) (rank : Nat) : List (Nat × Nat × Nat × Nat) :=
  (s.expertsOf i d.map rank).flatMap fun (e, l) =>
    let mine := (d.order.zip (List.range d.order.length)).filter fun p => p.1.1 == e
    let base := (nget d.bases rank []).getD l 0
    (mine.zip (List.range mine.length)).map fun (p, n) => (l, base + n, p.2, p.1.2)

/-- Rows in a message: local expert, position, whether it is poisoned, content (log entry 48). -/
def msgRows (l : List (Nat × Nat × List Byte × Bool)) : List Byte :=
  l.flatMap fun m => toBytes 2 m.1 ++ toBytes 4 m.2.1 ++ toBytes 1 (if m.2.2.2 then 1 else 0) ++ m.2.2.1

/-- The rows of a message whose rows hold n bytes. -/
def rowsOf (n : Nat) (b : List Byte) : List (Nat × Nat × List Byte × Bool) :=
  (cut (n + 7) (b.length / (n + 7)) b).map fun r =>
    (ofBytes (r.take 2), ofBytes ((r.drop 2).take 4), r.drop 7, ofBytes ((r.drop 6).take 1) != 0)

/-- Send the rows of the next round that a destination has opened, once the send buffer is filled (R237 phase 4). -/
def State.sendRound (s : State) (j : Nat) (i : SliceInfo) (rank : Nat) : State :=
  match s.disp j with
  | none => s
  | some d =>
    let r := nget d.sentTo rank 0
    let n := s.tokBytes d
    let rows := (s.assigned d i rank).filter fun a => a.2.1 / d.cap == r
    let held := fun (a : Nat × Nat × Nat × Nat) => s.vaHeld agDisp (d.f 64 8 + a.2.2.1 * n) n
      || (rank == s.rankOf i s.coord && s.vaHeld agDisp (d.f 40 8 + a.1 * d.f 48 4 + a.2.1 % d.cap * n) n)
    if !d.exchanged || d.waits != 0 || nget d.opened rank 0 ≤ r || rows.any held then s
    else
      let s2 := (s.setDisp j { d with sentTo := nset d.sentTo rank (r + 1) }).count64 (pgDsp + 0x050) rows.length
      let (msg, s3) := rows.foldl (fun (acc : List (Nat × Nat × List Byte × Bool) × State) a =>
        match acc.2.vaRead agDisp (d.f 64 8 + a.2.2.1 * n) n with
        | (some (b, bad), t) =>
          (acc.1 ++ [(a.1, a.2.1, b, bad)], if bad then (t.fatal .dsp 0 0x83).modDisp j (fun x => { x with poisoned := true }) else t)
        | (none, t) => (acc.1 ++ [(a.1, a.2.1, List.replicate n (0 : Byte), false)], t.dispFail j)) ([], s2)
      if rank = s.rankOf i s.coord then msg.foldl (fun acc m => acc.placeRow j m.1 m.2.1 m.2.2.1 m.2.2.2) s3
      else if msg.isEmpty then s3
      else s3.dispSend j i rank 1 (msgRows msg)

/-- A returned row lands in the return row of the slot that took its position (R237 phase 7). -/
def State.takeReturn (s : State) (j : Nat) (i : SliceInfo) (rank l p : Nat) (data : List Byte) (bad : Bool) : State :=
  match s.disp j with
  | none => s
  | some d =>
    match (s.assigned d i rank).find? fun a => a.1 == l && a.2.1 == p with
    | some a => (s.putReturn j a.2.2.2 data bad).modDisp j fun d => { d with returned := d.returned + 1 }
    | none => s

/-! ## The phases (R234 to R241) -/

/-- The dispatch issues a Sorus command to the stack that holds the shard of a table (R237); a stack that takes none makes the
dispatch fail, a fenced one aborts it (R242, R243). -/
def State.dispIssue (s : State) (j tid raw : Nat) (stream : List Byte) : State :=
  match (s.current tid).bind (·.shards.head?) with
  | none => s.dispFail j
  | some h =>
    let x := h.whereAt % 16
    if (s.server x).fenced then s.modDisp j fun d => { d with aborted := true }
    else if !s.stackLive x then s.dispFail j
    else
      (({ s with serial := s.serial + 1 } : State).modDisp j fun d => { d with waits := d.waits + 1 }).takeOne x
        { serial := s.serial, queue := 64, raw := raw, stream := stream, src := 0, epoch := 0, disp := some j }

/-- GATHER with CONV 0 of an index list in IDXSCR into the send buffer, from assignment `off` on (R65, R237 phase 3). -/
def Disp.gatherRaw (d : Disp) (tokBytes off n : Nat) : Nat :=
  opGATHER + 2 ^ 32 * d.ttid + 2 ^ 64 * ((d.f 116 8 + 4 * off) % 2 ^ 64) + 2 ^ 192 * ((d.f 64 8 + off * tokBytes) % 2 ^ 64) + 2 ^ 256 * n

/-- GATHER_POOL of the return rows: WSUM with FP32 weights, streamed indices, bags of K (R65, R66, R237 phase 9). -/
def Disp.combineRaw (d : Disp) : Nat :=
  opGPOOL + 2 ^ 32 * d.rtid + 2 ^ 48 * 0x15 + 2 ^ 56 * d.cfmt + 2 ^ 128 * d.f 24 8 + 2 ^ 192 * d.f 72 8 + 2 ^ 256 * d.slots
    + 2 ^ 288 * d.k

/-- Phase 3: one GATHER per destination that has assignments, from its index list; the lists stand in rank order (R237). -/
def State.dispBucket (s : State) (j : Nat) (i : SliceInfo) : State :=
  match s.disp j with
  | none => s
  | some d =>
    let n := s.tokBytes d
    ((List.range i.size).foldl (fun (acc : State × Nat) r =>
      let k := (s.assigned d i r).length
      (if k = 0 then acc.1 else acc.1.dispIssue j d.ttid (d.gatherRaw n acc.2 k) [], acc.2 + k)) (s, 0)).1

/-- What phase 1 reads or writes stands on a channel that serves nothing now: the dispatch waits (R473). -/
def State.dispStartHeld (s : State) (body : Nat) : Bool :=
  let d : Disp := { queue := 0, body := body }
  s.someHeld && (s.vaHeld agDisp (d.f 16 8) (2 * d.slots) || s.vaHeld agDisp (d.f 32 8) (8 * d.nexp) || s.vaHeld agDisp (d.f 116 8) (4 * d.slots)
    || (List.range d.slots).any fun t => match (s.dispRow d.rtid t).1 with
      | some pa => s.writeHeld pa (s.retBytes d)
      | none => false)

/-- Phase 1: unassigned return rows are zeroed, the index lists and counts are made, and every module is told (R234,
R237). -/
def State.dispStart (s : State) (j : Nat) (i : SliceInfo) (hdr : Nat) : State :=
  match s.disp j with
  | none => s
  | some d =>
    let me := s.rankOf i s.coord
    let others := (List.range i.size).filter (· != me)
    match s.dispCheck j d hdr i with
    | (.error r, s1) =>
      let s2 := s1.modDisp j fun d => { d with reason := r, oks := nset d.oks me r, counts := nset d.counts me [] }
      others.foldl (fun acc p => acc.dispSend j i p 0 (toBytes 1 r)) s2
    | (.ok (ex, map), s1) =>
      let order := sendOrder ex ((List.range i.size).flatMap fun r => (s1.expertsOf i map r).map (·.1))
      let none_ := (List.range ex.length).filter fun t => ex.getD t 0 == 0xFFFF
      let s2 := none_.foldl (fun acc t => acc.putReturn j t (List.replicate (s1.retBytes d) (0 : Byte)) false)
        (s1.count32 (pgDsp + 0x078) none_.length)
      let s3 := s2.dispPut j (d.f 116 8) (order.flatMap fun a => toBytes 4 (a.2 / d.k))
      let cnt := fun r => let es := s3.expertsOf i map r
        (List.range (es.foldl (fun m e => max m (e.2 + 1)) 0)).map fun l =>
          ((es.filter fun e => e.2 == l).map fun e => (order.filter fun a => a.1 == e.1).length).foldl (· + ·) 0
      let s4 := s3.modDisp j fun d => { d with map := map, order := order, oks := nset d.oks me 0, counts := nset d.counts me (cnt me) }
      others.foldl (fun acc p => acc.dispSend j i p 0 (toBytes 1 0 ++ (cnt p).flatMap (toBytes 4))) s4

/-- Phase 2: every count has come. The slice refuses in step with the lowest reason, the module whose own addresses failed with
`FAULT`; or each source learns its base positions, round 0 opens and the buckets are filled (R64, R234 to R237, R242, R245). -/
def State.dispExchange (s : State) (j : Nat) (i : SliceInfo) : State :=
  match s.disp j with
  | none => s
  | some d =>
    if d.exchanged || decide (d.oks.length < i.size) then s
    else
      let me := s.rankOf i s.coord
      let bad := (d.oks.map (·.2)).filter (· != 0)
      if !bad.isEmpty then
        s.setDisp j
          { d with exchanged := true, reason := bad.foldl min 0xFF, failed := d.failed || d.reason == 0x06, destDone := true, combined := true }
      else
        let tot := (List.range d.nloc).map d.total
        let top := tot.foldl max 0
        let rounds := max 1 ((top + d.cap - 1) / d.cap)
        let bases := fun r => (List.range d.nloc).map (d.base r)
        let s1 := s.setDisp j
          { d with exchanged := true, rounds := rounds, bases := nset d.bases me (bases me), opened := nset d.opened me 1 }
        let sat := fun v : Nat => min v (2 ^ 32 - 1)
        let s2 := ((s1.setReg (pgDsp + 0x06C) (max (sat top) (s1.reg (pgDsp + 0x06C)))).setReg (pgDsp + 0x070) (sat top)).setReg
          (pgDsp + 0x074) (sat (tot.foldl (· + ·) 0 / d.nloc))
        (((List.range i.size).filter (· != me)).foldl (fun acc p => acc.dispSend j i p 3 ((bases p).flatMap (toBytes 4))) s2).dispBucket j i

/-- Phase 5: the round's rows have all come; the count record is written and the ready counter rises (R237, R239). -/
def State.dispReady (s : State) (j : Nat) : State :=
  match s.disp j with
  | none => s
  | some d =>
    let rows := (List.range d.nloc).map fun l => d.rowsIn l d.round
    if !d.exchanged || d.ready || d.destDone || decide (d.placed < rows.foldl (· + ·) 0)
        || s.vaHeld agDisp (d.f 80 8) (16 + 4 * d.nloc) then s
    else
      let s1 := s.dispPut j (d.f 80 8)
        (toBytes 4 d.round ++ toBytes 4 d.rounds ++ toBytes 4 d.nloc ++ toBytes 4 0 ++ rows.flatMap (toBytes 4))
      let s2 := s1.modDisp j fun d => { d with ready := true }
      let s3 := if d.round = 0 then s2 else s2.count32 (pgDsp + 0x068) 1
      match s3.xlate agDisp (d.f 88 8) true false with
      | (some p, t) => t.signal p.pa true 0
      | (none, t) => t.dispFail j

/-- The whole messages that peers have sent, in the order of their senders' ranks. -/
def Disp.message (d : Disp) : Option (Nat × Nat × List Byte × Disp) :=
  d.rx.findSome? fun (r, l) =>
    let n := ofBytes (l.take 4)
    if decide (5 ≤ l.length) && decide (n ≤ l.length) && decide (5 ≤ n) then
      some (r, ofBytes ((l.drop 4).take 1), (l.take n).drop 5, { d with rx := nset d.rx r (l.drop n) })
    else none

/-- Take the counts that a rank reports (R234). -/
def State.takeCounts (s : State) (j rank : Nat) (counts : List Nat) (reason : Nat) : State :=
  s.modDisp j fun d =>
    if (nfind d.oks rank).isSome then d else { d with oks := nset d.oks rank reason, counts := nset d.counts rank counts }

/-- Take one message. -/
def State.dispMsg (s : State) (j : Nat) (i : SliceInfo) (rank kind : Nat) (b : List Byte) : State :=
  match s.disp j with
  | none => s
  | some d =>
    match kind with
    | 0 => s.takeCounts j rank (bytesElems 4 (b.drop 1)) (ofBytes (b.take 1))
    | 1 => (rowsOf (s.tokBytes d) b).foldl (fun acc r => acc.placeRow j r.1 r.2.1 r.2.2.1 r.2.2.2) s
    | 2 => (rowsOf (s.retBytes d) b).foldl (fun acc r => acc.takeReturn j i rank r.1 r.2.1 r.2.2.1 r.2.2.2) s
    | 3 => s.setDisp j { d with bases := nset d.bases rank (bytesElems 4 b), opened := nset d.opened rank (max 1 (nget d.opened rank 0)) }
    | _ => s.setDisp j { d with opened := nset d.opened rank (nget d.opened rank 0 + 1) }

/-- The rows of a message go to memory on a channel that serves nothing now, or to a sector whose entry is pinned: the message
waits (R127, R473). -/
def State.dispMsgHeld (s : State) (d : Disp) (i : SliceInfo) (rank kind : Nat) (b : List Byte) : Bool :=
  match kind with
  | 1 =>
    let n := s.tokBytes d
    (rowsOf n b).any fun r => s.vaHeld agDisp (d.f 40 8 + r.1 * d.f 48 4 + r.2.1 % d.cap * n) n
  | 2 =>
    let n := s.retBytes d
    (rowsOf n b).any fun r =>
      match (s.assigned d i rank).find? fun a => a.1 == r.1 && a.2.1 == r.2.1 with
      | some a => (match (s.dispRow d.rtid a.2.2.2).1 with | some pa => s.writeHeld pa n | none => false)
      | none => false
  | _ => false

/-- Take every whole message that has come, up to one that must wait. -/
def State.dispMsgs (s : State) (j : Nat) (i : SliceInfo) : Nat → State
  | 0 => s
  | f + 1 =>
    match (s.disp j).bind Disp.message with
    | some (r, k, b, d) => if s.dispMsgHeld d i r k b then s else ((s.setDisp j d).dispMsg j i r k b).dispMsgs j i f
    | none => s

/-- What a dispatch waits for that peers send: 1 their counts, 2 their base positions, 3 + r the rows of round r. Returned rows
wait for peers' releases and have no deadline (R239, R241; log entry 156). -/
def Disp.waitsFor (d : Disp) (size : Nat) : List Nat :=
  if !d.exchanged then [1]
  else if d.destDone && d.combined then []
  else (if d.bases.length < size then [2] else []) ++ (if d.ready || d.destDone then [] else [3 + d.round])

/-- A wait's deadline is set as it begins, and gone when it is over (R539). -/
def State.dispDues (s : State) (j : Nat) (i : SliceInfo) : State :=
  s.modDisp j fun d => { d with dues := (d.waitsFor i.size).map fun w => (w, nget d.dues w (s.now.toNat + s.tmo)) }

/-- A dispatch goes as far as it can. -/
def State.dispRun (s : State) (j : Nat) (i : SliceInfo) : State :=
  let n := ((s.disp j).map fun d => (d.rx.map fun p => p.2.length).foldl (· + ·) 0).getD 0
  let s1 := (s.dispMsgs j i (n / 5 + 1)).dispExchange j i
  let s2 := (List.range i.size).foldl (fun acc r => acc.sendRound j i r) s1
  (s2.dispReady j).dispDues j i

/-- ROUTED_DISPATCH: a running dispatch counts, exchanges, buckets and places its rows, as far as its peers let it; at most
four run at once (R230, R237). -/
def execRoutedDispatch (q : ColQueue) (s : State) : Host.Outcome State Fault Refusal :=
  match (s.colQ q).cur, s.top.slice with
  | some c, some i =>
    if !s.working || c.type != 6 || c.done.isSome then .next s
    else
      match s.disps.find? fun e => e.2.queue == q.val with
      | some (j, _) => .next (s.dispRun j i)
      | none =>
        match (List.range 4).find? fun j => (s.disp j).isNone with
        | some j =>
          if 8 ≤ s.colRunning || s.dispStartHeld c.body then .next s
          else
            let rx := c.rx.map fun p => (p.1 / 2, p.2.flatMap id)
            let s1 := (({ s with serial := s.serial + 1 } : State).setColl q { c with running := true, rx := [] }).setDisp j
              { queue := q.val, body := c.body, rx := rx, serial := s.serial }
            .next ((s1.dispStart j i c.hdr).dispRun j i)
        | none => .next s
  | _, _ => .next s

/-- COUNT_EXCHANGE_RECEIVE: the counts and check result of a peer (R234). -/
def execCountExchangeReceive (d : DispSlot) (peer : Rank) (counts : List Nat) (reason : Byte) (s : State) :
    Host.Outcome State Fault Refusal :=
  match s.top.slice with
  | some i =>
    if !s.working || decide (i.size ≤ peer.val) then .next s
    else .next ((s.takeCounts d peer counts reason.toNat).dispRun d i)
  | none => .next s

/-- Return the outputs of a round: each row goes to its source (R237 phase 7). -/
def State.returnRound (s : State) (j : Nat) (i : SliceInfo) : State :=
  match s.disp j with
  | none => s
  | some d =>
    let me := s.rankOf i s.coord
    let n := s.retBytes d
    (List.range i.size).foldl (fun acc rank =>
      let rows := (List.range d.nloc).flatMap fun l =>
        let b := d.base rank l
        ((List.range ((nget d.counts rank []).getD l 0)).map (b + ·)).filter (fun p => p / d.cap == d.round) |>.map fun p => (l, p)
      let (msg, a1) := rows.foldl (fun (ac : List (Nat × Nat × List Byte × Bool) × State) (l, p) =>
        match ac.2.vaRead agDisp (d.f 56 8 + l * d.f 52 4 + p % d.cap * n) n with
        | (some (b, bad), t) =>
          (ac.1 ++ [(l, p, b, bad)], if bad then (t.fatal .dsp 0 0x83).modDisp j (fun x => { x with poisoned := true }) else t)
        | (none, t) => (ac.1 ++ [(l, p, List.replicate n (0 : Byte), false)], t.dispFail j)) ([], acc)
      if rank = me then msg.foldl (fun ac m => ac.takeReturn j i me m.1 m.2.1 m.2.2.1 m.2.2.2) a1
      else if msg.isEmpty then a1
      else a1.dispSend j i rank 2 (msgRows msg)) s

/-- Value of a counter at a virtual address. -/
def State.counterAt (s : State) (va : Nat) : Option (Nat × Nat × Nat) × State :=
  match s.xlate agDisp va true false with
  | (some p, s1) =>
    (match s1.objAt p.pa with
    | some (.ctr h k) => some (h, k, (s1.ctr h k).value)
    | _ => none, s1)
  | (none, s1) => (none, s1)

/-- What a round's return reads, or writes here, stands on a channel that serves nothing now (R473). -/
def State.returnHeld (s : State) (d : Disp) : Bool :=
  s.someHeld && ((List.range d.nloc).any fun l => s.vaHeld agDisp (d.f 56 8 + l * d.f 52 4) (d.rowsIn l d.round * s.retBytes d)
    || d.order.any fun a => match (s.dispRow d.rtid a.2).1 with
      | some pa => s.writeHeld pa (s.retBytes d)
      | none => false)

/-- DISPATCH_RELEASE_WAIT_DONE: the release counter has reached r + 1; the round's outputs return, and the next round opens.
A RELADDR that does not translate makes the dispatch fail, and the round goes on unreleased (R237 phases 6 to 8, R240, R242;
log entry 142). -/
def execDispatchReleaseWaitDone (d : DispSlot) (s : State) : Host.Outcome State Fault Refusal :=
  match s.disp d, s.top.slice with
  | some e, some i =>
    if !s.working || !e.ready || e.destDone || s.returnHeld e then .next s
    else
      let (pg, s0) := s.xlate agDisp (e.f 96 8) true false
      let (cv, s1) := s.counterAt (e.f 96 8)
      let (go, s2) := match pg, cv with
        | none, _ => (true, s0.dispFail d)
        | some _, some (_, _, v) => (decide (e.round + 1 ≤ v), s1)
        | some _, none => (false, s1)
      if !go then .next s2
      else
        let s3 := s2.returnRound d i
        let last := decide (e.rounds ≤ e.round + 1)
        let me := s3.rankOf i s3.coord
        let s4 := s3.modDisp d fun x =>
          if last then { x with destDone := true, ready := false }
          else { x with round := x.round + 1, placed := 0, ready := false, hangSeen := false, opened := nset x.opened me (x.round + 2) }
        let s5 := if last then s4 else ((List.range i.size).filter (· != me)).foldl (fun acc r => acc.dispSend d i r 4 []) s4
        .next (s5.dispRun d i)
  | _, _ => .next s

/-- DISPATCH_COMBINE: every return row has come; the weighted pooling of R237 phase 9 is issued as a GATHER_POOL on the return
table, and the combine is done when that command is (R237, R238). -/
def execDispatchCombine (d : DispSlot) (s : State) : Host.Outcome State Fault Refusal :=
  match s.disp d with
  | some e =>
    if !s.working || !e.exchanged || e.combined || e.combining || e.waits != 0 || decide (e.returned < e.order.length) then .next s
    else
      let s1 := (s.modDisp d fun x => { x with combining := true }).dispIssue d e.rtid e.combineRaw ((List.range e.slots).flatMap (toBytes 4))
      .next (s1.modDisp d fun x => { x with combined := x.combined || x.waits == 0 })
  | none => .next s

/-- DISPATCH_COMPLETE: the combine and every round are done; R leaves both counters, the record is written and the bead
signalled; one whose SIGADDR does not translate ends `FAULT`, and one refused in step with the lowest reason (R64, R231, R234,
R241, R242). -/
def execDispatchComplete (d : DispSlot) (s : State) : Host.Outcome State Fault Refusal :=
  match s.disp d with
  | some e =>
    match (s.colQ e.queue).cur with
    | some c =>
      if !s.working || !e.combined || !e.destDone || e.waits != 0
          || s.vaHeld agDisp (s.reg64 (pgColQ e.queue + 0x18) % 2 ^ 48 + 8 * c.idx) 8 then .next s
      else
        let refused := e.reason != 0
        let (pg, s) := s.xlate agDisp (e.f 104 8) true false
        let e := { e with failed := e.failed || (!refused && pg.isNone) }
        let st := if e.aborted then 4 else if e.poisoned then 5 else if e.failed then 3 else if refused then 2 else 0
        let r := if st = 2 then e.reason else if st = 3 then 0x06 else 0
        let sub := fun (a : State) (va : Nat) => match a.counterAt va with
          | (some (h, k, _), b) => b.subCtr h k e.rounds
          | (none, b) => b
        let s1 := if refused then s else sub (sub s (e.f 88 8)) (e.f 96 8)
        .next (({ s1 with disps := ndel s1.disps d } : State).collEnd e.queue c st r true)
    | none => .next s
  | none => .next s

/-- HANG_WATCH: a waiter whose wait exceeds HWTHR is reported once: a core at its cluster; a dispatch that waits for its release
at the home of the release counter, as kind 1 with core id 0 (R241, R428; log entry 142). -/
def execHangWatch (w : HangWho) (s : State) : Host.Outcome State Fault Refusal :=
  match w with
  | .core c => .next (s.hangCore c)
  | .dispatch j =>
    match s.disp j with
    | some d =>
      if !d.ready || d.destDone || d.hangSeen then .next s
      else
        match s.counterAt (d.f 96 8) with
        | (some (h, k, _), _) =>
          .next (if s.rbit (pgSyn h + 0x040) 0 then (s.modDisp j fun x => { x with hangSeen := true }).hangReport h k 1 0 else s)
        | (none, _) => .next s
    | none => .next s

end Sys2Proof.Machine
end

