-- ==== Sys2Proof/Machine/Sparse.lean ====
section
/-! DEFINITION. Machine/Sparse.lean: SCOMPRESS, STRANSPOSE (R298 to R306) and the bitmap tile (R307 to R311). -/

namespace Sys2Proof.Machine

open Sys2Proof

/-- The magnitude of an element as an order: the pattern without its sign, a NaN above every number (R299). -/
def magOf (f p : Nat) : Nat :=
  let w := fmtBits f
  match ffmt f with
  | some ff => if (ff.decode p).isNan then 2 ^ w else p % 2 ^ (w - 1)
  | none => p % 2 ^ w

/-- The four positions of a group of eight that are kept, ascending, and whether a non-zero was dropped (R299). -/
def keepFour (f : Nat) (es : List Nat) : List Nat × Bool :=
  let mag := fun i => magOf f (es.getD i 0)
  let nz := (List.range 8).filter fun i => mag i != 0
  if nz.length ≤ 4 then
    let pad := ((List.range 8).filter fun i => mag i == 0).take (4 - nz.length)
    ((List.range 8).filter fun i => nz.contains i || pad.contains i, false)
  else
    ((List.range 8).filter fun i =>
      decide (((List.range 8).filter fun j => decide (mag j > mag i) || (mag j == mag i && decide (j < i))).length < 4), true)

/-- The dense positions of one line of a pair of slots (R292). -/
def pairElem (k : Core) (s f l i : Nat) : Nat :=
  let kk := tileK f
  tileElem (k.tile (s + i / kk)) f l (i % kk)

/-- A compressed line: kept values, their codes, the groups that dropped a non-zero (R293, R299). -/
structure CLine where
  vals : List Nat
  codes : List Nat
  drops : Nat

/-- Compress a line of Kd elements group by group. -/
def compressLine (f : Nat) (es : List Nat) : CLine :=
  (List.range (es.length / 8)).foldl (fun acc g =>
    let grp := (es.drop (8 * g)).take 8
    let (ps, d) := keepFour f grp
    { vals := acc.vals ++ ps.map fun p => grp.getD p 0
      codes := acc.codes ++ ps
      drops := acc.drops + (if d then 1 else 0) }) { vals := [], codes := [], drops := 0 }

/-- The two slot images of sixteen compressed lines (R293, R297): code lines are zero beyond their codes. -/
def pairImage (f : Nat) (ls : List CLine) : Nat × Nat :=
  (pack 256 (ls.map fun l => pack (fmtBits f) l.vals), pack 256 (ls.map fun l => pack 3 l.codes))

/-- The first 8 × 8 block whose kept mask has a column of more than four non-zeros: band, group, column (R301). -/
def badBlock (f : Nat) (ls : List CLine) : Option (Nat × Nat × Nat) :=
  (List.range 2).findSome? fun band =>
    (List.range (2 * tileK f / 8)).findSome? fun g =>
      ((List.range 8).find? fun col =>
        decide (4 < ((List.range 8).filter fun r =>
          match ls[8 * band + r]? with
          | some l => (List.range 4).any fun i =>
              l.codes.getD (4 * g + i) 8 == col && magOf f (l.vals.getD (4 * g + i) 0) != 0
          | none => false).length)).map fun col => (band, g, col)

/-- The scale run of a destination pair after SCOMPRESS: byte l × (Kd / 32) + b is the scale of dense block b of line l, which the
source pair holds in the slot of its K positions (R261, R294, R300). The other bytes stay. -/
def scaleRun (k : Core) (f src old : Nat) : Nat :=
  let nb := tileK f / 32
  (List.range 16).foldl (fun acc l =>
    (List.range (2 * nb)).foldl (fun a b =>
      setFld a (8 * (l * (2 * nb) + b)) 8 (fld (k.scale (src + b / nb)) (8 * (l * nb + b % nb)) 8)) acc) old

/-- SCOMPRESS on slots (R298 to R302). -/
def scompressInstr (c : Nat) (op : EngOp) (src dst : Nat) (s0 : State) : IRes :=
  let m := (s0.core c).mxfmt.toNat
  let f := fld m 0 4
  if !sparseFmt f || decide (447 ≤ src) || decide (447 ≤ dst) then illegal op s0
  else if s0.anyBreach c [src, src + 1, dst, dst + 1] [] [] then partTrap c op s0
  else if (s0.core c).pending [src, src + 1, dst, dst + 1] then .stall s0
  else
    let s1 := s0.drain c
    let k := s1.core c
    let ls := (List.range 16).map fun l => compressLine f ((List.range (2 * tileK f)).map fun i => pairElem k src f l i)
    let (v0, v1) := pairImage f ls
    let bad := k.tileBad.contains src || k.tileBad.contains (src + 1)
    let k1 := (k.setTile dst v0 bad).setTile (dst + 1) v1 bad
    let run := scaleRun k f src (k.scale dst + 2 ^ 256 * k.scale (dst + 1))
    let k2 := if bitOf m 8 then (k1.setScale dst (fld run 0 256)).setScale (dst + 1) (fld run 256 256) else k1
    let drops := ls.foldl (fun acc l => acc + l.drops) 0
    let s2 := s1.setCore c k2
    let s3 := if drops = 0 then s2 else (s2.addSp c spDROP).count32 (pgCor c + 0x41C) drops
    let s4 := match badBlock f ls with
      | none => s3
      | some (band, g, col) =>
        let s' := (s3.addSp c spNT).count32 (pgCor c + 0x418) 1
        if s3.rbit (pgCor c + 0x404) 31 then s' else s'.setReg (pgCor c + 0x404) (band + 2 * g + 32 * col + 2 ^ 31)
    let s5 := s4.count64 (pgCor c + 0x408) 1
    .done (if bad then s5.markPoison c else s5)

def execScompress (c : CoreId) (src dst : TileId) (s : State) : Host.Outcome State Fault Refusal :=
  .next (s.issue c (.sparse false src dst) (scompressInstr c (.sparse false src dst) src.val dst.val))

/-- The element at block row r, column q of the n compressed pairs from slot s: the kept value its codes name there, +0
when none does (R303; the first non-zero one where codes repeat, log entry 31). -/
def blockElem (k : Core) (s f r q : Nat) : Nat :=
  let tv := k.tile (s + 2 * (r / 16))
  let tc := k.tile (s + 2 * (r / 16) + 1)
  let l := r % 16
  let cand := (List.range 4).filter fun i => codeOf tc l (4 * (q / 8) + i) == q % 8
  let val := fun i => tileElem tv f l (4 * (q / 8) + i)
  match cand.find? fun i => magOf f (val i) != 0 with
  | some i => val i
  | none => match cand with
    | i :: _ => val i
    | [] => 0

/-- STRANSPOSE on slots (R303 to R306). -/
def stransposeInstr (c : Nat) (op : EngOp) (src dst : Nat) (s0 : State) : IRes :=
  let m := (s0.core c).mxfmt.toNat
  let f := fld m 0 4
  let kd := 2 * tileK f
  let n := kd / 16
  if bitOf m 8 || !sparseFmt f || decide (447 < src + 2 * n - 1) || decide (447 < dst + 2 * n - 1) then illegal op s0
  else
    let ss := (List.range (2 * n)).map (src + ·)
    let ds := (List.range (2 * n)).map (dst + ·)
    if s0.anyBreach c (ss ++ ds) [] [] then partTrap c op s0
    else if (s0.core c).pending (ss ++ ds) then .stall s0
    else
      let s1 := s0.drain c
      let k := s1.core c
      let bad := ss.any (k.tileBad.contains ·)
      let line := fun r => compressLine f ((List.range kd).map fun q => blockElem k src f q r)
      let pairs := (List.range n).map fun i => (List.range 16).map fun l => line (16 * i + l)
      let k1 := (pairs.zip (List.range n)).foldl (fun acc (ls, i) =>
        let (v0, v1) := pairImage f ls
        (acc.setTile (dst + 2 * i) v0 bad).setTile (dst + 2 * i + 1) v1 bad) k
      let drops := pairs.foldl (fun acc ls => ls.foldl (fun a l => a + l.drops) acc) 0
      let s2 := s1.setCore c k1
      let s3 := if drops = 0 then s2 else (s2.addSp c spTDROP).count32 (pgCor c + 0x41C) drops
      let s4 := s3.count64 (pgCor c + 0x410) 1
      .done (if bad then s4.markPoison c else s4)

def execStranspose (c : CoreId) (src dst : TileId) (s : State) : Host.Outcome State Fault Refusal :=
  .next (s.issue c (.sparse true src dst) (stransposeInstr c (.sparse true src dst) src.val dst.val))

/-! ## The bitmap tile -/

/-- The header fields of a bitmap tile (R307). -/
structure BHdr where
  fmt : Nat
  dense : Bool
  mx : Bool
  nnz : Nat
  bytes : Nat
  reserved : Bool
  deriving DecidableEq, Repr

def bitmapHdr (h : Nat) : BHdr :=
  { fmt := fld h 0 4, dense := bitOf h 8, mx := bitOf h 9, nnz := fld h 16 16, bytes := fld h 32 32
    reserved := fld h 4 4 != 0 || fld h 10 6 != 0 || fld h 64 64 != 0 }

def up16 (n : Nat) : Nat := (n + 15) / 16 * 16

/-- Sizes S, D, M and V of a bitmap tile (R308). -/
def BHdr.sBytes (h : BHdr) : Nat := if h.mx then up16 (16 * tileK h.fmt / 32) else 0
def BHdr.dBytes (h : BHdr) : Nat := 16 * tileL h.fmt
def BHdr.mBytes (h : BHdr) : Nat := 2 * tileK h.fmt
def BHdr.vBytes (h : BHdr) : Nat := up16 ((h.nnz * fmtBits h.fmt + 7) / 8)

/-- The checks of R307 to R309 and R311 that the header alone allows. -/
def BHdr.ok (h : BHdr) : Bool :=
  !h.reserved && decide (1 ≤ h.fmt ∧ h.fmt ≤ 8) && (!h.mx || decide (3 ≤ h.fmt ∧ h.fmt ≤ 6))
    && decide (h.nnz ≤ 16 * tileK h.fmt) && (!h.dense || h.nnz == 16 * tileK h.fmt)
    && h.bytes == 16 + h.sBytes + (if h.dense then h.dBytes else h.mBytes + h.vBytes)
    && (h.dense || decide (h.mBytes + h.vBytes < h.dBytes))

/-- Number of ones among the low n bits. -/
def ones (v n : Nat) : Nat := ((List.range n).filter fun i => bitOf v i).length

/-- The dense image and the scales of a bitmap tile; none when the tile is refused (R310, R311). The body is what
follows the 16-byte header. -/
def expandBitmap (h : BHdr) (body : Nat) : Option (Nat × Option Nat) :=
  if !h.ok then none
  else
    let kk := tileK h.fmt
    let w := fmtBits h.fmt
    let sc := if h.mx then some (fld body 0 (8 * (16 * kk / 32))) else none
    let rest := body >>> (8 * h.sBytes)
    let ll := 8 * tileL h.fmt
    if h.dense then some (pack 256 ((List.range 16).map fun l => fld rest (ll * l) ll), sc)
    else
      let bm := fld rest 0 (16 * kk)
      let vals := rest >>> (8 * h.mBytes)
      if ones bm (16 * kk) != h.nnz then none
      else
        let elem := fun i => if bitOf bm i then fld vals (w * ones bm i) w else 0
        some (pack 256 ((List.range 16).map fun l => pack w ((List.range kk).map fun i => elem (l * kk + i))), sc)

end Sys2Proof.Machine
end

