-- ==== Sys2Proof/Machine/Stream.lean ====
section
/-! DEFINITION. Machine/Stream.lean: stream engines: validation, the five modes, tiles on their way, halting on a page fault,
completion (R380 to R404). -/

namespace Sys2Proof.Machine

open Sys2Proof

/-! ## The descriptor (R384 to R391) -/

def sMode (raw : Nat) : Nat := dfld raw 0 1 % 16
def sFlag (raw i : Nat) : Bool := bitOf (dfld raw 1 1) i
def sOrd (raw : Nat) : Bool := sFlag raw 0
def sSigen (raw : Nat) : Bool := sFlag raw 1
def sSigcnt (raw : Nat) : Bool := sFlag raw 2
def sRsrc (raw : Nat) : Bool := sFlag raw 4
def sRdst (raw : Nat) : Bool := sFlag raw 5
def sTag (raw : Nat) : Nat := dfld raw 2 2
def sClass (raw : Nat) : Nat := dfld raw 4 1 % 8

def mdSTRIDED : Nat := 0
def mdGATHER : Nat := 1
def mdBITMAP : Nat := 2
def mdCHAIN : Nat := 3
def mdSORLIST : Nat := 4

/-- First tile slot and number of tiles of a BITMAP or CHAIN descriptor. -/
def sTslot (raw : Nat) : Nat := if sMode raw = 2 then dfld raw 16 2 else dfld raw 24 2
def sNtiles (raw : Nat) : Nat := if sMode raw = 2 then dfld raw 18 2 else dfld raw 26 2
def sCmx (raw : Nat) : Bool := bitOf (dfld raw 6 1) 0

/-- Bytes of a STRIDED stream (R387). -/
def sTotal (raw : Nat) : Nat := dfld raw 24 4 * dfld raw 28 2 * dfld raw 30 2

/-- An address plus a signed 32-bit stride times a count, modulo 2^64. -/
def plusStride (a stride n : Nat) : Nat := unsgn 64 ((a : Int) + sgn 32 stride * n)

/-- Source and destination of the byte at linear position `pos` of a STRIDED stream (R387). -/
def stridedAt (raw pos : Nat) : Nat × Nat :=
  let len := dfld raw 24 4
  let row := pos / len
  let i := row % dfld raw 28 2
  let j := row / dfld raw 28 2
  (((plusStride (plusStride (dfld raw 8 8) (dfld raw 40 4) j) (dfld raw 32 4) i) + pos % len) % 2 ^ 64,
   ((plusStride (plusStride (dfld raw 16 8) (dfld raw 44 4) j) (dfld raw 36 4) i) + pos % len) % 2 ^ 64)

/-- The reserved bits and ranges of a descriptor: the reason 0x01 (R12, R384, R387 to R391). With SIGEN 0 the whole of SIGADDR is
ignored, its reserved bits too (DESIGN CHOICE, log entry 159). -/
def streamOk (raw : Nat) : Bool :=
  let z := fun off n => dfld raw off n == 0
  dfld raw 0 1 < 5 && dfld raw 1 1 < 64 && dfld raw 4 1 < 8 && z 5 1 && (!sSigen raw || z 62 2)
    && (sMode raw == 0 || (!sRsrc raw && !sRdst raw)) &&
  match sMode raw with
  | 0 =>
    z 6 2 && z 52 4 && decide (1 ≤ dfld raw 24 4 ∧ dfld raw 24 4 ≤ 2 ^ 24) && !z 28 2 && !z 30 2 && decide (sTotal raw < 2 ^ 32)
      && !(sRsrc raw && sRdst raw) && dfld raw 48 4 < 2 ^ 18 && (sRsrc raw || sRdst raw || z 48 4)
  | 1 => dfld raw 6 1 < 2 && z 7 1 && decide (1 ≤ dfld raw 36 4 ∧ dfld raw 36 4 ≤ 2 ^ 20) && z 54 2
  | 2 => dfld raw 6 1 < 64 && z 7 1 && z 20 36 && decide (1 ≤ dfld raw 18 2 ∧ dfld raw 18 2 ≤ 448)
  | 3 =>
    dfld raw 6 1 < 2 && z 7 1 && z 30 2 && z 36 20 && decide (1 ≤ dfld raw 26 2 ∧ dfld raw 26 2 ≤ 448)
      && decide (1 ≤ dfld raw 28 2 ∧ dfld raw 28 2 ≤ 2048) && decide ((if sCmx raw then 544 else 512) ≤ dfld raw 32 4)
  | _ => dfld raw 6 1 < 16 && dfld raw 7 1 < 64 && z 20 36 && !z 16 4

/-- The alignments of a descriptor: the reason 0x05 (R388 to R391). -/
def streamAligned (raw : Nat) : Bool :=
  match sMode raw with
  | 0 => true
  | 1 => dfld raw 24 8 % (if bitOf (dfld raw 6 1) 0 then 8 else 4) == 0
  | 2 => dfld raw 8 8 % 16 == 0
  | 3 => dfld raw 8 8 % 64 == 0 && dfld raw 16 8 % 2 == 0
  | _ => dfld raw 8 8 % 64 == 0

/-- The remote side of a STRIDED stream lies in HBM or the Rhizome tier of a module of the slice, and the job permits remote
flows (R386). Every row is checked at its ends. -/
def State.remoteOk (s : State) (raw : Nat) : Bool :=
  let rows := List.range (dfld raw 28 2 * dfld raw 30 2)
  let len := dfld raw 24 4
  s.remoteAllowed
    && (match s.top.slice with | some i => s.inSlice i (dfld raw 48 4) | none => false)
    && rows.all fun r =>
      let (sa, da) := stridedAt raw (r * len)
      inMemory (if sRsrc raw then sa else da) len

/-- The tile slots of a descriptor breach the partition at a core, judged by the issuing op's priority (R283, R392). -/
def State.tileBreach (s : State) (d : SDesc) (c : Nat) : Bool :=
  let ts := sTslot d.raw
  s.rbit (pgCor c + 0x040) 0 && (List.range (sNtiles d.raw)).any fun k => d.prio7 != tilePart (ts + k)

/-- Validate a descriptor of engine `e` (R383 to R392); a CHAIN's path is checked when it is read. -/
def State.streamCheck (s : State) (e : Nat) (d : SDesc) : Option Nat :=
  let raw := d.raw
  if !streamOk raw then some 0x01
  else if !streamAligned raw then some 0x05
  else if (sRsrc raw || sRdst raw) && !s.remoteOk raw then some 0x82
  else if (sMode raw = 2 ∨ sMode raw = 3) ∧ 448 < sTslot raw + sNtiles raw then some 0x81
  else if sMode raw = 2 then
    let c := (e / 8) * 64 + dfld raw 6 1 % 64
    if !s.coreOn c then some 0x0A else if s.tileBreach d c then some 0x81 else none
  else none

/-! ## Engines -/

def State.modSeng (s : State) (e : Nat) (f : SEng → SEng) : State := s.setSeng e (f (s.seng e))

/-- Change a descriptor at work. -/
def State.modDesc (s : State) (e serial : Nat) (f : SDesc → SDesc) : State :=
  s.modSeng e fun k => { k with work := k.work.map fun d => if d.serial == serial then f d else d }

/-- An engine issues requests: the device works, its cluster is enabled, it is not halted, and no address has failed to
translate (R393). -/
def State.sengRuns (s : State) (e : Nat) : Bool :=
  s.working && bitOf s.boot.clusters.toNat (e / 8) && s.rbit (pgSeng e) 0 && (s.seng e).halt.isNone && (s.seng e).fault.isNone

/-- The address of a descriptor at which an engine stops issuing (R393); the first one decides. -/
def State.sengFault (s : State) (e serial va : Nat) (write : Bool) : State :=
  s.modSeng e fun k => { k with fault := k.fault.orElse fun _ => some (serial, va, write) }

/-- Mark every target slot of a descriptor pending at a core (R398). -/
def State.markPending (s : State) (e : Nat) (d : SDesc) (c : Nat) : State :=
  s.modCore c fun k =>
    { k with pend := k.pend ++ (List.range (sNtiles d.raw)).map fun t => (sTslot d.raw + t, markOf e d) }

/-- The marks of a completed descriptor end (R398; log entry 40). -/
def State.unmark (s : State) (e : Nat) (d : SDesc) : State :=
  d.path.foldl (fun acc c => acc.modCore c fun k => { k with pend := k.pend.filter fun p => p.2 % supersededMark != markOf e d }) s

/-- A stream completes: it is counted, and signals when it has a translated signal address (R397). -/
def State.streamEnd (s : State) (e : Nat) (d : SDesc) (status reason : Nat) (sig : Bool) : State :=
  let s1 := (s.unmark e d).count64 (pgSeng e + 0x20) 1
  match d.sig with
  | some a => if sig then s1.signal a (sSigcnt d.raw) (sTag d.raw * 65536 + reason * 256 + status) else s1
  | none => s1

/-- STREAM_DESCRIPTOR_START: an engine with fewer than four descriptors at work starts the next of its queue; one with `ORD`
waits until every earlier one has completed. It is validated and its SIGADDR translated; one that fails completes `REFUSED`
(R381, R383, R397). -/
def execStreamDescriptorStart (e : SEngId) (s : State) : Host.Outcome State Fault Refusal :=
  let k := s.seng e
  if !s.sengRuns e || decide (4 ≤ k.work.length) then .next s
  else
    match k.queue with
    | [] => .next s
    | d :: rest =>
      if (sOrd d.raw && !k.work.isEmpty) || (sSigen d.raw && s.walkHeld (e.val / 8) (dfld d.raw 56 6)) then .next s
      else
        let s1 := s.setSeng e { k with queue := rest }
        let (sig, noSig, s2) :=
          if !sSigen d.raw then (none, false, s1)
          else match s1.xlate (e.val / 8) (dfld d.raw 56 6) true false with
            | (some p, a) => (some p.pa, false, a)
            | (none, a) => (none, true, a)
        let d1 := { d with sig := sig }
        if noSig then .next (s2.streamEnd e d1 2 0x06 false)
        else
          match s2.streamCheck e d1 with
          | some r => .next (s2.streamEnd e d1 2 r true)
          | none =>
            let c := (e.val / 8) * 64 + dfld d.raw 6 1 % 64
            let d2 := if sMode d.raw = 2 then { d1 with path := [c] } else d1
            let s3 := s2.modSeng e fun k => { k with work := k.work ++ [d2] }
            .next (if sMode d.raw = 2 then s3.markPending e d2 c else s3)

/-! ## Units of a stream -/

/-- What the next unit of a stream comes to: it is done; an address does not translate; the stream ends with a fault; the
unit waits; or it needs a channel of a fenced PHY die (R477). -/
inductive SStep where
  | ok (s : State)
  | page (va : Nat) (write : Bool) (s : State)
  | fault (reason : Nat) (s : State)
  | wait (s : State)
  | lost (s : State)

/-- Read a range for an engine through its cluster's translation cache (R348, R386). -/
def State.sRead (s : State) (e va n : Nat) (f : List Byte → Bool → State → SStep) : SStep :=
  if s.walksHeld (e / 8) va n then .wait s else
  match s.xlateRange (e / 8) va n false with
  | (.error a, s1) => .page a false s1
  | (.ok ps, s1) =>
    if !s1.piecesOk ps then .fault 0x06 s1
    else if ps.any fun p => s1.anyLost p.1.pa p.2 then .lost s1
    else if s1.piecesHeld ps then .wait s1
    else
      let s2 := s1.meetPieces ps
      let (l, bad) := s2.readPieces ps
      f l bad (if bad then s2.fatal .clu (e / 8) 0x83 (e % 8) (ps.head?.map fun p => p.1.pa) else s2)

/-- Write a range for an engine; a write of a sector whose entry is pinned waits (R126, R127). -/
def State.sWrite (s : State) (e va : Nat) (l : List Byte) (bad : Bool) (f : State → SStep) : SStep :=
  if s.walksHeld (e / 8) va l.length then .wait s else
  match s.xlateRange (e / 8) va l.length true with
  | (.error a, s1) => .page a true s1
  | (.ok ps, s1) =>
    if !s1.piecesOk ps then .fault 0x06 s1
    else if ps.any fun p => s1.anyLost p.1.pa p.2 then .lost s1
    else if ps.any fun p => s1.writeHeld p.1.pa p.2 then .wait s1
    else f (s1.writeDest ps l bad)

/-- Units done: position, bytes moved, poison. -/
def State.advance (s : State) (e : Nat) (d : SDesc) (units bytes : Nat) (bad : Bool) : State :=
  (s.modDesc e d.serial fun k => { k with pos := k.pos + units, poison := k.poison || bad }).count64 (pgSeng e + 0x28) bytes

/-- The flows of a stream to and from another module (log entry 37). -/
def flowStream (e : Nat) : Nat := 0x900 + e
def flowSread (e : Nat) : Nat := 0xA00 + e
def flowSreply (e : Nat) : Nat := 0xB00 + e

/-- Outstanding requests of an engine: remote reads not answered, and remote writes not acknowledged; requests to this module's
memory complete where they are issued (R381, R403). -/
def State.sengOut (s : State) (e : Nat) : Nat :=
  ((s.seng e).work.map (·.remote)).foldl (· + ·) 0
    + (((s.flowTx.filter fun f => f.key.cls == 5 && f.key.flow.toNat == flowStream e).map fun f => f.unacked.length).foldl (· + ·) 0)
    + (s.flowWait.filter fun p => p.cls == 5 && p.flow.toNat == flowStream e).length

/-- The next piece of a STRIDED stream: within one row, one 64 KiB page of each side, and 512 bytes of a remote one. -/
def pieceLen (raw pos : Nat) : Nat :=
  let (sa, da) := stridedAt raw pos
  let len := dfld raw 24 4
  let n := min (len - pos % len) (min (0x10000 - sa % 0x10000) (0x10000 - da % 0x10000))
  if sRsrc raw || sRdst raw then min n 512 else n

/-- One piece of a STRIDED stream; an engine has at most 512 requests outstanding (R381, R386, R387). -/
def State.stridedStep (s : State) (e : Nat) (d : SDesc) : SStep :=
  let n := pieceLen d.raw d.pos
  let (sa, da) := stridedAt d.raw d.pos
  let co := dfld d.raw 48 4
  if (sRsrc d.raw || sRdst d.raw) && (decide (512 ≤ s.sengOut e) || s.sendStuck (flowStream e)) then .wait s
  else if sRsrc d.raw then
    if s.walksHeld (e / 8) da n then .wait s else
    match s.xlateRange (e / 8) da n true with
    | (.error a, s1) => .page a true s1
    | (.ok _, s1) =>
      let s2 := s1.flowSend co 5 (flowSread e) 2 0 0 (toBytes 6 sa ++ toBytes 2 n ++ toBytes 4 d.serial ++ toBytes 4 d.pos)
      .ok ((s2.modDesc e d.serial fun k => { k with remote := k.remote + 1 }).advance e d n n false)
  else if sRdst d.raw then
    s.sRead e sa n fun l bad s1 =>
      let key : FlowKey := { src := BitVec.ofNat 18 s1.coord, dst := BitVec.ofNat 18 co, cls := 5, flow := BitVec.ofNat 12 (flowStream e) }
      let num := (s1.flowTxOf key).next
      let s2 := s1.flowSend co 5 (flowStream e) 0 0 0 (writePayload da bad l)
      .ok ((s2.modDesc e d.serial fun k => { k with rflow := some (key, num) }).advance e d n n bad)
  else
    s.sRead e sa n fun l bad s1 => s1.sWrite e da l bad fun s2 => .ok (s2.advance e d n n bad)

/-- One index of a GATHER stream (R388). -/
def State.gatherStep (s : State) (e : Nat) (d : SDesc) : SStep :=
  let raw := d.raw
  let w := if bitOf (dfld raw 6 1) 0 then 8 else 4
  let len := dfld raw 36 4
  let ds := if dfld raw 44 4 = 0 then len else dfld raw 44 4
  s.sRead e ((dfld raw 24 8 + w * d.pos) % 2 ^ 64) w fun il ibad s1 =>
    let ix := ofBytes il
    if dfld raw 48 6 ≤ ix then .fault 0x83 (s1.advance e d 0 0 ibad)
    else
      s1.sRead e ((dfld raw 8 8 + ix * dfld raw 40 4) % 2 ^ 64) len fun l bad s2 =>
        s2.sWrite e ((dfld raw 16 8 + d.pos * ds) % 2 ^ 64) l (bad || ibad) fun s3 => .ok (s3.advance e d 1 len (bad || ibad))

/-- Read one bitmap tile and send it towards its slot (R389, R310, R311). -/
def State.bitmapStep (s : State) (e : Nat) (d : SDesc) : SStep :=
  let a := (dfld d.raw 8 8 + d.next) % 2 ^ 64
  s.sRead e a 16 fun hl hbad s1 =>
    let h := bitmapHdr (ofBytes hl)
    if !h.ok then .fault 0x01 (s1.advance e d 0 0 hbad)
    else
      s1.sRead e (a + 16) (h.bytes - 16) fun l bad s2 =>
        match expandBitmap h (ofBytes l) with
        | none => .fault 0x01 (s2.advance e d 0 0 (bad || hbad))
        | some (img, sc) =>
          let mv : TileMove :=
            { k := d.sent, hop := 0, data := BitVec.ofNat 4096 img, scale := sc.map (BitVec.ofNat 256), poison := bad || hbad
              fill := 8 * tileL h.fmt, sfill := 8 * (16 * tileK h.fmt / 32) }
          .ok ((s2.modDesc e d.serial fun k =>
            { k with sent := k.sent + 1, next := k.next + h.bytes, moves := k.moves ++ [mv] }).advance e d 0 h.bytes (bad || hbad))

/-- Check the path of a CHAIN (R392): on the engine's die, no core twice, within the partition, enabled. -/
def State.pathCheck (s : State) (e : Nat) (d : SDesc) (path : List Nat) : Option Nat :=
  if path.any (fun c => decide (2048 ≤ c)) then some 0x01
  else if path.any (fun c => c / 1024 != e / 128) || path.eraseDups.length != path.length then some 0x80
  else if path.any (s.tileBreach d) then some 0x81
  else if path.any fun c => !s.coreOn c then some 0x0A
  else none

/-- Read the path of a CHAIN and mark its target slots, or read one tile and send it to the first core (R391, R392, R398). -/
def State.chainStep (s : State) (e : Nat) (d : SDesc) : SStep :=
  let raw := d.raw
  if d.path.isEmpty then
    let n := dfld raw 28 2
    s.sRead e (dfld raw 16 8) (2 * n) fun l bad s1 =>
      let path := (List.range n).map fun i => ofBytes ((l.drop (2 * i)).take 2)
      match s1.pathCheck e d path with
      | some r => .ok (s1.modDesc e d.serial fun k => { k with ended := some (2, r), poison := k.poison || bad })
      | none =>
        .ok (path.foldl (fun acc c => acc.markPending e d c) (s1.modDesc e d.serial fun k => { k with path := path, poison := k.poison || bad }))
  else
    let n := if sCmx raw then 544 else 512
    s.sRead e ((dfld raw 8 8 + d.sent * dfld raw 32 4) % 2 ^ 64) n fun l bad s1 =>
      let mv : TileMove :=
        { k := d.sent, hop := 0, data := BitVec.ofNat 4096 (ofBytes (l.take 512)), poison := bad
          scale := if sCmx raw then some (BitVec.ofNat 256 (ofBytes (l.drop 512))) else none }
      .ok ((s1.modDesc e d.serial fun k => { k with sent := k.sent + 1, moves := k.moves ++ [mv] }).advance e d 0 n bad)

/-- Index packets that follow a streamed command (R70). -/
def streamPackets (raw : Nat) : Nat :=
  let op := cOp raw
  if (op = opGATHER ∨ op = opGPOOL ∨ isScatter op) ∧ cIsrc raw then (cN raw * cIdxW raw + 63) / 64 else 0

/-- Place entries of a SORLIST, the way SCI places them: the command at position `pos` with as many of its index packets as
there is room for, or the packets that a command placed in part still lacks (R70, R275, R390). -/
def State.sorlistStep (s : State) (e : Nat) (d : SDesc) : SStep :=
  let raw := d.raw
  let x := dfld raw 6 1 % 16
  let q := dfld raw 7 1 % 64
  let va := (dfld raw 8 8 + 64 * d.pos) % 2 ^ 64
  let left := dfld raw 16 4 - d.pos
  if !s.queueOn x q then .fault 0x02 s
  else
    match ((s.server x).queues.flatMap (·.2) ++ (s.server x).cmds).find? fun c =>
        c.src == srcSeng e && c.queue == q && c.missing != 0 with
    | some c =>
      let n := min c.missing left
      s.sRead e va (64 * n) fun l bad s1 =>
        let (rest, s2) := s1.feedCmd x c.serial l
        if rest = n then .wait s2 else .ok (s2.advance e d (n - rest) (64 * (n - rest)) bad)
    | none =>
      s.sRead e va 64 fun l0 _ s1 =>
        let n := min (1 + streamPackets (ofBytes l0)) left
        s1.sRead e va (64 * n) fun l bad s2 =>
          match s2.issueCmd x q l true (srcSeng e) with
          | (.placed _ missing, s3) => .ok (s3.advance e d (n - missing) (64 * (n - missing)) bad)
          | (.busy, s3) => .wait s3
          | (.refused, s3) => .fault 0x02 s3

/-- The next unit of a stream. -/
def State.unitStep (s : State) (e : Nat) (d : SDesc) : SStep :=
  match sMode d.raw with
  | 0 => s.stridedStep e d
  | 1 => s.gatherStep e d
  | 2 => s.bitmapStep e d
  | 3 => s.chainStep e d
  | _ => s.sorlistStep e d

/-- Every unit has been read, and for GATHER, STRIDED and SORLIST written or placed. -/
def SDesc.allDone (d : SDesc) : Bool :=
  match sMode d.raw with
  | 0 => decide (sTotal d.raw ≤ d.pos)
  | 1 => decide (dfld d.raw 32 4 ≤ d.pos)
  | 4 => decide (dfld d.raw 16 4 ≤ d.pos)
  | _ => decide (sNtiles d.raw ≤ d.pos)

/-- There is a unit left to issue. -/
def SDesc.more (d : SDesc) : Bool :=
  match sMode d.raw with
  | 2 => decide (d.sent < sNtiles d.raw)
  | 3 => d.path.isEmpty || decide (d.sent < sNtiles d.raw)
  | _ => !d.allDone

/-- Run up to `n` units of a stream, until one waits or does not translate; the stream ends when all are done. -/
def State.runUnits (s : State) (e serial : Nat) : Nat → State
  | 0 => s
  | n + 1 =>
    match (s.seng e).work.find? (·.serial == serial) with
    | none => s
    | some d =>
      if d.ended.isSome then s
      else if d.allDone then s.modDesc e serial fun k => { k with ended := some (0, 0) }
      else if !d.more then s
      else
        match s.unitStep e d with
        | .ok s1 => s1.runUnits e serial n
        | .page va w s1 => s1.sengFault e serial va w
        | .wait s1 => s1
        | .lost s1 => s1.modDesc e serial fun k => { k with ended := some (4, 0) }
        | .fault r s1 => s1.modDesc e serial fun k => { k with ended := some (3, r) }

/-- The oldest descriptor of a mode at work that has not ended. -/
def State.nextDesc (s : State) (e m : Nat) : Option SDesc :=
  if s.sengRuns e then (s.seng e).work.find? fun d => sMode d.raw == m && d.ended.isNone else none

/-- Run units of the oldest stream of a mode. -/
def runMode (s : State) (e m : Nat) (n : SDesc → Nat) : State :=
  match s.nextDesc e m with
  | some d => s.runUnits e d.serial (n d)
  | none => s

/-- STRIDED: the stream copies its rows and planes (R387). -/
def execStrided (e : SEngId) (s : State) : Host.Outcome State Fault Refusal :=
  .next (runMode s e mdSTRIDED fun d => sTotal d.raw + 1)

/-- STREAM_GATHER: the stream copies its rows (R388). -/
def execStreamGather (e : SEngId) (s : State) : Host.Outcome State Fault Refusal :=
  .next (runMode s e mdGATHER fun d => dfld d.raw 32 4 + 1)

/-- BITMAP: the stream reads and expands its next tile (R389). -/
def execBitmap (e : SEngId) (s : State) : Host.Outcome State Fault Refusal := .next (runMode s e mdBITMAP fun _ => 1)

/-- CHAIN: the stream reads its path, then its next tile (R391, R392). -/
def execChain (e : SEngId) (s : State) : Host.Outcome State Fault Refusal := .next (runMode s e mdCHAIN fun _ => 1)

/-- SORLIST: the stream places entries while the queue has room (R390). -/
def execSorlist (e : SEngId) (s : State) : Host.Outcome State Fault Refusal :=
  .next (runMode s e mdSORLIST fun d => dfld d.raw 16 4 + 1)

/-! ## TILE_LANDED (R392, R398) -/

/-- A tile as it lies in its slot: each line's written bits over what was there, and so the scale area (R310). -/
def TileMove.over (m : TileMove) (tile scale : Nat) : Nat × Nat :=
  ((List.range 16).foldl (fun a l => setFld a (256 * l) m.fill (fld m.data.toNat (256 * l) m.fill)) tile,
   match m.scale with | some sc => setFld scale 0 m.sfill (fld sc.toNat 0 m.sfill) | none => scale)

/-- Put a tile into its slot. -/
def Core.putTile (k : Core) (t : Nat) (m : TileMove) : Core :=
  let (img, sc) := m.over (k.tile t) (k.scale t)
  let k1 := k.setTile t img m.poison
  if m.scale.isSome then k1.setScale t sc else k1

/-- Land a tile in a slot of a core: a slot that a later descriptor has filled keeps its tile; a path core of a CHAIN that was
reset has no mark and discards it, a core that was reset lands the tiles of a BITMAP all the same (R287, R392, R398). -/
def State.landTile (s : State) (e : Nat) (d : SDesc) (c : Nat) (m : TileMove) : State :=
  let t := sTslot d.raw + m.k
  let mk := markOf e d
  let k := s.core c
  match k.pend.findIdx? fun p => p.1 == t && p.2 % supersededMark == mk with
  | none => s
  | some i =>
    let late := (k.pend[i]?).any fun p => decide (supersededMark ≤ p.2)
    let k1 := { k with pend := k.pend.eraseIdx i }
    if late then s.setCore c k1
    else
      let older := ((k1.pend.take i).map fun p => if p.1 == t then (t, p.2 % supersededMark + supersededMark) else p) ++ k1.pend.drop i
      let s1 := s.setCore c ({ k1 with pend := older }.putTile t m)
      if m.poison then s1.markPoison c else s1

/-- A tile may land at its core: every earlier tile has (R392). -/
def SDesc.mayLand (d : SDesc) (m : TileMove) : Bool := d.moves.all fun o => decide (m.k ≤ o.k) || decide (m.hop < o.hop)

/-- TILE_LANDED: a tile on its way lands in its slot, whose mark clears, and is sent on to the next core of the path; at the
last core a unit is complete (R391, R392, R398). -/
def execTileLanded (e : SEngId) (s : State) : Host.Outcome State Fault Refusal :=
  if !s.ready then .next s
  else
    match (s.seng e).work.findSome? fun d => (d.moves.find? d.mayLand).map fun m => (d, m) with
    | none => .next s
    | some (d, m) =>
      let s1 := s.landTile e d (d.path.getD m.hop 0) m
      let rest := d.moves.erase m
      let last := d.path.length ≤ m.hop + 1
      .next (s1.modDesc e d.serial fun k =>
        let pos := if last then k.pos + 1 else k.pos
        { k with
          moves := if last then rest else rest ++ [{ m with hop := m.hop + 1 }]
          pos := pos
          ended := if sNtiles k.raw ≤ pos && k.ended.isNone then some (0, 0) else k.ended })

/-! ## Halting and completing (R393 to R397, R404) -/

/-- What an engine has issued has completed: no tile on its way, no remote read to come, every remote write acknowledged
(R393). -/
def State.sengDrained (s : State) (e : Nat) : Bool :=
  (s.seng e).work.all fun d => d.moves.isEmpty && d.remote == 0 && (match d.rflow with | some (k, n) => s.flowDone k n | none => true)

/-- The engine halts on the address that stopped it, with the position saved (R393). -/
def State.sengHalt (s : State) (e serial va : Nat) (w : Bool) : State :=
  let k := s.seng e
  match k.work.find? (·.serial == serial) with
  | none => s.setSeng e { k with fault := none }
  | some d =>
    let pg := pgSeng e
    let s1 := s.setSeng e { k with halt := some serial, fault := none }
    let s2 := ((s1.setReg64 (pg + 0x08) (va % 2 ^ 48)).setReg64 (pg + 0x10) d.addr).setReg (pg + 0x18) d.pos
    let s3 := (s2.setReg (pg + 0x1C) ((if w then 1 else 0) + 16 * sMode d.raw + 65536 * sTag d.raw)).count32 (pg + 0x30) 1
    s3.raiseVec 1 257

/-- The first address of a descriptor's next unit that does not translate. -/
def State.nextFault (s : State) (e : Nat) : Option (Nat × Nat × Bool) :=
  (s.seng e).work.findSome? fun d =>
    if d.ended.isNone && d.more then
      match s.unitStep e d with
      | .page va w _ => some (d.serial, va, w)
      | _ => none
    else none

/-- STREAM_PAGE_FAULT: an address of a stream does not translate, and the engine stops issuing. Once what was issued has
completed it halts, with the position saved (R393). -/
def execStreamPageFault (e : SEngId) (s : State) : Host.Outcome State Fault Refusal :=
  let found := (s.seng e).fault.orElse fun _ => if s.sengRuns e then s.nextFault e else none
  match found with
  | none => .next s
  | some (serial, va, w) =>
    if !s.working || (s.seng e).halt.isSome then .next s
    else if s.sengDrained e then .next (s.sengHalt e serial va w)
    else .next (s.sengFault e serial va w)

/-- Restart or end the faulting descriptor (R394). -/
def pageResume (q : Nat) (c : HCmd) (s : State) : State :=
  let e := dfld c.raw 8 1
  let k := s.seng e
  match k.halt with
  | none => s.hostRefuse q c.cid 0x01
  | some serial =>
    let s1 := s.setSeng e { k with halt := none }
    let s2 :=
      if bitOf (dfld c.raw 9 1) 0 then s1.modDesc e serial fun d => { d with ended := some (3, 0x06) }
      else s1.modDesc e serial fun d => { d with sent := d.pos }
    s2.hostEnd q c.cid hsOk 0 0

/-- PAGE_RESUME (R394). -/
def execPageResume (q : QueueId) (s : State) : Host.Outcome State Fault Refusal := .next (s.hostRun q 0x0C (pageResume q))

/-- Status and reason of an ended stream: one that met poison completes `POISONED` (R396). -/
def SDesc.final (d : SDesc) : Nat × Nat :=
  match d.ended with
  | some (st, r) => if d.poison && st != 2 && st != 4 then (5, r) else (st, r)
  | none => (0, 0)

/-- The writes of a stream are visible (R396). -/
def State.streamVisible (s : State) (d : SDesc) : Bool :=
  d.moves.isEmpty && d.remote == 0 && (match d.rflow with | some (k, n) => s.flowDone k n | none => true)

/-- STREAM_COMPLETE: the oldest stream whose writes are all visible completes and signals (R396, R397). -/
def execStreamComplete (e : SEngId) (s : State) : Host.Outcome State Fault Refusal :=
  match (s.seng e).work.find? fun d => d.ended.isSome && s.streamVisible d with
  | none => .next s
  | some d =>
    let s1 := s.modSeng e fun k => { k with work := k.work.filter fun x => x.serial != d.serial }
    .next (s1.streamEnd e d d.final.1 d.final.2 true)

/-- An engine holds no descriptor (R403). -/
def SEng.idle (k : SEng) : Bool := k.queue.isEmpty && k.work.isEmpty

/-- Reset an engine: fault registers, halt state, source epoch (R404, R137). -/
def State.resetSeng (s : State) (e : Nat) : State :=
  let pg := pgSeng e
  let s1 := (((s.setReg64 (pg + 0x08) 0).setReg64 (pg + 0x10) 0).setReg (pg + 0x18) 0).setReg (pg + 0x1C) 0
  (s1.modSeng e fun k => { k with halt := none, fault := none }).sourceReset (srcSeng e)

/-- SRST (R404). -/
def execSrst (e : SEngId) (s : State) : Host.Outcome State Fault Refusal :=
  if !s.serves .clu then .next s else
  if s.rbit (pgSeng e) 1 && (s.seng e).idle then .next (s.resetSeng e) else .next (s.refuse (pgSeng e) 0x0D)

end Sys2Proof.Machine
end

