-- ==== Sys2Proof/Machine/Fault.lean ====
section
/-! DEFINITION. Machine/Fault.lean: the job-fatal halt, aborts across the slice, device-fatal events and injected errors
(R543 to R546, R551 to R564). -/

namespace Sys2Proof.Machine

open Sys2Proof

/-! ## The slice's end (R515, R546) -/

/-- A formed slice ends: its declarations are freed and its flows are gone (R138, R515). -/
def State.endSlice (s : State) : State :=
  ({ s with
    top := { s.top with slice := none, forming := none, decls := [], dest := [], drained := [] }
    flowTx := [], flowWait := [], flowRx := [], colIn := [], rxParts := [], upFails := [], upStops := [], epWaits := []
    seqRx := s.seqRx.filter fun p => p.1 % 0x10000 / 0x2000 != 3
    links := s.links.map fun (p : Nat × Link) => (p.1, { p.2 with echoed := false }) } : State).recovDone

/-- Every neighbour of the slice has echoed the abort. -/
def State.allEchoed (s : State) (i : SliceInfo) : Bool :=
  (s.neighbourDirs i).all fun d => (s.dirLinks d).any fun l => (s.link l).echoed

/-- After an abort the slice dissolves once every neighbour has echoed, and every waiting JOB_ABORT completes (R546). -/
def State.abortDone (s : State) : State :=
  match s.top.slice, s.top.abortCause with
  | some i, some _ =>
    if s.allEchoed i then
      let s1 := s.endSlice
      s1.top.host.foldl (fun acc w => acc.hostEnd w.1 w.2 hsOk 0 0) { s1 with top := { s1.top with host := [] } }
    else s
  | _, _ => s

/-- The body of an abort flit (R544). -/
def abortBody (a : AbortInfo) : List Byte :=
  [0x41, if a.echo then 1 else 0] ++ toBytes 2 a.jobtag.toNat ++ toBytes 2 a.origin.toNat ++ [a.cause]

/-- The links towards slice neighbours that are `UP`. -/
def State.neighbourLinks (s : State) (i : SliceInfo) : List Nat := (s.neighbourDirs i).flatMap s.upLinks

/-- JOBTAG of a formed slice: the first two bytes of its signature. -/
def SliceInfo.tag (i : SliceInfo) : Nat := ofBytes (i.sig.take 2)

/-- ABORTINFO is set by the first abort, and the abort flit goes out on every `UP` link towards a slice neighbour (R544). -/
def State.sendAbort (s : State) (cause origin : Nat) : State :=
  match s.top.slice, s.top.abortCause with
  | some i, none =>
    let a : AbortInfo := { echo := false, jobtag := BitVec.ofNat 16 i.tag, origin := BitVec.ofNat 16 origin, cause := BitVec.ofNat 8 cause }
    let s1 := ({ s with top := { s.top with abortCause := some cause } } : State).setReg (pgCol 0 + 0x048)
      (cause % 256 + 2 ^ 8 * (origin % 1024) + 2 ^ 31)
    (s1.neighbourLinks i).foldl (fun acc l => acc.sendControl l (abortBody a)) s1
  | _, _ => s

/-! ## The halt (R560) -/

/-- An accepted sector update is applied: the sector's entry first, then the update itself; on a failed channel it is
dropped; while the sector is pinned it waits with its engine (R560). -/
def State.applyNow (s : State) (u : Nat) (r : UReq) : State :=
  if s.flushHeld r.sector then s
  else
    let s1 := s.modUnit u fun k => { k with uq := k.uq.erase r }
    if s1.chanSt (64 * r.sector) = 3 then s1
    else (s1.flushSector u r.sector .other).applyVals u r.sector r.key r.vals [r.org]

/-- Every update that a receiver has accepted is applied, and every live entry flushed; entries of a failed channel or a
fenced stack are discarded (R560). -/
def State.applyAccepted (s : State) : State :=
  let s1 := (s.upk.filter fun p => p.st == 1).foldl (fun acc p =>
    p.ups.foldl (fun a r => (a.modUnit r.unit fun k => { k with uq := k.uq ++ [r] }).unitCount r.unit 0x110 0 1) acc) s
  let s2 : State := { s1 with upk := s1.upk.filter fun p => p.st != 1 }
  s2.units.foldl (fun acc p =>
    let u := p.1
    let live := fun sec => acc.chanSt (64 * sec) != 3 && !(acc.server (serverOf u)).fenced
    let a1 := acc.modUnit u fun k => { k with uct := k.uct.filter fun e => live e.sector, uq := k.uq.filter fun r => live r.sector }
    let a2 := (a1.unit u).uq.foldl (fun a r => a.applyNow u r) a1
    a2.flushWhere u (fun _ => true) .other) s2

/-- The work that a stack or PHY die has left is ended, what waits for a pinned sector apart (R560). -/
def State.haltServer (s : State) (x : Nat) : State :=
  let held := (unitsOf x).filterMap fun u => (nfind s.units u).map fun k => (u, k.uq)
  let s1 := if x < 16 then s.abortStack x false
    else
      let s0 := s.modServer x fun k => { k with bags := [], subs := [], todo := [] }
      (s0.modUnit (512 + (x - 16)) fun k => { k with rq := [], fly := [], chunks := [] })
  held.foldl (fun acc (u, l) => acc.modUnit u fun k => { k with uq := l }) s1

/-- Every stream at work completes `ABORTED`, or `POISONED` when it has met poison, and signals (R397, R560). -/
def State.haltStreams (s : State) : State :=
  s.sengs.foldl (fun acc p =>
    let a1 := p.2.work.foldl (fun a d => a.streamEnd p.1 d (if d.poison then 5 else 4) 0 true) acc
    a1.modSeng p.1 fun k => { k with work := [], fault := none }) s

/-- Every collective without a record completes `ABORTED` with the event's reason, one that has all its data too; one that has
met poison completes `POISONED`, one that a refusal, a fault or its deadline has ended so (R243, R528, R539, R543, R553,
R560). -/
def State.haltColls (s : State) (reason : Nat) : State :=
  let s1 := s.cols.foldl (fun acc p =>
    match p.2.cur with
    | some c =>
      let (st, r) := c.done.getD (0, 0)
      if st != 0 then acc.collEnd p.1 c st r true
      else if c.poisoned || s.disps.any (fun d => d.2.queue == p.1 && d.2.poisoned) then acc.collEnd p.1 c 5 0 true
      else acc.collEnd p.1 c 4 reason true
    | none => acc) s
  { s1 with disps := [] }

/-- A host command that the halt ends is one it does not execute (R561); `all` is true after a device-fatal event, when only
NOP is left (R564). -/
def State.haltHost (s : State) (all : Bool) : State :=
  let s1 := s.queues.foldl (fun acc p =>
    (p.2.cmds.filter fun c => c.done.isNone && !c.dup && (if all then dfld c.raw 0 1 != 0x0F else !runsInHalt (dfld c.raw 0 1))).foldl
      (fun a c => a.hostEnd p.1 c.cid hsAborted 0x80 0) acc) s
  { s1 with
    graphs := []
    pw := { s1.pw with tests := [], chunk := none, cals := [], snaps := if all then [] else s1.pw.snaps }
    tables := s1.tables.map fun v => { v with retire := [] }
    top :=
      match s1.top.forming with
      | some _ => { s1.top with forming := none, host := [] }
      | none => if all then { s1.top with host := [] } else s1.top }

/-- What the halt stops: host commands, stacks, updates, streams and collectives (R560). Moves under way complete later; none
starts while the device is halted. -/
def State.stopWork (s : State) (reason : Nat) (all : Bool) : State :=
  let s1 := (s.haltHost all).applyAccepted
  let s2 := (List.range 20).foldl (fun acc x => acc.haltServer x) s1
  let s3 := ({ s2 with epWaits := [] } : State).haltStreams
  s3.haltColls reason

/-- JOB_FATAL_HALT: the first of the events raised since takes the device into the halt (R551, R560). -/
def State.haltNow (s : State) : State :=
  match s.ras.fatals with
  | [] => s
  | e :: _ =>
    let s1 : State := { s with ras := { s.ras with fatals := [] } }
    let s2 :=
      if s1.ras.halted then s1
      else
        let rank := match s1.top.slice with | some i => i.rank | none => 0
        let s3 : State := { s1 with ras := { s1.ras with halted := true } }
        ((s3.stopWork e.reason false).sendAbort e.reason rank).abortDone
    (s2.raiseVec 1 258).raiseVec 0 0

/-- JOB_FATAL_HALT (R560). -/
def execJobFatalHalt (s : State) : Host.Outcome State Fault Refusal := .next s.haltNow

/-! ## BAR2 (R628, R637, R656) -/

/-- Device physical address of a BAR2 offset (R628). -/
def State.bar2Addr (s : State) (off : Nat) : Nat := s.reg64 (pgMmu + 0x060) % 2 ^ 48 + off

/-- A BAR2 access reaches HBM and the Rhizome tier where they are mapped (R455, R637). -/
def State.bar2Reach (s : State) (a n : Nat) : Bool := inMemory a n && s.reachableRange a n

/-- A BAR2 access at a device physical address: a read of poison is an event of R553 and its TLP is poisoned; a poisoned write
is written poisoned (R553, R637, R656). -/
def State.bar2Do (s : State) (a : Nat) (acc : Bar2Op) : State :=
  match acc with
  | .read n =>
    if !s.ready || !s.bar2Reach a n then s.emit (.unsupported ((a + 2 ^ 48 - s.bar2Addr 0) % 2 ^ 48))
    else
      let s0 := s.meet a n
      let bad := s0.isPoisoned a n
      let s1 := if bad then s0.poisonRead .hub 1 a else s0
      s1.emit (.bar2 (s0.bytes a n) bad)
  | .write d bad =>
    if !s.ready || !s.bar2Reach a d.length then s.emit (.aer 0x06)
    else
      let s1 := s.beforeWrite a d.length
      (s1.store a d bad).dirtyHot a

/-- A BAR2 access cannot be served now: its channel serves nothing, or it writes a sector whose entry is pinned (R127, R465,
R473). -/
def State.bar2Held (s : State) (a : Nat) (acc : Bar2Op) : Bool :=
  s.ready && (match acc with
    | .read n => s.bar2Reach a n && s.anyHeld a n
    | .write d _ => s.bar2Reach a d.length && s.writeHeld a d.length)

/-- Accesses that waited are served in the order held, as far as their channels serve (R473). -/
def State.bar2Drain (s : State) : State :=
  match s.bar2Wait with
  | [] => s
  | l =>
    let go := fun (acc : State) (w : Nat × Bar2Op) =>
      if !acc.bar2Wait.isEmpty || acc.bar2Held w.1 w.2 then { acc with bar2Wait := acc.bar2Wait ++ [w] } else acc.bar2Do w.1 w.2
    l.foldl go { s with bar2Wait := [] }

/-- What waits for its channel is tried again, oldest first; what must wait on waits on (R465, R473). -/
def State.heldDrain (s : State) : State :=
  s.chanWait.foldl (fun acc w => match w with
    | .maint h op r => acc.maintRun h op r
    | .l2off h => l2Disable acc h
    | .plan => planLoad acc
    | .det => detLoad acc) { s with chanWait := [] }

/-- A channel serves again: BAR2 accesses and what else waited go on (R473). -/
def State.chanDrain (s : State) : State := s.bar2Drain.heldDrain

/-- BAR2_ACCESS: served, or held behind those that wait for a channel (R473, R637). -/
def execBar2Access (off : BitVec 42) (acc : Bar2Op) (s : State) : Host.Outcome State Fault Refusal :=
  if !s.serves .mem then .next s else
  let a := s.bar2Addr off.toNat
  if !s.bar2Wait.isEmpty || s.bar2Held a acc then .next { s with bar2Wait := s.bar2Wait ++ [(a, acc)] }
  else .next (s.bar2Do a acc)

/-! ## The end of a training attempt (R472 to R474) -/

/-- RETRAIN_ATTEMPT_END: the channel returns, serves what waits for it, and its pinned entries are released; or it trains
again; after the third failure it has failed for good, and the halt ends the commands whose requests it held (R126, R472 to
R474, R560). -/
def execRetrainAttemptEnd (ch : ChanId) (ok : Bool) (us : Word) (s : State) : Host.Outcome State Fault Refusal :=
  let k := s.chan ch
  if k.st != 2 then .next s
  else if ok then
    let s1 := s.setChan ch { k with st := 0, attempts := 0, fromSlot := false }
    let s2 := if ch.val < 1024 then
        let pg := pcRegs ch
        ((s1.count32 (pg + 0x14) 1).setReg (pg + 0x18) us.toNat).setReg (pg + 0x1C) (max us.toNat (s1.reg (pg + 0x1C)))
      else s1
    .next ((s2.lightEvent { chanEvent ch 1 with dur := us.toNat }).flushDue (chanUnit ch)).chanDrain
  else if k.attempts < 3 then .next (s.setChan ch { k with attempts := k.attempts + 1 })
  else .next ((s.setChan ch { k with st := 3, fromSlot := false }).fatalEvent (chanEvent ch 3)).haltNow.chanDrain

/-- HALTCTL_HALT (R568). -/
def execHaltctlHalt (s : State) : Host.Outcome State Fault Refusal := .next (if s.serves .ras then s.fatal .ras 0 0x81 else s)

/-! ## Aborts of the slice (R543 to R546) -/

/-- An abort flit names the slice that is formed here. -/
def State.abortIsOurs (s : State) (a : AbortInfo) : Bool :=
  match s.top.slice with | some i => a.jobtag.toNat == i.tag | none => false

/-- ABORT_RECEIVE: an echo is noted; an abort is echoed, and the first one is a JOB_FATAL event with its cause: it is relayed
and the module halts (R544). -/
def execAbortReceive (l : LinkId) (ab : AbortInfo) (s : State) : Host.Outcome State Fault Refusal :=
  if !s.linkUp l || !s.abortIsOurs ab then .next s
  else if ab.echo then .next (s.modLink l fun k => { k with echoed := true }).abortDone
  else
    let s1 := s.sendControl l (abortBody { ab with echo := true })
    if s1.top.abortCause.isSome then .next s1
    else .next ((s1.sendAbort ab.cause.toNat ab.origin.toNat).fatal .col 0 ab.cause.toNat).haltNow

/-- ABORT_REPEAT: a neighbour that has not echoed is sent the abort again (R544). -/
def execAbortRepeat (l : LinkId) (s : State) : Host.Outcome State Fault Refusal :=
  match s.top.slice, s.top.abortCause, s.linkDir l with
  | some i, some cause, some d =>
    if s.linkUp l && (s.neighbourDirs i).contains d && !((s.dirLinks d).any fun m => (s.link m).echoed) then
      .next (s.sendControl l (abortBody
        { echo := false, jobtag := BitVec.ofNat 16 i.tag, origin := BitVec.ofNat 16 (s.rfld (pgCol 0 + 0x048) 8 10)
          cause := BitVec.ofNat 8 cause }))
    else .next s
  | _, _, _ => .next s

/-- JOB_ABORT: the abort starts with cause 0x87; the command completes once the slice dissolves (R546). -/
def jobAbort (q : Nat) (c : HCmd) (s : State) : State :=
  if s.top.slice.isNone then s.hostRefuse q c.cid 0x0D
  else
    let s1 := s.hostStart q c.cid
    let s2 : State := { s1 with top := { s1.top with host := s1.top.host ++ [(q, c.cid)] } }
    if s2.top.abortCause.isSome then s2.abortDone else s2.fatal .col 0 0x87

def execJobAbort (q : QueueId) (s : State) : Host.Outcome State Fault Refusal := .next (s.hostRun q 0x0E (jobAbort q))

/-- DISSOLVE: refused while a flow has unacknowledged packets or a collective is in progress (R515). -/
def execDissolve (s : State) : Host.Outcome State Fault Refusal :=
  if s.top.slice.isNone then .next s
  else if s.flowsBusy || s.cols.any (fun p => p.2.cur.isSome) then .next (s.refuse (pgTop + 0x074) 0x0D)
  else .next s.endSlice

/-! ## Device-fatal events (R563, R564) -/

/-- The cause of a device-fatal event: block type, and whether the device asks for a power cycle (R564): the PLL, the hub
and the root of trust do. -/
def dfAsks (btype : Nat) (pll : Bool) : Bool := pll || btype == Block.code .hub

/-- DEVICE_FATAL: the work stops, the abort goes out, DFATAL and DFINFO are set, ALERT_N is asserted, every host command but
NOP completes `ABORTED`, and an AER error is reported (R551, R564, R656). -/
def State.deviceFatal (s : State) (reason btype inst : Nat) (pll : Bool) : State :=
  let e : Event := { cls := 4, reason := reason, btype := btype, inst := inst }
  let s1 := s.recordEvent e
  let s2 := if s1.rbit (pgRas + 0x080) 31 then s1
    else s1.setReg (pgRas + 0x080) (reason % 256 + 2 ^ 8 * (btype % 256) + 2 ^ 16 * (inst % 256) + 2 ^ 31)
  let rank := match s2.top.slice with | some i => i.rank | none => 0
  let s3 := (s2.stopWork reason true).sendAbort reason rank
  let s4 : State :=
    { s3 with
      ras := { s3.ras with dfatal := true }
      boot := { s3.boot with fatalSince := true }
      pw := { s3.pw with rstReq := s3.pw.rstReq || dfAsks btype pll } }
  ((s4.alertOn.raiseVec 1 256).raiseVec 0 0).emit (.aer reason)

/-- DEVICE_FATAL: an event of R563 with its reason code; `detail` gives the block type in [7:0], the instance in [15:8]. -/
def execDeviceFatal (cause : Byte) (detail : Word) (s : State) : Host.Outcome State Fault Refusal :=
  .next (if s.pw.powered then s.deviceFatal cause.toNat (detail.toNat % 256) (detail.toNat / 256 % 256) false else s)

/-- HALT_TIMEOUT: a halt whose steps have not completed within 1 ms (R563). -/
def execHaltTimeout (s : State) : Host.Outcome State Fault Refusal :=
  if s.ras.fatals.isEmpty then .next s else .next (s.deviceFatal 0 Block.ras.code 0 false)

/-! ## Errors of the stack links, and injected errors (R552, R555, R556) -/

/-- STACK_LINK_FAILURE: the stack is fenced by R100 and the event is JOB_FATAL (R552). -/
def execStackLinkFailure (x : StackId) (s : State) : Host.Outcome State Fault Refusal :=
  if !s.ready || !bitOf s.boot.stackSet.toNat x || (s.server x).fenced then .next s
  else .next (((s.abortStack x true).fgBreakStack x).fatal .stk x 0)

/-- STACK_LINK_FLIT_RESEND: a bad flit is resent; a CORRECTED event and nothing else (R552, R556). -/
def execStackLinkFlitResend (x : StackId) (s : State) : Host.Outcome State Fault Refusal :=
  if !s.ready || !bitOf s.boot.stackSet.toNat x then .next s
  else
    let (d, s1) := s.takeDur 2
    .next (s1.lightEvent { cls := 0, reason := 0, btype := Block.stk.code, inst := x, dur := d })

/-- An injected L2 error befalls a resident line, which one is free; with no line there it counts as one of a clean line (R374,
R376, R555; log entry 143). -/
def State.injectL2 (s : State) (h : Nat) (ue : Bool) : State :=
  let (w, s0) := s.takeFree
  let l := (s0.home h).l2
  match l[w.toNat % l.length]? with
  | none => s0.l2Corrected h (w.toNat % 16) (w.toNat / 16 % 16)
  | some (key, e) =>
    if ue then (s0.modHome h fun k => { k with l2 := nset k.l2 key { e with upset := some true } }).l2MeetAlone h key
    else s0.l2Corrected h (key / 16384) (key % 16)

/-- An injected L1D error befalls a resident line, which one is free (R352, R555; log entry 143). -/
def State.injectL1 (s : State) (c : Nat) (ue : Bool) : State :=
  let (w, s0) := s.takeFree
  let l := (s0.core c).l1d
  match l[w.toNat % l.length]? with
  | none => s0.l1Corrected c 0
  | some (key, e) =>
    if !ue then s0.l1Corrected c e.line
    else
      let s1 := s0.modCore c fun k => { k with l1d := nset k.l1d key { e with upset := some true } }
      s1.l1MeetStore c key false

/-- An injected memory error befalls a sector of the unit, which one is free; a free sector that is none of the unit's names only
its channel (R466, R467, R555; log entry 143). -/
def State.injectDram (s : State) (u : Nat) (ue : Bool) : State :=
  let (w, s0) := s.takeFree
  let sec := w.toNat % 2 ^ 38
  let b : Block := if u < 512 then .sor else .rhz
  let inst := if u < 512 then u % 256 else u - 512
  let ch := if u < 512 then 2 * u + w.toNat % 2 else 1024 + 24 * (u - 512) + w.toNat % 24
  if s0.unitOf (64 * sec) = some u then
    if !ue then s0.dramCorrected sec
    else
      -- a clean hot sector recovers from its home copy (R554)
      let s1 := s0.dramUncorrectable sec
      if s1.poison.contains sec then s1.dramFatal sec else s1
  else if ue then (s0.countUE ch).fatal b inst 0x83 ch
  else (s0.countCE ch).lightEvent { cls := 0, reason := 0, btype := b.code, inst := inst, unit := ch }

/-- An injected link error: an FEC codeword corrected; or one that could not be, whose flit fails its CRC (R486, R490, R555). -/
def State.injectLink (s : State) (l : Nat) (ue : Bool) : State :=
  if !ue then s.fecCount l { bytes := [], corrected := 1 }
  else
    let s1 := s.fecCount l { bytes := [], uncorrectable := 1 }
    if s1.linkUp l then (s1.count32 (pgLnk l + 0x07C) 1).sendNak l true else s1

/-- An injected stack error: a flit of the stack link resent; or the link fails beyond its retry, which fences the stack (R552,
R555). -/
def State.injectStack (s : State) (x : Nat) (ue : Bool) : State :=
  if !ue then
    let (d, s1) := s.takeDur 2
    s1.lightEvent { cls := 0, reason := 0, btype := Block.stk.code, inst := x, dur := d }
  else if (s.server x).fenced then s
  else ((s.abortStack x true).fgBreakStack x).fatal .stk x 0

/-- One injected error: bit 0 a corrected error, bit 1 an uncorrectable one, bit 2 a refusal, a further bit its own; it is
detected, counted and recovered as a real one of the block is (R555, R563, R631). -/
def State.inject (s : State) (b : Block) (inst pg bit : Nat) : State :=
  let s1 := s.setErr pg bit
  if 2 ≤ bit then s1
  else
    let ue := bit == 1
    match b with
    | .l2c => s1.injectL2 inst ue
    | .cor => s1.injectL1 inst ue
    | .sor => s1.injectDram inst ue
    | .rhz => s1.injectDram (512 + inst) ue
    | .lnk => s1.injectLink inst ue
    | .stk => s1.injectStack inst ue
    | _ =>
      if !ue then s1.lightEvent { cls := 0, reason := 0, btype := b.code, inst := inst % 256 }
      else if b = .hub ∨ b = .cpd then s1.deviceFatal 0 b.code inst false
      else s1.fatal b inst 0x83

/-- A write of a page's ERRINJ (R555, R631). -/
def State.errinj (s : State) (off v : Nat) : State :=
  match pageOf (off / 0x1000) with
  | some (b, inst) =>
    if !s.serves b then s
    else (List.range 32).foldl (fun acc i => if bitOf v i then acc.inject b inst (off / 0x1000 * 0x1000) i else acc) s
  | none => s

/-- ERRINJ: a write from PF1 to a HUB or CPD page is ignored (R629). -/
def execErrinj (fn : Fn) (off : Bar0Off) (v : Word) (s : State) : Host.Outcome State Fault Refusal :=
  let p := off.toNat / 0x1000
  if fn == .pf1 && decide (p < 0x50) then .next s
  else if off.toNat % 0x1000 = 0x024 then .next (s.errinj off.toNat v.toNat)
  else .next s

end Sys2Proof.Machine
end

