-- ==== Sys2Proof/Machine/Power.lean ====
section
/-! DEFINITION. Machine/Power.lean: power, reset pins, reference clocks, the power manager and die temperatures (R16 to R23,
R571 to R580, R597, R657). -/

namespace Sys2Proof.Machine

open Sys2Proof

/-! ## Power and the fundamental reset (R16 to R20, R567, R580, R597, R657) -/

/-- What no reset of the device touches: the waiting commands, the free-value counter, the outside world's memory, what has
left the module, and the fuses (R567). -/
def State.blank (s : State) : State :=
  { State.reset with
    pending := s.pending, free := s.free, hostMem := s.hostMem, out := s.out
    boot := { State.reset.boot with fuses := s.boot.fuses } }

/-- The device is reset by `PERST_N` or DEVRST: everything but the fuses returns to its reset value, the memory contents are
not defined; power, the pins and the root PLL go on (R567, R597, R657). -/
def State.deviceReset (s : State) (perst : Bool) : State :=
  let p := s.pw
  ({ s.blank with
    pw := { State.reset.pw with
      pwrEn := p.pwrEn, powered := p.powered, pwrgd := p.pwrgd, perst := perst, rstReq := p.rstReq
      rackValid := p.rackValid, pcieValid := p.pcieValid, locked := p.locked, refPcie := p.refPcie, holdover := p.holdover } } : State).makeJunk 0 (2 ^ 48)

/-- Power leaves the rails: only the fuses remain (R18, R580). -/
def State.powerOff (s : State) : State :=
  let p := s.pw
  ({ s.blank with
    pw := { State.reset.pw with
      pwrEn := p.pwrEn, powered := false, pwrgd := false, perst := p.perst, rstReq := p.rstReq
      rackValid := p.rackValid, pcieValid := p.pcieValid, locked := false } } : State).makeJunk 0 (2 ^ 48)

/-- The UART, like the SMBus target, is served only while PWRGD is high (R22). -/
def State.uartServed (s : State) : Bool := s.pw.pwrgd

/-- PWR_EN_RISE: the regulators start; a held RST_REQ_N is released (R16, R20). -/
def execPwrEnRise (s : State) : Host.Outcome State Fault Refusal :=
  .next (if s.pw.pwrEn then s else { s with pw := { s.pw with pwrEn := true, powered := true, rstReq := false } })

/-- PWR_EN_FALL: the module powers off; a held RST_REQ_N stays low until PWR_EN rises again (R20, R580). -/
def execPwrEnFall (s : State) : Host.Outcome State Fault Refusal :=
  .next (if !s.pw.pwrEn then s
    else ({ s with pw := { s.pw with pwrEn := false } } : State).powerOff)

/-- PWRGD_RISE: every rail has come into regulation (R18). -/
def execPwrgdRise (s : State) : Host.Outcome State Fault Refusal :=
  .next (if s.pw.pwrEn && s.pw.powered && !s.pw.pwrgd then { s with pw := { s.pw with pwrgd := true } } else s)

/-- RAIL_LEAVES_REGULATION: PWRGD is deasserted, then power is removed from all rails (R18). -/
def execRailLeavesRegulation (s : State) : Host.Outcome State Fault Refusal :=
  .next (if s.pw.powered then s.powerOff else s)

/-- PERST_N_ASSERT: ignored while PWRGD is low; otherwise the device is reset (R19, R597). -/
def execPerstNAssert (s : State) : Host.Outcome State Fault Refusal :=
  .next (if s.pw.pwrgd then s.deviceReset true else { s with pw := { s.pw with perst := true } })

/-- PERST_N_DEASSERT: the boot starts in ROM (R19, R595). -/
def execPerstNDeassert (s : State) : Host.Outcome State Fault Refusal := .next { s with pw := { s.pw with perst := false } }

/-! ## References and the root PLL (R571, R573) -/

/-- ROOT_PLL_LOCK: after PWRGD, to REFCLK_RACK when it is valid, otherwise to REFCLK_PCIE (R571). -/
def execRootPllLock (s : State) : Host.Outcome State Fault Refusal :=
  .next (if !s.pw.pwrgd || s.pw.locked then s
    else if s.pw.rackValid then { s with pw := { s.pw with locked := true, refPcie := false, holdover := false } }
    else if s.pw.pcieValid then { s with pw := { s.pw with locked := true, refPcie := true, holdover := false } }
    else s)

/-- REFCLK_RACK_LOSS: the PLL moves to REFCLK_PCIE, or runs in holdover; every link is held down (R23, R573). -/
def execRefclkRackLoss (s : State) : Host.Outcome State Fault Refusal :=
  let s1 : State := { s with pw := { s.pw with rackValid := false, refPcie := s.pw.locked && s.pw.pcieValid, holdover := s.pw.locked && !s.pw.pcieValid } }
  .next ((List.range 16).foldl (fun acc l => if (acc.link l).st = 0 then acc else acc.linkDown l) s1)

/-- REFCLK_RACK_RETURN: the PLL returns to it and the links train again (R573). -/
def execRefclkRackReturn (s : State) : Host.Outcome State Fault Refusal :=
  let s1 : State := { s with pw := { s.pw with rackValid := true, refPcie := false, holdover := false } }
  .next ((List.range 16).foldl (fun acc l =>
    if acc.linkOn l && (acc.link l).st == 0 && !(acc.link l).held then acc.linkTrain l else acc) s1)

/-- REFCLK_PCIE_LOSS: a PLL that ran on it runs in holdover (R573). -/
def execRefclkPcieLoss (s : State) : Host.Outcome State Fault Refusal :=
  .next { s with pw := { s.pw with pcieValid := false, refPcie := false, holdover := s.pw.holdover || s.pw.refPcie } }

/-- REFCLK_PCIE_RETURN: a PLL in holdover locks to it (R571, R573). -/
def execRefclkPcieReturn (s : State) : Host.Outcome State Fault Refusal :=
  .next { s with pw := { s.pw with pcieValid := true, refPcie := s.pw.refPcie || s.pw.holdover, holdover := false } }

/-- PLL_LOCK_LOSS: loss of lock with REFCLK_RACK valid that does not relock within 1 ms (R563, R564). -/
def execPllLockLoss (s : State) : Host.Outcome State Fault Refusal :=
  if !s.pw.locked || !s.pw.rackValid then .next s
  else .next (({ s with pw := { s.pw with locked := false } } : State).deviceFatal 0 Block.cpd.code 0 true)

/-! ## Droop and voltage (R574, R575) -/

def State.clusterOn (s : State) (h : Nat) : Bool := s.ready && bitOf s.boot.clusters.toNat h

/-- SUPPLY_DROOP: the cluster's clock A is stretched from now on (R574). -/
def execSupplyDroop (h : HomeId) (s : State) : Host.Outcome State Fault Refusal :=
  .next (if s.clusterOn h && s.rbit (pgCpd + 0x048) 2 && (nfind s.pw.droop h).isNone then
    { s with pw := { s.pw with droop := nset s.pw.droop h s.now.toNat } } else s)

/-- SUPPLY_RECOVERY: the stretching ends; the cycles stretched, at most four in each nanosecond since the droop, are a free value
and are counted in TEL.STRETCH (R572, R574, R593; log entry 100). -/
def execSupplyRecovery (h : HomeId) (s : State) : Host.Outcome State Fault Refusal :=
  match nfind s.pw.droop h with
  | none => .next s
  | some t =>
    let (w, s1) := s.takeFree
    .next (({ s1 with pw := { s1.pw with droop := ndel s1.pw.droop h } } : State).count64 (pgTel + 0x058)
      (w.toNat % (4 * (s.now.toNat - t) + 1)))

/-- AVS_UPDATE: with `AVSEN` 1 each cluster's rail goes to the voltage given, within 650 to 900 mV; with 0 it stays at 900
mV, where a write of `PMCFG` has put it (R575). -/
def execAvsUpdate (rails : List Nat) (s : State) : Host.Outcome State Fault Refusal :=
  if rails.length ≠ 32 then .fault (.illFormed "AVS_UPDATE")
  else
    let avs := s.rbit (pgCpd + 0x048) 1
    .next { s with pw := { s.pw with rail := (List.range 32).foldl (fun m h =>
      if !s.clusterOn h then m else nset m h (if avs then max 650 (min 900 (rails.getD h 900)) else 900)) s.pw.rail } }

/-- After a write of `PMCFG`: with `AVSEN` 0 every rail is at 900 mV (R575). -/
def State.railsUp (s : State) : State :=
  if s.rbit (pgCpd + 0x048) 1 then s else { s with pw := { s.pw with rail := [] } }

/-! ## The power manager (R576 to R578) -/

/-- Clock-A ratio of a home (R572). -/
def State.kOf (s : State) (h : Nat) : Nat := nget s.pw.k h 32

/-- Highest k that the temperature level allows (R579). -/
def kLimit (level : Nat) : Nat := if level = 0 then 32 else if level = 1 then 24 else 16

def State.pwrCap (s : State) : Nat := s.rfld (pgCpd + 0x044) 0 12

/-- Enabled cores of a cluster whose clocks R427 does not gate; with lending off, its enabled cores (R577). -/
def State.workingCores (s : State) (h : Nat) (lend : Bool) : Nat :=
  ((List.range 64).filter fun i => s.enabled (pgCor (64 * h + i)) && !(lend && (s.core (64 * h + i)).gated)).length

/-- A cluster's k and the fraction of each period for which its issue is held: budget B in mW, its weight a of Σa, its power
in mW at k_now (R577). -/
def chooseK (b : Int) (a sum p know amin amax : Nat) : Nat × Option (Nat × Nat) :=
  let share : Int := b * (a : Int) * (know : Int)
  let cost := fun k : Nat => p * k * sum
  match ((List.range (amax + 1)).reverse.filter fun k => decide (amin ≤ k)).find? fun k => decide ((cost k : Int) ≤ share) with
  | some k => (k, none)
  | none => (amin, some (cost amin - share.toNat, cost amin))

/-- POWER_BUDGET_UPDATE: 10 µs of energy are counted, and each enabled cluster gets its k. A cluster whose k rises has its rail
raised first, to 900 mV, until its monitors report anew (R575, R576, R577, R593; log entry 167). -/
def execPowerBudgetUpdate (inputW : Nat) (clusterMw : List Nat) (s : State) : Host.Outcome State Fault Refusal :=
  if clusterMw.length ≠ 32 then .fault (.illFormed "POWER_BUDGET_UPDATE")
  else if !s.pw.powered then .next s
  else
    let s0 : State := { s with pw := { s.pw with
      inputW := inputW, energy := s.pw.energy + 10 * inputW
      inputs := inputW :: s.pw.inputs.take 99, frameIn := (s.pw.frameIn.1 + inputW, s.pw.frameIn.2 + 1) } }
    if !s.ready || !s.enabled pgCpd then .next s0
    else
      let cfg := s.reg (pgCpd + 0x048)
      let homes := (List.range 32).filter s.clusterOn
      let used : Nat := (homes.map fun h => clusterMw.getD h 0).foldl (· + ·) 0
      let b : Int := ((960 * s.pwrCap : Nat) : Int) - (((1000 * inputW : Nat) : Int) - ((used : Nat) : Int))
      let weight := fun h => s.workingCores h (bitOf cfg 0)
      let sum := (homes.map weight).foldl (· + ·) 0
      let set := homes.map fun h =>
        let amax := min (fld cfg 8 6) (kLimit (nget s.pw.level h 0))
        (h, amax, chooseK b (weight h) sum (clusterMw.getD h 0) (s.kOf h) (min (fld cfg 16 6) amax) amax)
      let capping := set.any fun (_, amax, k) => decide (k.1 < amax) || k.2.isSome
      let s1 : State := { s0 with pw := { s0.pw with
        k := set.foldl (fun m (h, _, k) => nset m h k.1) s.pw.k
        rail := set.foldl (fun m (h, _, k) => if s.kOf h < k.1 then ndel m h else m) s.pw.rail
        issueHold := set.filterMap fun (h, _, k) => k.2.map fun f => (h, f)
        capping := capping, fast := false } }
      .next (if capping then s1.count32 (pgTel + 0x060) 1 else s1)

/-- FAST_LIMIT: every cluster drops four steps at once (R578). -/
def execFastLimit (avgW : Nat) (s : State) : Host.Outcome State Fault Refusal :=
  if !s.ready || !s.enabled pgCpd || decide (avgW * 100 ≤ 110 * s.pwrCap) then .next s
  else
    let k := ((List.range 32).filter s.clusterOn).foldl (fun m h => nset m h (max 16 (s.kOf h - 4))) s.pw.k
    .next (({ s with pw := { s.pw with k := k, fast := true } } : State).count32 (pgTel + 0x064) 1)

/-! ## Die temperatures (R579) -/

/-- The level of a die: 0, or the number of the J level. -/
def dieLevel (cluster : Bool) (old temp : Nat) : Nat :=
  if cluster then tempLevel [100, 110, 120] old temp
  else match tempLevel [110, 120] (old - 1) temp with
    | 0 => 0
    | n => n + 1

/-- DIE_TEMPERATURE_LEVEL: the sensor's temperature and level; a cluster's k is limited; J3 is JOB_FATAL with reason 0x81
(R579). -/
def execDieTemperatureLevel (sensor : SensorId) (temp : Byte) (s : State) : Host.Outcome State Fault Refusal :=
  if !s.ready then .next s
  else
    let d := sensor.val
    let old := nget s.pw.level d 0
    let new := dieLevel (decide (d < 32)) old temp.toNat
    let k := if d < 32 ∧ s.clusterOn d = true then nset s.pw.k d (min (s.kOf d) (kLimit new)) else s.pw.k
    let s1 : State := { s with pw := { s.pw with temp := nset s.pw.temp d temp.toNat, level := nset s.pw.level d new, k := k } }
    let s2 := if old = new then s1 else s1.levelChange
    .next (if new = 3 ∧ old ≠ 3 then s2.fatal .cpd 0 0x81 d else s2)

end Sys2Proof.Machine
end

