-- ==== Sys2Proof/Machine/Maint.lean ====
section
/-! DEFINITION. Machine/Maint.lean: the maintenance frame and what its slots do; tests, calibrations and snapshots on request
(R470, R471, R495, R581 to R594, R622, R623). -/

namespace Sys2Proof.Machine

open Sys2Proof

/-! ## The registers of the clock and power die (R590) -/

/-- CLUSTh: k, junction temperature, ungated cores and level; it reads 0 until the boot enables the home. -/
def State.clustReg (s : State) (h : Nat) : Nat :=
  if !s.clusterOn h then 0
  else s.kOf h % 64 + 2 ^ 8 * (nget s.pw.temp h 0 % 256) + 2 ^ 16 * s.workingCores h true + 2 ^ 24 * nget s.pw.level h 0

/-- Four bytes of temperatures: of sensors from `d` on. -/
def State.tempReg (s : State) (d n : Nat) : Nat :=
  (List.range n).foldl (fun acc i => acc + 2 ^ (8 * i) * (nget s.pw.temp (d + i) 0 % 256)) 0

/-! ## Snapshots (R594) -/

/-- The 256 bytes of a snapshot. -/
def State.snapshot (s : State) : List Byte :=
  toBytes 8 s.now.toNat ++ toBytes 4 s.pw.frame ++ toBytes 4 (16 * s.pw.frameIn.1 / max s.pw.frameIn.2 1) ++ toBytes 8 (s.pw.energy / 1000)
    ++ toBytes 2 s.pwrCap ++ toBytes 6 0 ++ (List.range 32).flatMap (fun h => toBytes 4 (s.clustReg h))
    ++ (List.range 16).flatMap (fun x => toBytes 4 (s.reg (pgMem + 0x100 + 0x10 * x)))
    ++ toBytes 4 (s.tempReg 32 4) ++ toBytes 4 (s.tempReg 36 4) ++ toBytes 4 (s.tempReg 40 4) ++ toBytes 4 (s.tempReg 44 2)
    ++ toBytes 16 0

/-- Write a snapshot; SNAPSEQ counts it. -/
def State.writeSnapshot (s : State) (a : Nat) : State :=
  let s1 := if s.reachableRange a 256 then ((s.beforeWrite a 256).writePa a s.snapshot false).dropSectors a 256 else s
  s1.setReg (pgTel + 0x074) ((s1.reg (pgTel + 0x074) + 1) % 2 ^ 32)

/-- A requested snapshot is written and its command completes; an address that does not exist any more ends it FAULT. While its
channel serves nothing it waits for the next slot 6 (R473). -/
def State.serveSnap (s : State) (r : Nat × Nat × Nat) : State :=
  let (q, cid, a) := r
  if s.writeHeld a 256 then { s with pw := { s.pw with snaps := s.pw.snaps ++ [r] } }
  else if s.reachableRange a 256 then
    let s1 := s.writeSnapshot a
    s1.hostEnd q cid hsOk 0 (s1.reg (pgTel + 0x074))
  else s.hostEnd q cid hsFault 0x06 0

/-- TELEMETRY_SNAPSHOT: checked, then it waits for slot 6 (R594). -/
def telemetrySnapshot (q : Nat) (c : HCmd) (s : State) : State :=
  let a := dfld c.raw 16 8
  if a % 64 != 0 then s.hostRefuse q c.cid 0x05
  else if !s.reachableRange a 256 then s.hostRefuse q c.cid 0x06
  else
    let s1 := (s.hostStart q c.cid).count32 (pgTel + 0x06C) 1
    { s1 with pw := { s1.pw with snaps := s1.pw.snaps ++ [(q, c.cid, a)] } }

def execTelemetrySnapshot (q : QueueId) (s : State) : Host.Outcome State Fault Refusal :=
  .next (s.hostRun q 0x0B (telemetrySnapshot q))

/-- AUTO_SNAPSHOT: in slot 6, every PERIOD frames, to AUTOADDR; vector 262 (R594). -/
def execAutoSnapshot (s : State) : Host.Outcome State Fault Refusal :=
  if !s.ready || !s.rbit (pgTel + 0x040) 0 || s.pw.slot != 6 || decide (s.pw.autoCount < s.rfld (pgTel + 0x040) 8 8)
      || s.writeHeld (s.reg64 (pgTel + 0x048) % 2 ^ 48) 256 then .next s
  else
    let s1 := (s.writeSnapshot (s.reg64 (pgTel + 0x048) % 2 ^ 48)).raiseVec 1 262
    .next { s1 with pw := { s1.pw with autoCount := 0 } }

/-! ## Frames and rotations (R581, R582) -/

/-- The next resource of a rotation, from where it stands: the first that is in use. -/
def State.rotNext (s : State) (key n : Nat) (ok : Nat → Bool) : Option Nat :=
  let r := nget s.pw.rot key 0
  ((List.range n).find? fun i => ok ((r + i) % n)).map fun i => (r + i) % n

/-- The rotation stands behind a resource. -/
def State.rotPass (s : State) (key i : Nat) : State := { s with pw := { s.pw with rot := nset s.pw.rot key (i + 1) } }

/-- A calibration that ran in the slot now ending is complete (R587). -/
def State.calsDone (s : State) : State :=
  let s1 := (s.pw.cals.filter fun r => r.run == 1).foldl (fun acc r => acc.hostEnd r.queue r.cid hsOk 0 0) s
  { s1 with pw := { s1.pw with cals := s1.pw.cals.filter fun r => r.run != 1 } }

/-- The slot lets go of what it holds: a channel serves again, and entries whose flush fell due meanwhile are flushed; a half-slice
serves again; a link sends what waited; the moves under way are flipped (R126, R180, R181, R495, R582). -/
def State.letGo (s : State) : State :=
  let freed := (s.chans.filter fun p => p.2.st == 1).map fun p => chanUnit p.1
  let s1 : State := { s with
    chans := s.chans.map fun (p : Nat × Chan) => (p.1, if p.2.st = 1 then { p.2 with st := 0 } else p.2)
    pw := { s.pw with holding := false, scrub := none } }
  let s2 := ((freed.foldl State.flushDue s1).chanDrain).flipMoves fun _ => true
  ((List.range 16).filter fun l => (s2.link l).st == 5).foldl State.eqDone s2

/-! ## Slots 0 to 3: refresh, calibration, equalisation (R470, R471, R495) -/

/-- Hold a channel for the slot. -/
def State.holdChan (s : State) (ch : Nat) : State :=
  let s1 := s.setChan ch { s.chan ch with st := 1 }
  { s1 with pw := { s1.pw with holding := true } }

/-- A channel that the slot may hold. -/
def State.chanFree (s : State) (ch : Nat) : Bool := s.chanLive ch && (s.chan ch).st == 0

/-- REFRESH_MANAGEMENT_SWEEP: one pseudo-channel and one Rhizome channel are held (R470). -/
def State.slotRefresh (s : State) : State :=
  let go := fun (acc : State) (key base n : Nat) =>
    match acc.rotNext key n fun i => acc.chanFree (base + i) with
    | some i => (acc.rotPass key i).holdChan (base + i)
    | none => acc
  go (go s 0 0 1024) 1 1024 96

/-- A channel's number in a CALIBRATE of a kind. -/
def calChan (r : SlotReq) : Nat := if r.code = 1 then 1024 + r.unit else r.unit

/-- CALIBRATION_SLOT: a retrain that was asked for starts, unless one started from a slot runs in its stack or PHY die; else
the oldest request, or the next of the rotation, is calibrated; a margin below the trained minimum asks for a retrain (R471,
R559, R587). -/
def State.slotCal (s : State) (rhz : Bool) (obs : SlotObs) : State :=
  let key := if rhz then 3 else 2
  let base := if rhz then 1024 else 0
  let n := if rhz then 96 else 1024
  let kind := if rhz then 1 else 0
  let asked := s.chans.find? fun p =>
    decide (base ≤ p.1) && decide (p.1 < base + n) && p.2.asked && p.2.st == 0 && !s.slotRetrains (chanOwner p.1)
  match asked with
  | some (ch, _) =>
    let s1 := s.startRetrain ch true
    { s1 with pw := { s1.pw with holding := true } }
  | none =>
    let run := fun (acc : State) (ch : Nat) =>
      let a1 := acc.holdChan ch
      if obs.marginLow then a1.setChan ch { a1.chan ch with asked := true } else a1
    match s.pw.cals.find? fun r => r.code == kind && s.chanFree (calChan r) with
    | some r =>
      run { s with pw := { s.pw with cals := s.pw.cals.map fun x => if x = r then { x with run := 1 } else x } } (calChan r)
    | none =>
      match s.rotNext key n fun i => s.chanFree (base + i) with
      | some i => run (s.rotPass key i) (base + i)
      | none => s

/-- LINK_EQUALISATION_STEP: an `UP` link with `EQEN` 1, or one that a CALIBRATE names, pauses its data flits (R495). -/
def State.slotEq (s : State) : State :=
  let go := fun (acc : State) (l : Nat) =>
    let a1 := (acc.modLink l fun k => { k with st := 5 }).count32 (pgLnk l + 0x088) 1
    ({ a1 with pw := { a1.pw with holding := true } } : State)
  match s.pw.cals.find? fun r => r.code == 2 && (s.link r.unit).st == 4 with
  | some r => go { s with pw := { s.pw with cals := s.pw.cals.map fun x => if x = r then { x with run := 1 } else x } } r.unit
  | none =>
    match s.rotNext 4 16 fun l => (s.link l).st == 4 && s.rbit (pgLnk l + 0x040) 1 with
    | some l => go (s.rotPass 4 l) l
    | none => s

/-! ## Slots 4 and 5: self-test (R587, R588, R622, R623) -/

/-- A Sorus engine has no request queued or in flight. -/
def State.engineIdle (s : State) (e : Nat) : Bool :=
  let u := s.unit e
  u.rq.isEmpty && u.uq.isEmpty && u.fly.isEmpty

/-- Largest unit number plus one of a test's kind of unit. -/
def testUnits (code : Nat) : Nat :=
  if code ≤ 2 then 2048 else if code = 3 then 512 else if code = 4 then 1024 else if code = 5 then 32 else if code = 6 then 16
  else if code = 7 then 96 else 256

/-- A unit that the boot enabled. -/
def State.testUnitOn (s : State) (code u : Nat) : Bool :=
  match code with
  | 1 => s.clusterOn (u / 64)
  | 2 => s.clusterOn (u / 64)
  | 3 => bitOf s.boot.stackSet.toNat (u / 32) && s.outChan (u / 32) != some (u % 32)
  | 4 => s.chanLive u
  | 5 => s.clusterOn u
  | 6 => bitOf s.boot.links.toNat u
  | 7 => s.chanLive (1024 + u)
  | _ => s.clusterOn (u / 8)

/-- The unit is drained; the read scans need no drain (R588). -/
def State.drained (s : State) (code u : Nat) : Bool :=
  match code with
  | 1 => !s.enabled (pgCor u)
  | 2 => !s.enabled (pgCor u)
  | 3 => s.rbit (pgSor u + 0x040) 16 && s.engineIdle u
  | 5 => !s.enabled (pgL2c u)
  | 6 => (s.link u).st == 0 && (s.link u).held
  | 8 => s.rbit (pgSeng u) 1 && (s.seng u).idle
  | _ => true

/-- Chunks of a test; those of a Rhizome scan depend on the die's rate code (R453, R622). -/
def State.testChunks (s : State) (code u : Nat) : Nat :=
  match code with
  | 1 => 4
  | 2 => 8
  | 3 => 6
  | 4 => 2688
  | 5 => 64
  | 6 => 1250
  | 7 => (match s.boot.rates.getD (u / 24) 0 with | 0 => 67200 | 1 => 84000 | _ => 112000)
  | _ => 2

/-- A new defect takes an entry of the defect list, which holds 256; NEWDEF counts it (R605, R624). -/
def Boot.addDefect (b : Boot) (kind unit detail : Nat) : Boot :=
  { b with
    defects := if b.defects.length < 256 then b.defects ++ [BitVec.ofNat 32 (kind + 2 ^ 4 * unit + 2 ^ 16 * detail + 2 ^ 31)] else b.defects
    newDef := b.newDef + 1 }

/-- The defect that a failed test reports (R623; log entry 60). -/
def State.testDefect (s : State) (code u first : Nat) : Boot :=
  let b := s.boot
  match code with
  | 3 => b.addDefect 4 (u / 32) (u % 32)
  | 4 => b.addDefect 4 (u / 64) (u % 64 / 2)
  | 5 => b.addDefect 3 u 0
  | 6 => b.addDefect 6 u (first % 8)
  | 7 => b.addDefect 8 u u
  | 8 => b.addDefect 3 (u / 8) 0
  | _ => b.addDefect 1 (u / 64) (nget b.phys u 0)

/-- The 32-byte result of a test (R623). -/
def SlotReq.record (r : SlotReq) : List Byte :=
  toBytes 2 r.code ++ toBytes 2 r.unit ++ toBytes 1 (if r.fails = 0 then 0 else 1) ++ toBytes 3 0 ++ toBytes 4 r.fails
    ++ toBytes 4 r.run ++ toBytes 8 (match r.first with | some a => a | none => 2 ^ 64 - 1) ++ toBytes 8 0

/-- A test has run its last chunk: the result is written and the command completes with the failures found (R623, R648). -/
def State.testEnd (s : State) (r : SlotReq) : State :=
  let s1 : State := if r.fails = 0 then s else { s with boot := s.testDefect r.code r.unit (r.first.getD 0) }
  if s1.reachableRange r.result 32 then
    ((s1.writePa r.result r.record false).dropSectors r.result 32).hostEnd r.queue r.cid hsOk 0 r.fails
  else s1.hostEnd r.queue r.cid hsFault 0x06 0

/-- What a read scan's chunk finds, by sector number: what the slot observes, and the latent errors that stand in the channel
(log entry 135). Each finding is counted and treated by R467 (R622). -/
def State.scanFinds (s : State) (r : SlotReq) (obs : SlotObs) : List Nat × State :=
  let ch := if r.code = 7 then 1024 + r.unit else r.unit
  let mine := fun sec : Nat => inMemory (64 * sec) 64 && s.chanOf (64 * sec) == some ch
  let c := obs.scrubCorrected.filter mine
  let u := obs.scrubUncorrectable.filter mine
  let latent := (s.upsets.map (·.1)).filter fun sec => mine sec && !c.contains sec && !u.contains sec
  let go := fun (f : EccFinding) (acc : State) (sec : Nat) => (acc.checkRead sec f).2
  (c ++ u ++ latent, latent.foldl (go .clean) (u.foldl (go .uncorrectable) (c.foldl (go .corrected) s)))

/-- SELFTEST_CHUNK: one chunk of the oldest test, which holds its unit for the slot; one of a channel that retrains waits (R587). A
unit that is drained no longer aborts the test (R588). -/
def State.slotTest (s : State) (obs : SlotObs) : State :=
  match s.pw.tests with
  | [] => s
  | r :: rest =>
    if !s.drained r.code r.unit then
      ({ s with pw := { s.pw with tests := rest } } : State).hostEnd r.queue r.cid hsAborted 0 0
    else
      let scan := r.code == 4 || r.code == 7
      let ch := if r.code = 7 then 1024 + r.unit else r.unit
      if scan && (s.chan ch).st == 2 then s
      else
        let (found, s1) := if scan then s.scanFinds r obs else ([], s)
        let n := if scan then found.length else obs.testFails
        let at_ := if scan then found.map (64 * ·) |>.foldl (fun m a => min m a) (2 ^ 48) else obs.testFirst
        let r1 := { r with
          run := r.run + 1, fails := r.fails + n
          first := r.first.orElse fun _ => if n = 0 then none else some at_ }
        let s2 := if scan && (s1.chan ch).st == 0 then s1.holdChan ch else s1
        { s2 with pw := { s2.pw with chunk := some r1, holding := true } }

/-- The chunk that ran in the slot now ending is complete. After the last chunk the result is written and the command completes; while
the result's channel serves nothing that chunk runs again (R473, R587, R623). -/
def State.testDone (s : State) : State :=
  match s.pw.chunk with
  | none => s
  | some r =>
    let s0 : State := { s with pw := { s.pw with chunk := none } }
    let rest : State := { s0 with pw := { s0.pw with tests := s0.pw.tests.tail } }
    if r.run < r.total then { s0 with pw := { s0.pw with tests := r :: s0.pw.tests.tail } }
    else if s0.writeHeld r.result 32 then s0
    else rest.testEnd r

/-- A slot ends with what it did. -/
def State.slotEnds (s : State) : State := s.letGo.testDone.calsDone

/-- SELFTEST: checked, then it waits for its slots (R587, R588, R622). -/
def selftest (q : Nat) (c : HCmd) (s : State) : State :=
  let code := dfld c.raw 8 1
  let u := dfld c.raw 10 2
  let a := dfld c.raw 16 8
  if code = 0 ∨ 8 < code ∨ testUnits code ≤ u then s.hostRefuse q c.cid 0x01
  else if !s.testUnitOn code u then s.hostRefuse q c.cid 0x0A
  else if !(s.rbit (pgCpd + 0x054) 4 || s.rbit (pgCpd + 0x054) 5) then s.hostRefuse q c.cid 0x0C
  else if a % 32 != 0 then s.hostRefuse q c.cid 0x05
  else if !s.reachableRange a 32 then s.hostRefuse q c.cid 0x06
  else if !s.drained code u then s.hostRefuse q c.cid 0x0D
  else
    let s1 := (s.hostStart q c.cid).count32 (pgTel + 0x06C) 1
    { s1 with pw := { s1.pw with tests := s1.pw.tests ++
        [{ queue := q, cid := c.cid, code := code, unit := u, result := a, total := s.testChunks code u }] } }

def execSelftest (q : QueueId) (s : State) : Host.Outcome State Fault Refusal := .next (s.hostRun q 0x08 (selftest q))

/-- CALIBRATE: checked, then it waits for its slot at the head of the rotation (R587). -/
def calibrate (q : Nat) (c : HCmd) (s : State) : State :=
  let kind := dfld c.raw 8 1
  let u := dfld c.raw 10 2
  let n := if kind = 0 then 1024 else if kind = 1 then 96 else 16
  let on := if kind = 0 then s.chanLive u else if kind = 1 then s.chanLive (1024 + u) else bitOf s.boot.links.toNat u
  let failed := decide (kind < 2) && (s.chan (if kind = 1 then 1024 + u else u)).st == 3
  if 2 < kind ∨ n ≤ u then s.hostRefuse q c.cid 0x01
  else if !on || failed then s.hostRefuse q c.cid 0x0A
  else if !s.rbit (pgCpd + 0x054) (kind + 1) then s.hostRefuse q c.cid 0x0C
  else
    let s1 := (s.hostStart q c.cid).count32 (pgTel + 0x06C) 1
    { s1 with pw := { s1.pw with cals := s1.pw.cals ++
        [{ queue := q, cid := c.cid, code := kind, unit := u, result := 0, total := 1 }] } }

def execCalibrate (q : QueueId) (s : State) : Host.Outcome State Fault Refusal := .next (s.hostRun q 0x09 (calibrate q))

/-! ## Slots 9 and 10: cache scrub and audit (R583, R584) -/

/-- The scratch sector that stands in a way of a slice's set, if the way is carved (R360, R374). -/
def State.scratchSector (s : State) (h slice set way : Nat) : Option Nat :=
  let hm := s.home h
  ((List.range hm.carve).find? fun j => hm.carvedAt slice (16 - hm.carve + j) == way).map fun j =>
    scratchBase h / 64 + (j * 1024 + set) * 16 + slice

/-- The scrub finds an error in line `i` of half a slice, by number: set × 16 + way. A corrected one is counted and the line
rewritten; an uncorrectable one is treated by R376, and one that leaves data poisoned is JOB_FATAL (R376, R553, R583). -/
def State.scrubLine (s : State) (h slice half i : Nat) (bad : Bool) : State :=
  let set := half * 512 + i / 16 % 512
  let way := i % 16
  let key := l2Key slice set way
  if (s.home h).wayOff.contains (slice * 16 + way) then s
  else match s.scratchSector h slice set way with
    | some sec =>
      if s.poison.contains sec then s
      else if bad then ((s.poisonSector sec).l2CountUE h).fatal .l2c h 0x83 (way * 16 + slice) (some (64 * sec))
      else ({ s with upsets := ndel s.upsets sec } : State).l2Corrected h slice way
    | none =>
      let set_ := fun (u : Option Bool) (a : State) =>
        match nfind (a.home h).l2 key with
        | some e => a.modHome h fun k => { k with l2 := nset k.l2 key { e with upset := u } }
        | none => a
      if bad then (set_ (some true) s).l2MeetAlone h key else (set_ none s).l2Corrected h slice way

/-- The lines of half a slice in which latent errors stand (log entry 135). -/
def State.latentLines (s : State) (h slice half : Nat) (bad : Bool) : List Nat :=
  ((s.home h).l2.filterMap fun p => if p.1 / 8192 == slice * 2 + half && p.2.upset == some bad then some (p.1 % 8192) else none)
    ++ s.upsets.filterMap fun p =>
      let off := p.1 - scratchBase h / 64
      let set := off / 16 % 1024
      let j := off / 16384
      if p.2 == bad && decide (scratchBase h / 64 ≤ p.1) && decide (j < (s.home h).carve) && off % 16 == slice && set / 512 == half then
        some (set % 512 * 16 + (s.home h).carvedAt slice (16 - (s.home h).carve + j))
      else none

/-- CACHE_SCRUB of one half-slice, which it holds for the slot: what the slot observes, and the latent errors that stand there
(R582, R583). -/
def State.slotScrub (s : State) (obs : SlotObs) : State :=
  match s.rotNext 9 1024 fun i => s.clusterOn (i / 32) && s.enabled (pgL2c (i / 32)) with
  | none => s
  | some i =>
    let s0 := s.rotPass 9 i
    let s1 : State := { s0 with pw := { s0.pw with holding := true, scrub := some i } }
    let h := i / 32
    let slice := i / 2 % 16
    let lines := fun (seen : List Nat) (bad : Bool) =>
      let l := seen.filter (· < 8192)
      l ++ (s.latentLines h slice (i % 2) bad).filter fun n => !l.contains n
    let u := lines obs.scrubUncorrectable true
    let c := (lines obs.scrubCorrected false).filter fun n => !u.contains n
    let go := fun (bad : Bool) (acc : State) (n : Nat) => acc.scrubLine h slice (i % 2) n bad
    u.foldl (go true) (c.foldl (go false) s1)

/-- CONFIGURATION_AUDIT of one page (R584). -/
def State.slotAudit (s : State) (obs : SlotObs) : State :=
  match s.rotNext 10 8192 fun p => (pageOf p).isSome with
  | none => s
  | some p =>
    let s1 := s.rotPass 10 p
    if obs.auditBad then (s1.count32 (pgTel + 0x070) 1).fatal .cpd 0 0x80 else s1

/-! ## Frames (R581) -/

/-- A frame boundary: the frame is `f`, its next slot `n`; entries allocated before the previous boundary are flushed; the
enables, the queue samples and the shard loads of the frame are taken over (R124, R187, R220, R581, R586, R594). -/
def State.frameBoundary (s : State) (f n : Nat) : State :=
  let s1 := s.slotEnds
  let b := s1.pw.bounds + 1
  let s2 : State := { s1 with
    pw := { s1.pw with
      frame := f, bounds := b, resync := false, slot := n, next := n, slotEn := BitVec.ofNat 11 (s1.reg (pgCpd + 0x054))
      frameIn := (0, 0), autoCount := if s1.rbit (pgTel + 0x040) 0 then s1.pw.autoCount + 1 else s1.pw.autoCount }
    units := s1.units.map fun (p : Nat × SUnit) => (p.1, { p.2 with occPrev := p.2.occ, occ := 0 })
    tables := s1.tables.map fun v : Version =>
      { v with last := v.load.map fun e => (e.1, e.2.2), load := v.load.map fun e => (e.1, (e.2.1, 0)) } }
  s2.units.foldl (fun acc p => (acc.flushWhere p.1 (fun e => decide (e.frame + 2 ≤ b)) .frame)) s2

/-- The frame and the slot that the timestamp names (R581). -/
def State.frameOf (s : State) : Nat := s.now.toNat / 128000 % 2 ^ 32
def State.slotOf (s : State) : Nat := s.now.toNat % 128000 / 8000

/-- The timestamp names a later frame than the one that runs (R581). -/
def State.frameDue (s : State) : Bool :=
  let d := (s.frameOf + 2 ^ 32 - s.pw.frame) % 2 ^ 32
  decide (0 < d) && decide (d < 2 ^ 31)

/-- MAINTENANCE_FRAME_BOUNDARY: frame F begins once the timestamp reaches F × 128,000 ns; after a load of the timestamp the
sequencer resumes at the slot that it names instead (R581). -/
def execMaintenanceFrameBoundary (s : State) : Host.Outcome State Fault Refusal :=
  if !s.ready then .next s
  else if s.pw.resync then .next (s.frameBoundary s.frameOf s.slotOf)
  else if s.frameDue then .next (s.frameBoundary s.frameOf 0)
  else .next s

/-! ## SLOT_START and SLOT_END_CUT (R582, R585, R586) -/

/-- The activity of a slot. -/
def State.slotRun (s : State) (n : Nat) (obs : SlotObs) : State :=
  match n with
  | 0 => s.slotRefresh
  | 1 => s.slotCal false obs
  | 2 => s.slotCal true obs
  | 3 => s.slotEq
  | 4 => s.slotTest obs
  | 5 => s.slotTest obs
  | 6 =>
    let s1 := s.loadRecords
    s1.pw.snaps.foldl State.serveSnap { s1 with pw := { s1.pw with snaps := [] } }
  | 7 => if s.ras.halted || s.ras.dfatal then s else s.placementSlot
  | 8 => (List.range 16).foldl State.thresholdLoop s
  | 9 => s.slotScrub obs
  | 10 => s.slotAudit obs
  | _ => s

/-- SLOT_START: the slot that the timestamp names begins, once, in the frame that runs: what the slot before held is let go, and
the activity of this one starts when its enable was set at the frame boundary (R581, R582, R586). After a load of the timestamp the
slot before has run to its end: a frame boundary is counted first. The latent errors that have arisen since the slot before stand
from now on (R468; log entry 135). -/
def execSlotStart (obs : SlotObs) (s : State) : Host.Outcome State Fault Refusal :=
  let s0 := if s.ready && s.pw.resync then s.frameBoundary s.frameOf s.slotOf else s
  let n := s0.slotOf
  if !s.ready || s0.frameOf != s0.pw.frame || decide (n < s0.pw.next) then .next s
  else
    let s1 := (obs.upsets.foldl State.upsetArrives s0).slotEnds
    let s2 : State := { s1 with pw := { s1.pw with slot := n, next := n + 1 } }
    .next (if bitOf s2.pw.slotEn.toNat n then s2.slotRun n obs else s2)

/-- The rotations of what the slot holds now: each stands behind its resource. -/
def State.slotKeys (s : State) : List Nat :=
  let hbm := s.chans.any fun p => p.2.st == 1 && decide (p.1 < 1024)
  let rhz := s.chans.any fun p => p.2.st == 1 && decide (1024 ≤ p.1)
  match s.pw.slot with
  | 0 => (if hbm then [0] else []) ++ (if rhz then [1] else [])
  | 1 => if hbm then [2] else []
  | 2 => if rhz then [3] else []
  | 3 => if (List.range 16).any fun l => (s.link l).st == 5 then [4] else []
  | 9 => if s.pw.scrub.isSome then [9] else []
  | _ => []

/-- SLOT_END_CUT: each unfinished activity releases its resource, is counted and resumes in its next slot on the same resource; a
chunk of a test runs again. A retrain that a slot started is not cut (R585). -/
def execSlotEndCut (s : State) : Host.Outcome State Fault Refusal :=
  let cut := s.slotKeys.length + (if s.pw.chunk.isSome then 1 else 0)
  if !s.pw.holding || cut == 0 then .next s
  else
    let s1 := s.letGo.count32 (pgTel + 0x068) cut
    let byReq := s1.pw.cals.any fun r => r.run == 1
    .next { s1 with pw := { s1.pw with
      rot := if byReq then s1.pw.rot else s.slotKeys.foldl (fun m k => nset m k (nget m k 1 - 1)) s1.pw.rot
      chunk := none, cals := s1.pw.cals.map fun r => { r with run := 0 } } }

/-- SLOTEN_WRITE: bits 0 and 6 cannot be cleared; a write that clears one leaves it at 1 and is noted as refused; the enables
apply from the next frame (R586). -/
def execSlotenWrite (v : Word) (s : State) : Host.Outcome State Fault Refusal :=
  let s1 := s.setReg (pgCpd + 0x054) (v.toNat % 2 ^ 11 ||| 0x41)
  if !s.serves .cpd then .next s
  else .next (if v.toNat &&& 0x41 = 0x41 then s1 else s1.refuse (pgCpd + 0x054) 0x0C)

end Sys2Proof.Machine
end

