-- ==== Sys2Proof/Machine/Boot.lean ====
section
/-! DEFINITION. Machine/Boot.lean: the boot from ROM to READY, the firmware bundle, identity, attestation and debug unlock
(R595 to R625). -/

namespace Sys2Proof.Machine

open Sys2Proof

/-- The boot stops in FAIL with a reason (R595). -/
def State.bootFail (s : State) (reason : Nat) : State :=
  ({ s with boot := { s.boot with lastErr := reason } } : State).bootTo 7

/-! ## Fuses (R598) -/

/-- A field of the fuse image. -/
def fuseFld (f : List Byte) (off n : Nat) : Nat := ofBytes ((f.drop off).take n)
def fuseBytes (f : List Byte) (off n : Nat) : List Byte := (f.drop off).take n

/-- FCRC holds (R599). -/
def fuseOk (f : List Byte) : Bool := (crc32 (f.take 0x7FC)).toNat == fuseFld f 0x7FC 4

/-- The fused security version: the consecutive 1 bits of ARB from bit 0 (R598). -/
def fusedSvn (f : List Byte) : Nat :=
  let v := fuseFld f 0x070 8
  ((List.range 64).find? fun i => !bitOf v i).getD 64

def fuseDbgOff (f : List Byte) : Bool := bitOf (fuseFld f 0x078 1) 0

/-- The fuses mark a unit bad (R598). -/
def fusedBad (f : List Byte) : BootUnit → Bool
  | .physCore h p => bitOf (fuseFld f (0x100 + 12 * h.val) 12) p.val
  | .l2Way h sl w => bitOf (fuseFld f (0x280 + 32 * h.val + 2 * sl.val) 2) w.val
  | .sorusEngine e => bitOf (fuseFld f (0x0A4 + 4 * (e.val / 32)) 4) (e.val % 32)
  | .lane l n => bitOf (fuseFld f 0x094 16) (8 * l.val + n.val)
  | .linkDie d => bitOf (fuseFld f 0x086 2) d.val
  | .phyDie d => bitOf (fuseFld f 0x086 2) (8 + d.val)
  | .stackLogic x => bitOf (fuseFld f 0x084 2) x.val
  | .clusterLogic h => bitOf (fuseFld f 0x080 4) h.val
  | _ => false

/-! ## Reconciliation (R601 to R605) -/

/-- A unit that fails its test takes an entry of the defect list (R605, R624). -/
def Boot.noteDefect (b : Boot) : BootUnit → Boot
  | .physCore h p => b.addDefect 1 h.val p.val
  | .l2Way h sl w => b.addDefect 2 h.val (sl.val * 16 + w.val)
  | .clusterLogic h => b.addDefect 3 h.val 0
  | .sorusEngine e => b.addDefect 4 (e.val / 32) (e.val % 32)
  | .stackLogic x => b.addDefect 5 x.val 0
  | .lane l n => b.addDefect 6 l.val n.val
  | .linkDie d => b.addDefect 7 d.val 0
  | .phyDie d => b.addDefect 9 d.val 0
  | _ => b

/-- A mask of the numbers below n that satisfy a test. -/
def maskOf (n : Nat) (p : Nat → Bool) : Nat := (List.range n).foldl (fun m i => if p i then m + 2 ^ i else m) 0

/-- Numbers each once. -/
def onceEach (l : List BootUnit) : List BootUnit := l.foldl (fun acc u => if acc.contains u then acc else acc ++ [u]) []

/-- What the fuses and the tests make of the units (R601, R602). -/
structure Yield where
  clusters : Nat
  stackSet : Nat
  links : Nat
  links4 : Nat
  badLanes : List Nat
  hchOut : List Nat
  rhz : Nat
  dies : Nat
  phys : NMap Nat
  wayOff : NMap (List Nat)
  deriving DecidableEq, Repr

/-- Good physical cores of a home. -/
def goodCores (f : List Byte) (bad : List BootUnit) (h : Nat) : List Nat :=
  let fb := fuseFld f (0x100 + 12 * h) 12
  let tb := bad.filterMap fun u => match u with | .physCore h' p => if h'.val = h then some p.val else none | _ => none
  (List.range 68).filter fun p => !bitOf fb p && !tb.contains p

/-- Bad ways of a home, slice × 16 + way. -/
def badWays (f : List Byte) (bad : List BootUnit) (h : Nat) : List Nat :=
  let fb := fuseFld f (0x280 + 32 * h) 32
  let tb := bad.filterMap fun u => match u with | .l2Way h' sl w => if h'.val = h then some (sl.val * 16 + w.val) else none | _ => none
  (List.range 256).filter fun i => bitOf fb i || tb.contains i

/-- Bad HBM channels of a stack. -/
def badHch (f : List Byte) (bad : List BootUnit) (x : Nat) : List Nat :=
  let fb := fuseFld f (0x0A4 + 4 * x) 4
  let tb := bad.filterMap fun u => match u with | .sorusEngine e => if e.val / 32 = x then some (e.val % 32) else none | _ => none
  (List.range 32).filter fun e => bitOf fb e || tb.contains e

/-- The table of R601. -/
def reconcile (f : List Byte) (bad : List BootUnit) : Yield :=
  let cluOff := fuseFld f 0x080 4
  let logic := bad.filterMap fun u => match u with | .clusterLogic h => some h.val | _ => none
  let cluOk := fun h =>
    !bitOf cluOff h && !logic.contains h && decide (64 ≤ (goodCores f bad h).length)
      && (let w := badWays f bad h; (List.range 16).all fun sl => decide ((w.filter fun i => i / 16 == sl).length ≤ 8))
  let stkOff := fuseFld f 0x084 2
  let slogic := bad.filterMap fun u => match u with | .stackLogic x => some x.val | _ => none
  let stkOk := fun x => !bitOf stkOff x && !slogic.contains x && decide ((badHch f bad x).length ≤ 1)
  let dieFuse := fuseFld f 0x086 2
  let dieBad := maskOf 12 fun i => bitOf dieFuse i ||
    bad.any fun u => match u with | .linkDie d => d.val == i | .phyDie d => d.val + 8 == i | _ => false
  let laneFuse := fuseFld f 0x094 16
  let lanes := (List.range 128).filter fun n => bitOf laneFuse n ||
    bad.any fun u => match u with | .lane l k => 8 * l.val + k.val == n | _ => false
  let half := fun l h => lanes.any fun n => n / 4 == 2 * l + h
  let linkOk := fun l => !bitOf dieBad (l / 2) && !(half l 0 && half l 1)
  let rch := fuseFld f 0x088 12
  let homes := (List.range 32).filter cluOk
  { clusters := maskOf 32 cluOk
    stackSet := maskOf 16 stkOk
    links := maskOf 16 linkOk
    links4 := maskOf 16 fun l => linkOk l && (half l 0 || half l 1)
    badLanes := lanes
    hchOut := (List.range 16).flatMap fun x => (badHch f bad x).map (32 * x + ·)
    rhz := maskOf 96 fun c => !bitOf rch c && !bitOf dieBad (8 + c / 24)
    dies := dieBad
    phys := homes.flatMap fun h => ((goodCores f bad h).take 64).zip (List.range 64) |>.map fun (p, i) => (64 * h + i, p)
    wayOff := homes.filterMap fun h => let w := badWays f bad h; if w.isEmpty then none else some (h, w) }

/-- Disabled ways show in the WAYOFF registers of the cluster (R377, R601). -/
def State.bootWays (s : State) (h : Nat) (ws : List Nat) : State :=
  ws.foldl (fun acc i =>
    let off := pgL2c h + 0x060 + 4 * (i / 16 / 2)
    acc.setReg off (acc.reg off ||| 2 ^ (16 * (i / 16 % 2) + i % 16))) (s.modHome h fun k => { k with wayOff := ws })

/-- The fuse image that the hub reads: the first read, or the second where that fails its check (R599). -/
def fuseGood (r : FuseReads) : Option (List Byte) :=
  [r.first, r.second].find? fun f => f.length == 0x800 && fuseOk f

/-- BOOT_BIST, the state BIST: the fuse image is read and checked, the tests' failures are reconciled with it, and the hub waits for
firmware. The fuses of an earlier boot stand as they are, with the anti-rollback bits blown since (R595, R598 to R605; log entry
168). -/
def execBootBist (fuses : FuseReads) (fails : List BootUnit) (s : State) : Host.Outcome State Fault Refusal :=
  if fuses.first.length ≠ 0x800 then .fault (.illFormed "BOOT_BIST")
  else if s.boot.state ≠ 1 ∨ s.pw.perst = true ∨ s.pw.pwrgd = false then .next s
  else match fuseGood fuses with
    | none => .next (s.bootFail 0x89)
    | some img =>
      let f := if s.boot.fuses.isEmpty then img else s.boot.fuses
      let bad := (onceEach fails).filter fun u => !fusedBad f u
      let b := bad.foldl Boot.noteDefect { s.boot with fuses := f }
      if bad.any [BootUnit.hub, .cpd, .bridge].contains then .next (({ s with boot := b } : State).bootFail 0x8A)
      else
        let y := reconcile f bad
        let s1 : State := { s with boot := { b with
          clusters := BitVec.ofNat 32 y.clusters, stackSet := BitVec.ofNat 16 y.stackSet, links := BitVec.ofNat 16 y.links
          links4 := BitVec.ofNat 16 y.links4, badLanes := y.badLanes, hchOut := y.hchOut, rhzMapped := BitVec.ofNat 96 y.rhz
          diesOff := BitVec.ofNat 12 y.dies, phys := y.phys } }
        let s2 := (y.wayOff.foldl (fun acc (h, ws) => acc.bootWays h ws) s1).setReg64 (pgTop + 0x044) (ofBytes ((sha3 (f.take 16)).take 8))
        .next (if y.clusters = 0 ∨ y.stackSet = 0 then s2.bootFail 0x8A else s2.bootTo 2)

/-- The geometry class (R603). -/
def State.geoClass (s : State) : Nat :=
  let ones := fun n v => ((List.range n).filter (bitOf v)).length
  let b := s.boot
  ones 32 b.clusters.toNat + 2 ^ 6 * ones 16 b.stackSet.toNat + 2 ^ 11 * ones 96 b.rhzMapped.toNat
    + 2 ^ 18 * (ones 16 b.links.toNat - ones 16 b.links4.toNat)
    + 2 ^ 23 * ((b.hchOut.filter fun c => bitOf b.stackSet.toNat (c / 32)).length)

/-! ## The bundle (R606 to R611) -/

/-- FWADDR_HI_WRITE: the write that starts VERIFY; outside WAITFW it is refused (R606). -/
def fwaddrHi (v : Nat) (s : State) : State :=
  let off := pgHub 2 + 0x04C
  if s.boot.state ≠ 2 then s.refuse off 0x0D
  else
    let s1 := s.setReg off (v % 2 ^ 16)
    let a := s1.reg64 (pgHub 2 + 0x048) % 2 ^ 48
    if a % 4096 ≠ 0 ∨ placeOf a ≠ Place.host then ({ s1 with boot := { s1.boot with lastErr := 0x87 } } : State).raiseVec 0 1
    else ({ s1 with boot := { s1.boot with bundle := a } } : State).bootTo 3

def execFwaddrHiWrite (v : Word) (s : State) : Host.Outcome State Fault Refusal :=
  .next (if s.serves .hub then fwaddrHi v.toNat s else s)

/-- Header fields of R607. -/
def hdrOk (m : List Byte) : Bool :=
  manFld m 0 4 == 0x57464C4D && manFld m 4 2 == 1 && decide (1 ≤ manSections m) && decide (manSections m ≤ 4096)
    && decide (manFld m 8 1 ≤ 64) && decide (manFld m 9 1 < 2) && manFld m 10 2 == 0 && manFld m 48 16 == 0

/-- A section entry against R608, and the bundle's length. -/
def entryOk (m : List Byte) (j : Nat) : Bool :=
  let k := secKind m j
  decide (1 ≤ k) && decide (k ≤ 7) && manFld m (secAt j + 1) 1 == 0 && manFld m (secAt j + 6) 2 == 0 && manFld m (secAt j + 24) 8 == 0
    && decide (secFirst m j ≤ secLast m j) && secOffset m j % 4096 == 0 && decide (1 ≤ secLength m j)
    && decide (secLength m j ≤ 2 ^ 24) && secEntry m j % 4 == 0 && decide (secEntry m j < secLength m j)
    && decide (secOffset m j + secLength m j ≤ manFld m 16 8)

/-- The enabled units that fetch a section, as kind and id (R608, R609). -/
def State.fwUnits (s : State) : List (Nat × Nat) :=
  let b := s.boot
  ((List.range 2048).filter fun c => bitOf b.clusters.toNat (c / 64)).map (fun c => (1, c))
    ++ ((List.range 512).filter fun e => bitOf b.stackSet.toNat (e / 32) && !b.hchOut.contains e).map (fun e => (2, e))
    ++ [(3, 0), (3, 1)]
    ++ ((List.range 8).filter fun d => !bitOf b.diesOff.toNat d).map (fun d => (4, d))
    ++ ((List.range 4).filter fun d => !bitOf b.diesOff.toNat (8 + d)).map (fun d => (5, d))
    ++ [(6, 0), (7, 0)]

/-- The ranges of R609: none of a kind overlap, every enabled unit lies in one, one entry each of kinds 6 and 7. -/
def State.rangesCover (s : State) (m : List Byte) : Bool :=
  let js := List.range (manSections m)
  let one := fun k => (js.filter fun j => secKind m j == k).length == 1
  (js.all fun j => js.all fun i =>
      i == j || secKind m i != secKind m j || decide (secLast m i < secFirst m j) || decide (secLast m j < secFirst m i))
    && (s.fwUnits.all fun u => (sectionOf m u.1 u.2).isSome) && one 6 && one 7

/-- The digest of the signed bytes of a manifest copy (R607). -/
def manDigest (m : List Byte) : List Byte := sha3 m

/-- The checks of R610 in order: the reason of the first that fails. `m` is the header and entries. -/
def State.verifyCheck (s : State) (m key sig : List Byte) : Option Nat :=
  let f := s.boot.fuses
  if !hdrOk m || decide (2 ^ 28 < manFld m 16 8) || decide (manFld m 16 8 < m.length + 1312 + 2420)
      || !((List.range (manSections m)).all (entryOk m)) then some 0x80
  else if !s.rangesCover m then some 0x85
  else if manFld m 12 4 ≠ 0 ∧ manFld m 12 4 ≠ 0x4201 then some 0x86
  else if sha3 key ≠ fuseBytes f 0x030 32 then some 0x81
  else if !Config.mldsaVerify key (manDigest m) sig then some 0x82
  else if manFld m 8 1 < fusedSvn f then some 0x83
  else none

/-- VERIFY: the manifest is read once, the copy is checked, and the hub goes on to TRAIN or back to WAITFW (R610). -/
def execVerify (s : State) : Host.Outcome State Fault Refusal :=
  if s.boot.state ≠ 3 then .next s
  else
    let a := s.boot.bundle
    let n := s.readPaNat (a + 6) 2 % 4097
    let m := s.readPa a (64 + 64 * n)
    let key := s.readPa (a + 64 + 64 * n) 1312
    let sig := s.readPa (a + 64 + 64 * n + 1312) 2420
    let why := match s.verifyCheck m key sig with
      | some r => some r
      | none => if 0x80000000000 < a + manFld m 16 8 then some 0x87 else none
    match why with
    | some r => .next (({ s with boot := { s.boot with lastErr := r, bundle := 0 } } : State).bootTo 2)
    | none => .next (({ s with boot := { s.boot with manifest := m, pubkey := key } } : State).bootTo 4)

/-- ARBCTL_COMMIT: in READY, the ARB bits are blown up to the bundle's SVN (R611). -/
def execArbctlCommit (s : State) : Host.Outcome State Fault Refusal :=
  if !s.serves .hub then .next s else
  let svn := manFld s.boot.manifest 8 1
  let f := s.boot.fuses
  if s.ready && bitOf (manFld s.boot.manifest 9 1) 0 && decide (fusedSvn f < svn) && !s.boot.fatalSince then
    let arb := fuseFld f 0x070 8 ||| (2 ^ svn - 1)
    .next { s with boot := { s.boot with fuses := f.take 0x070 ++ toBytes 8 arb ++ f.drop 0x078 } }
  else .next (s.refuse (pgHub 2 + 0x064) 0x0D)

/-! ## TRAIN (R453, R475, R601, R615, R616) -/

/-- HBM channels that training fails, in ascending stack order: each is mapped out, and a second one of a stack disables it (R475,
R601, R616). -/
def Boot.trainHbm (b : Boot) (chs : List Nat) : Boot :=
  let new := (List.range 512).filter fun c => chs.contains c && bitOf b.stackSet.toNat (c / 32) && !b.hchOut.contains c
  let b1 := new.foldl (fun acc c => acc.addDefect 4 (c / 32) (c % 32)) { b with hchOut := b.hchOut ++ new }
  { b1 with stackSet := BitVec.ofNat 16 (maskOf 16 fun x =>
      bitOf b.stackSet.toNat x && decide ((b1.hchOut.filter fun c => c / 32 == x).length ≤ 1)) }

/-- Rhizome channels that training fails are unmapped (R475, R601). -/
def Boot.trainRhz (b : Boot) (chs : List Nat) : Boot :=
  let new := (List.range 96).filter fun c => chs.contains c && bitOf b.rhzMapped.toNat c
  new.foldl (fun acc c => acc.addDefect 8 c c)
    { b with rhzMapped := BitVec.ofNat 96 (maskOf 96 fun c => bitOf b.rhzMapped.toNat c && !new.contains c) }

/-- The repair list: entries repaired, and entries skipped because they are malformed or find no spare row (R615). -/
def State.repairList (s : State) (noSpare : List Nat) : Nat × Nat :=
  let n := s.rfld (pgHub 2 + 0x058) 0 10
  let a := s.reg64 (pgHub 2 + 0x050) % 2 ^ 48
  (List.range n).foldl (fun (ok, skip) i =>
    let e := s.readPaNat (a + 4 * i) 4
    if fld e 29 3 = 0 ∧ bitOf s.boot.stackSet.toNat (fld e 25 4) = true ∧ noSpare.contains i = false then (ok + 1, skip)
    else (ok, skip + 1)) (0, 0)

/-- TRAIN (R616). -/
def execTrain (res : TrainResult) (s : State) : Host.Outcome State Fault Refusal :=
  if res.rates.length ≠ 4 then .fault (.illFormed "TRAIN")
  else if s.boot.state ≠ 4 then .next s
  else
    let b := (s.boot.trainHbm (res.failedPch.map fun p => p.val / 2)).trainRhz (res.failedRhz.map (·.val))
    let (ok, skip) := s.repairList res.noSpare
    let s1 : State := { s with boot := { b with rates := res.rates.map (·.val), pprDone := ok, pprSkip := skip } }
    .next (if b.stackSet = 0 then s1.bootFail 0x8A else s1.bootTo 5)

/-! ## LOAD, SECTION_FETCH, READY (R595, R612, R613) -/

/-- The region of the image area: the highest mapped region of the highest enabled stack (R612). -/
def State.imgRegion (s : State) : Nat :=
  let x := ((List.range 16).reverse.find? fun x => bitOf s.boot.stackSet.toNat x).getD 0
  x * 64 + (if (s.outChan x).isSome then 61 else 63)

/-- The modes at boot: DIE, but STACK for the image area and for the mapped members of a group that holds an unmapped region
(R460, R475, R612). -/
def State.bootModes (s : State) : NMap Nat :=
  (List.range 1024).filterMap fun r =>
    if s.boot.imgBase / 2 ^ 30 = r ∧ s.boot.imgMib ≠ 0 then some (r, 2)
    else if s.regionLive r && ((groupOf 0 r).any fun q => !s.regionLive q) then some (r, 2) else none

/-- LOAD: the bundle is copied into the image area and each section's copy is checked (R612, R613). -/
def execLoad (s : State) : Host.Outcome State Fault Refusal :=
  if s.boot.state ≠ 5 ∨ s.boot.loaded = true then .next s
  else
    let m := s.boot.manifest
    let len := manFld m 16 8
    let mib := (len + 2 ^ 26 - 1) / 2 ^ 26 * 64
    let base := (s.imgRegion + 1) * 2 ^ 30 - mib * 2 ^ 20
    let s1 : State := { s with boot := { s.boot with imgBase := base, imgMib := mib, loaded := true } }
    let s2 := ({ s1 with modes := s1.bootModes } : State).store base (s1.readPa s1.boot.bundle len) false
    let good := (List.range (manSections m)).all fun j =>
      decide (sha3 (s2.readPa (base + secOffset m j) (secLength m j)) = secDigest m j)
    .next (if good then s2 else s2.bootFail 0x84)

/-- The link dies' part of a start: the links of the die begin to train (R616; log entry 108). -/
def State.dieStarts (s : State) (d : Nat) : State :=
  [2 * d, 2 * d + 1].foldl (fun acc l =>
    if bitOf acc.boot.links.toNat l && (acc.link l).st == 0 && !(acc.link l).held && acc.pw.rackValid && !acc.pw.holdover then
      acc.linkTrain l else acc) s

/-- SECTION_FETCH: a released unit reads its section into its own memories and checks its digest; a digest that fails twice, by two
bad reads or because the copy itself is bad, puts the hub into FAIL (R613). A core starts in machine mode at ENTRY with its work slots
empty; a link die starts to train its links (R616). -/
def execSectionFetch (u : FwUnit) (badReads : Fin 3) (s : State) : Host.Outcome State Fault Refusal :=
  let k := u.kind.val
  let id := u.id.toNat
  if s.boot.state ≠ 5 ∨ s.boot.loaded = false ∨ s.fwUnits.contains (k, id) = false ∨ s.fwLoaded k id = true then .next s
  else
    let m := s.boot.manifest
    let copy := (sectionOf m k id).map fun j => (s.readPa (s.boot.imgBase + secOffset m j) (secLength m j), secDigest m j)
    if badReads = 2 ∨ (copy.any fun c => decide (sha3 c.1 ≠ c.2)) = true then
      .next (({ s with boot := { s.boot with errUnit := BitVec.ofNat 32 (k + 2 ^ 16 * id + 2 ^ 31) } } : State).bootFail 0x84)
    else
      let s1 : State := { s with boot := { s.boot with
        fetched := s.boot.fetched ++ [(k, id)], fwMem := s.boot.fwMem ++ (copy.map fun c => ((k, id), c.1)).toList } }
      .next (if k = 1 then s1.modCore id fun c => { c with pc := BitVec.ofNat 64 (s1.fwEntry 1 id), machine := true }
        else if k = 4 then s1.dieStarts id else s1)

/-- The pages whose `EN` the hub sets at READY: those of every enabled unit but COR, L2C, QUE and MMU (R633). -/
def State.readyPages (s : State) : List Nat :=
  let b := s.boot
  let homes := (List.range 32).filter (bitOf b.clusters.toNat)
  ((List.range 64).filter fun p => p < 4 ∨ 7 < p).map pgHub ++ [pgCpd] ++ [pgThl 0, pgThl 1]
    ++ homes.flatMap (fun h => [pgClu h, pgSch h, pgSyn h])
    ++ ((List.range 16).filter (bitOf b.stackSet.toNat)).map pgStk
    ++ ((List.range 8).filter fun d => !bitOf b.diesOff.toNat d).map pgCol
    ++ ((List.range 16).filter (bitOf b.links.toNat)).map pgLnk
    ++ ((List.range 4).filter fun d => !bitOf b.diesOff.toNat (8 + d)).map pgRhz
    ++ [pgTel, pgRas, pgTbl, pgDsp, pgMem, pgTop]
    ++ ((List.range 512).filter fun e => bitOf b.stackSet.toNat (e / 32) && !b.hchOut.contains e).map pgSor

/-- READY: every section is loaded; `EN` is set in the pages of the enabled units, and the links that do not train yet start to
(R595, R596, R616, R633). -/
def execReady (ms : Half) (s : State) : Host.Outcome State Fault Refusal :=
  if s.boot.state ≠ 5 ∨ s.boot.loaded = false ∨ (s.fwUnits.all fun u => s.fwLoaded u.1 u.2) = false then .next s
  else
    let s1 := s.readyPages.foldl (fun acc pg => acc.setRfld (pg + 0x010) 0 1 1) s
    let s2 := ({ s1 with boot := { s1.boot with bootMs := ms.toNat, fatalSince := false } } : State).bootTo 6
    .next ((List.range 16).foldl (fun acc l =>
      if acc.linkOn l && (acc.link l).st == 0 && !(acc.link l).held then acc.linkTrain l else acc) s2)

/-! ## Identity, attestation and debug unlock (R617 to R621) -/

/-- DOE requests are served from WAITFW on and in FAIL (R618). -/
def State.doeOn (s : State) : Bool := s.pw.pwrgd && !s.pw.perst && decide (2 ≤ s.boot.state)

/-- A DOE response: type, status, body; PF0 vector 3 (R618, R655). -/
def State.respond (s : State) (ty status : Nat) (body : List Byte) : State :=
  ({ s with boot := { s.boot with doeResp := toBytes 1 ty ++ toBytes 1 status ++ toBytes 2 0 ++ toBytes 4 body.length ++ body } } : State).raiseVec 0 3

/-- The seed of the identity key: SHA3-256 of "MELFIAT-ID" and IDSEED (R617). -/
def State.idSeed (s : State) : List Byte :=
  sha3 ([0x4D, 0x45, 0x4C, 0x46, 0x49, 0x41, 0x54, 0x2D, 0x49, 0x44] ++ fuseBytes s.boot.fuses 0x010 32)

/-- GETKEY (R618). -/
def execGetkey (s : State) : Host.Outcome State Fault Refusal :=
  .next (if s.doeOn then s.respond 0x01 0 (Config.mldsaPublic s.idSeed).toList else s)

/-- DBGSTAT (R624). -/
def State.dbgStat (s : State) : Nat := s.boot.unlocked.toNat + (if fuseDbgOff s.boot.fuses then 4 else 0)

/-- The fuse image with IDSEED read as 0 (R619, R624). -/
def State.fusesRead (s : State) : List Byte :=
  s.boot.fuses.take 0x010 ++ List.replicate 32 (0 : Byte) ++ s.boot.fuses.drop 0x030

/-- The bytes of an attestation report that the signature covers (R619). -/
def State.report (s : State) (nonce : List Byte) : List Byte :=
  let m := s.boot.manifest
  let n := if s.boot.loaded then manSections m else 0
  toBytes 2 1 ++ toBytes 2 n ++ nonce ++ fuseBytes s.boot.fuses 0 16 ++ toBytes 1 (fusedSvn s.boot.fuses)
    ++ toBytes 1 (manFld m 8 1) ++ toBytes 1 s.boot.state ++ toBytes 1 s.dbgStat
    ++ (if s.boot.loaded then manDigest m else toBytes 32 0) ++ sha3 s.fusesRead ++ toBytes 4 s.geoClass
    ++ toBytes 4 (min s.boot.newDef 1023) ++ (List.range n).flatMap (secDigest m)

/-- ATTEST: the signed report over the verifier's nonce (R618, R619). -/
def execAttest (nonce : List Byte) (s : State) : Host.Outcome State Fault Refusal :=
  .next (if !s.doeOn then s
    else if nonce.length ≠ 32 then s.respond 0x02 0x01 []
    else let r := s.report nonce; s.respond 0x02 0 (r ++ (Config.mldsaSign s.idSeed r).toList))

/-- DBGCHAL: a fresh nonce, which cancels the previous one (R621). -/
def execDbgchal (s : State) : Host.Outcome State Fault Refusal :=
  .next (if !s.doeOn then s
    else
      let n := toBytes 32 (Config.randomBytes s.free).toNat
      ({ s with free := s.free + 1, boot := { s.boot with nonce := some n } } : State).respond 0x03 0
        (fuseBytes s.boot.fuses 0 16 ++ n))

/-- A token against R620 and R621. -/
def State.tokenOk (s : State) (t : List Byte) : Bool :=
  let f := s.boot.fuses
  t.length == 3796 && manFld t 0 4 == 0x42444C4D && fuseBytes t 4 16 == fuseBytes f 0 16
    && s.boot.nonce == some (fuseBytes t 20 32) && decide (manFld t 52 1 < 4) && manFld t 53 11 == 0
    && sha3 (fuseBytes t 64 1312) == fuseBytes f 0x050 32
    && Config.mldsaVerify (fuseBytes t 64 1312) (t.take 64) (t.drop 1376)

/-- DBGUNLOCK: a valid token sets the unlocked scope; the nonce serves once (R621). -/
def execDbgunlock (token : List Byte) (s : State) : Host.Outcome State Fault Refusal :=
  .next (if !s.doeOn then s
    else
      let s1 : State := { s with boot := { s.boot with nonce := none } }
      if fuseDbgOff s.boot.fuses then s1.respond 0x04 0x8C []
      else if s.tokenOk token then
        ({ s1 with boot := { s1.boot with unlocked := BitVec.ofNat 2 (manFld token 52 1) } } : State).respond 0x04 0 []
      else s1.respond 0x04 0x8B [])

end Sys2Proof.Machine
end

