-- ==== Sys2Proof/Machine/ControlProc.lean ====
section
/-! DEFINITION. Machine/ControlProc.lean: the control processor's standard instructions, RV64IMAC with Zicsr and
Zifencei, in machine mode and user mode (R246 to R251). A compressed instruction runs as the base instruction it
stands for. -/

namespace Sys2Proof.Machine

open Sys2Proof

/-! ## Compressed instructions -/

/-- Base encodings that the compressed ones expand to. -/
def encR (opc rd f3 rs1 rs2 f7 : Nat) : Nat := opc + at_ rd 7 + at_ f3 12 + at_ rs1 15 + at_ rs2 20 + at_ f7 25
def encI (opc rd f3 rs1 imm : Nat) : Nat := opc + at_ rd 7 + at_ f3 12 + at_ rs1 15 + at_ (imm % 4096) 20
def encS (f3 rs1 rs2 imm : Nat) : Nat :=
  0x23 + at_ (fld imm 0 5) 7 + at_ f3 12 + at_ rs1 15 + at_ rs2 20 + at_ (fld imm 5 7) 25
def encB (f3 rs1 rs2 imm : Nat) : Nat :=
  0x63 + at_ (fld imm 11 1) 7 + at_ (fld imm 1 4) 8 + at_ f3 12 + at_ rs1 15 + at_ rs2 20 + at_ (fld imm 5 6) 25
    + at_ (fld imm 12 1) 31
def encJ (rd imm : Nat) : Nat :=
  0x6F + at_ rd 7 + at_ (fld imm 12 8) 12 + at_ (fld imm 11 1) 20 + at_ (fld imm 1 10) 21 + at_ (fld imm 20 1) 31

/-- The 6-bit signed immediate of the CI format. -/
def cImm6 (h : Nat) : Int := sgn 6 (fld h 2 5 + at_ (fld h 12 1) 5)

/-- The offset of C.J. -/
def cImmJ (h : Nat) : Int :=
  sgn 12 (at_ (fld h 3 3) 1 + at_ (fld h 11 1) 4 + at_ (fld h 2 1) 5 + at_ (fld h 7 1) 6 + at_ (fld h 6 1) 7
    + at_ (fld h 9 2) 8 + at_ (fld h 8 1) 10 + at_ (fld h 12 1) 11)

/-- The offset of C.BEQZ and C.BNEZ. -/
def cImmB (h : Nat) : Int :=
  sgn 9 (at_ (fld h 3 2) 1 + at_ (fld h 10 2) 3 + at_ (fld h 2 1) 5 + at_ (fld h 5 2) 6 + at_ (fld h 12 1) 8)

/-- Quadrant 0 of RV64C. -/
def expandC0 (h : Nat) : Option Nat :=
  let rd := 8 + fld h 2 3
  let rs1 := 8 + fld h 7 3
  let w := at_ (fld h 6 1) 2 + at_ (fld h 10 3) 3 + at_ (fld h 5 1) 6
  let d := at_ (fld h 10 3) 3 + at_ (fld h 5 2) 6
  match fld h 13 3 with
  | 0 =>
    let imm := at_ (fld h 6 1) 2 + at_ (fld h 5 1) 3 + at_ (fld h 11 2) 4 + at_ (fld h 7 4) 6
    if imm = 0 then none else some (encI 0x13 rd 0 2 imm)
  | 2 => some (encI 0x03 rd 2 rs1 w)
  | 3 => some (encI 0x03 rd 3 rs1 d)
  | 6 => some (encS 2 rs1 rd w)
  | 7 => some (encS 3 rs1 rd d)
  | _ => none

/-- Quadrant 1 of RV64C. -/
def expandC1 (h : Nat) : Option Nat :=
  let rd := fld h 7 5
  let rp := 8 + fld h 7 3
  let r2 := 8 + fld h 2 3
  let i := unsgn 12 (cImm6 h)
  let sh := fld h 2 5 + at_ (fld h 12 1) 5
  match fld h 13 3 with
  | 0 => some (encI 0x13 rd 0 rd i)
  | 1 => if rd = 0 then none else some (encI 0x1B rd 0 rd i)
  | 2 => some (encI 0x13 rd 0 0 i)
  | 3 =>
    if rd = 2 then
      let n := sgn 10 (at_ (fld h 6 1) 4 + at_ (fld h 2 1) 5 + at_ (fld h 5 1) 6 + at_ (fld h 3 2) 7 + at_ (fld h 12 1) 9)
      if n = 0 then none else some (encI 0x13 2 0 2 (unsgn 12 n))
    else if cImm6 h = 0 then none
    else some (0x37 + at_ rd 7 + at_ (unsgn 20 (cImm6 h)) 12)
  | 4 =>
    match fld h 10 2 with
    | 0 => some (encI 0x13 rp 5 rp sh)
    | 1 => some (encI 0x13 rp 5 rp (sh + 0x400))
    | 2 => some (encI 0x13 rp 7 rp i)
    | _ =>
      match fld h 12 1, fld h 5 2 with
      | 0, 0 => some (encR 0x33 rp 0 rp r2 0x20)
      | 0, 1 => some (encR 0x33 rp 4 rp r2 0)
      | 0, 2 => some (encR 0x33 rp 6 rp r2 0)
      | 0, 3 => some (encR 0x33 rp 7 rp r2 0)
      | 1, 0 => some (encR 0x3B rp 0 rp r2 0x20)
      | 1, 1 => some (encR 0x3B rp 0 rp r2 0)
      | _, _ => none
  | 5 => some (encJ 0 (unsgn 21 (cImmJ h)))
  | 6 => some (encB 0 rp 0 (unsgn 13 (cImmB h)))
  | _ => some (encB 1 rp 0 (unsgn 13 (cImmB h)))

/-- Quadrant 2 of RV64C. -/
def expandC2 (h : Nat) : Option Nat :=
  let rd := fld h 7 5
  let r2 := fld h 2 5
  match fld h 13 3 with
  | 0 => some (encI 0x13 rd 1 rd (fld h 2 5 + at_ (fld h 12 1) 5))
  | 2 => if rd = 0 then none else some (encI 0x03 rd 2 2 (at_ (fld h 4 3) 2 + at_ (fld h 12 1) 5 + at_ (fld h 2 2) 6))
  | 3 => if rd = 0 then none else some (encI 0x03 rd 3 2 (at_ (fld h 5 2) 3 + at_ (fld h 12 1) 5 + at_ (fld h 2 3) 6))
  | 4 =>
    if fld h 12 1 = 0 then
      if r2 = 0 then (if rd = 0 then none else some (encI 0x67 0 0 rd 0)) else some (encR 0x33 rd 0 0 r2 0)
    else if r2 = 0 then (if rd = 0 then some 0x00100073 else some (encI 0x67 1 0 rd 0))
    else some (encR 0x33 rd 0 rd r2 0)
  | 6 => some (encS 2 2 r2 (at_ (fld h 9 4) 2 + at_ (fld h 7 2) 6))
  | 7 => some (encS 3 2 r2 (at_ (fld h 10 3) 3 + at_ (fld h 7 3) 6))
  | _ => none

/-- The base instruction that a 16-bit encoding stands for; none where it is reserved or of an extension the control
processor lacks (R246). -/
def expandC (h : Nat) : Option Nat :=
  match h % 4 with
  | 0 => expandC0 h
  | 1 => expandC1 h
  | 2 => expandC2 h
  | _ => none

/-! ## Arithmetic of RV64IM -/

/-- The low 32 bits, sign-extended. -/
def sext32 (v : Nat) : Nat := unsgn 64 (sgn 32 v)

/-- Division and remainder of two signed numbers of w bits, with the corners of the M extension. -/
def rvDiv (w a b : Nat) : Nat := if b % 2 ^ w = 0 then 2 ^ w - 1 else unsgn w (Int.tdiv (sgn w a) (sgn w b))
def rvRem (w a b : Nat) : Nat := if b % 2 ^ w = 0 then a % 2 ^ w else unsgn w (Int.tmod (sgn w a) (sgn w b))
def rvDivu (w a b : Nat) : Nat := if b % 2 ^ w = 0 then 2 ^ w - 1 else a % 2 ^ w / (b % 2 ^ w)
def rvRemu (w a b : Nat) : Nat := if b % 2 ^ w = 0 then a % 2 ^ w else a % 2 ^ w % (b % 2 ^ w)

/-- Arithmetic right shift of a number of w bits. -/
def sraN (w v n : Nat) : Nat := unsgn w (sgn w v / (2 ^ n : Nat))

/-- OP, OP-IMM: a function of two registers or a register and an immediate, 64 bits. -/
def aluOp (f3 f7 a b : Nat) : Option Nat :=
  match f7, f3 with
  | 0x00, 0 => some ((a + b) % 2 ^ 64)
  | 0x20, 0 => some ((a + 2 ^ 64 - b) % 2 ^ 64)
  | 0x00, 1 => some (a * 2 ^ (b % 64) % 2 ^ 64)
  | 0x00, 2 => some (if sgn 64 a < sgn 64 b then 1 else 0)
  | 0x00, 3 => some (if a < b then 1 else 0)
  | 0x00, 4 => some (a ^^^ b)
  | 0x00, 5 => some (a >>> (b % 64))
  | 0x20, 5 => some (sraN 64 a (b % 64))
  | 0x00, 6 => some (a ||| b)
  | 0x00, 7 => some (a &&& b)
  | 0x01, 0 => some (a * b % 2 ^ 64)
  | 0x01, 1 => some (unsgn 64 (sgn 64 a * sgn 64 b / (2 ^ 64 : Nat)))
  | 0x01, 2 => some (unsgn 64 (sgn 64 a * (b : Int) / (2 ^ 64 : Nat)))
  | 0x01, 3 => some (a * b / 2 ^ 64)
  | 0x01, 4 => some (rvDiv 64 a b)
  | 0x01, 5 => some (rvDivu 64 a b)
  | 0x01, 6 => some (rvRem 64 a b)
  | 0x01, 7 => some (rvRemu 64 a b)
  | _, _ => none

/-- OP-32, OP-IMM-32: the same on 32 bits, the result sign-extended. -/
def aluOpW (f3 f7 a b : Nat) : Option Nat :=
  match f7, f3 with
  | 0x00, 0 => some (sext32 (a + b))
  | 0x20, 0 => some (sext32 (a + 2 ^ 64 - b))
  | 0x00, 1 => some (sext32 (a * 2 ^ (b % 32)))
  | 0x00, 5 => some (sext32 (a % 2 ^ 32 / 2 ^ (b % 32)))
  | 0x20, 5 => some (sext32 (sraN 32 a (b % 32)))
  | 0x01, 0 => some (sext32 (a * b))
  | 0x01, 4 => some (sext32 (rvDiv 32 a b))
  | 0x01, 5 => some (sext32 (rvDivu 32 a b))
  | 0x01, 6 => some (sext32 (rvRem 32 a b))
  | 0x01, 7 => some (sext32 (rvRemu 32 a b))
  | _, _ => none

/-- The function code of OP-IMM: shifts carry it above their shift amount, the other functions have none. -/
def immFn (w f3 i : Nat) : Nat × Nat :=
  if f3 = 1 ∨ f3 = 5 then
    if w = 64 then (2 * fld i 6 6, fld i 0 6) else (fld i 5 7, fld i 0 5)
  else (0, unsgn 64 (sgn 12 i))

/-- Whether a branch is taken; none for a reserved function. -/
def branchTaken (f3 a b : Nat) : Option Bool :=
  match f3 with
  | 0 => some (a == b)
  | 1 => some (a != b)
  | 4 => some (decide (sgn 64 a < sgn 64 b))
  | 5 => some (!decide (sgn 64 a < sgn 64 b))
  | 6 => some (decide (a < b))
  | 7 => some (!decide (a < b))
  | _ => none

/-- The value an AMO writes, from the old value and the register, both of w bits. -/
def amoFn (f5 w old v : Nat) : Option Nat :=
  match f5 with
  | 0x01 => some v
  | 0x00 => some ((old + v) % 2 ^ w)
  | 0x04 => some (old ^^^ v)
  | 0x0C => some (old &&& v)
  | 0x08 => some (old ||| v)
  | 0x10 => some (if sgn w v < sgn w old then v else old)
  | 0x14 => some (if sgn w old < sgn w v then v else old)
  | 0x18 => some (min old v)
  | 0x1C => some (max old v)
  | _ => none

/-! ## CSRs (R251, R319, R412) -/

/-- mstatus as it reads: UXL is 2 (log entry 8). -/
def mstatusRead (m : DWord) : Nat := m.toNat + at_ 2 32

/-- mstatus after a write: MIE, MPIE, MPP, MPRV and TW are writable; MPP keeps its value when a mode that the control
processor lacks is written (log entry 8). -/
def mstatusWrite (old : DWord) (v : Nat) : DWord :=
  let mpp := if fld v 11 2 = 0 ∨ fld v 11 2 = 3 then fld v 11 2 else msMPP old
  BitVec.ofNat 64 (at_ (fld v 3 1) 3 + at_ (fld v 7 1) 7 + at_ mpp 11 + at_ (fld v 17 1) 17 + at_ (fld v 21 1) 21)

/-- misa: RV64 with A, C, I, M and user mode. -/
def misaValue : Nat := at_ 2 62 + at_ 1 0 + at_ 1 2 + at_ 1 8 + at_ 1 12 + at_ 1 20

/-- The value of a CSR, none where no CSR stands at the number; a read of cycles gives a free value (log entry 22). -/
def State.csrRead (s : State) (c n : Nat) : Option (Nat × State) :=
  let k := s.core c
  let q (v : Nat) : Option (Nat × State) := some (v, s)
  match n with
  | 0x300 => q (mstatusRead k.mstatus)
  | 0x301 => q misaValue
  | 0x304 => q k.mie.toNat
  | 0x305 => q k.mtvec.toNat
  | 0x306 => q k.mcounteren.toNat
  | 0x30A => q 0
  | 0x320 => q k.mcountinhibit.toNat
  | 0x340 => q k.mscratch.toNat
  | 0x341 => q k.mepc.toNat
  | 0x342 => q k.mcause.toNat
  | 0x343 => q k.mtval.toNat
  | 0x344 => q k.mip.toNat
  | 0x800 => q k.mxfmt.toNat
  | 0x801 => let s1 := s.drain c; some ((s1.core c).mxflags.toNat, s1)
  | 0x802 => q (s.reg (pgCor c + 0x04C))
  | 0x803 => q k.vcfg.toNat
  | 0x804 => q k.vflags.toNat
  | 0x805 => q (s.reg (pgCor c + 0x308))
  | 0x806 => q k.syncst.toNat
  | 0x807 => q k.taskid.toNat
  | 0xCC0 => q (if k.prefetched.isSome then 1 else 0)
  | 0xB00 => let (v, s1) := s.takeFree; some (v.toNat, s1)
  | 0xC00 => let (v, s1) := s.takeFree; some (v.toNat, s1)
  | 0xC01 => q s.now.toNat
  | 0xB02 => q k.minstret.toNat
  | 0xC02 => q k.minstret.toNat
  | 0xF11 => q 0
  | 0xF12 => q 0
  | 0xF13 => q 0
  | 0xF14 => q c
  | 0xF15 => q 0
  | _ => if (0x323 ≤ n ∧ n ≤ 0x33F) ∨ (0xB03 ≤ n ∧ n ≤ 0xB1F) ∨ (0xC03 ≤ n ∧ n ≤ 0xC1F) then q 0 else none

/-- Write a CSR: reserved bits and read-only fields are ignored (R251). The seeds store 1 for 0. A write of minstret stands in place
of the instruction's own count: it stores one less than the value, which retiring then counts up to it (R246). -/
def State.csrWrite (s : State) (c n v : Nat) : State :=
  let b (w : Nat) : BitVec w := BitVec.ofNat w v
  match n with
  | 0x300 => s.modCore c fun k => { k with mstatus := mstatusWrite k.mstatus v }
  | 0x304 => s.modCore c fun k => { k with mie := b 64 &&& 0x888#64 }
  | 0x305 => s.modCore c fun k => { k with mtvec := if v % 4 ≤ 1 then b 64 else k.mtvec }
  | 0x306 => s.modCore c fun k => { k with mcounteren := b 64 &&& 7#64 }
  | 0x320 => s.modCore c fun k => { k with mcountinhibit := b 64 &&& 5#64 }
  | 0x340 => s.modCore c fun k => { k with mscratch := b 64 }
  | 0x341 => s.modCore c fun k => { k with mepc := b 64 &&& ~~~1#64 }
  | 0x342 => s.modCore c fun k => { k with mcause := b 64 }
  | 0x343 => s.modCore c fun k => { k with mtval := b 64 }
  | 0x800 => s.modCore c fun k => { k with mxfmt := b 10 }
  | 0x801 => (s.drain c).modCore c fun k => { k with mxflags := b 5 &&& 0b10111#5 }
  | 0x802 => let s1 := s.drain c; s1.setReg (pgCor c + 0x04C) (if v % 2 ^ 32 = 0 then 1 else v % 2 ^ 32)
  | 0x804 => s.modCore c fun k => { k with vflags := b 6 }
  | 0x805 => s.setReg (pgCor c + 0x308) (if v % 2 ^ 32 = 0 then 1 else v % 2 ^ 32)
  | 0x807 => s.modCore c fun k => { k with taskid := b 12 }
  | 0xB02 => s.modCore c fun k => { k with minstret := if k.mcountinhibit.getLsbD 2 then b 64 else b 64 - 1 }
  | _ => s

/-- The CSR may be accessed in the present mode: machine CSRs in machine mode alone; `taskid` from user mode is read-only;
the counters are gated by mcounteren; read-only CSRs refuse a write (log entry 8). -/
def Core.csrAllowed (k : Core) (n : Nat) (write : Bool) : Bool :=
  let ro := decide (0xC00 ≤ n) || n == 0x803 || n == 0x806 || (n == 0x807 && !k.machine)
  let high := fld n 8 2 == 3
  let gated := decide (0xC00 ≤ n ∧ n ≤ 0xC1F) && !k.mcounteren.getLsbD (n - 0xC00)
  (k.machine || (!high && !gated)) && !(write && ro)

/-! ## Execution -/

/-- The illegal-instruction exception: mtval holds the instruction's bits (log entry 8). -/
def rvIllegal (w : Nat) (s : State) : IRes := .trap exIllegal w s

/-- A result in rd. -/
def wrote (s : State) (c : Nat) (rd : XReg) (v : Nat) : IRes := .done (s.setXn c rd v)

/-- LR, SC and the AMOs (R249): performed in the cluster's L2, an address in bead and counter space refused as R249
says. -/
def rvAtomic (c w : Nat) (rd : XReg) (a v : Nat) (s : State) : IRes :=
  let n := if fld w 12 3 = 2 then 4 else 8
  let f5 := fld w 27 5
  let lr := f5 == 2
  let amo := (amoFn f5 (8 * n) 0 0).isSome
  if (fld w 12 3 != 2 && fld w 12 3 != 3) || !(lr || f5 == 3 || amo) || (lr && fld w 20 5 != 0) then rvIllegal w s
  else if a % n != 0 then .trap (if lr then exLoadMis else exStoreMis) a s
  else if s.coreWalkHeld c a n then .stall s
  else
    match s.coreXlate c a (!lr) false with
    | (none, s1) => .trap (if lr then exLoadPage else exStorePage) a s1
    | (some t, s1) =>
      if !s1.coreReach t n then
        let sync := match placeOf t.pa with | .sync _ _ => true | _ => false
        .trap (if lr || (sync && amo) then exLoadAccess else exStoreAccess) a s1
      else if f5 == 3 && (s1.core c).resv != some (t.pa, n) then
        .done ((s1.modCore c fun k => { k with resv := none }).setXn c rd 1)
      else if s1.targetHeld c t n then .stall s1
      else
        let (old, bad, s2) := s1.atomicRead c t n
        let ext := if n = 4 then sext32 old else old
        if lr then
          if bad then .trap exLoadAccess a (s2.poisonRead .cor (c % 256) t.pa)
          else wrote (s2.modCore c fun k => { k with resv := some (t.pa, n) }) c rd ext
        else if f5 == 3 then
          .done (((s2.atomicWrite c t n (v % 2 ^ (8 * n))).modCore c fun k => { k with resv := none }).setXn c rd 0)
        else if bad then .trap exLoadAccess a (s2.poisonRead .cor (c % 256) t.pa)
        else
          match amoFn f5 (8 * n) old (v % 2 ^ (8 * n)) with
          | some x => wrote (s2.atomicWrite c t n x) c rd ext
          | none => rvIllegal w s

/-- CSRRW, CSRRS, CSRRC and their immediate forms (R251). -/
def rvCsr (c w : Nat) (rd : XReg) (rs1 : Nat) (s : State) : IRes :=
  let k := s.core c
  let f3 := fld w 12 3
  let n := fld w 20 12
  let src := if bitOf f3 2 then rs1 else (k.getX (Fin.ofNat 32 rs1)).toNat
  let write := f3 % 4 == 1 || rs1 != 0
  if f3 % 4 = 0 then rvIllegal w s
  else if !k.csrAllowed n write then rvIllegal w s
  else
    match s.csrRead c n with
    | none => rvIllegal w s
    | some (old, s1) =>
      let new := match f3 % 4 with
        | 1 => src
        | 2 => old ||| src
        | _ => old - (old &&& src)
      let s2 := if write then s1.csrWrite c n new else s1
      if rd.val = 0 then .done s2 else wrote s2 c rd old

/-- ECALL, EBREAK, MRET and WFI (R246, R247). -/
def rvSystem (c w : Nat) (s : State) : IRes :=
  let k := s.core c
  match w with
  | 0x00000073 => .trap (if k.machine then 11 else 8) 0 s
  | 0x00100073 => .trap exBreak k.pc.toNat s
  | 0x30200073 => if k.machine then .jump k.mepc (s.modCore c Core.mret) else rvIllegal w s
  | 0x10500073 => if !k.machine && k.mstatus.getLsbD 21 then rvIllegal w s else .done s
  | _ => rvIllegal w s

/-- A load: its width and whether it is signed; none for a reserved function. -/
def loadShape : Nat → Option (Nat × Bool)
  | 0 => some (1, true)
  | 1 => some (2, true)
  | 2 => some (4, true)
  | 3 => some (8, true)
  | 4 => some (1, false)
  | 5 => some (2, false)
  | 6 => some (4, false)
  | _ => none

/-- A loaded value as the register receives it. -/
def loadExt (n : Nat) (sg : Bool) (v : Nat) : Nat := if sg then unsgn 64 (sgn (8 * n) v) else v

/-- One base instruction of 32 bits; `raw` and `len` are the instruction as it was fetched. -/
def rvExec (c w raw len : Nat) (s : State) : IRes :=
  let k := s.core c
  let rd : XReg := Fin.ofNat 32 (fld w 7 5)
  let rs1 : XReg := Fin.ofNat 32 (fld w 15 5)
  let rs2 : XReg := Fin.ofNat 32 (fld w 20 5)
  let a := (k.getX rs1).toNat
  let b := (k.getX rs2).toNat
  let f3 := fld w 12 3
  let pc := k.pc.toNat
  let iimm := sgn 12 (fld w 20 12)
  let put (r : Option Nat) : IRes := match r with
    | some v => wrote s c rd v
    | none => rvIllegal raw s
  match fld w 0 7 with
  | 0x37 => wrote s c rd (sext32 (at_ (fld w 12 20) 12))
  | 0x17 => wrote s c rd ((pc + sext32 (at_ (fld w 12 20) 12)) % 2 ^ 64)
  | 0x6F =>
    let off := sgn 21 (at_ (fld w 21 10) 1 + at_ (fld w 20 1) 11 + at_ (fld w 12 8) 12 + at_ (fld w 31 1) 20)
    .jump (BitVec.ofInt 64 (pc + off)) (s.setXn c rd ((pc + len) % 2 ^ 64))
  | 0x67 =>
    if f3 != 0 then rvIllegal raw s
    else .jump (BitVec.ofInt 64 (a + iimm) &&& ~~~1#64) (s.setXn c rd ((pc + len) % 2 ^ 64))
  | 0x63 =>
    match branchTaken f3 a b with
    | none => rvIllegal raw s
    | some false => .done s
    | some true =>
      let off := sgn 13 (at_ (fld w 8 4) 1 + at_ (fld w 25 6) 5 + at_ (fld w 7 1) 11 + at_ (fld w 31 1) 12)
      .jump (BitVec.ofInt 64 (pc + off)) s
  | 0x03 =>
    match loadShape f3 with
    | none => rvIllegal raw s
    | some (n, sg) =>
      match s.cpLoad c (unsgn 64 (a + iimm)) n with
      | .data v s1 => wrote s1 c rd (loadExt n sg v)
      | .res r => r
  | 0x23 =>
    if 3 < f3 then rvIllegal raw s
    else
      let off := sgn 12 (fld w 7 5 + at_ (fld w 25 7) 5)
      s.cpStore c (unsgn 64 (a + off)) (2 ^ f3) (b % 2 ^ (8 * 2 ^ f3))
  | 0x13 => let (f7, i) := immFn 64 f3 (fld w 20 12); put (if f7 = 0x01 then none else aluOp f3 f7 a i)
  | 0x1B =>
    if f3 != 0 && f3 != 1 && f3 != 5 then rvIllegal raw s
    else let (f7, i) := immFn 32 f3 (fld w 20 12); put (if f7 = 0x01 then none else aluOpW f3 f7 a i)
  | 0x33 => put (aluOp f3 (fld w 25 7) a b)
  | 0x3B => put (aluOpW f3 (fld w 25 7) a b)
  | 0x2F => rvAtomic c w rd a b s
  | 0x0F =>
    match f3 with
    | 0 => .done s
    | 1 => .done (s.modCore c fun k => { k with l1i := [] })
    | _ => rvIllegal raw s
  | 0x73 => if f3 = 0 then (match rvSystem c w s with
      | .trap cause tv s1 => .trap cause (if cause = exIllegal then raw else tv) s1
      | r => r)
    else rvCsr c w rd (fld w 15 5) s
  | _ => rvIllegal raw s

/-- What stands at the pc: a standard instruction (its base form, its bits, its length), an engine instruction that its
own command runs, an encoding that is neither, an exception of the fetch, or nothing yet. -/
inductive Fetched where
  | std (w raw len : Nat) (s : State)
  | engine (s : State)
  | bad (raw : Nat) (s : State)
  | trap (cause va : Nat) (s : State)
  | wait (s : State)

/-- Fetch the `n` further half-words of an instruction. -/
def State.fetchMore (s : State) (c va : Nat) : Nat → Nat → Nat → Fetched
  | 0, _, acc => .std acc acc 0 s
  | n + 1, i, acc =>
    match s.fetchHalf c (va + 2 * i) with
    | .half v s1 => s1.fetchMore c va n (i + 1) (acc + at_ v (16 * i))
    | .trap cause s1 => .trap cause (va + 2 * i) s1
    | .wait s1 => .wait s1

/-- Fetch the instruction at the pc and tell what it is (R246, R257, R258). -/
def State.fetchInstr (s : State) (c : Nat) : Fetched :=
  let va := (s.core c).pc.toNat
  match s.fetchHalf c va with
  | .trap cause s1 => .trap cause va s1
  | .wait s1 => .wait s1
  | .half h s1 =>
    if h % 4 != 3 then
      match expandC h with
      | some w => .std w h 2 s1
      | none => .bad h s1
    else if h % 32 != 31 then
      match s1.fetchMore c va 1 1 h with
      | .std w _ _ s2 =>
        if w % 128 = 0x0B ∨ w % 128 = 0x2B ∨ w % 128 = 0x5B ∨ w % 128 = 0x7B then
          (if (decodeEng32 w).isSome then .engine s2 else .bad w s2)
        else .std w w 4 s2
      | r => r
    else if h % 128 = 0x3F then
      match s1.fetchMore c va 3 1 h with
      | .std w _ _ s2 => if (decodeEng64 w).isSome then .engine s2 else .bad w s2
      | r => r
    else .bad h s1

/-- RV64IMAC_INSTRUCTION: the core fetches at its pc and executes a standard instruction; an engine instruction there
waits for its own command; any other encoding raises the illegal-instruction exception (R246, R259). -/
def execRv64imacInstruction (c : CoreId) (s : State) : Host.Outcome State Fault Refusal :=
  .next <|
    if !s.canIssue c then s
    else
      match s.fetchInstr c with
      | .std w raw len s1 => (rvExec c w raw len s1).finish c len
      | .engine s1 => s1
      | .bad raw s1 => s1.takeTrap c exIllegal raw
      | .trap cause va s1 => s1.takeTrap c cause va
      | .wait s1 => s1

end Sys2Proof.Machine
end

