-- ==== Sys2Proof/Machine/Deliver.lean ====
section
/-! DEFINITION. Machine/Deliver.lean: what the packets of flows do at their destination: writes, accumulating writes, read
requests and responses, updates, control; parts that wait for an epoch (R90, R92, R93, R116, R130 to R134, R141, R158, R164,
R173, R174, R222, R386, R505 to R508, R538). Payload layouts: log entry 37. -/

namespace Sys2Proof.Machine

open Sys2Proof

/-- `n` bytes of a payload as a number. -/
def lfld (l : List Byte) (off n : Nat) : Nat := ofBytes ((l.drop off).take n)

/-- FP32 patterns of a payload from a byte offset on. -/
def lwords (l : List Byte) (off : Nat) : List Nat :=
  (List.range ((l.length - off) / 4)).map fun i => lfld l (off + 4 * i) 4

/-! ## Writes and accumulating writes (R91, R93, R189, R386) -/

/-- KIND 0: data for a physical address of this module. -/
def State.takeWrite (s : State) (p : Packet) : State :=
  let a := lfld p.payload 0 6
  let data := p.payload.drop 8
  let bad := lfld p.payload 6 2 != 0
  if data.isEmpty || !s.reachableRange a data.length then s
  else ((s.beforeWrite a data.length).store a data bad).dirtyHot a

/-- KIND 1: part of a pooled partial, for a destination of a command that leads here; the last part ends the remote part. -/
def State.takeAcc (s : State) (p : Packet) : State :=
  let x := lfld p.payload 0 1
  let serial := lfld p.payload 1 4
  let bad := lfld p.payload 6 1 != 0
  let vals := lwords p.payload 13
  let last := p.extra.toNat == 1
  match s.cmd x serial with
  | none => s
  | some c =>
    let s1 := if c.stop || vals.isEmpty then s
      else match s.dstPieces x (lfld p.payload 7 6) (4 * vals.length) with
        | (none, a) => a.endFault x serial 0x06
        | (some ps, a) => a.accumulate ps (lfld p.payload 5 1) vals false serial
    s1.modCmd x serial fun d => { d with left := if last then d.left - 1 else d.left, poisoned := d.poisoned || bad }

/-! ## Read requests and responses (R90, R158, R173, R222, R386) -/

/-- A part that cannot be served is reported to the module that asked (R173). -/
def State.partFails (s : State) (coord status reason : Nat) (l : List Byte) : State :=
  s.sendPartFail
    { coord := coord, lead := lfld l 15 1, serial := lfld l 36 4, uid := lfld l 20 8, dst := 0, tag := 0 } status reason
    (decide (6 ≤ lfld l 14 1))

/-- Rows asked for, with their weights. -/
def askedRows (l : List Byte) : List (Nat × Nat) :=
  (List.range (lfld l 44 4)).map fun i => (lfld l (48 + 12 * i) 8, lfld l (56 + 12 * i) 4)

/-- Resolve the rows of a part in order (R163). -/
def State.resolvePart (s : State) (v : Version) : List (Nat × Nat) → Resolved → Resolved × State
  | [], r => (r, s)
  | (row, w) :: l, r =>
    let (r1, s1) := s.resolveRow v row w none r
    s1.resolvePart v l r1

/-- Serve a remote part under the version it names: its rows are pooled, or read, on the stacks that hold them, and joined at
the stack of the first (R163, R173, R222). Rows that this module does not hold either end it with reason 0x06 (log entry
50). -/
def State.servePart (s : State) (v : Version) (coord : Nat) (l : List Byte) : State :=
  let kind := lfld l 14 1
  let rows := askedRows l
  let y := match rows.head?.bind fun r => v.shardOf r.1 with | some (_, h) => h.whereAt % 16 | none => 0
  if !s.stackLive y || rows.any (fun r => s.entryNeed v r.1 == .lost) then s.partFails coord 4 0 l
  else
    let (r, s1) := s.resolvePart v rows {}
    if r.fault.isSome || !r.remote.isEmpty then s1.partFails coord (if r.poison then 5 else 3) (r.fault.getD 0x06) l
    else
      let part : RemPart :=
        { coord := coord, lead := lfld l 15 1, serial := lfld l 36 4, uid := lfld l 20 8, dst := lfld l 28 6, tag := lfld l 40 4 }
      let c : SCmd :=
        { serial := s1.serial, queue := 64, raw := opGATHER + 2 ^ 48 * kind, src := 0, epoch := 0, vers := [(v.tid, v.epoch)]
          started := true, part := some part }
      let b : Bag :=
        { uid := s1.serial + 1, cmd := s1.serial, lead := y, pos := 0, n := lfld l 6 8, kind := kind, nelem := lfld l 16 4, ofmt := 0
          dst := 0, bytes := if kind = 7 then v.rowBytes else 4 * lfld l 16 4, sink := .far }
      let s2 := ({ s1 with serial := s1.serial + 2 } : State).modServer y fun k => { k with cmds := k.cmds ++ [c] }
      if r.poison then s2.addSpoilt y b
      else
        let (reqs, s3) := s2.openTree y b (y, b.uid) r
        (s3.modCmd y c.serial fun d => { d with todo := reqs }).routeCmd y c.serial

/-- A remote part or update waits for its epoch, unless that version was retired here (R173). EPWAITCNT counts each packet that
waits (R193; DESIGN CHOICE, log entry 150). -/
def State.waitEpoch (s : State) (srv tid epoch : Nat) (p : Packet) : State :=
  ({ s with
    epWaits := s.epWaits ++ [{ srv := srv, tid := tid, epoch := epoch, pkt := p, serial := s.serial }]
    serial := s.serial + 1 } : State).count64 (pgTbl + 0x078) 1

/-- A whole request for rows. -/
def State.takeGather (s : State) (p : Packet) : State :=
  let tid := lfld p.payload 0 2
  let epoch := lfld p.payload 2 4
  match s.version tid epoch with
  | some v => s.servePart v p.src.toNat p.payload
  | none =>
    if s.retired.contains (tid, epoch) then
      (s.count32 (pgTbl + 0x080) 1).partFails p.src.toNat 3 0x8A p.payload
    else s.waitEpoch (p.flow.toNat % 16) tid epoch p

/-- A read for another module finds poison: an event of the unit, or of the L2, that holds the first poisoned sector (R553). -/
def State.remoteReadEvent (s : State) (a n : Nat) : State :=
  match (sectorsOf a n).find? fun q => s.badPa (64 * q) 64 with
  | none => s
  | some q => match placeOf (64 * q) with
    | .scratch h _ => s.poisonRead .l2c h (64 * q)
    | _ => s.poisonUnit (64 * q) false

/-- A stream's read of this module's memory (R386). An address that reaches nothing is answered with a fault. -/
def State.takeSread (s : State) (p : Packet) : State :=
  let a := lfld p.payload 0 6
  let n := lfld p.payload 6 2
  let ok := s.reachableRange a n
  let s := if ok then s.meet a n else s
  let s := if ok then s.remoteReadEvent a n else s
  s.flowSend p.src.toNat 5 (flowSreply (p.flow.toNat % 256)) 3 0 0
    ((p.payload.drop 8).take 8 ++ toBytes 1 (if !ok then 2 else if s.badPa a n then 1 else 0) ++ if ok then s.readPa a n else [])

/-- KIND 3 for a bag: the elements of a row or of half a composed row, or a raw row's bytes (R158, R222). -/
def State.takeRow (s : State) (l : List Byte) : State :=
  let x := lfld l 0 1
  let uid := lfld l 1 8
  let tag := lfld l 9 4
  let bad := lfld l 13 1 != 0
  let data := l.drop 14
  let met := match (if bad then (s.server x).bags.find? fun b => b.uid == uid else none) with
    | some b => s.meetPoison b.lead b.cmd
    | none => s
  met.modBag x uid fun b =>
    let vals := (List.range (data.length / 4)).map fun i => (i, lfld data (4 * i) 4)
    let b1 := { b with left := b.left - 1, poison := b.poison || bad }
    if tag != 0 then b1.takeHalf ((tag - 1) / 2) ((tag - 1) % 2 == 1) vals
    else if b.kind = 7 then
      { b1 with pos := 0, raw := (List.range ((data.length + 63) / 64)).map fun i => (i, lfld data (64 * i) 64) }
    else { b1 with extra := b1.extra ++ [vals] }

/-- KIND 3 for a stream: data of a remote source, written to its destination (R386, R387). -/
def State.takeSreply (s : State) (p : Packet) : State :=
  let e := p.flow.toNat % 256
  let serial := lfld p.payload 0 4
  let code := lfld p.payload 8 1
  let data := p.payload.drop 9
  match (s.seng e).work.find? fun d => d.serial == serial && d.remote != 0 with
  | none => s
  | some d =>
    let done := fun (t : State) => t.modDesc e serial fun k => { k with remote := k.remote - 1, poison := k.poison || code == 1 }
    let fails := fun (t : State) => (done t).modDesc e serial fun k => { k with ended := some (3, 0x06) }
    let pos := lfld p.payload 4 4
    if code = 2 then fails s
    else
      let (l, s1) := s.xlateRange (e / 8) (stridedAt d.raw pos).2 data.length true
      match l with
      -- the units from here on count as not written (R393)
      | .error va => ((done s1).modDesc e serial fun k => { k with pos := min k.pos pos, ended := none }).sengFault e serial va true
      | .ok ps => if s1.piecesOk ps then done (s1.writeDest ps data (code == 1)) else fails s1

/-! ## Updates (R116, R130 to R134, R164, R173) -/

/-- What stands in place of a position where a report concerns none. -/
def noPos : Nat := 0xFFFFFFFF

/-- Hand an accepted update packet's sector updates to the engines under the version it names; `ser` is the serial number of its
acceptance. A frozen shard stops its command: this position and the later ones that come here are not applied (R115, R164; DESIGN
CHOICE, log entry 150). The packet of a row's first elements counts in the load record (R187). -/
def State.serveUpdate (s : State) (v : Version) (r i ser : Nat) (p : Packet) : State :=
  let l := p.payload
  let pos := lfld l 19 4
  let cmd := (pktKey p, lfld l 23 4)
  let row := lfld l 6 8
  let ty := lfld l 15 1
  let w := if ty = 16 then 8 else 4
  let key : UKey := { op := lfld l 14 1, ty := ty, sr := bitOf (lfld l 16 1) 0 }
  let vals := (List.range ((l.length - 27) / w)).map fun j => (lfld l 17 2 + j, lfld l (27 + w * j) w)
  if s.entryNeed v row = .lost then s.updateFails p 4 0 noPos
  else if s.upStops.contains cmd || (v.shardOf row).any fun h => h.2.frozen then
    ({ s with upStops := if s.upStops.contains cmd then s.upStops else cmd :: s.upStops } : State).updateFails p 3 0x8B pos
  else match s.locate v row (lfld l 17 2 == 0) with
  | (.at_ pa _ _, s1) =>
    if !(sectorsOf pa v.rowBytes).all (fun q => s1.mapped (64 * q)) then s1.updateFails p 3 0x06 noPos
    else
      let org : Origin := { src := srcDecl i, epoch := p.epoch.toNat, serial := ser, num := p.fseq.toNat }
      let id := s1.serial + 1
      let ups := (s1.rowUps key (bitOf (lfld l 16 1) 1) v pa vals org pos).map fun q => { q with pkt := id }
      let u : UPkt :=
        { id := id, src := srcDecl i, epoch := p.epoch.toNat, seq := p.fseq.toNat, rcv := r, lead := 255, cmd := 0, org := org
          ups := ups, open_ := ups.length, st := 1, back := some p }
      ({ s1 with serial := s1.serial + 2, upk := s1.upk ++ [u] } : State).routePacket id
  | (.poison a h, s1) => (s1.poisonUnit a h).updateFails p 5 0 noPos
  | (.fault e, s1) => s1.updateFails p 3 e noPos
  | (.remote _, s1) => s1.updateFails p 3 0x06 noPos

/-- KIND 4: an update packet of a declared flow reaches its receiver (R130, R134, R138); one of a flow that no declaration names
is ignored (log entry 51). -/
def State.takeUpdate (s : State) (p : Packet) : State :=
  match s.declOf p.src.toNat p.flow.toNat with
  | none => s
  | some (r, i) =>
    if !s.receiverLive r then s.updateFails p 4 0 noPos
    else
      let (f, s1) := s.seqCheck r (srcDecl i) p.epoch.toNat p.fseq.toNat
      if f != .accept then s1
      else
        let tid := lfld p.payload 0 2
        let epoch := lfld p.payload 2 4
        match s1.version tid epoch with
        | some v => s1.serveUpdate v r i s1.serial p
        | none =>
          if s1.retired.contains (tid, epoch) then (s1.count32 (pgTbl + 0x080) 1).updateFails p 3 0x8A noPos
          else s1.waitEpoch r tid epoch p

/-! ## Control packets (R141, R173, R174) -/

/-- KIND 7: 1 a fence for a flow's receiver, 2 its report, 3 a version drained at another module, 4 a remote part ended, 5 an
update failed. -/
def State.takeControl (s : State) (p : Packet) : State :=
  let l := p.payload
  let co := p.src.toNat
  match lfld l 0 1 with
  | 1 =>
    (match s.declOf co (lfld l 6 2) with
      | some (r, i) => s.remoteFence co (lfld l 1 1) (lfld l 2 4) r (srcDecl i) (lfld l 8 4) (lfld l 13 1) (lfld l 12 1 != 0)
      | none => s.sendFenceReport co (lfld l 1 1) (lfld l 2 4) 0)
  | 2 =>
    let st := lfld l 6 1
    s.modCmd (lfld l 1 1) (lfld l 2 4) fun d =>
      { d with left := d.left - 1, poisoned := d.poisoned || st == 5, aborted := d.aborted || st == 4 }
  | 3 =>
    (match s.top.slice with
      | some i => { s with top := { s.top with drained := s.top.drained ++ [(s.rankOf i co, lfld l 1 2, lfld l 3 4)] } }
      | none => s)
  | 4 =>
    let st := lfld l 1 1
    let x := lfld l 3 1
    let note := fun d : SCmd =>
      if st = 4 then { d with aborted := true }
      else
        let d1 := { d.addFault (lfld l 2 1) none with poisoned := d.poisoned || st == 5 }
        if lfld l 2 1 = 0x06 then { d1 with stop := true } else d1
    if lfld l 16 1 = 0 then s.modCmd x (lfld l 4 4) fun d => let e := note d; { e with left := e.left - 1 }
    else match (s.server x).bags.find? fun b => b.uid == lfld l 8 8 with
      | none => s
      | some b => (s.modBag x b.uid fun k => { k with left := k.left - 1, nowrite := true }).leadCmd b.lead b.cmd note
  | 5 =>
    let st := lfld l 1 1
    let key : FlowKey := { src := BitVec.ofNat 18 s.coord, dst := p.src, cls := 5, flow := BitVec.ofNat 12 (lfld l 3 2) }
    let x := lfld l 3 2 % 16
    let reason := lfld l 2 1
    let pos := lfld l 9 4
    match (s.server x).cmds.find? fun c => c.flows.contains (key, lfld l 5 4) with
    | none => s
    | some c =>
      -- a command that a frozen shard stops counts once (R164)
      let froze := st == 3 && reason == 0x8B
      let s1 := if froze && !c.froze then s.count32 (pgTbl + 0x084) 1 else s
      s1.modCmd x c.serial fun d0 =>
        let d := { d0 with froze := d0.froze || froze }
        if st = 4 then { d with aborted := true } else if st = 5 then { d with poisoned := true }
        else if pos = noPos then d.addFault reason none else d.faultAt reason pos
  | _ => s

/-! ## FLOW_PACKET_DELIVER, FLOW_ACK_RECEIVE (R505 to R508) -/

/-- Add a packet to its message; the whole payload once the last packet, marked in its kind-specific bytes, is in. -/
def State.assemble (s : State) (p : Packet) : Option Packet × State :=
  let k := pktKey p
  let all := ((s.rxParts.find? fun e => e.1 == k).map (·.2)).getD [] ++ p.payload
  let rest := s.rxParts.filter fun e => e.1 != k
  if p.extra.toNat = 1 then (some { p with payload := all }, { s with rxParts := rest })
  else (none, { s with rxParts := rest ++ [(k, all)] })

/-- A delivered packet takes its effect. -/
def State.takePacket (s : State) (p : Packet) : State :=
  match p.kind.toNat with
  | 0 => s.takeWrite p
  | 1 => s.takeAcc p
  | 2 =>
    if p.flow.toNat / 256 = 1 then
      match s.assemble p with
      | (some q, s1) => s1.takeGather q
      | (none, s1) => s1
    else s.takeSread p
  | 3 =>
    if p.flow.toNat / 256 = 2 then
      match s.assemble p with
      | (some q, s1) => s1.takeRow q.payload
      | (none, s1) => s1
    else s.takeSreply p
  | 4 => s.takeUpdate p
  | 6 => { s with colIn := s.colIn ++ [p] }
  | 7 => s.takeControl p
  | _ => s

/-- The effect of a delivered packet must wait: what it reads or writes, or an indirection entry that it needs, lies on a channel
that serves nothing now, or a pinned entry's updates come before it (R83, R126, R167, R473; log entry 141). -/
def State.packetHeld (s : State) (p : Packet) : Bool :=
  let l := p.payload
  match p.kind.toNat with
  | 0 => s.writeHeld (lfld l 0 6) (l.length - 8)
  | 2 =>
    if p.flow.toNat / 256 = 1 then
      match (s.assemble p).1 with
      | some q =>
        (match s.version (lfld q.payload 0 2) (lfld q.payload 2 4) with
        | some v => (askedRows q.payload).any fun r => s.entryNeed v r.1 == .wait
        | none => false)
      | none => false
    else s.anyHeld (lfld l 0 6) (lfld l 6 2)
  | 3 =>
    if p.flow.toNat / 256 = 2 then false
    else
      match (s.seng (p.flow.toNat % 256)).work.find? fun d => d.serial == lfld l 0 4 with
      | some d => s.rangeNeed (p.flow.toNat % 256 / 8) (stridedAt d.raw (lfld l 4 4)).2 (l.length - 9) true == .wait
      | none => false
  | 4 => match s.version (lfld l 0 2) (lfld l 2 4) with
    | some v => s.entryNeed v (lfld l 6 8) == .wait
    | none => false
  | _ => false

/-- Delivered packets take their effects in order; none when one must wait. -/
def State.takePackets (s : State) : List Packet → Option State
  | [] => some s
  | p :: ps => if s.packetHeld p then none else (s.takePacket p).takePackets ps

/-- FLOW_PACKET_DELIVER: a packet that has reached this module is checked against its flow and delivered in order, held, or
discarded (R506). One that is not of the slice is dropped (R501). One whose effect must wait stays where it is. -/
def execFlowPacketDeliver (pkt : Packet) (s : State) : Host.Outcome State Fault Refusal :=
  if maxPayload (match s.top.slice with | some i => i.v2 | none => false) < pkt.payload.length then
    .fault (.illFormed "FLOW_PACKET_DELIVER")
  else
    let die := ((s.top.dest.find? fun e => e.1 == pkt).map (·.2)).getD 0
    let s0 := { s with top := { s.top with dest := s.top.dest.eraseP fun e => e.1 == pkt } }
    if pkt.kind = 5 ∨ s.pw.powered = false then .next s
    else if !s.sliceAllows pkt || pkt.dst.toNat != s.coord then .next (s0.count32 (pgTop + 0x098) 1)
    else
      let (ps, s1) := s0.flowArrive pkt die
      .next ((s1.takePackets ps).getD s)

/-- FLOW_ACK_RECEIVE: the oldest acknowledgement of a flow that has reached this module frees the packets up to H (R505,
R507). -/
def execFlowAckReceive (flow : FlowKey) (s : State) : Host.Outcome State Fault Refusal :=
  let isAck := fun e : Packet × Nat =>
    e.1.kind == 5 && e.1.dst == flow.src && e.1.src == flow.dst && e.1.cls == flow.cls && e.1.flow == flow.flow
  match s.top.dest.find? isAck with
  | none => .next s
  | some e => .next (({ s with top := { s.top with dest := s.top.dest.erase e } } : State).flowAcked flow e.1.fseq.toNat)

/-! ## Waiting for an epoch (R173) -/

/-- A version is installed: the parts that waited for it go on. -/
def State.epochArrives (s : State) (v : Version) : State :=
  let ws := s.epWaits.filter fun w => w.tid == v.tid && w.epoch == v.epoch
  ws.foldl (fun (acc : State) (w : EpWait) =>
    if w.pkt.kind = 4 then
      match acc.declOf w.pkt.src.toNat w.pkt.flow.toNat with
      | some (r, i) => acc.serveUpdate v r i w.serial w.pkt
      | none => acc
    else acc.servePart v w.pkt.src.toNat w.pkt.payload)
    { s with epWaits := s.epWaits.filter fun w => !(w.tid == v.tid && w.epoch == v.epoch) }

/-- EPOCH_WAIT_EXPIRY: the oldest part that waits at a server fails with reason 0x8A (R173). -/
def execEpochWaitExpiry (x : ServerId) (s : State) : Host.Outcome State Fault Refusal :=
  match s.epWaits.find? (·.srv == x.val) with
  | none => .next s
  | some w =>
    let s1 := ({ s with epWaits := s.epWaits.erase w } : State).count32 (pgTbl + 0x080) 1
    if w.pkt.kind = 4 then .next (s1.updateFails w.pkt 3 0x8A noPos)
    else .next (s1.partFails w.pkt.src.toNat 3 0x8A w.pkt.payload)

end Sys2Proof.Machine
end

