-- ==== Sys2Proof/Machine/Tables.lean ====
section
/-! DEFINITION. Machine/Tables.lean: the table registry: descriptor checks, registering, replacing and retiring versions, and
the host's MIGRATE (R149 to R176, R188, R191). -/

namespace Sys2Proof.Machine

open Sys2Proof

/-! ## Descriptor checks (R12, R152, R154, R155, R160 to R162, R168, R169) -/

/-- Formats that a table may have (R155). -/
def tableFmts : List Nat := [0x0, 0x1, 0x2, 0x3, 0x4, 0x9, 0xA, 0xB]

/-- Reserved bits, values the descriptor refuses, and fields its mode does not use (R12, R154). -/
def descFieldsOk (d : Nat) : Bool :=
  let z := fun off n => dfld d off n == 0
  let hmode := dfld d 3 1 % 4
  decide (dfld d 0 2 < 4096) && decide (dfld d 2 1 < 16) && decide (dfld d 3 1 < 16) && hmode != 3
    && z 14 2 && z 22 2 && decide (dfld d 41 1 < 3) && decide (dfld d 42 2 < 4096) && decide (dfld d 44 2 < 4096) && z 46 2
    && z 60 4 && z 92 4 && z 108 4 && z 120 8
    && (hmode == 2 || (z 70 2 && z 86 2 && z 102 2 && z 118 2 && decide (dfld d 88 4 ≤ 2 ^ 24)))
    && (hmode == 1 || (z 24 8 && z 32 8 && z 40 1))
    && (hmode == 2 || (z 41 1 && z 42 2 && z 44 2))
    && (hmode == 2 || dfld d 12 2 != 1 || z 64 8)

/-- A shard entry from its fields: first row, base, home, indirection base. -/
def shardOfFields (first base home ind : Nat) : Shard :=
  { first := first, base := base, kind := fld home 30 2, frozen := bitOf home 29, whereAt := fld home 0 18, ind := ind }

/-- One shard's fields by R160 and R161. -/
def shardOk (indir : Bool) (first base home ind : Nat) : Bool :=
  let kind := fld home 30 2
  decide (first < 2 ^ 48) && decide (base < 2 ^ 48) && decide (ind < 2 ^ 48) && kind != 3 && fld home 18 11 == 0
    && (if kind = 2 then base == 0 && ind == 0 else fld home 4 14 == 0 && (indir || ind == 0))

/-- First rows rise from 0 and stay below NROWS; at most one shard of kind 1 (R162). -/
def shardsOrdered (nrows : Nat) (l : List Shard) : Bool :=
  (l.head?.map (·.first)) == some 0 && l.all (fun h => decide (h.first < nrows))
    && (l.zip (l.drop 1)).all (fun p => decide (p.1.first < p.2.first))
    && decide ((l.filter fun h => h.kind == 1).length ≤ 1)

/-- The shards of an entry list of 32 bytes each, with its validity. -/
def shardsOf (indir : Bool) (n img : Nat) : List (Shard × Bool) :=
  (List.range n).map fun i =>
    let f := fun off w => dfld img (32 * i + off) w
    (shardOfFields (f 0 8) (f 8 8) (f 16 4) (f 24 8), shardOk indir (f 0 8) (f 8 8) (f 16 4) (f 24 8) && f 20 4 == 0)

/-- A range lies in HBM regions of one stack whose modes are among those given (R168). -/
def State.inRegions (s : State) (x a n : Nat) (modes : List Nat) : Bool :=
  n == 0 || (decide (a + n ≤ 0x10000000000) &&
    (List.range ((a + n - 1) / 2 ^ 30 - a / 2 ^ 30 + 1)).all fun i =>
      let r := a / 2 ^ 30 + i
      s.regionMapped r && modes.contains (s.mode r) && r / 64 == x)

/-- A range lies in the Rhizome tier, on mapped channels. -/
def State.inRhizome (s : State) (a n : Nat) : Bool :=
  n == 0 || (decide (0x80000000000 ≤ a) && decide (a + n ≤ 0x98000000000) &&
    (List.range (min 192 ((a + n - 1) / 4096 - a / 4096 + 1))).all fun i => bitOf s.boot.rhzMapped.toNat (rhzPlace (a + 4096 * i)).1)

/-- The regions of R168. -/
def State.regionsOk (s : State) (v : Version) : Bool :=
  let ends := (v.shards.drop 1).map (·.first) ++ [v.nrows]
  let shards := (v.shards.zip ends).all fun (h, e) =>
    let n := (e - h.first) * v.rowBytes
    (match h.kind with
      | 0 => s.inRegions h.whereAt h.base n [2, 3]
      | 1 => s.inRhizome h.base n
      | _ => true)
    && (!v.indir || h.kind == 2 || s.inRegions h.whereAt h.ind (8 * (e - h.first)) [2, 3])
  let hot := match v.shards.find? (·.kind == 1) with
    | some h =>
      s.inRegions h.whereAt v.hotBase (v.hotSlots * v.rowBytes) [2] && s.inRegions h.whereAt v.slotTab (8 * v.hotSlots) [2]
    | none => true
  let load := v.loadAddr == 0 || (decide (v.loadAddr + 16 * v.shards.length ≤ 0x10000000000)
    && (sectorsOf v.loadAddr (16 * v.shards.length)).all fun q => s.regionMapped (64 * q / 2 ^ 30))
  shards && (!v.plen || hot) && load

/-- The placement fields (R169). -/
def placementOk (v : Version) : Bool :=
  if v.plen then v.indir && v.shards.any (·.kind == 1) && v.hotSlots != 0 && decide (v.demote < v.promote)
  else v.hotBase == 0 && v.hotSlots == 0 && v.slotTab == 0 && v.promote == 0 && v.demote == 0

/-- A composition (R169). -/
def State.composeOk (s : State) (v : Version) : Bool :=
  match s.current v.qtid, s.current v.rtid with
  | some q, some r =>
    let z := fun off n => dfld v.desc off n == 0
    q.hmode != 2 && r.hmode != 2 && q.fmt == r.fmt && v.fmt == q.fmt
      && (v.compop == 2 || q.nelem == r.nelem)
      && v.nelem == (if v.compop = 2 then q.nelem + r.nelem else q.nelem)
      && z 16 6 && z 4 2 && z 12 2 && z 48 8 && z 56 4 && !v.plen && z 80 8 && z 88 4 && z 96 8 && z 104 2 && z 106 2
      && !v.indir && z 72 8 && z 64 8 && z 112 8
  | _, _ => false

/-- How an operation of the registry ends before it installs anything: a status and a reason. -/
abbrev TblStop := Nat × Nat

/-- The hub reads descriptors and shard maps in HBM, the Rhizome tier and the host window (R151). -/
def State.hubReads (s : State) (a n : Nat) : Bool := (inMemory a n || inHbmOrHost a n) && s.reachableRange a n

/-- Read the shards of a descriptor that is not composed (R151, R160). -/
def State.readShards (s : State) (d : Nat) : Except TblStop (List (Shard × Bool)) :=
  let n := dfld d 12 2
  let indir := bitOf (dfld d 3 1) 2
  if n = 0 ∨ 64 < n then .error (hsRefused, 0x83)
  else if n = 1 then
    .ok [(shardOfFields 0 (dfld d 48 8) (dfld d 56 4) (dfld d 72 8), shardOk indir 0 (dfld d 48 8) (dfld d 56 4) (dfld d 72 8))]
  else if dfld d 48 8 ≠ 0 ∨ dfld d 56 4 ≠ 0 ∨ dfld d 72 8 ≠ 0 then .error (hsRefused, 0x83)
  else
    let a := dfld d 64 8
    if a % 32 ≠ 0 then .error (hsRefused, 0x05)
    else if !s.hubReads a (32 * n) then .error (hsRefused, 0x06)
    else if s.badPa a (32 * n) then .error (hsPoisoned, 0)
    else .ok (shardsOf indir n (s.readPaNat a (32 * n)))

/-- What the checks before the shards find in a descriptor: reserved and illegal fields, the table id, the format, the row size
and the hash (R12, R154, R155, R169). -/
def descStop (tid d : Nat) : Option TblStop :=
  let v : Version := { tid := tid, epoch := dfld d 8 4, desc := d, shards := [], current := true }
  if !descFieldsOk d || dfld d 0 2 != tid then some (hsRefused, 0x01)
  else if v.hmode = 2 then none
  else if !tableFmts.contains v.fmt || v.rowBytes < 16 || 4096 < v.rowBytes || v.rowBytes % 16 != 0 || v.nelem == 0
      || 8 * v.rowBytes < headerBits v.fmt + v.nelem * fmtBits v.fmt then some (hsRefused, 0x01)
  else if v.hmode = 1 ∧ (v.mult % 2 = 0 ∨ v.hbits = 0 ∨ 47 < v.hbits ∨ v.nrows ≠ 2 ^ v.hbits) then some (hsRefused, 0x01)
  else none

/-- Check a descriptor in the order of R169 and build its version. -/
def State.checkDesc (s : State) (tid d : Nat) : Except TblStop Version :=
  let v0 : Version := { tid := tid, epoch := dfld d 8 4, desc := d, shards := [], current := true }
  match descStop tid d with
  | some e => .error e
  | none =>
    if v0.hmode = 2 then if s.composeOk v0 then .ok v0 else .error (hsRefused, 0x85)
    else
      match s.readShards d with
      | .error e => .error e
      | .ok l =>
        let v := { v0 with shards := l.map (·.1) }
        if !(l.all (·.2)) || !shardsOrdered v.nrows v.shards then .error (hsRefused, 0x83)
        else if !s.regionsOk v then .error (hsRefused, 0x84)
        else if !placementOk v then .error (hsRefused, 0x86)
        else .ok v

/-- The shard map that the checks of a descriptor read: address and length (R151, R160). -/
def State.shardMap (s : State) (tid d : Nat) : Option (Nat × Nat) :=
  let n := dfld d 12 2
  let a := dfld d 64 8
  if (descStop tid d).isSome || dfld d 3 1 % 4 == 2 || n < 2 || 64 < n || dfld d 48 8 != 0 || dfld d 56 4 != 0 || dfld d 72 8 != 0
      || a % 32 != 0 || !s.hubReads a (32 * n) then none
  else some (a, 32 * n)

/-- Read the descriptor that a command names and check it (R150, R151, R153). -/
def State.readDesc (s : State) (c : HCmd) : Except TblStop Version :=
  let a := dfld c.raw 16 8
  if a % 128 ≠ 0 then .error (hsRefused, 0x05)
  else if !s.hubReads a 128 then .error (hsRefused, 0x06)
  else if s.badPa a 128 then .error (hsPoisoned, 0)
  else s.checkDesc (dfld c.raw 8 2) (s.readPaNat a 128)

/-- The reads of a descriptor and its shard map meet the latent errors that stand there (R467). -/
def State.meetDesc (s : State) (c : HCmd) : State :=
  let a := dfld c.raw 16 8
  if a % 128 ≠ 0 ∨ s.hubReads a 128 = false then s
  else
    let s1 := s.meet a 128
    if s1.badPa a 128 then s1
    else match s1.shardMap (dfld c.raw 8 2) (s1.readPaNat a 128) with
      | some (m, n) => s1.meet m n
      | none => s1

/-- A descriptor or its shard map stands on a channel that serves nothing now: the command waits (R465, R473). -/
def State.descHeld (s : State) (c : HCmd) : Bool :=
  let a := dfld c.raw 16 8
  s.anyHeld a 128 || (match s.shardMap (dfld c.raw 8 2) (s.readPaNat a 128) with
    | some (m, n) => s.anyHeld m n
    | none => false)

/-! ## TABLE_REGISTER, TABLE_REPLACE (R152, R171, R172) -/

/-- Where the home copies of promoted rows lie for a version that shares a hot-row region with versions installed before it: their
places do not change (R175, R177). -/
def State.sharedHomes (s : State) (v : Version) : NMap Nat :=
  if !v.plen then []
  else (s.tables.filter (·.sharesHot v)).foldl (fun m o => o.homeAt.foldl (fun m e => nset m e.1 e.2) m) []

/-- Install a version as its table's current one; the one before it becomes retiring, and the parts that waited for the epoch
go on (R149, R170 to R173). -/
def State.install (s : State) (v0 : Version) : State :=
  let v := { v0 with homeAt := s.sharedHomes v0 }
  ({ s with
    tables := s.tables.map (fun (o : Version) => if o.tid == v.tid then { o with current := false } else o) ++ [v]
    retired := s.retired.filter fun r => !(r.1 == v.tid && r.2 == v.epoch) } : State).epochArrives v

/-- A host command ends as a registry operation stopped; a poisoned read is an event (R553). -/
def State.tblStop (s : State) (q cid : Nat) (e : TblStop) : State :=
  (if e.1 = hsPoisoned then s.fatal .tbl 0 0x83 else s).hostEnd q cid e.1 e.2 0

def tableRegister (q : Nat) (c : HCmd) (s : State) : State :=
  if s.tables.any (·.tid == dfld c.raw 8 2) then s.hostRefuse q c.cid 0x80
  else if s.descHeld c then s
  else
    let s := s.meetDesc c
    match s.readDesc c with
    | .error e => s.tblStop q c.cid e
    | .ok v => (s.install v).hostEnd q c.cid hsOk 0 v.epoch

/-- TABLE_REGISTER (R152). -/
def execTableRegister (q : QueueId) (s : State) : Host.Outcome State Fault Refusal := .next (s.hostRun q 0x04 (tableRegister q))

/-- A further retiring version of a table would exceed the limits of R149. -/
def State.retireFull (s : State) (tid : Nat) : Bool :=
  decide (3 ≤ (s.tables.filter fun v => v.tid == tid && !v.current).length)
    || decide (1024 ≤ (s.tables.filter fun v => !v.current).length)

def tableReplace (q : Nat) (c : HCmd) (s : State) : State :=
  let tid := dfld c.raw 8 2
  if (s.current tid).isNone then s.hostRefuse q c.cid 0x81
  else if s.retireFull tid then s.hostRefuse q c.cid 0x07
  else if s.descHeld c then s
  else
    let s := s.meetDesc c
    match s.readDesc c with
    | .error e => s.tblStop q c.cid e
    | .ok v =>
      if (s.version tid v.epoch).isSome then s.hostRefuse q c.cid 0x82
      else (s.install v).hostEnd q c.cid hsOk 0 v.epoch

/-- TABLE_REPLACE: both phases of R171 in one step; a command is accepted before it or after it (R172; log entry 52). -/
def execTableReplace (q : QueueId) (s : State) : Host.Outcome State Fault Refusal := .next (s.hostRun q 0x05 (tableReplace q))

/-! ## TABLE_RETIRE (R174) -/

def tableRetire (q : Nat) (c : HCmd) (s : State) : State :=
  let tid := dfld c.raw 8 2
  let epoch := dfld c.raw 12 4
  match s.version tid epoch with
  | none => s.hostRefuse q c.cid 0x81
  | some v =>
    if v.current && s.retireFull tid then s.hostRefuse q c.cid 0x07
    else
      (s.hostStart q c.cid).modVersion tid epoch fun k =>
        { k with current := false, retire := k.retire ++ [(q, c.cid, bitOf (dfld c.raw 10 1) 0)] }

/-- TABLE_RETIRE: the version is retiring; the command waits for it to drain (R174). -/
def execTableRetire (q : QueueId) (s : State) : Host.Outcome State Fault Refusal := .next (s.hostRun q 0x06 (tableRetire q))

/-- Nothing at this module is bound to a version (R174). -/
def State.versionIdle (s : State) (tid epoch : Nat) : Bool :=
  let here := fun r : UReq => r.tid == tid && r.ver == epoch
  !(s.servers.any fun p => p.2.cmds.any fun c => c.vers.contains (tid, epoch))
    && !(s.upk.any fun p => p.ups.any here)
    && !(s.units.any fun p => p.2.uq.any here || p.2.uct.any fun e => e.vers.contains (tid, epoch))
    && !(s.moves.any fun m => m.tid == tid && m.epoch == epoch)

/-- The flow of the reports of R174. -/
def flowDrained : Nat := 0x700

/-- Report to every other module of the slice that a version has drained here (R174). -/
def State.tellDrained (s : State) (tid epoch : Nat) : State :=
  match s.top.slice with
  | none => s
  | some i =>
    ((List.range i.size).filter fun r => r != i.rank).foldl (fun acc r =>
      acc.flowSend (acc.coordOfRank i r) 5 flowDrained 7 0 0 (toBytes 1 3 ++ toBytes 2 tid ++ toBytes 4 epoch)) s

/-- Every other module of the slice has reported a version drained; alone, the module is a slice of one. -/
def State.sliceDrained (s : State) (tid epoch : Nat) : Bool :=
  match s.top.slice with
  | none => true
  | some i => (List.range i.size).all fun r => r == i.rank || s.top.drained.contains (r, tid, epoch)

/-- TABLE_RETIRE_DRAINED: a retiring version to which nothing is bound is reported, its commands complete, and its slot is
freed (R174). -/
def execTableRetireDrained (tid : TableId) (epoch : Word) (s : State) : Host.Outcome State Fault Refusal :=
  let t := tid.val
  let e := epoch.toNat
  match s.version t e with
  | none => .next s
  | some v =>
    if v.current || v.retire.isEmpty || !s.versionIdle t e then .next s
    else
      let s1 := if v.told then s else (s.tellDrained t e).modVersion t e fun k => { k with told := true }
      let all := s1.sliceDrained t e
      let done := v.retire.filter fun r => !r.2.2 || all
      let left := v.retire.filter fun r => r.2.2 && !all
      let s2 := done.foldl (fun acc r => acc.hostEnd r.1 r.2.1 hsOk 0 0) s1
      if left.isEmpty then
        .next { s2 with
          tables := s2.tables.filter fun k => !(k.tid == t && k.epoch == e)
          retired := (t, e) :: s2.retired
          top := { s2.top with drained := s2.top.drained.filter fun d => !(d.2.1 == t && d.2.2 == e) } }
      else .next (s2.modVersion t e fun k => { k with retire := left })

/-! ## MIGRATE (R150, R188) -/

/-- The MIGRATE_ROW that a host MIGRATE runs. -/
def migrateRaw (raw : Nat) : Nat :=
  opMIGROW + 2 ^ 32 * dfld raw 8 2 + 2 ^ 48 * dfld raw 10 1 + 2 ^ 64 * dfld raw 16 8 + 2 ^ 128 * dfld raw 24 8
    + 2 ^ 192 * dfld raw 32 4 + 2 ^ 224 * dfld raw 36 4

/-- The stack that serves the rows: the one named by the shard of the first. -/
def migrate (q : Nat) (c : HCmd) (s : State) : State :=
  let raw := migrateRaw c.raw
  match s.current (dfld c.raw 8 2) with
  | none => s.hostRefuse q c.cid 0x81
  | some v =>
    match v.shardOf (dfld raw 8 6) with
    | none => s.hostRefuse q c.cid 0x8C
    | some (_, h) =>
      let x := h.whereAt % 16
      if h.kind = 2 then s.hostRefuse q c.cid 0x8C
      else if !s.stackLive x then s.hostRefuse q c.cid 0x02
      else
        ({ (s.hostStart q c.cid) with serial := s.serial + 1 } : State).takeOne x
          { serial := s.serial, queue := 64, raw := raw, src := 0, epoch := 0, host := some (q, c.cid) }

/-- MIGRATE: one MIGRATE_ROW runs through the stack that serves the rows; the command ends with it (R150). -/
def execMigrate (q : QueueId) (s : State) : Host.Outcome State Fault Refusal := .next (s.hostRun q 0x07 (migrate q))

end Sys2Proof.Machine
end

