-- ==== Sys2Proof/Machine/Topology.lean ====
section
/-! DEFINITION. Machine/Topology.lean: forming a slice: ports, flow declarations, signature, detour table (R133, R137, R138,
R503, R504, R511 to R515, R522, R526). -/

namespace Sys2Proof.Machine

open Sys2Proof

/-! ## The job form block (R511) -/

/-- Fields of a job form block. -/
def jfPlan (b : Nat) : Nat := dfld b 0 8
def jfOrigin (b : Nat) : Nat := dfld b 8 4
def jfExtent (b : Nat) : Nat := dfld b 12 4
def jfV2 (b : Nat) : Bool := bitOf (dfld b 16 2) 0
def jfRemote (b : Nat) : Bool := bitOf (dfld b 16 2) 1
def jfDetour (b : Nat) : Bool := bitOf (dfld b 16 2) 2
def jfCount (b : Nat) : Nat := dfld b 18 2
def jfDecls (b : Nat) : Nat := dfld b 24 8
def jfDetAddr (b : Nat) : Nat := dfld b 32 8

/-- Reserved fields, address fields and extents of a block (R511). -/
def State.jfOk (s : State) (b : Nat) : Bool :=
  decide (jfOrigin b < 2 ^ 18) && decide (jfExtent b < 2 ^ 21) && decide (dfld b 16 2 < 8) && dfld b 20 4 == 0
    && decide (jfDecls b < 2 ^ 48) && decide (jfDetAddr b < 2 ^ 48) && (jfDetour b || jfDetAddr b == 0) && dfld b 40 24 == 0
    && [0, 1, 2].all fun a =>
      let d := fld (jfExtent b) (7 * a) 7
      decide (1 ≤ d) && decide (d ≤ s.podExt a)

/-- The slice that a block describes, without its signature. -/
def State.jfSlice (s : State) (b : Nat) : SliceInfo :=
  let i : SliceInfo :=
    { origin := BitVec.ofNat 18 (jfOrigin b), extent := BitVec.ofNat 21 (jfExtent b), v2 := jfV2 b, remote := jfRemote b
      detour := jfDetour b, rank := 0, sig := [] }
  { i with rank := s.rankOf i s.coord }

/-- The job signature (R514). -/
def State.jobSig (s : State) (b : Nat) : List Byte :=
  sha3 (toBytes 8 (jfPlan b) ++ toBytes 4 (jfOrigin b) ++ toBytes 4 (jfExtent b) ++ manDigest s.boot.manifest
    ++ toBytes 1 (if jfV2 b then 2 else 3) ++ toBytes 4 s.geoClass)

/-! ## Ports and declarations (R138, R511, R513) -/

/-- A port that faces a slice neighbour has the links it needs, on the slice's protocol (R513 step 3). -/
def State.portOk (s : State) (i : SliceInfo) (p : Nat) : Bool :=
  let ls := (List.range 16).filter fun l => s.portOf l == some p
  let planned := ls.filter fun l => planSer (s.top.plan.getD []) l != 0
  let up := ls.filter s.linkUp
  let degradeOk := bitOf (planFld (s.top.plan.getD []) 24 1) 0
  (if up.isEmpty then i.detour else planned.all s.linkUp || degradeOk)
    && up.all fun l => (s.link l).v2 == i.v2

def State.portsOk (s : State) (i : SliceInfo) : Bool :=
  (List.range 8).all fun p => match s.portDir p with
    | some d => !(s.neighbourDirs i).contains d || s.portOk i p
    | none => true

/-- Receiver of a declaration: a stack, or 16 + PHY die. -/
def declRcv (d : Nat) : Nat := if bitOf d 22 then 16 + fld d 18 2 else fld d 18 4

/-- Read and check the declarations: the list, or how the command ends (R138, R513 step 4). -/
def State.readDecls (s : State) (i : SliceInfo) (a n : Nat) : Except (Nat × Nat) (List Nat) :=
  if n = 0 then .ok []
  else if !s.reachableRange a (8 * n) then .error (hsRefused, 0x06)
  else if s.badPa a (8 * n) then .error (hsPoisoned, 0)
  else
    let img := s.readPa a (8 * n)
    let ds := (List.range n).map fun k => ofBytes ((img.drop (8 * k)).take 8)
    let ok := fun d => fld d 44 20 == 0 && fld d 23 9 == 0 && (!bitOf d 22 || fld d 20 2 == 0) && s.inSlice i (fld d 0 18)
    if !ds.all ok then .error (hsRefused, 0x83)
    else if (List.range 20).any fun r => decide (4096 < (ds.filter fun d => declRcv d == r).length) then .error (hsRefused, 0x07)
    else .ok ds

/-! ## JOB_FORM (R513) -/

/-- The last step: the slice is formed; flows, remote sources and collective numbers start afresh (R133, R137, R504, R513,
R526). -/
def State.formSlice (s : State) (i : SliceInfo) (decls : List Nat) (det : NMap Word) : State :=
  let s1 : State := { s with
    top := { s.top with slice := some i, forming := none, decls := decls, detours := det, abortCause := none, dest := [], drained := [] }
    flowTx := [], flowWait := [], flowRx := [], rxParts := [], upFails := [], upStops := [], epWaits := [], colIn := []
    seqRx := s.seqRx.filter fun p => p.1 % 0x10000 / 0x2000 != 3
    cols := (List.range 16).foldl (fun m q => nset m q { nget m q {} with cseq := 1, ahead := [] }) s.cols
    links := s.links.map fun (p : Nat × Link) => (p.1, { p.2 with echoed := false }) }
  let s2 := s1.sourceReset srcRemote
  let s3 := (List.range 8).foldl (fun acc k => acc.setReg (pgTop + 0x0D0 + 4 * k) (ofBytes ((i.sig.drop (4 * k)).take 4))) s2
  (List.range 16).foldl (fun acc q => acc.setRfld (pgColQ q + 4) 16 16 1) s3

/-- A job form block, or what it names, stands on a channel that serves nothing now: JOB_FORM waits (R473). -/
def State.jfHeld (s : State) (a : Nat) : Bool :=
  let b := s.readPaNat a 64
  s.anyHeld a 64 || (s.reachableRange a 64 && s.jfOk b
    && ((jfDetour b && s.anyHeld (jfDetAddr b) 24576) || s.anyHeld (jfDecls b) (8 * jfCount b)))

/-- JOB_FORM, its steps in order. `sigs` says that every slice neighbour's signature is equal, `agreed` that the whole slice
agrees in time. -/
def jobForm (sigs agreed : Bool) (q : Nat) (c : HCmd) (s : State) : State :=
  let a := dfld c.raw 16 8
  if s.top.slice.isSome || s.top.forming.isSome then s.hostRefuse q c.cid 0x0D
  else if !s.reachableRange a 64 then s.hostRefuse q c.cid 0x06
  else if s.jfHeld a then s
  else
  let s := s.meet a 64
  -- a poisoned read is an event (R553)
  let stop := fun (e : Nat × Nat) => (if e.1 = hsPoisoned then s.fatal .top 0 0x83 else s).hostEnd q c.cid e.1 e.2 0
  if s.badPa a 64 then stop (hsPoisoned, 0)
  else
    let b := s.readPaNat a 64
    if s.top.plan.isNone then s.hostRefuse q c.cid 0x84
    else if !s.jfOk b then s.hostRefuse q c.cid 0x01
    else if jfPlan b ≠ s.reg64 (pgTop + 0x060) then s.hostRefuse q c.cid 0x84
    else
      let i := s.jfSlice b
      if !s.inSlice i s.coord || decide (1024 < i.size) then s.hostRefuse q c.cid 0x82
      else
        let s := if jfDetour b then s.meet (jfDetAddr b) 24576 else s
        let stop := fun (e : Nat × Nat) => (if e.1 = hsPoisoned then s.fatal .top 0 0x83 else s).hostEnd q c.cid e.1 e.2 0
        match (if jfDetour b then s.readDetours i (jfDetAddr b) else .ok []) with
        | .error e => stop e
        | .ok det =>
          if !s.portsOk i then s.hostRefuse q c.cid 0x81
          else
            let s := s.meet (jfDecls b) (8 * jfCount b)
            match s.readDecls i (jfDecls b) (jfCount b) with
            | .error e => (if e.1 = hsPoisoned then s.fatal .top 0 0x83 else s).hostEnd q c.cid e.1 e.2 0
            | .ok ds =>
              if !sigs then s.hostRefuse q c.cid 0x09
              else
                let i1 := { i with sig := s.jobSig b }
                if agreed then (s.formSlice i1 ds det).hostEnd q c.cid hsOk 0 i.rank
                else
                  let s1 := s.hostStart q c.cid
                  { s1 with top := { s1.top with forming := some i1, host := [(q, c.cid)] } }

/-- JOB_FORM (R513). -/
def execJobForm (q : QueueId) (sigs : Bool) (agreed : Bool) (s : State) : Host.Outcome State Fault Refusal :=
  .next (s.hostRun q 0x0D (jobForm sigs agreed q))

/-- JOB_FORM_TIMEOUT: the slice has not agreed within 100 ms; the command completes `TIMEOUT` and nothing changes (R513 step
6). -/
def execJobFormTimeout (s : State) : Host.Outcome State Fault Refusal :=
  match s.top.forming, s.top.host with
  | some _, [(q, cid)] =>
    .next (({ s with top := { s.top with forming := none, host := [] } } : State).hostEnd q cid hsTimeout 0 0)
  | _, _ => .next s

end Sys2Proof.Machine
end

