-- ==== Sys2Proof/Machine/HostQueue.lean ====
section
/-! DEFINITION. Machine/HostQueue.lean: queue pairs: doorbells, fetching, checking and posting, and the host commands NOP,
FENCE, DMA_COPY and SYNC_DUMP (R430, R561, R564, R642 to R654, R660). -/

namespace Sys2Proof.Machine

open Sys2Proof

/-! ## Queue configuration (R642, R643) -/

def State.qcfg (s : State) (q : Nat) : Nat := s.reg (pgQue q + 0x040)
def State.sqSize (s : State) (q : Nat) : Nat := 2 ^ fld (s.qcfg q) 0 5
def State.cqSize (s : State) (q : Nat) : Nat := 2 ^ fld (s.qcfg q) 8 5
def State.qPrio (s : State) (q : Nat) : Nat := fld (s.qcfg q) 16 3
def State.qCqien (s : State) (q : Nat) : Bool := bitOf (s.qcfg q) 20
/-- The completion queue that serves a submission queue. -/
def State.cqOf (s : State) (q : Nat) : Nat := fld (s.qcfg q) 24 8
def State.sqBase (s : State) (q : Nat) : Nat := s.reg64 (pgQue q + 0x048) % 2 ^ 48
def State.cqBase (s : State) (q : Nat) : Nat := s.reg64 (pgQue q + 0x050) % 2 ^ 48
/-- `CTRL.COMPAT`: the queue holds 32-byte commands (R660). -/
def State.qCompat (s : State) (q : Nat) : Bool := s.rbit (pgQue q + 0x010) 2
def State.sqEntry (s : State) (q : Nat) : Nat := if s.qCompat q then 32 else 64

/-- A completion queue is full: one entry stays free (R644, R646). -/
def State.cqFull (s : State) (p : Nat) : Bool := ((s.hostQ p).cqTail + 1) % s.cqSize p == (s.hostQ p).cqHead

/-! ## Doorbells and QUEUE_ENABLE (R643, R644) -/

/-- SQTAIL_DOORBELL (R644). -/
def execSqtailDoorbell (q : QueueId) (v : Word) (s : State) : Host.Outcome State Fault Refusal :=
  if !s.enabled (pgQue q) then .next s
  else if s.sqSize q ≤ v.toNat % 0x10000 then .next (s.refuse (pgQue q + 0x058) 0x01)
  else .next (s.modHostQ q fun k => { k with sqTail := v.toNat % 0x10000 })

/-- CQHEAD_DOORBELL (R644). -/
def execCqheadDoorbell (q : QueueId) (v : Word) (s : State) : Host.Outcome State Fault Refusal :=
  if !s.enabled (pgQue q) then .next s
  else if s.cqSize q ≤ v.toNat % 0x10000 then .next (s.refuse (pgQue q + 0x060) 0x01)
  else .next (s.modHostQ q fun k => { k with cqHead := v.toNat % 0x10000 })

/-- What setting a queue's `EN` finds (R643). -/
def State.queueCheck (s : State) (q : Nat) : Option Nat :=
  let sq := s.sqBase q
  let cq := s.cqBase q
  if sq % 4096 ≠ 0 ∨ cq % 4096 ≠ 0 then some 0x05
  else if !inHbmOrHost sq (s.sqEntry q * s.sqSize q) || !inHbmOrHost cq (16 * s.cqSize q) then some 0x06
  else if s.cqOf q ≠ q ∧ s.enabled (pgQue (s.cqOf q)) = false then some 0x02
  else none

/-- A queue is enabled: pointers 0, phase 1, the window empty (R644). -/
def State.queueStart (s : State) (q : Nat) : State := s.setHostQ q {}

/-- Set `EN` of a queue whose page is live: the check, then the start (R633, R643, R644). -/
def State.queueEnable (s : State) (q : Nat) : State :=
  let pg := pgQue q
  if s.enabled pg then s
  else match s.queueCheck q with
    | some r => s.refuse (pg + 0x010) r
    | none => (((s.setRfld (pg + 0x010) 0 1 1).setRfld (pg + 0x014) 0 2 1).setReg (pg + 0x018) 0).queueStart q

/-- QUEUE_ENABLE (R644). -/
def execQueueEnable (q : QueueId) (s : State) : Host.Outcome State Fault Refusal :=
  .next (if s.serves .que then s.queueEnable q else s)

/-! ## HOST_COMMAND_FETCH (R561, R564, R645, R647 to R649, R652, R660) -/

/-- Reserved bytes and bits of a command's operands (R648). -/
def operandsOk (raw : Nat) : Bool :=
  let z := fun off n => dfld raw off n == 0
  match dfld raw 0 1 with
  | 0x01 => z 16 48
  | 0x02 => decide (dfld raw 24 8 < 2 ^ 40) && decide (dfld raw 32 1 < 4) && z 33 31
  | 0x03 => decide (dfld raw 8 1 < 2) && z 9 55
  | 0x04 => decide (dfld raw 8 2 < 4096) && z 10 6 && z 24 40
  | 0x05 => decide (dfld raw 8 2 < 4096) && z 10 6 && z 24 40
  | 0x06 => decide (dfld raw 8 2 < 4096) && decide (dfld raw 10 1 < 2) && z 11 1 && z 16 48
  | 0x07 => decide (dfld raw 8 2 < 4096) && z 11 5 && z 40 24
  | 0x08 => z 9 1 && z 12 4 && z 24 40
  | 0x09 => z 9 1 && z 12 52
  | 0x0A => z 8 8 && z 32 32
  | 0x0B => z 8 8 && z 24 40
  | 0x0C => decide (dfld raw 9 1 < 2) && z 10 54
  | 0x0D => z 8 8 && z 24 40
  | 0x0E => z 8 56
  | 0x0F => z 16 48
  | _ => false

/-- A command may be accepted: a known opcode, reserved fields 0, and in a queue of 32-byte commands only those of R660. -/
def commandOk (raw : Nat) (compat : Bool) : Bool :=
  let op := dfld raw 0 1
  decide (dfld raw 1 1 < 2) && dfld raw 4 4 == 0 && operandsOk raw
    && (!compat || op == 0x01 || (op == 0x02 && dfld raw 32 1 == 0) || op == 0x03 || op == 0x0F)

/-- The hub may fetch from a queue: enabled, not empty, its completion queue not full, no launch held in it, and its next
entry not on a channel that serves nothing (R448, R473, R645, R646). -/
def State.fetchable (s : State) (q : Nat) : Bool :=
  s.enabled (pgQue q) && (s.hostQ q).sqHead != (s.hostQ q).sqTail && !s.cqFull (s.cqOf q) && !s.launchHeld q
    && !s.anyHeld (s.sqBase q + s.sqEntry q * (s.hostQ q).sqHead) (s.sqEntry q)

/-- The queue fetched from next: by priority, then round-robin after the queue of that priority fetched from last (R645). -/
def State.pickHostQ (s : State) : Option Nat :=
  let qs := (List.range 256).filter s.fetchable
  let top := qs.foldl (fun acc q => max acc (s.qPrio q)) 0
  let last := nget s.hostRr top 255
  ((List.range 256).map fun i => (last + 1 + i) % 256).find? fun q => s.fetchable q && s.qPrio q == top

/-- A fetched entry is checked: a duplicate, refused, or accepted (R645, R649, R652); in the halt an accepted command that the
device does not execute completes `ABORTED` at once (R561, R564). -/
def State.takeEntry (s : State) (q raw : Nat) : State :=
  let cid := dfld raw 2 2
  let k := s.hostQ q
  let c : HCmd := { cid := cid, raw := raw, sqHead := k.sqHead, seq := s.serial }
  let add := fun (t : State) (e : HCmd) => ({ t with serial := t.serial + 1 } : State).modHostQ q fun h => { h with cmds := h.cmds ++ [e] }
  match k.window.find? (·.1 == cid) with
  | some (_, st) =>
    (add s { c with started := true, dup := true, done := st.map fun e => (hsDuplicate, 0, e.1 + 256 * e.2) }).count32 (pgQue q + 0x070) 1
  | none =>
    if !commandOk raw (s.qCompat q) then
      (add s { c with started := true, done := some (hsRefused, 0x01, 0) }).count32 (pgQue q + 0x074) 1
    else
      let s1 := ((add s c).modHostQ q fun h => { h with window := ((cid, none) :: h.window).take 4096 }).count64 (pgQue q + 0x068) 1
      let s2 := s1.setReg (pgQue q + 0x078) cid
      if s.mayRun (dfld raw 0 1) then s2 else s2.hostEnd q cid hsAborted 0x80 0

/-- Fetch one entry of a queue. -/
def State.fetchFrom (s : State) (q : Nat) : State :=
  let k := s.hostQ q
  let n := s.sqEntry q
  let a := s.sqBase q + n * k.sqHead
  let s1 := (({ s with hostRr := nset s.hostRr (s.qPrio q) q } : State).modHostQ q fun h => { h with sqHead := (k.sqHead + 1) % s.sqSize q }).meet a n
  let raw := s1.readPaNat a n
  if s.reachableRange a n = false ∨ s1.badPa a n = true then
    -- an entry that cannot be read is not executed (log entry 53)
    let bad := s.reachableRange a n
    let s2 := if bad then s1.poisonRead .hub 1 a else s1
    ({ s2 with serial := s2.serial + 1 } : State).modHostQ q fun h =>
      { h with cmds := h.cmds ++ [{ cid := if bad then dfld raw 2 2 else 0, raw := raw, sqHead := h.sqHead, seq := s2.serial, started := true
                                    done := some (if bad then (hsPoisoned, 0, 0) else (hsFault, 0x06, 0)) }] }
  else s1.takeEntry q raw

/-- HOST_COMMAND_FETCH (R645). -/
def execHostCommandFetch (s : State) : Host.Outcome State Fault Refusal :=
  if !s.ready then .next s
  else match s.pickHostQ with
    | some q => .next (s.fetchFrom q)
    | none => .next s

/-! ## COMPLETION_POST (R646, R650, R655) -/

/-- A completion entry (R650). -/
def completionEntry (q : Nat) (c : HCmd) (d : Nat × Nat × Nat) (phase : Bool) : List Byte :=
  toBytes 8 d.2.2 ++ toBytes 2 c.sqHead ++ toBytes 1 q ++ toBytes 1 d.2.1 ++ toBytes 2 c.cid ++ toBytes 1 d.1
    ++ toBytes 1 (if phase then 1 else 0)

/-- COMPLETION_POST: the completion of a queue's oldest command is posted when its completion queue has room (R646). -/
def execCompletionPost (q : QueueId) (s : State) : Host.Outcome State Fault Refusal :=
  match (s.hostQ q).cmds with
  | [] => .next s
  | c :: rest =>
    match c.done with
    | none => .next s
    | some d =>
      let p := s.cqOf q
      let k := s.hostQ p
      let a := s.cqBase p + 16 * k.cqTail
      if s.cqFull p || s.writeHeld a 16 then .next s
      else
        let s1 := if s.reachableRange a 16 then (s.beforeWrite a 16).writePa a (completionEntry q c d k.phase) false else s
        let t := (k.cqTail + 1) % s.cqSize p
        let s2 := (s1.modHostQ q fun h => { h with cmds := rest }).modHostQ p fun h =>
          { h with cqTail := t, phase := if t = 0 then !h.phase else h.phase }
        .next (if s.qCqien p then s2.raiseVec 1 p else s2)

/-! ## NOP, FENCE (R648, R654) -/

/-- NOP: the operand comes back (R648). -/
def execNop (q : QueueId) (s : State) : Host.Outcome State Fault Refusal :=
  .next (s.hostRun q 0x0F fun c t => t.hostEnd q c.cid hsOk 0 (dfld c.raw 8 8))

/-- Every command of the other queues that was fetched before a fence has completed (R654). -/
def State.othersDone (s : State) (q seq : Nat) : Bool :=
  s.queues.all fun p => p.1 == q || p.2.cmds.all fun c => decide (seq ≤ c.seq) || c.done.isSome

/-- FENCE: its earlier commands have completed, and with that their writes are visible (R654). -/
def execFence (q : QueueId) (s : State) : Host.Outcome State Fault Refusal :=
  .next (s.hostRun q 0x03 fun c t =>
    if dfld c.raw 8 1 = 1 ∧ t.othersDone q c.seq = false then t else t.hostEnd q c.cid hsOk 0 0)

/-! ## DMA_COPY (R653) -/

/-- Cut a copy into pieces that stay within a 64-byte granule at both ends: offset and length. -/
def dmaPieces (src dst : Nat) : Nat → Nat → Nat → List (Nat × Nat)
  | 0, _, _ => []
  | f + 1, pos, left =>
    if left = 0 then []
    else
      let n := min left (min (64 - (src + pos) % 64) (64 - (dst + pos) % 64))
      (pos, n) :: dmaPieces src dst f (pos + n) (left - n)

/-- Where one end of a piece lies: a physical address; none where it does not translate; an address outside the map. -/
inductive DmaEnd where
  | at_ (pa : Nat)
  | page
  | out

def State.dmaEnd (s : State) (va : Bool) (a n : Nat) (write : Bool) : DmaEnd × State :=
  if va then
    match s.xlate agHub a write false with
    | (some p, s1) => (if s1.reachableRange p.pa n then .at_ p.pa else .out, s1)
    | (none, s1) => (.page, s1)
  else (if s.reachableRange a n then .at_ a else .out, s)

/-- Copy one piece; its poison goes with it. -/
def State.dmaPiece (s : State) (src dst n : Nat) : State :=
  let s1 := match placeOf dst with
    | .host => s
    | _ => (s.beforeWrite dst n)
  (s1.writePa dst (s1.readPa src n) (s1.badPa src n)).dirtyHot dst

/-- What a copy comes to. -/
structure DmaRes where
  copied : Nat
  status : Nat
  reason : Nat
  poisoned : Bool

/-- Copy pieces in order up to the first whose end does not translate or lies outside the map (R653). After the first that does
not translate, `more` says whether those pieces behind it that do translate are copied as well. -/
def State.dmaRun (s : State) (srcVa dstVa : Bool) (src dst : Nat) (more : Bool) : List (Nat × Nat) → DmaRes → DmaRes × State
  | [], r => (r, s)
  | (pos, n) :: l, r =>
    let (a, s1) := s.dmaEnd srcVa ((src + pos) % 2 ^ 64) n false
    let (b, s2) := s1.dmaEnd dstVa ((dst + pos) % 2 ^ 64) n true
    let stop := fun (st re : Nat) (go : Bool) =>
      let r1 := if r.status = hsOk then { r with status := st, reason := re } else r
      if go then s2.dmaRun srcVa dstVa src dst more l r1 else (r1, s2)
    match a, b with
    | .at_ pa, .at_ pb =>
      let s2m := s2.meet pa n
      let bad := s2m.badPa pa n
      let s3 := (if bad then s2m.poisonRead .hub 1 pa else s2m).dmaPiece pa pb n
      s3.dmaRun srcVa dstVa src dst more l
        { r with copied := if r.status = hsOk then r.copied + n else r.copied, poisoned := r.poisoned || bad }
    | .out, .page => stop hsPartial 0 more
    | .page, _ => stop hsPartial 0 more
    | _, .page => stop hsPartial 0 more
    | _, _ => if r.status = hsOk then stop hsFault 0x06 false else (r, s2)

/-- A copy reaches a sector on a channel that serves nothing, or writes one whose entry is pinned: the transfer waits in the
hub (R127, R473, R479). -/
def State.dmaHeld (s : State) (srcVa dstVa : Bool) (src dst : Nat) (more : Bool) : List (Nat × Nat) → Bool
  | [] => false
  | (pos, n) :: l =>
    (srcVa && s.walkHeld agHub ((src + pos) % 2 ^ 64)) || (dstVa && s.walkHeld agHub ((dst + pos) % 2 ^ 64)) ||
    match (s.dmaEnd srcVa ((src + pos) % 2 ^ 64) n false).1, (s.dmaEnd dstVa ((dst + pos) % 2 ^ 64) n true).1 with
    | .at_ pa, .at_ pb => s.anyHeld pa n || s.writeHeld pb n || s.dmaHeld srcVa dstVa src dst more l
    | .page, _ => more && s.dmaHeld srcVa dstVa src dst more l
    | _, .page => more && s.dmaHeld srcVa dstVa src dst more l
    | _, _ => false

/-- DMA_COPY. Whether bytes beyond a piece that does not translate are copied is free (R653; log entry 54). -/
def dmaCopy (q : Nat) (c : HCmd) (s : State) : State :=
  let src := dfld c.raw 8 8
  let dst := dfld c.raw 16 8
  let len := dfld c.raw 24 8 % 2 ^ 40
  let fl := dfld c.raw 32 1
  let (w, s0) := s.takeFree
  let more := bitOf w.toNat 0
  if s.dmaHeld (bitOf fl 0) (bitOf fl 1) src dst more (dmaPieces src dst len 0 len) then s else
  let (r, s1) := s0.dmaRun (bitOf fl 0) (bitOf fl 1) src dst more (dmaPieces src dst len 0 len)
    { copied := 0, status := hsOk, reason := 0, poisoned := false }
  let s2 := if r.status = hsPartial then s1.raiseVec 1 257 else s1
  if r.status = hsOk ∧ r.poisoned = true then s2.hostEnd q c.cid hsPoisoned 0 r.copied
  else s2.hostEnd q c.cid r.status r.reason r.copied

/-- DMA_COPY (R653). -/
def execDmaCopy (q : QueueId) (s : State) : Host.Outcome State Fault Refusal := .next (s.hostRun q 0x02 (dmaCopy q))

/-! ## SYNC_DUMP (R430) -/

/-- `DBGMETA` of an object: state, `OVF` or `SAT`, owner, waiters (R431). -/
def State.objMeta (s : State) (h : Nat) (o : Nat) : Nat :=
  let ws := min ((s.home h).waiters.filter (·.obj == o)).length 2048
  let (st, fl, ow) :=
    if o < 32768 then let b := s.bead h o; (b.st, b.ovf, b.owner) else let c := s.ctr h (o - 32768); (c.st, c.sat, c.owner)
  st % 4 + (if fl then 4 else 0) + 2 ^ 4 * (ow % 4096) + 2 ^ 16 * ws

def dumpBytes : Nat := 17842176

/-- The oldest core that waits on a bead. -/
def State.oldestWaiter (s : State) (h b : Nat) : Nat :=
  match (s.home h).waiters.find? (·.obj == b) with
  | some w => w.core + 2 ^ 15
  | none => 0

/-- `FGCFGn` as it reads: `EN`, `BROKEN`, `PHASE` (R431). -/
def State.fgCfg (s : State) (n : Nat) : Nat :=
  s.reg (fgBase n) % 2 + (if (s.fgState n).broken then 2 else 0) + 2 ^ 16 * ((s.fgState n).phase % 0x10000)

def State.dumpHeader (s : State) : List Byte :=
  toBytes 4 1 ++ toBytes 4 s.boot.clusters.toNat ++ toBytes 8 s.now.toNat ++ toBytes 2 s.boot.stackSet.toNat
    ++ toBytes 1 (if s.ras.halted then 1 else 0) ++ toBytes 45 0

def State.dumpChannel (s : State) (n : Nat) : List Byte :=
  let f := s.fgState n
  toBytes 4 (s.fgCfg n) ++ toBytes 4 (s.reg (fgBase n + 4)) ++ toBytes 2 (s.reg (fgBase n + 8))
    ++ toBytes 2 (s.fgStackMask n) ++ toBytes 52 0
    ++ (List.range 32).flatMap fun h =>
      toBytes 8 ((f.arrived.filter fun c => c / 64 == h).foldl (fun acc c => acc ||| 2 ^ (c % 64)) 0)

def State.dumpBead (s : State) (h b : Nat) : List Byte :=
  let o := s.bead h b
  toBytes 8 o.value.toNat ++ toBytes 4 (s.objMeta h b) ++ toBytes 1 (if o.found then 1 else 0) ++ toBytes 1 0
    ++ toBytes 2 (s.oldestWaiter h b)

def State.dumpCtr (s : State) (h k : Nat) : List Byte :=
  let o := s.ctr h k
  toBytes 2 o.value ++ toBytes 2 o.found ++ toBytes 4 (s.objMeta h (32768 + k))

/-- One home of the dump; a home that is absent is zeros. -/
def State.dumpHome (s : State) (h : Nat) : List Byte :=
  if bitOf s.boot.clusters.toNat h then
    (List.range 32768).flatMap (s.dumpBead h) ++ (List.range 4096).flatMap (s.dumpCtr h)
  else List.replicate 0x88000 (0 : Byte)

/-- The dump's parts, each with its offset. -/
def State.dumpParts (s : State) : List (Nat × List Byte) :=
  (0, s.dumpHeader) :: (List.range 32).map (fun n => (0x40 + 320 * n, s.dumpChannel n))
    ++ [(0x2840, List.replicate 0x17C0 (0 : Byte))] ++ (List.range 32).map fun h => (0x4000 + h * 0x88000, s.dumpHome h)

/-- SYNC_DUMP; it waits while its buffer touches a channel that serves nothing (R430, R473). -/
def syncDump (q : Nat) (c : HCmd) (s : State) : State :=
  let a := dfld c.raw 16 8
  if a % 4096 ≠ 0 then s.hostRefuse q c.cid 0x05
  else if dfld c.raw 24 8 < dumpBytes then s.hostRefuse q c.cid 0x07
  else if !s.reachableRange a dumpBytes then s.hostRefuse q c.cid 0x06
  else if s.writeHeld a dumpBytes then s
  else (s.dumpParts.foldl (fun acc p => (acc.writePa (a + p.1) p.2 false).dropSectors (a + p.1) p.2.length) s).hostEnd q c.cid hsOk 0 dumpBytes

def execSyncDump (q : QueueId) (s : State) : Host.Outcome State Fault Refusal := .next (s.hostRun q 0x0A (syncDump q))

end Sys2Proof.Machine
end

