-- ==== Sys2Proof/Machine/Resets.lean ====
section
/-! DEFINITION. Machine/Resets.lean: the function-level resets, the device reset, the BAR2 window and the SMBus target
(R21, R22, R564, R566, R567, R628, R637, R656 to R659, R664). -/

namespace Sys2Proof.Machine

open Sys2Proof

/-! ## FLR of the compute function (R408, R562, R566, R567, R657, R664) -/

/-- Accepted Sorus commands of a server end `ABORTED`: they write their status records and do not signal (R664). -/
def State.flrServer (s : State) (x : Nat) : State :=
  (s.server x).cmds.foldl (fun acc c => acc.complete x (if c.refused.isSome then c else { c with aborted := true }) false) s

/-- Accepted collectives end `ABORTED`: they write their completion records and do not signal (R664). -/
def State.flrColls (s : State) : State :=
  s.cols.foldl (fun (acc : State) (p : Nat × ColQ) =>
    match p.2.cur with
    | some c => (match c.done with
      | some (st, r) => acc.collEnd p.1 c st r false
      | none => acc.collEnd p.1 c 4 0 false)
    | none => acc) s

/-- Every source: cores, stream engines, stacks, the device itself (R129). -/
def allSources : List Nat :=
  (List.range 2048).map srcCore ++ (List.range 256).map srcSeng ++ (List.range 16).map srcStack ++ [0x6000]

/-- Every source's epoch advances and its numbering restarts (R137, R566). -/
def State.flrEpochs (s : State) : State :=
  { s with srcEpoch := allSources.map (fun x => (x, (s.epochOf x + 1) % 256)), seqTx := [] }

/-- What a unit keeps: heavy-hitter entries, and the updates and entries that a retrain pins (R560). -/
def SUnit.flr (u : SUnit) : SUnit := { uq := u.uq, uct := u.uct, hh := u.hh, occ := u.occ, occPrev := u.occPrev }

/-- What a home keeps: the carve, and its disabled and substituted ways; its caches are invalid (R567, R657). -/
def Home.flr (h : Home) : Home :=
  { carve := h.carve, wayOff := h.wayOff, carveSub := h.carveSub, ceWin := h.ceWin, invOk := true, l2Fresh := false }

/-- Registers of a page that an FLR of PF1 keeps (R657). -/
def flrKeeps (off : Nat) : Bool :=
  let o := off % 0x1000
  match pageOf (off / 0x1000) with
  | some (b, inst) =>
    match b with
    | .que | .mmu | .tbl | .sch | .syn | .cor | .clu | .dsp | .col => false
    | .l2c => true
    | .stk => decide (o < 0x040) || decide (0x400 ≤ o)
    | .sor => decide (o < 0x040) || decide (0x300 ≤ o)
    | .thl => !(inst == 0 && decide (0x100 ≤ o) && decide (o < 0x300))
    | .top => !(decide (0x0D0 ≤ o) && decide (o < 0x0F0))
    | _ => true
  | none => true

/-- `L2C` pages: `EN` 0, the rest kept (R657). -/
def State.flrL2 (s : State) : State :=
  (List.range 32).foldl (fun acc h =>
    if acc.enabled (pgL2c h) then (acc.setRfld (pgL2c h + 0x010) 0 1 0).setRfld (pgL2c h + 0x014) 0 1 0 else acc) s

/-- Carved scratch loses its contents (R567). -/
def State.flrScratch (s : State) : State :=
  s.homes.foldl (fun (acc : State) (p : Nat × Home) =>
    if p.2.carve = 0 then acc else
    { acc.makeJunk (scratchBase p.1) (scratchBase p.1 + 0x1000000) with
      poison := acc.poison.filter fun x => !(decide (scratchBase p.1 ≤ 64 * x) && decide (64 * x < scratchBase p.1 + 0x1000000)) }) s

/-- Ops that stand in a core end `ABORTED`, those that have ended and wait for their dispatcher as they ended: `OSTAT` is
written; the releases go with the dispatchers' inboxes (R442, R657). -/
def State.flrOps (s : State) : State :=
  s.cores.foldl (fun acc p =>
    let k := p.2
    let ends := k.ended ++ (k.active.toList ++ k.preempted.toList ++ k.prefetched.toList).map fun o => (o, 4)
    ends.foldl (fun a e => a.vaWrite (homeOf p.1) (e.1.desc + 20) (toBytes 1 e.2)) acc) s

/-- Work in progress ends: what has been accepted is applied or recorded, what waits is discarded (R137, R664). -/
def State.flrWork (s : State) : State :=
  let s1 := s.flrOps.applyAccepted
  let s2 := (List.range 20).foldl (fun acc x => acc.flrServer x) s1
  s2.flrColls

/-- The compute function's state goes; memory, links, boot, power and the RAS log stay (R567, R657). -/
def State.flrPf1 (s : State) : State :=
  let s0 := ({ s with ras := { s.ras with fatals := [] } } : State)
  let s1 := ((s0.flrWork.endSlice.flrScratch).flrEpochs).flrL2
  { s1 with
    regs := s1.regs.filter fun p => flrKeeps p.1
    queues := [], graphs := [], cores := [], fg := [], sengs := [], tlb := [], hostRr := []
    homes := s1.homes.map fun (p : Nat × Home) => (p.1, p.2.flr)
    servers := s1.servers.map fun (p : Nat × Server) => (p.1, { fenced := p.2.fenced })
    units := s1.units.map fun (p : Nat × SUnit) => (p.1, p.2.flr)
    upk := s1.upk.filter fun p => p.st == 0
    tables := [], moves := [], epWaits := [], retired := []
    cols := [], disps := [], colIn := [], latch := [], bar2Wait := [], chanWait := []
    ras := { s1.ras with halted := false, noted := false }
    top := { s1.top with slice := none, forming := none, detours := [], decls := [], abortCause := none, host := [], drained := [] }
    pw := { s1.pw with tests := [], chunk := none, cals := [], snaps := [] }
    msix := s1.msix.filter fun p => p.1 != 1 }

/-- FLR_PF1 (R657, R664): while PERST_N is deasserted and power is good. -/
def execFlrPf1 (s : State) : Host.Outcome State Fault Refusal :=
  .next (if s.pw.pwrgd && !s.pw.perst then s.flrPf1 else s)

/-- FLR_PF0: configuration, MSI-X and DOE state of the management function; all else is kept (R657). -/
def execFlrPf0 (s : State) : Host.Outcome State Fault Refusal :=
  .next (if s.pw.pwrgd && !s.pw.perst then
    { s with msix := s.msix.filter (fun p => p.1 != 0), boot := { s.boot with nonce := none, doeResp := [] } }
  else s)

/-! ## Device reset (R659) -/

/-- A write of `HUB.DEVRST`: 0xA5 in [7:0] from PF0 resets the device; any other write is ignored (R629, R659). -/
def State.devrst (s : State) (fn : Fn) (v : Nat) : State :=
  if fn == .pf0 && v % 256 == 0xA5 then s.deviceReset false else s

def execDevrst (fn : Fn) (v : Word) (s : State) : Host.Outcome State Fault Refusal :=
  .next (if s.serves .hub then s.devrst fn v.toNat else s)

/-! ## SMBus target (R21, R22, R564) -/

/-- Conditions pending in the hub and not masked: `INTSTAT` of `HUB` page 1 (R21; log entry 16). -/
def State.hubPending (s : State) : Nat := if s.alertLow then s.reg (pgHub 1 + 0x028) else s.reg (pgHub 1 + 0x028) / 4 * 4 + s.reg (pgHub 1 + 0x028) % 2

/-- SMBUS_TARGET_ACCESS: served while `PWRGD` is high (R22); reports the pending conditions and `DFINFO` (R21, R564). -/
def execSmbusTargetAccess (acc : SmbusOp) (s : State) : Host.Outcome State Fault Refusal :=
  if !s.pw.pwrgd then .next s
  else match acc with
    | .pending => .next (s.emit (.smbus (BitVec.ofNat 32 s.hubPending)))
    | .dfinfo => .next (s.emit (.smbus (BitVec.ofNat 32 (s.reg (pgRas + 0x080)))))

end Sys2Proof.Machine
end

