-- ==== Sys2Proof/Machine/PageRegs.lean ====
section
/-! DEFINITION. Machine/PageRegs.lean: the page registers: the access and the bits of every register, and what each reads as
(R10, R11, R589, R629 to R632, R636 and the register table of each chapter). -/

namespace Sys2Proof.Machine

open Sys2Proof

/-! ## Live pages (R636) -/

/-- The unit of a page is neither fused off nor disabled at boot. -/
def State.pageLive (s : State) (b : Block) (inst : Nat) : Bool :=
  match b with
  | .clu | .l2c | .sch | .syn => bitOf s.boot.clusters.toNat inst
  | .cor => bitOf s.boot.clusters.toNat (inst / 64)
  | .stk => bitOf s.boot.stackSet.toNat inst
  | .sor => inst % 32 == 0 && bitOf s.boot.stackSet.toNat (inst / 32)
      || bitOf s.boot.stackSet.toNat (inst / 32) && !s.boot.hchOut.contains inst
  | .lnk => bitOf s.boot.links.toNat inst
  | .col => !bitOf s.boot.diesOff.toNat inst
  | .rhz => !bitOf s.boot.diesOff.toNat (8 + inst)
  | _ => true

/-! ## Access codes (R10) -/

/-- How a register takes a write: not at all, by the bits it stores, by the bits a 1 clears, or by an action. -/
inductive Access where
  | no | ro
  | rw (mask : Nat)
  | w1c (mask : Nat)
  | act
  deriving DecidableEq, Repr

def m32 : Nat := 0xFFFFFFFF

/-- The common header (R631). -/
def accHdr (o : Nat) : Access :=
  match o with
  | 0x010 => .act
  | 0x01C => .w1c m32
  | 0x020 => .rw m32
  | 0x024 => .act
  | 0x028 => .w1c m32
  | 0x02C => .rw m32
  | 0x030 => .rw 0x3FF
  | 0x038 => .rw m32
  | 0x03C => .no
  | _ => .ro

/-- STK (R103, R105, R146). -/
def accStk (o : Nat) : Access :=
  if 0x100 ≤ o ∧ o < 0x200 then .act
  else match o with
    | 0x040 => .rw 7
    | 0x048 => .w1c m32
    | 0x04C => .w1c m32
    | 0x098 => .rw m32
    | 0x300 => .rw 3
    | 0x308 => .w1c 3
    | 0x338 => .rw m32
    | 0x33C => .rw m32
    | 0x344 => .rw 0xFFFF
    | _ => .ro

/-- SOR (R107, R108, R148, R226, R227, R484). -/
def accSor (inst o : Nat) : Access :=
  if 0x280 ≤ o ∧ o < 0x300 ∧ inst % 32 ≠ 0 then .no
  else if 0x300 ≤ o ∧ o < 0x380 then
    match o % 0x40 with
    | 0x04 => .act
    | 0x10 => .rw m32
    | 0x14 => .rw m32
    | 0x1C => .rw m32
    | 0x20 => .rw m32
    | _ => .ro
  else match o with
    | 0x040 => .rw 0x107FF
    | 0x048 => .rw 0x7FF
    | 0x04C => .rw 1
    | 0x100 => .act
    | 0x108 => .act
    | 0x280 => .rw 0x11F1F
    | 0x284 => .rw 0x1F
    | 0x288 => .rw 0xFFFF
    | 0x28C => .rw 0x1FFF
    | 0x29C => .rw m32
    | 0x2B0 => .rw m32
    | _ => .ro

/-- TBL (R193, R194). -/
def accTbl (o : Nat) : Access :=
  match o with
  | 0x040 => .rw 3
  | 0x044 => .rw 0x3FF
  | 0x048 => .rw 0xFFFF0F7F
  | 0x050 => .rw 0xFFF
  | 0x080 => .rw m32
  | 0x084 => .rw m32
  | 0x088 => .rw m32
  | 0x08C => .rw m32
  | _ => .ro

/-- DSP (R245). -/
def accDsp (o : Nat) : Access :=
  match o with
  | 0x068 => .rw m32
  | 0x06C => .rw m32
  | 0x078 => .rw m32
  | _ => .ro

/-- COR (R284, R285, R312, R345, R379). -/
def accCor (o : Nat) : Access :=
  match o with
  | 0x040 => .act
  | 0x04C => .act
  | 0x054 => .w1c 3
  | 0x058 => .act
  | 0x308 => .act
  | 0x328 => .rw m32
  | 0x400 => .w1c 0xF
  | 0x418 => .rw m32
  | 0x41C => .rw m32
  | 0x518 => .rw m32
  | 0x51C => .rw m32
  | _ => .ro

/-- L2C (R377, R378). -/
def accL2c (o : Nat) : Access :=
  match o with
  | 0x040 => .rw 0x17F0F
  | 0x048 => .act
  | 0x050 => .rw m32
  | 0x054 => .rw 0xFFFF
  | 0x058 => .rw m32
  | _ => .ro

/-- CLU (R402, R403). -/
def accClu (o : Nat) : Access :=
  if 0x100 ≤ o ∧ o < 0x300 then
    match o % 0x40 with
    | 0x00 => .act
    | 0x30 => .rw m32
    | _ => .ro
  else if o = 0x040 then .rw 0xFFF else .ro

/-- THL (R431): Filigree registers stand in die 0's page. -/
def accThl (inst o : Nat) : Access :=
  if inst = 0 ∧ 0x100 ≤ o ∧ o < 0x300 then
    match o % 0x10 with
    | 0x0 => .act
    | 0x4 => .rw m32
    | 0x8 => .rw 0xFFFF
    | _ => .ro
  else .no

/-- SYN (R432). -/
def accSyn (o : Nat) : Access :=
  if 0x100 ≤ o ∧ o < 0x200 then .rw m32
  else match o with
    | 0x040 => .rw 3
    | 0x044 => .rw 0xFFFF
    | 0x048 => .rw 0xFFFFF
    | 0x050 => .w1c 3
    | 0x05C => .rw 0xFFFF
    | 0x06C => .rw m32
    | 0x070 => .rw m32
    | 0x074 => .act
    | 0x088 => .rw m32
    | 0x08C => .rw m32
    | 0x090 => .rw m32
    | 0x094 => .rw m32
    | 0x098 => .rw m32
    | _ => .ro

/-- SCH (R449, R450). -/
def accSch (inst o : Nat) : Access :=
  match o with
  | 0x040 => .rw 3
  | 0x044 => .rw 0xFFF
  | 0x070 => .rw m32
  | 0x074 => .rw m32
  | 0x078 => .rw m32
  | 0x07C => .rw m32
  | 0x080 => .rw m32
  | 0x084 => .rw m32
  | 0x104 => if inst = 0 then .rw 0xF else .no
  | _ => .ro

/-- MEM (R480 to R482). -/
def accMem (o : Nat) : Access :=
  if 0x060 ≤ o ∧ o < 0x080 then .rw 0xFFFF01FF
  else if 0x100 ≤ o ∧ o < 0x200 then
    match o % 0x10 with
    | 0x4 => .rw 0xFF
    | 0x8 => .rw m32
    | _ => .ro
  else if 0x400 ≤ o ∧ o < 0x600 then .rw 0x33333333
  else match o with
    | 0x040 => .rw 0xFF01
    | 0x044 => .rw 0xFF
    | 0x048 => .act
    | 0x050 => .rw 0x1FF
    | _ => .ro

/-- RHZ (R485). -/
def accRhz (o : Nat) : Access :=
  if 0x100 ≤ o ∧ o < 0x280 then
    match o % 0x10 with
    | 0x4 => .act
    | 0x8 => .rw m32
    | 0xC => .rw m32
    | _ => .ro
  else match o with
    | 0x048 => .w1c 3
    | 0x070 => .rw m32
    | 0x094 => .rw m32
    | _ => .ro

/-- LNK (R520). -/
def accLnk (o : Nat) : Access :=
  match o with
  | 0x040 => .rw 0xFFFF07
  | 0x058 => .act
  | 0x078 => .rw m32
  | 0x07C => .rw m32
  | 0x080 => .rw m32
  | 0x084 => .rw m32
  | 0x088 => .rw m32
  | _ => .ro

/-- TOP (R521). -/
def accTop (o : Nat) : Access :=
  match o with
  | 0x050 => .rw m32
  | 0x054 => .rw 0xFFFF
  | 0x058 => .act
  | 0x074 => .act
  | 0x078 => .rw m32
  | 0x07C => .rw m32
  | 0x080 => .rw m32
  | 0x088 => .rw m32
  | 0x08C => .rw 0xFFFF
  | 0x090 => .act
  | 0x094 => .rw 0x3FF
  | 0x098 => .rw m32
  | 0x09C => .rw m32
  | 0x0A0 => .rw m32
  | 0x0A4 => .w1c 0xF
  | 0x0AC => .rw 1
  | 0x0B8 => .rw m32
  | 0x0BC => .rw m32
  | _ => .ro

/-- COL (R548): all but three registers stand in die 0's page only. -/
def accCol (inst o : Nat) : Access :=
  if o = 0x068 then .rw m32
  else if o = 0x060 ∨ o = 0x064 then .ro
  else if inst ≠ 0 then .no
  else if 0x100 ≤ o ∧ o < 0x300 then
    match o % 0x20 with
    | 0x00 => .act
    | 0x04 => .ro
    | 0x08 => .rw m32
    | 0x0C => .rw 0xFFFF
    | 0x10 => .rw m32
    | 0x14 => .rw 0xFFFF
    | 0x18 => .rw m32
    | _ => .rw 0xFFFF
  else match o with
    | 0x040 => .rw 0xF03FF
    | 0x04C => .rw m32
    | 0x050 => .rw m32
    | 0x054 => .rw m32
    | _ => .ro

/-- RAS (R568). -/
def accRas (o : Nat) : Access :=
  match o with
  | 0x040 => .act
  | 0x048 => .rw m32
  | 0x04C => .rw 0xFFFF
  | 0x050 => .rw 0x1F
  | 0x058 => .rw 0xFFFF
  | 0x05C => .rw m32
  | 0x060 => .rw m32
  | 0x064 => .rw m32
  | 0x068 => .rw m32
  | 0x06C => .rw m32
  | 0x070 => .rw m32
  | 0x084 => .rw m32
  | 0x088 => .act
  | _ => .ro

/-- CPD page 0 (R590, R591). -/
def accCpd (inst o : Nat) : Access :=
  if inst ≠ 0 then .no
  else match o with
    | 0x044 => .rw 0xFFF
    | 0x048 => .rw 0x3F3F07
    | 0x054 => .act
    | _ => .ro

/-- TEL (R593). -/
def accTel (o : Nat) : Access :=
  match o with
  | 0x040 => .rw 0xFF01
  | 0x048 => .rw m32
  | 0x04C => .rw 0xFFFF
  | 0x060 => .rw m32
  | 0x064 => .rw m32
  | 0x068 => .rw m32
  | 0x06C => .rw m32
  | 0x070 => .rw m32
  | _ => .ro

/-- HUB pages 1 and 2 (R624, R661). -/
def accHub (inst o : Nat) : Access :=
  match inst, o with
  | 1, 0x040 => .rw m32
  | 1, 0x044 => .rw m32
  | 1, 0x048 => .act
  | 2, 0x048 => .rw m32
  | 2, 0x04C => .act
  | 2, 0x050 => .rw m32
  | 2, 0x054 => .rw 0xFFFF
  | 2, 0x058 => .rw 0x3FF
  | 2, 0x064 => .act
  | 2, 0x09C => .rw 0xFF
  | 2, 0x0A4 => .rw 0x1FF
  | _, _ => .ro

/-- MMU (R641). -/
def accMmu (o : Nat) : Access :=
  match o with
  | 0x040 => .rw m32
  | 0x044 => .rw 0xFFFF
  | 0x048 => .act
  | 0x050 => .rw 0xFFFF0000
  | 0x054 => .rw 0xFFFF
  | 0x058 => .rw m32
  | 0x060 => .rw m32
  | 0x064 => .rw 0xFFFF
  | 0x070 => .rw m32
  | 0x074 => .rw m32
  | _ => .ro

/-- QUE (R642, R643). -/
def accQue (o : Nat) : Access :=
  match o with
  | 0x040 => .rw 0xFF171F1F
  | 0x048 => .rw m32
  | 0x04C => .rw 0xFFFF
  | 0x050 => .rw m32
  | 0x054 => .rw 0xFFFF
  | 0x058 => .act
  | 0x060 => .act
  | 0x070 => .rw m32
  | 0x074 => .rw m32
  | _ => .ro

/-- HUB pages 4, 5 and 7 hold MSI-X tables, page 6 a pending-bit array; they carry no header (R661; log entry 86). -/
def isMsix (b : Block) (inst : Nat) : Bool := b == .hub && decide (4 ≤ inst) && decide (inst ≤ 7)

/-- The access of a register of a page. -/
def accessOf (b : Block) (inst o : Nat) : Access :=
  if isMsix b inst then
    (if inst = 6 then .ro else if inst = 7 ∧ 0x400 ≤ o then .ro else .rw (if o % 16 = 12 then 1 else if o % 16 = 0 then 0xFFFFFFFC else m32))
  else if o < 0x040 then accHdr o
  else match b with
    | .hub => accHub inst o
    | .cpd => accCpd inst o
    | .thl => accThl inst o
    | .clu => accClu o
    | .l2c => accL2c o
    | .sch => accSch inst o
    | .syn => accSyn o
    | .stk => accStk o
    | .sor => accSor inst o
    | .lnk => accLnk o
    | .col => accCol inst o
    | .rhz => accRhz o
    | .que => accQue o
    | .mmu => accMmu o
    | .tel => accTel o
    | .ras => accRas o
    | .tbl => accTbl o
    | .dsp => accDsp o
    | .mem => accMem o
    | .top => accTop o
    | .cor => accCor o

/-! ## What registers read as -/

def bit (p : Bool) (i : Nat) : Nat := if p then 2 ^ i else 0

def loHi (v : Nat) (hi : Bool) : Nat := if hi then v / 2 ^ 32 % 2 ^ 32 else v % 2 ^ 32

/-- Blocks that accept `CTRL.COMPAT` (R4). -/
def Block.compat (b : Block) : Bool := b == .l2c || b == .que || b == .lnk

/-- The slots that an activity of a block uses (R582, R589; log entry 87). -/
def Block.slots (b : Block) : Nat :=
  match b with
  | .sor => bit true 0 + bit true 1 + bit true 4 + bit true 5 + bit true 8
  | .rhz => bit true 0 + bit true 2 + bit true 4 + bit true 5 + bit true 7
  | .lnk => bit true 3 + bit true 4 + bit true 5
  | .cor => bit true 4 + bit true 5
  | .clu => bit true 4 + bit true 5
  | .l2c => bit true 4 + bit true 5 + bit true 9
  | .tbl => bit true 6 + bit true 7
  | .tel => bit true 6
  | .mem => bit true 6
  | .cpd => bit true 6 + bit true 10
  | _ => 0

/-- The common header (R631). -/
def State.readHdr (s : State) (b : Block) (inst pg o : Nat) : Nat :=
  match o with
  | 0x000 => b.code * 2 ^ 16 + inst % 256 * 2 ^ 8 + 1
  | 0x004 => 0x4201
  | 0x008 => bit b.compat 0
  | 0x010 => s.reg (pg + 0x010) % 8 / 4 * 4 + s.reg (pg + 0x010) % 2
  | 0x014 => s.reg (pg + 0x014) / 2 * 2 + s.reg (pg + 0x010) % 2
  | 0x024 => 0
  | 0x034 => b.slots
  | _ => s.reg (pg + o)

def State.readStk (s : State) (x o : Nat) : Option Nat :=
  let k := s.server x
  if 0x200 ≤ o ∧ o < 0x300 then
    let q := (o - 0x200) / 4
    let occ := s.queueOcc x q
    some (occ % 2048 + bit (occ == s.queueDepth x q) 16 + s.reg (pgStk x + o) / 2 ^ 24 * 2 ^ 24)
  else match o with
    | 0x044 => some (s.ctxBusy x + bit (!k.cmds.any fun c => c.refused.isNone && c.part.isNone) 16)
    | 0x304 =>
      let us := (List.range 32).map fun e => s.unit (32 * x + e)
      let idle := us.all (fun u => u.uq.isEmpty && u.uct.isEmpty) && !s.upk.any fun p => p.rcv == x && p.st == 1
      some (min 4095 (k.cmds.filter fun c => cOp c.raw == opFENCE && c.refused.isNone).length + bit idle 16)
    | 0x340 => some (s.top.decls.filter fun d => declRcv d == x).length
    | 0x348 => some (s.seqEntry x (s.reg (pgStk x + 0x344))).h
    | 0x34C =>
      let e := s.seqEntry x (s.reg (pgStk x + 0x344))
      some (e.epoch % 256 + 2 ^ 8 * e.win.length + bit e.valid 31)
    | _ => none

/-- State of a memory channel (R484, R485). -/
def State.readChan (s : State) (ch held : Nat) : Nat :=
  let c := s.chan ch
  c.st % 4 + 2 ^ 2 * (c.attempts % 4) + 2 ^ 16 * held

def State.pinnedEntries (s : State) (u : Nat) : Nat := ((s.unit u).uct.filter fun e => s.pinned e.sector).length

/-- Requests of a unit that wait for a channel. -/
def State.heldFor (s : State) (u ch : Nat) : Nat :=
  if (s.chan ch).st = 0 then 0 else min 512 ((s.unit u).rq.filter fun r => s.chanOf (64 * r.sector) == some ch).length

def State.readSor (s : State) (e o : Nat) : Option Nat :=
  let u := s.unit e
  match o with
  | 0x044 => some (min 2047 (u.rq.length + u.uq.length) + 2 ^ 16 * (s.liveRct e).length)
  | 0x078 =>
    let chs := [2 * e, 2 * e + 1]
    some (bit (u.rq.isEmpty && u.uq.isEmpty && u.fly.isEmpty) 0 + bit (chs.any fun c => (s.chan c).st == 2) 1
      + bit (chs.any fun c => (s.chan c).st == 1) 2
      + bit (decide (1 ≤ s.rfld (pgMem + 0x100 + 0x10 * (e / 32)) 8 2) && decide (s.rfld (pgMem + 0x100 + 0x10 * (e / 32)) 8 2 ≤ 2)) 3)
  | 0x104 => some (u.uct.length + 2 ^ 16 * s.pinnedEntries e)
  | 0x200 => some (min 64 u.chunks.length)
  | 0x290 => if e % 32 = 0 then some (min 4096 (s.openRows (e / 32)) + 2 ^ 16 * ((s.server (e / 32)).lastAct % 4)) else none
  | 0x300 => some (s.readChan (2 * e) (s.heldFor e (2 * e)))
  | 0x340 => some (s.readChan (2 * e + 1) (s.heldFor e (2 * e + 1)))
  | _ => none

def State.readTbl (s : State) (o : Nat) : Option Nat :=
  let t := s.reg (pgTbl + 0x050)
  match o with
  | 0x04C => some ((s.tables.filter (·.current)).length + 2 ^ 16 * (s.tables.filter fun v => !v.current).length)
  | 0x054 =>
    some (bit (s.current t).isSome 0 + 2 * (s.tables.filter fun v => v.tid == t && !v.current).length
      + bit ((s.moves.any fun m => m.tid == t) || s.servers.any fun p => p.2.cmds.any fun c =>
          cOp c.raw == opMIGROW && c.refused.isNone && cTable c.raw == t) 3
      + bit (match s.current t with | some v => s.placing v | none => false) 4)
  | 0x058 => some (match s.current t with | some v => v.epoch | none => 0)
  | 0x05C =>
    some (match s.current t with
      | some v => min 0xFFFFFFFF (s.servers.flatMap fun p => p.2.cmds.filter fun c =>
          c.part.isNone && c.refused.isNone && c.vers.contains (t, v.epoch)).length
      | none => 0)
  | _ => none

def State.readDsp (s : State) (o : Nat) : Option Nat :=
  match o with
  | 0x040 =>
    let oldest := s.disps.foldl (fun (acc : Option Disp) p => match acc with
      | some d => if p.2.serial < d.serial then some p.2 else acc
      | none => some p.2) none
    some (s.disps.length + 2 ^ 16 * min 0xFFFF ((oldest.map (·.round)).getD 0))
  | _ => none

def State.readCor (s : State) (c o : Nat) : Option Nat :=
  let k := s.core c
  let addr := fun (r : Option OpRef) => match r with | some op => op.desc | none => 0
  if 0x200 ≤ o ∧ o < 0x268 ∧ o % 8 = 4 then
    some (match nfind s.latch (pgCor c + o) with | some w => w.toNat | none => s.reg (pgCor c + o))
  else match o with
    | 0x044 =>
      let st := if !s.enabled (pgCor c) then 0 else if k.dbgHalt then 3 else if k.active.isSome && !k.idle then 2 else 1
      some (st + bit k.active.isSome 2 + bit k.prefetched.isSome 3 + bit k.gated 4 + bit k.inTrap 5)
    | 0x048 => some (nget s.boot.phys c 0)
    | 0x050 => some k.mxflags.toNat
    | 0x060 => some (loHi (addr k.active) false)
    | 0x064 => some (loHi (addr k.active) true)
    | 0x068 => some (loHi (addr k.prefetched) false)
    | 0x06C => some (loHi (addr k.prefetched) true)
    | 0x300 => some k.vcfg.toNat
    | 0x304 => some k.vflags.toNat
    | _ => none

def State.readL2c (s : State) (h o : Nat) : Option Nat :=
  let k := s.home h
  match o with
  | 0x044 =>
    some (bit k.invOk 0 + bit k.mbusy 1 + 2 ^ 4 * k.wayOff.length + 2 ^ 16 * (if s.enabled (pgL2c h) then k.carve else 0))
  | _ => none

def State.readClu (s : State) (h o : Nat) : Option Nat :=
  if 0x100 ≤ o ∧ o < 0x300 ∧ o % 0x40 = 4 then
    let k := s.seng (8 * h + (o - 0x100) / 0x40)
    some (min 64 k.queue.length + bit k.halt.isSome 8 + bit k.idle 9 + 2 ^ 10 * min 512 (s.sengOut (8 * h + (o - 0x100) / 0x40)))
  else if o = 0x044 then some ((List.range 8).foldl (fun a e => a + bit (s.seng (8 * h + e)).halt.isSome e) 0)
  else if 0x100 ≤ o ∧ o < 0x300 ∧ o % 0x40 = 0 then some (s.reg (pgClu h + o) % 4)
  else none

def State.readThl (s : State) (d o : Nat) : Option Nat :=
  if d = 0 ∧ 0x100 ≤ o ∧ o < 0x300 then
    let n := (o - 0x100) / 0x10
    match o % 0x10 with
    | 0x0 => some (s.fgCfg n)
    | 0xC =>
      some ((s.fgState n).arrived.length + 2 ^ 12 * s.fgStackMask n)
    | _ => none
  else none

def State.readSyn (s : State) (h o : Nat) : Option Nat :=
  let sel := s.reg (pgSyn h + 0x05C)
  let val := if bitOf sel 15 then (s.ctr h (sel % 32768)).value else (s.bead h (sel % 32768)).value.toNat
  match o with
  | 0x04C => some (min 2048 (s.home h).waiters.length)
  | 0x060 => some (s.objMeta h (sel % 65536))
  | 0x064 => some (loHi val false)
  | 0x068 => some (loHi val true)
  | _ => none

def State.readSch (s : State) (h o : Nat) : Option Nat :=
  let k := s.home h
  let g := nfind s.graphs (s.reg (pgSch 0 + 0x104))
  match o with
  | 0x048 =>
    some (min 1024 k.onList.length + (List.range 8).foldl (fun a p => a + bit (k.onList.any fun r => r.prio == p) (16 + p)) 0)
  | 0x04C => some (min 256 k.inbox.length + bit (decide (256 ≤ k.inbox.length)) 9)
  | 0x100 => if h = 0 then some s.graphs.length else none
  | 0x108 => if h ≠ 0 then none else some (match g with
      | some e => (match e.bad with | some (r, st) => r % 256 + 2 ^ 8 * (st % 256) | none => 0) + 2 ^ 31
      | none => 0)
  | 0x10C => if h ≠ 0 then none else some (match g with | some e => e.ended | none => 0)
  | 0x110 => if h ≠ 0 then none else some (match g with | some e => e.nops | none => 0)
  | 0x118 => if h ≠ 0 then none else some (match g with | some e => loHi e.header false | none => 0)
  | 0x11C => if h ≠ 0 then none else some (match g with | some e => loHi e.header true | none => 0)
  | _ => none

def State.readMem (s : State) (o : Nat) : Option Nat :=
  if 0x600 ≤ o ∧ o < 0x800 then
    let i := (o - 0x600) / 4
    some ((List.range 8).foldl (fun a j => a + 2 ^ (4 * j) * (s.mode (8 * i + j) % 4 + bit (s.regionMapped (8 * i + j)) 2)) 0)
  else match o with
    | 0x054 =>
      let sel := s.reg (pgMem + 0x050)
      some (match (nget s.repair (sel % 16) [])[fld sel 4 5]? with
        | some r => r % 2 ^ 25 + 2 ^ 31
        | none => 0)
    | _ => none

def State.readRhz (s : State) (d o : Nat) : Option Nat :=
  if 0x100 ≤ o ∧ o < 0x280 ∧ o % 0x10 = 0 then
    let ch := 1024 + 24 * d + (o - 0x100) / 0x10
    some (s.readChan ch (s.heldFor (512 + d) ch))
  else match o with
    | 0x040 => some (s.boot.rates.getD d 0 % 4)
    | 0x044 => some ((s.unit (512 + d)).uct.length + 2 ^ 16 * s.pinnedEntries (512 + d))
    | _ => none

def State.readLnk (s : State) (l o : Nat) : Option Nat :=
  let k := s.link l
  match o with
  | 0x044 => some (k.st % 8 + bit k.x4 3 + bit (k.x4 && k.half == 1) 4 + bit k.v2 5 + 2 ^ 8 * k.failed.toNat)
  | 0x048 => some (k.cls % 8 + (match k.pair with | some p => 2 ^ 4 * (p % 16) + 2 ^ 8 | none => 0))
  | 0x04C => some (match k.peer with
      | some p => p.coord.toNat + 2 ^ 18 * p.link.val + 2 ^ 22 * p.port.val + 2 ^ 25 * (if p.v2 then 2 else 3) + 2 ^ 31
      | none => 0)
  | 0x050 => some (match k.peer with | some p => loHi p.serial.toNat false | none => 0)
  | 0x054 => some (match k.peer with | some p => loHi p.serial.toNat true | none => 0)
  | 0x08C => some (min 4096 k.retry.length)
  | 0x090 => some (min 4096 (s.flowTx.filter fun f => f.link == some l).length)
  | _ => none

def State.readTop (s : State) (o : Nat) : Option Nat :=
  let fl := planFld (s.top.plan.getD []) 24 1
  match o with
  | 0x04C => some s.geoClass
  | 0x05C =>
    some (bit s.top.plan.isSome 0
      + bit (s.top.plan.isSome && (List.range 16).all fun l => !bitOf s.boot.links.toNat l || (s.link l).cls != 0) 1 + 2 ^ 2 * (fl % 8))
  | 0x068 => some (match s.top.slice with
      | some i => 1 + bit i.v2 1 + bit i.remote 2 + bit i.detour 3 + 2 ^ 16 * (i.rank % 1024)
      | none => 0)
  | 0x06C => some (match s.top.slice with | some i => i.origin.toNat | none => 0)
  | 0x070 => some (match s.top.slice with | some i => i.extent.toNat | none => 0)
  | 0x084 =>
    some ((List.range 8).foldl (fun a p =>
      a + 2 ^ (4 * p) * ((List.range 16).filter fun l => s.portOf l == some p && s.linkUp l).length) 0)
  | 0x0B0 => some (loHi s.now.toNat false)
  | 0x0B4 => some (match nfind s.latch (pgTop + 0x0B4) with | some w => w.toNat | none => loHi s.now.toNat true)
  | _ => none

def State.readCol (s : State) (i o : Nat) : Option Nat :=
  if i ≠ 0 then none
  else if 0x100 ≤ o ∧ o < 0x300 ∧ o % 0x20 = 4 then
    let k := s.colQ ((o - 0x100) / 0x20)
    some (k.head % 4096 + 2 ^ 16 * (k.cseq % 0x10000))
  else match o with
    | 0x044 =>
      some (min 8 (s.cols.filter fun p => match p.2.cur with | some c => c.running | none => false).length
        + bit s.top.abortCause.isSome 4 + bit s.slowNow 5)
    | _ => none

def State.readRas (s : State) (o : Nat) : Option Nat :=
  match o with
  | 0x044 =>
    let size := 2 ^ (s.rfld (pgRas + 0x050) 0 5)
    some (bit s.ras.halted 0 + bit s.ras.dfatal 1
      + bit ((s.rfld (pgRas + 0x054) 0 16 + 1) % size == s.rfld (pgRas + 0x058) 0 16 % size) 2
      + 2 ^ 16 * min 255 ((s.chans.filter fun c => c.2.st == 2).length + (s.links.filter fun l => l.2.drop.isSome).length
        + (s.links.filter fun l => l.2.nakOut).length + s.ras.recov.length))
  | _ => none

def State.readCpd (s : State) (i o : Nat) : Option Nat :=
  if i ≠ 0 then none
  else if 0x060 ≤ o ∧ o < 0x0E0 then some (s.clustReg ((o - 0x060) / 4))
  else match o with
    | 0x040 =>
      some (if s.pw.perst then 0 else bit s.pw.locked 0 + bit s.pw.refPcie 1 + bit s.pw.rackValid 2 + bit s.pw.pcieValid 3 + bit s.pw.holdover 4)
    | 0x04C => some (min 4095 s.avgInput + bit s.pw.capping 12 + bit s.pw.fast 13)
    | 0x050 => some (s.pw.frame % 2 ^ 32)
    | 0x058 => some (s.pw.slot % 16 + bit s.pw.holding 4)
    | 0x0E0 => some (s.tempReg 32 4)
    | 0x0E4 => some (s.tempReg 36 4)
    | 0x0E8 => some (s.tempReg 40 4)
    | 0x0EC => some (s.tempReg 44 2)
    | _ => none

def State.readTel (s : State) (o : Nat) : Option Nat :=
  match o with
  | 0x050 => some (loHi (s.pw.energy / 1000) false)
  | 0x054 => some (loHi (s.pw.energy / 1000) true)
  | _ => none

def State.popcount (n v : Nat) : Nat := ((List.range n).filter (bitOf v)).length

/-- Bits of a set of numbers that lie in one 32-bit register. -/
def bitsIn (l : List Nat) (lo : Nat) : Nat :=
  ((List.range 32).filter fun i => l.contains (lo + i)).foldl (fun a i => a + 2 ^ i) 0

def State.readHub (s : State) (p o : Nat) : Option Nat :=
  let b := s.boot
  if p = 6 then some (bitsIn (s.msix.filterMap fun e => if e.1 = 1 then some e.2 else none) (8 * o))
  else if p = 7 ∧ 0x400 ≤ o then some (bitsIn (s.msix.filterMap fun e => if e.1 = 0 then some e.2 else none) (8 * (o - 0x400)))
  else if p ≠ 2 then none
  else match o with
    | 0x040 => some (b.state % 16 + 2 ^ 8 * b.lastErr)
    | 0x05C => some (b.pprDone % 1024 + 2 ^ 16 * (b.pprSkip % 1024))
    | 0x060 => some (fusedSvn b.fuses + 2 ^ 8 * (manFld b.manifest 8 1 % 128))
    | 0x068 => some s.geoClass
    | 0x06C => some b.clusters.toNat
    | 0x070 => some b.stackSet.toNat
    | 0x074 => some (b.links.toNat + 2 ^ 16 * b.links4.toNat)
    | 0x078 => some (fld b.rhzMapped.toNat 0 32)
    | 0x07C => some (fld b.rhzMapped.toNat 32 32)
    | 0x080 => some (fld b.rhzMapped.toNat 64 32)
    | 0x084 => some ((List.range 16).foldl (fun a x =>
        if bitOf b.stackSet.toNat x then a + (if (s.outChan x).isSome then 62 else 64) else a) 0)
    | 0x088 => some (16 * State.popcount 96 b.rhzMapped.toNat)
    | 0x08C => some (loHi b.imgBase false)
    | 0x090 => some (loHi b.imgBase true)
    | 0x094 => some b.imgMib
    | 0x098 => some (min 1023 b.newDef)
    | 0x0A0 => some (match b.defects[s.reg (pgHub 2 + 0x09C) % 256]? with | some w => w.toNat | none => 0)
    | 0x0A8 => some (fuseFld s.fusesRead (4 * (s.reg (pgHub 2 + 0x0A4) % 512)) 4)
    | 0x0AC => some s.dbgStat
    | 0x0B0 => some b.errUnit.toNat
    | 0x0B4 => some b.bootMs
    | _ => none

/-- Commands of a queue accepted and not posted (R642, R652). -/
def State.accepted (s : State) (q : Nat) : Nat :=
  let k := s.hostQ q
  (k.cmds.filter fun c => !c.dup && k.window.any fun w => w.1 == c.cid).length

def State.readQue (s : State) (q o : Nat) : Option Nat :=
  let k := s.hostQ q
  match o with
  | 0x044 => some (s.accepted q % 0x10000 + bit (s.enabled (pgQue q) && s.cqFull (s.cqOf q)) 16 + bit (s.launchHeld q) 17)
  | 0x058 => some k.sqTail
  | 0x05C => some k.sqHead
  | 0x060 => some k.cqHead
  | 0x064 => some (k.cqTail + bit (s.enabled (pgQue q) && k.phase) 16)
  | _ => none

/-- A register that shows other state, if it is one. -/
def State.readLive (s : State) (b : Block) (inst o : Nat) : Option Nat :=
  match b with
  | .hub => s.readHub inst o
  | .cpd => s.readCpd inst o
  | .thl => s.readThl inst o
  | .clu => s.readClu inst o
  | .l2c => s.readL2c inst o
  | .sch => s.readSch inst o
  | .syn => s.readSyn inst o
  | .stk => s.readStk inst o
  | .sor => s.readSor inst o
  | .lnk => s.readLnk inst o
  | .col => s.readCol inst o
  | .rhz => s.readRhz inst o
  | .que => s.readQue inst o
  | .mmu => none
  | .tel => s.readTel o
  | .ras => s.readRas o
  | .tbl => s.readTbl o
  | .dsp => s.readDsp o
  | .mem => s.readMem o
  | .top => s.readTop o
  | .cor => s.readCor inst o

/-- What a 32-bit read of a BAR0 offset returns (R10, R629, R636). -/
def State.readReg (s : State) (off : Nat) : Nat :=
  let o := off % 0x1000
  let pg := off / 0x1000 * 0x1000
  match pageOf (off / 0x1000) with
  | none => 0
  | some (b, inst) =>
    -- in FAIL only the HUB pages serve (R595)
    if s.boot.state == 7 && b != .hub then 0
    else if isMsix b inst then (s.readHub inst o).getD (s.reg off)
    else if s.pageLive b inst = false then (if o = 0x000 ∨ o = 0x004 then s.readHdr b inst pg o else 0)
    else if o < 0x040 then s.readHdr b inst pg o
    else match accessOf b inst o with
      | .no => 0
      | _ =>
        match s.readLive b inst o with
        | some v => v
        | none => s.reg off

end Sys2Proof.Machine
end

