-- ==== Sys2Proof/Machine/RegWrite.lean ====
section
/-! DEFINITION. Machine/RegWrite.lean: writes of page registers: ranges, locked fields, actions, CTRL, and the latch of the
LO/HI counters (R4, R10, R11, R406, R516, R629, R631, R633, R635, R636, R662, R663). -/

namespace Sys2Proof.Machine

open Sys2Proof

/-- The state that a command's own meaning leads to. -/
def State.via (s : State) (o : Host.Outcome State Fault Refusal) : State :=
  match o with
  | .next t => t
  | _ => s

/-! ## Ranges (R662) -/

/-- One of the eight 4-bit fields of a value satisfies a condition. -/
def anyNibble (v : Nat) (p : Nat → Bool) : Bool := (List.range 8).any fun i => p (fld v (4 * i) 4)

/-- The sum of the classes' rates with one register at a new value (R481). -/
def State.rateSum (s : State) (o v : Nat) : Nat :=
  (List.range 8).foldl (fun a c => a + fld (if 0x060 + 4 * c = o then v else s.reg (pgMem + 0x060 + 4 * c)) 0 9) 0

/-- Why a value may not stand in a register (R108, R194, R228, R403, R432, R480, R481, R520, R521, R548, R568, R590 to R593,
R624, R635, R641, R643, R661, R662). -/
def State.regBad (s : State) (b : Block) (inst o v : Nat) : Option Nat :=
  let out := fun (lo w mn mx : Nat) => decide (fld v lo w < mn) || decide (mx < fld v lo w)
  let chk := fun (p : Bool) (r : Nat) => if p then some r else none
  if o = 0x030 then chk (bitOf v 9 && decide (64 ≤ fld v 0 9)) 0x01
  else match b, o with
    | .sor, 0x040 => chk (out 0 11 64 1024) 0x01
    | .sor, 0x048 => chk (out 0 11 64 1024) 0x01
    | .sor, 0x280 =>
      let cur := s.rfld (pgSor inst + 0x284) 0 5
      chk (out 0 5 6 20 || out 8 5 6 20 || decide (fld v 8 5 < fld v 0 5) || decide (cur < fld v 0 5) || decide (fld v 8 5 < cur)) 0x01
    | .sor, 0x284 =>
      let cfg := s.reg (pgSor inst + 0x280)
      chk (decide (fld v 0 5 < fld cfg 0 5) || decide (fld cfg 8 5 < fld v 0 5)) 0x01
    | .sor, 0x288 => chk (out 0 8 8 255 || decide (fld v 8 8 < 8) || decide (fld v 0 8 ≤ fld v 8 8)) 0x01
    | .sor, 0x28C => chk (out 0 8 1 255 || out 8 5 1 16) 0x01
    | .tbl, 0x044 => chk (out 0 10 0 1000) 0x01
    | .tbl, 0x048 => chk (out 0 7 1 64 || out 8 4 1 15) 0x01
    | .l2c, 0x040 => chk (out 0 4 0 8 || out 9 6 1 32) 0x01
    | .clu, 0x040 =>
      chk (fld v 0 4 == 0 || fld v 4 4 == 0 || fld v 8 4 == 0 || fld v 0 4 + fld v 4 4 + fld v 8 4 != 16) 0x01
    | .syn, 0x048 => chk (out 0 20 1 1000000) 0x01
    | .syn, 0x05C => chk (bitOf v 15 && decide (4096 ≤ fld v 0 15)) 0x01
    | .mem, 0x040 => chk (out 8 8 1 255) 0x01
    | .mem, 0x044 => chk (out 0 8 1 255) 0x01
    | .mem, _ =>
      if 0x060 ≤ o ∧ o < 0x080 then
        (if out 0 9 0 256 || out 16 16 64 65535 then some 0x01 else chk (decide (256 < s.rateSum o v)) 0x82)
      else none
    | .lnk, 0x040 => chk (out 8 16 1 65535) 0x01
    | .top, 0x078 => chk (anyNibble v fun n => decide (8 ≤ n) && n != 15) 0x01
    | .top, 0x07C => chk (anyNibble v fun n => decide (8 ≤ n) && n != 15) 0x01
    | .top, 0x080 => chk (anyNibble v fun n => decide (7 ≤ n)) 0x01
    | .top, 0x094 => chk (out 0 10 10 1000) 0x01
    | .col, 0x040 => chk (out 0 10 1 1000 || out 16 4 1 15) 0x01
    | .ras, 0x050 => chk (out 0 5 4 16) 0x01
    | .cpd, 0x044 => chk (out 0 12 1000 2500) 0x01
    | .cpd, 0x048 => chk (out 8 6 16 32 || out 16 6 16 32 || decide (fld v 8 6 < fld v 16 6)) 0x01
    | .tel, 0x040 => chk (out 8 8 1 255) 0x01
    | .hub, 0x040 => chk (inst == 1 && v != 0) 0x05
    | .hub, 0x044 => chk (inst == 1 && v % 1024 != 0) 0x05
    | .hub, 0x058 => chk (inst == 2 && decide (512 < v)) 0x01
    | .mmu, 0x058 => chk (v == 0) 0x01
    | .que, 0x040 => chk (out 0 5 4 16 || out 8 5 4 16) 0x01
    | _, _ => none

/-! ## Locked fields (R663) -/

/-- The bits of a register that take no write now. -/
def State.locked (s : State) (b : Block) (inst o : Nat) : Nat :=
  let when_ := fun (p : Bool) => if p then m32 else 0
  match b, o with
  | .mmu, 0x040 => when_ (s.enabled pgMmu)
  | .mmu, 0x044 => when_ (s.enabled pgMmu)
  | .ras, 0x048 => when_ (s.rbit (pgRas + 0x040) 3)
  | .ras, 0x04C => when_ (s.rbit (pgRas + 0x040) 3)
  | .ras, 0x050 => when_ (s.rbit (pgRas + 0x040) 3)
  | .que, 0x040 => when_ (s.enabled (pgQue inst))
  | .l2c, 0x040 => if s.enabled (pgL2c inst) then 0xF else 0
  | .top, 0x078 => when_ s.top.slice.isSome
  | .top, 0x07C => when_ s.top.slice.isSome
  | .top, 0x080 => when_ s.top.slice.isSome
  | .hub, 0x050 => when_ (inst == 2 && s.boot.state != 2)
  | .hub, 0x054 => when_ (inst == 2 && s.boot.state != 2)
  | .hub, 0x058 => when_ (inst == 2 && s.boot.state != 2)
  | .thl, _ => if 0x100 ≤ o then when_ (s.fgOn ((o - 0x100) / 0x10)) else 0
  | .syn, _ => if 0x100 ≤ o then when_ (s.fgOn ((o - 0x100) / 8)) else 0
  | .col, _ => if 0x100 ≤ o then when_ (s.rbit (pgColQ ((o - 0x100) / 0x20)) 0) else 0
  | _, _ => 0

/-- A repair-list register written outside `WAITFW` is refused whatever it would change (R624). -/
def State.lockedAlways (s : State) (b : Block) (inst o : Nat) : Bool :=
  b == .hub && inst == 2 && (o == 0x050 || o == 0x054 || o == 0x058) && s.boot.state != 2

/-- A write of a register that stores bits: reserved bits are ignored, locked ones keep their value, and a value out of range
changes nothing (R11, R662, R663). -/
def State.rwWrite (s : State) (b : Block) (inst off m v : Nat) : State :=
  let o := off % 0x1000
  let old := s.reg off
  let lk := s.locked b inst o
  let new := (v &&& m &&& (m32 - lk)) ||| (old &&& m &&& lk)
  match s.regBad b inst o new with
  | some r => if new = old &&& m then s.refuse off 0x0D else s.refuse off r
  | none =>
    -- an INTSTAT bit that INTEN enables now becomes set in the conjunction (R635)
    let s0 := if o = 0x02C then s.setIntEn (off - o) new else s.setReg off new
    let s1 := if off = pgCpd + 0x048 then s0.railsUp else s0
    if ((v ^^^ old) &&& m &&& lk) != 0 || s.lockedAlways b inst o then s1.refuse off 0x0D else s1

/-- `FAULTQ.VALID` clears when every QERR bit reads 0 (R104). -/
def State.qerrClear (s : State) (x : Nat) : State :=
  if s.reg (pgStk x + 0x048) = 0 ∧ s.reg (pgStk x + 0x04C) = 0 then s.setRfld (pgStk x + 0x050) 31 1 0 else s

/-- A write of a register whose bits a 1 clears. When every QERR bit is clear `FAULTQ.VALID` clears; a SYNEVT bit clears the
`VALID` of its info register (R10, R104, R432). -/
def State.w1cWrite (s : State) (b : Block) (inst off m v : Nat) : State :=
  let o := off % 0x1000
  let old := s.reg off
  let s1 := s.setReg off (old &&& (m32 - (v &&& m)))
  match b, o with
  | .stk, 0x048 => s1.qerrClear inst
  | .stk, 0x04C => s1.qerrClear inst
  -- clearing SPFLAGS.NT ends what NTPOS holds (R312)
  | .cor, 0x400 => if bitOf v 1 then s1.setReg (pgCor inst + 0x404) 0 else s1
  | .syn, 0x050 =>
    let s2 := if bitOf v 0 then s1.setRfld (pgSyn inst + 0x054) 31 1 0 else s1
    if bitOf v 1 then s2.setRfld (pgSyn inst + 0x058) 31 1 0 else s2
  | _, _ => s1

/-! ## CTRL (R4, R373, R487, R633, R636, R641, R643, R660) -/

/-- A configuration register of a page that stands outside its range when `EN` is set (R108, R194, R481, R591). -/
def State.cfgBad (s : State) (b : Block) (inst : Nat) : Option Nat :=
  let at_ := fun (pg o : Nat) => s.regBad b inst o (s.reg (pg + o))
  match b with
  | .sor => (at_ (pgSor inst) 0x040).or (at_ (pgSor inst) 0x048)
  | .tbl => at_ pgTbl 0x048
  | .mem => at_ pgMem 0x060
  | .cpd => if inst = 0 then at_ pgCpd 0x048 else none
  | .mmu =>
    let r := s.reg64 (pgMmu + 0x040) % 2 ^ 48
    if r % 4096 ≠ 0 then some 0x05 else if placeOf r ≠ Place.hbm then some 0x06 else none
  | _ => none

/-- `EN` is set while it reads 0: the block's check, then the block runs (R633). -/
def State.enSet (s : State) (b : Block) (inst pg : Nat) : State :=
  match b with
  | .cor => coreEnable s inst true
  | .l2c => l2Enable s inst
  | .que => s.queueEnable inst
  | _ => match s.cfgBad b inst with
    | some r => s.refuse (pg + 0x010) r
    | none => s.setEn pg true

/-- Another enabled queue page's `CQSEL` names a queue (R643). -/
def State.cqNamed (s : State) (q : Nat) : Bool :=
  (List.range 256).any fun p => p != q && s.enabled (pgQue p) && s.cqOf p == q

/-- `EN` is cleared while it reads 1 (R288, R372, R373, R643). -/
def State.enClear (s : State) (b : Block) (inst pg : Nat) : State :=
  match b with
  | .cor => coreEnable s inst false
  | .l2c => l2Disable s inst
  | .que => if s.accepted inst != 0 || s.cqNamed inst then s.refuse (pg + 0x010) 0x0D else s.setEn pg false
  | _ => s.setEn pg false

/-- A write of `CTRL`: `SOFTRST` acts in COR only; `COMPAT` where R4 accepts it and while its condition holds; a write that is
not refused clears REFUSED and REASON (R4, R287, R633). -/
def State.ctrlWrite (s : State) (b : Block) (inst pg v : Nat) : State :=
  let off := pg + 0x010
  let en := s.rbit off 0
  let turn := b.compat && (bitOf v 2 != s.rbit off 2)
  let free := if b = .lnk then (s.link inst).held else !en
  if bitOf v 1 && b != .cor then s.refuse off 0x01
  else if bitOf v 2 && !b.compat then s.refuse off 0x0F
  else
    let s0 := (s.setRfld (pg + 0x014) 1 1 0).setReg (pg + 0x018) 0
    let s1 := if turn && free then s0.setRfld off 2 1 (if bitOf v 2 then 1 else 0) else s0
    let s2 := if bitOf v 1 then s1.resetCore inst else s1
    let s3 := if bitOf v 0 && !en then s2.enSet b inst pg else if !bitOf v 0 && en then s2.enClear b inst pg else s2
    if turn && !free then s3.refuse off 0x0D else s3

/-! ## Actions -/

/-- CORECFG: `PARTEN` takes writes only while both work slots are empty; setting `NOPLACE` expires a hold for the core
(R285, R288). -/
def State.corecfg (s : State) (c v : Nat) : State :=
  let off := pgCor c + 0x040
  let k := s.core c
  let old := s.reg off
  let empty := k.active.isNone && k.prefetched.isNone
  let part := if empty then v % 2 else old % 2
  let s1 := s.setReg off (part + 2 * (v / 2 % 2))
  let s2 := if bitOf v 1 then s1.via (execAffinityHoldExpiry (Fin.ofNat 2048 c) s1) else s1
  if !empty && v % 2 != old % 2 then s2.refuse off 0x0D else s2

/-- DBGCTL: refused while core debug is locked; its bits act in the order of their numbers (R285, R286). -/
def State.dbgctl (s : State) (c v : Nat) : State :=
  let f := fun (k : Core) =>
    let k1 := if bitOf v 0 then { k with dbgHalt := true, stepping := false } else k
    let k2 := if bitOf v 1 then { k1 with dbgHalt := false, stepping := false } else k1
    if bitOf v 2 then { k2 with stepping := true } else k2
  dbgCtl s c f

/-- MAINT (R366, R377). -/
def State.maint (s : State) (h v : Nat) : State :=
  match v % 8 with
  | 1 => maintRange s h .clean
  | 2 => maintRange s h .flush
  | 3 => maintRange s h .invalidate
  | 4 => maintAll s h .clean
  | 5 => maintAll s h .flush
  | 6 => maintAll s h .invalidate
  | _ => s.refuse (pgL2c h + 0x048) 0x01

/-- SECFG: clearing `EN` needs an engine that holds no descriptor; `SRST` resets one that is held and idle (R403, R404). -/
def State.secfg (s : State) (e v : Nat) : State :=
  let off := pgSeng e
  let idle := (s.seng e).idle
  let hold := s.rbit off 1
  let clear := s.rbit off 0 && !bitOf v 0
  let s1 := if bitOf v 2 then (if hold && idle then s.resetSeng e else s) else s
  let s2 := s1.setReg off ((if clear && !idle then 1 else v % 2) + 2 * (v / 2 % 2))
  if (clear && !idle) || (bitOf v 2 && !(hold && idle)) then s2.refuse off 0x0D else s2

/-- A selected cluster, core or stack of a channel is disabled (R431). -/
def State.fgDisabled (s : State) (n : Nat) : Bool :=
  ((List.range 32).any fun h => s.rbit (fgBase n + 4) h && !bitOf s.boot.clusters.toNat h)
    || ((s.fgCores n).any fun c => !s.enabled (pgCor c))
    || ((s.fgStacks n).any fun x => !bitOf s.boot.stackSet.toNat x || (s.server x).fenced)

/-- FGCFG: setting `EN` checks the participants and starts the channel at phase 0; clearing it ends the waits (R420, R422,
R431). -/
def State.fgcfg (s : State) (n v : Nat) : State :=
  let off := fgBase n
  if bitOf v 0 && !s.fgOn n then
    if (s.fgCores n).isEmpty then s.refuse off 0x01
    else if s.fgDisabled n then s.refuse off 0x0A
    else (s.setFg n {}).setReg off 1
  else if !bitOf v 0 && s.fgOn n then (s.setReg off 0).fgFail n
  else s

/-- CQCFG of a collective queue: `QLOG` and, when it is set, the checks of `EN` (R548). -/
def State.colcfg (s : State) (q v : Nat) : State :=
  let off := pgColQ q
  let old := s.reg off
  if fld v 1 4 < 6 ∨ 12 < fld v 1 4 then s.refuse off 0x01
  else if bitOf old 0 then
    let s1 := s.setReg off (old / 2 * 2 + v % 2)
    if fld v 1 4 != fld old 1 4 then s1.refuse off 0x0D else s1
  else
    let s1 := s.setReg off (fld v 1 4 * 2)
    if !bitOf v 0 then s1
    else if s.reg64 (off + 0x08) % 64 != 0 || s.reg64 (off + 0x10) % 8 != 0 || s.reg64 (off + 0x18) % 8 != 0 then s1.refuse off 0x05
    else
      let (p, s2) := s1.xlate (agLinkDie 0) (s.reg64 (off + 0x10) % 2 ^ 48) true false
      match p.bind fun p => s2.objAt p.pa with
      | some (.ctr _ _) => s2.setReg off (fld v 1 4 * 2 + 1)
      | _ => s2.refuse off 0x06

/-- RASCFG: `INTMIN` 5 to 7 is refused; setting `LOGEN` checks the ring (R568). -/
def State.rascfg (s : State) (v : Nat) : State :=
  let off := pgRas + 0x040
  let base := s.reg64 (pgRas + 0x048) % 2 ^ 48
  if 4 < v % 8 then s.refuse off 0x01
  else if bitOf v 3 && !s.rbit off 3 then
    if base % 4096 ≠ 0 then s.refuse off 0x05
    else if !inHbmOrHost base (32 * 2 ^ s.rfld (pgRas + 0x050) 0 5) then s.refuse off 0x06
    else s.setReg off (v % 32)
  else s.setReg off (v % 32)

/-- INVCMD (R641). -/
def State.invcmd (s : State) (v : Nat) : State :=
  match v % 4 with
  | 1 => s.via (execInvcmdAll s)
  | 2 => s.via (execInvcmdRange s)
  | _ => s.refuse (pgMmu + 0x048) 0x01

/-- LCTL: its bits act in the order RETRAIN, HOLD, RELEASE (R520). -/
def State.lctl (s : State) (l v : Nat) : State :=
  let lk : LinkId := Fin.ofNat 16 l
  let s1 := if bitOf v 0 then s.via (execRetrain lk s) else s
  let s2 := if bitOf v 1 then s1.via (execLinkHold lk s1) else s1
  if bitOf v 2 then s2.via (execLinkRelease lk s2) else s2

/-- The registers whose write is an action. -/
def State.actWrite (s : State) (fn : Fn) (b : Block) (inst off v : Nat) : State :=
  let o := off % 0x1000
  let pg := off / 0x1000 * 0x1000
  let one := fun (r : Host.Outcome State Fault Refusal) => if bitOf v 0 then s.via r else s
  if o = 0x010 then s.ctrlWrite b inst pg v
  else if o = 0x024 then s.errinj off v
  else match b, o with
    | .stk, _ => s.cqcfg inst ((o - 0x100) / 4) v
    | .sor, 0x100 => one (execUctctlFlush (Fin.ofNat 512 inst) s)
    | .sor, 0x108 => s.via (execSrseedWrite (Fin.ofNat 512 inst) (BitVec.ofNat 32 v) s)
    | .sor, 0x304 => if bitOf v 0 then askRetrain s (2 * inst) else s
    | .sor, 0x344 => if bitOf v 0 then askRetrain s (2 * inst + 1) else s
    | .cor, 0x040 => s.corecfg inst v
    | .cor, 0x04C => s.setReg off (if v = 0 then 1 else v)
    | .cor, 0x308 => s.setReg off (if v = 0 then 1 else v)
    | .cor, 0x058 => s.dbgctl inst v
    | .l2c, 0x048 => s.maint inst v
    | .clu, _ => s.secfg (8 * inst + (o - 0x100) / 0x40) v
    | .thl, _ => s.fgcfg ((o - 0x100) / 0x10) v
    | .syn, 0x074 => dbgSet s inst v
    | .mem, 0x048 => if bitOf v 0 then rgncommit s else s
    | .rhz, _ => if bitOf v 0 then askRetrain s (1024 + 24 * inst + (o - 0x100) / 0x10) else s
    | .lnk, 0x058 => s.lctl inst v
    | .top, 0x058 => one (execPlanLoad s)
    | .top, 0x074 => one (execDissolve s)
    | .top, 0x090 => one (execDetload s)
    | .col, _ => s.colcfg ((o - 0x100) / 0x20) v
    | .ras, 0x040 => s.rascfg v
    | .ras, 0x088 => one (execHaltctlHalt s)
    | .cpd, 0x054 => s.via (execSlotenWrite (BitVec.ofNat 32 v) s)
    | .hub, 0x048 => s.devrst fn v
    | .hub, 0x04C => fwaddrHi v s
    | .hub, 0x064 => one (execArbctlCommit s)
    | .mmu, 0x048 => s.invcmd v
    | .que, 0x058 => s.via (execSqtailDoorbell (Fin.ofNat 256 inst) (BitVec.ofNat 32 v) s)
    | .que, 0x060 => s.via (execCqheadDoorbell (Fin.ofNat 256 inst) (BitVec.ofNat 32 v) s)
    | _, _ => s

/-! ## The commands -/

/-- A 32-bit write: ignored where no page stands, from PF1 to HUB and CPD pages, and, `EN` apart, in the page of a unit that is
off (R629, R636). -/
def State.write32 (s : State) (fn : Fn) (off v : Nat) : State :=
  let o := off % 0x1000
  match pageOf (off / 0x1000) with
  | none => s
  | some (b, inst) =>
    if !s.serves b || off % 4 != 0 then s
    else if fn == .pf1 && decide (off / 0x1000 < 0x50) then s
    else if !s.pageLive b inst then (if o = 0x010 ∧ bitOf v 0 = true then s.refuse off 0x0A else s)
    else match accessOf b inst o with
      | .no => s
      | .ro => s
      | .rw m => s.rwWrite b inst off m v
      | .w1c m => s.w1cWrite b inst off m v
      | .act => s.actWrite fn b inst off v

/-- REGISTER_WRITE: an aligned 64-bit write writes LO, then HI (R629); every other register rule is its chapter's. -/
def execRegisterWrite (fn : Fn) (off : Bar0Off) (v : RegVal) (s : State) : Host.Outcome State Fault Refusal :=
  match v with
  | .w32 w => .next (s.write32 fn off.toNat w.toNat)
  | .w64 w =>
    if off.toNat % 8 ≠ 0 then .next s
    else .next ((s.write32 fn off.toNat (w.toNat % 2 ^ 32)).write32 fn (off.toNat + 4) (w.toNat / 2 ^ 32))

/-- CTRL_EN_SET: `CTRL.EN` of a page is written 1, its other bits as they stand (R633). -/
def execCtrlEnSet (fn : Fn) (page : Bar0Page) (s : State) : Host.Outcome State Fault Refusal :=
  let off := page.val * 0x1000 + 0x010
  match pageOf page.val with
  | some (b, inst) =>
    if isMsix b inst then .next s
    else .next (s.write32 fn off (1 + 4 * (s.reg off / 4 % 2)))
  | none => .next s

/-- LO_READ_LATCH: reading `STALLc_LO`, `STALLALL_LO` or `TSNOW_LO` latches the upper half (R406, R521). -/
def execLoReadLatch (off : Bar0Off) (s : State) : Host.Outcome State Fault Refusal :=
  if !s.serves .cor then .next s else
  let o := off.toNat
  let hi := fun (v : Nat) => Host.Outcome.next { s with latch := nset s.latch (o + 4) (BitVec.ofNat 32 v) }
  match pageOf (o / 0x1000) with
  | some (.cor, c) =>
    if s.pageLive .cor c && decide (0x200 ≤ o % 0x1000) && decide (o % 0x1000 < 0x268) && o % 8 == 0 then hi (s.reg (o + 4)) else .next s
  | some (.top, _) => if o % 0x1000 = 0x0B0 then hi (loHi s.now.toNat true) else .next s
  | _ => .next s

end Sys2Proof.Machine
end

