-- ==== Sys2Proof/Machine/Vector.lean ====
section
/-! DEFINITION. Machine/Vector.lean: the vector engine (R314 to R346). -/

namespace Sys2Proof.Machine

open Sys2Proof

/-! ## Vector state and operands -/

/-- VLMAX of a format (R315). -/
def vlMax (f : Nat) : Nat := if fmtBits f = 0 then 0 else min 1024 (8192 / fmtBits f)

/-- Fields of `vcfg` (R317). -/
def Core.vfmt (k : Core) : Nat := fld k.vcfg.toNat 0 4
def Core.vmsel (k : Core) : Nat := fld k.vcfg.toNat 4 4
def Core.vl (k : Core) : Nat := fld k.vcfg.toNat 8 11

def Core.mask (k : Core) (m : Nat) : Nat := (nget k.masks m 0).toNat

/-- The governing mask of a mask selection, if one is enabled (R317, R320). -/
def maskNo (msel : Nat) : Option Nat := if bitOf msel 3 then some (msel % 8) else none

/-- Whether element i is active (R320). -/
def Core.active? (k : Core) (msel i : Nat) : Bool :=
  match maskNo msel with
  | some m => bitOf (k.mask m) i
  | none => true

/-- Formats of arithmetic, unary, compare and reduction instructions (R327). -/
def vArithFmt (f : Nat) : Bool := f == 0 || f == 1 || f == 2 || f == 7 || f == 9

/-- Formats of 8, 16 or 32 bits (R338). -/
def vMoveFmt (f : Nat) : Bool := decide (f ≤ 9) && (fmtBits f == 8 || fmtBits f == 16 || fmtBits f == 32)

/-- Format, mask selection, zeroing and second operand of a form (R323 to R326). -/
structure VArgs where
  fmt : Nat
  msel : Nat
  zm : Bool
  vs2 : Option Nat
  imm : Nat

def Core.args (k : Core) : VForm → VArgs
  | .w32 vs2 zm => ⟨k.vfmt, k.vmsel, zm, some vs2.val, 0⟩
  | .w64 vs2 fmt msk zm => ⟨fmt.toNat, msk.toNat, zm, some vs2.val, 0⟩
  | .imm i zm => ⟨k.vfmt, k.vmsel, zm, none, i.toNat⟩

/-- The immediate fits its format (R326). -/
def VArgs.immOk (a : VArgs) : Bool := a.vs2.isSome || decide (a.imm < 2 ^ fmtBits a.fmt)

/-- vs2 is 0 in a form that does not use it, and no immediate stands there (R323, R326). -/
def VArgs.unused (a : VArgs) : Bool := a.vs2 == some 0

/-- Elements of a slot. -/
def Core.elems (k : Core) (v f : Nat) : List Nat := unpack (fmtBits f) k.vl (k.vslot v)

/-- Elements of the second operand, the immediate broadcast (R326). -/
def Core.second (k : Core) (a : VArgs) : List Nat :=
  match a.vs2 with
  | some v => k.elems v a.fmt
  | none => List.replicate k.vl a.imm

/-- The mask registers and vector slots a form reads besides vs1. -/
def VArgs.slots (a : VArgs) : List Nat := a.vs2.toList

/-- Whether some source is marked poisoned (R342). -/
def Core.vSrcBad (k : Core) (slots : List Nat) (msel : Nat) : Bool :=
  slots.any (k.vBad.contains ·) || (maskNo msel).any (k.maskBad.contains ·)

/-- Write elements from element 0, a `none` left unchanged (R319, R320). -/
def putElems (w : Nat) : Nat → List (Option Nat) → Nat
  | _, [] => 0
  | old, o :: l => (o.getD old) % 2 ^ w + 2 ^ w * putElems w (old / 2 ^ w) l

/-- Active elements take the value; inactive ones merge or become +0 (R320). -/
def Core.masked (k : Core) (msel : Nat) (zm : Bool) (vals : List Nat) : List (Option Nat) :=
  (vals.zip (List.range vals.length)).map fun (x, i) =>
    if k.active? msel i then some x else if zm then some 0 else none

/-- Number of active elements below VL. -/
def Core.nActive (k : Core) (msel : Nat) : Nat := ((List.range k.vl).filter (k.active? msel)).length

/-- Counters of a completed vector instruction: instructions and active elements (R345). -/
def State.vCount (s : State) (c n : Nat) : State := (s.count64 (pgCor c + 0x310) 1).count64 (pgCor c + 0x320) n

/-- Write a destination slot and complete: a poisoned source marks it, writing it whole from clean data clears the
mark (R342). With VL 0 nothing is written (R321). -/
def State.vFinish (s : State) (c vd w : Nat) (els : List (Option Nat)) (fl : Flags) (bad : Bool) (n : Nat) : State :=
  if els.isEmpty then s.vCount c n
  else
    let whole := els.length * w == 8192 && els.all (·.isSome)
    let s1 := s.modCore c fun k =>
      let k1 := (k.setV vd (setFld (k.vslot vd) 0 (els.length * w) (putElems w (k.vslot vd) els))).addV fl
      { k1 with vBad := if bad then addOnce k.vBad vd else if whole then k.vBad.filter (· != vd) else k.vBad }
    (if bad then s1.markPoison c else s1).vCount c n

/-- Write a destination mask register and complete (R342). -/
def State.vFinishMask (s : State) (c md : Nat) (bits : List (Option Nat)) (fl : Flags) (bad : Bool) (n : Nat) : State :=
  if bits.isEmpty then s.vCount c n
  else
    let whole := bits.length == 1024 && bits.all (·.isSome)
    let s1 := s.modCore c fun k =>
      let v := setFld (k.mask md) 0 bits.length (putElems 1 (k.mask md) bits)
      { (k.addV fl) with
        masks := nset k.masks md (BitVec.ofNat 1024 v)
        maskBad := if bad then addOnce k.maskBad md else if whole then k.maskBad.filter (· != md) else k.maskBad }
    (if bad then s1.markPoison c else s1).vCount c n

/-- The checks every vector instruction makes at issue (R259, R283, R319). -/
def State.vGuard (s : State) (c : Nat) (op : EngOp) (ok : Bool) (slots : List Nat) (f : State → IRes) : IRes :=
  if !ok then illegal op s
  else if s.anyBreach c [] [] slots then partTrap c op s
  else f s

/-! ## Arithmetic -/

/-- Integer arithmetic of `w` bits (R329); `d` is the element of vd. VABS and VNEG change the top bit, as the table
states them (log entry 26). -/
def vInt (op : VArith) (w x y d : Nat) : Nat × Flags :=
  let sx := sgn w x
  let sy := sgn w y
  let sh := y % (if w = 32 then 32 else 8)
  match op with
  | .add => (unsgn w (sx + sy), 0)
  | .sub => (unsgn w (sx - sy), 0)
  | .mul => (unsgn w (sx * sy), 0)
  | .div => if sy = 0 then (0, fDZ) else (unsgn w (sx.tdiv sy), 0)
  | .max => (if sx < sy then y else x, 0)
  | .min => (if sy < sx then y else x, 0)
  | .fma => (unsgn w (sx * sy + sgn w d), 0)
  | .fms => (unsgn w (sx * sy - sgn w d), 0)
  | .abs => (x % 2 ^ (w - 1), 0)
  | .neg => (x ^^^ 2 ^ (w - 1), 0)
  | .sqrt => (x, 0)
  | .and => (x &&& y, 0)
  | .or => (x ||| y, 0)
  | .xor => (x ^^^ y, 0)
  | .shl => (x * 2 ^ sh % 2 ^ w, 0)
  | .sra => (unsgn w (sx / (2 ^ sh : Nat)), 0)

/-- Floating arithmetic (R328). -/
def vFloat (op : VArith) (f : FFmt) (x y d : Nat) : Nat × Flags :=
  let top := 2 ^ (f.ebits + f.mbits)
  match op with
  | .add => fAdd f x y
  | .sub => fSub f x y
  | .mul => fMul f x y
  | .div => fDiv f x y
  | .max => fMaxMin f true x y
  | .min => fMaxMin f false x y
  | .fma => fFma f x y d
  | .fms => fFma f x y (f.negPat d)
  | .abs => (x % top, 0)
  | .neg => (x ^^^ top, 0)
  | .sqrt => fSqrt f x
  | .and => (x &&& y, 0)
  | .or => (x ||| y, 0)
  | .xor => (x ^^^ y, 0)
  | .shl => (x, 0)
  | .sra => (x, 0)

def vElem (op : VArith) (fmt x y d : Nat) : Nat × Flags :=
  match ffmt fmt with
  | some f => vFloat op f x y d
  | none => vInt op (fmtBits fmt) x y d

/-- Formats an arithmetic instruction accepts (R327, R329; log entry 27: integer VDIV runs). -/
def VArith.fmtOk (op : VArith) (f : Nat) : Bool :=
  match op with
  | .sqrt => f == 0 || f == 1 || f == 2
  | .shl => f == 7 || f == 9
  | .sra => f == 7 || f == 9
  | _ => vArithFmt f

/-- Whether an instruction reads vs2 (R323). -/
def VArith.binary (op : VArith) : Bool := !(op == .abs || op == .neg || op == .sqrt)

def VArith.readsVd (op : VArith) : Bool := op == .fma || op == .fms

/-- Arithmetic and unary instructions (R323, R326 to R329). -/
def varithInstr (c : Nat) (op : VArith) (vd vs1 : VSlot) (f : VForm) (s : State) : IRes :=
  let k := s.core c
  let a := k.args f
  let ok := op.fmtOk a.fmt && decide (k.vl ≤ vlMax a.fmt) && a.immOk && (op.binary || a.unused)
  s.vGuard c (.varith op vd vs1 f) ok ([vd.val, vs1.val] ++ (if op.binary then a.slots else [])) fun s =>
    let res := ((k.elems vs1.val a.fmt).zip ((k.second a).zip (k.elems vd.val a.fmt))).map fun (x, y, d) =>
      vElem op a.fmt x y d
    let fl := (res.zip (List.range k.vl)).foldl (fun fl (r, i) => if k.active? a.msel i then fl ||| r.2 else fl) 0
    let src := [vs1.val] ++ (if op.binary then a.slots else []) ++ (if op.readsVd then [vd.val] else [])
    .done (s.vFinish c vd.val (fmtBits a.fmt) (k.masked a.msel a.zm (res.map (·.1))) fl (k.vSrcBad src a.msel)
      (k.nActive a.msel))

/-! ## Compare and masks -/

/-- A relation from an order (R330). -/
def VCmp.holds (op : VCmp) (o : Ordering) : Bool :=
  match op with
  | .eq => o == .eq
  | .ne => o != .eq
  | .lt => o == .lt
  | .le => o != .gt
  | .gt => o == .gt
  | .ge => o != .lt
  | .unord => false

/-- Compare two elements (R330). -/
def vCompare (op : VCmp) (fmt x y : Nat) : Bool × Flags :=
  let a := decodeElem fmt x
  let b := decodeElem fmt y
  if a.isNan || b.isNan then
    match op with
    | .ne => (true, 0)
    | .unord => (true, 0)
    | .eq => (false, 0)
    | _ => (false, fNV)
  else (op.holds (a.cmp b), 0)

/-- Compares (R323, R326, R330). -/
def vcmpInstr (c : Nat) (op : VCmp) (md : MaskId) (vs1 : VSlot) (f : VForm) (s : State) : IRes :=
  let k := s.core c
  let a := k.args f
  let ok := vArithFmt a.fmt && decide (k.vl ≤ vlMax a.fmt) && a.immOk
  s.vGuard c (.vcmp op md vs1 f) ok (vs1.val :: a.slots) fun s =>
    let res := ((k.elems vs1.val a.fmt).zip (k.second a)).map fun (x, y) => vCompare op a.fmt x y
    let fl := (res.zip (List.range k.vl)).foldl (fun fl (r, i) => if k.active? a.msel i then fl ||| r.2 else fl) 0
    .done (s.vFinishMask c md.val (k.masked a.msel a.zm (res.map fun r => if r.1 then 1 else 0)) fl
      (k.vSrcBad (vs1.val :: a.slots) a.msel) (k.nActive a.msel))

/-- VMLOG (R331). VL bounds the bits written; it is not masked. -/
def vmlogInstr (c : Nat) (md ms1 ms2 : MaskId) (lop : LopCode) (s : State) : IRes :=
  let k := s.core c
  s.vGuard c (.vmlog md ms1 ms2 lop) (decide (lop.val ≤ 5)) [] fun s =>
    let bits := (List.range k.vl).map fun i =>
      let p := bitOf (k.mask ms1.val) i
      let q := bitOf (k.mask ms2.val) i
      let r := match lop.val with
        | 0 => p && q
        | 1 => p || q
        | 2 => p != q
        | 3 => p && !q
        | 4 => !p
        | _ => true
      some (if r then 1 else 0)
    let reads := if lop.val = 5 then [] else if lop.val = 4 then [ms1.val] else [ms1.val, ms2.val]
    .done (s.vFinishMask c md.val bits 0 (reads.any (k.maskBad.contains ·)) k.vl)

/-- VMPOP (R321, R331). -/
def vmpopInstr (c : Nat) (rd : XReg) (ms : MaskId) (s : State) : IRes :=
  let k := s.core c
  s.vGuard c (.vmpop rd ms) true [] fun s =>
    .done ((s.setXn c rd (ones (k.mask ms.val) k.vl)).vCount c k.vl)
where
  ones (v n : Nat) : Nat := ((List.range n).filter (bitOf v)).length

/-- VSETVL (R318). -/
def vsetvlInstr (c : Nat) (rd rs1 : XReg) (vfmt : FmtCode) (msel : Nibble) (s : State) : IRes :=
  let k := s.core c
  let f := vfmt.toNat
  s.vGuard c (.vsetvl rd rs1 vfmt msel) (decide (f ≤ 9)) [] fun s =>
    let vl := if rs1.val = 0 then vlMax f else min (k.getX rs1).toNat (vlMax f)
    let s1 := s.modCore c fun k => { k with vcfg := BitVec.ofNat 19 (f + 16 * msel.toNat + 256 * vl) }
    .done ((s1.setXn c rd vl).vCount c 0)

/-! ## Conversion -/

/-- Convert the active elements in order, the generator advancing once for each (R40, R320, R332). -/
def convertActive (src dst : Nat) (sr : Bool) (act : Nat → Bool) : Nat → Word → List Nat → List Nat × Flags × Word
  | _, x, [] => ([], 0, x)
  | i, x, p :: l =>
    if act i then
      let x1 := if sr then xorshift x else x
      let (r, f) := convertElem (if sr then .stochastic (randOf x1) else .nearest) src dst p
      let (rs, fs, x2) := convertActive src dst sr act (i + 1) x1 l
      (r :: rs, f ||| fs, x2)
    else
      let (rs, fs, x2) := convertActive src dst sr act (i + 1) x l
      (0 :: rs, fs, x2)

/-- ⌊log2⌋ of a value's magnitude. -/
def FVal.log2 : FVal → Int
  | .num _ m e => e + (Nat.log2 m : Int)
  | _ => 0

/-- The scale byte of a block of values on conversion to a narrow format (R333): 255 for a NaN or infinity, 127 for all
zeros. -/
def blockScale (dst : Nat) (vs : List FVal) : Nat :=
  let special := vs.any fun v => match v with
    | .num _ _ _ => false
    | _ => true
  let nz := vs.filter fun v => !v.isZero
  if special then 255
  else
    match nz with
    | [] => 127
    | v :: l =>
      let top := l.foldl (fun t x => max t x.log2) v.log2
      let emax : Int := match dst with
        | 3 => 8
        | 4 => 15
        | 5 => 4
        | _ => 2
      (min 254 (max 0 (top - emax + 127))).toNat

/-- One element to a narrow format under scale byte `e` (R333): saturation with OF and NX in every format. -/
def toNarrow (f : FFmt) (mode : RMode) (e : Nat) (v : FVal) : Nat × Flags :=
  if e = 255 then f.encode mode .nan
  else
    let (p, fl) := f.encode mode (v.scale (127 - (e : Int)))
    if fl &&& fOF ≠ 0 then (f.signBit v.isNeg + f.maxPat, fOF ||| fNX) else (p, fl)

/-- Elements of consecutive blocks to a narrow format (R333). -/
def narrowAll (f : FFmt) (sr : Bool) (scales : List Nat) : Nat → Word → List FVal → List Nat × Flags × Word
  | _, x, [] => ([], 0, x)
  | i, x, v :: l =>
    let x1 := if sr then xorshift x else x
    let (r, fl) := toNarrow f (if sr then .stochastic (randOf x1) else .nearest) (scales.getD (i / 32) 127) v
    let (rs, fs, x2) := narrowAll f sr scales (i + 1) x1 l
    (r :: rs, fl ||| fs, x2)

/-- Elements of consecutive blocks to a wide format (R333). -/
def wideAll (f : FFmt) (sr : Bool) (src : Nat) (scale : Nat) : Nat → Word → List Nat → List Nat × Flags × Word
  | _, x, [] => ([], 0, x)
  | i, x, p :: l =>
    let x1 := if sr then xorshift x else x
    let e := fld scale (8 * (i / 32)) 8
    let v : FVal := if e = 255 then .nan else (decodeElem src p).scale ((e : Int) - 127)
    let (r, fl) := f.encode (if sr then .stochastic (randOf x1) else .nearest) v
    let (rs, fs, x2) := wideAll f sr src scale (i + 1) x1 l
    (r :: rs, fl ||| fs, x2)

def isWide (f : Nat) : Bool := decide (f ≤ 2)
def isNarrow (f : Nat) : Bool := decide (3 ≤ f ∧ f ≤ 6)

/-- VL is a multiple of what a format of 6 or 4 bits requires (R332). -/
def vlFits (f vl : Nat) : Bool :=
  if f = 5 then vl % 4 == 0 else if f = 6 ∨ f = 8 then vl % 2 == 0 else true

/-- The operands of VCVT. -/
structure CvtArgs where
  src : Nat
  dst : Nat
  msel : Nat
  sr : Bool
  mx : Bool
  scs : Nat
  zm : Bool

def Core.cvtArgs (k : Core) : VCvtForm → CvtArgs
  | .w32 d sr zm => ⟨k.vfmt, d.toNat, k.vmsel, sr, false, 0, zm⟩
  | .w64 f m d sr mx scs zm => ⟨f.toNat, d.toNat, m.toNat, sr, mx, scs.val, zm⟩

/-- What VCVT permits (R40, R319, R332, R333). -/
def CvtArgs.ok (a : CvtArgs) (vl : Nat) : Bool :=
  decide (a.src ≤ 9) && decide (a.dst ≤ 9) && decide (vl ≤ vlMax a.src) && decide (vl ≤ vlMax a.dst)
    && (!a.sr || srPermitted a.dst) && vlFits a.src vl && vlFits a.dst vl
    && (!a.mx || ((isWide a.src && isNarrow a.dst) || (isNarrow a.src && isWide a.dst))
        && vl % 32 == 0 && !bitOf a.msel 3)

/-- VCVT to a block-scaled narrow format writes vd and the scale bytes of SCS (R333). Where SCS is vd the spec does not
say which of the two stands in the bytes both write: they are free (log entry 33). -/
def vcvtNarrow (c : Nat) (vd vs1 : Nat) (a : CvtArgs) (s : State) : State :=
  let k := s.core c
  let vals := (k.elems vs1 a.src).map (decodeElem a.src)
  let nb := k.vl / 32
  let scales := (List.range nb).map fun b => blockScale a.dst ((vals.drop (32 * b)).take 32)
  let seed := BitVec.ofNat 32 (s.reg (pgCor c + 0x308))
  let (es, fl, x) := match ffmt a.dst with
    | some f => narrowAll f a.sr scales 0 seed vals
    | none => ([], 0, seed)
  let bad := k.vSrcBad [vs1] 0
  let s1 := s.vFinish c vd (fmtBits a.dst) (es.map some) fl bad k.vl
  let clash := vd == a.scs && nb != 0
  let bytes := if clash then ofBytes ((List.range nb).map (Config.freeByte s.free)) else pack 8 scales
  let s2 := if clash then { s1 with free := s1.free + 1 } else s1
  let s3 := s2.modCore c fun k => k.writeV a.scs (8 * nb) bytes (bad && nb != 0)
  if a.sr then s3.setReg (pgCor c + 0x308) x.toNat else s3

/-- VCVT from a block-scaled narrow format (R333). -/
def vcvtWide (c : Nat) (vd vs1 : Nat) (a : CvtArgs) (s : State) : State :=
  let k := s.core c
  let seed := BitVec.ofNat 32 (s.reg (pgCor c + 0x308))
  let (es, fl, x) := match ffmt a.dst with
    | some f => wideAll f a.sr a.src (k.vslot a.scs) 0 seed (k.elems vs1 a.src)
    | none => ([], 0, seed)
  let s1 := s.vFinish c vd (fmtBits a.dst) (es.map some) fl (k.vSrcBad [vs1, a.scs] 0) k.vl
  if a.sr then s1.setReg (pgCor c + 0x308) x.toNat else s1

/-- VCVT without block scales (R332). -/
def vcvtPlain (c : Nat) (vd vs1 : Nat) (a : CvtArgs) (s : State) : State :=
  let k := s.core c
  let seed := BitVec.ofNat 32 (s.reg (pgCor c + 0x308))
  let (es, fl, x) := convertActive a.src a.dst a.sr (k.active? a.msel) 0 seed (k.elems vs1 a.src)
  let s1 := s.vFinish c vd (fmtBits a.dst) (k.masked a.msel a.zm es) fl (k.vSrcBad [vs1] a.msel) (k.nActive a.msel)
  if a.sr then s1.setReg (pgCor c + 0x308) x.toNat else s1

/-- VCVT (R332, R333). -/
def vcvtInstr (c : Nat) (vd vs1 : VSlot) (f : VCvtForm) (s : State) : IRes :=
  let k := s.core c
  let a := k.cvtArgs f
  s.vGuard c (.vcvt vd vs1 f) (a.ok k.vl) ([vd.val, vs1.val] ++ if a.mx then [a.scs] else []) fun s =>
    .done (if !a.mx then vcvtPlain c vd.val vs1.val a s
      else if isWide a.src then vcvtNarrow c vd.val vs1.val a s
      else vcvtWide c vd.val vs1.val a s)

/-! ## Reductions -/

/-- One level of the tree (R334). -/
def pairUp (f : Nat → Nat → Nat × Flags) : List Nat → List Nat × Flags
  | a :: b :: l =>
    let (x, fl) := f a b
    let (xs, fs) := pairUp f l
    (x :: xs, fl ||| fs)
  | l => (l, 0)

/-- The whole tree, of at most `n` levels. -/
def reduceTree (f : Nat → Nat → Nat × Flags) : Nat → List Nat → Nat × Flags
  | 0, l => (l.headD 0, 0)
  | n + 1, l =>
    if l.length ≤ 1 then (l.headD 0, 0)
    else
      let (xs, fl) := pairUp f l
      let (x, fs) := reduceTree f n xs
      (x, fl ||| fs)

/-- The smallest power of two that is at least n. -/
def pow2Ceil (n : Nat) : Nat := if n ≤ 1 then n else 2 ^ (Nat.log2 (n - 1) + 1)

/-- Identity of a reduction (R334). -/
def VRed.identity (op : VRed) (fmt : Nat) : Nat :=
  let w := fmtBits fmt
  match ffmt fmt, op with
  | some f, .max => f.infPat true
  | some f, .min => f.infPat false
  | none, .max => 2 ^ (w - 1)
  | none, .min => 2 ^ (w - 1) - 1
  | _, _ => 0

/-- One step of a reduction (R334). -/
def VRed.combine (op : VRed) (fmt x y : Nat) : Nat × Flags :=
  match op with
  | .sum => vElem .add fmt x y 0
  | .min => vElem .min fmt x y 0
  | _ => vElem .max fmt x y 0

/-- The magnitude of an element for RAMAX; `top` stands for the magnitude of the most negative integer, which the format
cannot hold and the spec does not state (log entry 29). -/
def magnitude (fmt top x : Nat) : Nat :=
  let w := fmtBits fmt
  match ffmt fmt with
  | some f => x % 2 ^ (f.ebits + f.mbits)
  | none => if x = 2 ^ (w - 1) then top else (sgn w x).natAbs

/-- A NaN result of a floating operation is canonical (R44). -/
def canon (fmt x : Nat) : Nat :=
  match ffmt fmt with
  | some f => if (f.decode x).isNan then f.nanPat else x
  | none => x

/-- Reductions (R323, R327, R334). -/
def vredInstr (c : Nat) (op : VRed) (vd vs1 : VSlot) (f : VForm) (s : State) : IRes :=
  let k := s.core c
  let a := k.args f
  let ok := vArithFmt a.fmt && decide (k.vl ≤ vlMax a.fmt) && a.unused && !a.zm
  s.vGuard c (.vred op vd vs1 f) ok [vd.val, vs1.val] fun s =>
    if k.vl = 0 then .done (s.vCount c 0)
    else
      let w := fmtBits a.fmt
      let idn := op.identity a.fmt
      let es := (k.elems vs1.val a.fmt).zip (List.range k.vl)
      let draw := op == .amax && isIntFmt a.fmt && es.any fun (x, i) => k.active? a.msel i && x == 2 ^ (w - 1)
      let top := (Config.freeWord s.free).toNat % 2 ^ w
      let s1 := if draw then { s with free := s.free + 1 } else s
      let leaves := es.map fun (x, i) =>
        if k.active? a.msel i then (if op == .amax then magnitude a.fmt top x else x) else idn
      let (r, fl) := reduceTree (op.combine a.fmt) 11 (leaves ++ List.replicate (pow2Ceil k.vl - k.vl) idn)
      .done (s1.vFinish c vd.val w [some (canon a.fmt r)] fl (k.vSrcBad [vs1.val] a.msel) (k.nActive a.msel))

/-! ## Rearrangement -/

/-- Active elements of a list, in order. -/
def Core.activeElems (k : Core) (msel : Nat) (es : List Nat) : List Nat :=
  ((es.zip (List.range es.length)).filter fun p => k.active? msel p.2).map (·.1)

/-- VEXPAND's elements: active positions take the elements of vs1 in order (R337). -/
def Core.expand (k : Core) (msel : Nat) (zm : Bool) : Nat → Nat → List Nat → List (Option Nat)
  | 0, _, _ => []
  | n + 1, i, es =>
    if k.active? msel i then some (es.headD 0) :: k.expand msel zm n (i + 1) (es.drop 1)
    else (if zm then some 0 else none) :: k.expand msel zm n (i + 1) es

/-- Count elements written as +0 under IOR (R345 IORCNT). -/
def State.iorCount (s : State) (c n : Nat) : State := s.count32 (pgCor c + 0x328) n

/-- Element i of the interleave of VUNPK from `from` (R338). -/
def unpkElem (x y : List Nat) (base i : Nat) : Nat :=
  if i % 2 = 0 then x.getD (base + i / 2) 0 else y.getD (base + (i - 1) / 2) 0

/-- The vs2 field of a 32-bit form is 0, as R323 has it for group 4 but VPERM. -/
def vs2Zero : VForm → Bool
  | .w32 v _ => v.val == 0
  | _ => true

/-- Group 4 but VSHUF (R335, R337, R338). A pack or an unpack names its second slot in a 64-bit form; in a 32-bit form the field
is 0, and the slot is v0 (R323; log entry 28). -/
def vpermInstr (c : Nat) (op : VPerm) (vd vs1 : VSlot) (f : VForm) (s : State) : IRes :=
  let k := s.core c
  let a := k.args f
  let two := !(op == .compress || op == .expand)
  let ok := vMoveFmt a.fmt && decide (k.vl ≤ vlMax a.fmt) && (if two then a.vs2.isSome else a.unused) && (op == .perm || vs2Zero f)
  let src := vs1.val :: (if two then a.slots else [])
  s.vGuard c (.vperm op vd vs1 f) ok (vd.val :: src) fun s =>
    let w := fmtBits a.fmt
    let x := k.elems vs1.val a.fmt
    let y := k.second a
    let n := k.vl
    let bad := k.vSrcBad src a.msel
    let fin := fun (s : State) (els : List (Option Nat)) (fl : Flags) =>
      s.vFinish c vd.val w els fl bad (k.nActive a.msel)
    let cat := x ++ y
    match op with
    | .perm =>
      let nOver := ((y.zip (List.range n)).filter fun (j, i) => k.active? a.msel i && decide (n ≤ j)).length
      let els := k.masked a.msel a.zm (y.map fun j => x.getD j 0)
      .done ((fin s els (if nOver = 0 then 0 else fIOR)).iorCount c nOver)
    | .compress =>
      let act := k.activeElems a.msel x
      .done (fin s (act.map some ++ List.replicate (n - act.length) (if a.zm then some 0 else none)) 0)
    | .expand => .done (fin s (k.expand a.msel a.zm n 0 x) 0)
    | .packe => .done (fin s (k.masked a.msel a.zm ((List.range n).map fun i => cat.getD (2 * i) 0)) 0)
    | .packo => .done (fin s (k.masked a.msel a.zm ((List.range n).map fun i => cat.getD (2 * i + 1) 0)) 0)
    | .unpkl => .done (fin s (k.masked a.msel a.zm ((List.range n).map fun i => unpkElem x y 0 i)) 0)
    | .unpkh => .done (fin s (k.masked a.msel a.zm ((List.range n).map fun i => unpkElem x y (n / 2) i)) 0)

/-- VSHUF (R336). -/
def vshufInstr (c : Nat) (vd vs1 : VSlot) (imm : Word) (zm : Bool) (s : State) : IRes :=
  let k := s.core c
  let fmt := k.vfmt
  let n := k.vl
  s.vGuard c (.vshuf vd vs1 imm zm) (vMoveFmt fmt && decide (n ≤ vlMax fmt)) [vd.val, vs1.val] fun s =>
    let x := k.elems vs1.val fmt
    let nib := fun i => fld imm.toNat (4 * (i % 8)) 4
    let src := fun i => 8 * (i / 8) + nib i % 8
    let zero := fun i => bitOf (nib i) 3
    let nOver := ((List.range n).filter fun i => k.active? k.vmsel i && !zero i && decide (n ≤ src i)).length
    let els := (List.range n).map fun i => if zero i then 0 else x.getD (src i) 0
    .done ((s.vFinish c vd.val (fmtBits fmt) (k.masked k.vmsel zm els) (if nOver = 0 then 0 else fIOR)
      (k.vSrcBad [vs1.val] k.vmsel) (k.nActive k.vmsel)).iorCount c nOver)

/-! ## Memory and moves -/

/-- The memory a vector load or store names: contiguous bytes, or one piece for each active element (R339). -/
def vPieces (k : Core) (w base : Nat) (stride : Int) (contiguous : Bool) : List (Nat × Nat) :=
  if contiguous then pieces base ((k.vl * w + 7) / 8)
  else ((List.range k.vl).filter (k.active? k.vmsel)).flatMap fun (i : Nat) =>
    pieces (unsgn 64 ((base : Int) + (i : Int) * stride)) (w / 8)

/-- Loaded elements at their positions (R339). -/
def placeElems (k : Core) (zm : Bool) (w : Nat) : Nat → Nat → Nat → List (Option Nat)
  | 0, _, _ => []
  | n + 1, i, data =>
    if k.active? k.vmsel i then some (data % 2 ^ w) :: placeElems k zm w n (i + 1) (data / 2 ^ w)
    else (if zm then some 0 else none) :: placeElems k zm w n (i + 1) data

/-- VLD, VLDS, VST and VSTS (R339, R342). -/
def vmemInstr (c : Nat) (op : VMem) (v : VSlot) (rs1 rs2 : XReg) (zm : Bool) (s : State) : IRes :=
  let k := s.core c
  let f := k.vfmt
  let w := fmtBits f
  let strided := op == .lds || op == .sts
  let write := op == .st || op == .sts
  let ok := decide (f ≤ 9) && decide (k.vl ≤ vlMax f) && (strided || rs2.val == 0)
    && (decide (8 ≤ w) || (!strided && !bitOf k.vmsel 3))
  s.vGuard c (.vmem op v rs1 rs2 zm) ok [v.val] fun s =>
    let base := (k.getX rs1).toNat
    let esz := max 1 (w / 8)
    let stride : Int := if strided then (k.getX rs2).toInt else esz
    if base % esz != 0 then .trap (if write then exStoreMis else exLoadMis) base s
    else if stride % (esz : Int) != 0 then
      .trap (if write then exStoreMis else exLoadMis) (unsgn 64 ((base : Int) + stride)) s
    else
      let contiguous := !strided && !bitOf k.vmsel 3
      withMem s c write (vPieces k w base stride contiguous) fun ts s1 =>
        if write then
          let es := k.activeElems k.vmsel (k.elems v.val f)
          let data := if contiguous then toBytes ((k.vl * w + 7) / 8) (k.vslot v.val)
            else es.flatMap fun x => toBytes (w / 8) x
          .done ((s1.coreWriteAll c (k.vSrcBad [v.val] k.vmsel) ts data).vCount c (k.nActive k.vmsel))
        else
          let (l, bad, s2) := s1.coreReadAll c ts
          .done (s2.vFinish c v.val w (placeElems k zm w k.vl 0 (ofBytes l)) 0 (bad || k.vSrcBad [] k.vmsel)
            (k.nActive k.vmsel))

/-- VMVX (R321, R340, R342). A poisoned slot gives 0. -/
def vmvxInstr (c : Nat) (rd rs1 : XReg) (vs : VSlot) (s : State) : IRes :=
  let k := s.core c
  let f := k.vfmt
  let w := fmtBits f
  let i := (k.getX rs1).toNat
  s.vGuard c (.vmvx rd rs1 vs) (decide (f ≤ 9) && decide (k.vl ≤ vlMax f)) [vs.val] fun s =>
    if k.vl = 0 then .done ((s.setX c rd 0).vCount c 0)
    else if k.vl ≤ i then .done (((s.setX c rd 0).modCore c (·.addV fIOR)).vCount c 0)
    else
      let x := fld (k.vslot vs.val) (w * i) w
      let v := if k.vBad.contains vs.val then 0 else if isIntFmt f then unsgn 64 (sgn w x) else x
      .done ((s.setXn c rd v).vCount c 1)

/-- The immediate of VBCI and VBCIZ by format (R324): none where the format or its high bits are not permitted. -/
def vbciImm (f imm : Nat) : Option Nat :=
  match f with
  | 0 => some (imm * 65536)
  | 1 => some imm
  | 2 => some imm
  | 9 => some (unsgn 32 (sgn 16 imm))
  | 7 => if imm < 256 then some imm else none
  | _ => none

/-- VBCI and VBCIZ (R324). -/
def vbciInstr (c : Nat) (zero : Bool) (vd : VSlot) (imm : Half) (s : State) : IRes :=
  let k := s.core c
  let v := vbciImm k.vfmt imm.toNat
  s.vGuard c (.vbci zero vd imm) (v.isSome && decide (k.vl ≤ vlMax k.vfmt)) [vd.val] fun s =>
    .done (s.vFinish c vd.val (fmtBits k.vfmt) (k.masked k.vmsel zero (List.replicate k.vl (v.getD 0))) 0
      (k.vSrcBad [] k.vmsel) (k.nActive k.vmsel))

/-! ## The commands -/

def execVsetvl (c : CoreId) (rd rs1 : XReg) (vfmt : FmtCode) (msel : Nibble) (s : State) : Host.Outcome State Fault Refusal :=
  .next (s.issue c (.vsetvl rd rs1 vfmt msel) (vsetvlInstr c rd rs1 vfmt msel))

def execVadd (c : CoreId) (vd vs1 : VSlot) (f : VForm) (s : State) : Host.Outcome State Fault Refusal :=
  .next (s.issue c (.varith .add vd vs1 f) (varithInstr c .add vd vs1 f))
def execVsub (c : CoreId) (vd vs1 : VSlot) (f : VForm) (s : State) : Host.Outcome State Fault Refusal :=
  .next (s.issue c (.varith .sub vd vs1 f) (varithInstr c .sub vd vs1 f))
def execVmul (c : CoreId) (vd vs1 : VSlot) (f : VForm) (s : State) : Host.Outcome State Fault Refusal :=
  .next (s.issue c (.varith .mul vd vs1 f) (varithInstr c .mul vd vs1 f))
def execVdiv (c : CoreId) (vd vs1 : VSlot) (f : VForm) (s : State) : Host.Outcome State Fault Refusal :=
  .next (s.issue c (.varith .div vd vs1 f) (varithInstr c .div vd vs1 f))
def execVmax (c : CoreId) (vd vs1 : VSlot) (f : VForm) (s : State) : Host.Outcome State Fault Refusal :=
  .next (s.issue c (.varith .max vd vs1 f) (varithInstr c .max vd vs1 f))
def execVmin (c : CoreId) (vd vs1 : VSlot) (f : VForm) (s : State) : Host.Outcome State Fault Refusal :=
  .next (s.issue c (.varith .min vd vs1 f) (varithInstr c .min vd vs1 f))
def execVfma (c : CoreId) (vd vs1 : VSlot) (f : VForm) (s : State) : Host.Outcome State Fault Refusal :=
  .next (s.issue c (.varith .fma vd vs1 f) (varithInstr c .fma vd vs1 f))
def execVfms (c : CoreId) (vd vs1 : VSlot) (f : VForm) (s : State) : Host.Outcome State Fault Refusal :=
  .next (s.issue c (.varith .fms vd vs1 f) (varithInstr c .fms vd vs1 f))
def execVabs (c : CoreId) (vd vs1 : VSlot) (f : VForm) (s : State) : Host.Outcome State Fault Refusal :=
  .next (s.issue c (.varith .abs vd vs1 f) (varithInstr c .abs vd vs1 f))
def execVneg (c : CoreId) (vd vs1 : VSlot) (f : VForm) (s : State) : Host.Outcome State Fault Refusal :=
  .next (s.issue c (.varith .neg vd vs1 f) (varithInstr c .neg vd vs1 f))
def execVsqrt (c : CoreId) (vd vs1 : VSlot) (f : VForm) (s : State) : Host.Outcome State Fault Refusal :=
  .next (s.issue c (.varith .sqrt vd vs1 f) (varithInstr c .sqrt vd vs1 f))
def execVand (c : CoreId) (vd vs1 : VSlot) (f : VForm) (s : State) : Host.Outcome State Fault Refusal :=
  .next (s.issue c (.varith .and vd vs1 f) (varithInstr c .and vd vs1 f))
def execVor (c : CoreId) (vd vs1 : VSlot) (f : VForm) (s : State) : Host.Outcome State Fault Refusal :=
  .next (s.issue c (.varith .or vd vs1 f) (varithInstr c .or vd vs1 f))
def execVxor (c : CoreId) (vd vs1 : VSlot) (f : VForm) (s : State) : Host.Outcome State Fault Refusal :=
  .next (s.issue c (.varith .xor vd vs1 f) (varithInstr c .xor vd vs1 f))
def execVshl (c : CoreId) (vd vs1 : VSlot) (f : VForm) (s : State) : Host.Outcome State Fault Refusal :=
  .next (s.issue c (.varith .shl vd vs1 f) (varithInstr c .shl vd vs1 f))
def execVsra (c : CoreId) (vd vs1 : VSlot) (f : VForm) (s : State) : Host.Outcome State Fault Refusal :=
  .next (s.issue c (.varith .sra vd vs1 f) (varithInstr c .sra vd vs1 f))
def execEq (c : CoreId) (md : MaskId) (vs1 : VSlot) (f : VForm) (s : State) : Host.Outcome State Fault Refusal :=
  .next (s.issue c (.vcmp .eq md vs1 f) (vcmpInstr c .eq md vs1 f))
def execNe (c : CoreId) (md : MaskId) (vs1 : VSlot) (f : VForm) (s : State) : Host.Outcome State Fault Refusal :=
  .next (s.issue c (.vcmp .ne md vs1 f) (vcmpInstr c .ne md vs1 f))
def execLt (c : CoreId) (md : MaskId) (vs1 : VSlot) (f : VForm) (s : State) : Host.Outcome State Fault Refusal :=
  .next (s.issue c (.vcmp .lt md vs1 f) (vcmpInstr c .lt md vs1 f))
def execLe (c : CoreId) (md : MaskId) (vs1 : VSlot) (f : VForm) (s : State) : Host.Outcome State Fault Refusal :=
  .next (s.issue c (.vcmp .le md vs1 f) (vcmpInstr c .le md vs1 f))
def execGt (c : CoreId) (md : MaskId) (vs1 : VSlot) (f : VForm) (s : State) : Host.Outcome State Fault Refusal :=
  .next (s.issue c (.vcmp .gt md vs1 f) (vcmpInstr c .gt md vs1 f))
def execGe (c : CoreId) (md : MaskId) (vs1 : VSlot) (f : VForm) (s : State) : Host.Outcome State Fault Refusal :=
  .next (s.issue c (.vcmp .ge md vs1 f) (vcmpInstr c .ge md vs1 f))
def execUnord (c : CoreId) (md : MaskId) (vs1 : VSlot) (f : VForm) (s : State) : Host.Outcome State Fault Refusal :=
  .next (s.issue c (.vcmp .unord md vs1 f) (vcmpInstr c .unord md vs1 f))
def execVmlog (c : CoreId) (md ms1 ms2 : MaskId) (lop : LopCode) (s : State) : Host.Outcome State Fault Refusal :=
  .next (s.issue c (.vmlog md ms1 ms2 lop) (vmlogInstr c md ms1 ms2 lop))
def execVmpop (c : CoreId) (rd : XReg) (ms : MaskId) (s : State) : Host.Outcome State Fault Refusal :=
  .next (s.issue c (.vmpop rd ms) (vmpopInstr c rd ms))
def execVcvt (c : CoreId) (vd vs1 : VSlot) (f : VCvtForm) (s : State) : Host.Outcome State Fault Refusal :=
  .next (s.issue c (.vcvt vd vs1 f) (vcvtInstr c vd vs1 f))
def execRsum (c : CoreId) (vd vs1 : VSlot) (f : VForm) (s : State) : Host.Outcome State Fault Refusal :=
  .next (s.issue c (.vred .sum vd vs1 f) (vredInstr c .sum vd vs1 f))
def execRmax (c : CoreId) (vd vs1 : VSlot) (f : VForm) (s : State) : Host.Outcome State Fault Refusal :=
  .next (s.issue c (.vred .max vd vs1 f) (vredInstr c .max vd vs1 f))
def execRmin (c : CoreId) (vd vs1 : VSlot) (f : VForm) (s : State) : Host.Outcome State Fault Refusal :=
  .next (s.issue c (.vred .min vd vs1 f) (vredInstr c .min vd vs1 f))
def execRamax (c : CoreId) (vd vs1 : VSlot) (f : VForm) (s : State) : Host.Outcome State Fault Refusal :=
  .next (s.issue c (.vred .amax vd vs1 f) (vredInstr c .amax vd vs1 f))
def execVperm (c : CoreId) (vd vs1 : VSlot) (f : VForm) (s : State) : Host.Outcome State Fault Refusal :=
  .next (s.issue c (.vperm .perm vd vs1 f) (vpermInstr c .perm vd vs1 f))
def execVcompress (c : CoreId) (vd vs1 : VSlot) (f : VForm) (s : State) : Host.Outcome State Fault Refusal :=
  .next (s.issue c (.vperm .compress vd vs1 f) (vpermInstr c .compress vd vs1 f))
def execVexpand (c : CoreId) (vd vs1 : VSlot) (f : VForm) (s : State) : Host.Outcome State Fault Refusal :=
  .next (s.issue c (.vperm .expand vd vs1 f) (vpermInstr c .expand vd vs1 f))
def execVpacke (c : CoreId) (vd vs1 : VSlot) (f : VForm) (s : State) : Host.Outcome State Fault Refusal :=
  .next (s.issue c (.vperm .packe vd vs1 f) (vpermInstr c .packe vd vs1 f))
def execVpacko (c : CoreId) (vd vs1 : VSlot) (f : VForm) (s : State) : Host.Outcome State Fault Refusal :=
  .next (s.issue c (.vperm .packo vd vs1 f) (vpermInstr c .packo vd vs1 f))
def execVunpkl (c : CoreId) (vd vs1 : VSlot) (f : VForm) (s : State) : Host.Outcome State Fault Refusal :=
  .next (s.issue c (.vperm .unpkl vd vs1 f) (vpermInstr c .unpkl vd vs1 f))
def execVunpkh (c : CoreId) (vd vs1 : VSlot) (f : VForm) (s : State) : Host.Outcome State Fault Refusal :=
  .next (s.issue c (.vperm .unpkh vd vs1 f) (vpermInstr c .unpkh vd vs1 f))
def execVshuf (c : CoreId) (vd vs1 : VSlot) (imm : Word) (zm : Bool) (s : State) : Host.Outcome State Fault Refusal :=
  .next (s.issue c (.vshuf vd vs1 imm zm) (vshufInstr c vd vs1 imm zm))
def execVld (c : CoreId) (v : VSlot) (rs1 : XReg) (zm : Bool) (s : State) : Host.Outcome State Fault Refusal :=
  .next (s.issue c (.vmem .ld v rs1 0 zm) (vmemInstr c .ld v rs1 0 zm))
def execVlds (c : CoreId) (v : VSlot) (rs1 rs2 : XReg) (zm : Bool) (s : State) : Host.Outcome State Fault Refusal :=
  .next (s.issue c (.vmem .lds v rs1 rs2 zm) (vmemInstr c .lds v rs1 rs2 zm))
def execVst (c : CoreId) (v : VSlot) (rs1 : XReg) (zm : Bool) (s : State) : Host.Outcome State Fault Refusal :=
  .next (s.issue c (.vmem .st v rs1 0 zm) (vmemInstr c .st v rs1 0 zm))
def execVsts (c : CoreId) (v : VSlot) (rs1 rs2 : XReg) (zm : Bool) (s : State) : Host.Outcome State Fault Refusal :=
  .next (s.issue c (.vmem .sts v rs1 rs2 zm) (vmemInstr c .sts v rs1 rs2 zm))
def execVmvx (c : CoreId) (rd rs1 : XReg) (vs : VSlot) (s : State) : Host.Outcome State Fault Refusal :=
  .next (s.issue c (.vmvx rd rs1 vs) (vmvxInstr c rd rs1 vs))
def execVbci (c : CoreId) (vd : VSlot) (imm : Half) (s : State) : Host.Outcome State Fault Refusal :=
  .next (s.issue c (.vbci false vd imm) (vbciInstr c false vd imm))
def execVbciz (c : CoreId) (vd : VSlot) (imm : Half) (s : State) : Host.Outcome State Fault Refusal :=
  .next (s.issue c (.vbci true vd imm) (vbciInstr c true vd imm))

end Sys2Proof.Machine
end

