-- ==== Sys2Proof/Machine/Dispatch.lean ====
section
/-! DEFINITION. Machine/Dispatch.lean: one arm per command; each arm is one direct call of the command's meaning. -/

namespace Sys2Proof.Machine

def exec (i : Instr) (s : State) : Host.Outcome State Fault Refusal :=
  match i with
  | .pwrEnRise => Sys2Proof.Machine.execPwrEnRise s
  | .pwrEnFall => Sys2Proof.Machine.execPwrEnFall s
  | .pwrgdRise => Sys2Proof.Machine.execPwrgdRise s
  | .railLeavesRegulation => Sys2Proof.Machine.execRailLeavesRegulation s
  | .perstNAssert => Sys2Proof.Machine.execPerstNAssert s
  | .perstNDeassert => Sys2Proof.Machine.execPerstNDeassert s
  | .rootPllLock => Sys2Proof.Machine.execRootPllLock s
  | .refclkRackLoss => Sys2Proof.Machine.execRefclkRackLoss s
  | .refclkRackReturn => Sys2Proof.Machine.execRefclkRackReturn s
  | .pllLockLoss => Sys2Proof.Machine.execPllLockLoss s
  | .rackSyncEdge => Sys2Proof.Machine.execRackSyncEdge s
  | .rackSyncMissing => Sys2Proof.Machine.execRackSyncMissing s
  | .supplyDroop h => Sys2Proof.Machine.execSupplyDroop h s
  | .avsUpdate rails => Sys2Proof.Machine.execAvsUpdate rails s
  | .powerBudgetUpdate inputW clusterMw => Sys2Proof.Machine.execPowerBudgetUpdate inputW clusterMw s
  | .fastLimit avgW => Sys2Proof.Machine.execFastLimit avgW s
  | .dieTemperatureLevel sensor temp => Sys2Proof.Machine.execDieTemperatureLevel sensor temp s
  | .maintenanceFrameBoundary => Sys2Proof.Machine.execMaintenanceFrameBoundary s
  | .slotStart obs => Sys2Proof.Machine.execSlotStart obs s
  | .slotEndCut => Sys2Proof.Machine.execSlotEndCut s
  | .perBankRefresh ch rfm => Sys2Proof.Machine.execPerBankRefresh ch rfm s
  | .autoSnapshot => Sys2Proof.Machine.execAutoSnapshot s
  | .placementDrainEnd tid => Sys2Proof.Machine.execPlacementDrainEnd tid s
  | .trackerAgeing => Sys2Proof.Machine.execTrackerAgeing s
  | .slotenWrite v => Sys2Proof.Machine.execSlotenWrite v s
  | .rv64imacInstruction c => Sys2Proof.Machine.execRv64imacInstruction c s
  | .l1dLineFill c line => Sys2Proof.Machine.execL1dLineFill c line s
  | .l2LineFill h line => Sys2Proof.Machine.execL2LineFill h line s
  | .wayDisable h slice way => Sys2Proof.Machine.execWayDisable h slice way s
  | .mma c acc a b => Sys2Proof.Machine.execMma c acc a b s
  | .mmax c acc a b fa fb mx spa cz => Sys2Proof.Machine.execMmax c acc a b fa fb mx spa cz s
  | .mmaComplete c => Sys2Proof.Machine.execMmaComplete c s
  | .mld c rs1 rs2 t tr sc fsel => Sys2Proof.Machine.execMld c rs1 rs2 t tr sc fsel s
  | .mst c rs1 rs2 acc ofmt sr tr => Sys2Proof.Machine.execMst c rs1 rs2 acc ofmt sr tr s
  | .mlda c rs1 rs2 acc => Sys2Proof.Machine.execMlda c rs1 rs2 acc s
  | .mz c mask => Sys2Proof.Machine.execMz c mask s
  | .mtv c v acc ofmt sr => Sys2Proof.Machine.execMtv c v acc ofmt sr s
  | .mfv c v t => Sys2Proof.Machine.execMfv c v t s
  | .scompress c src dst => Sys2Proof.Machine.execScompress c src dst s
  | .stranspose c src dst => Sys2Proof.Machine.execStranspose c src dst s
  | .sci c rd rs1 rs2 => Sys2Proof.Machine.execSci c rd rs1 rs2 s
  | .scin c rd rs1 rs2 => Sys2Proof.Machine.execScin c rd rs1 rs2 s
  | .sti c rd rs1 rs2 => Sys2Proof.Machine.execSti c rd rs1 rs2 s
  | .stin c rd rs1 rs2 => Sys2Proof.Machine.execStin c rd rs1 rs2 s
  | .wend c => Sys2Proof.Machine.execWend c s
  | .opStart c => Sys2Proof.Machine.execOpStart c s
  | .coreSoftReset c => Sys2Proof.Machine.execCoreSoftReset c s
  | .coreEnable c en => Sys2Proof.Machine.execCoreEnable c en s
  | .halt c => Sys2Proof.Machine.execHalt c s
  | .resume c => Sys2Proof.Machine.execResume c s
  | .step c => Sys2Proof.Machine.execStep c s
  | .vsetvl c rd rs1 vfmt msel => Sys2Proof.Machine.execVsetvl c rd rs1 vfmt msel s
  | .vadd c vd vs1 f => Sys2Proof.Machine.execVadd c vd vs1 f s
  | .vsub c vd vs1 f => Sys2Proof.Machine.execVsub c vd vs1 f s
  | .vmul c vd vs1 f => Sys2Proof.Machine.execVmul c vd vs1 f s
  | .vdiv c vd vs1 f => Sys2Proof.Machine.execVdiv c vd vs1 f s
  | .vmax c vd vs1 f => Sys2Proof.Machine.execVmax c vd vs1 f s
  | .vmin c vd vs1 f => Sys2Proof.Machine.execVmin c vd vs1 f s
  | .vfma c vd vs1 f => Sys2Proof.Machine.execVfma c vd vs1 f s
  | .vfms c vd vs1 f => Sys2Proof.Machine.execVfms c vd vs1 f s
  | .vabs c vd vs1 f => Sys2Proof.Machine.execVabs c vd vs1 f s
  | .vneg c vd vs1 f => Sys2Proof.Machine.execVneg c vd vs1 f s
  | .vsqrt c vd vs1 f => Sys2Proof.Machine.execVsqrt c vd vs1 f s
  | .vand c vd vs1 f => Sys2Proof.Machine.execVand c vd vs1 f s
  | .vor c vd vs1 f => Sys2Proof.Machine.execVor c vd vs1 f s
  | .vxor c vd vs1 f => Sys2Proof.Machine.execVxor c vd vs1 f s
  | .vshl c vd vs1 f => Sys2Proof.Machine.execVshl c vd vs1 f s
  | .vsra c vd vs1 f => Sys2Proof.Machine.execVsra c vd vs1 f s
  | .eq c md vs1 f => Sys2Proof.Machine.execEq c md vs1 f s
  | .ne c md vs1 f => Sys2Proof.Machine.execNe c md vs1 f s
  | .lt c md vs1 f => Sys2Proof.Machine.execLt c md vs1 f s
  | .le c md vs1 f => Sys2Proof.Machine.execLe c md vs1 f s
  | .gt c md vs1 f => Sys2Proof.Machine.execGt c md vs1 f s
  | .ge c md vs1 f => Sys2Proof.Machine.execGe c md vs1 f s
  | .unord c md vs1 f => Sys2Proof.Machine.execUnord c md vs1 f s
  | .vmlog c md ms1 ms2 lop => Sys2Proof.Machine.execVmlog c md ms1 ms2 lop s
  | .vmpop c rd ms => Sys2Proof.Machine.execVmpop c rd ms s
  | .vcvt c vd vs1 f => Sys2Proof.Machine.execVcvt c vd vs1 f s
  | .rsum c vd vs1 f => Sys2Proof.Machine.execRsum c vd vs1 f s
  | .rmax c vd vs1 f => Sys2Proof.Machine.execRmax c vd vs1 f s
  | .rmin c vd vs1 f => Sys2Proof.Machine.execRmin c vd vs1 f s
  | .ramax c vd vs1 f => Sys2Proof.Machine.execRamax c vd vs1 f s
  | .vperm c vd vs1 f => Sys2Proof.Machine.execVperm c vd vs1 f s
  | .vcompress c vd vs1 f => Sys2Proof.Machine.execVcompress c vd vs1 f s
  | .vexpand c vd vs1 f => Sys2Proof.Machine.execVexpand c vd vs1 f s
  | .vshuf c vd vs1 imm zm => Sys2Proof.Machine.execVshuf c vd vs1 imm zm s
  | .vpacke c vd vs1 f => Sys2Proof.Machine.execVpacke c vd vs1 f s
  | .vpacko c vd vs1 f => Sys2Proof.Machine.execVpacko c vd vs1 f s
  | .vunpkl c vd vs1 f => Sys2Proof.Machine.execVunpkl c vd vs1 f s
  | .vunpkh c vd vs1 f => Sys2Proof.Machine.execVunpkh c vd vs1 f s
  | .vld c v rs1 zm => Sys2Proof.Machine.execVld c v rs1 zm s
  | .vlds c v rs1 rs2 zm => Sys2Proof.Machine.execVlds c v rs1 rs2 zm s
  | .vst c v rs1 zm => Sys2Proof.Machine.execVst c v rs1 zm s
  | .vsts c v rs1 rs2 zm => Sys2Proof.Machine.execVsts c v rs1 rs2 zm s
  | .vmvx c rd rs1 vs => Sys2Proof.Machine.execVmvx c rd rs1 vs s
  | .vbci c vd imm => Sys2Proof.Machine.execVbci c vd imm s
  | .vbciz c vd imm => Sys2Proof.Machine.execVbciz c vd imm s
  | .bst c rd rs1 rs2 => Sys2Proof.Machine.execBst c rd rs1 rs2 s
  | .bstn c rd rs1 rs2 => Sys2Proof.Machine.execBstn c rd rs1 rs2 s
  | .bld c rd rs1 => Sys2Proof.Machine.execBld c rd rs1 s
  | .bpeek c rd rs1 => Sys2Proof.Machine.execBpeek c rd rs1 s
  | .cadd c rd rs1 rs2 => Sys2Proof.Machine.execCadd c rd rs1 rs2 s
  | .csub c rd rs1 rs2 => Sys2Proof.Machine.execCsub c rd rs1 rs2 s
  | .cwait c rd rs1 rs2 => Sys2Proof.Machine.execCwait c rd rs1 rs2 s
  | .cread c rd rs1 => Sys2Proof.Machine.execCread c rd rs1 s
  | .fenceS c scope => Sys2Proof.Machine.execFenceS c scope s
  | .farrive c rd rs1 => Sys2Proof.Machine.execFarrive c rd rs1 s
  | .fwait c rd rs1 => Sys2Proof.Machine.execFwait c rd rs1 s
  | .fsync c rd rs1 => Sys2Proof.Machine.execFsync c rd rs1 s
  | .filigreeRelease ch => Sys2Proof.Machine.execFiligreeRelease ch s
  | .crange c op level rs1 rs2 => Sys2Proof.Machine.execCrange c op level rs1 rs2 s
  | .sclaim c rd rs1 rs2 => Sys2Proof.Machine.execSclaim c rd rs1 rs2 s
  | .clockGate c => Sys2Proof.Machine.execClockGate c s
  | .hangWatch w => Sys2Proof.Machine.execHangWatch w s
  | .dbgset h v => Sys2Proof.Machine.execDbgset h v s
  | .preempt h => Sys2Proof.Machine.execPreempt h s
  | .preemptRestore c => Sys2Proof.Machine.execPreemptRestore c s
  | .opRelease h => Sys2Proof.Machine.execOpRelease h s
  | .opEndReport h => Sys2Proof.Machine.execOpEndReport h s
  | .opPlacement h => Sys2Proof.Machine.execOpPlacement h s
  | .affinityHoldExpiry c => Sys2Proof.Machine.execAffinityHoldExpiry c s
  | .frontEndTakeCommand x => Sys2Proof.Machine.execFrontEndTakeCommand x s
  | .gatherPool x => Sys2Proof.Machine.execGatherPool x s
  | .gather x => Sys2Proof.Machine.execGather x s
  | .segPool x => Sys2Proof.Machine.execSegPool x s
  | .copy x => Sys2Proof.Machine.execCopy x s
  | .probe x => Sys2Proof.Machine.execProbe x s
  | .hhRead x => Sys2Proof.Machine.execHhRead x s
  | .scatterAdd x => Sys2Proof.Machine.execScatterAdd x s
  | .scatterMax x => Sys2Proof.Machine.execScatterMax x s
  | .scatterMin x => Sys2Proof.Machine.execScatterMin x s
  | .updateFence x => Sys2Proof.Machine.execUpdateFence x s
  | .migrateRow x => Sys2Proof.Machine.execMigrateRow x s
  | .neighAgg x => Sys2Proof.Machine.execNeighAgg x s
  | .chunkTaskExpand e => Sys2Proof.Machine.execChunkTaskExpand e s
  | .sampleAgg x => Sys2Proof.Machine.execSampleAgg x s
  | .rngHealthTestFail x => Sys2Proof.Machine.execRngHealthTestFail x s
  | .subCommandReceive u => Sys2Proof.Machine.execSubCommandReceive u s
  | .sectorReadRequest u => Sys2Proof.Machine.execSectorReadRequest u s
  | .dramReadReturn u sector finding => Sys2Proof.Machine.execDramReadReturn u sector finding s
  | .routingContextResume x => Sys2Proof.Machine.execRoutingContextResume x s
  | .bagMergeRoot x => Sys2Proof.Machine.execBagMergeRoot x s
  | .accumulatingWrite h => Sys2Proof.Machine.execAccumulatingWrite h s
  | .commandComplete x => Sys2Proof.Machine.execCommandComplete x s
  | .sectorUpdate u => Sys2Proof.Machine.execSectorUpdate u s
  | .uctctlFlush e => Sys2Proof.Machine.execUctctlFlush e s
  | .updatePacketReceive r replay => Sys2Proof.Machine.execUpdatePacketReceive r replay s
  | .updatePacketAck r => Sys2Proof.Machine.execUpdatePacketAck r s
  | .srseedWrite e v => Sys2Proof.Machine.execSrseedWrite e v s
  | .cqcfgEn x q v => Sys2Proof.Machine.execCqcfgEn x q v s
  | .tableRegister q => Sys2Proof.Machine.execTableRegister q s
  | .tableReplace q => Sys2Proof.Machine.execTableReplace q s
  | .tableRetire q => Sys2Proof.Machine.execTableRetire q s
  | .tableRetireDrained tid epoch => Sys2Proof.Machine.execTableRetireDrained tid epoch s
  | .migrate q => Sys2Proof.Machine.execMigrate q s
  | .epochWaitExpiry x => Sys2Proof.Machine.execEpochWaitExpiry x s
  | .routedDispatch q => Sys2Proof.Machine.execRoutedDispatch q s
  | .countExchangeReceive d peer counts reason => Sys2Proof.Machine.execCountExchangeReceive d peer counts reason s
  | .dispatchReleaseWaitDone d => Sys2Proof.Machine.execDispatchReleaseWaitDone d s
  | .dispatchCombine d => Sys2Proof.Machine.execDispatchCombine d s
  | .dispatchComplete d => Sys2Proof.Machine.execDispatchComplete d s
  | .streamDescriptorStart e => Sys2Proof.Machine.execStreamDescriptorStart e s
  | .strided e => Sys2Proof.Machine.execStrided e s
  | .streamGather e => Sys2Proof.Machine.execStreamGather e s
  | .bitmap e => Sys2Proof.Machine.execBitmap e s
  | .chain e => Sys2Proof.Machine.execChain e s
  | .sorlist e => Sys2Proof.Machine.execSorlist e s
  | .tileLanded e => Sys2Proof.Machine.execTileLanded e s
  | .streamPageFault e => Sys2Proof.Machine.execStreamPageFault e s
  | .pageResume q => Sys2Proof.Machine.execPageResume q s
  | .streamComplete e => Sys2Proof.Machine.execStreamComplete e s
  | .srst e => Sys2Proof.Machine.execSrst e s
  | .cleanRange h => Sys2Proof.Machine.execCleanRange h s
  | .flushRange h => Sys2Proof.Machine.execFlushRange h s
  | .invalidateRange h => Sys2Proof.Machine.execInvalidateRange h s
  | .cleanAll h => Sys2Proof.Machine.execCleanAll h s
  | .flushAll h => Sys2Proof.Machine.execFlushAll h s
  | .invalidateAll h => Sys2Proof.Machine.execInvalidateAll h s
  | .l2Enable h => Sys2Proof.Machine.execL2Enable h s
  | .l2Disable h => Sys2Proof.Machine.execL2Disable h s
  | .rgncommit => Sys2Proof.Machine.execRgncommit s
  | .pcctlRetrain e half => Sys2Proof.Machine.execPcctlRetrain e half s
  | .chctlRetrain ch => Sys2Proof.Machine.execChctlRetrain ch s
  | .forcedRetrain e => Sys2Proof.Machine.execForcedRetrain e s
  | .retrainAttemptEnd ch ok us => Sys2Proof.Machine.execRetrainAttemptEnd ch ok us s
  | .stackTemperatureLevel x temp => Sys2Proof.Machine.execStackTemperatureLevel x temp s
  | .packageTemperatureLevel k temp => Sys2Proof.Machine.execPackageTemperatureLevel k temp s
  | .dataFlitReceive l flit => Sys2Proof.Machine.execDataFlitReceive l flit s
  | .negativeAckReceive l lseq => Sys2Proof.Machine.execNegativeAckReceive l lseq s
  | .linkControlCredit l vl n => Sys2Proof.Machine.execLinkControlCredit l vl n s
  | .flitResendLimit l => Sys2Proof.Machine.execFlitResendLimit l s
  | .laneFailure l lane => Sys2Proof.Machine.execLaneFailure l lane s
  | .linkTrainDone l => Sys2Proof.Machine.execLinkTrainDone l s
  | .linkTrainRetry l => Sys2Proof.Machine.execLinkTrainRetry l s
  | .discoveryExchange l peer => Sys2Proof.Machine.execDiscoveryExchange l peer s
  | .discoveryTimeout => Sys2Proof.Machine.execDiscoveryTimeout s
  | .linkDownFailover l => Sys2Proof.Machine.execLinkDownFailover l s
  | .packetReceive l vl pkt => Sys2Proof.Machine.execPacketReceive l vl pkt s
  | .flowPacketDeliver pkt => Sys2Proof.Machine.execFlowPacketDeliver pkt s
  | .flowAckSend flow => Sys2Proof.Machine.execFlowAckSend flow s
  | .flowAckReceive flow => Sys2Proof.Machine.execFlowAckReceive flow s
  | .flowResendTimeout flow => Sys2Proof.Machine.execFlowResendTimeout flow s
  | .timeFlitExchange l off corr => Sys2Proof.Machine.execTimeFlitExchange l off corr s
  | .planLoad => Sys2Proof.Machine.execPlanLoad s
  | .jobForm q sigs agreed => Sys2Proof.Machine.execJobForm q sigs agreed s
  | .dissolve => Sys2Proof.Machine.execDissolve s
  | .detload => Sys2Proof.Machine.execDetload s
  | .retrain l => Sys2Proof.Machine.execRetrain l s
  | .linkHold l => Sys2Proof.Machine.execLinkHold l s
  | .linkRelease l => Sys2Proof.Machine.execLinkRelease l s
  | .collectiveAccept q => Sys2Proof.Machine.execCollectiveAccept q s
  | .allReduce q => Sys2Proof.Machine.execAllReduce q s
  | .reduceScatter q => Sys2Proof.Machine.execReduceScatter q s
  | .allGather q => Sys2Proof.Machine.execAllGather q s
  | .broadcast q => Sys2Proof.Machine.execBroadcast q s
  | .allToAllV q => Sys2Proof.Machine.execAllToAllV q s
  | .barrier q => Sys2Proof.Machine.execBarrier q s
  | .collectivePacketReceive pkt => Sys2Proof.Machine.execCollectivePacketReceive pkt s
  | .collectiveWaitDeadline q => Sys2Proof.Machine.execCollectiveWaitDeadline q s
  | .collectiveComplete q => Sys2Proof.Machine.execCollectiveComplete q s
  | .abortReceive l ab => Sys2Proof.Machine.execAbortReceive l ab s
  | .abortRepeat l => Sys2Proof.Machine.execAbortRepeat l s
  | .jobAbort q => Sys2Proof.Machine.execJobAbort q s
  | .jobFatalHalt => Sys2Proof.Machine.execJobFatalHalt s
  | .haltTimeout => Sys2Proof.Machine.execHaltTimeout s
  | .deviceFatal cause detail => Sys2Proof.Machine.execDeviceFatal cause detail s
  | .haltctlHalt => Sys2Proof.Machine.execHaltctlHalt s
  | .errinj fn off v => Sys2Proof.Machine.execErrinj fn off v s
  | .bootBist fuses fails => Sys2Proof.Machine.execBootBist fuses fails s
  | .fwaddrHiWrite v => Sys2Proof.Machine.execFwaddrHiWrite v s
  | .verify => Sys2Proof.Machine.execVerify s
  | .train res => Sys2Proof.Machine.execTrain res s
  | .load => Sys2Proof.Machine.execLoad s
  | .sectionFetch u badReads => Sys2Proof.Machine.execSectionFetch u badReads s
  | .ready ms => Sys2Proof.Machine.execReady ms s
  | .arbctlCommit => Sys2Proof.Machine.execArbctlCommit s
  | .getkey => Sys2Proof.Machine.execGetkey s
  | .attest nonce => Sys2Proof.Machine.execAttest nonce s
  | .dbgchal => Sys2Proof.Machine.execDbgchal s
  | .dbgunlock token => Sys2Proof.Machine.execDbgunlock token s
  | .sqtailDoorbell q v => Sys2Proof.Machine.execSqtailDoorbell q v s
  | .cqheadDoorbell q v => Sys2Proof.Machine.execCqheadDoorbell q v s
  | .queueEnable q => Sys2Proof.Machine.execQueueEnable q s
  | .hostCommandFetch => Sys2Proof.Machine.execHostCommandFetch s
  | .completionPost q => Sys2Proof.Machine.execCompletionPost q s
  | .launchGraph q => Sys2Proof.Machine.execLaunchGraph q s
  | .dmaCopy q => Sys2Proof.Machine.execDmaCopy q s
  | .fence q => Sys2Proof.Machine.execFence q s
  | .selftest q => Sys2Proof.Machine.execSelftest q s
  | .calibrate q => Sys2Proof.Machine.execCalibrate q s
  | .syncDump q => Sys2Proof.Machine.execSyncDump q s
  | .telemetrySnapshot q => Sys2Proof.Machine.execTelemetrySnapshot q s
  | .nop q => Sys2Proof.Machine.execNop q s
  | .invcmdAll => Sys2Proof.Machine.execInvcmdAll s
  | .invcmdRange => Sys2Proof.Machine.execInvcmdRange s
  | .bar2Access off acc => Sys2Proof.Machine.execBar2Access off acc s
  | .flrPf1 => Sys2Proof.Machine.execFlrPf1 s
  | .flrPf0 => Sys2Proof.Machine.execFlrPf0 s
  | .devrst fn v => Sys2Proof.Machine.execDevrst fn v s
  | .ctrlEnSet fn page => Sys2Proof.Machine.execCtrlEnSet fn page s
  | .registerWrite fn off v => Sys2Proof.Machine.execRegisterWrite fn off v s
  | .stackLinkFailure x => Sys2Proof.Machine.execStackLinkFailure x s
  | .stackLinkFlitResend x => Sys2Proof.Machine.execStackLinkFlitResend x s
  | .ptmExchange hostTime => Sys2Proof.Machine.execPtmExchange hostTime s
  | .smbusTargetAccess acc => Sys2Proof.Machine.execSmbusTargetAccess acc s
  | .rngHealthTestPass x => Sys2Proof.Machine.execRngHealthTestPass x s
  | .refclkPcieLoss => Sys2Proof.Machine.execRefclkPcieLoss s
  | .refclkPcieReturn => Sys2Proof.Machine.execRefclkPcieReturn s
  | .loReadLatch off => Sys2Proof.Machine.execLoReadLatch off s
  | .slowRelayEnd => Sys2Proof.Machine.execSlowRelayEnd s
  | .supplyRecovery h => Sys2Proof.Machine.execSupplyRecovery h s
  | .jobFormTimeout => Sys2Proof.Machine.execJobFormTimeout s

end Sys2Proof.Machine
end

