-- ==== Sys2Proof/Machine/Tick.lean ====
section
/-! DEFINITION. Machine/Tick.lean: what happens with time alone: one nanosecond of clock T (R220, R516, R571). -/

namespace Sys2Proof.Machine

open Sys2Proof

/-- Each enabled engine's request-queue occupancy is sampled once per microsecond (R220). -/
def State.sample (s : State) : State :=
  { s with units := s.units.map fun (p : Nat × SUnit) => (p.1, { p.2 with occ := p.2.occ + (p.2.rq.length + p.2.uq.length) }) }

/-- Clock T runs while the device has power and the root PLL is locked (R571, R573, R580). -/
def State.clockT (s : State) : Bool := s.pw.powered && s.pw.locked

/-- Out of the fundamental reset the hub's ROM brings up the endpoint, and the boot goes on to BIST (R595; log entry 4). -/
def State.romDone (s : State) : State :=
  if s.boot.state = 0 ∧ s.pw.pwrgd = true ∧ s.pw.perst = false then s.bootTo 1 else s

/-- One nanosecond passes: the timestamp advances; at each microsecond the engines are sampled; the boot leaves ROM (R220, R516,
R595; log entry 4). -/
def State.tick (s : State) : State :=
  if !s.clockT then s
  else
    let s1 := ({ s with now := s.now + 1 } : State).romDone
    if s1.now.toNat % 1000 = 0 then s1.sample else s1

end Sys2Proof.Machine
end

