-- ==== Sys2Proof/WellFormed.lean ====
section
/-! DEFINITION. WellFormed.lean: the operands that the interfaces can carry: lists of the length that the spec gives them. -/

namespace Sys2Proof

/-- A packet's payload is at most 2,048 bytes (R489). -/
def Packet.wf (p : Packet) : Bool := decide (p.payload.length ≤ 2048)

/-- The operands of a command have the shape that its interface carries: a rail voltage and a power for each of 32 clusters
(R575, R576), a flit of 128 or 256 bytes (R488), a fuse image of 2,048 bytes (R598), a rate for each of four PHY dies (R453),
payloads that a packet holds (R489). -/
def Instr.wf : Instr → Bool
  | .avsUpdate rails => rails.length == 32
  | .powerBudgetUpdate _ mw => mw.length == 32
  | .dataFlitReceive _ flit => flit.bytes.length == 128 || flit.bytes.length == 256
  | .packetReceive _ _ pkt => pkt.wf
  | .flowPacketDeliver pkt => pkt.wf
  | .collectivePacketReceive pkt => pkt.wf
  | .bootBist fuses _ => fuses.first.length == 2048 && (fuses.second.isEmpty || fuses.second.length == 2048)
  | .train res => res.rates.length == 4
  | _ => true

end Sys2Proof
end

