-- ==== Sys2Proof/Safety.lean ====
section
/-! DEFINITION. Safety.lean: what statements call a sound state, a step that stops nothing, and the kinds of state that a
command may change. -/

namespace Sys2Proof.Machine

open Sys2Proof

/-- Device and host memory stand in their canonical form: addresses strictly rising, no cell equal to what an unlisted address
reads as. -/
def State.memOk (s : State) : Bool := Memory.wf s.mem && Memory.wf s.hostMem

/-- A command's step ends in a next state. -/
def completes (i : Instr) (s : State) : Prop := ∃ t, exec i s = .next t

/-! ## What statements share -/

/-- What a device reset or the loss of power leaves (R567, R580, R597): pins, clocks and power as `p`, the fuses, the waiting
commands, the host's memory and what has left the module; every byte of device memory undefined; everything else as at reset. -/
def DeviceReset (s : State) (p : Power) (t : State) : Prop :=
  { t with mem := [], junk := [], free := s.free } =
    { State.reset with
      pending := s.pending, hostMem := s.hostMem, out := s.out, free := s.free
      boot := { State.reset.boot with fuses := s.boot.fuses }
      pw := p } ∧
  ∀ a < 2 ^ 48, t.byte a = Config.freeByte s.free a

/-- A step from `s` to `t` of core `c` that reaches nothing outside the core: its own state and the registers of its own `COR`
page may differ, everything else is as before. -/
def OnlyCore (c : Nat) (s t : State) : Prop :=
  { t with cores := s.cores, regs := s.regs } = s ∧ (∀ d, d ≠ c → t.core d = s.core d) ∧
    ∀ o, o / 0x1000 ≠ pgCor c / 0x1000 → t.reg o = s.reg o

/-! ## What a command leaves alone -/

/-- The kinds of state: the fields of `State` but the queue of waiting commands. -/
inductive Field where
  | free | now | regs | mem | poison | upsets | junk | hostMem | pw | boot | cores | homes | fg | sengs | graphs
  | chans | modes | tlb | queues | hostRr | ras | links | serial | servers | units | upk | seqTx | seqRx | srcEpoch
  | tables | moves | epWaits | retired | repair | rowTrack | cols | disps | colIn | flowTx | flowWait | flowRx
  | rxParts | upFails | upStops | top | msix | latch | bar2Wait | chanWait | out
  deriving DecidableEq, Repr

/-- Two states agree in one kind of state. -/
def Field.same (f : Field) (s t : State) : Prop :=
  match f with
  | .free => t.free = s.free
  | .now => t.now = s.now
  | .regs => t.regs = s.regs
  | .mem => t.mem = s.mem
  | .poison => t.poison = s.poison
  | .upsets => t.upsets = s.upsets
  | .junk => t.junk = s.junk
  | .hostMem => t.hostMem = s.hostMem
  | .pw => t.pw = s.pw
  | .boot => t.boot = s.boot
  | .cores => t.cores = s.cores
  | .homes => t.homes = s.homes
  | .fg => t.fg = s.fg
  | .sengs => t.sengs = s.sengs
  | .graphs => t.graphs = s.graphs
  | .chans => t.chans = s.chans
  | .modes => t.modes = s.modes
  | .tlb => t.tlb = s.tlb
  | .queues => t.queues = s.queues
  | .hostRr => t.hostRr = s.hostRr
  | .ras => t.ras = s.ras
  | .links => t.links = s.links
  | .serial => t.serial = s.serial
  | .servers => t.servers = s.servers
  | .units => t.units = s.units
  | .upk => t.upk = s.upk
  | .seqTx => t.seqTx = s.seqTx
  | .seqRx => t.seqRx = s.seqRx
  | .srcEpoch => t.srcEpoch = s.srcEpoch
  | .tables => t.tables = s.tables
  | .moves => t.moves = s.moves
  | .epWaits => t.epWaits = s.epWaits
  | .retired => t.retired = s.retired
  | .repair => t.repair = s.repair
  | .rowTrack => t.rowTrack = s.rowTrack
  | .cols => t.cols = s.cols
  | .disps => t.disps = s.disps
  | .colIn => t.colIn = s.colIn
  | .flowTx => t.flowTx = s.flowTx
  | .flowWait => t.flowWait = s.flowWait
  | .flowRx => t.flowRx = s.flowRx
  | .rxParts => t.rxParts = s.rxParts
  | .upFails => t.upFails = s.upFails
  | .upStops => t.upStops = s.upStops
  | .top => t.top = s.top
  | .msix => t.msix = s.msix
  | .latch => t.latch = s.latch
  | .bar2Wait => t.bar2Wait = s.bar2Wait
  | .chanWait => t.chanWait = s.chanWait
  | .out => t.out = s.out

/-- A step from `s` to `t` changes no kind of state outside `w`. -/
def Keeps (w : List Field) (s t : State) : Prop := ∀ f, f ∉ w → f.same s t

/-- The kinds of state that a command may change. `regs` are page registers, counters and interrupt bits among them; `boot` is
named where a fatal event may be noted (R611), `tlb` where a translation may be cached (R640), `mem`, `poison` and `junk`
where bytes of the device map may be written, `free` where the model takes a free value (log entry 3). -/
def writes : Instr → List Field
  | .pwrEnRise => [.pw]
  | .pwrEnFall =>
    [.free, .now, .regs, .mem, .poison, .upsets, .junk, .pw, .boot, .cores, .homes, .fg, .sengs, .graphs, .chans,
      .modes, .tlb, .queues, .hostRr, .ras, .links, .serial, .servers, .units, .upk, .seqTx, .seqRx, .srcEpoch, .tables,
      .moves, .epWaits, .retired, .repair, .rowTrack, .cols, .disps, .colIn, .flowTx, .flowWait, .flowRx, .rxParts,
      .upFails, .upStops, .top, .msix, .latch, .bar2Wait, .chanWait]
  | .pwrgdRise => [.pw]
  | .railLeavesRegulation | .perstNAssert =>
    [.free, .now, .regs, .mem, .poison, .upsets, .junk, .pw, .boot, .cores, .homes, .fg, .sengs, .graphs, .chans,
      .modes, .tlb, .queues, .hostRr, .ras, .links, .serial, .servers, .units, .upk, .seqTx, .seqRx, .srcEpoch, .tables,
      .moves, .epWaits, .retired, .repair, .rowTrack, .cols, .disps, .colIn, .flowTx, .flowWait, .flowRx, .rxParts,
      .upFails, .upStops, .top, .msix, .latch, .bar2Wait, .chanWait]
  | .perstNDeassert | .rootPllLock => [.pw]
  | .refclkRackLoss => [.regs, .mem, .poison, .upsets, .junk, .hostMem, .pw, .ras, .links, .units, .msix, .out]
  | .refclkRackReturn => [.pw, .links]
  | .pllLockLoss =>
    [.free, .regs, .mem, .poison, .upsets, .junk, .hostMem, .pw, .boot, .cores, .homes, .sengs, .graphs, .tlb, .queues,
      .ras, .links, .servers, .units, .upk, .tables, .epWaits, .repair, .rowTrack, .cols, .disps, .flowTx, .flowWait,
      .top, .msix, .out]
  | .rackSyncEdge => [.now, .regs, .pw, .top, .msix]
  | .rackSyncMissing => [.regs, .top, .msix]
  | .supplyDroop _ | .avsUpdate _ => [.pw]
  | .powerBudgetUpdate _ _ | .fastLimit _ => [.regs, .pw]
  | .dieTemperatureLevel _ _ =>
    [.regs, .mem, .poison, .upsets, .junk, .hostMem, .pw, .boot, .ras, .units, .msix, .out]
  | .maintenanceFrameBoundary =>
    [.free, .regs, .mem, .poison, .upsets, .junk, .hostMem, .pw, .boot, .homes, .chans, .queues, .ras, .links, .servers,
      .units, .tables, .moves, .repair, .rowTrack, .top, .msix, .bar2Wait, .chanWait, .out]
  | .slotStart _ =>
    [.free, .regs, .mem, .poison, .upsets, .junk, .hostMem, .pw, .boot, .cores, .homes, .chans, .queues, .ras, .links,
      .servers, .units, .tables, .moves, .repair, .rowTrack, .top, .msix, .bar2Wait, .chanWait, .out]
  | .slotEndCut =>
    [.free, .regs, .mem, .poison, .upsets, .junk, .hostMem, .pw, .boot, .homes, .chans, .ras, .links, .servers, .units,
      .tables, .moves, .repair, .rowTrack, .top, .msix, .bar2Wait, .chanWait, .out]
  | .perBankRefresh _ _ => []
  | .autoSnapshot =>
    [.free, .regs, .mem, .poison, .upsets, .junk, .hostMem, .pw, .boot, .homes, .ras, .servers, .units, .repair,
      .rowTrack, .msix, .out]
  | .placementDrainEnd _ =>
    [.free, .regs, .mem, .poison, .upsets, .junk, .hostMem, .pw, .boot, .homes, .ras, .servers, .units, .upk, .tables,
      .moves, .repair, .rowTrack, .msix, .out]
  | .trackerAgeing => [.pw, .units]
  | .slotenWrite _ => [.regs, .msix]
  | .rv64imacInstruction _ =>
    [.free, .regs, .mem, .poison, .upsets, .junk, .hostMem, .boot, .cores, .homes, .tlb, .ras, .units, .repair,
      .rowTrack, .msix, .out]
  | .l1dLineFill _ _ =>
    [.free, .regs, .mem, .poison, .upsets, .junk, .hostMem, .boot, .cores, .homes, .ras, .units, .repair, .rowTrack,
      .msix, .out]
  | .l2LineFill _ _ | .wayDisable _ _ _ =>
    [.free, .regs, .mem, .poison, .upsets, .junk, .hostMem, .boot, .homes, .ras, .units, .repair, .rowTrack, .msix,
      .out]
  | .mma _ _ _ _ | .mmax _ _ _ _ _ _ _ _ _ | .mmaComplete _ => [.regs, .cores]
  | .mld _ _ _ _ _ _ _ | .mst _ _ _ _ _ _ _ | .mlda _ _ _ _ =>
    [.free, .regs, .mem, .poison, .upsets, .junk, .hostMem, .boot, .cores, .homes, .tlb, .ras, .units, .repair,
      .rowTrack, .msix, .out]
  | .mz _ _ | .mtv _ _ _ _ _ | .mfv _ _ _ | .scompress _ _ _ | .stranspose _ _ _ => [.regs, .cores]
  | .sci _ _ _ _ | .scin _ _ _ _ =>
    [.free, .regs, .mem, .poison, .upsets, .junk, .hostMem, .boot, .cores, .homes, .tlb, .ras, .serial, .servers,
      .units, .seqTx, .repair, .rowTrack, .msix, .out]
  | .sti _ _ _ _ | .stin _ _ _ _ =>
    [.free, .regs, .mem, .poison, .upsets, .junk, .hostMem, .boot, .cores, .homes, .sengs, .tlb, .ras, .units, .repair,
      .rowTrack, .msix, .out]
  | .wend _ => [.regs, .cores, .homes, .msix]
  | .opStart _ => [.free, .cores]
  | .coreSoftReset _ => [.regs, .cores, .homes, .fg, .sengs, .seqTx, .srcEpoch, .msix]
  | .coreEnable _ _ => [.regs, .cores, .homes, .fg, .msix]
  | .halt _ | .resume _ | .step _ => [.regs, .cores, .msix]
  | .vsetvl _ _ _ _ _ | .vadd _ _ _ _ | .vsub _ _ _ _ | .vmul _ _ _ _ | .vdiv _ _ _ _ | .vmax _ _ _ _
  | .vmin _ _ _ _ | .vfma _ _ _ _ | .vfms _ _ _ _ | .vabs _ _ _ _ | .vneg _ _ _ _ | .vsqrt _ _ _ _ | .vand _ _ _ _
  | .vor _ _ _ _ | .vxor _ _ _ _ | .vshl _ _ _ _ | .vsra _ _ _ _ | .eq _ _ _ _ | .ne _ _ _ _ | .lt _ _ _ _
  | .le _ _ _ _ | .gt _ _ _ _ | .ge _ _ _ _ | .unord _ _ _ _ | .vmlog _ _ _ _ _ | .vmpop _ _ _ => [.regs, .cores]
  | .vcvt _ _ _ _ | .rsum _ _ _ _ | .rmax _ _ _ _ | .rmin _ _ _ _ | .ramax _ _ _ _ => [.free, .regs, .cores]
  | .vperm _ _ _ _ | .vcompress _ _ _ _ | .vexpand _ _ _ _ | .vshuf _ _ _ _ _ | .vpacke _ _ _ _ | .vpacko _ _ _ _
  | .vunpkl _ _ _ _ | .vunpkh _ _ _ _ => [.regs, .cores]
  | .vld _ _ _ _ | .vlds _ _ _ _ _ | .vst _ _ _ _ | .vsts _ _ _ _ _ =>
    [.free, .regs, .mem, .poison, .upsets, .junk, .hostMem, .boot, .cores, .homes, .tlb, .ras, .units, .repair,
      .rowTrack, .msix, .out]
  | .vmvx _ _ _ _ | .vbci _ _ _ | .vbciz _ _ _ => [.regs, .cores]
  | .bst _ _ _ _ | .bstn _ _ _ _ | .bld _ _ _ | .bpeek _ _ _ | .cadd _ _ _ _ | .csub _ _ _ _ | .cwait _ _ _ _
  | .cread _ _ _ =>
    [.free, .regs, .mem, .poison, .upsets, .junk, .hostMem, .boot, .cores, .homes, .tlb, .ras, .units, .repair,
      .rowTrack, .msix, .out]
  | .fenceS _ _ => [.regs, .cores, .serial, .servers]
  | .farrive _ _ _ | .fwait _ _ _ | .fsync _ _ _ | .filigreeRelease _ => [.regs, .cores, .fg]
  | .crange _ _ _ _ _ | .sclaim _ _ _ _ =>
    [.free, .regs, .mem, .poison, .upsets, .junk, .hostMem, .boot, .cores, .homes, .tlb, .ras, .units, .repair,
      .rowTrack, .msix, .out]
  | .clockGate _ => [.cores]
  | .hangWatch _ =>
    [.free, .regs, .mem, .poison, .upsets, .junk, .hostMem, .boot, .cores, .homes, .tlb, .ras, .units, .repair,
      .rowTrack, .disps, .msix, .out]
  | .dbgset _ _ => [.regs, .cores, .homes, .msix]
  | .preempt _ =>
    [.free, .regs, .mem, .poison, .upsets, .junk, .hostMem, .boot, .cores, .homes, .fg, .tlb, .ras, .units, .repair,
      .rowTrack, .msix, .out]
  | .preemptRestore _ =>
    [.free, .regs, .mem, .poison, .upsets, .junk, .hostMem, .boot, .cores, .homes, .ras, .units, .repair, .rowTrack,
      .msix, .out]
  | .opRelease _ =>
    [.free, .regs, .mem, .poison, .upsets, .junk, .hostMem, .boot, .homes, .graphs, .tlb, .ras, .units, .repair,
      .rowTrack, .msix, .out]
  | .opEndReport _ =>
    [.free, .regs, .mem, .poison, .upsets, .junk, .hostMem, .boot, .cores, .homes, .graphs, .tlb, .queues, .ras, .units,
      .repair, .rowTrack, .msix, .out]
  | .opPlacement _ | .affinityHoldExpiry _ =>
    [.free, .regs, .mem, .poison, .upsets, .junk, .hostMem, .boot, .cores, .homes, .tlb, .ras, .units, .repair,
      .rowTrack, .msix, .out]
  | .frontEndTakeCommand _ =>
    [.free, .regs, .mem, .poison, .upsets, .junk, .hostMem, .boot, .homes, .tlb, .ras, .servers, .units, .seqRx,
      .repair, .rowTrack, .msix, .out]
  | .gatherPool _ | .gather _ | .segPool _ =>
    [.free, .regs, .mem, .poison, .upsets, .junk, .hostMem, .boot, .homes, .tlb, .ras, .links, .serial, .servers,
      .units, .tables, .repair, .rowTrack, .flowTx, .flowWait, .top, .msix, .out]
  | .copy _ =>
    [.free, .regs, .mem, .poison, .upsets, .junk, .hostMem, .boot, .homes, .tlb, .ras, .servers, .units, .repair,
      .rowTrack, .msix, .out]
  | .probe _ =>
    [.free, .regs, .mem, .poison, .upsets, .junk, .hostMem, .boot, .homes, .tlb, .ras, .servers, .units, .tables,
      .repair, .rowTrack, .msix, .out]
  | .hhRead _ =>
    [.free, .regs, .mem, .poison, .upsets, .junk, .hostMem, .boot, .homes, .tlb, .ras, .servers, .units, .repair,
      .rowTrack, .msix, .out]
  | .scatterAdd _ | .scatterMax _ | .scatterMin _ =>
    [.free, .regs, .mem, .poison, .upsets, .junk, .hostMem, .boot, .homes, .tlb, .ras, .links, .serial, .servers,
      .units, .upk, .seqTx, .tables, .repair, .rowTrack, .flowTx, .flowWait, .top, .msix, .out]
  | .updateFence _ =>
    [.free, .regs, .mem, .poison, .upsets, .junk, .hostMem, .boot, .homes, .ras, .links, .servers, .units, .repair,
      .rowTrack, .flowTx, .flowWait, .top, .msix, .out]
  | .migrateRow _ =>
    [.free, .regs, .mem, .poison, .upsets, .junk, .hostMem, .boot, .homes, .ras, .links, .servers, .units, .tables,
      .repair, .rowTrack, .flowTx, .flowWait, .top, .msix, .out]
  | .neighAgg _ | .chunkTaskExpand _ | .sampleAgg _ =>
    [.free, .regs, .mem, .poison, .upsets, .junk, .hostMem, .boot, .homes, .tlb, .ras, .links, .serial, .servers,
      .units, .tables, .repair, .rowTrack, .flowTx, .flowWait, .top, .msix, .out]
  | .rngHealthTestFail _ => [.regs]
  | .subCommandReceive _ => [.serial, .servers, .units]
  | .sectorReadRequest _ => [.regs, .servers, .units]
  | .dramReadReturn _ _ _ =>
    [.free, .regs, .mem, .poison, .upsets, .junk, .hostMem, .boot, .homes, .ras, .servers, .units, .repair, .rowTrack,
      .msix, .out]
  | .routingContextResume _ =>
    [.free, .regs, .mem, .poison, .upsets, .junk, .hostMem, .boot, .homes, .tlb, .ras, .links, .serial, .servers,
      .units, .upk, .tables, .repair, .rowTrack, .flowTx, .flowWait, .top, .msix, .out]
  | .bagMergeRoot _ =>
    [.free, .regs, .mem, .poison, .upsets, .junk, .hostMem, .boot, .homes, .tlb, .ras, .links, .servers, .units,
      .repair, .rowTrack, .flowTx, .flowWait, .top, .msix, .out]
  | .accumulatingWrite _ =>
    [.free, .regs, .mem, .poison, .upsets, .junk, .hostMem, .boot, .homes, .ras, .units, .repair, .rowTrack, .msix,
      .out]
  | .commandComplete _ =>
    [.free, .regs, .mem, .poison, .upsets, .junk, .hostMem, .boot, .cores, .homes, .queues, .ras, .links, .servers,
      .units, .repair, .rowTrack, .disps, .flowTx, .flowWait, .top, .msix, .out]
  | .sectorUpdate _ =>
    [.free, .regs, .mem, .poison, .upsets, .junk, .hostMem, .boot, .homes, .ras, .links, .servers, .units, .upk,
      .repair, .rowTrack, .flowTx, .flowWait, .upFails, .top, .msix, .out]
  | .uctctlFlush _ =>
    [.free, .regs, .mem, .poison, .upsets, .junk, .hostMem, .boot, .homes, .ras, .servers, .units, .repair, .rowTrack,
      .msix, .out]
  | .updatePacketReceive _ _ =>
    [.regs, .mem, .poison, .upsets, .junk, .hostMem, .boot, .ras, .units, .upk, .seqRx, .out]
  | .updatePacketAck _ => [.upk]
  | .srseedWrite _ _ => [.regs]
  | .cqcfgEn _ _ _ => [.regs, .msix]
  | .tableRegister _ | .tableReplace _ =>
    [.free, .regs, .mem, .poison, .upsets, .junk, .hostMem, .boot, .homes, .tlb, .queues, .ras, .links, .serial,
      .servers, .units, .upk, .tables, .epWaits, .retired, .repair, .rowTrack, .flowTx, .flowWait, .upFails, .upStops,
      .top, .msix, .out]
  | .tableRetire _ => [.regs, .queues, .tables]
  | .tableRetireDrained _ _ =>
    [.regs, .mem, .poison, .upsets, .junk, .hostMem, .boot, .queues, .ras, .links, .units, .tables, .retired, .flowTx,
      .flowWait, .top, .msix, .out]
  | .migrate _ =>
    [.free, .regs, .mem, .poison, .upsets, .junk, .hostMem, .boot, .homes, .tlb, .queues, .ras, .serial, .servers,
      .units, .seqRx, .repair, .rowTrack, .msix, .out]
  | .epochWaitExpiry _ =>
    [.regs, .mem, .poison, .upsets, .junk, .hostMem, .boot, .ras, .links, .units, .epWaits, .flowTx, .flowWait,
      .upFails, .top, .msix, .out]
  | .routedDispatch _ =>
    [.free, .regs, .mem, .poison, .upsets, .junk, .hostMem, .boot, .cores, .homes, .tlb, .ras, .links, .serial,
      .servers, .units, .seqRx, .tables, .repair, .rowTrack, .cols, .disps, .flowTx, .flowWait, .top, .msix, .out]
  | .countExchangeReceive _ _ _ _ | .dispatchReleaseWaitDone _ =>
    [.free, .regs, .mem, .poison, .upsets, .junk, .hostMem, .boot, .cores, .homes, .tlb, .ras, .links, .serial,
      .servers, .units, .seqRx, .tables, .repair, .rowTrack, .disps, .flowTx, .flowWait, .top, .msix, .out]
  | .dispatchCombine _ =>
    [.free, .regs, .mem, .poison, .upsets, .junk, .hostMem, .boot, .homes, .tlb, .ras, .serial, .servers, .units,
      .seqRx, .repair, .rowTrack, .disps, .msix, .out]
  | .dispatchComplete _ =>
    [.free, .regs, .mem, .poison, .upsets, .junk, .hostMem, .boot, .cores, .homes, .tlb, .ras, .units, .repair,
      .rowTrack, .cols, .disps, .msix, .out]
  | .streamDescriptorStart _ =>
    [.free, .regs, .mem, .poison, .upsets, .junk, .hostMem, .boot, .cores, .homes, .sengs, .tlb, .ras, .units, .repair,
      .rowTrack, .msix, .out]
  | .strided _ | .streamGather _ | .bitmap _ | .chain _ | .sorlist _ =>
    [.free, .regs, .mem, .poison, .upsets, .junk, .hostMem, .boot, .cores, .homes, .sengs, .tlb, .ras, .links, .serial,
      .servers, .units, .seqTx, .repair, .rowTrack, .flowTx, .flowWait, .top, .msix, .out]
  | .tileLanded _ => [.regs, .cores, .sengs]
  | .streamPageFault _ => [.regs, .sengs, .msix]
  | .pageResume _ => [.regs, .sengs, .queues]
  | .streamComplete _ => [.regs, .cores, .homes, .sengs]
  | .srst _ => [.regs, .sengs, .seqTx, .srcEpoch, .msix]
  | .cleanRange _ | .flushRange _ | .invalidateRange _ | .cleanAll _ | .flushAll _ | .invalidateAll _ =>
    [.free, .regs, .mem, .poison, .upsets, .junk, .hostMem, .boot, .homes, .ras, .units, .repair, .rowTrack, .msix,
      .chanWait, .out]
  | .l2Enable _ =>
    [.free, .regs, .mem, .poison, .upsets, .junk, .hostMem, .boot, .homes, .ras, .units, .repair, .rowTrack, .msix,
      .out]
  | .l2Disable _ =>
    [.free, .regs, .mem, .poison, .upsets, .junk, .hostMem, .boot, .homes, .ras, .units, .repair, .rowTrack, .msix,
      .chanWait, .out]
  | .rgncommit => [.free, .regs, .mem, .junk, .modes, .msix]
  | .pcctlRetrain _ _ | .chctlRetrain _ => [.regs, .chans, .msix]
  | .forcedRetrain _ =>
    [.free, .regs, .mem, .poison, .upsets, .junk, .hostMem, .boot, .homes, .chans, .ras, .servers, .units, .moves,
      .repair, .rowTrack, .msix, .out]
  | .retrainAttemptEnd _ _ _ =>
    [.free, .regs, .mem, .poison, .upsets, .junk, .hostMem, .pw, .boot, .cores, .homes, .sengs, .graphs, .chans, .tlb,
      .queues, .ras, .links, .servers, .units, .upk, .seqRx, .tables, .epWaits, .repair, .rowTrack, .cols, .disps,
      .colIn, .flowTx, .flowWait, .flowRx, .rxParts, .upFails, .upStops, .top, .msix, .bar2Wait, .chanWait, .out]
  | .stackTemperatureLevel _ _ =>
    [.free, .regs, .mem, .poison, .upsets, .junk, .hostMem, .boot, .cores, .homes, .fg, .tlb, .queues, .ras, .links,
      .servers, .units, .upk, .repair, .rowTrack, .disps, .flowTx, .flowWait, .top, .msix, .out]
  | .packageTemperatureLevel _ _ =>
    [.regs, .mem, .poison, .upsets, .junk, .hostMem, .boot, .ras, .servers, .units, .upk, .msix, .out]
  | .dataFlitReceive _ _ => [.regs, .mem, .poison, .upsets, .junk, .hostMem, .ras, .links, .units, .msix, .out]
  | .negativeAckReceive _ _ =>
    [.free, .regs, .mem, .poison, .upsets, .junk, .hostMem, .ras, .links, .units, .msix, .out]
  | .linkControlCredit _ _ _ => [.regs, .links, .out]
  | .flitResendLimit _ => [.regs, .mem, .poison, .upsets, .junk, .hostMem, .ras, .links, .units, .msix, .out]
  | .laneFailure _ _ => [.free, .regs, .mem, .poison, .upsets, .junk, .hostMem, .ras, .links, .units, .msix, .out]
  | .linkTrainDone _ => [.links, .out]
  | .linkTrainRetry _ => [.links]
  | .discoveryExchange _ _ =>
    [.free, .regs, .mem, .poison, .upsets, .junk, .hostMem, .ras, .links, .units, .top, .msix, .out]
  | .discoveryTimeout => [.regs, .mem, .poison, .upsets, .junk, .hostMem, .ras, .links, .units, .msix, .out]
  | .linkDownFailover _ =>
    [.regs, .mem, .poison, .upsets, .junk, .hostMem, .boot, .ras, .links, .units, .flowTx, .top, .msix, .out]
  | .packetReceive _ _ _ =>
    [.regs, .mem, .poison, .upsets, .junk, .hostMem, .boot, .ras, .links, .units, .top, .msix, .out]
  | .flowPacketDeliver _ =>
    [.free, .regs, .mem, .poison, .upsets, .junk, .hostMem, .boot, .homes, .sengs, .tlb, .ras, .links, .serial,
      .servers, .units, .upk, .seqRx, .tables, .epWaits, .repair, .rowTrack, .colIn, .flowTx, .flowWait, .flowRx,
      .rxParts, .upFails, .upStops, .top, .msix, .out]
  | .flowAckSend _ =>
    [.regs, .mem, .poison, .upsets, .junk, .hostMem, .boot, .ras, .links, .units, .flowRx, .upFails, .top, .msix, .out]
  | .flowAckReceive _ =>
    [.regs, .mem, .poison, .upsets, .junk, .hostMem, .boot, .ras, .links, .units, .flowTx, .flowWait, .top, .msix, .out]
  | .flowResendTimeout _ =>
    [.regs, .mem, .poison, .upsets, .junk, .hostMem, .boot, .ras, .links, .units, .flowTx, .top, .msix, .out]
  | .timeFlitExchange _ _ _ => [.regs, .links, .top, .msix, .out]
  | .planLoad =>
    [.free, .regs, .mem, .poison, .upsets, .junk, .hostMem, .boot, .homes, .ras, .links, .units, .repair, .rowTrack,
      .top, .msix, .chanWait, .out]
  | .jobForm _ _ _ =>
    [.free, .regs, .mem, .poison, .upsets, .junk, .hostMem, .boot, .homes, .queues, .ras, .links, .units, .seqTx,
      .seqRx, .srcEpoch, .epWaits, .repair, .rowTrack, .cols, .colIn, .flowTx, .flowWait, .flowRx, .rxParts, .upFails,
      .upStops, .top, .msix, .out]
  | .dissolve =>
    [.regs, .mem, .poison, .upsets, .junk, .hostMem, .ras, .links, .units, .seqRx, .epWaits, .colIn, .flowTx, .flowWait,
      .flowRx, .rxParts, .upFails, .upStops, .top, .msix, .out]
  | .detload =>
    [.free, .regs, .mem, .poison, .upsets, .junk, .hostMem, .boot, .homes, .ras, .units, .repair, .rowTrack, .top,
      .msix, .chanWait, .out]
  | .retrain _ => [.links]
  | .linkHold _ => [.regs, .mem, .poison, .upsets, .junk, .hostMem, .ras, .links, .units, .msix, .out]
  | .linkRelease _ => [.links]
  | .collectiveAccept _ =>
    [.free, .regs, .mem, .poison, .upsets, .junk, .hostMem, .boot, .homes, .tlb, .ras, .units, .repair, .rowTrack,
      .cols, .disps, .msix, .out]
  | .allReduce _ | .reduceScatter _ | .allGather _ | .broadcast _ | .allToAllV _ | .barrier _ =>
    [.free, .regs, .mem, .poison, .upsets, .junk, .hostMem, .boot, .homes, .tlb, .ras, .links, .units, .repair,
      .rowTrack, .cols, .flowTx, .flowWait, .top, .msix, .out]
  | .collectivePacketReceive _ =>
    [.regs, .mem, .poison, .upsets, .junk, .hostMem, .boot, .ras, .units, .cols, .disps, .colIn, .top, .out]
  | .collectiveWaitDeadline _ =>
    [.regs, .mem, .poison, .upsets, .junk, .hostMem, .boot, .ras, .units, .cols, .disps, .out]
  | .collectiveComplete _ =>
    [.free, .regs, .mem, .poison, .upsets, .junk, .hostMem, .boot, .cores, .homes, .tlb, .ras, .units, .repair,
      .rowTrack, .cols, .msix, .out]
  | .abortReceive _ _ =>
    [.free, .regs, .mem, .poison, .upsets, .junk, .hostMem, .pw, .boot, .cores, .homes, .sengs, .graphs, .tlb, .queues,
      .ras, .links, .servers, .units, .upk, .seqRx, .tables, .epWaits, .repair, .rowTrack, .cols, .disps, .colIn,
      .flowTx, .flowWait, .flowRx, .rxParts, .upFails, .upStops, .top, .msix, .out]
  | .abortRepeat _ => [.out]
  | .jobAbort _ =>
    [.regs, .mem, .poison, .upsets, .junk, .hostMem, .boot, .queues, .ras, .links, .units, .seqRx, .epWaits, .colIn,
      .flowTx, .flowWait, .flowRx, .rxParts, .upFails, .upStops, .top, .msix, .out]
  | .jobFatalHalt =>
    [.free, .regs, .mem, .poison, .upsets, .junk, .hostMem, .pw, .boot, .cores, .homes, .sengs, .graphs, .tlb, .queues,
      .ras, .links, .servers, .units, .upk, .seqRx, .tables, .epWaits, .repair, .rowTrack, .cols, .disps, .colIn,
      .flowTx, .flowWait, .flowRx, .rxParts, .upFails, .upStops, .top, .msix, .out]
  | .haltTimeout | .deviceFatal _ _ =>
    [.free, .regs, .mem, .poison, .upsets, .junk, .hostMem, .pw, .boot, .cores, .homes, .sengs, .graphs, .tlb, .queues,
      .ras, .links, .servers, .units, .upk, .tables, .epWaits, .repair, .rowTrack, .cols, .disps, .flowTx, .flowWait,
      .top, .msix, .out]
  | .haltctlHalt => [.regs, .mem, .poison, .upsets, .junk, .hostMem, .boot, .ras, .units, .out]
  | .errinj _ _ _ =>
    [.free, .regs, .mem, .poison, .upsets, .junk, .hostMem, .pw, .boot, .cores, .homes, .fg, .sengs, .graphs, .tlb,
      .queues, .ras, .links, .servers, .units, .upk, .tables, .epWaits, .repair, .rowTrack, .cols, .disps, .flowTx,
      .flowWait, .top, .msix, .out]
  | .bootBist _ _ => [.regs, .boot, .homes, .msix]
  | .fwaddrHiWrite _ => [.regs, .boot, .msix]
  | .verify | .train _ => [.boot, .msix]
  | .load => [.mem, .poison, .upsets, .junk, .boot, .modes, .units, .msix]
  | .sectionFetch _ _ => [.boot, .cores, .links, .msix]
  | .ready _ => [.regs, .boot, .links, .msix]
  | .arbctlCommit => [.regs, .boot, .msix]
  | .getkey | .attest _ => [.boot, .msix]
  | .dbgchal => [.free, .boot, .msix]
  | .dbgunlock _ => [.boot, .msix]
  | .sqtailDoorbell _ _ | .cqheadDoorbell _ _ | .queueEnable _ => [.regs, .queues, .msix]
  | .hostCommandFetch =>
    [.free, .regs, .mem, .poison, .upsets, .junk, .hostMem, .boot, .homes, .queues, .hostRr, .ras, .serial, .units,
      .repair, .rowTrack, .msix, .out]
  | .completionPost _ =>
    [.free, .regs, .mem, .poison, .upsets, .junk, .hostMem, .boot, .homes, .queues, .ras, .servers, .units, .repair,
      .rowTrack, .msix, .out]
  | .launchGraph _ =>
    [.free, .regs, .mem, .poison, .upsets, .junk, .hostMem, .boot, .homes, .graphs, .tlb, .queues, .ras, .serial,
      .units, .repair, .rowTrack, .msix, .out]
  | .dmaCopy _ =>
    [.free, .regs, .mem, .poison, .upsets, .junk, .hostMem, .boot, .homes, .tlb, .queues, .ras, .servers, .units,
      .repair, .rowTrack, .msix, .out]
  | .fence _ => [.regs, .queues]
  | .selftest _ | .calibrate _ => [.regs, .pw, .queues]
  | .syncDump _ =>
    [.free, .regs, .mem, .poison, .upsets, .junk, .hostMem, .boot, .homes, .queues, .ras, .units, .repair, .rowTrack,
      .msix, .out]
  | .telemetrySnapshot _ => [.regs, .pw, .queues]
  | .nop _ => [.regs, .queues]
  | .invcmdAll => [.tlb]
  | .invcmdRange => [.regs, .tlb, .msix]
  | .bar2Access _ _ =>
    [.free, .regs, .mem, .poison, .upsets, .junk, .hostMem, .boot, .homes, .ras, .servers, .units, .repair, .rowTrack,
      .msix, .bar2Wait, .out]
  | .flrPf1 =>
    [.free, .regs, .mem, .poison, .upsets, .junk, .hostMem, .pw, .boot, .cores, .homes, .fg, .sengs, .graphs, .tlb,
      .queues, .hostRr, .ras, .links, .servers, .units, .upk, .seqTx, .seqRx, .srcEpoch, .tables, .moves, .epWaits,
      .retired, .repair, .rowTrack, .cols, .disps, .colIn, .flowTx, .flowWait, .flowRx, .rxParts, .upFails, .upStops,
      .top, .msix, .latch, .bar2Wait, .chanWait, .out]
  | .flrPf0 => [.boot, .msix]
  | .devrst _ _ =>
    [.free, .now, .regs, .mem, .poison, .upsets, .junk, .pw, .boot, .cores, .homes, .fg, .sengs, .graphs, .chans,
      .modes, .tlb, .queues, .hostRr, .ras, .links, .serial, .servers, .units, .upk, .seqTx, .seqRx, .srcEpoch, .tables,
      .moves, .epWaits, .retired, .repair, .rowTrack, .cols, .disps, .colIn, .flowTx, .flowWait, .flowRx, .rxParts,
      .upFails, .upStops, .top, .msix, .latch, .bar2Wait, .chanWait]
  | .ctrlEnSet _ _ | .registerWrite _ _ _ =>
    [.free, .now, .regs, .mem, .poison, .upsets, .junk, .hostMem, .pw, .boot, .cores, .homes, .fg, .sengs, .graphs,
      .chans, .modes, .tlb, .queues, .hostRr, .ras, .links, .serial, .servers, .units, .upk, .seqTx, .seqRx, .srcEpoch,
      .tables, .moves, .epWaits, .retired, .repair, .rowTrack, .cols, .disps, .colIn, .flowTx, .flowWait, .flowRx,
      .rxParts, .upFails, .upStops, .top, .msix, .latch, .bar2Wait, .chanWait, .out]
  | .stackLinkFailure _ =>
    [.free, .regs, .mem, .poison, .upsets, .junk, .hostMem, .boot, .cores, .homes, .fg, .tlb, .queues, .ras, .links,
      .servers, .units, .upk, .repair, .rowTrack, .disps, .flowTx, .flowWait, .top, .msix, .out]
  | .stackLinkFlitResend _ => [.free, .regs, .mem, .poison, .upsets, .junk, .hostMem, .ras, .units, .msix, .out]
  | .ptmExchange _ => [.regs]
  | .smbusTargetAccess _ => [.out]
  | .rngHealthTestPass _ => [.regs]
  | .refclkPcieLoss | .refclkPcieReturn => [.pw]
  | .loReadLatch _ => [.latch]
  | .slowRelayEnd => [.top]
  | .supplyRecovery _ => [.free, .regs, .pw]
  | .jobFormTimeout => [.regs, .queues, .top]

/-! ## Commands and operands by family -/

/-- Nothing of the memory system is under way: no latent error stands in a memory, no channel is held by a slot or a retrain,
and no accumulating write waits at a scratch. -/
def Settled (s : State) : Prop := s.upsets = [] ∧ s.someHeld = false ∧ ∀ h, (s.home h).accQ = []

/-- The engine instructions of a core that read and write no memory, with MMA_COMPLETE, and the core they run on. -/
def engineLocal : Instr → Option CoreId
  | .mma c _ _ _ | .mmax c _ _ _ _ _ _ _ _ | .mmaComplete c | .mz c _ | .mtv c _ _ _ _ | .mfv c _ _ | .scompress c _ _
  | .stranspose c _ _ | .vsetvl c _ _ _ _ | .vadd c _ _ _ | .vsub c _ _ _ | .vmul c _ _ _ | .vdiv c _ _ _ | .vmax c _ _ _
  | .vmin c _ _ _ | .vfma c _ _ _ | .vfms c _ _ _ | .vabs c _ _ _ | .vneg c _ _ _ | .vsqrt c _ _ _ | .vand c _ _ _
  | .vor c _ _ _ | .vxor c _ _ _ | .vshl c _ _ _ | .vsra c _ _ _ | .eq c _ _ _ | .ne c _ _ _ | .lt c _ _ _ | .le c _ _ _
  | .gt c _ _ _ | .ge c _ _ _ | .unord c _ _ _ | .vmlog c _ _ _ _ | .vmpop c _ _ | .vcvt c _ _ _ | .rsum c _ _ _
  | .rmax c _ _ _ | .rmin c _ _ _ | .ramax c _ _ _ | .vperm c _ _ _ | .vcompress c _ _ _ | .vexpand c _ _ _
  | .vshuf c _ _ _ _ | .vpacke c _ _ _ | .vpacko c _ _ _ | .vunpkl c _ _ _ | .vunpkh c _ _ _ | .vbci c _ _
  | .vbciz c _ _ => some c
  | _ => none

/-- Element `i` of a vector slot in a format (R31, R314). -/
def vAt (k : Core) (v f i : Nat) : Nat := fld (k.vslot v) (fmtBits f * i) (fmtBits f)

/-- Element `i` of the second operand of a form: of its slot, or the immediate (R326). -/
def vSecond (k : Core) (a : VArgs) (i : Nat) : Nat :=
  match a.vs2 with
  | some v => vAt k v a.fmt i
  | none => a.imm

/-- The arithmetic command of an operation. -/
def varithCmd (op : VArith) (c : CoreId) (vd vs1 : VSlot) (f : VForm) : Instr :=
  match op with
  | .add => .vadd c vd vs1 f | .sub => .vsub c vd vs1 f | .mul => .vmul c vd vs1 f | .div => .vdiv c vd vs1 f
  | .max => .vmax c vd vs1 f | .min => .vmin c vd vs1 f | .fma => .vfma c vd vs1 f | .fms => .vfms c vd vs1 f
  | .abs => .vabs c vd vs1 f | .neg => .vneg c vd vs1 f | .sqrt => .vsqrt c vd vs1 f | .and => .vand c vd vs1 f
  | .or => .vor c vd vs1 f | .xor => .vxor c vd vs1 f | .shl => .vshl c vd vs1 f | .sra => .vsra c vd vs1 f

/-- The compare command of a relation. -/
def vcmpCmd (op : VCmp) (c : CoreId) (md : MaskId) (vs1 : VSlot) (f : VForm) : Instr :=
  match op with
  | .eq => .eq c md vs1 f | .ne => .ne c md vs1 f | .lt => .lt c md vs1 f | .le => .le c md vs1 f
  | .gt => .gt c md vs1 f | .ge => .ge c md vs1 f | .unord => .unord c md vs1 f

/-- The reduction command of a reduction. -/
def vredCmd (op : VRed) (c : CoreId) (vd vs1 : VSlot) (f : VForm) : Instr :=
  match op with
  | .sum => .rsum c vd vs1 f | .max => .rmax c vd vs1 f | .min => .rmin c vd vs1 f | .amax => .ramax c vd vs1 f

/-- Register rd of core `c` takes `v` on the way from `s` to `t`; x0 stays 0 and every other register keeps its value. -/
def putX (s t : State) (c : Nat) (rd : XReg) (v : DWord) : Prop :=
  ∀ r : XReg, (t.core c).getX r = if r.val = rd.val ∧ r.val ≠ 0 then v else (s.core c).getX r

/-- A physical line lies in the range that `MAINT` names (R366). -/
def inMaint (s : State) (h line : Nat) : Prop :=
  s.reg (pgL2c h + 0x058) ≠ 0 ∧ s.reg64 (pgL2c h + 0x050) % 2 ^ 48 / 64 ≤ line ∧
    line ≤ (s.reg64 (pgL2c h + 0x050) % 2 ^ 48 + s.reg (pgL2c h + 0x058) - 1) / 64

/-- The three scatter commands of a stack and their operations. -/
def scatterOf (x : StackId) (k : Fin 3) : Instr := match k with
  | 0 => .scatterAdd x
  | 1 => .scatterMax x
  | 2 => .scatterMin x

/-- The origin that a scatter command's updates carry. -/
def originOf (c : SCmd) : Origin := { src := c.src, epoch := c.epoch, serial := c.serial }

/-- The command that runs the streams of a mode on an engine (R387 to R391). -/
def streamInstr (e : SEngId) (m : Nat) : Option Instr :=
  match m with
  | 0 => some (.strided e)
  | 1 => some (.streamGather e)
  | 2 => some (.bitmap e)
  | 3 => some (.chain e)
  | 4 => some (.sorlist e)
  | _ => none

/-- An engine reads `n` bytes at `va`: its cluster translates them, they are mapped, their channels serve, and they are `l`,
none poisoned; `t` is the state after (R386). -/
def streamReads (s t : State) (e va n : Nat) (l : List Byte) : Prop :=
  s.walksHeld (e / 8) va n = false ∧ ∃ s1 ps, s.xlateRange (e / 8) va n false = (.ok ps, s1) ∧ s1.piecesOk ps = true ∧
    (ps.any fun p => s1.anyLost p.1.pa p.2) = false ∧ s1.piecesHeld ps = false ∧
    t = s1.meetPieces ps ∧ t.readPieces ps = (l, false)

/-- An engine can write `n` bytes at `va`, which stand at the pieces `ps`; `t` is the state after the translation (R386). -/
def streamWrites (s t : State) (e va n : Nat) (ps : List (Page × Nat)) : Prop :=
  s.walksHeld (e / 8) va n = false ∧ s.xlateRange (e / 8) va n true = (.ok ps, t) ∧ t.piecesOk ps = true ∧
    (ps.any fun p => t.anyLost p.1.pa p.2) = false ∧ (ps.any fun p => t.writeHeld p.1.pa p.2) = false

/-- The six collectives that a queue's collective may be (R527). -/
def collOf (q : ColQueue) (k : Fin 6) : Instr := match k with
  | 0 => .allReduce q
  | 1 => .reduceScatter q
  | 2 => .allGather q
  | 3 => .broadcast q
  | 4 => .allToAllV q
  | 5 => .barrier q

/-- A collective of a queue may run: the device works, it is accepted, of this type and has no record (R525). -/
def collReady (s : State) (q k : Nat) (c : Coll) (i : SliceInfo) : Prop :=
  (s.colQ q).cur = some c ∧ s.top.slice = some i ∧ s.working = true ∧ c.type = k ∧ c.done = none ∧ s.colRunning < 8 ∧
    c.begun = false

/-- The group of a collective is this module alone. -/
def collAlone (s : State) (c : Coll) (i : SliceInfo) : Prop :=
  (∀ a < 3, (s.group i c.axes).e a = 1) ∧ (s.group i c.axes).rank = 0

end Sys2Proof.Machine
end

