-- ==== Sys2Proof/Certificates/Slice0/Obligations.lean ====
section
/-! DEFINITION. Certificates/Slice0/Obligations.lean: the statements about the machine, for the provers. -/

open Sys2Proof Sys2Proof.Machine

/-- PWR_EN_RISE, PWR_EN_FALL, PWRGD_RISE, RAIL_LEAVES_REGULATION, PERST_N_ASSERT, PERST_N_DEASSERT complete (R16, R18 to R20,
R567, R580, R595, R597). That undefined bytes are free values is the model's choice (log entry 12). -/
def Obligations.PowerPins : Prop :=
  (∀ s : State, s.pw.pwrEn = false →
    exec .pwrEnRise s = .next { s with pw := { s.pw with pwrEn := true, powered := true, rstReq := false } }) ∧
  (∀ s : State, s.pw.pwrEn = true → ∃ t, exec .pwrEnFall s = .next t ∧
    DeviceReset s { State.reset.pw with
      pwrEn := false, powered := false, pwrgd := false, perst := s.pw.perst, rstReq := s.pw.rstReq
      rackValid := s.pw.rackValid, pcieValid := s.pw.pcieValid, locked := false } t) ∧
  (∀ s : State, s.pw.pwrEn = true → s.pw.powered = true → s.pw.pwrgd = false →
    exec .pwrgdRise s = .next { s with pw := { s.pw with pwrgd := true } }) ∧
  (∀ s : State, s.pw.powered = true → ∃ t, exec .railLeavesRegulation s = .next t ∧
    DeviceReset s { State.reset.pw with
      pwrEn := s.pw.pwrEn, powered := false, pwrgd := false, perst := s.pw.perst, rstReq := s.pw.rstReq
      rackValid := s.pw.rackValid, pcieValid := s.pw.pcieValid, locked := false } t) ∧
  (∀ s : State, s.pw.pwrgd = true → ∃ t, exec .perstNAssert s = .next t ∧
    DeviceReset s { State.reset.pw with
      pwrEn := s.pw.pwrEn, powered := s.pw.powered, pwrgd := true, perst := true, rstReq := s.pw.rstReq
      rackValid := s.pw.rackValid, pcieValid := s.pw.pcieValid, locked := s.pw.locked
      refPcie := s.pw.refPcie, holdover := s.pw.holdover } t) ∧
  (∀ s : State, s.pw.pwrgd = false → exec .perstNAssert s = .next { s with pw := { s.pw with perst := true } }) ∧
  ∀ s : State, exec .perstNDeassert s = .next { s with pw := { s.pw with perst := false } }

/-- ROOT_PLL_LOCK, REFCLK_RACK_LOSS, REFCLK_RACK_RETURN, REFCLK_PCIE_LOSS, REFCLK_PCIE_RETURN, PLL_LOCK_LOSS complete (R23,
R563, R564, R571, R573): the clock that the root PLL follows, and the links that go down or train. RACK_SYNC_EDGE,
RACK_SYNC_MISSING, TIME_FLIT_EXCHANGE, PTM_EXCHANGE, LO_READ_LATCH complete (R406, R516 to R519, R521, R573): the timestamp
and what is recorded of time, and nothing outside the registers of the TOP page and of the link. -/
def Obligations.ClocksAndTimestamps : Prop :=
  ((∀ s : State, s.pw.pwrgd = true → s.pw.locked = false → (s.pw.rackValid || s.pw.pcieValid) = true →
    exec .rootPllLock s =
      .next { s with pw := { s.pw with locked := true, refPcie := !s.pw.rackValid, holdover := false } }) ∧
  (∀ s : State, (∀ l < 16, (s.link l).drop = none) → ∃ t, exec .refclkRackLoss s = .next t ∧
    t.pw = { s.pw with
      rackValid := false
      refPcie := s.pw.locked && s.pw.pcieValid, holdover := s.pw.locked && !s.pw.pcieValid } ∧
    (∀ l < 16, (t.link l).st = 0) ∧ { t with pw := s.pw, links := s.links } = s) ∧
  (∀ s : State, ∃ t, exec .refclkRackReturn s = .next t ∧
    t.pw = { s.pw with rackValid := true, refPcie := false, holdover := false } ∧
    (∀ l < 16, (t.link l).st =
      if s.ready = true ∧ bitOf s.boot.links.toNat l = true ∧ s.enabled (pgLnk l) = true ∧ (s.link l).st = 0 ∧
        (s.link l).held = false then 1 else (s.link l).st) ∧
    { t with pw := s.pw, links := s.links } = s) ∧
  (∀ s : State, exec .refclkPcieLoss s = .next { s with pw := { s.pw with
      pcieValid := false, refPcie := false, holdover := s.pw.holdover || s.pw.refPcie } }) ∧
  (∀ s : State, exec .refclkPcieReturn s = .next { s with pw := { s.pw with
      pcieValid := true, refPcie := s.pw.refPcie || s.pw.holdover, holdover := false } }) ∧
  ∀ s : State, s.pw.locked = true → s.pw.rackValid = true → ∃ t, exec .pllLockLoss s = .next t ∧
    t.ras.dfatal = true ∧ t.pw.rstReq = true ∧ (1, 256) ∈ t.msix ∧ (0, 0) ∈ t.msix ∧ t.out.head? = some (.aer 0)) ∧
  (∀ s : State, s.rackAligned = true → s.rbit (pgTop + 0x0AC) 0 = true → ∃ t, exec .rackSyncEdge s = .next t ∧
    t.now = BitVec.ofNat 64 (s.reg64 (pgTop + 0x0B8)) ∧ t.reg (pgTop + 0x0AC) = 0 ∧ t.top = { s.top with noSync := false } ∧
    t.pw = { s.pw with resync := true } ∧
    (∀ o, o ∉ [pgTop + 0x0A4, pgTop + 0x0A8, pgTop + 0x0AC] → t.reg o = s.reg o) ∧
    { t with now := s.now, regs := s.regs, msix := s.msix, top := s.top, pw := s.pw } = s) ∧
  (∀ s : State, s.rackAligned = true → s.rbit (pgTop + 0x0AC) 0 = false → s.top.slew = 0 → s.top.corrFrom = none →
    ∃ t, exec .rackSyncEdge s = .next t ∧
      t.now = (if s.now.toNat % 1000000 = 0 then s.now else if s.now.toNat % 1000000 ≤ 500000 then s.now - 1 else s.now + 1) ∧
      t.top = { s.top with noSync := false } ∧
      (∀ o, o ∉ [pgTop + 0x0A4, pgTop + 0x0A8] → t.reg o = s.reg o) ∧
      { t with now := s.now, regs := s.regs, msix := s.msix, top := s.top } = s) ∧
  (∀ s : State, s.pw.powered = true → s.rackAligned = false → ∃ t, exec .rackSyncEdge s = .next t ∧ t.now = s.now ∧
    t.top = { s.top with noSync := false } ∧ { t with regs := s.regs, msix := s.msix, top := s.top } = s) ∧
  (∀ s : State, s.pw.powered = true → ∃ t, exec .rackSyncMissing s = .next t ∧ t.rbit (pgTop + 0x0A8) 0 = true ∧ t.top = { s.top with noSync := true } ∧
    (s.rbit (pgTop + 0x0A8) 0 = false → (1, 260) ∈ t.msix) ∧
    (∀ o, o ∉ [pgTop + 0x0A4, pgTop + 0x0A8] → t.reg o = s.reg o) ∧
    { t with regs := s.regs, msix := s.msix, top := s.top } = s) ∧
  (∀ (s : State) (l : LinkId) (off : Int) (corr : Option (Int × Nat)), (s.link l).st = 4 →
    ∃ t, exec (.timeFlitExchange l off corr) s = .next t ∧ t.reg (pgLnk l + 0x05C) = unsgn 32 off ∧
      (∀ o, o ∉ [pgLnk l + 0x05C, pgTop + 0x0A4, pgTop + 0x0A8] → t.reg o = s.reg o) ∧
      { t with regs := s.regs, msix := s.msix, links := s.links, top := s.top, out := s.out } = s ∧
      Output.time l s.now.toNat ∈ t.out ∧
      (bitOf (planFld (s.top.plan.getD []) 24 1) 1 = false → corr = none → t.out = .time l s.now.toNat :: s.out)) ∧
  (∀ (s : State) (hostTime : Nat), s.pw.powered = true → ∃ t, exec (.ptmExchange hostTime) s = .next t ∧
    t.reg64 (pgTop + 0x0C4) = unsgn 64 ((hostTime : Int) - (s.now.toNat : Int)) ∧
    (∀ o, o ∉ [pgTop + 0x0C4, pgTop + 0x0C8] → t.reg o = s.reg o) ∧ { t with regs := s.regs } = s) ∧
  (∀ (s : State), s.serves .cor = true → exec (.loReadLatch (BitVec.ofNat 25 (pgTop + 0x0B0))) s =
    .next { s with latch := nset s.latch (pgTop + 0x0B4) (BitVec.ofNat 32 (s.now.toNat / 2 ^ 32)) }) ∧
  ∀ (s : State) (c : CoreId) (r : Fin 13), s.serves .cor = true → bitOf s.boot.clusters.toNat (c.val / 64) = true →
    exec (.loReadLatch (BitVec.ofNat 25 (pgCor c + 0x200 + 8 * r.val))) s =
      .next { s with latch := nset s.latch (pgCor c + 0x204 + 8 * r.val) (BitVec.ofNat 32 (s.reg (pgCor c + 0x204 + 8 * r.val))) }

/-- SUPPLY_DROOP, SUPPLY_RECOVERY, AVS_UPDATE, POWER_BUDGET_UPDATE, FAST_LIMIT, DIE_TEMPERATURE_LEVEL complete (R574 to R579,
R593): what the power manager sets, and nothing outside it and its counters. Each cluster's k is the highest value between
AMIN and AMAX whose projected power does not exceed its share, or AMIN. -/
def Obligations.PowerManager : Prop :=
  (∀ (s : State) (h : HomeId), s.ready = true → bitOf s.boot.clusters.toNat h = true → s.rbit (pgCpd + 0x048) 2 = true →
    nfind s.pw.droop h = none →
    exec (.supplyDroop h) s = .next { s with pw := { s.pw with droop := nset s.pw.droop h s.now.toNat } }) ∧
  (∀ (s : State) (h : HomeId) (t0 : Nat), nfind s.pw.droop h = some t0 → ∃ t, exec (.supplyRecovery h) s = .next t ∧
    t.pw = { s.pw with droop := ndel s.pw.droop h } ∧
    (∃ n, n ≤ 4 * (s.now.toNat - t0) ∧ t.reg64 (pgTel + 0x058) = (s.reg64 (pgTel + 0x058) + n) % 2 ^ 64) ∧
    (∀ o, o ∉ [pgTel + 0x058, pgTel + 0x05C] → t.reg o = s.reg o) ∧ { t with pw := s.pw, regs := s.regs, free := s.free } = s) ∧
  (∀ (s : State) (rails : List Nat), rails.length = 32 → ∃ t, exec (.avsUpdate rails) s = .next t ∧
    (∀ h < 32, (s.ready && bitOf s.boot.clusters.toNat h) = true → nget t.pw.rail h 900 =
      if s.rbit (pgCpd + 0x048) 1 then max 650 (min 900 (rails.getD h 900)) else 900) ∧
    { t with pw := { t.pw with rail := s.pw.rail } } = s) ∧
  (∀ (s : State) (inputW : Nat) (mw : List Nat), mw.length = 32 → s.pw.powered = true → s.ready = true → s.enabled pgCpd = true →
    ∃ t, exec (.powerBudgetUpdate inputW mw) s = .next t ∧
      t.pw.inputW = inputW ∧ t.pw.energy = s.pw.energy + 10 * inputW ∧ t.pw.fast = false ∧
      (∀ h < 32, bitOf s.boot.clusters.toNat h = true →
        let homes := (List.range 32).filter fun i => bitOf s.boot.clusters.toNat i
        let weight := fun i => s.workingCores i (s.rbit (pgCpd + 0x048) 0)
        let total := (homes.map weight).foldl (· + ·) 0
        let drawn := (homes.map fun i => mw.getD i 0).foldl (· + ·) 0
        let budget : Int := 960 * (s.rfld (pgCpd + 0x044) 0 12 : Nat) - (1000 * (inputW : Int) - (drawn : Nat))
        let amax := min (s.rfld (pgCpd + 0x048) 8 6) (kLimit (nget s.pw.level h 0))
        let amin := min (s.rfld (pgCpd + 0x048) 16 6) amax
        let fits := fun k : Nat => ((mw.getD h 0 * k * total : Nat) : Int) ≤ budget * (weight h : Nat) * (s.kOf h : Nat)
        (s.kOf h < t.kOf h → nget t.pw.rail h 900 = 900) ∧ amin ≤ t.kOf h ∧ t.kOf h ≤ amax ∧ (fits (t.kOf h) ∨ t.kOf h = amin) ∧ ∀ k, t.kOf h < k → k ≤ amax → ¬ fits k) ∧
      t.reg (pgTel + 0x060) = (if t.pw.capping then min (s.reg (pgTel + 0x060) + 1) 0xFFFFFFFF else s.reg (pgTel + 0x060)) ∧
      (∀ o, o ≠ pgTel + 0x060 → t.reg o = s.reg o) ∧ { t with pw := s.pw, regs := s.regs } = s) ∧
  (∀ (s : State) (avgW : Nat), s.ready = true → s.enabled pgCpd = true → 110 * s.rfld (pgCpd + 0x044) 0 12 < avgW * 100 →
    ∃ t, exec (.fastLimit avgW) s = .next t ∧ t.pw.fast = true ∧
      (∀ h < 32, bitOf s.boot.clusters.toNat h = true → t.kOf h = max 16 (s.kOf h - 4)) ∧
      t.reg (pgTel + 0x064) = min (s.reg (pgTel + 0x064) + 1) 0xFFFFFFFF ∧
      (∀ o, o ≠ pgTel + 0x064 → t.reg o = s.reg o) ∧
      { t with pw := { t.pw with k := s.pw.k, fast := s.pw.fast }, regs := s.regs } = s) ∧
  ∀ (s : State) (d : SensorId) (temp : Byte), s.ready = true → ∃ t, exec (.dieTemperatureLevel d temp) s = .next t ∧
    nget t.pw.temp d 0 = temp.toNat ∧ nget t.pw.level d 0 = dieLevel (decide (d.val < 32)) (nget s.pw.level d 0) temp.toNat ∧
    (d.val < 32 → bitOf s.boot.clusters.toNat d = true → t.kOf d = min (s.kOf d) (kLimit (nget t.pw.level d 0))) ∧
    (nget t.pw.level d 0 ≠ nget s.pw.level d 0 → (1, 259) ∈ t.msix) ∧
    (nget t.pw.level d 0 = 3 → nget s.pw.level d 0 ≠ 3 → ∃ e, t.ras.fatals = s.ras.fatals ++ [e] ∧ e.cls = 3 ∧ e.reason = 0x81) ∧
    (nget t.pw.level d 0 = nget s.pw.level d 0 → { t with pw := s.pw } = s) ∧
    { t.pw with temp := s.pw.temp, level := s.pw.level, k := s.pw.k } = s.pw ∧
    (¬(nget t.pw.level d 0 = 3 ∧ nget s.pw.level d 0 ≠ 3) →
      (∀ o, o ≠ pgHub 1 + 0x028 → t.reg o = s.reg o) ∧ { t with pw := s.pw, regs := s.regs, msix := s.msix } = s)

/-- MAINTENANCE_FRAME_BOUNDARY, SLOT_START, SLOT_END_CUT, PER_BANK_REFRESH, AUTO_SNAPSHOT, PLACEMENT_DRAIN_END and
TRACKER_AGEING complete (R178, R181, R470, R581 to R586, R594): frames and slots follow the timestamp. A slot that a link
holds is not among the cuts stated. -/
def Obligations.MaintenanceFrame : Prop :=
  (∀ s : State, s.ready = true → s.pw.resync = false → s.frameDue = true → ∃ t, exec .maintenanceFrameBoundary s = .next t ∧
    t.pw.frame = s.now.toNat / 128000 % 2 ^ 32 ∧ t.pw.slot = 0 ∧ t.pw.next = 0 ∧ t.pw.bounds = s.pw.bounds + 1) ∧
  (∀ s : State, s.ready = true → s.pw.resync = true → ∃ t, exec .maintenanceFrameBoundary s = .next t ∧
    t.pw.frame = s.now.toNat / 128000 % 2 ^ 32 ∧ t.pw.slot = s.now.toNat % 128000 / 8000 ∧
    t.pw.next = s.now.toNat % 128000 / 8000 ∧ t.pw.bounds = s.pw.bounds + 1 ∧ t.pw.resync = false) ∧
  (∀ s : State, s.ready = true → s.pw.resync = false → s.pw.frame = s.now.toNat / 128000 % 2 ^ 32 →
    exec .maintenanceFrameBoundary s = .next s) ∧
  (∀ (s : State) (obs : SlotObs) (n : Nat), s.ready = true → s.pw.resync = false → s.pw.frame = s.now.toNat / 128000 % 2 ^ 32 →
    n = s.now.toNat % 128000 / 8000 → s.pw.next ≤ n → bitOf s.pw.slotEn.toNat n = false →
    ∃ t, exec (.slotStart obs) s = .next t ∧ t.pw.slot = n ∧ t.pw.next = n + 1) ∧
  (∀ (s : State) (obs : SlotObs), s.ready = true → s.pw.resync = false → s.now.toNat % 128000 / 8000 < s.pw.next →
    exec (.slotStart obs) s = .next s) ∧
  (∀ (s : State) (obs : SlotObs), s.ready = true → s.pw.resync = false → s.pw.frame = s.now.toNat / 128000 % 2 ^ 32 →
    s.now.toNat % 128000 / 8000 = 10 → s.pw.next ≤ 10 → bitOf s.pw.slotEn.toNat 10 = true → obs.auditBad = true →
    ∃ t e, exec (.slotStart obs) s = .next t ∧ t.pw.slot = 10 ∧ t.pw.next = 11 ∧
      t.ras.fatals.getLast? = some e ∧ e.cls = 3 ∧ e.reason = 0x80) ∧
  (∀ (s : State) (n : Nat), s.pw.holding = true → (∀ l < 16, (s.link l).st ≠ 5) →
    s.bar2Wait = [] → s.chanWait = [] → s.moves = [] → (∀ u, ∀ e ∈ (s.unit u).uct, e.due = none) →
    n = s.slotKeys.length + (if s.pw.chunk.isSome then 1 else 0) → n ≠ 0 →
    ∃ t, exec .slotEndCut s = .next t ∧ t.pw.holding = false ∧ t.pw.chunk = none ∧ (t.chans.any fun p => p.2.st == 1) = false ∧
      t.reg (pgTel + 0x068) = min (s.reg (pgTel + 0x068) + n) 0xFFFFFFFF ∧ (∀ o, o ≠ pgTel + 0x068 → t.reg o = s.reg o)) ∧
  (∀ (s : State) (ch : ChanId) (rfm : Bool), exec (.perBankRefresh ch rfm) s = .next s) ∧
  (∀ (s : State) (a : Nat), s.memOk = true → s.ready = true → s.rbit (pgTel + 0x040) 0 = true → s.pw.slot = 6 →
    s.rfld (pgTel + 0x040) 8 8 ≤ s.pw.autoCount → a = s.reg64 (pgTel + 0x048) % 2 ^ 48 → s.reachableRange a 256 = true →
    placeOf a ≠ .host → Settled s → (∀ x ∈ sectorsOf a 256, s.hasEntry x = false) → ∃ t, exec .autoSnapshot s = .next t ∧ (∀ i < 256, t.byte (a + i) = s.snapshot.getD i 0) ∧
      (∀ b, (b < a ∨ a + 256 ≤ b) → t.byte b = s.byte b) ∧ t.reg (pgTel + 0x074) = (s.reg (pgTel + 0x074) + 1) % 2 ^ 32 ∧
      (∀ o, o ≠ pgTel + 0x074 → t.reg o = s.reg o) ∧ (1, 262) ∈ t.msix ∧ t.pw = { s.pw with autoCount := 0 }) ∧
  (∀ (s : State) (tid : TableId) (m : Move), s.moves = [m] → m.tid = tid.val → m.flipped = true → s.moveBusy m = false → m.freeSlot = none →
    s.pw.place = [] → (∀ u, (s.unit u).uct = []) → ∃ t, exec (.placementDrainEnd tid) s = .next t ∧ t.moves = []) ∧
  (∀ s : State, s.pw.bounds - s.pw.aged < s.rfld (pgTbl + 0x048) 8 4 → exec .trackerAgeing s = .next s) ∧
  ∀ s : State, s.rfld (pgTbl + 0x048) 8 4 ≤ s.pw.bounds - s.pw.aged → ∃ t, exec .trackerAgeing s = .next t ∧
    t.pw = { s.pw with aged := s.pw.bounds } ∧ { t with units := s.units, pw := s.pw } = s ∧
    ∀ u, { t.unit u with hh := (s.unit u).hh } = s.unit u ∧
      (t.unit u).hh = (s.unit u).hh.map fun o => o.bind fun e =>
        if e.count / 2 = 0 then none else some { e with count := e.count / 2, error := e.error / 2 }

/-- RV64IMAC_INSTRUCTION completes (R246, R247, R259). -/
def Obligations.ControlProcessor : Prop :=
  (∀ (s s1 : State) (c : CoreId) (w raw len : Nat), s.canIssue c = true → s.fetchInstr c = .std w raw len s1 →
    fld w 0 7 = 0x13 → fld w 12 3 = 0 → ∃ t, exec (.rv64imacInstruction c) s = .next t ∧
      (t.core c).pc = (s1.core c).pc + BitVec.ofNat 64 len ∧
      ∀ r : XReg, (t.core c).getX r =
        if r.val = fld w 7 5 ∧ r.val ≠ 0 then
          (s1.core c).getX (Fin.ofNat 32 (fld w 15 5)) + BitVec.ofInt 64 (sgn 12 (fld w 20 12))
        else (s1.core c).getX r) ∧
  (∀ (s s1 : State) (c : CoreId) (raw len : Nat), s.canIssue c = true → s.fetchInstr c = .std 0x73 raw len s1 →
    ∃ t, exec (.rv64imacInstruction c) s = .next t ∧ (t.core c).mepc = (s1.core c).pc ∧
      (t.core c).mcause = (if (s1.core c).machine then 11 else 8) ∧ (t.core c).machine = true ∧
      (t.core c).pc = (s1.core c).mtvec &&& ~~~3#64 ∧ (t.core c).x = (s1.core c).x) ∧
  (∀ (s s1 : State) (c : CoreId) (raw len : Nat), s.canIssue c = true → s.fetchInstr c = .std 0x30200073 raw len s1 →
    (s1.core c).machine = true → ∃ t, exec (.rv64imacInstruction c) s = .next t ∧ (t.core c).pc = (s1.core c).mepc ∧
      (t.core c).machine = (msMPP (s1.core c).mstatus == 3) ∧ (t.core c).x = (s1.core c).x) ∧
  (∀ (s s1 : State) (c : CoreId) (raw : Nat), s.canIssue c = true → s.fetchInstr c = .bad raw s1 →
    ∃ t, exec (.rv64imacInstruction c) s = .next t ∧ (t.core c).mepc = (s1.core c).pc ∧ (t.core c).mcause = 2 ∧
      (t.core c).mtval = BitVec.ofNat 64 raw ∧ (t.core c).machine = true ∧ (t.core c).x = (s1.core c).x) ∧
  ∀ (s : State) (c : CoreId), s.canIssue c = false → exec (.rv64imacInstruction c) s = .next s

/-- MMA, MMAX, MMA_COMPLETE, SCOMPRESS and STRANSPOSE complete (R262, R265 to R268, R281, R299 to R305). -/
def Obligations.MatrixProducts : Prop :=
  (∀ (s : State) (c : CoreId) (acc : AccId) (a b : TileId), s.canIssue c = true →
    denseOk (fld (s.core c).mxfmt.toNat 0 4) (fld (s.core c).mxfmt.toNat 4 4) (bitOf (s.core c).mxfmt.toNat 8) = true →
    bitOf (s.core c).mxfmt.toNat 9 = false → a.val ≤ 447 → b.val ≤ 447 → s.anyBreach c [a.val, b.val] [acc.val] [] = false →
    (s.core c).pending [a.val, b.val] = false → (s.core c).mmaQ.length < 16 →
    ∃ t, exec (.mma c acc a b) s = .next t ∧ t.core c =
      { s.core c with
        pc := (s.core c).pc + 4, dbgHalt := (s.core c).dbgHalt || (s.core c).stepping, stepping := false
        minstret := if (s.core c).mcountinhibit.getLsbD 2 then (s.core c).minstret else (s.core c).minstret + 1
        mmaQ := (s.core c).mmaQ ++ [{ acc := acc.val, a := a.val, b := b.val, fa := fld (s.core c).mxfmt.toNat 0 4
                                      fb := fld (s.core c).mxfmt.toNat 4 4, mx := bitOf (s.core c).mxfmt.toNat 8, spa := false
                                      cz := false }] }) ∧
  (∀ (s : State) (c : CoreId) (acc : AccId) (a b : TileId) (fa fb : FmtCode) (mx cz : Bool), s.canIssue c = true →
    sparseOk fa.toNat fb.toNat mx = true → a.val < 447 → b.val < 447 →
    s.anyBreach c [a.val, a.val + 1, b.val, b.val + 1] [acc.val] [] = false →
    (s.core c).pending [a.val, a.val + 1, b.val, b.val + 1] = false → (s.core c).mmaQ.length < 16 →
    ∃ t, exec (.mmax c acc a b fa fb mx true cz) s = .next t ∧ (t.core c).pc = (s.core c).pc + 8 ∧
      (t.core c).mmaQ = (s.core c).mmaQ ++ [{ acc := acc.val, a := a.val, b := b.val, fa := fa.toNat, fb := fb.toNat
                                              mx := mx, spa := true, cz := cz }]) ∧
  (∀ (s : State) (c : CoreId) (acc : AccId) (a b : TileId) (fa fb : FmtCode) (mx cz : Bool), s.canIssue c = true →
    denseOk fa.toNat fb.toNat mx = true → a.val ≤ 447 → b.val ≤ 447 → s.anyBreach c [a.val, b.val] [acc.val] [] = false →
    (s.core c).pending [a.val, b.val] = false → (s.core c).mmaQ.length < 16 →
    ∃ t, exec (.mmax c acc a b fa fb mx false cz) s = .next t ∧ (t.core c).pc = (s.core c).pc + 8 ∧
      (t.core c).mmaQ = (s.core c).mmaQ ++ [{ acc := acc.val, a := a.val, b := b.val, fa := fa.toNat, fb := fb.toNat
                                              mx := mx, spa := false, cz := cz }]) ∧
  (∀ (s : State) (c : CoreId) (op : MmaOp) (q : List MmaOp), (s.core c).mmaQ = op :: q →
    ∃ t, exec (.mmaComplete c) s = .next t ∧ (t.core c).mmaQ = q ∧
      (∀ i, i ≠ op.acc → (t.core c).acc i = (s.core c).acc i) ∧ (t.core c).tiles = (s.core c).tiles ∧
      (t.core c).acc op.acc = (mmaResult (s.core c) op).1 % 2 ^ 8192 ∧
      (t.core c).mxflags = (s.core c).mxflags ||| mxMask (mmaResult (s.core c) op).2) ∧
  (∀ (s : State) (c : CoreId) (src dst : TileId), s.canIssue c = true → sparseFmt (fld (s.core c).mxfmt.toNat 0 4) = true →
    src.val < 447 → dst.val < 447 → s.anyBreach c [src.val, src.val + 1, dst.val, dst.val + 1] [] [] = false →
    (s.core c).pending [src.val, src.val + 1, dst.val, dst.val + 1] = false →
    ∃ t, exec (.scompress c src dst) s = .next t ∧ (t.core c).pc = (s.core c).pc + 4 ∧ (t.core c).mmaQ = [] ∧
      (∀ i, i ≠ dst.val → i ≠ dst.val + 1 → (t.core c).tile i = ((s.drain c).core c).tile i) ∧
      (t.core c).accs = ((s.drain c).core c).accs ∧
      (bitOf (s.core c).mxfmt.toNat 8 = false → (t.core c).scales = ((s.drain c).core c).scales)) ∧
  ∀ (s : State) (c : CoreId) (src dst : TileId), s.canIssue c = true → bitOf (s.core c).mxfmt.toNat 8 = false →
    fld (s.core c).mxfmt.toNat 0 4 = 1 → src.val + 3 ≤ 447 → dst.val + 3 ≤ 447 →
    s.anyBreach c [src.val, src.val + 1, src.val + 2, src.val + 3, dst.val, dst.val + 1, dst.val + 2, dst.val + 3] [] [] = false →
    (s.core c).pending [src.val, src.val + 1, src.val + 2, src.val + 3, dst.val, dst.val + 1, dst.val + 2, dst.val + 3] = false →
    ∃ t, exec (.stranspose c src dst) s = .next t ∧ (t.core c).pc = (s.core c).pc + 4 ∧ (t.core c).mmaQ = [] ∧
      (t.core c).scales = ((s.drain c).core c).scales ∧ (t.core c).accs = ((s.drain c).core c).accs ∧
      ∀ i, (i < dst.val ∨ dst.val + 4 ≤ i) → (t.core c).tile i = ((s.drain c).core c).tile i

/-- MLD, MST, MLDA, MZ, MTV and MFV complete (R261 to R264). -/
def Obligations.StagingTransfers : Prop :=
  (∀ (s s1 : State) (c : CoreId) (rs1 rs2 : XReg) (t : TileId) (fsel : Bool) (ts : List (Target × Nat)),
    s.canIssue c = true → t.val ≤ 447 → s.anyBreach c [t.val] [] [] = false → (s.core c).pending [t.val] = false →
    misaligned4 ((s.core c).getX rs1).toNat ((s.core c).getX rs2).toNat = none → rs2.val = 0 →
    s.memCheck c false (rowPieces ((s.core c).getX rs1).toNat ((s.core c).getX rs2).toNat 32 1) = .ok ts s1 →
    ∃ u, exec (.mld c rs1 rs2 t false true fsel) s = .next u ∧
      (u.core c).scale t.val = ofBytes ((s1.drain c).coreReadAll c ts).1 % 2 ^ 256 ∧
      (u.core c).tiles = (((s1.drain c).coreReadAll c ts).2.2.core c).tiles ∧
      ∀ i, i ≠ t.val → (u.core c).scale i = (((s1.drain c).coreReadAll c ts).2.2.core c).scale i) ∧
  (∀ (s s1 : State) (c : CoreId) (rs1 rs2 : XReg) (t : TileId) (tr fsel : Bool) (ts : List (Target × Nat)) (f n rows : Nat),
    s.canIssue c = true → t.val ≤ 447 → s.anyBreach c [t.val] [] [] = false → (s.core c).pending [t.val] = false →
    misaligned4 ((s.core c).getX rs1).toNat ((s.core c).getX rs2).toNat = none →
    f = (if fsel then fld (s.core c).mxfmt.toNat 4 4 else fld (s.core c).mxfmt.toNat 0 4) → tileK f ≠ 0 →
    n = (if tr then 16 * fmtBits f / 8 else tileL f) → rows = (if tr then tileK f else 16) →
    s.memCheck c false (rowPieces ((s.core c).getX rs1).toNat ((s.core c).getX rs2).toNat n rows) = .ok ts s1 →
    ∃ u, exec (.mld c rs1 rs2 t tr false fsel) s = .next u ∧
      (u.core c).tile t.val = (if tr
        then tileFromRows ((((s1.drain c).coreReadAll c ts).2.2.core c).tile t.val) f
          (chunks n rows ((s1.drain c).coreReadAll c ts).1)
        else tileFromLines ((((s1.drain c).coreReadAll c ts).2.2.core c).tile t.val) n
          (chunks n rows ((s1.drain c).coreReadAll c ts).1)) % 2 ^ 4096 ∧
      (∀ i, i ≠ t.val → (u.core c).tile i = (((s1.drain c).coreReadAll c ts).2.2.core c).tile i) ∧
      (u.core c).scales = (((s1.drain c).coreReadAll c ts).2.2.core c).scales) ∧
  (∀ (s s1 : State) (c : CoreId) (rs1 rs2 : XReg) (acc : AccId) (ofmt : FmtCode) (sr tr : Bool) (ts : List (Target × Nat)),
    s.canIssue c = true → ofmtOk ofmt.toNat sr = true → s.anyBreach c [] [acc.val] [] = false →
    misaligned4 ((s.core c).getX rs1).toNat ((s.core c).getX rs2).toNat = none →
    s.memCheck c true (rowPieces ((s.core c).getX rs1).toNat ((s.core c).getX rs2).toNat (2 * fmtBits ofmt.toNat) 16) = .ok ts s1 →
    exec (.mst c rs1 rs2 acc ofmt sr tr) s =
      .next (((writeOut (s1.drain c) c acc.val ofmt.toNat sr tr).2.coreWriteAll c
        (((s1.drain c).core c).accBad.contains acc.val) ts
        (rowBytes (fmtBits ofmt.toNat) (writeOut (s1.drain c) c acc.val ofmt.toNat sr tr).1)).retire c 4)) ∧
  (∀ (s s1 : State) (c : CoreId) (rs1 rs2 : XReg) (acc : AccId) (ts : List (Target × Nat)),
    s.canIssue c = true → s.anyBreach c [] [acc.val] [] = false →
    misaligned4 ((s.core c).getX rs1).toNat ((s.core c).getX rs2).toNat = none →
    s.memCheck c false (rowPieces ((s.core c).getX rs1).toNat ((s.core c).getX rs2).toNat 64 16) = .ok ts s1 →
    ∃ u, exec (.mlda c rs1 rs2 acc) s = .next u ∧
      (u.core c).acc acc.val = ofBytes ((s1.drain c).coreReadAll c ts).1 % 2 ^ 8192 ∧
      (∀ i, i ≠ acc.val → (u.core c).acc i = (((s1.drain c).coreReadAll c ts).2.2.core c).acc i) ∧
      (u.core c).tiles = (((s1.drain c).coreReadAll c ts).2.2.core c).tiles) ∧
  (∀ (s : State) (c : CoreId) (mask : Half), s.canIssue c = true → s.anyBreach c [] (maskAccs mask) [] = false →
    ∃ t, exec (.mz c mask) s = .next t ∧ (t.core c).pc = (s.core c).pc + 4 ∧ (t.core c).tiles = ((s.drain c).core c).tiles ∧
      ∀ i < 16, (t.core c).acc i = if mask.getLsbD i then 0 else ((s.drain c).core c).acc i) ∧
  (∀ (s : State) (c : CoreId) (v : VSlot) (acc : AccId) (ofmt : FmtCode) (sr : Bool), s.canIssue c = true →
    ofmtOk ofmt.toNat sr = true → s.anyBreach c [] [acc.val] [v.val] = false →
    ∃ t, exec (.mtv c v acc ofmt sr) s = .next t ∧ (t.core c).pc = (s.core c).pc + 4 ∧
      (∀ i, i ≠ v.val → (t.core c).vslot i = ((s.drain c).core c).vslot i) ∧
      (t.core c).vslot v.val = setFld (((s.drain c).core c).vslot v.val) 0 (256 * fmtBits ofmt.toNat)
        (pack (fmtBits ofmt.toNat) (writeOut (s.drain c) c acc.val ofmt.toNat sr false).1) % 2 ^ 8192 ∧
      (t.core c).accs = ((s.drain c).core c).accs) ∧
  ∀ (s : State) (c : CoreId) (v : VSlot) (t : TileId), s.canIssue c = true → t.val ≤ 447 →
    s.anyBreach c [t.val] [] [v.val] = false → (s.core c).pending [t.val] = false →
    ∃ u, exec (.mfv c v t) s = .next u ∧ (u.core c).pc = (s.core c).pc + 4 ∧
      (u.core c).tile t.val = ((s.drain c).core c).vslot v.val % 2 ^ 4096 ∧
      (∀ i, i ≠ t.val → (u.core c).tile i = ((s.drain c).core c).tile i) ∧ (u.core c).vslots = ((s.drain c).core c).vslots

/-- MMA_COMPLETE on INT8 tiles: every output element is the old one plus the sum of 32 products, saturated to 32 bits (R50,
R266). -/
def Obligations.IntegerMatrixProduct : Prop :=
  ∀ (s : State) (c : CoreId) (op : MmaOp) (q : List MmaOp) (l j : Nat), (s.core c).mmaQ = op :: q → op.spa = false →
    op.mx = false → op.fa = 7 → op.fb = 7 → l < 16 → j < 16 →
    ∃ t, exec (.mmaComplete c) s = .next t ∧
      fld ((t.core c).acc op.acc) (32 * (16 * l + j)) 32 =
        unsgn 32 (max (-2147483648) (min 2147483647
          (sgn 32 (if op.cz then 0 else fld ((s.core c).acc op.acc) (32 * (16 * l + j)) 32) +
            ((List.range 32).map fun i => sgn 8 (tileElem ((s.core c).tile op.a) 7 l i) *
              sgn 8 (tileElem ((s.core c).tile op.b) 7 j i)).sum)))

/-- Frame of the engine instructions that touch no memory. -/
def Obligations.EngineLocality : Prop :=
  ∀ (i : Instr) (c : CoreId) (s t : State), engineLocal i = some c → exec i s = .next t →
    OnlyCore c { s with free := t.free } t

/-- VADD, VSUB, VMUL, VDIV, VMAX, VMIN, VFMA, VFMS, VABS, VNEG, VSQRT, VAND, VOR, VXOR, VSHL and VSRA complete: elementwise
below VL, masked elements merged or zeroed, elements at or beyond VL and every other slot unchanged (R319, R320, R323, R326
to R329). -/
def Obligations.VectorArithmetic : Prop :=
  ∀ (op : VArith) (c : CoreId) (vd vs1 : VSlot) (f : VForm) (s : State) (k : Core) (a : VArgs), k = s.core c → a = k.args f →
    s.canIssue c = true → op.fmtOk a.fmt = true → k.vl ≤ vlMax a.fmt → a.immOk = true → (op.binary || a.unused) = true →
    s.anyBreach c [] [] ([vd.val, vs1.val] ++ (if op.binary then a.slots else [])) = false →
    ∃ t, exec (varithCmd op c vd vs1 f) s = .next t ∧
      (t.core c).pc = k.pc + BitVec.ofNat 64 (encodeEng (.varith op vd vs1 f)).2 ∧
      (∀ i < vlMax a.fmt, vAt (t.core c) vd a.fmt i =
        if i < k.vl ∧ k.active? a.msel i = true then
          (vElem op a.fmt (vAt k vs1 a.fmt i) (vSecond k a i) (vAt k vd a.fmt i)).1 % 2 ^ fmtBits a.fmt
        else if i < k.vl ∧ a.zm = true then 0 else vAt k vd a.fmt i) ∧
      (∀ v, v ≠ vd.val → (t.core c).vslot v = k.vslot v) ∧ (t.core c).masks = k.masks ∧ (t.core c).x = k.x ∧
      (t.core c).tiles = k.tiles ∧ (t.core c).accs = k.accs ∧ (t.core c).vcfg = k.vcfg

/-- The compares complete: a bit of the mask register for each element below VL (R320, R330). VSETVL, VMLOG, VMPOP, VMVX,
VBCI and VBCIZ complete (R318, R321, R324, R331, R340). -/
def Obligations.VectorComparesAndSetup : Prop :=
  (∀ (op : VCmp) (c : CoreId) (md : MaskId) (vs1 : VSlot) (f : VForm) (s : State) (k : Core) (a : VArgs), k = s.core c →
    a = k.args f → s.canIssue c = true → vArithFmt a.fmt = true → k.vl ≤ vlMax a.fmt → a.immOk = true →
    s.anyBreach c [] [] (vs1.val :: a.slots) = false →
    ∃ t, exec (vcmpCmd op c md vs1 f) s = .next t ∧
      (t.core c).pc = k.pc + BitVec.ofNat 64 (encodeEng (.vcmp op md vs1 f)).2 ∧
      (∀ i < 1024, bitOf ((t.core c).mask md) i =
        if i < k.vl ∧ k.active? a.msel i = true then (vCompare op a.fmt (vAt k vs1 a.fmt i) (vSecond k a i)).1
        else if i < k.vl ∧ a.zm = true then false else bitOf (k.mask md) i) ∧
      (∀ m, m ≠ md.val → (t.core c).mask m = k.mask m) ∧ (t.core c).vslots = k.vslots ∧ (t.core c).x = k.x ∧
      (t.core c).tiles = k.tiles ∧ (t.core c).accs = k.accs) ∧
  (∀ (s : State) (c : CoreId) (rd rs1 : XReg) (vfmt : FmtCode) (msel : Nibble), s.canIssue c = true → vfmt.toNat ≤ 9 →
    ∃ t, exec (.vsetvl c rd rs1 vfmt msel) s = .next t ∧ (t.core c).pc = (s.core c).pc + 4 ∧
      (t.core c).vfmt = vfmt.toNat ∧ (t.core c).vmsel = msel.toNat ∧
      (t.core c).vl = (if rs1.val = 0 then vlMax vfmt.toNat else min ((s.core c).getX rs1).toNat (vlMax vfmt.toNat)) ∧
      ∀ r : XReg, (t.core c).getX r =
        if r.val = rd.val ∧ r.val ≠ 0 then BitVec.ofNat 64 (t.core c).vl else (s.core c).getX r) ∧
  (∀ (s : State) (c : CoreId) (rd rs1 : XReg) (vfmt : FmtCode) (msel : Nibble), s.canIssue c = true → 10 ≤ vfmt.toNat →
    ∃ t, exec (.vsetvl c rd rs1 vfmt msel) s = .next t ∧ (t.core c).mcause = 2 ∧
      (t.core c).mtval = BitVec.ofNat 64 (encodeEng (.vsetvl rd rs1 vfmt msel)).1 ∧ (t.core c).mepc = (s.core c).pc ∧
      (t.core c).vcfg = (s.core c).vcfg ∧ (t.core c).x = (s.core c).x) ∧
  (∀ (s : State) (c : CoreId) (md ms1 ms2 : MaskId) (lop : LopCode), s.canIssue c = true → lop.val ≤ 5 →
    ∃ t, exec (.vmlog c md ms1 ms2 lop) s = .next t ∧ (t.core c).pc = (s.core c).pc + 4 ∧
      (∀ m, m ≠ md.val → (t.core c).mask m = (s.core c).mask m) ∧ (t.core c).x = (s.core c).x ∧
      ∀ i < 1024, bitOf ((t.core c).mask md) i =
        if i < (s.core c).vl then
          (match lop.val with
          | 0 => bitOf ((s.core c).mask ms1) i && bitOf ((s.core c).mask ms2) i
          | 1 => bitOf ((s.core c).mask ms1) i || bitOf ((s.core c).mask ms2) i
          | 2 => bitOf ((s.core c).mask ms1) i != bitOf ((s.core c).mask ms2) i
          | 3 => bitOf ((s.core c).mask ms1) i && !bitOf ((s.core c).mask ms2) i
          | 4 => !bitOf ((s.core c).mask ms1) i
          | _ => true)
        else bitOf ((s.core c).mask md) i) ∧
  (∀ (s : State) (c : CoreId) (rd : XReg) (ms : MaskId), s.canIssue c = true →
    ∃ t, exec (.vmpop c rd ms) s = .next t ∧ (t.core c).pc = (s.core c).pc + 4 ∧ (t.core c).masks = (s.core c).masks ∧
      ∀ r : XReg, (t.core c).getX r =
        if r.val = rd.val ∧ r.val ≠ 0 then
          BitVec.ofNat 64 ((List.range (s.core c).vl).countP fun i => bitOf ((s.core c).mask ms) i)
        else (s.core c).getX r) ∧
  (∀ (s : State) (c : CoreId) (rd rs1 : XReg) (vs : VSlot), s.canIssue c = true → (s.core c).vfmt ≤ 9 →
    (s.core c).vl ≤ vlMax (s.core c).vfmt → s.anyBreach c [] [] [vs.val] = false → (s.core c).vBad.contains vs.val = false →
    ∃ t, exec (.vmvx c rd rs1 vs) s = .next t ∧ (t.core c).pc = (s.core c).pc + 4 ∧ (t.core c).vslots = (s.core c).vslots ∧
      (t.core c).vflags = (if ((s.core c).getX rs1).toNat < (s.core c).vl ∨ (s.core c).vl = 0 then (s.core c).vflags
        else (s.core c).vflags ||| fIOR) ∧
      ∀ r : XReg, (t.core c).getX r =
        if r.val = rd.val ∧ r.val ≠ 0 then
          (if ((s.core c).getX rs1).toNat < (s.core c).vl then
            (if isIntFmt (s.core c).vfmt then
              BitVec.ofInt 64 (sgn (fmtBits (s.core c).vfmt) (vAt (s.core c) vs (s.core c).vfmt ((s.core c).getX rs1).toNat))
            else BitVec.ofNat 64 (vAt (s.core c) vs (s.core c).vfmt ((s.core c).getX rs1).toNat))
          else 0)
        else (s.core c).getX r) ∧
  ∀ (s : State) (c : CoreId) (zero : Bool) (vd : VSlot) (imm : Half) (v : Nat), s.canIssue c = true →
    vbciImm (s.core c).vfmt imm.toNat = some v → (s.core c).vl ≤ vlMax (s.core c).vfmt → s.anyBreach c [] [] [vd.val] = false →
    ∃ t, exec (if zero then .vbciz c vd imm else .vbci c vd imm) s = .next t ∧ (t.core c).pc = (s.core c).pc + 4 ∧
      (∀ u, u ≠ vd.val → (t.core c).vslot u = (s.core c).vslot u) ∧
      ∀ i < vlMax (s.core c).vfmt, vAt (t.core c) vd (s.core c).vfmt i =
        if i < (s.core c).vl ∧ (s.core c).active? (s.core c).vmsel i = true then v % 2 ^ fmtBits (s.core c).vfmt
        else if i < (s.core c).vl ∧ zero = true then 0 else vAt (s.core c) vd (s.core c).vfmt i

/-- RSUM, RMAX, RMIN and RAMAX complete (R334). -/
def Obligations.VectorReductions : Prop :=
  (∀ (op : VRed) (c : CoreId) (vd vs1 : VSlot) (f : VForm) (s : State) (k : Core) (a : VArgs), k = s.core c → a = k.args f →
    s.canIssue c = true → vArithFmt a.fmt = true → k.vl ≤ vlMax a.fmt → a.unused = true → a.zm = false →
    s.anyBreach c [] [] [vd.val, vs1.val] = false →
    ∃ t, exec (vredCmd op c vd vs1 f) s = .next t ∧
      (t.core c).pc = k.pc + BitVec.ofNat 64 (encodeEng (.vred op vd vs1 f)).2 ∧
      (∀ i, 0 < i → i < vlMax a.fmt → vAt (t.core c) vd a.fmt i = vAt k vd a.fmt i) ∧
      (k.vl = 0 → (t.core c).vslots = k.vslots) ∧ (∀ v, v ≠ vd.val → (t.core c).vslot v = k.vslot v) ∧
      (t.core c).masks = k.masks ∧ (t.core c).x = k.x) ∧
  (∀ (op : VRed) (c : CoreId) (vd vs1 : VSlot) (f : VForm) (s : State) (k : Core) (a : VArgs), k = s.core c → a = k.args f →
    s.canIssue c = true → (a.fmt = 7 ∨ a.fmt = 9) → 0 < k.vl → k.vl ≤ vlMax a.fmt → a.unused = true → a.zm = false →
    s.anyBreach c [] [] [vd.val, vs1.val] = false → op ≠ .amax →
    ∃ t, exec (vredCmd op c vd vs1 f) s = .next t ∧
      sgn (fmtBits a.fmt) (vAt (t.core c) vd a.fmt 0) =
        (let es := ((List.range k.vl).filter (k.active? a.msel)).map fun i => sgn (fmtBits a.fmt) (vAt k vs1 a.fmt i)
        match op with
        | .sum => sgn (fmtBits a.fmt) (unsgn (fmtBits a.fmt) es.sum)
        | .max => es.foldl max (-(2 ^ (fmtBits a.fmt - 1)))
        | _ => es.foldl min (2 ^ (fmtBits a.fmt - 1) - 1)))

/-- VPERM, VCOMPRESS, VEXPAND, VPACKE, VPACKO, VUNPKL, VUNPKH and VSHUF complete (R335 to R338); the use of vs2 by the packs
and unpacks is the model's reading (log entry 28). -/
def Obligations.VectorRearrangement : Prop :=
  (∀ (op : VPerm) (c : CoreId) (vd vs1 vs2 : VSlot) (f : VForm) (s : State) (k : Core) (a : VArgs), k = s.core c →
    a = k.args f → s.canIssue c = true → vMoveFmt a.fmt = true → k.vl ≤ vlMax a.fmt → a.vs2 = some vs2.val →
    (op = .perm ∨ op = .packe ∨ op = .packo ∨ op = .unpkl ∨ op = .unpkh) → (op = .perm ∨ vs2Zero f = true) →
    s.anyBreach c [] [] [vd.val, vs1.val, vs2.val] = false →
    ∃ t, exec (match op with
        | .perm => .vperm c vd vs1 f
        | .packe => .vpacke c vd vs1 f
        | .packo => .vpacko c vd vs1 f
        | .unpkl => .vunpkl c vd vs1 f
        | _ => .vunpkh c vd vs1 f) s = .next t ∧
      (t.core c).pc = k.pc + BitVec.ofNat 64 (encodeEng (.vperm op vd vs1 f)).2 ∧
      (∀ i < vlMax a.fmt, vAt (t.core c) vd a.fmt i =
        if i < k.vl ∧ k.active? a.msel i = true then
          (match op with
          | .perm => if vAt k vs2 a.fmt i < k.vl then vAt k vs1 a.fmt (vAt k vs2 a.fmt i) else 0
          | .packe => if 2 * i < k.vl then vAt k vs1 a.fmt (2 * i) else vAt k vs2 a.fmt (2 * i - k.vl)
          | .packo =>
            if 2 * i + 1 < k.vl then vAt k vs1 a.fmt (2 * i + 1)
            else if 2 * i + 1 < 2 * k.vl then vAt k vs2 a.fmt (2 * i + 1 - k.vl) else 0
          | .unpkl => if i % 2 = 0 then vAt k vs1 a.fmt (i / 2) else vAt k vs2 a.fmt (i / 2)
          | _ => if i % 2 = 0 then vAt k vs1 a.fmt (k.vl / 2 + i / 2) else vAt k vs2 a.fmt (k.vl / 2 + i / 2))
        else if i < k.vl ∧ a.zm = true then 0 else vAt k vd a.fmt i) ∧
      (∀ v, v ≠ vd.val → (t.core c).vslot v = k.vslot v) ∧
      (op = .perm → (t.core c).vflags =
        if ∃ i < k.vl, k.active? a.msel i = true ∧ k.vl ≤ vAt k vs2 a.fmt i then k.vflags ||| fIOR else k.vflags)) ∧
  (∀ (exp : Bool) (c : CoreId) (vd vs1 : VSlot) (f : VForm) (s : State) (k : Core) (a : VArgs), k = s.core c → a = k.args f →
    s.canIssue c = true → vMoveFmt a.fmt = true → k.vl ≤ vlMax a.fmt → a.unused = true →
    s.anyBreach c [] [] [vd.val, vs1.val] = false →
    ∃ t, exec (if exp then .vexpand c vd vs1 f else .vcompress c vd vs1 f) s = .next t ∧
      (t.core c).pc = k.pc + BitVec.ofNat 64 (encodeEng (.vperm (if exp then .expand else .compress) vd vs1 f)).2 ∧
      (∀ v, v ≠ vd.val → (t.core c).vslot v = k.vslot v) ∧
      (∀ i < k.vl, k.active? a.msel i = true →
        (let j := ((List.range i).filter (k.active? a.msel)).length
        if exp then vAt (t.core c) vd a.fmt i = vAt k vs1 a.fmt j else vAt (t.core c) vd a.fmt j = vAt k vs1 a.fmt i)) ∧
      ∀ i, k.vl ≤ i → i < vlMax a.fmt → vAt (t.core c) vd a.fmt i = vAt k vd a.fmt i) ∧
  ∀ (c : CoreId) (vd vs1 : VSlot) (imm : Word) (zm : Bool) (s : State) (k : Core), k = s.core c → s.canIssue c = true →
    vMoveFmt k.vfmt = true → k.vl ≤ vlMax k.vfmt → s.anyBreach c [] [] [vd.val, vs1.val] = false →
    ∃ t, exec (.vshuf c vd vs1 imm zm) s = .next t ∧ (t.core c).pc = k.pc + 8 ∧
      (∀ v, v ≠ vd.val → (t.core c).vslot v = k.vslot v) ∧
      ∀ i < vlMax k.vfmt, vAt (t.core c) vd k.vfmt i =
        if i < k.vl ∧ k.active? k.vmsel i = true then
          (if bitOf imm.toNat (4 * (i % 8) + 3) = true ∨ k.vl ≤ i / 8 * 8 + fld imm.toNat (4 * (i % 8)) 3 then 0
          else vAt k vs1 k.vfmt (i / 8 * 8 + fld imm.toNat (4 * (i % 8)) 3))
        else if i < k.vl ∧ zm = true then 0 else vAt k vd k.vfmt i

/-- VCVT, VLD, VLDS, VST and VSTS complete (R332, R333, R339). -/
def Obligations.VectorConversionAndMemory : Prop :=
  (∀ (c : CoreId) (vd vs1 : VSlot) (f : VCvtForm) (s : State) (k : Core) (a : CvtArgs), k = s.core c → a = k.cvtArgs f →
    s.canIssue c = true → a.ok k.vl = true →
    s.anyBreach c [] [] ([vd.val, vs1.val] ++ if a.mx then [a.scs] else []) = false →
    ∃ t, exec (.vcvt c vd vs1 f) s = .next t ∧
      (t.core c).pc = k.pc + BitVec.ofNat 64 (encodeEng (.vcvt vd vs1 f)).2 ∧
      (∀ v, v ≠ vd.val → (a.mx = false ∨ v ≠ a.scs) → (t.core c).vslot v = k.vslot v) ∧
      (a.sr = false → t.reg (pgCor c + 0x308) = s.reg (pgCor c + 0x308)) ∧
      (a.mx = false → a.sr = false → ∀ i < k.vl, k.active? a.msel i = true →
        vAt (t.core c) vd a.dst i = (convertElem .nearest a.src a.dst (vAt k vs1 a.src i)).1 % 2 ^ fmtBits a.dst)) ∧
  (∀ (s s1 : State) (c : CoreId) (v : VSlot) (rs1 : XReg) (zm : Bool) (k : Core) (ts : List (Target × Nat)), k = s.core c →
    s.canIssue c = true → k.vfmt ≤ 9 → k.vl ≤ vlMax k.vfmt → bitOf k.vmsel 3 = false → s.anyBreach c [] [] [v.val] = false →
    (k.getX rs1).toNat % max 1 (fmtBits k.vfmt / 8) = 0 →
    s.memCheck c false (pieces (k.getX rs1).toNat ((k.vl * fmtBits k.vfmt + 7) / 8)) = .ok ts s1 →
    ∃ t, exec (.vld c v rs1 zm) s = .next t ∧ (t.core c).pc = ((s1.coreReadAll c ts).2.2.core c).pc + 4 ∧
      (∀ u, u ≠ v.val → (t.core c).vslot u = ((s1.coreReadAll c ts).2.2.core c).vslot u) ∧
      ∀ i < k.vl, vAt (t.core c) v k.vfmt i =
        fld (ofBytes (s1.coreReadAll c ts).1) (fmtBits k.vfmt * i) (fmtBits k.vfmt)) ∧
  (∀ (s s1 : State) (c : CoreId) (v : VSlot) (rs1 rs2 : XReg) (zm : Bool) (k : Core) (ts : List (Target × Nat)),
    k = s.core c → s.canIssue c = true → k.vfmt ≤ 9 → 8 ≤ fmtBits k.vfmt → k.vl ≤ vlMax k.vfmt →
    s.anyBreach c [] [] [v.val] = false → (k.getX rs1).toNat % (fmtBits k.vfmt / 8) = 0 →
    (k.getX rs2).toInt % ((fmtBits k.vfmt / 8 : Nat) : Int) = 0 →
    s.memCheck c false (vPieces k (fmtBits k.vfmt) (k.getX rs1).toNat (k.getX rs2).toInt false) = .ok ts s1 →
    ∃ t, exec (.vlds c v rs1 rs2 zm) s = .next t ∧ (t.core c).pc = ((s1.coreReadAll c ts).2.2.core c).pc + 4 ∧
      (∀ u, u ≠ v.val → (t.core c).vslot u = ((s1.coreReadAll c ts).2.2.core c).vslot u) ∧
      ∀ i < k.vl, vAt (t.core c) v k.vfmt i =
        if k.active? k.vmsel i = true then
          fld (ofBytes (s1.coreReadAll c ts).1) (fmtBits k.vfmt * ((List.range i).filter (k.active? k.vmsel)).length)
            (fmtBits k.vfmt)
        else if zm then 0 else vAt ((s1.coreReadAll c ts).2.2.core c) v k.vfmt i) ∧
  (∀ (s s1 : State) (c : CoreId) (v : VSlot) (rs1 : XReg) (zm : Bool) (k : Core) (ts : List (Target × Nat)), k = s.core c →
    s.canIssue c = true → k.vfmt ≤ 9 → k.vl ≤ vlMax k.vfmt → bitOf k.vmsel 3 = false → s.anyBreach c [] [] [v.val] = false →
    (k.getX rs1).toNat % max 1 (fmtBits k.vfmt / 8) = 0 →
    s.memCheck c true (pieces (k.getX rs1).toNat ((k.vl * fmtBits k.vfmt + 7) / 8)) = .ok ts s1 →
    exec (.vst c v rs1 zm) s =
      .next (((s1.coreWriteAll c (k.vSrcBad [v.val] k.vmsel) ts (toBytes ((k.vl * fmtBits k.vfmt + 7) / 8) (k.vslot v))).vCount c
        k.vl).retire c 4)) ∧
  ∀ (strided : Bool) (s s1 : State) (c : CoreId) (v : VSlot) (rs1 rs2 : XReg) (zm : Bool) (k : Core)
    (ts : List (Target × Nat)) (stride : Int), k = s.core c → s.canIssue c = true → k.vfmt ≤ 9 → 8 ≤ fmtBits k.vfmt →
    k.vl ≤ vlMax k.vfmt → s.anyBreach c [] [] [v.val] = false → (k.getX rs1).toNat % (fmtBits k.vfmt / 8) = 0 →
    stride = (if strided then (k.getX rs2).toInt else ((fmtBits k.vfmt / 8 : Nat) : Int)) →
    stride % ((fmtBits k.vfmt / 8 : Nat) : Int) = 0 →
    (strided = true ∨ bitOf k.vmsel 3 = true) →
    s.memCheck c true (vPieces k (fmtBits k.vfmt) (k.getX rs1).toNat stride false) = .ok ts s1 →
    exec (if strided then .vsts c v rs1 rs2 zm else .vst c v rs1 zm) s =
      .next (((s1.coreWriteAll c (k.vSrcBad [v.val] k.vmsel) ts
        (((List.range k.vl).filter (k.active? k.vmsel)).flatMap fun i =>
          toBytes (fmtBits k.vfmt / 8) (vAt k v k.vfmt i))).vCount c (k.nActive k.vmsel)).retire c 4)

/-- Engine instructions are checked at issue: unpermitted formats, a misaligned memory operand and a breach of the
pre-emption partition raise their exception, nothing is issued and mtval holds the whole instruction or the address (R259,
R262, R267, R283). -/
def Obligations.EngineExceptions : Prop :=
  (∀ (s : State) (c : CoreId) (acc : AccId) (a b : TileId) (fa fb : FmtCode) (mx cz : Bool), s.canIssue c = true →
    denseOk fa.toNat fb.toNat mx = false → ∃ t, exec (.mmax c acc a b fa fb mx false cz) s = .next t ∧ (t.core c).mcause = 2 ∧
      (t.core c).mtval = BitVec.ofNat 64 (encodeEng (.mmax acc a b fa fb mx false cz)).1 ∧ (t.core c).mepc = (s.core c).pc ∧
      (t.core c).machine = true ∧ (t.core c).mmaQ = (s.core c).mmaQ ∧ OnlyCore c s t) ∧
  (∀ (s : State) (c : CoreId) (rs1 rs2 : XReg) (acc : AccId), s.canIssue c = true → s.anyBreach c [] [acc.val] [] = false →
    ((s.core c).getX rs1).toNat % 4 ≠ 0 → ∃ t, exec (.mlda c rs1 rs2 acc) s = .next t ∧ (t.core c).mcause = 4 ∧
      (t.core c).mtval = (s.core c).getX rs1 ∧ (t.core c).mepc = (s.core c).pc ∧ (t.core c).accs = (s.core c).accs ∧
      OnlyCore c s t) ∧
  (∀ (s : State) (c : CoreId) (rs1 rs2 : XReg) (acc : AccId) (ofmt : FmtCode) (sr tr : Bool), s.canIssue c = true →
    ofmtOk ofmt.toNat sr = true → s.anyBreach c [] [acc.val] [] = false → ((s.core c).getX rs1).toNat % 4 ≠ 0 →
    ∃ t, exec (.mst c rs1 rs2 acc ofmt sr tr) s = .next t ∧ (t.core c).mcause = 6 ∧
      (t.core c).mtval = (s.core c).getX rs1 ∧ (t.core c).mepc = (s.core c).pc ∧ OnlyCore c s t) ∧
  (∀ (s : State) (c : CoreId) (v : VSlot) (t : TileId), s.canIssue c = true → 384 ≤ t.val → t.val ≤ 447 →
    s.rbit (pgCor c + 0x040) 0 = true → (s.core c).prio7 = false →
    ∃ u, exec (.mfv c v t) s = .next u ∧ (u.core c).mcause = 2 ∧ u.rbit (pgCor c + 0x054) 1 = true ∧
      (u.core c).tiles = (s.core c).tiles ∧ (u.core c).mepc = (s.core c).pc ∧ OnlyCore c s u) ∧
  (∀ (s : State) (c : CoreId) (v : VSlot) (t : TileId), s.canIssue c = true → 447 < t.val →
    ∃ u, exec (.mfv c v t) s = .next u ∧ (u.core c).mcause = 2 ∧
      (u.core c).mtval = BitVec.ofNat 64 (encodeEng (.mfv v t)).1 ∧ (u.core c).tiles = (s.core c).tiles ∧ OnlyCore c s u) ∧
  ∀ (s s1 : State) (c : CoreId) (rs1 rs2 : XReg) (acc : AccId) (va : Nat), s.canIssue c = true →
    s.anyBreach c [] [acc.val] [] = false → misaligned4 ((s.core c).getX rs1).toNat ((s.core c).getX rs2).toNat = none →
    ((rowPieces ((s.core c).getX rs1).toNat ((s.core c).getX rs2).toNat 64 16).any fun p => s.coreWalkHeld c p.1 p.2) = false →
    s.coreXlateAll c false (rowPieces ((s.core c).getX rs1).toNat ((s.core c).getX rs2).toNat 64 16) = (.error va, s1) →
    ∃ t, exec (.mlda c rs1 rs2 acc) s = .next t ∧ (t.core c).mcause = 13 ∧ (t.core c).mtval = BitVec.ofNat 64 va ∧
      (t.core c).mepc = (s1.core c).pc ∧ (t.core c).accs = (s1.core c).accs

/-- SCI, SCIN, STI and STIN complete: rd takes 0, 1 or 2 (R272 to R275, R382). A misaligned or a poisoned entry raises its
exception at issue (R272, R376). -/
def Obligations.CommandIssue : Prop :=
  (∀ (s s1 : State) (c : CoreId) (rd rs1 rs2 : XReg) (blocking : Bool) (v base : Nat) (ts : List (Target × Nat)) (l : List Byte)
      (s2 : State), s.canIssue c = true → (s.core c).placing = none → (s.core c).stalled = false → v = ((s.core c).getX rs2).toNat →
    base = ((s.core c).getX rs1).toNat → base % 64 = 0 →
    s.memCheck c false (pieces base (64 * fld v 16 16)) = .ok ts s1 → s1.coreReadAll c ts = (l, false, s2) →
    fld v 10 6 = 0 → fld v 32 32 = 0 → fld v 16 16 ≠ 0 → s2.queueOn (fld v 0 4) (fld v 4 6) = true →
    l.length = 64 * fld v 16 16 → isScatter (ofBytes (l.take 64) % 256) = false → s2.listBusy (fld v 0 4) (fld v 4 6) (srcCore c) = false →
    fld v 16 16 + s2.queueOcc (fld v 0 4) (fld v 4 6) ≤ s2.queueDepth (fld v 0 4) (fld v 4 6) →
    ∃ t e, exec (if blocking then .sci c rd rs1 rs2 else .scin c rd rs1 rs2) s = .next t ∧
      nget (t.server (fld v 0 4)).queues (fld v 4 6) [] = nget (s2.server (fld v 0 4)).queues (fld v 4 6) [] ++ [e] ∧
      e.raw = ofBytes (l.take 64) ∧ e.stream = l.drop 64 ∧ e.missing = 0 ∧ e.src = srcCore c ∧
      (t.core c).pc = (s2.core c).pc + 4 ∧
      ∀ r : XReg, (t.core c).getX r = if r.val = rd.val ∧ r.val ≠ 0 then 0 else (s2.core c).getX r) ∧
  (∀ (s s1 : State) (c : CoreId) (rd rs1 rs2 : XReg) (blocking : Bool) (v base : Nat) (ts : List (Target × Nat)) (l : List Byte)
      (s2 : State), s.canIssue c = true → (s.core c).placing = none → (s.core c).stalled = false → v = ((s.core c).getX rs2).toNat →
    base = ((s.core c).getX rs1).toNat → base % 64 = 0 →
    s.memCheck c false (pieces base (64 * fld v 16 16)) = .ok ts s1 → s1.coreReadAll c ts = (l, false, s2) →
    (fld v 10 6 ≠ 0 ∨ fld v 32 32 ≠ 0 ∨ fld v 16 16 = 0 ∨ s2.queueOn (fld v 0 4) (fld v 4 6) = false) →
    ∃ t, exec (if blocking then .sci c rd rs1 rs2 else .scin c rd rs1 rs2) s = .next t ∧ t.servers = s2.servers ∧
      (t.core c).pc = (s2.core c).pc + 4 ∧
      ∀ r : XReg, (t.core c).getX r = if r.val = rd.val ∧ r.val ≠ 0 then 2 else (s2.core c).getX r) ∧
  (∀ (s s1 : State) (c : CoreId) (rd rs1 rs2 : XReg) (v base : Nat) (ts : List (Target × Nat)) (l : List Byte)
      (s2 : State), s.canIssue c = true → (s.core c).placing = none → (s.core c).stalled = false → v = ((s.core c).getX rs2).toNat →
    base = ((s.core c).getX rs1).toNat → base % 64 = 0 →
    s.memCheck c false (pieces base (64 * fld v 16 16)) = .ok ts s1 → s1.coreReadAll c ts = (l, false, s2) →
    fld v 10 6 = 0 → fld v 32 32 = 0 → fld v 16 16 ≠ 0 → s2.queueOn (fld v 0 4) (fld v 4 6) = true →
    l.length = 64 * fld v 16 16 →
    s2.queueDepth (fld v 0 4) (fld v 4 6) < fld v 16 16 + s2.queueOcc (fld v 0 4) (fld v 4 6) →
    ∃ t, exec (.scin c rd rs1 rs2) s = .next t ∧ t.servers = s2.servers ∧ (t.core c).pc = (s2.core c).pc + 4 ∧
      ∀ r : XReg, (t.core c).getX r = if r.val = rd.val ∧ r.val ≠ 0 then 1 else (s2.core c).getX r) ∧
  (∀ (s s1 : State) (c : CoreId) (rd rs1 rs2 : XReg) (blocking : Bool) (v base e : Nat) (ts : List (Target × Nat))
      (l : List Byte) (s2 : State), s.canIssue c = true → (s.core c).placing = none → (s.core c).stalled = false →
    v = ((s.core c).getX rs2).toNat → base = ((s.core c).getX rs1).toNat → base % 64 = 0 →
    s.memCheck c false (pieces base (64 * fld v 16 16)) = .ok ts s1 → s1.coreReadAll c ts = (l, false, s2) →
    fld v 3 13 = 0 → fld v 32 32 = 0 → fld v 16 16 = 1 → e = homeOf c * 8 + fld v 0 3 → s2.sengOn e = true →
    (s2.seng e).placer = none → (s2.seng e).queue.length < 64 →
    ∃ t d, exec (if blocking then .sti c rd rs1 rs2 else .stin c rd rs1 rs2) s = .next t ∧
      (t.seng e).queue = (s2.seng e).queue ++ [d] ∧ d.raw = ofBytes (l.take 64) ∧ d.addr = base % 2 ^ 48 ∧
      (t.core c).pc = (s2.core c).pc + 4 ∧
      ∀ r : XReg, (t.core c).getX r = if r.val = rd.val ∧ r.val ≠ 0 then 0 else (s2.core c).getX r) ∧
  (∀ (s s1 : State) (c : CoreId) (rd rs1 rs2 : XReg) (v base e : Nat) (ts : List (Target × Nat))
      (l : List Byte) (s2 : State), s.canIssue c = true → (s.core c).placing = none → (s.core c).stalled = false →
    v = ((s.core c).getX rs2).toNat → base = ((s.core c).getX rs1).toNat → base % 64 = 0 →
    s.memCheck c false (pieces base (64 * fld v 16 16)) = .ok ts s1 → s1.coreReadAll c ts = (l, false, s2) →
    fld v 3 13 = 0 → fld v 32 32 = 0 → fld v 16 16 ≠ 0 → fld v 16 16 ≤ 64 → e = homeOf c * 8 + fld v 0 3 → s2.sengOn e = true →
    64 < (s2.seng e).queue.length + fld v 16 16 →
    ∃ t, exec (.stin c rd rs1 rs2) s = .next t ∧ t.sengs = s2.sengs ∧ (t.core c).pc = (s2.core c).pc + 4 ∧
      ∀ r : XReg, (t.core c).getX r = if r.val = rd.val ∧ r.val ≠ 0 then 1 else (s2.core c).getX r) ∧
  (∀ (s : State) (c : CoreId) (rd rs1 rs2 : XReg), s.canIssue c = true → (s.core c).placing = none → (s.core c).stalled = false →
    ((s.core c).getX rs1).toNat % 64 ≠ 0 → ∃ t, exec (.sci c rd rs1 rs2) s = .next t ∧ (t.core c).mcause = 4 ∧ (t.core c).mtval = (s.core c).getX rs1 ∧
      (t.core c).mepc = (s.core c).pc ∧ OnlyCore c s t) ∧
  ∀ (s s1 : State) (c : CoreId) (rd rs1 rs2 : XReg) (blocking : Bool) (v base : Nat) (ts : List (Target × Nat)) (l : List Byte)
      (s2 : State), s.canIssue c = true → (s.core c).placing = none → (s.core c).stalled = false → v = ((s.core c).getX rs2).toNat →
    base = ((s.core c).getX rs1).toNat → base % 64 = 0 →
    s.memCheck c false (pieces base (64 * fld v 16 16)) = .ok ts s1 → s1.coreReadAll c ts = (l, true, s2) →
    ∃ t, exec (if blocking then .sci c rd rs1 rs2 else .scin c rd rs1 rs2) s = .next t ∧ (t.core c).mcause = 5 ∧
      (t.core c).mepc = (s2.core c).pc ∧ (t.core c).x = (s2.core c).x ∧ t.servers = s2.servers

/-- WEND, OP_START, CORE_SOFT_RESET, CORE_ENABLE, HALT, RESUME and STEP complete (R254 to R256, R285 to R288); while an
instruction of a core waits, no other of that core begins (R274, R417). -/
def Obligations.CoreControl : Prop :=
  (∀ (s : State) (c : CoreId) (op : OpRef), s.canIssue c = true → (s.core c).active = some op → (s.core c).mmaQ = [] →
    (s.core c).ranges = [] → (s.core c).placing = none → (s.core c).stalled = false → (s.core c).fencing = none → ∃ t, exec (.wend c) s = .next t ∧ (t.core c).active = none ∧ (t.core c).wait = .opEnd ∧
      (t.core c).ended = (s.core c).ended ++
        [(op, if (s.core c).machine then 3 else if (s.core c).opPoison then 5 else 0)] ∧
      (t.core c).tiles = (s.core c).tiles ∧ (t.core c).scales = (s.core c).scales ∧ (t.core c).accs = (s.core c).accs ∧
      (t.core c).vslots = (s.core c).vslots ∧ (t.core c).masks = (s.core c).masks ∧ (t.core c).mxfmt = (s.core c).mxfmt ∧
      (t.core c).mxflags = (s.core c).mxflags ∧ t.reg (pgCor c + 0x04C) = s.reg (pgCor c + 0x04C) ∧ OnlyCore c s t) ∧
  (∀ (s : State) (c : CoreId) (op : OpRef), s.coreOn c = true → (s.core c).started = false → (s.core c).wait ≠ .opEnd →
    (s.core c).preempted = none →
    ((s.core c).active = some op ∨ ((s.core c).active = none ∧ (s.core c).prefetched = some op)) →
    ∃ t, exec (.opStart c) s = .next t ∧ (t.core c).active = some op ∧ (t.core c).started = true ∧
      (t.core c).machine = false ∧ (t.core c).pc = BitVec.ofNat 64 op.entry ∧
      (t.core c).getX 10 = BitVec.ofNat 64 op.desc ∧ (t.core c).getX 11 = BitVec.ofNat 64 c.val ∧
      (∀ r : XReg, r.val ≠ 0 → r.val ≠ 10 → r.val ≠ 11 → (t.core c).getX r = Config.freeWord (s.free + (r.val - 1))) ∧
      (t.core c).tiles = (s.core c).tiles ∧ (t.core c).accs = (s.core c).accs ∧ (t.core c).vslots = (s.core c).vslots ∧
      (t.core c).mxfmt = (s.core c).mxfmt ∧ (t.core c).mxflags = (s.core c).mxflags ∧ t.regs = s.regs ∧
      ∀ d, d ≠ c.val → t.core d = s.core d) ∧
  (∀ (s : State) (c : CoreId), s.serves .cor = true → bitOf s.boot.clusters.toNat (homeOf c) = true → ∃ t, exec (.coreSoftReset c) s = .next t ∧
      (t.core c).active = none ∧ (t.core c).prefetched = none ∧ (t.core c).preempted = none ∧ (t.core c).tiles = [] ∧
      (t.core c).accs = [] ∧ (t.core c).vslots = [] ∧ (t.core c).masks = [] ∧ (t.core c).mmaQ = [] ∧ (t.core c).machine = true ∧
      (t.core c).ended.length = (s.core c).ended.length +
        ((s.core c).active.toList ++ (s.core c).preempted.toList ++ (s.core c).prefetched.toList).length ∧
      t.reg (pgCor c + 0x04C) = 1 ∧ t.reg (pgCor c + 0x308) = 1) ∧
  (∀ (s : State) (c : CoreId), s.serves .cor = true → bitOf s.boot.clusters.toNat (homeOf c) = true → s.fwLoaded 1 c = true →
    s.enabled (pgCor c) = false → ∃ t, exec (.coreEnable c true) s = .next t ∧ t.enabled (pgCor c) = true ∧
      (t.core c).machine = true ∧ (t.core c).tiles = (s.core c).tiles ∧ (t.core c).accs = (s.core c).accs ∧
      (t.core c).vslots = (s.core c).vslots ∧ (t.core c).masks = (s.core c).masks ∧ OnlyCore c s t) ∧
  (∀ (s : State) (c : CoreId), s.serves .cor = true → bitOf s.boot.clusters.toNat (homeOf c) = true → s.fwLoaded 1 c = false →
    ∃ t, exec (.coreEnable c true) s = .next t ∧ t.rbit (pgCor c + 0x014) 1 = true ∧
      t.reg (pgCor c + 0x018) = 0x0E + 2 ^ 24 * 0x04 ∧ t.cores = s.cores) ∧
  (∀ (s : State) (c : CoreId), s.serves .cor = true → (s.core c).busy = true → ∃ t, exec (.coreEnable c false) s = .next t ∧
      t.rbit (pgCor c + 0x014) 1 = true ∧ t.reg (pgCor c + 0x018) = 0x0D + 2 ^ 24 * 0x04 ∧ t.cores = s.cores) ∧
  (∀ (s : State) (c : CoreId), s.serves .cor = true → s.boot.unlocked.getLsbD 0 = true →
    exec (.halt c) s = .next (s.setCore c { s.core c with dbgHalt := true, stepping := false }) ∧
    exec (.resume c) s = .next (s.setCore c { s.core c with dbgHalt := false, stepping := false }) ∧
    exec (.step c) s = .next (s.setCore c { s.core c with stepping := true })) ∧
  (∀ (s : State) (c : CoreId) (w : Nat), (s.core c).midway = some w → exec (.rv64imacInstruction c) s = .next s) ∧
  (∀ (s : State) (c : CoreId) (w : Nat) (rd rs1 rs2 : XReg), (s.core c).midway = some w →
    w ≠ (encodeEng (.bead .bst rd rs1 rs2)).1 → exec (.bst c rd rs1 rs2) s = .next s) ∧
  (∀ (s : State) (c : CoreId) (w : Nat) (rd rs1 rs2 : XReg), (s.core c).midway = some w →
    w ≠ (encodeEng (.issue .sci rd rs1 rs2)).1 → exec (.sci c rd rs1 rs2) s = .next s) ∧
  ∀ (s : State) (c : CoreId) (i : Instr), s.serves .cor = true → s.boot.unlocked.getLsbD 0 = false → (i = .halt c ∨ i = .resume c ∨ i = .step c) →
    ∃ t, exec i s = .next t ∧ t.rbit (pgCor c + 0x014) 1 = true ∧ t.reg (pgCor c + 0x018) = 0x80 + 2 ^ 24 * 0x16 ∧
      t.cores = s.cores

/-- BST, BSTN, BLD and BPEEK complete on the bead that rs1 names (R411 to R413); a bead with no waiter is meant where one
changes. -/
def Obligations.Beads : Prop :=
  ∀ (s s1 : State) (c : CoreId) (rd rs1 rs2 : XReg) (h b : Nat) (o : Bead), s.canIssue c = true →
    syncTarget s c rs1 true = .ok (.bead h b, s1) → o = s1.bead h b → (∀ w ∈ (s1.home h).waiters, w.obj ≠ b) →
    (o.st = 0 → ∃ t, exec (.bst c rd rs1 rs2) s = .next t ∧
      t.bead h b = { o with value := (s1.core c).getX rs2, st := 1 } ∧ putX s1 t c rd 0 ∧
      (t.core c).pc = (s1.core c).pc + 4 ∧ (t.core c).syncst = (if o.ovf then 16 else 0) ∧
      ∀ b', b' ≠ b → t.bead h b' = s1.bead h b') ∧
    (o.st = 1 → ∃ t, exec (.bst c rd rs1 rs2) s = .next t ∧ t.bead h b = o ∧ (t.core c).wait = .sync ∧
      (t.core c).pc = (s1.core c).pc ∧ (t.core c).x = (s1.core c).x ∧ (t.home h).waiters = (s1.home h).waiters ++
        [{ core := c, obj := b, kind := .bst ((s1.core c).getX rs2), rd := rd.val }]) ∧
    (o.st = 2 → ∃ t, exec (.bst c rd rs1 rs2) s = .next t ∧ t.bead h b = o ∧ putX s1 t c rd 2 ∧
      (t.core c).pc = (s1.core c).pc + 4) ∧
    (o.st = 0 → ∃ t, exec (.bstn c rd rs1 rs2) s = .next t ∧
      t.bead h b = { o with value := (s1.core c).getX rs2, st := 1 } ∧ putX s1 t c rd 0 ∧
      (t.core c).pc = (s1.core c).pc + 4) ∧
    (o.st = 1 → ∃ t, exec (.bstn c rd rs1 rs2) s = .next t ∧ t.bead h b = { o with ovf := true } ∧ putX s1 t c rd 1 ∧
      (t.core c).syncst = 1 + 4 + 16 ∧ (t.core c).pc = (s1.core c).pc + 4) ∧
    (o.st = 1 → ∃ t, exec (.bld c rd rs1) s = .next t ∧ t.bead h b = { o with st := 0 } ∧ putX s1 t c rd o.value ∧
      (t.core c).pc = (s1.core c).pc + 4) ∧
    (o.st = 0 → ∃ t, exec (.bld c rd rs1) s = .next t ∧ t.bead h b = o ∧ (t.core c).wait = .sync ∧
      (t.core c).pc = (s1.core c).pc ∧ (t.core c).x = (s1.core c).x) ∧
    (o.st = 2 → ∃ t, exec (.bld c rd rs1) s = .next t ∧ t.bead h b = o ∧ putX s1 t c rd 0 ∧
      (t.core c).syncst = 2 + 8 + (if o.ovf then 16 else 0)) ∧
    (syncTarget s c rs1 false = .ok (.bead h b, s1) → ∃ t, exec (.bpeek c rd rs1) s = .next t ∧ t.home h = s1.home h ∧
      putX s1 t c rd o.value ∧ (t.core c).pc = (s1.core c).pc + 4)

/-- BST to an empty bead for which a BLD waits: the waiting core takes the value in the same step and the bead is empty again
(R415). -/
def Obligations.BeadHandOver : Prop :=
  ∀ (s s1 : State) (c d : CoreId) (rd rs1 rs2 rd' : XReg) (h b : Nat), s.canIssue c = true → d ≠ c →
    syncTarget s c rs1 true = .ok (.bead h b, s1) → (s1.bead h b).st = 0 →
    (s1.home h).waiters = [{ core := d, obj := b, kind := .bld, rd := rd'.val }] →
    ∃ t, exec (.bst c rd rs1 rs2) s = .next t ∧ (t.bead h b).st = 0 ∧ (t.home h).waiters = [] ∧ putX s1 t c rd 0 ∧
      putX s1 t d rd' ((s1.core c).getX rs2) ∧ (t.core d).wait = .none ∧ (t.core d).pc = (s1.core d).pc + 4 ∧
      (t.core c).pc = (s1.core c).pc + 4

/-- CADD, CSUB, CWAIT and CREAD complete on the counter that rs1 names (R411, R412, R416). -/
def Obligations.Counters : Prop :=
  ∀ (s s1 : State) (c : CoreId) (rd rs1 rs2 : XReg) (h k n : Nat) (o : Ctr) (write : Bool), s.canIssue c = true →
    syncTarget s c rs1 write = .ok (.ctr h k, s1) → o = s1.ctr h k → n = fld ((s1.core c).getX rs2).toNat 0 16 →
    o.value ≤ 0xFFFF → (∀ w ∈ (s1.home h).waiters, w.obj ≠ 32768 + k) →
    (write = true → o.st ≠ 2 → ∃ t, exec (.cadd c rd rs1 rs2) s = .next t ∧
      t.ctr h k = { o with value := min (o.value + n) 0xFFFF, sat := o.sat || decide (0xFFFF < o.value + n) } ∧
      putX s1 t c rd (BitVec.ofNat 64 (min (o.value + n) 0xFFFF)) ∧ (t.core c).pc = (s1.core c).pc + 4 ∧
      ∀ k', k' ≠ k → t.ctr h k' = s1.ctr h k') ∧
    (write = true → o.st ≠ 2 → ∃ t, exec (.csub c rd rs1 rs2) s = .next t ∧
      t.ctr h k = { o with value := o.value - n, sat := o.sat || decide (o.value < n) } ∧
      putX s1 t c rd (BitVec.ofNat 64 (o.value - n)) ∧ (t.core c).pc = (s1.core c).pc + 4 ∧
      ∀ k', k' ≠ k → t.ctr h k' = s1.ctr h k') ∧
    (write = true → o.st = 2 → ∃ t, exec (.cadd c rd rs1 rs2) s = .next t ∧ t.ctr h k = o ∧
      putX s1 t c rd (BitVec.ofNat 64 o.value)) ∧
    (write = false → n ≤ o.value → ∃ t, exec (.cwait c rd rs1 rs2) s = .next t ∧ t.ctr h k = o ∧
      putX s1 t c rd (BitVec.ofNat 64 o.value) ∧ (t.core c).pc = (s1.core c).pc + 4) ∧
    (write = false → o.st ≠ 2 → o.value < n → ∃ t, exec (.cwait c rd rs1 rs2) s = .next t ∧ t.ctr h k = o ∧
      (t.core c).wait = .sync ∧ (t.core c).pc = (s1.core c).pc ∧ (t.core c).x = (s1.core c).x) ∧
    (write = false → ∃ t, exec (.cread c rd rs1) s = .next t ∧ t.home h = s1.home h ∧
      putX s1 t c rd (BitVec.ofNat 64 o.value) ∧ (t.core c).pc = (s1.core c).pc + 4)

/-- SCLAIM, FARRIVE, FWAIT, FSYNC, FILIGREE_RELEASE and FENCE_S complete (R417, R419 to R421, R423). -/
def Obligations.ClaimsAndFiligree : Prop :=
  (∀ (s s1 : State) (c : CoreId) (rd rs1 rs2 : XReg) (h b : Nat), s.canIssue c = true →
    syncTarget s c rs1 true = .ok (.bead h b, s1) → fld ((s1.core c).getX rs2).toNat 0 9 = 1 → b < 32768 →
    (s1.core c).taskid ≠ 0 → (s1.core c).ranges.length < 8 →
    ((s1.bead h b).owner = 0 ∨ (s1.bead h b).owner = (s1.core c).taskid.toNat) → (s1.bead h b).st ≠ 2 →
    ∃ t, exec (.sclaim c rd rs1 rs2) s = .next t ∧ (t.bead h b).owner = (s1.core c).taskid.toNat ∧
      (t.bead h b).value = (s1.bead h b).value ∧ (t.bead h b).st = (s1.bead h b).st ∧ (t.bead h b).ovf = false ∧
      (t.core c).ranges = (s1.core c).ranges ++ [(0x30000000000 + h * 0x100000 + b * 8, 1)] ∧ putX s1 t c rd 0 ∧
      (t.core c).pc = (s1.core c).pc + 4) ∧
  (∀ (s s1 : State) (c : CoreId) (rd rs1 rs2 : XReg) (h b : Nat), s.canIssue c = true →
    syncTarget s c rs1 true = .ok (.bead h b, s1) → fld ((s1.core c).getX rs2).toNat 0 9 = 1 → b < 32768 →
    (s1.core c).taskid ≠ 0 → (s1.core c).ranges.length < 8 → (s1.bead h b).owner ≠ 0 →
    (s1.bead h b).owner ≠ (s1.core c).taskid.toNat →
    ∃ t, exec (.sclaim c rd rs1 rs2) s = .next t ∧ t.homes = s1.homes ∧ (t.core c).ranges = (s1.core c).ranges ∧
      putX s1 t c rd 1 ∧ (t.core c).pc = (s1.core c).pc + 4) ∧
  (∀ (s : State) (c : CoreId) (rd rs1 : XReg) (n : Nat), s.canIssue c = true → n = fld ((s.core c).getX rs1).toNat 0 5 →
    s.fgPart n c = true → s.fgOn n = true → (s.fgState n).broken = false → (s.fgState n).arrived.contains c.val = false →
    ∃ t, exec (.farrive c rd rs1) s = .next t ∧ (t.fgState n).arrived = (s.fgState n).arrived ++ [c.val] ∧
      (t.fgState n).phase = (s.fgState n).phase ∧ putX s t c rd 0 ∧ (t.core c).pc = (s.core c).pc + 4) ∧
  (∀ (s : State) (c : CoreId) (rd rs1 : XReg), s.canIssue c = true →
    s.fgPart (fld ((s.core c).getX rs1).toNat 0 5) c = false →
    ∃ t, exec (.farrive c rd rs1) s = .next t ∧ t.fg = s.fg ∧ putX s t c rd 1 ∧ (t.core c).pc = (s.core c).pc + 4) ∧
  (∀ (s : State) (c : CoreId) (rd rs1 : XReg) (n ph : Nat), s.canIssue c = true →
    n = fld ((s.core c).getX rs1).toNat 0 5 → (s.core c).fgSeen.find? (·.1 == n) = some (n, ph) →
    ph ≠ fgLost → ph ≠ (s.fgState n).phase → ∃ t, exec (.fwait c rd rs1) s = .next t ∧ t.fg = s.fg ∧ putX s t c rd 0 ∧
      (t.core c).pc = (s.core c).pc + 4 ∧ (t.core c).fgSeen.find? (·.1 == n) = none) ∧
  (∀ (s : State) (c : CoreId) (rd rs1 : XReg) (n : Nat), s.canIssue c = true → n = fld ((s.core c).getX rs1).toNat 0 5 →
    (s.core c).fgSeen.find? (·.1 == n) = some (n, fgLost) → ∃ t, exec (.fwait c rd rs1) s = .next t ∧ t.fg = s.fg ∧
      putX s t c rd 2 ∧ (t.core c).pc = (s.core c).pc + 4 ∧ (t.core c).fgSeen.find? (·.1 == n) = none) ∧
  (∀ (s : State) (c : CoreId) (rd rs1 : XReg) (n : Nat), s.canIssue c = true → n = fld ((s.core c).getX rs1).toNat 0 5 →
    (s.core c).fgSeen.find? (·.1 == n) = some (n, (s.fgState n).phase) → (s.fgState n).phase < 65536 →
    s.fgOn n = true → (s.fgState n).broken = false →
    ∃ t, exec (.fwait c rd rs1) s = .next t ∧ (t.core c).wait = .sync ∧ (t.core c).pc = (s.core c).pc ∧
      (t.core c).x = (s.core c).x ∧ (t.fgState n).waiters = (s.fgState n).waiters ++ [(c.val, rd.val, fgWait)]) ∧
  (∀ (s : State) (c : CoreId) (rd rs1 : XReg) (n : Nat), s.canIssue c = true → n = fld ((s.core c).getX rs1).toNat 0 5 →
    s.fgPart n c = true → s.fgOn n = true → (s.fgState n).broken = false → (s.fgState n).arrived.contains c.val = false →
    ∃ t, exec (.fsync c rd rs1) s = .next t ∧ (t.fgState n).arrived = (s.fgState n).arrived ++ [c.val] ∧
      (t.core c).wait = .sync ∧ (t.core c).pc = (s.core c).pc ∧
      (t.fgState n).waiters = (s.fgState n).waiters ++ [(c.val, rd.val, fgSyncRel)]) ∧
  (∀ (s : State) (ch : FgChan) (c : CoreId) (rd : XReg), s.fgOn ch = true → (s.fgState ch).broken = false →
    (s.fgCores ch).isEmpty = false → s.fgAllCores ch = true → (s.fgStacksDone ch).length = (s.fgStacks ch).length →
    (s.fgState ch).waiters = [(c.val, rd.val, fgSyncRel)] →
    ∃ t, exec (.filigreeRelease ch) s = .next t ∧ (t.fgState ch).phase = ((s.fgState ch).phase + 1) % 65536 ∧
      (t.fgState ch).arrived = [] ∧ (t.fgState ch).waiters = [] ∧ putX s t c rd 0 ∧ (t.core c).wait = .none ∧
      (t.core c).pc = (s.core c).pc + 4) ∧
  (∀ (s : State) (c : CoreId) (scope : FenceScope), s.canIssue c = true → (s.core c).fencing = none →
    (scope = .core ∨ scope = .cluster ∨ scope = .die ∨ (s.seqTx.any fun p => p.1 / 32 == srcCore c) = false) →
    ∃ t, exec (.fenceS c scope) s = .next t ∧ (t.core c).pc = (s.core c).pc + 4 ∧ t.homes = s.homes ∧ t.servers = s.servers ∧
      (t.core c).x = (s.core c).x ∧ OnlyCore c s t) ∧
  ∀ (s : State) (c : CoreId) (x : Nat), s.canIssue c = true → (s.core c).fencing = none →
    (s.seqTx.any fun p => p.1 / 32 == srcCore c) = true → s.firstStack = some x →
    ∃ t e, exec (.fenceS c .device) s = .next t ∧ (t.core c).pc = (s.core c).pc ∧
      (t.core c).fencing = some (x, s.serial) ∧ (t.server x).cmds = (s.server x).cmds ++ [e] ∧ e.src = srcCore c ∧
      cOp e.raw = opFENCE

/-- CLOCK_GATE, HANG_WATCH and DBGSET complete (R241, R427 to R429). What names a dispatch in HWINFO is the model's choice
(log entry 142). -/
def Obligations.LongWaits : Prop :=
  (∀ (s : State) (c : CoreId), (s.core c).wait = .sync → s.rfld (pgSyn (homeOf c) + 0x044) 0 16 ≠ 0 →
    exec (.clockGate c) s = .next (s.setCore c { s.core c with gated := true })) ∧
  (∀ (s : State) (c : CoreId), ((s.core c).wait ≠ .sync ∨ s.rfld (pgSyn (homeOf c) + 0x044) 0 16 = 0) →
    exec (.clockGate c) s = .next s) ∧
  (∀ (s : State) (c : CoreId) (o kind : Nat), s.waitInfo c = some (o, kind) → s.rbit (pgSyn (homeOf c) + 0x040) 0 = true →
    (s.core c).wait = .sync → (s.core c).hangSeen = false → s.rbit (pgSyn (homeOf c) + 0x050) 0 = false →
    ∃ t, exec (.hangWatch (.core c)) s = .next t ∧ (t.core c).hangSeen = true ∧
      t.reg (pgSyn (homeOf c) + 0x094) = min (s.reg (pgSyn (homeOf c) + 0x094) + 1) 0xFFFFFFFF ∧
      t.reg (pgSyn (homeOf c) + 0x054) = (o + 2 ^ 15 * kind + 2 ^ 17 * c.val + 2 ^ 31) % 2 ^ 32 ∧
      t.rbit (pgSyn (homeOf c) + 0x050) 0 = true ∧ (1, 261) ∈ t.msix ∧ (t.core c).wait = .sync) ∧
  (∀ (s s1 : State) (j : DispSlot) (d : Disp) (h k x : Nat), s.disp j = some d → d.ready = true → d.destDone = false →
    d.hangSeen = false → s.counterAt (d.f 96 8) = (some (h, k, x), s1) → s.rbit (pgSyn h + 0x040) 0 = true →
    s.rbit (pgSyn h + 0x050) 0 = false →
    ∃ t, exec (.hangWatch (.dispatch j)) s = .next t ∧ t.disp j = some { d with hangSeen := true } ∧
      t.reg (pgSyn h + 0x094) = min (s.reg (pgSyn h + 0x094) + 1) 0xFFFFFFFF ∧
      t.reg (pgSyn h + 0x054) = (k + 2 ^ 15 + 2 ^ 31) % 2 ^ 32 ∧ t.rbit (pgSyn h + 0x050) 0 = true ∧ (1, 261) ∈ t.msix) ∧
  (∀ (s : State) (c : CoreId), (s.core c).hangSeen = true → exec (.hangWatch (.core c)) s = .next s) ∧
  (∀ (s : State) (h : HomeId) (v : Word) (b : Nat), s.serves .syn = true → s.boot.unlocked.getLsbD 1 = true → fld v.toNat 0 2 = 0 →
    b = fld (s.reg (pgSyn h + 0x05C)) 0 15 → bitOf (s.reg (pgSyn h + 0x05C)) 15 = false →
    (∀ w ∈ (s.home h).waiters, w.obj ≠ b) →
    ∃ t, exec (.dbgset h v) s = .next t ∧
      t.bead h b = { s.bead h b with
        value := BitVec.ofNat 64 (s.reg64 (pgSyn h + 0x06C)), st := 0, ovf := (s.bead h b).ovf && !bitOf v.toNat 2
        owner := if bitOf v.toNat 3 then 0 else (s.bead h b).owner } ∧
      (∀ b', b' ≠ b → t.bead h b' = s.bead h b') ∧ (t.home h).ctrs = (s.home h).ctrs ∧ t.cores = s.cores ∧ t.regs = s.regs) ∧
  ∀ (s : State) (h : HomeId) (v : Word), s.serves .syn = true → s.boot.unlocked.getLsbD 1 = false →
    ∃ t, exec (.dbgset h v) s = .next t ∧ t.rbit (pgSyn h + 0x014) 1 = true ∧
      t.reg (pgSyn h + 0x018) = 0x80 + 2 ^ 24 * 0x1D ∧ t.homes = s.homes ∧ t.cores = s.cores

/-- OP_PLACEMENT, AFFINITY_HOLD_EXPIRY, OP_RELEASE and OP_END_REPORT complete (R438 to R444, R448). -/
def Obligations.Scheduling : Prop :=
  (∀ (s : State) (h : HomeId) (op : OpRef) (c : Nat), s.working = true → (s.home h).inbox = [] → (s.home h).ready = [op] →
    (s.home h).expired = [] → op.prio < 8 → s.rbit (pgSch h + 0x040) 1 = false → (∀ d, homeOf d = h → (s.core d).hold = none) →
    s.someHeld = false → s.slotFor h = some (c, true) →
    ∃ t, exec (.opPlacement h) s = .next t ∧ (t.core c).active = some op ∧ (t.core c).started = false ∧
      (t.home h).ready = [] ∧ ∀ d, d ≠ c → t.core d = s.core d) ∧
  (∀ (s : State) (h : HomeId) (op : OpRef) (c : Nat), s.working = true → (s.home h).inbox = [] → (s.home h).ready = [op] →
    (s.home h).expired = [] → op.prio < 8 → s.rbit (pgSch h + 0x040) 1 = false → (∀ d, homeOf d = h → (s.core d).hold = none) →
    s.someHeld = false → s.slotFor h = some (c, false) →
    ∃ t, exec (.opPlacement h) s = .next t ∧ (t.core c).prefetched = some op ∧ (t.core c).active = (s.core c).active ∧
      (t.home h).ready = [] ∧ ∀ d, d ≠ c → t.core d = s.core d) ∧
  (∀ (s : State) (h : HomeId) (op : OpRef), s.working = true → (s.home h).inbox = [] → (s.home h).ready = [op] →
    (s.home h).expired = [] → s.rbit (pgSch h + 0x040) 1 = false → (∀ d, homeOf d = h → (s.core d).hold = none) →
    s.someHeld = false → s.slotFor h = none → ∃ t, exec (.opPlacement h) s = .next t ∧ (t.home h).ready = [op] ∧ ∀ d, t.core d = s.core d) ∧
  (∀ (s : State) (c : CoreId) (op : OpRef), (s.core c).hold = some op → s.working = true → s.slotFor (homeOf c) = none →
    ∃ t, exec (.affinityHoldExpiry c) s = .next t ∧ (t.core c).hold = none ∧
      (t.home (homeOf c)).expired = (s.home (homeOf c)).expired ++ [op] ∧
      t.reg (pgSch (homeOf c) + 0x084) = min (s.reg (pgSch (homeOf c) + 0x084) + 1) 0xFFFFFFFF ∧
      ∀ d, d ≠ c.val → t.core d = s.core d) ∧
  (∀ (s s1 : State) (h : HomeId) (ser desc ix n : Nat), s.working = true → (s.home h).held = [] →
    (s.home h).inbox = [.release ser desc ix] → s.someHeld = false →
    (((s.modHome h fun k => { k with inbox := [] }).count64 (pgSch h + 0x068) 1).dispRead h (desc + 18) 2) = (some n, s1) →
    (1 < n → ∃ t, exec (.opRelease h) s = .next t ∧ t = s1.vaWrite h (desc + 18) (toBytes 2 (n - 1)) ∧ (t.home h).inbox = []) ∧
    (n = 1 → ∀ t gid g, t = s1.vaWrite h (desc + 18) (toBytes 2 0) → t.launchOf ser = some (gid, g) →
      exec (.opRelease h) s = .next (t.placeReady h gid ix)) ∧
    (n = 0 → ∀ t gid g, t = s1.count32 (pgSch h + 0x07C) 1 → t.launchOf ser = some (gid, g) →
      exec (.opRelease h) s = .next (t.graphBad gid 3 0x83)) ∧
    (n = 0 → s1.launchOf ser = none → exec (.opRelease h) s = .next (s1.count32 (pgSch h + 0x07C) 1))) ∧
  (∀ (s : State) (h : HomeId) (op : OpRef), s.working = true → (s.home h).held = [] → (s.home h).inbox = [.place op] →
    (s.home h).ready.length + (s.home h).expired.length < 1024 → ∃ t, exec (.opRelease h) s = .next t ∧ (t.home h).inbox = [] ∧
      (t.home h).ready = (s.home h).ready ++ [op] ∧ t.cores = s.cores ∧ t.regs = s.regs) ∧
  (∀ (s : State) (h : HomeId) (c : CoreId) (op : OpRef) (st : Nat) (rest : List (OpRef × Nat)), s.working = true →
    (s.home h).held = [] → homeOf c = h → (s.core c).ended = (op, st) :: rest →
    (∀ d, homeOf d = h → d < c → (s.core d).ended = []) → s.someHeld = false → nfind s.graphs op.graph = none →
    ∃ t, exec (.opEndReport h) s = .next t ∧ (t.core c).ended = rest ∧
      (t.core c).wait = (if (s.core c).wait = .opEnd then .none else (s.core c).wait) ∧
      t.reg64 (pgSch h + 0x058) = (s.reg64 (pgSch h + 0x058) + 1) % 2 ^ 64 ∧ ∀ d, d ≠ c.val → t.core d = s.core d) ∧
  ∀ (s s2 s4 : State) (h : HomeId) (c : CoreId) (op : OpRef) (g : Graph), s.working = true → (s.home h).held = [] →
    homeOf c = h → (s.core c).ended = [(op, 0)] → (∀ d, homeOf d = h → d < c → (s.core d).ended = []) →
    s.someHeld = false → nfind s.graphs op.graph = some g → g.ended + 1 < g.nops →
    s2 = (s.modCore c fun k => { k with ended := [], wait := if k.wait == .opEnd then .none else k.wait }).count64
      (pgSch h + 0x058) 1 →
    (s2.vaWrite h (op.desc + 20) (toBytes 1 0)).successors h op.desc = ([], s4) →
    ∃ t, exec (.opEndReport h) s = .next t ∧ t.mem = s4.mem ∧ (t.core c).ended = [] ∧
      nfind t.graphs op.graph = some { g with ended := g.ended + 1 }

/-- PREEMPT saves the context of the core that runs the op of lowest priority and starts the priority-7 op there;
PREEMPT_RESTORE brings the context back (R445 to R447). -/
def Obligations.Preemption : Prop :=
  (∀ (s : State) (h : HomeId) (op old : OpRef) (ex : Bool) (c : Nat), s.working = true → s.rbit (pgSch h + 0x040) 0 = true →
    (s.home h).order.find? (fun o => o.1.prio == 7 && (s.placeOne h o.1 o.2).isNone) = some (op, ex) →
    s.victim h = some (c, old) → s.preemptible c = true → s.someHeld = false → ∃ t, exec (.preempt h) s = .next t ∧ (t.core c).preempted = some old ∧
      (t.core c).active = some op ∧ (t.core c).pc = BitVec.ofNat 64 op.entry ∧ (t.core c).machine = false ∧
      (t.core c).mxflags = 0 ∧ (t.core c).vflags = 0 ∧ (t.core c).ranges = [] ∧
      t.reg (pgSch h + 0x070) ≠ 0 ∧ ∀ d, d ≠ c → t.core d = s.core d) ∧
  (∀ (s : State) (h : HomeId), s.rbit (pgSch h + 0x040) 0 = false → exec (.preempt h) s = .next s) ∧
  (∀ (s : State) (h : HomeId), (s.home h).order.find? (fun o => o.1.prio == 7 && (s.placeOne h o.1 o.2).isNone) = none →
    exec (.preempt h) s = .next s) ∧
  (∀ (s : State) (c : CoreId) (op : OpRef), (s.core c).preempted = some op → (s.core c).active = none →
    (s.core c).wait ≠ .opEnd → s.coreOn c = true → Settled s → s.isPoisoned (s.ctxAddr c) 0x1000 = false →
    ∃ t, exec (.preemptRestore c) s = .next t ∧
      (t.core c).active = some op ∧ (t.core c).preempted = none ∧ (t.core c).machine = false ∧ (t.core c).started = true ∧
      (t.core c).pc = BitVec.ofNat 64 (s.memNat (s.ctxAddr c + 0x100) 8) ∧
      (∀ r : XReg, r.val ≠ 0 → (t.core c).getX r = BitVec.ofNat 64 (s.memNat (s.ctxAddr c + 8 * r.val) 8)) ∧
      (t.core c).tiles = (s.core c).tiles ∧ (t.core c).accs = (s.core c).accs ∧ (t.core c).vslots = (s.core c).vslots ∧
      OnlyCore c s t) ∧
  ∀ (s : State) (c : CoreId), (s.core c).preempted = none → exec (.preemptRestore c) s = .next s

/-- L1D_LINE_FILL, L2_LINE_FILL and WAY_DISABLE complete (R350, R351, R355 to R357, R374). -/
def Obligations.CacheFills : Prop :=
  (∀ (s : State) (c : CoreId) (line : LineAddr) (strm : Bool),
    ((s.core c).misses.take 16).find? (·.1 == line) = some (line, strm) →
    (∀ m ∈ (s.home (homeOf c)).l2Miss, m / 8 ≠ line) →
    (s.l2Serves (homeOf c) line = false ∨ ((s.home (homeOf c)).findLine line).isSome = true) → s.lineHeld c line = false →
    ∃ t, exec (.l1dLineFill c line) s = .next t ∧ (t.core c).misses = (s.core c).misses.filter (·.1 != line) ∧
      ((t.core c).findL1 line).isSome = true ∧
      (t.core c).wait = (if (s.core c).wait = .line line then .none else (s.core c).wait) ∧
      (t.core c).replay = (decide ((s.core c).wait = .line line) || (s.core c).replay) ∧ (t.core c).pc = (s.core c).pc) ∧
  (∀ (s : State) (c : CoreId) (line : LineAddr) (strm : Bool),
    ((s.core c).misses.take 16).find? (·.1 == line) = some (line, strm) →
    (∀ m ∈ (s.home (homeOf c)).l2Miss, m / 8 ≠ line) → (s.core c).findL1 line = none → s.l2Serves (homeOf c) line = true →
    (s.home (homeOf c)).findLine line = none → ∃ t, exec (.l1dLineFill c line) s = .next t ∧ t.cores = s.cores ∧
      (t.home (homeOf c)).l2Miss = (s.home (homeOf c)).l2Miss ++ [line * 8 + s.fillAge (homeOf c) line strm]) ∧
  (∀ (s : State) (c : CoreId) (line : LineAddr), ((s.core c).misses.take 16).find? (·.1 == line) = none →
    exec (.l1dLineFill c line) s = .next s) ∧
  (∀ (s : State) (h : HomeId) (line : LineAddr) (m : Nat), (s.home h).l2Miss.find? (· / 8 == line) = some m → m % 8 < 4 →
    (s.home h).outstanding line = true → s.chanHeld (64 * line) = false → Settled s → (s.home h).l2 = [] → (s.home h).candidates (l2Slice line) ≠ [] → s.l2Serves h line = true →
    ∃ t, exec (.l2LineFill h line) s = .next t ∧ (t.home h).l2Miss = (s.home h).l2Miss.filter (· / 8 != line) ∧
      ((t.home h).findLine line).isSome = true ∧ t.mem = s.mem ∧ t.cores = s.cores) ∧
  (∀ (s : State) (h : HomeId) (line : LineAddr), (∀ m ∈ (s.home h).l2Miss, m / 8 ≠ line) →
    exec (.l2LineFill h line) s = .next s) ∧
  (∀ (s : State) (h : HomeId) (slice : Slice) (way : Way), 16 ≤ (nget (s.home h).ceWin (slice.val * 16 + way.val) (0, 0)).1 →
    s.rbit (pgL2c h + 0x040) 16 = true → (s.home h).wayOff.contains (slice.val * 16 + way.val) = false → s.someHeld = false →
    ∃ t, exec (.wayDisable h slice way) s = .next t ∧
      (t.home h).wayOff = (slice.val * 16 + way.val) :: (s.home h).wayOff ∧
      t.reg (pgL2c h + 0x0C0) = way.val + 16 * slice.val + 2 ^ 31 ∧
      t.rbit (pgL2c h + 0x060 + 4 * (slice.val / 2)) (16 * (slice.val % 2) + way.val) = true ∧ t.cores = s.cores) ∧
  ∀ (s : State) (h : HomeId) (slice : Slice) (way : Way), (nget (s.home h).ceWin (slice.val * 16 + way.val) (0, 0)).1 < 16 →
    exec (.wayDisable h slice way) s = .next s

/-- CLEAN_RANGE, FLUSH_RANGE, INVALIDATE_RANGE, CLEAN_ALL, FLUSH_ALL, INVALIDATE_ALL and CRANGE complete, and are refused as
the rules state (R364 to R367, R370). L2_ENABLE and L2_DISABLE complete, and are refused as the rules state (R371 to R373).
-/
def Obligations.CacheMaintenance : Prop :=
  ((∀ (s : State) (h : HomeId), s.serves .l2c = true → s.someHeld = false → (s.home h).mbusy = false →
    inMemory (s.reg64 (pgL2c h + 0x050) % 2 ^ 48) (s.reg (pgL2c h + 0x058)) = true →
    (∃ t, exec (.cleanRange h) s = .next t ∧ t.cores = s.cores ∧
      ∀ key e, nfind (t.home h).l2 key = some e → inMaint s h e.line → e.dirty = false) ∧
    (∃ t, exec (.flushRange h) s = .next t ∧ t.cores = s.cores ∧
      ∀ key e, nfind (t.home h).l2 key = some e → ¬ inMaint s h e.line) ∧
    (s.reg64 (pgL2c h + 0x050) % 64 = 0 → s.reg (pgL2c h + 0x058) % 64 = 0 →
      ∃ t, exec (.invalidateRange h) s = .next t ∧ t.cores = s.cores ∧ t.mem = s.mem ∧ t.poison = s.poison ∧
        ∀ key e, nfind (t.home h).l2 key = some e → ¬ inMaint s h e.line)) ∧
  (∀ (s : State) (h : HomeId), s.serves .l2c = true → s.someHeld = false → (s.home h).mbusy = false →
    (∃ t, exec (.cleanAll h) s = .next t ∧ t.cores = s.cores ∧ ∀ key e, nfind (t.home h).l2 key = some e → e.dirty = false) ∧
    (∃ t, exec (.flushAll h) s = .next t ∧ t.cores = s.cores ∧ (t.home h).l2 = []) ∧
    ∃ t, exec (.invalidateAll h) s = .next t ∧ t.cores = s.cores ∧ t.mem = s.mem ∧ (t.home h).l2 = [] ∧
      (t.home h).invOk = true) ∧
  (∀ (s : State) (h : HomeId) (i : Instr), s.serves .l2c = true → (s.home h).mbusy = true →
    (i = .cleanRange h ∨ i = .flushRange h ∨ i = .invalidateRange h ∨ i = .cleanAll h ∨ i = .flushAll h ∨ i = .invalidateAll h) →
    ∃ t, exec i s = .next t ∧ t.rbit (pgL2c h + 0x014) 1 = true ∧ t.reg (pgL2c h + 0x018) = 0x0D + 2 ^ 24 * 0x12 ∧
      t.homes = s.homes ∧ t.mem = s.mem) ∧
  (∀ (s : State) (h : HomeId) (i : Instr), s.serves .l2c = true → (s.home h).mbusy = false →
    inMemory (s.reg64 (pgL2c h + 0x050) % 2 ^ 48) (s.reg (pgL2c h + 0x058)) = false →
    (i = .cleanRange h ∨ i = .flushRange h ∨ i = .invalidateRange h) →
    ∃ t, exec i s = .next t ∧ t.rbit (pgL2c h + 0x014) 1 = true ∧ t.reg (pgL2c h + 0x018) = 0x06 + 2 ^ 24 * 0x12 ∧
      t.homes = s.homes ∧ t.mem = s.mem) ∧
  (∀ (s s1 : State) (c : CoreId) (op : RangeOp) (level : RangeLevel) (rs1 rs2 : XReg) (ts : List (Target × Nat)),
    s.canIssue c = true → s.someHeld = false → ((s.core c).getX rs2).toNat ≤ 0x1000000 →
    (op = .invalidate → ((s.core c).getX rs1).toNat % 64 = 0 ∧ ((s.core c).getX rs2).toNat % 64 = 0) →
    s.coreXlateAll c true (pieces ((s.core c).getX rs1).toNat ((s.core c).getX rs2).toNat) = (.ok ts, s1) →
    ∃ t, exec (.crange c op level rs1 rs2) s = .next t ∧ (t.core c).pc = (s1.core c).pc + 4 ∧ (t.core c).x = (s1.core c).x ∧
      (op ≠ .clean → level ≠ .l2 → ∀ key e, nfind (t.core c).l1d key = some e → inPieces ts e.line = false) ∧
      (op ≠ .clean → level ≠ .l1d → ∀ key e, nfind (t.home (homeOf c)).l2 key = some e → inPieces ts e.line = false) ∧
      (op = .invalidate → t.mem = s1.mem)) ∧
  (∀ (s : State) (c : CoreId) (op : RangeOp) (level : RangeLevel) (rs1 rs2 : XReg), s.canIssue c = true →
    0x1000000 < ((s.core c).getX rs2).toNat → ∃ t, exec (.crange c op level rs1 rs2) s = .next t ∧ (t.core c).mcause = 2 ∧
      (t.core c).mtval = BitVec.ofNat 64 (encodeEng (.crange op level rs1 rs2)).1 ∧ (t.core c).mepc = (s.core c).pc ∧
      OnlyCore c s t) ∧
  ∀ (s s1 : State) (c : CoreId) (op : RangeOp) (level : RangeLevel) (rs1 rs2 : XReg) (va : Nat), s.canIssue c = true → s.someHeld = false →
    ((s.core c).getX rs2).toNat ≤ 0x1000000 → op ≠ .invalidate →
    s.coreXlateAll c true (pieces ((s.core c).getX rs1).toNat ((s.core c).getX rs2).toNat) = (.error va, s1) →
    ∃ t, exec (.crange c op level rs1 rs2) s = .next t ∧ (t.core c).mcause = 15 ∧ (t.core c).mtval = BitVec.ofNat 64 va ∧
      t.homes = s1.homes ∧ (t.core c).l1d = (s1.core c).l1d) ∧
  (∀ (s : State) (h : HomeId), s.serves .l2c = true → bitOf s.boot.clusters.toNat h = true → s.rfld (pgL2c h + 0x040) 0 4 ≤ 8 →
    s.rfld (pgL2c h + 0x040) 9 6 ≠ 0 → (s.rbit (pgL2c h + 0x010) 2 = true ∨ (s.home h).invOk = true) →
    ∃ t, exec (.l2Enable h) s = .next t ∧ t.enabled (pgL2c h) = true ∧ t.rbit (pgL2c h + 0x014) 0 = true ∧
      (t.home h).carve = s.rfld (pgL2c h + 0x040) 0 4 ∧ t.cores = s.cores) ∧
  (∀ (s : State) (h : HomeId), s.serves .l2c = true → bitOf s.boot.clusters.toNat h = false →
    ∃ t, exec (.l2Enable h) s = .next t ∧ t.rbit (pgL2c h + 0x014) 1 = true ∧
      t.reg (pgL2c h + 0x018) = 0x0A + 2 ^ 24 * 0x04 ∧ t.homes = s.homes) ∧
  (∀ (s : State) (h : HomeId), s.serves .l2c = true → bitOf s.boot.clusters.toNat h = true → s.rfld (pgL2c h + 0x040) 0 4 ≤ 8 →
    s.rfld (pgL2c h + 0x040) 9 6 ≠ 0 → s.rbit (pgL2c h + 0x010) 2 = false → (s.home h).invOk = false →
    ∃ t, exec (.l2Enable h) s = .next t ∧ t.rbit (pgL2c h + 0x014) 1 = true ∧
      t.reg (pgL2c h + 0x018) = 0x04 + 2 ^ 24 * 0x04 ∧ t.homes = s.homes) ∧
  (∀ (s : State) (h : HomeId), s.serves .l2c = true → s.rbit (pgL2c h + 0x010) 2 = true →
    ∃ t, exec (.l2Disable h) s = .next t ∧ t.enabled (pgL2c h) = false ∧ (t.home h).invOk = false ∧
      (t.home h).l2 = (s.home h).l2 ∧ t.mem = s.mem) ∧
  ∀ (s : State) (h : HomeId), s.serves .l2c = true → s.someHeld = false → s.rbit (pgL2c h + 0x010) 2 = false →
    ∃ t, exec (.l2Disable h) s = .next t ∧ t.enabled (pgL2c h) = false ∧ (t.home h).l2 = [] ∧ t.cores = s.cores

/-- FRONT_END_TAKE_COMMAND: the head of the queue that R58 picks leaves it and is accepted, or is refused with reason 0x01
when its fields break the rules; nothing is taken from a stack that does not serve (R58 to R60, R63). -/
def Obligations.CommandFrontEnd : Prop :=
  (∀ (s : State) (x : StackId) (q : Nat) (c : SCmd) (rest : List SCmd), s.stackLive x = true → s.pickQueue x = some q →
    nget (s.server x).queues q [] = c :: rest → s.someHeld = false → fieldsOk c.raw = false → isScatter (cOp c.raw) = false →
    ∃ t d, exec (.frontEndTakeCommand x) s = .next t ∧ nget (t.server x).queues q [] = rest ∧
      (t.server x).cmds = (s.server x).cmds ++ [d] ∧ d.raw = c.raw ∧ d.serial = c.serial ∧ d.refused = some 0x01 ∧
      (∀ p, p ≠ q → nget (t.server x).queues p [] = nget (s.server x).queues p []) ∧ t.mem = s.mem) ∧
  (∀ (s : State) (x : StackId) (q : Nat) (c : SCmd) (rest : List SCmd), s.stackLive x = true → s.pickQueue x = some q →
    nget (s.server x).queues q [] = c :: rest → fieldsOk c.raw = true → alignOk c.raw = true → cOp c.raw = opFENCE →
    cStaten c.raw = false → cSigen c.raw = false →
    ∃ t d, exec (.frontEndTakeCommand x) s = .next t ∧ nget (t.server x).queues q [] = rest ∧
      (t.server x).cmds = (s.server x).cmds ++ [d] ∧ d.raw = c.raw ∧ d.serial = c.serial ∧ d.refused = none ∧
      d.started = false ∧ d.src = c.src ∧ d.carried = c.carried) ∧
  (∀ (s : State) (x : StackId) (q : Nat) (c : SCmd) (rest : List SCmd), s.stackLive x = true → s.pickQueue x = some q →
    nget (s.server x).queues q [] = c :: rest → s.someHeld = false → fieldsOk c.raw = true → alignOk c.raw = true →
    usesTable (cOp c.raw) = true →
    isScatter (cOp c.raw) = false → s.bindTo (cTable c.raw) = none →
    ∃ t d, exec (.frontEndTakeCommand x) s = .next t ∧ (t.server x).cmds = (s.server x).cmds ++ [d] ∧ d.serial = c.serial ∧
      d.refused = some 0x80) ∧
  ∀ (s : State) (x : StackId), (s.stackLive x = false ∨ s.pickQueue x = none) → exec (.frontEndTakeCommand x) s = .next s

/-- GATHER, GATHER_POOL, SEG_POOL, NEIGH_AGG, SAMPLE_AGG and CHUNK_TASK_EXPAND start on a routing context (R54, R64, R67,
R68, R72, R202, R205, R217); one that needs a fenced PHY die ends `ABORTED` (R477), and one that needs a held channel waits
(R473). -/
def Obligations.PoolingCommands : Prop :=
  (∀ (s s1 : State) (x : StackId) (c : SCmd) (idx : List (Nat × Bool)) (bags : List (Nat × Nat × List ((Nat × Nat) × Bool))),
    s.startable x opGATHER = some c → c.stop = false → s.cmdNeed x c = .go →
    (s.startCmd x c.serial).indexList x c (cN c.raw) = (some idx, s1) →
    bags = groups 1 (cN c.raw + 1) 0 (withWeights idx [] 0) →
    exec (.gather x) s = .next (s1.runBags x c.serial (s1.poolJob x c) bags)) ∧
  (∀ (s s1 : State) (x : StackId) (c : SCmd) (idx : List (Nat × Bool)) (bags : List (Nat × Nat × List ((Nat × Nat) × Bool))),
    s.startable x opGPOOL = some c → c.stop = false → cPool c.raw ≠ 5 → s.cmdNeed x c = .go →
    (s.startCmd x c.serial).indexList x c (cN c.raw) = (some idx, s1) →
    bags = groups (dfld c.raw 36 2) (cN c.raw / dfld c.raw 36 2 + 1) 0 (withWeights idx [] (cFmt c.raw / 16)) →
    exec (.gatherPool x) s = .next (s1.runBags x c.serial (s1.poolJob x c) bags)) ∧
  (∀ (s s1 s2 : State) (x : StackId) (c : SCmd) (idx w : List (Nat × Bool))
      (bags : List (Nat × Nat × List ((Nat × Nat) × Bool))), s.startable x opGPOOL = some c → c.stop = false →
    cPool c.raw = 5 → s.cmdNeed x c = .go → (s.startCmd x c.serial).indexList x c (cN c.raw) = (some idx, s1) →
    (s1.notePoison x c.serial idx).readList (agStack x) (dfld c.raw 16 6) (cN c.raw) (esz (cFmt c.raw / 16)) .stk x = (some w, s2) →
    bags = groups (dfld c.raw 36 2) (cN c.raw / dfld c.raw 36 2 + 1) 0 (withWeights idx w (cFmt c.raw / 16)) →
    exec (.gatherPool x) s = .next (s2.runBags x c.serial (s2.poolJob x c) bags)) ∧
  (∀ (s s1 : State) (x : StackId) (c : SCmd) (pool : Bool), s.startable x (if pool then opGPOOL else opGATHER) = some c →
    c.stop = false → s.cmdNeed x c = .go → (s.startCmd x c.serial).indexList x c (cN c.raw) = (none, s1) →
    ∃ t, exec (if pool then .gatherPool x else .gather x) s = .next t ∧
      ∀ d ∈ (t.server x).cmds, d.serial = c.serial → d.stop = true ∧ d.fault = true) ∧
  (∀ (s : State) (x : StackId) (c : SCmd) (pool : Bool), s.startable x (if pool then opGPOOL else opGATHER) = some c →
    s.cmdNeed x c = .lost → ∃ t, exec (if pool then .gatherPool x else .gather x) s = .next t ∧
      ∀ d ∈ (t.server x).cmds, d.serial = c.serial → d.started = true ∧ d.aborted = true) ∧
  (∀ (s : State) (x : StackId) (c : SCmd), s.startable x opSEG = some c → s.cmdNeed x c = .go → dfld c.raw 40 3 = 0 →
    ∃ t, exec (.segPool x) s = .next t ∧ (t.server x).cmds =
      (s.server x).cmds.map fun d => if d.serial = c.serial then { d with started := true } else d) ∧
  (∀ (s s1 s2 : State) (x : StackId) (c : SCmd) (offs : List (Nat × Bool)) (reqs : List Req), s.startable x opSEG = some c →
    c.stop = false → dfld c.raw 40 3 ≠ 0 → s.cmdNeed x c = .go →
    (s.startCmd x c.serial).readList (agStack x) (dfld c.raw 16 6) (dfld c.raw 40 3 + 1)
      (if bitOf (cMode c.raw) 7 then 8 else 4) .stk x = (some offs, s1) →
    s1.segBags (s1.poolJob x c) c (segments 0 offs) [] = (reqs, s2) →
    exec (.segPool x) s = .next (s2.routeMore x c.serial reqs)) ∧
  (∀ (s s1 s2 : State) (x : StackId) (c : SCmd) (seeds : List (Nat × Bool)), s.startable x opNEIGH = some c → c.stop = false →
    s.cmdNeed x c = .go →
    (s.startCmd x c.serial).readList (agStack x) (dfld c.raw 8 6) (cN c.raw) (cIdxW c.raw) .stk x = (some seeds, s1) →
    s1.neighSeeds x c (s1.versOf c) 0 seeds = some s2 → exec (.neighAgg x) s = .next (s2.resumeCmd x c.serial)) ∧
  (∀ (s s1 s2 : State) (x : StackId) (c : SCmd) (seeds : List (Nat × Bool)), s.startable x opSAMPLE = some c → c.stop = false →
    s.cmdNeed x c = .go →
    (s.startCmd x c.serial).readList (agStack x) (dfld c.raw 8 6) (cN c.raw) (cIdxW c.raw) .stk x = (some seeds, s1) →
    s1.sampleSeeds x c (s1.versOf c) 0 seeds = some s2 → exec (.sampleAgg x) s = .next (s2.resumeCmd x c.serial)) ∧
  (∀ (s : State) (e : EngineId) (k : Chunk) (rest : List Chunk) (c : SCmd) (row : Bag), (s.unit e).chunks = k :: rest →
    s.cmd k.lead k.cmd = some c → (s.server k.lead).bags = [row] → row.uid = k.bag → c.stop = true →
    ∃ t, exec (.chunkTaskExpand e) s = .next t ∧ (t.unit e).chunks = rest ∧
      (t.server k.lead).bags = [{ row with left := row.left - 1, chunksLeft := row.chunksLeft - 1 }]) ∧
  (∀ (s : State) (e : EngineId) (k : Chunk) (rest : List Chunk) (c : SCmd) (row : Bag), (s.unit e).chunks = k :: rest →
    s.cmd k.lead k.cmd = some c → (s.server k.lead).bags = [row] → row.uid = k.bag → c.stop = false → c.aborted = false →
    k.edges = [] → row.far = [] →
    ∃ t, exec (.chunkTaskExpand e) s = .next t ∧ (t.unit e).chunks = rest ∧
      t.reg64 (pgSor e + 0x208) = (s.reg64 (pgSor e + 0x208) + 1) % 2 ^ 64 ∧
      t.reg64 (pgSor e + 0x210) = (s.reg64 (pgSor e + 0x210) + (k.hi - k.lo)) % 2 ^ 64) ∧
  ∀ (s : State) (e : EngineId) (k : Chunk) (rest : List Chunk) (c : SCmd), (s.unit e).chunks = k :: rest →
    s.cmd k.lead k.cmd = some c → c.stop = false →
    needAll (fun v => s.indexNeed (s.versOf c) v.1) k.edges = .wait → exec (.chunkTaskExpand e) s = .next s

/-- COPY, PROBE, HH_READ and MIGRATE_ROW complete (R74 to R78, R189); one that needs a held channel waits (R99, R473), and
one that needs a fenced PHY die ends `ABORTED` (R477). -/
def Obligations.TableCommands : Prop :=
  (∀ (s : State) (x : StackId) (c : SCmd), s.nextCmd x opCOPY = some c → s.cmdNeed x c = .go → dfld c.raw 32 4 = 0 →
    ∃ t, exec (.copy x) s = .next t ∧ t.mem = s.mem ∧ (t.server x).cmds =
      (s.server x).cmds.map fun d => if d.serial = c.serial then { d with started := true } else d) ∧
  (∀ (s s1 s2 s3 : State) (x : StackId) (c : SCmd) (p q : Page),
    s.nextCmd x opCOPY = some c → s.cmdNeed x c = .go → dfld c.raw 32 4 = 64 →
    (s.startCmd x c.serial).xlateRange (agStack x) (dfld c.raw 8 6) 64 false = (.ok [(p, 64)], s1) →
    (s.startCmd x c.serial).xlateRange (agStack x) (cDst c.raw) 64 true = (.ok [(q, 64)], s3) →
    (s1.xlateRange (agStack x) (cDst c.raw) 64 true).2 = s2 → placeOf q.pa = .hbm → s.reachable q.pa = true →
    s.reachable p.pa = true →
    (s2.meet p.pa 64).badPa p.pa 64 = false →
    exec (.copy x) s = .next (((s2.meet p.pa 64).copySectors [(p.pa, q.pa)]).modCmd x c.serial fun d => { d with rows := 1 })) ∧
  (∀ (s s1 s2 s4 : State) (x : StackId) (c : SCmd) (idx : List (Nat × Bool)) (recs : List Byte)
      (ps : List (Page × Nat)), s.nextCmd x opPROBE = some c → s.cmdNeed x c = .go →
    (s.startCmd x c.serial).readList (agStack x) (dfld c.raw 8 6) (cN c.raw) (cIdxW c.raw) .stk x = (some idx, s1) →
    (s1.notePoison x c.serial idx).probeAll x c.serial (s.versOf c) idx [] = (.ok recs, s2) → recs ≠ [] →
    oobCount (s.versOf c) (idx.map fun e => ((e.1, 0), false)) = 0 → s2.dstPieces x (cDst c.raw) recs.length = (some ps, s4) →
    exec (.probe x) s = .next (((s4.writeDest ps recs false).count64 (pgStk x + 0x068) (cN c.raw)).modCmd x c.serial fun d =>
      { d with rows := cN c.raw, oob := 0 })) ∧
  (∀ (s s1 : State) (x : StackId) (c : SCmd) (ps : List (Page × Nat)), s.nextCmd x opHH = some c →
    bitOf (cMode c.raw) 5 = false → s.cmdNeed x c = .go →
    (s.startCmd x c.serial).dstPieces x (cDst c.raw) 8192 = (some ps, s1) →
    exec (.hhRead x) s = .next ((s1.writeDest ps (s.hhDump (32 * x + cMode c.raw % 32)) false).modCmd x c.serial fun d =>
      { d with rows := 256 })) ∧
  (∀ (s s1 : State) (x : StackId) (c : SCmd), s.nextCmd x opHH = some c → bitOf (cMode c.raw) 5 = false → s.cmdNeed x c = .go →
    (s.startCmd x c.serial).dstPieces x (cDst c.raw) 8192 = (none, s1) →
    ∃ t, exec (.hhRead x) s = .next t ∧ t.mem = s1.mem ∧
      ∀ d ∈ (t.server x).cmds, d.serial = c.serial → d.stop = true ∧ d.fault = true) ∧
  (∀ (s : State) (x : StackId) (c : SCmd) (v : Version) (vs : List Version), s.nextCmd x opMIGROW = some c →
    s.cmdNeed x c = .go → s.versOf c = v :: vs → dfld c.raw 24 4 = 1 →
    exec (.migrateRow x) s = .next ((s.startCmd x c.serial).migrateOne x c v (dfld c.raw 8 6) 0)) ∧
  (∀ (s : State) (x : StackId), (∀ c ∈ (s.server x).cmds, cOp c.raw = opCOPY → s.cmdNeed x c = .wait) →
    exec (.copy x) s = .next s) ∧
  (∀ (s : State) (x : StackId), (∀ c ∈ (s.server x).cmds, cOp c.raw = opMIGROW → s.cmdNeed x c = .wait) →
    exec (.migrateRow x) s = .next s) ∧
  ∀ (s : State) (x : StackId) (c : SCmd), s.nextCmd x opCOPY = some c → s.cmdNeed x c = .lost →
    ∃ t, exec (.copy x) s = .next t ∧ t.mem = s.mem ∧
      ∀ d ∈ (t.server x).cmds, d.serial = c.serial → d.started = true ∧ d.aborted = true

/-- SECTOR_READ_REQUEST, DRAM_READ_RETURN, SUB_COMMAND_RECEIVE, ROUTING_CONTEXT_RESUME, BAG_MERGE_ROOT, ACCUMULATING_WRITE,
COMMAND_COMPLETE and RNG_HEALTH_TEST_FAIL, RNG_HEALTH_TEST_PASS complete (R83 to R97, R211, R363, R467). -/
def Obligations.EngineReads : Prop :=
  (∀ (s : State) (u : UnitId) (r : Req), u.val < 512 → (s.unit u).rq = [r] → (s.unit u).uq = [] → r.first = false →
    s.chanSt (64 * r.sector) = 0 → s.combining u = false →
    ∃ t f, exec (.sectorReadRequest u) s = .next t ∧ (t.unit u).rq = [] ∧ (t.unit u).fly = (s.unit u).fly ++ [f] ∧
      f.sector = r.sector ∧ f.reqs = [r] ∧ f.comb = false ∧ (∀ w, w ≠ u.val → t.unit w = s.unit w) ∧
      t.reg64 (pgSor u + 0x050) = (s.reg64 (pgSor u + 0x050) + 1) % 2 ^ 64) ∧
  (∀ (s : State) (u : UnitId), (s.unit u).rq = [] → exec (.sectorReadRequest u) s = .next s) ∧
  (∀ (s : State) (u : UnitId) (sector : Nat) (f : Flight), (s.unit u).fly.find? (·.sector == sector) = some f →
    s.isPoisoned (64 * sector) 64 = true → s.unitOf (64 * sector) = some u.val → ∃ t e, exec (.dramReadReturn u sector .clean) s = .next t ∧
      (t.unit u).fly = (s.unit u).fly.erase f ∧ t.ras.fatals = s.ras.fatals ++ [e] ∧ e.cls = 3 ∧ e.reason = 0x83 ∧
      e.addr = some (64 * sector)) ∧
  (∀ (s : State) (u : UnitId) (sector : Nat) (f : Flight), (s.unit u).fly.find? (·.sector == sector) = some f →
    s.isPoisoned (64 * sector) 64 = false → nfind s.upsets sector = none → ∃ t, exec (.dramReadReturn u sector .clean) s = .next t ∧
      (t.unit u).fly = (s.unit u).fly.erase f ∧ t.ras = s.ras ∧ t.mem = s.mem ∧ t.poison = s.poison) ∧
  (∀ (s : State) (u : UnitId) (sector : Nat) (finding : EccFinding), (s.unit u).fly.find? (·.sector == sector) = none →
    exec (.dramReadReturn u sector finding) s = .next s) ∧
  (∀ (s : State) (u : ServerId) (c : SubCmd) (rest : List SubCmd), 16 ≤ u.val → (s.server u).subs = c :: rest →
    (∀ k ∈ (s.server u).bags, k.uid ≠ s.serial ∧ c.sink ≠ .bag u k.uid) →
    ∃ t b, exec (.subCommandReceive u) s = .next t ∧ (t.server u).subs = rest ∧ t.serial = s.serial + 1 ∧
      (t.server u).bags = (s.server u).bags ++ [b] ∧ b.uid = s.serial ∧ b.cmd = c.cmd ∧ b.lead = c.lead ∧ b.n = c.n ∧
      b.nelem = c.nelem ∧ b.sink = c.sink) ∧
  (∀ (s : State) (x : StackId) (r : Req), s.stackLive x = true → (s.server x).cmds = [] → (s.server x).todo = [r] →
    s.room r.unit (64 * r.sector) = true → s.upk = [] →
    ∃ t, exec (.routingContextResume x) s = .next t ∧ (t.server x).todo = [] ∧
      (t.unit r.unit).rq = (s.unit r.unit).rq ++ [r] ∧ ∀ w, w ≠ r.unit → t.unit w = s.unit w) ∧
  (∀ (s : State) (x : StackId) (b : Bag), (s.server x).bags.find? (fun b => b.left == 0 && s.rowNeed x b != .wait) = some b → s.rowNeed x b = .go → (b.sink = .row ∨ b.sink = .acc) →
    ∃ t, exec (.bagMergeRoot x) s = .next t ∧ (t.server x).bags = (s.server x).bags.filter (·.uid != b.uid)) ∧
  (∀ (s : State) (x : StackId) (b : Bag), (s.server x).bags.find? (fun b => b.left == 0 && s.rowNeed x b != .wait) = some b → s.rowNeed x b = .go → b.sink = .far →
    s.cmd b.lead b.cmd = none → ∃ t, exec (.bagMergeRoot x) s = .next t ∧
      (t.server x).bags = (s.server x).bags.filter (·.uid != b.uid) ∧ t.mem = s.mem) ∧
  (∀ (s : State) (h : HomeId) (a : AccWrite) (q : List AccWrite), s.memOk = true → s.upsets = [] → (s.home h).accQ = a :: q → s.chanHeld a.addr = false →
    ∃ t, exec (.accumulatingWrite h) s = .next t ∧ (t.home h).accQ = q ∧
      (∀ b, (b < a.addr ∨ a.addr + 4 * a.elems.length ≤ b) → t.byte b = s.byte b) ∧
      (∀ i < a.elems.length, t.memNat (a.addr + 4 * i) 4 =
        (match a.op with
        | 0 => add32 (s.memNat (a.addr + 4 * i) 4) (a.elems.getD i 0)
        | 1 => max32 (s.memNat (a.addr + 4 * i) 4) (a.elems.getD i 0)
        | _ => min32 (s.memNat (a.addr + 4 * i) 4) (a.elems.getD i 0)) % 2 ^ 32) ∧
      t.reg64 (pgL2c h + 0x0B8) = (s.reg64 (pgL2c h + 0x0B8) + 1) % 2 ^ 64) ∧
  (∀ (s : State) (x : StackId) (c : SCmd) (a : Nat), s.memOk = true → s.someHeld = false → (s.server x).cmds.find? (s.cmdDone x) = some c →
    c.stat = some a → placeOf a = .hbm → s.reachableRange a 16 = true → c.sig = none → c.host = none → c.reply = none →
    c.part = none → c.disp = none → c.queue < 64 →
    ∃ t, exec (.commandComplete x) s = .next t ∧ (t.server x).cmds = (s.server x).cmds.filter (fun d => d.serial != c.serial) ∧
      (∀ i < 16, t.byte (a + i) = c.record.getD i 0) ∧ (∀ b, (b < a ∨ a + 16 ≤ b) → t.byte b = s.byte b) ∧
      t.rfld (pgStk x + 0x200 + 4 * c.queue) 24 8 = c.status) ∧
  (∀ (s : State) (x : StackId), (s.server x).cmds.find? (s.cmdDone x) = none → exec (.commandComplete x) s = .next s) ∧
  (∀ (s : State) (x : StackId), s.pw.powered = true → ∃ t, exec (.rngHealthTestFail x) s = .next t ∧
    (∀ e < 32, t.rbit (pgSor (32 * x + e) + 0x204) 0 = false) ∧ { t with regs := s.regs } = s ∧
    ∀ o, (∀ e < 32, o ≠ pgSor (32 * x + e) + 0x204) → t.reg o = s.reg o) ∧
  ∀ (s : State) (x : StackId), s.pw.powered = true → ∃ t, exec (.rngHealthTestPass x) s = .next t ∧
    (∀ e < 32, t.rbit (pgSor (32 * x + e) + 0x204) 0 = true) ∧ { t with regs := s.regs } = s ∧
    ∀ o, (∀ e < 32, o ≠ pgSor (32 * x + e) + 0x204) → t.reg o = s.reg o

/-- SCATTER_ADD, SCATTER_MAX and SCATTER_MIN: a row's updates go in one packet with the command's number to the stack that
owns it; an index out of range ends the command with reason 0x87 under OOB FAULT, and the packet still goes; a full replay
store holds the command (R113 to R116, R130, R135, R145). -/
def Obligations.ScatterCommands : Prop :=
  (∀ (s s1 s2 s3 : State) (x : StackId) (k : Fin 3) (c : SCmd) (v : Version) (vs : List Version) (i row pa j m : Nat) (hot : Bool)
      (sh : Shard) (l : List (Nat × Bool)), s.startable x (opADD + k) = some c →
    (∀ r < 20, (s.upk.filter fun p => p.src == srcStack x && p.rcv == r).length < 1024) → s.versOf c = v :: vs →
    (s.startCmd x c.serial).indexList x c (cN c.raw) = (some [(i, false)], s1) → s.cmdNeed x c = .go →
    v.rowOf i = some row →
    v.shardOf row = some (j, sh) → sh.frozen = false →
    s1.readList (agStack x) (dfld c.raw 16 6) (upElems c.raw v) (valBytes c.raw) .stk x = (some l, s2) →
    (∀ e ∈ l, e.2 = false) → s2.locate v row true = (.at_ pa hot m, s3) →
    (∀ q ∈ sectorsOf pa v.rowBytes, s3.mapped (64 * q) = true) →
    let ups := s3.rowUps (upKey c.raw v) (bitOf (cMode c.raw) 7) v pa
      ((List.range l.length).zip (l.map fun e => upValue c.raw e.1)) (originOf c) 0
    (∀ q ∈ ups, serverOf q.unit = x.val) →
    ∃ t p, exec (scatterOf x k) s = .next t ∧ t.upk = s3.upk ++ [p] ∧ p.ups = ups.map (fun q => { q with pkt := s3.serial }) ∧
      p.id = s3.serial ∧ p.src = c.src ∧ p.epoch = c.epoch ∧ p.seq = c.seq ∧ p.rcv = x.val ∧ p.open_ = ups.length ∧
      t.serial = s3.serial + 1 ∧ t.mem = s3.mem ∧
      (t.server x).cmds = (s3.server x).cmds.map fun d => if d.serial == c.serial then { d with rows := 1, oob := 0, froze := false } else d) ∧
  (∀ (s s1 : State) (x : StackId) (k : Fin 3) (c : SCmd) (v : Version) (vs : List Version) (i : Nat)
      (rest : List (Nat × Bool)), s.startable x (opADD + k) = some c →
    (∀ r < 20, (s.upk.filter fun p => p.src == srcStack x && p.rcv == r).length < 1024) → s.versOf c = v :: vs →
    (s.startCmd x c.serial).indexList x c (cN c.raw) = (some ((i, false) :: rest), s1) →
    s.cmdNeed x c = .go → v.rowOf i = none → cOob c.raw = 0 →
    (∀ d ∈ (s1.server x).cmds, d.fault = false) →
    ∃ t p, exec (scatterOf x k) s = .next t ∧ t.upk = s1.upk ++ [p] ∧ p.ups = [] ∧ p.seq = c.seq ∧ p.rcv = x.val ∧
      t.mem = s1.mem ∧
      ∀ d ∈ (t.server x).cmds, d.serial = c.serial → d.fault = true ∧ d.reason = 0x87 ∧ d.firstpos = some 0 ∧ d.rows = 0) ∧
  (∀ (s : State) (x : StackId) (k : Fin 3), s.startable x (opADD + k) = none → exec (scatterOf x k) s = .next s) ∧
  ∀ (s : State) (x : StackId) (k : Fin 3) (r : Nat), r < 20 →
    1024 ≤ (s.upk.filter fun p => p.src == srcStack x && p.rcv == r).length → exec (scatterOf x k) s = .next s

/-- UPDATE_PACKET_RECEIVE and UPDATE_PACKET_ACK: the check of R134 accepts the next number, acknowledges a duplicate, and
discards a stale packet and one beyond the window, the last with JOB_FATAL reason 0x89; an acknowledged packet is freed (R133
to R136). -/
def Obligations.UpdatePackets : Prop :=
  (∀ (s : State) (r : ServerId) (p : UPkt) (e : SeqRx), s.receiverLive r = true →
    s.upk.find? (fun p => p.rcv == r.val && p.st == 0) = some p → s.seqEntry r p.src = e → e.valid = true → e.epoch = p.epoch →
    e.h < 2 ^ 32 → e.win = [] → p.seq = (e.h + 1) % 2 ^ 32 →
    ∃ t, exec (.updatePacketReceive r none) s = .next t ∧ t.seqEntry r p.src = { e with h := p.seq } ∧
      (∀ q ∈ t.upk, q.id = p.id → q.st = 1 ∨ q.st = 2) ∧ t.mem = s.mem) ∧
  (∀ (s : State) (r : ServerId) (p : UPkt) (e : SeqRx), s.receiverLive r = true →
    s.upk.find? (fun p => p.rcv == r.val && p.st == 0) = some p → s.seqEntry r p.src = e → e.valid = true → e.epoch = p.epoch →
    e.h < 2 ^ 32 → p.seq = e.h →
    ∃ t, exec (.updatePacketReceive r none) s = .next t ∧ t.seqEntry r p.src = e ∧
      (∀ q ∈ t.upk, q.id = p.id → q.st = 2 ∧ q.ups = []) ∧
      (r.val < 16 → t.reg64 (pgStk r + 0x318) = (s.reg64 (pgStk r + 0x318) + 1) % 2 ^ 64) ∧ t.mem = s.mem) ∧
  (∀ (s : State) (r : ServerId) (p : UPkt) (e : SeqRx), s.receiverLive r = true →
    s.upk.find? (fun p => p.rcv == r.val && p.st == 0) = some p → s.seqEntry r p.src = e → e.valid = true →
    128 ≤ (p.epoch + 256 - e.epoch % 256) % 256 →
    ∃ t, exec (.updatePacketReceive r none) s = .next t ∧ t.seqEntry r p.src = e ∧ t.upk = s.upk.filter (fun q => q.id != p.id) ∧
      (r.val < 16 → t.rbit (pgStk r + 0x308) 1 = true) ∧ t.mem = s.mem ∧ t.ras = s.ras) ∧
  (∀ (s : State) (r : ServerId) (p : UPkt) (e : SeqRx), s.receiverLive r = true →
    s.upk.find? (fun p => p.rcv == r.val && p.st == 0) = some p → s.seqEntry r p.src = e → e.valid = true → e.epoch = p.epoch →
    winOf p.src < (p.seq + 2 ^ 32 - e.h) % 2 ^ 32 → (p.seq + 2 ^ 32 - e.h) % 2 ^ 32 < 2 ^ 31 →
    ∃ t f, exec (.updatePacketReceive r none) s = .next t ∧ t.seqEntry r p.src = e ∧
      t.upk = s.upk.filter (fun q => q.id != p.id) ∧ t.ras.fatals = s.ras.fatals ++ [f] ∧ f.reason = 0x89 ∧
      (s.rbit (pgRas + 0x040) 3 = false → t.mem = s.mem)) ∧
  (∀ (s : State) (r : ServerId) (n : Nat) (p : UPkt) (e : SeqRx), s.receiverLive r = true →
    (s.upk.filter fun p => p.rcv == r.val)[n]? = some p → p.st ≠ 0 → s.seqEntry r p.src = e → e.valid = true →
    e.epoch = p.epoch → e.h < 2 ^ 32 → p.seq = e.h →
    ∃ t, exec (.updatePacketReceive r (some n)) s = .next t ∧ t.seqEntry r p.src = e ∧ t.upk = s.upk ∧ t.mem = s.mem) ∧
  (∀ (s : State) (r : ServerId) (replay : Option Nat), s.receiverLive r = false →
    exec (.updatePacketReceive r replay) s = .next s) ∧
  (∀ (s : State) (r : ServerId) (p : UPkt), s.upk.find? (fun p => p.rcv == r.val && p.st == 2) = some p →
    exec (.updatePacketAck r) s = .next { s with upk := s.upk.filter fun q => q.id != p.id }) ∧
  ∀ (s : State) (r : ServerId), s.upk.find? (fun p => p.rcv == r.val && p.st == 2) = none →
    exec (.updatePacketAck r) s = .next s

/-- SECTOR_UPDATE, UCTCTL_FLUSH and SRSEED_WRITE: an update allocates an entry, combines into the entry of its sector, or is
applied at once under NOCOMB; a pinned sector's update waits; a flush empties the table (R42, R119, R122 to R126, R148). -/
def Obligations.SectorUpdates : Prop :=
  (∀ (s : State) (u : UnitId) (r : UReq), s.upk = [] → (s.unit u).uq = [r] → s.chanSt (64 * r.sector) ≠ 3 → r.nocomb = false →
    s.ucombining u = true → (s.unit u).uct.find? (·.sector == r.sector) = none →
    ((s.unit u).uct.filter fun e => uctSetOf u e.sector == uctSetOf u r.sector).length < 16 →
    ∃ t e, exec (.sectorUpdate u) s = .next t ∧ (t.unit u).uq = [] ∧ (t.unit u).uct = (s.unit u).uct ++ [e] ∧
      e.sector = r.sector ∧ e.key = r.key ∧ e.vals = r.vals ∧ e.orgs = [r.org] ∧ e.frame = s.pw.bounds ∧
      { t with units := s.units } = s) ∧
  (∀ (s : State) (u : UnitId) (r : UReq) (e : UEnt), s.upk = [] → (s.unit u).uq = [r] → s.chanSt (64 * r.sector) ≠ 3 →
    r.nocomb = false → s.ucombining u = true → (s.unit u).uct.find? (·.sector == r.sector) = some e → e.key = r.key →
    ∃ t, exec (.sectorUpdate u) s = .next t ∧ (t.unit u).uq = [] ∧
      (t.unit u).uct = (s.unit u).uct.map (fun e => if e.sector == r.sector then e.take r else e) ∧
      { t with units := s.units, regs := s.regs } = s) ∧
  (∀ (s : State) (u : UnitId) (r : UReq), s.memOk = true → s.upk = [] → u.val < 512 → (s.unit u).uq = [r] →
    s.chanSt (64 * r.sector) ≠ 3 → r.nocomb = true → s.flushHeld r.sector = false → s.upsets = [] →
    (s.unit u).uct.find? (·.sector == r.sector) = none → s.isPoisoned (64 * r.sector) 64 = false →
    s.hotSlotOf (64 * r.sector) = none →
    ∃ t, exec (.sectorUpdate u) s = .next t ∧ (t.unit u).uq = [] ∧
      t.memNat (64 * r.sector) 64 =
        (applyAll r.key (BitVec.ofNat 32 (s.reg (pgSor u + 0x108))) r.vals (s.memNat (64 * r.sector) 64)).1 % 2 ^ 512 ∧
      ∀ b, (b < 64 * r.sector ∨ 64 * r.sector + 64 ≤ b) → t.byte b = s.byte b) ∧
  (∀ (s : State) (u : UnitId) (r : UReq), (s.unit u).uq = [r] → s.chanSt (64 * r.sector) ≠ 3 → r.nocomb = true →
    s.flushHeld r.sector = true → exec (.sectorUpdate u) s = .next s) ∧
  (∀ (s : State) (u : UnitId), (s.unit u).uq = [] → exec (.sectorUpdate u) s = .next s) ∧
  (∀ (s : State) (e : EngineId) (a : UEnt), s.serves .sor = true → (s.unit e).uct = [a] → s.flushHeld a.sector = false → s.upsets = [] →
    ∃ t, exec (.uctctlFlush e) s = .next t ∧ (t.unit e).uct = [] ∧
      ∀ b, (b < 64 * a.sector ∨ 64 * a.sector + 64 ≤ b) → s.memOk = true → s.hotSlotOf (64 * a.sector) = none →
        t.byte b = s.byte b) ∧
  (∀ (s : State) (e : EngineId), (s.unit e).uct = [] → exec (.uctctlFlush e) s = .next s) ∧
  ∀ (s : State) (e : EngineId) (v : Word), s.serves .sor = true →
    exec (.srseedWrite e v) s = .next (s.setReg (pgSor e + 0x108) (if v = 0 then 1 else v.toNat))

/-- UPDATE_FENCE and CQCFG_EN: a fence of one stack ends its wait when the number that it carries is reached and no covered
update is left; the checks made when a queue is enabled or disabled (R56, R105, R106, R139 to R143, R662). -/
def Obligations.FencesAndQueues : Prop :=
  (∀ (s : State) (x : StackId) (c : SCmd), s.stackLive x = true → (s.server x).fenced = false → (s.server x).cmds = [c] →
    cOp c.raw = opFENCE → c.refused = none → c.aborted = false → c.started = false → fScope c.raw = 0 → s.reached c x = true →
    s.fencePending c x = false → (∀ u ∈ unitsOf x, ∀ e ∈ (s.unit u).uct, e.orgs.any c.covers = false) →
    ∃ t, exec (.updateFence x) s = .next t ∧ (t.server x).cmds = [{ c with started := true, waitFor := [] }] ∧
      { t with servers := s.servers } = s) ∧
  (∀ (s : State) (x : StackId) (c : SCmd), s.stackLive x = true → (s.server x).fenced = false → (s.server x).cmds = [c] →
    cOp c.raw = opFENCE → c.refused = none → c.aborted = false → c.started = false → fScope c.raw = 0 → s.reached c x = false →
    ∃ t, exec (.updateFence x) s = .next t ∧ (t.server x).cmds = [{ c with started := true, waitFor := [x.val] }] ∧
      { t with servers := s.servers } = s) ∧
  (∀ (s : State) (x : StackId), s.stackLive x = false → exec (.updateFence x) s = .next s) ∧
  (∀ (s : State) (x : StackId) (q : CmdQueue) (v : Word), s.serves .stk = true → s.rbit (pgStk x + 0x100 + 4 * q) 0 = false →
    4 ≤ fld v.toNat 1 4 → fld v.toNat 1 4 ≤ 10 → bitOf v.toNat 0 = false →
    exec (.cqcfgEn x q v) s = .next (s.setReg (pgStk x + 0x100 + 4 * q) (v.toNat % 2 ^ 12))) ∧
  (∀ (s : State) (x : StackId) (q : CmdQueue) (v : Word), s.serves .stk = true → s.rbit (pgStk x + 0x100 + 4 * q) 0 = false →
    4 ≤ fld v.toNat 1 4 → fld v.toNat 1 4 ≤ 10 → (∀ i < 64, i ≠ q.val → s.rbit (pgStk x + 0x100 + 4 * i) 0 = false) →
    exec (.cqcfgEn x q v) s = .next (s.setReg (pgStk x + 0x100 + 4 * q) (v.toNat % 2 ^ 12))) ∧
  (∀ (s : State) (x : StackId) (q : CmdQueue) (v : Word), s.serves .stk = true → s.rbit (pgStk x + 0x100 + 4 * q) 0 = false →
    (fld v.toNat 1 4 < 4 ∨ 10 < fld v.toNat 1 4) → ∃ t, exec (.cqcfgEn x q v) s = .next t ∧
      t.reg (pgStk x + 0x100 + 4 * q) = s.reg (pgStk x + 0x100 + 4 * q) ∧ t.rbit (pgStk x + 0x014) 1 = true ∧
      t.reg (pgStk x + 0x018) = 0x01 + 2 ^ 24 * (0x40 + q)) ∧
  ∀ (s : State) (x : StackId) (q : CmdQueue) (v : Word), s.serves .stk = true → s.rbit (pgStk x + 0x100 + 4 * q) 0 = true → v.toNat % 2 ^ 12 % 2 = 0 →
    s.queueOcc x q ≠ 0 → ∃ t, exec (.cqcfgEn x q v) s = .next t ∧
      t.reg (pgStk x + 0x100 + 4 * q) = s.reg (pgStk x + 0x100 + 4 * q) ∧ t.rbit (pgStk x + 0x014) 1 = true ∧
      t.reg (pgStk x + 0x018) = 0x0D + 2 ^ 24 * (0x40 + q)

/-- TABLE_REGISTER, TABLE_REPLACE, TABLE_RETIRE, TABLE_RETIRE_DRAINED, MIGRATE and EPOCH_WAIT_EXPIRY: when the queue's next
command is of the kind, what it does to the versions, and the reason with which each misuse is refused (R149 to R153, R170 to
R174, R188). -/
def Obligations.TableVersions : Prop :=
  (∀ (s : State) (q : QueueId) (c : HCmd) (v : Version), s.hostNext q 0x04 = some c → s.epWaits = [] → Settled s →
    (∀ o ∈ s.tables, o.tid ≠ dfld c.raw 8 2) → s.readDesc c = .ok v →
    ∃ t, exec (.tableRegister q) s = .next t ∧ t.tables = s.tables ++ [{ v with homeAt := s.sharedHomes v }] ∧ v.tid = dfld c.raw 8 2 ∧ v.current = true ∧
      t = ({ s with tables := s.tables ++ [{ v with homeAt := s.sharedHomes v }], retired := t.retired } : State).hostEnd q c.cid hsOk 0 v.epoch ∧
      (v.tid, v.epoch) ∉ t.retired) ∧
  (∀ (s : State) (q : QueueId) (c : HCmd), s.hostNext q 0x04 = some c → (∃ o ∈ s.tables, o.tid = dfld c.raw 8 2) →
    exec (.tableRegister q) s = .next (s.hostEnd q c.cid hsRefused 0x80 0)) ∧
  (∀ (s : State) (q : QueueId) (c : HCmd) (o v : Version), s.hostNext q 0x05 = some c → s.epWaits = [] → Settled s →
    s.current (dfld c.raw 8 2) = some o → s.retireFull (dfld c.raw 8 2) = false → s.readDesc c = .ok v →
    s.version (dfld c.raw 8 2) v.epoch = none →
    ∃ t, exec (.tableReplace q) s = .next t ∧
      t.tables = (s.tables.map fun k => if k.tid = v.tid then { k with current := false } else k) ++
        [{ v with homeAt := s.sharedHomes v }] ∧
      v.tid = dfld c.raw 8 2 ∧ v.current = true ∧ t.mem = s.mem) ∧
  (∀ (s : State) (q : QueueId) (c : HCmd), s.hostNext q 0x05 = some c → s.current (dfld c.raw 8 2) = none →
    exec (.tableReplace q) s = .next (s.hostEnd q c.cid hsRefused 0x81 0)) ∧
  (∀ (s : State) (q : QueueId) (c : HCmd) (o : Version), s.hostNext q 0x05 = some c → s.current (dfld c.raw 8 2) = some o →
    s.retireFull (dfld c.raw 8 2) = true → exec (.tableReplace q) s = .next (s.hostEnd q c.cid hsRefused 0x07 0)) ∧
  (∀ (s : State) (q : QueueId) (c : HCmd) (o v w : Version), s.hostNext q 0x05 = some c → s.current (dfld c.raw 8 2) = some o →
    s.retireFull (dfld c.raw 8 2) = false → Settled s → s.readDesc c = .ok v → s.version (dfld c.raw 8 2) v.epoch = some w →
    exec (.tableReplace q) s = .next (s.hostEnd q c.cid hsRefused 0x82 0)) ∧
  (∀ (s : State) (q : QueueId) (c : HCmd) (v : Version), s.hostNext q 0x06 = some c →
    s.version (dfld c.raw 8 2) (dfld c.raw 12 4) = some v → (v.current = false ∨ s.retireFull (dfld c.raw 8 2) = false) →
    ∃ t, exec (.tableRetire q) s = .next t ∧ t.tables = (s.tables.map fun k =>
        if k.tid = dfld c.raw 8 2 ∧ k.epoch = dfld c.raw 12 4
        then { k with current := false, retire := k.retire ++ [(q.val, c.cid, bitOf (dfld c.raw 10 1) 0)] } else k) ∧ t.mem = s.mem) ∧
  (∀ (s : State) (q : QueueId) (c : HCmd), s.hostNext q 0x06 = some c →
    s.version (dfld c.raw 8 2) (dfld c.raw 12 4) = none →
    exec (.tableRetire q) s = .next (s.hostEnd q c.cid hsRefused 0x81 0)) ∧
  (∀ (s : State) (tid : TableId) (epoch : Word) (v : Version) (q cid : Nat), s.version tid epoch.toNat = some v →
    v.current = false → v.retire = [(q, cid, false)] → v.told = true → s.versionIdle tid epoch.toNat = true →
    ∃ t, exec (.tableRetireDrained tid epoch) s = .next t ∧
      t.tables = s.tables.filter (fun k => !(k.tid == tid.val && k.epoch == epoch.toNat)) ∧
      t.retired = (tid.val, epoch.toNat) :: s.retired ∧ t.queues = (s.hostEnd q cid hsOk 0 0).queues) ∧
  (∀ (s : State) (tid : TableId) (epoch : Word), (s.version tid epoch.toNat = none ∨ s.versionIdle tid epoch.toNat = false) →
    exec (.tableRetireDrained tid epoch) s = .next s) ∧
  (∀ (s : State) (q : QueueId) (c : HCmd) (v : Version) (j : Nat) (h : Shard), s.hostNext q 0x07 = some c →
    s.current (dfld c.raw 8 2) = some v → v.shardOf (dfld (migrateRaw c.raw) 8 6) = some (j, h) → h.kind ≠ 2 →
    s.stackLive (h.whereAt % 16) = true →
    ∃ t d, exec (.migrate q) s = .next t ∧ t.serial = s.serial + 1 ∧
      (t.server (h.whereAt % 16)).cmds = (s.server (h.whereAt % 16)).cmds ++ [d] ∧ d.serial = s.serial ∧
      d.raw = migrateRaw c.raw ∧ d.host = some (q.val, c.cid)) ∧
  (∀ (s : State) (q : QueueId) (c : HCmd), s.hostNext q 0x07 = some c → s.current (dfld c.raw 8 2) = none →
    exec (.migrate q) s = .next (s.hostEnd q c.cid hsRefused 0x81 0)) ∧
  (∀ (s : State) (x : ServerId) (w : EpWait), s.epWaits.find? (·.srv == x.val) = some w →
    ∃ t, exec (.epochWaitExpiry x) s = .next t ∧ t.epWaits = s.epWaits.erase w ∧
      t.reg (pgTbl + 0x080) = min (s.reg (pgTbl + 0x080) + 1) 0xFFFFFFFF) ∧
  ∀ (s : State) (x : ServerId), (∀ w ∈ s.epWaits, w.srv ≠ x.val) → exec (.epochWaitExpiry x) s = .next s

/-- ROUTED_DISPATCH, COUNT_EXCHANGE_RECEIVE, DISPATCH_RELEASE_WAIT_DONE, DISPATCH_COMBINE and DISPATCH_COMPLETE: the starting
of a dispatch, and its refusal for a bad body, the taking of counts, the last round's release, the combine, the completion
(R230, R231, R233, R234, R237, R240 to R242). -/
def Obligations.RoutedDispatch : Prop :=
  (∀ (s : State) (q : ColQueue) (c : Coll) (i : SliceInfo) (r : Nat), (s.colQ q).cur = some c → s.top.slice = some i →
    s.working = true → s.someHeld = false → c.type = 6 → c.done = none → c.rx = [] → i.size = 1 → s.disps = [] →
    s.colRunning < 8 →
    bodyReason { queue := q.val, body := c.body } c.hdr (s.tokBytes { queue := q.val, body := c.body })
      (s.retBytes { queue := q.val, body := c.body }) = some r →
    ∃ t d, exec (.routedDispatch q) s = .next t ∧ t.disp 0 = some d ∧ d.reason = r ∧ d.queue = q.val ∧ d.body = c.body ∧
      d.exchanged = true ∧ d.combined = true ∧ d.destDone = true ∧ (t.colQ q).cur = some { c with running := true, rx := [] } ∧
      t.mem = s.mem) ∧
  (∀ (s : State) (q : ColQueue) (c : Coll) (i : SliceInfo) (e : Nat × Disp), (s.colQ q).cur = some c → s.top.slice = some i →
    s.working = true → c.type = 6 → c.done = none → s.disps.find? (fun e => e.2.queue == q.val) = some e →
    exec (.routedDispatch q) s = .next (s.dispRun e.1 i)) ∧
  (∀ (s : State) (q : ColQueue), ((s.colQ q).cur = none ∨ s.top.slice = none ∨ s.working = false) →
    exec (.routedDispatch q) s = .next s) ∧
  (∀ (s : State) (d : DispSlot) (peer : Rank) (counts : List Nat) (reason : Byte) (i : SliceInfo) (e : Disp),
    s.top.slice = some i → s.working = true → peer.val < i.size → s.disp d = some e → nfind e.oks peer.val = none →
    e.exchanged = false → e.rx = [] → e.opened = [] → (nset e.oks peer.val reason.toNat).length < i.size →
    ∃ t, exec (.countExchangeReceive d peer counts reason) s = .next t ∧
      t.disp d = some { e with
        oks := nset e.oks peer.val reason.toNat, counts := nset e.counts peer.val counts,
        dues := [(1, nget e.dues 1 (s.now.toNat + s.tmo))] } ∧
      { t with disps := s.disps } = s) ∧
  (∀ (s : State) (d : DispSlot) (peer : Rank) (counts : List Nat) (reason : Byte), s.top.slice = none →
    exec (.countExchangeReceive d peer counts reason) s = .next s) ∧
  (∀ (s s1 : State) (d : DispSlot) (e : Disp) (i : SliceInfo) (h k v : Nat), s.disp d = some e → s.top.slice = some i →
    s.working = true → s.someHeld = false → e.ready = true → e.destDone = false →
    s.counterAt (e.f 96 8) = (some (h, k, v), s1) → v < e.round + 1 → exec (.dispatchReleaseWaitDone d) s = .next s1) ∧
  (∀ (s s1 : State) (d : DispSlot) (e : Disp) (i : SliceInfo) (h k v : Nat), s.disp d = some e → s.top.slice = some i →
    s.working = true → s.someHeld = false → e.ready = true → e.destDone = false →
    s.counterAt (e.f 96 8) = (some (h, k, v), s1) → e.round + 1 ≤ v →
    e.rounds ≤ e.round + 1 → ∃ t x, exec (.dispatchReleaseWaitDone d) s = .next t ∧ t.disp d = some x ∧ x.destDone = true ∧
      x.ready = false) ∧
  (∀ (s : State) (d : DispSlot) (e : Disp) (i : SliceInfo), s.disp d = some e → s.top.slice = some i → s.working = true →
    s.someHeld = false → e.ready = true → e.destDone = false → (s.xlate agDisp (e.f 96 8) true false).1 = none →
    ∃ t x, exec (.dispatchReleaseWaitDone d) s = .next t ∧ t.disp d = some x ∧ x.failed = true) ∧
  (∀ (s : State) (d : DispSlot) (e : Disp) (h : Shard), s.disp d = some e → s.working = true → e.exchanged = true →
    e.combined = false → e.combining = false → e.waits = 0 → e.order.length ≤ e.returned →
    (s.current e.rtid).bind (·.shards.head?) = some h → (s.server (h.whereAt % 16)).fenced = false →
    s.stackLive (h.whereAt % 16) = true → ∃ t x c, exec (.dispatchCombine d) s = .next t ∧ t.disp d = some x ∧
      x.combining = true ∧ x.waits = 1 ∧ x.combined = false ∧
      (t.server (h.whereAt % 16)).cmds = (s.server (h.whereAt % 16)).cmds ++ [c] ∧ c.raw = e.combineRaw ∧ c.disp = some d.val) ∧
  (∀ (s : State) (d : DispSlot) (e : Disp), s.disp d = some e → s.working = true → e.exchanged = true →
    e.combined = false → e.combining = false → e.waits = 0 → e.order.length ≤ e.returned →
    (s.current e.rtid).bind (·.shards.head?) = none → ∃ t x, exec (.dispatchCombine d) s = .next t ∧ t.disp d = some x ∧
      x.combined = true ∧ x.failed = true) ∧
  (∀ (s : State) (d : DispSlot) (e : Disp), s.disp d = some e → e.returned < e.order.length →
    exec (.dispatchCombine d) s = .next s) ∧
  (∀ (s : State) (d : DispSlot) (e : Disp) (c : Coll), s.disp d = some e → (s.colQ e.queue).cur = some c → s.working = true →
    s.someHeld = false → c.type = 6 → e.combined = true → e.destDone = true → e.waits = 0 → ∃ t, exec (.dispatchComplete d) s = .next t ∧ t.disp d = none ∧
      (t.colQ e.queue).cur = none ∧ t.reg64 (pgDsp + 0x048) = (s.reg64 (pgDsp + 0x048) + 1) % 2 ^ 64) ∧
  (∀ (s : State) (d : DispSlot) (e : Disp) (c : Coll), s.disp d = some e → (s.colQ e.queue).cur = some c → s.working = true →
    s.someHeld = false → e.combined = true → e.destDone = true → e.waits = 0 → e.aborted = false → e.poisoned = false →
    e.failed = false → e.reason ≠ 0 →
    ∃ s1 : State, s1 = (s.xlate agDisp (e.f 104 8) true false).2 ∧
      exec (.dispatchComplete d) s = .next (({ s1 with disps := ndel s1.disps d } : State).collEnd e.queue c 2 e.reason true)) ∧
  (∀ (s s0 s1 s2 : State) (d : DispSlot) (e : Disp) (c : Coll), s.disp d = some e → (s.colQ e.queue).cur = some c →
    s.working = true → s.someHeld = false → e.combined = true → e.destDone = true → e.waits = 0 → e.aborted = false →
    e.poisoned = false → e.reason = 0 → s0 = (s.xlate agDisp (e.f 104 8) true false).2 →
    s1 = (s0.counterAt (e.f 88 8)).1.elim (s0.counterAt (e.f 88 8)).2
      (fun k => (s0.counterAt (e.f 88 8)).2.subCtr k.1 k.2.1 e.rounds) →
    s2 = (s1.counterAt (e.f 96 8)).1.elim (s1.counterAt (e.f 96 8)).2
      (fun k => (s1.counterAt (e.f 96 8)).2.subCtr k.1 k.2.1 e.rounds) → (s.xlate agDisp (e.f 104 8) true false).1 = none →
    exec (.dispatchComplete d) s = .next (({ s2 with disps := ndel s2.disps d } : State).collEnd e.queue c 3 0x06 true)) ∧
  ∀ (s : State) (d : DispSlot), s.disp d = none → exec (.dispatchComplete d) s = .next s ∧
    exec (.dispatchCombine d) s = .next s ∧ exec (.dispatchReleaseWaitDone d) s = .next s

/-- STREAM_DESCRIPTOR_START, STREAM_PAGE_FAULT, PAGE_RESUME, STREAM_COMPLETE, TILE_LANDED and SRST: a descriptor starts or is
refused; an engine halts with the position saved and goes on; a tile lands in its slot; a stream completes; an engine is
reset (R381, R383, R392 to R394, R396 to R398, R404). -/
def Obligations.StreamEngines : Prop :=
  (∀ (s : State) (e : SEngId) (d : SDesc) (rest : List SDesc), s.sengRuns e = true → (s.seng e).work.length < 4 →
    (s.seng e).queue = d :: rest → (sOrd d.raw = false ∨ (s.seng e).work = []) → sSigen d.raw = false →
    s.streamCheck e d = none → sMode d.raw ≠ 2 →
    exec (.streamDescriptorStart e) s =
      .next (s.setSeng e { s.seng e with queue := rest, work := (s.seng e).work ++ [{ d with sig := none }] })) ∧
  (∀ (s : State) (e : SEngId) (d : SDesc) (rest : List SDesc) (r : Nat), s.sengRuns e = true → (s.seng e).work.length < 4 →
    (s.seng e).queue = d :: rest → (sOrd d.raw = false ∨ (s.seng e).work = []) → sSigen d.raw = false →
    s.streamCheck e d = some r → d.path = [] →
    exec (.streamDescriptorStart e) s = .next ((s.setSeng e { s.seng e with queue := rest }).count64 (pgSeng e + 0x20) 1)) ∧
  (∀ (s : State) (e : SEngId), (s.sengRuns e = false ∨ 4 ≤ (s.seng e).work.length ∨ (s.seng e).queue = []) →
    exec (.streamDescriptorStart e) s = .next s) ∧
  (∀ (s s1 : State) (e : SEngId) (d : SDesc) (va : Nat) (w : Bool), s.sengRuns e = true → (s.seng e).work = [d] → d.moves = [] →
    d.remote = 0 → d.rflow = none → d.ended = none → d.more = true → s.unitStep e d = .page va w s1 →
    ∃ t, exec (.streamPageFault e) s = .next t ∧ t.seng e = { s.seng e with halt := some d.serial } ∧
      t.reg64 (pgSeng e + 0x08) = va % 2 ^ 48 ∧ t.reg64 (pgSeng e + 0x10) = d.addr % 2 ^ 64 ∧
      t.reg (pgSeng e + 0x18) = d.pos % 2 ^ 32 ∧
      t.reg (pgSeng e + 0x1C) = ((if w then 1 else 0) + 16 * sMode d.raw + 65536 * sTag d.raw) % 2 ^ 32 ∧
      t.reg (pgSeng e + 0x30) = min (s.reg (pgSeng e + 0x30) + 1) 0xFFFFFFFF ∧ (1, 257) ∈ t.msix ∧ t.mem = s.mem) ∧
  (∀ (s : State) (e : SEngId), s.sengRuns e = false → (s.seng e).fault = none → exec (.streamPageFault e) s = .next s) ∧
  (∀ (s : State) (e : SEngId) (n va : Nat) (w : Bool), (s.seng e).fault = some (n, va, w) → s.sengDrained e = false →
    ∃ t, exec (.streamPageFault e) s = .next t ∧ t.seng e = s.seng e ∧ { t with sengs := s.sengs } = s) ∧
  (∀ (s : State) (q : QueueId) (c : HCmd) (n : Nat), s.hostNext q 0x0C = some c → (s.seng (dfld c.raw 8 1)).halt = some n →
    ∃ t, exec (.pageResume q) s = .next t ∧ t.seng (dfld c.raw 8 1) = { s.seng (dfld c.raw 8 1) with
        halt := none
        work := (s.seng (dfld c.raw 8 1)).work.map fun d => if d.serial == n then
          (if bitOf (dfld c.raw 9 1) 0 then { d with ended := some (3, 0x06) } else { d with sent := d.pos }) else d } ∧
      t.queues = (s.hostEnd q c.cid hsOk 0 0).queues) ∧
  (∀ (s : State) (q : QueueId) (c : HCmd), s.hostNext q 0x0C = some c → (s.seng (dfld c.raw 8 1)).halt = none →
    exec (.pageResume q) s = .next (s.hostEnd q c.cid hsRefused 0x01 0)) ∧
  (∀ (s : State) (e : SEngId) (d : SDesc), (s.seng e).work.find? (fun d => d.ended.isSome && s.streamVisible d) = some d →
    d.sig = none → ∃ t, exec (.streamComplete e) s = .next t ∧
      (t.seng e).work = (s.seng e).work.filter (fun x => x.serial != d.serial) ∧ t.mem = s.mem ∧
      t.reg64 (pgSeng e + 0x20) = (s.reg64 (pgSeng e + 0x20) + 1) % 2 ^ 64) ∧
  (∀ (s : State) (e : SEngId), (s.seng e).work.find? (fun d => d.ended.isSome && s.streamVisible d) = none →
    exec (.streamComplete e) s = .next s) ∧
  (∀ (s : State) (e : SEngId) (d : SDesc) (m : TileMove) (c : CoreId), s.ready = true → (s.seng e).work = [d] → d.moves = [m] →
    d.path = [c.val] → m.hop = 0 → m.scale = none → m.poison = false →
    (s.core c).pend = [(sTslot d.raw + m.k, markOf e d)] →
    ∃ t, exec (.tileLanded e) s = .next t ∧
      t.core c = ({ s.core c with pend := [] } : Core).setTile (sTslot d.raw + m.k)
        (m.over ((s.core c).tile (sTslot d.raw + m.k)) ((s.core c).scale (sTslot d.raw + m.k))).1 false ∧
      (t.seng e).work = [{ d with
        moves := [], pos := d.pos + 1
        ended := if sNtiles d.raw ≤ d.pos + 1 ∧ d.ended = none then some (0, 0) else d.ended }] ∧ t.mem = s.mem) ∧
  (∀ (s : State) (e : SEngId), s.ready = false → exec (.tileLanded e) s = .next s) ∧
  (∀ (s : State) (e : SEngId), s.serves .clu = true → s.rbit (pgSeng e) 1 = true → (s.seng e).idle = true → ∃ t, exec (.srst e) s = .next t ∧
    t.seng e = { s.seng e with halt := none, fault := none } ∧ t.reg64 (pgSeng e + 0x08) = 0 ∧ t.reg64 (pgSeng e + 0x10) = 0 ∧
    t.reg (pgSeng e + 0x18) = 0 ∧ t.reg (pgSeng e + 0x1C) = 0 ∧
    t.epochOf (srcSeng e) = (s.epochOf (srcSeng e) + 1) % 256) ∧
  ∀ (s : State) (e : SEngId), s.serves .clu = true → (s.rbit (pgSeng e) 1 = false ∨ (s.seng e).idle = false) →
    exec (.srst e) s = .next (s.refuse (pgSeng e) 0x0D)

/-- STRIDED, STREAM_GATHER, BITMAP, CHAIN and SORLIST complete: the last piece of a copy, the last row of a gather and its
index out of range, a tile read, a malformed tile, a tile of a chain, the last entry of a list, a queue that is off, a page
that does not translate, a held channel, a channel of a fenced PHY die (R387 to R393, R477). -/
def Obligations.StreamModes : Prop :=
  (∀ (s s1 s2 : State) (e : SEngId) (d : SDesc) (ps : List (Page × Nat)) (l : List Byte), s.sengRuns e = true →
    (s.seng e).work = [d] → sMode d.raw = 0 → d.ended = none → sRsrc d.raw = false → sRdst d.raw = false →
    d.pos < sTotal d.raw → d.pos + pieceLen d.raw d.pos = sTotal d.raw → l.length = pieceLen d.raw d.pos →
    streamReads s s1 e (stridedAt d.raw d.pos).1 (pieceLen d.raw d.pos) l →
    streamWrites s1 s2 e (stridedAt d.raw d.pos).2 (pieceLen d.raw d.pos) ps →
    ∃ t, exec (.strided e) s = .next t ∧ t.mem = (s2.writeDest ps l false).mem ∧
      (t.seng e).work = [{ d with pos := sTotal d.raw, ended := some (0, 0) }]) ∧
  (∀ (s s1 s2 s3 : State) (e : SEngId) (d : SDesc) (ps : List (Page × Nat)) (il l : List Byte) (w len : Nat),
    s.sengRuns e = true → (s.seng e).work = [d] → sMode d.raw = 1 → d.ended = none → d.pos + 1 = dfld d.raw 32 4 →
    w = (if bitOf (dfld d.raw 6 1) 0 then 8 else 4) → len = dfld d.raw 36 4 →
    streamReads s s1 e ((dfld d.raw 24 8 + w * d.pos) % 2 ^ 64) w il → ofBytes il < dfld d.raw 48 6 →
    streamReads s1 s2 e ((dfld d.raw 8 8 + ofBytes il * dfld d.raw 40 4) % 2 ^ 64) len l → l.length = len →
    streamWrites s2 s3 e ((dfld d.raw 16 8 + d.pos * (if dfld d.raw 44 4 = 0 then len else dfld d.raw 44 4)) % 2 ^ 64) len ps →
    ∃ t, exec (.streamGather e) s = .next t ∧ t.mem = (s3.writeDest ps l false).mem ∧
      (t.seng e).work = [{ d with pos := d.pos + 1, ended := some (0, 0) }]) ∧
  (∀ (s s1 : State) (e : SEngId) (d : SDesc) (il : List Byte) (w : Nat), s.sengRuns e = true → (s.seng e).work = [d] →
    sMode d.raw = 1 → d.ended = none → d.pos < dfld d.raw 32 4 → w = (if bitOf (dfld d.raw 6 1) 0 then 8 else 4) →
    streamReads s s1 e ((dfld d.raw 24 8 + w * d.pos) % 2 ^ 64) w il → dfld d.raw 48 6 ≤ ofBytes il →
    ∃ t, exec (.streamGather e) s = .next t ∧ t.mem = s1.mem ∧ (t.seng e).work = [{ d with ended := some (3, 0x83) }]) ∧
  (∀ (s s1 s2 : State) (e : SEngId) (d : SDesc) (hl l : List Byte) (img : Nat) (sc : Option Nat) (h : BHdr),
    s.sengRuns e = true → (s.seng e).work = [d] → sMode d.raw = 2 → d.ended = none → d.sent < sNtiles d.raw →
    d.pos < sNtiles d.raw → streamReads s s1 e ((dfld d.raw 8 8 + d.next) % 2 ^ 64) 16 hl → h = bitmapHdr (ofBytes hl) →
    h.ok = true → streamReads s1 s2 e ((dfld d.raw 8 8 + d.next) % 2 ^ 64 + 16) (h.bytes - 16) l →
    expandBitmap h (ofBytes l) = some (img, sc) →
    ∃ t m, exec (.bitmap e) s = .next t ∧ (t.seng e).work = [{ d with
        sent := d.sent + 1, next := d.next + h.bytes, moves := d.moves ++ [m] }] ∧ m.k = d.sent ∧ m.hop = 0 ∧
      m.data = BitVec.ofNat 4096 img ∧ m.scale = sc.map (BitVec.ofNat 256) ∧ m.poison = false ∧ m.fill = 8 * tileL h.fmt ∧
      t.mem = s2.mem) ∧
  (∀ (s s1 : State) (e : SEngId) (d : SDesc) (hl : List Byte), s.sengRuns e = true → (s.seng e).work = [d] →
    sMode d.raw = 2 → d.ended = none → d.sent < sNtiles d.raw → d.pos < sNtiles d.raw →
    streamReads s s1 e ((dfld d.raw 8 8 + d.next) % 2 ^ 64) 16 hl → (bitmapHdr (ofBytes hl)).ok = false →
    ∃ t, exec (.bitmap e) s = .next t ∧ (t.seng e).work = [{ d with ended := some (3, 0x01) }] ∧ t.mem = s1.mem) ∧
  (∀ (s s1 : State) (e : SEngId) (d : SDesc) (l : List Byte) (n : Nat), s.sengRuns e = true → (s.seng e).work = [d] →
    sMode d.raw = 3 → d.ended = none → d.path ≠ [] → d.sent < sNtiles d.raw → d.pos < sNtiles d.raw →
    n = (if sCmx d.raw then 544 else 512) → streamReads s s1 e ((dfld d.raw 8 8 + d.sent * dfld d.raw 32 4) % 2 ^ 64) n l →
    ∃ t m, exec (.chain e) s = .next t ∧ (t.seng e).work = [{ d with sent := d.sent + 1, moves := d.moves ++ [m] }] ∧
      m.k = d.sent ∧ m.hop = 0 ∧ m.data = BitVec.ofNat 4096 (ofBytes (l.take 512)) ∧ m.poison = false ∧
      m.scale = (if sCmx d.raw then some (BitVec.ofNat 256 (ofBytes (l.drop 512))) else none) ∧ t.mem = s1.mem) ∧
  (∀ (s s1 s2 : State) (e : SEngId) (d : SDesc) (l : List Byte) (x q va : Nat), s.sengRuns e = true → (s.seng e).work = [d] →
    sMode d.raw = 4 → d.ended = none → d.pos + 1 = dfld d.raw 16 4 → x = dfld d.raw 6 1 % 16 → q = dfld d.raw 7 1 % 64 →
    va = (dfld d.raw 8 8 + 64 * d.pos) % 2 ^ 64 → s.queueOn x q = true →
    ((s.server x).queues.flatMap (·.2) ++ (s.server x).cmds).find? (fun c =>
      c.src == srcSeng e && c.queue == q && c.missing != 0) = none →
    streamReads s s1 e va 64 l → streamReads s1 s2 e va 64 l → l.length = 64 → isScatter (ofBytes l % 256) = false →
    s2.queueOn x q = true → s2.listBusy x q (srcSeng e) = false → s2.queueOcc x q < s2.queueDepth x q →
    ∃ t c, exec (.sorlist e) s = .next t ∧
      nget (t.server x).queues q [] = nget (s2.server x).queues q [] ++ [c] ∧ c.raw = ofBytes l ∧ c.src = srcSeng e ∧
      c.stream = [] ∧ c.missing = 0 ∧ (t.seng e).work = [{ d with pos := d.pos + 1, ended := some (0, 0) }] ∧ t.mem = s2.mem) ∧
  (∀ (s : State) (e : SEngId) (d : SDesc), s.sengRuns e = true → (s.seng e).work = [d] → sMode d.raw = 4 → d.ended = none →
    d.pos < dfld d.raw 16 4 → s.queueOn (dfld d.raw 6 1 % 16) (dfld d.raw 7 1 % 64) = false →
    ∃ t, exec (.sorlist e) s = .next t ∧ (t.seng e).work = [{ d with ended := some (3, 0x02) }] ∧ { t with sengs := s.sengs } = s) ∧
  (∀ (s s1 : State) (e : SEngId) (d : SDesc) (va : Nat) (w : Bool) (i : Instr), s.sengRuns e = true → (s.seng e).work = [d] →
    d.ended = none → d.allDone = false → d.more = true → streamInstr e (sMode d.raw) = some i →
    (s.unitStep e d = .page va w s1 → exec i s = .next (s1.sengFault e d.serial va w)) ∧
    (s.unitStep e d = .lost s1 → exec i s = .next (s1.modDesc e d.serial fun k => { k with ended := some (4, 0) })) ∧
    (s.unitStep e d = .wait s1 → exec i s = .next s1)) ∧
  ∀ (s : State) (e : SEngId) (m : Nat) (i : Instr), s.sengRuns e = false → streamInstr e m = some i → exec i s = .next s

/-- RGNCOMMIT, PCCTL_RETRAIN, CHCTL_RETRAIN, FORCED_RETRAIN, RETRAIN_ATTEMPT_END, STACK_TEMPERATURE_LEVEL and
PACKAGE_TEMPERATURE_LEVEL (R100, R126, R457, R460, R466, R471 to R477, R484, R485, R559, R612). -/
def Obligations.MemorySystem : Prop :=
  (∀ s : State, s.serves .mem = true → s.memOk = true → (∀ r < 1024, s.regionWrong r = none) → ∃ t, exec .rgncommit s = .next t ∧
    (∀ r < 1024, t.mode r = if s.boot.imgMib ≠ 0 ∧ s.boot.imgBase / 2 ^ 30 = r then s.mode r else s.staged r) ∧ t.reg (pgMem + 0x04C) = 0 ∧
    (∀ r < 1024, (s.regionLive r = false ∨ s.staged r = s.mode r) → ∀ a, a / 2 ^ 30 = r → t.byte a = s.byte a) ∧
    ∀ o, o ≠ pgMem + 0x04C → t.reg o = s.reg o) ∧
  (∀ (s : State) (r c : Nat), s.serves .mem = true → r < 1024 → s.regionWrong r = some c → (∀ q < r, s.regionWrong q = none) →
    exec .rgncommit s = .next ((s.setReg (pgMem + 0x04C) (r + 2 ^ 31)).refuse (pgMem + 0x048) c)) ∧
  (∀ (s : State) (e : EngineId) (half : Bool) (ch : Nat), ch = 2 * e.val + (if half then 1 else 0) → s.serves .sor = true → s.chanLive ch = true →
    (s.chan ch).st ≠ 3 → exec (.pcctlRetrain e half) s = .next (s.setChan ch { s.chan ch with asked := true })) ∧
  (∀ (s : State) (ch : RhzCh), s.serves .rhz = true → s.chanLive (1024 + ch.val) = true → (s.chan (1024 + ch.val)).st ≠ 3 →
    exec (.chctlRetrain ch) s = .next (s.setChan (1024 + ch.val) { s.chan (1024 + ch.val) with asked := true })) ∧
  (∀ (s : State) (ch : RhzCh), s.serves .rhz = true → s.chanLive (1024 + ch.val) = true → (s.chan (1024 + ch.val)).st = 3 →
    exec (.chctlRetrain ch) s = .next (s.refuse (pcRegs (1024 + ch.val) + 4) 0x0A)) ∧
  (∀ (s : State) (ch : ChanId) (n : Nat), s.ready = true → s.chanLive ch = true → (s.chan ch).st < 2 →
    n = (if (s.chan ch).errFrame = s.pw.bounds then (s.chan ch).errs + 1 else 1) → ∃ t, exec (.forcedRetrain ⟨ch, true⟩) s = .next t ∧
    t.chan ch = { s.chan ch with st := 2, attempts := 1, asked := false, fromSlot := false, errs := n, errFrame := s.pw.bounds } ∧
    ((∀ m ∈ s.moves, m.copied = false ∨ m.flipped = true) → ch.val < 1024 →
      t.reg (pcRegs ch + 0x20) = min (s.reg (pcRegs ch + 0x20) + 1) 0xFFFFFFFF) ∧
    ((∀ m ∈ s.moves, m.copied = false ∨ m.flipped = true) → { t with chans := s.chans, regs := s.regs } = s)) ∧
  (∀ (s : State) (ch : ChanId) (n : Nat), s.ready = true → s.chanLive ch = true → (s.chan ch).st < 2 →
    n = (if (s.chan ch).errFrame = s.pw.bounds then (s.chan ch).errs + 1 else 1) →
    ∃ t, exec (.forcedRetrain ⟨ch, false⟩) s = .next t ∧
    (n < s.rfld (pgMem + 0x044) 0 8 → t.chan ch = { s.chan ch with errs := n, errFrame := s.pw.bounds } ∧
      t.ras.seq = s.ras.seq + 1) ∧
    (s.rfld (pgMem + 0x044) 0 8 ≤ n → (t.chan ch).st = 2 ∧ (t.chan ch).attempts = 1)) ∧
  (∀ (s : State) (ch : ChanId) (m : Move), s.ready = true → s.chanLive ch = true → (s.chan ch).st < 2 → s.moves = [m] →
    m.flipped = false → m.copied = true → (∃ a, a < m.bytes ∧ s.chanOf ((m.dst + a) / 64 * 64) = some ch.val) → ∃ t,
    exec (.forcedRetrain ⟨ch, true⟩) s = .next t ∧ t.moves = [] ∧
    t.reg (pgTbl + 0x08C) = min (s.reg (pgTbl + 0x08C) + 1) 0xFFFFFFFF) ∧
  (∀ (s : State) (ch : ChanId) (recurs : Bool), (s.ready = false ∨ s.chanLive ch = false ∨ 2 ≤ (s.chan ch).st) →
    exec (.forcedRetrain ⟨ch, recurs⟩) s = .next s) ∧
  (∀ (s : State) (ch : ChanId) (us : Word), (s.chan ch).st = 2 → s.chanWait = [] → ∃ t, exec (.retrainAttemptEnd ch true us) s = .next t ∧
    t.chan ch = { s.chan ch with st := 0, attempts := 0, fromSlot := false } ∧
    (ch.val < 1024 → t.reg (pcRegs ch + 0x14) = min (s.reg (pcRegs ch + 0x14) + 1) 0xFFFFFFFF ∧
      t.reg (pcRegs ch + 0x18) = us.toNat ∧ t.reg (pcRegs ch + 0x1C) = max us.toNat (s.reg (pcRegs ch + 0x1C)))) ∧
  (∀ (s : State) (ch : ChanId) (us : Word), (s.chan ch).st = 2 → (s.chan ch).attempts < 3 →
    exec (.retrainAttemptEnd ch false us) s =
      .next (s.setChan ch { s.chan ch with attempts := (s.chan ch).attempts + 1 })) ∧
  (∀ (s : State) (ch : ChanId) (us : Word), (s.chan ch).st = 2 → 3 ≤ (s.chan ch).attempts →
    ∃ t, exec (.retrainAttemptEnd ch false us) s = .next t ∧ t.chan ch = { s.chan ch with st := 3, fromSlot := false } ∧
      t.ras.halted = true) ∧
  (∀ (s : State) (ch : ChanId) (ok : Bool) (us : Word), (s.chan ch).st ≠ 2 → exec (.retrainAttemptEnd ch ok us) s = .next s) ∧
  (∀ (s : State) (x : StackId) (temp : Byte) (old new r : Nat), s.ready = true → bitOf s.boot.stackSet.toNat x = true →
    r = pgMem + 0x100 + 0x10 * x.val → old = s.rfld r 8 2 → new = tempLevel [95, 105, 115] old temp.toNat →
    (new ≠ 3 ∨ s.rbit r 10 = true) →
    ∃ t, exec (.stackTemperatureLevel x temp) s = .next t ∧
      t.reg r = temp.toNat + 2 ^ 8 * new + (if s.rbit r 10 then 2 ^ 10 else 0) ∧
      t.reg (r + 4) = max temp.toNat (s.rfld (r + 4) 0 8) ∧ (old ≠ new → (1, 259) ∈ t.msix) ∧
      (old = new → t.msix = s.msix) ∧ { t with regs := s.regs, msix := s.msix } = s) ∧
  (∀ (s : State) (x : StackId) (temp : Byte) (r : Nat), s.ready = true → bitOf s.boot.stackSet.toNat x = true →
    r = pgMem + 0x100 + 0x10 * x.val → tempLevel [95, 105, 115] (s.rfld r 8 2) temp.toNat = 3 → s.rbit r 10 = false →
    ∃ t e, exec (.stackTemperatureLevel x temp) s = .next t ∧ (t.server x).fenced = true ∧ (t.server x).queues = [] ∧
      e ∈ t.ras.fatals ∧ e.cls = 3 ∧ e.reason = 0 ∧ e.inst = x.val ∧ t.rbit r 10 = true) ∧
  (∀ (s : State) (k : PkgId) (temp : Byte) (old new r : Nat), s.ready = true → r = pgRhz (k.val / 6) + 0x078 + 4 * (k.val % 6) →
    old = s.rfld r 8 2 → new = tempLevel [85, 95, 105] old temp.toNat → (new ≠ 3 ∨ s.rbit (pgRhz (k.val / 6) + 0x090) 0 = true) →
    ∃ t, exec (.packageTemperatureLevel k temp) s = .next t ∧ t.reg r = temp.toNat + 2 ^ 8 * new ∧
      (old ≠ new → (1, 259) ∈ t.msix) ∧ { t with regs := s.regs, msix := s.msix } = s) ∧
  ∀ (s : State) (k : PkgId) (temp : Byte) (r : Nat), s.ready = true → r = pgRhz (k.val / 6) + 0x078 + 4 * (k.val % 6) →
    tempLevel [85, 95, 105] (s.rfld r 8 2) temp.toNat = 3 → s.rbit (pgRhz (k.val / 6) + 0x090) 0 = false →
    ∃ t e, exec (.packageTemperatureLevel k temp) s = .next t ∧ (t.server (16 + k.val / 6)).fenced = true ∧
      t.ras.fatals = s.ras.fatals ++ [e] ∧ e.cls = 3 ∧ e.inst = k.val / 6 ∧ t.rbit (pgRhz (k.val / 6) + 0x090) 0 = true

/-- DATA_FLIT_RECEIVE, NEGATIVE_ACK_RECEIVE, LINK_CONTROL_CREDIT and FLIT_RESEND_LIMIT: a flit in order is taken and counted
with its FEC codewords, one that is damaged or out of order is answered with the number expected, a negative acknowledgement
starts a resend, the sixteenth resend takes the link down (R488 to R492, R495, R520). -/
def Obligations.LinkFlits : Prop :=
  (∀ (s : State) (l : LinkId) (flit : Flit), flit.bytes.length ≠ flitLen (s.link l).v2 →
    exec (.dataFlitReceive l flit) s = .fault (.illFormed "DATA_FLIT_RECEIVE")) ∧
  (∀ (s : State) (l : LinkId) (flit : Flit), flit.bytes.length = flitLen (s.link l).v2 →
    ((s.link l).st ≠ 4 ∧ (s.link l).st ≠ 5 ∨ s.looped l = true) → exec (.dataFlitReceive l flit) s = .next s) ∧
  (∀ (s s1 : State) (l : LinkId) (flit : Flit), flit.bytes.length = flitLen (s.link l).v2 → (s.link l).st = 4 →
    s.looped l = false → s1 = s.fecCount l flit →
    (crc32 (flit.bytes.take (flit.bytes.length - 4))).toNat ≠ ofBytes (flit.bytes.drop (flit.bytes.length - 4)) →
    ∃ t, exec (.dataFlitReceive l flit) s = .next t ∧ t.link l = { s.link l with nakOut := true } ∧
      t.out = .nak l (s.link l).rxSeq :: s1.out ∧ t.reg (pgLnk l + 0x07C) = min (s.reg (pgLnk l + 0x07C) + 1) 0xFFFFFFFF ∧
      { t with links := s.links, out := s1.out, regs := s1.regs } = s1) ∧
  (∀ (s s1 : State) (l : LinkId) (flit : Flit), flit.bytes.length = flitLen (s.link l).v2 → (s.link l).st = 4 →
    s.looped l = false → s1 = s.fecCount l flit →
    (crc32 (flit.bytes.take (flit.bytes.length - 4))).toNat = ofBytes (flit.bytes.drop (flit.bytes.length - 4)) →
    (s.link l).retry = [] → (ofBytes (flit.bytes.take 1) % 16 = 1 ∨ ofBytes (flit.bytes.take 1) % 16 = 2) →
    ofBytes ((flit.bytes.drop 2).take 2) = (s.link l).rxSeq →
    ∃ t, exec (.dataFlitReceive l flit) s = .next t ∧ (t.link l).rxSeq = ((s.link l).rxSeq + 1) % 0x10000 ∧
      (t.link l).nakOut = false ∧ t.reg64 (pgLnk l + 0x068) = (s.reg64 (pgLnk l + 0x068) + 1) % 2 ^ 64 ∧
      t.reg64 (pgLnk l + 0x070) = (s.reg64 (pgLnk l + 0x070) + flit.corrected) % 2 ^ 64 ∧
      t.reg (pgLnk l + 0x078) = min (s.reg (pgLnk l + 0x078) + flit.uncorrectable) 0xFFFFFFFF ∧
      (∀ m, m ≠ l.val → t.link m = s.link m) ∧ { t with links := s.links, regs := s1.regs } = s1) ∧
  (∀ (s s1 : State) (l : LinkId) (flit : Flit), flit.bytes.length = flitLen (s.link l).v2 → (s.link l).st = 4 →
    s.looped l = false → s1 = s.fecCount l flit →
    (crc32 (flit.bytes.take (flit.bytes.length - 4))).toNat = ofBytes (flit.bytes.drop (flit.bytes.length - 4)) →
    (s.link l).retry = [] → (ofBytes (flit.bytes.take 1) % 16 = 1 ∨ ofBytes (flit.bytes.take 1) % 16 = 2) →
    ofBytes ((flit.bytes.drop 2).take 2) ≠ (s.link l).rxSeq →
    ∃ t, exec (.dataFlitReceive l flit) s = .next t ∧ t.link l = { s.link l with nakOut := true } ∧
      t.out = (if (s.link l).nakOut then s1.out else .nak l (s.link l).rxSeq :: s1.out) ∧
      { t with links := s.links, out := s1.out } = { s1 with links := s.links }) ∧
  (∀ (s : State) (l : LinkId) (lseq : Lseq) (i : Nat), State.takeLack.posOfSeq (s.link l).retry lseq.toNat 0 = some i →
    (s.link l).st = 4 → (s.link l).resends < 16 → ∃ t, exec (.negativeAckReceive l lseq) s = .next t ∧
      t.link l = { s.link l with resends := (s.link l).resends + 1 } ∧
      t.reg (pgLnk l + 0x080) = min (s.reg (pgLnk l + 0x080) + ((s.link l).retry.length - i)) 0xFFFFFFFF ∧
      ∀ f ∈ (s.link l).retry.drop i, Output.flit l f.2 ∈ t.out) ∧
  (∀ (s : State) (l : LinkId) (lseq : Lseq), (s.link l).st = 5 →
    exec (.negativeAckReceive l lseq) s = .next (s.setLink l { s.link l with nakIn := some lseq.toNat })) ∧
  (∀ (s : State) (l : LinkId) (lseq : Lseq), (s.link l).st ≠ 5 →
    State.takeLack.posOfSeq (s.link l).retry lseq.toNat 0 = none → exec (.negativeAckReceive l lseq) s = .next s) ∧
  (∀ (s : State) (l : LinkId), 16 ≤ (s.link l).resends → ∃ t, exec (.flitResendLimit l) s = .next t ∧ (t.link l).st = 0 ∧
    (t.link l).retry = [] ∧ (t.link l).txSeq = 0 ∧ (t.link l).rxSeq = 0 ∧ ((s.link l).drop = none → { t with links := s.links } = s)) ∧
  (∀ (s : State) (l : LinkId), (s.link l).resends < 16 → exec (.flitResendLimit l) s = .next s) ∧
  (∀ (s : State) (l : LinkId) (vl : VLane) (n : Nat), ((s.link l).st = 4 ∨ (s.link l).st = 5) → s.looped l = false → (s.link l).waitPkts = [] →
    ∃ t, exec (.linkControlCredit l vl n) s = .next t ∧
      t.link l = { s.link l with credits := nset (s.link l).credits vl (nget (s.link l).credits vl 0 + n) } ∧
      { t with links := s.links } = s) ∧
  ∀ (s : State) (l : LinkId) (vl : VLane) (n : Nat), ((s.link l).st < 4 ∨ s.looped l = true) → exec (.linkControlCredit l vl n) s = .next s

/-- LANE_FAILURE, LINK_TRAIN_DONE, LINK_TRAIN_RETRY, RETRAIN, LINK_HOLD, LINK_RELEASE, DISCOVERY_EXCHANGE, DISCOVERY_TIMEOUT,
PLAN_LOAD and DETLOAD: the states of a link and its class against the cabling plan (R493, R494, R503, R509, R510, R520,
R521). -/
def Obligations.LinkStates : Prop :=
  (∀ (s : State) (l : LinkId) (lane : Lane), (s.link l).st = 0 → exec (.laneFailure l lane) s = .next s) ∧
  (∀ (s : State) (l : LinkId) (lane : Lane), (s.link l).st ≠ 0 →
    ((s.link l).failed ||| (1#8 <<< lane.val)) &&& 0x0F ≠ 0 → ((s.link l).failed ||| (1#8 <<< lane.val)) &&& 0xF0 ≠ 0 →
    ∃ t, exec (.laneFailure l lane) s = .next t ∧ (t.link l).st = 0 ∧
      ((s.link l).st ≠ 5 → (s.link l).drop = none → { t with links := s.links } = s)) ∧
  (∀ (s : State) (l : LinkId) (lane : Lane), (s.link l).st = 4 → (s.link l).failed = 0 → (s.link l).x4 = false →
    s.rbit (pgLnk l + 0x040) 0 = true → ∃ t, exec (.laneFailure l lane) s = .next t ∧
      t.link l = { s.link l with
        st := 1, x4 := true, half := if lane.val < 4 then 1 else 0, failed := 1#8 <<< lane.val, retryTrain := false
        drop := (s.link l).drop.orElse fun _ => some { lane := lane.val, since := s.now.toNat } } ∧
      t.reg (pgLnk l + 0x084) = min (s.reg (pgLnk l + 0x084) + 1) 0xFFFFFFFF) ∧
  (∀ (s : State) (l : LinkId), (s.link l).st = 1 → s.linkOn l = true →
    exec (.linkTrainDone l) s = .next ((s.setLink l { s.link l with st := 2 }).emit (.discovery l (s.reg64 (pgTop + 0x044))
      (s.reg (pgTop + 0x040) % 2 ^ 18) (((s.setLink l { s.link l with st := 2 }).portOf l).getD 15) (s.link l).v2))) ∧
  (∀ (s : State) (l : LinkId), ((s.link l).st ≠ 1 ∨ s.linkOn l = false) → exec (.linkTrainDone l) s = .next s) ∧
  (∀ (s : State) (l : LinkId), (s.link l).st = 1 → exec (.linkTrainRetry l) s =
    .next (s.setLink l { s.link l with retryTrain := !(s.link l).v2 && !(s.link l).retryTrain })) ∧
  (∀ (s : State) (l : LinkId), (s.link l).st ≠ 1 → exec (.linkTrainRetry l) s = .next s) ∧
  (∀ (s : State) (l : LinkId), s.serves .lnk = true → (s.link l).held = false → s.linkOn l = true → ∃ t, exec (.retrain l) s = .next t ∧
    (t.link l).st = 1 ∧ (t.link l).v2 = s.rbit (pgLnk l + 0x010) 2 ∧ (t.link l).failed = s.bootLanes l ∧
    (t.link l).retry = (s.link l).retry ∧ (t.link l).txSeq = (s.link l).txSeq ∧ { t with links := s.links } = s) ∧
  (∀ (s : State) (l : LinkId), ((s.link l).held = true ∨ s.linkOn l = false) → exec (.retrain l) s = .next s) ∧
  (∀ (s : State) (l : LinkId), s.serves .lnk = true → ∃ t, exec (.linkHold l) s = .next t ∧ (t.link l).st = 0 ∧
    (t.link l).held = true ∧ (t.link l).retry = [] ∧ ((s.link l).drop = none → { t with links := s.links } = s)) ∧
  (∀ (s : State) (l : LinkId), s.serves .lnk = true → ∃ t, exec (.linkRelease l) s = .next t ∧ (t.link l).held = false ∧
    (t.link l).st = (if (s.link l).st = 0 ∧ s.linkOn l = true then 1 else (s.link l).st) ∧ { t with links := s.links } = s) ∧
  (∀ (s : State) (l : LinkId) (p : PeerInfo), (s.link l).st = 2 → (s.link l).peer = none → s.top.plan = none →
    ∃ t, exec (.discoveryExchange l p) s = .next t ∧
      t.link l = { (s.link l).afresh with st := 3, peer := some p } ∧ { t with links := s.links } = s) ∧
  (∀ (s : State) (l : LinkId) (p : PeerInfo), (s.link l).st = 2 → (s.link l).peer = some p → s.top.plan = none →
    ∃ t, exec (.discoveryExchange l p) s = .next t ∧ t.link l = { s.link l with st := 3 } ∧ { t with links := s.links } = s) ∧
  (∀ (s : State) (l : LinkId) (p : PeerInfo), 2 < (s.link l).st → (s.link l).peer ≠ some p →
    ∃ t c n, exec (.discoveryExchange l p) s = .next t ∧ t.link l = { (s.link l).afresh with st := 2, peer := none } ∧
      t.out = .discovery l (s.reg64 (pgTop + 0x044)) c n (s.link l).v2 :: s.out ∧ { t with links := s.links, out := s.out } = s) ∧
  (∀ (s : State) (l : LinkId) (p : PeerInfo) (pl : List Byte), (s.link l).st = 2 → (s.link l).peer = none →
    (s.link l).retryTrain = false → (s.link l).waitPkts = [] → s.top.plan = some pl → planSer pl l ≠ 0 → p.v2 = planV2 pl l → p.v2 = (s.link l).v2 →
    peerMatches pl l p = true → ∃ t, exec (.discoveryExchange l p) s = .next t ∧ (t.link l).st = 4 ∧ (t.link l).cls = 1 ∧
      (t.link l).peer = some p ∧ ((s.link l).cls ≠ 1 → t.rbit (pgTop + 0x0A4) 0 = true ∧ (1, 260) ∈ t.msix)) ∧
  (∀ (s : State) (l : LinkId) (p : PeerInfo), (s.link l).st < 2 → exec (.discoveryExchange l p) s = .next s) ∧
  (∀ s : State, s.top.plan = none → exec .discoveryTimeout s = .next s) ∧
  (∀ (s : State) (pl : List Byte), s.top.plan = some pl → ∃ t, exec .discoveryTimeout s = .next t ∧ ∀ l < 16,
    if s.ready = true ∧ bitOf s.boot.links.toNat l = true ∧ (s.link l).st < 2 ∧ planSer pl l ≠ 0 then
      (t.link l).st = 0 ∧ (t.link l).cls = 2 else t.link l = s.link l) ∧
  (∀ (s : State) (a : Nat), s.serves .top = true → Settled s → a = s.reg64 (pgTop + 0x050) % 2 ^ 48 → s.top.slice = none → a % 64 = 0 →
    s.reachableRange a 576 = true → s.badPa a 576 = false → planFld (s.readPa a 576) 8 8 = s.reg64 (pgTop + 0x044) →
    planOk (s.readPa a 576) = true → ∃ t, exec .planLoad s = .next t ∧ t.top.plan = some (s.readPa a 576) ∧
      t.reg (pgTop + 0x040) = (planFld (s.readPa a 576) 16 4 + 2 ^ 31) % 2 ^ 32) ∧
  (∀ (s : State) (a : Nat), s.serves .top = true → a = s.reg64 (pgTop + 0x050) % 2 ^ 48 → s.top.slice = none → a % 64 = 0 →
    s.reachableRange a 576 = true → s.anyHeld a 576 = true →
    exec .planLoad s = .next { s with chanWait := s.chanWait ++ [.plan] }) ∧
  (∀ s : State, s.serves .top = true → s.top.slice.isSome = true → exec .planLoad s = .next (s.refuse (pgTop + 0x058) 0x0D)) ∧
  (∀ s : State, s.serves .top = true → s.top.slice = none → s.reg64 (pgTop + 0x050) % 2 ^ 48 % 64 ≠ 0 →
    exec .planLoad s = .next (s.refuse (pgTop + 0x058) 0x05)) ∧
  (∀ s : State, s.serves .top = true → s.top.slice = none → exec .detload s = .next (s.refuse (pgTop + 0x090) 0x0D)) ∧
  ∀ (s : State) (i : SliceInfo) (d : NMap Word), s.serves .top = true → Settled s → s.top.slice = some i →
    s.readDetours i (s.reg64 (pgTop + 0x088) % 2 ^ 48) = .ok d → exec .detload s = .next { s with top := { s.top with detours := d } }

/-- PACKET_RECEIVE, FLOW_PACKET_DELIVER, FLOW_ACK_SEND, FLOW_ACK_RECEIVE, FLOW_RESEND_TIMEOUT and LINK_DOWN_FAILOVER: a
packet that is not of the slice is dropped and counted, one for this module is taken, others go on; a flow delivers in order
and holds what comes early; an acknowledgement frees packets; the oldest packet is resent, and after 16 resends the event is
JOB_FATAL with reason 0x82; a link that went `DOWN` degrades its port and moves its flows (R492, R496, R499 to R502, R505 to
R507, R552). -/
def Obligations.PacketsAndFlows : Prop :=
  (∀ (s : State) (l : LinkId) (vl : VLane) (p : Packet), maxPayload (s.link l).v2 < p.payload.length →
    exec (.packetReceive l vl p) s = .fault (.illFormed "PACKET_RECEIVE")) ∧
  (∀ (s : State) (l : LinkId) (vl : VLane) (p : Packet), p.payload.length ≤ maxPayload (s.link l).v2 → (s.link l).st ≠ 4 →
    exec (.packetReceive l vl p) s = .next s) ∧
  (∀ (s s0 : State) (l : LinkId) (vl : VLane) (p : Packet), p.payload.length ≤ maxPayload (s.link l).v2 → (s.link l).st = 4 →
    s0 = (s.setLink l { s.link l with rxPkts := (s.link l).rxPkts.erase (vl.val, p) }).sendCredit l vl 1 →
    (s.looped l = false → s0.out = .credit l vl 1 :: s.out ∧ { s0 with links := s.links, out := s.out } = s) ∧
    (s.sliceAllows p = false → ∃ t, exec (.packetReceive l vl p) s = .next t ∧
      t.reg (pgTop + 0x098) = min (s0.reg (pgTop + 0x098) + 1) 0xFFFFFFFF ∧ (∀ o, o ≠ pgTop + 0x098 → t.reg o = s0.reg o) ∧
      { t with regs := s0.regs } = s0) ∧
    (s.sliceAllows p = true → p.detour = false → p.dst.toNat = s.coord → exec (.packetReceive l vl p) s =
      .next { s0 with top := { s0.top with dest := s0.top.dest ++ [(p, l.val / 2)] } }) ∧
    (s.sliceAllows p = true → p.detour = false → p.dst.toNat ≠ s.coord → exec (.packetReceive l vl p) s =
      .next (s0.hop p ((s.linkDir l).map fun d => (d / 2, vl.val)) none).1)) ∧
  (∀ (s : State) (p : Packet) (i : SliceInfo), s.top.slice = some i → maxPayload i.v2 < p.payload.length →
    exec (.flowPacketDeliver p) s = .fault (.illFormed "FLOW_PACKET_DELIVER")) ∧
  (∀ (s : State) (p : Packet) (i : SliceInfo), s.top.slice = some i → p.payload.length ≤ maxPayload i.v2 →
    (p.kind = 5 ∨ s.pw.powered = false) → exec (.flowPacketDeliver p) s = .next s) ∧
  (∀ (s : State) (p : Packet) (i : SliceInfo), s.pw.powered = true → s.top.slice = some i → p.payload.length ≤ maxPayload i.v2 → p.kind ≠ 5 →
    (s.sliceAllows p = false ∨ p.dst.toNat ≠ s.coord) → ∃ t, exec (.flowPacketDeliver p) s = .next t ∧
      t.reg (pgTop + 0x098) = min (s.reg (pgTop + 0x098) + 1) 0xFFFFFFFF ∧ { t with top := s.top, regs := s.regs } = s) ∧
  (∀ (s s0 s1 : State) (p : Packet) (i : SliceInfo) (f : FlowRx), s.pw.powered = true → s.top.slice = some i →
    p.payload.length ≤ maxPayload i.v2 →
    p.kind ≠ 5 → s.sliceAllows p = true → p.dst.toNat = s.coord → s.top.dest = [(p, 0)] →
    s0 = { s with top := { s.top with dest := [] } } → s.flowRxOf (pktKey p) = f → f.held = [] →
    (p.fseq.toNat + 2 ^ 32 - f.high) % 2 ^ 32 = 1 → f.owed < 63 →
    s1 = s0.setFlowRx { f with die := 0, high := (f.high + 1) % 2 ^ 32, owed := f.owed + 1 } →
    exec (.flowPacketDeliver p) s = .next (if s1.packetHeld p then s else s1.takePacket p)) ∧
  (∀ (s s0 : State) (p : Packet) (i : SliceInfo) (f : FlowRx), s.pw.powered = true → s.top.slice = some i →
    p.payload.length ≤ maxPayload i.v2 →
    p.kind ≠ 5 → s.sliceAllows p = true → p.dst.toNat = s.coord → s.top.dest = [(p, 0)] →
    s0 = { s with top := { s.top with dest := [] } } → s.flowRxOf (pktKey p) = f → (∀ q ∈ f.held, q.fseq ≠ p.fseq) →
    2 ≤ (p.fseq.toNat + 2 ^ 32 - f.high) % 2 ^ 32 → (p.fseq.toNat + 2 ^ 32 - f.high) % 2 ^ 32 ≤ 4096 →
    s.reorderBytes 0 + 32 + p.payload.length ≤ 2 ^ 22 →
    exec (.flowPacketDeliver p) s = .next (s0.setFlowRx { f with die := 0, held := p :: f.held })) ∧
  (∀ (s : State) (k : FlowKey), (s.flowRxOf k).owed = 0 → exec (.flowAckSend k) s = .next s) ∧
  (∀ (s : State) (k : FlowKey) (i : SliceInfo), (s.flowRxOf k).owed ≠ 0 → s.top.slice = some i →
    ∃ t, exec (.flowAckSend k) s = .next t ∧ (t.flowRxOf k).owed = (s.unaccepted k).length ∧
      (t.flowRxOf k).high = (s.flowRxOf k).high) ∧
  (∀ (s : State) (k : FlowKey) (e : Packet × Nat), (∀ p ∈ s.flowWait, pktKey p ≠ k) →
    s.top.dest.find? (fun e => e.1.kind == 5 && e.1.dst == k.src && e.1.src == k.dst && e.1.cls == k.cls && e.1.flow == k.flow) =
      some e → ∃ t, exec (.flowAckReceive k) s = .next t ∧ t.top.dest = s.top.dest.erase e ∧
      (t.flowTxOf k).unacked = ((s.flowTxOf k).unacked.filter fun u =>
        decide (0 < (u.1.fseq.toNat + 2 ^ 32 - e.1.fseq.toNat) % 2 ^ 32) &&
          decide ((u.1.fseq.toNat + 2 ^ 32 - e.1.fseq.toNat) % 2 ^ 32 < 2 ^ 31)) ∧
      (s.flowWait = [] → s.ras.recov = [] → (∀ f ∈ s.flowTx, ∀ l, f.link = some l → (s.link l).st ≠ 0) → t.mem = s.mem)) ∧
  (∀ (s : State) (k : FlowKey), s.top.dest = [] → exec (.flowAckReceive k) s = .next s) ∧
  (∀ (s : State) (k : FlowKey), (s.flowTxOf k).unacked = [] → exec (.flowResendTimeout k) s = .next s) ∧
  (∀ (s : State) (k : FlowKey) (p : Packet) (n : Nat) (rest : List (Packet × Nat)), (s.flowTxOf k).unacked = (p, n) :: rest →
    n < 16 → ∃ t, exec (.flowResendTimeout k) s = .next t ∧ (t.flowTxOf k).unacked = (p, n + 1) :: rest) ∧
  (∀ (s : State) (k : FlowKey) (p : Packet) (rest : List (Packet × Nat)), (s.flowTxOf k).unacked = (p, 16) :: rest →
    ∃ t e, exec (.flowResendTimeout k) s = .next t ∧ t.ras.fatals = s.ras.fatals ++ [e] ∧ e.cls = 3 ∧ e.reason = 0x82 ∧
      (t.flowTxOf k).unacked = (p, 17) :: rest) ∧
  (∀ (s : State) (k : FlowKey) (p : Packet) (n : Nat) (rest : List (Packet × Nat)), (s.flowTxOf k).unacked = (p, n) :: rest →
    16 < n → exec (.flowResendTimeout k) s = .next s) ∧
  (∀ (s : State) (l : LinkId), ((s.link l).st ≠ 0 ∨ s.pw.powered = false) → exec (.linkDownFailover l) s = .next s) ∧
  (∀ (s : State) (l : LinkId), s.pw.powered = true → (s.link l).st = 0 → (s.link l).fell = none → (s.link l).waitPkts = [] →
    (∀ f ∈ s.flowTx, f.link ≠ some l.val) → s.ras.recov = [] →
    ∃ t, exec (.linkDownFailover l) s = .next t ∧ t.link l = s.link l ∧ { t with links := s.links } = s) ∧
  (∀ (s : State) (l : LinkId) (n : Nat), s.pw.powered = true → (s.link l).st = 0 → (s.link l).fell = some n →
    (s.link l).waitPkts = [] → s.flowTx = [] → ∃ t, exec (.linkDownFailover l) s = .next t ∧ t.rbit (pgTop + 0x0A4) 1 = true ∧
      (1, 260) ∈ t.msix ∧ (t.link l).fell = none ∧ (s.portPeersUp l ≠ [] → s.ras.recov = [] → t.ras.seq = s.ras.seq + 1)) ∧
  ∀ (s : State) (l : LinkId) (f : FlowTx) (n : Nat), s.pw.powered = true → (s.link l).st = 0 → (s.link l).fell = some n →
    s.flowTx = [f] → f.link = some l.val →
    ∃ t, exec (.linkDownFailover l) s = .next t ∧ t.rbit (pgTop + 0x0A4) 1 = true ∧ (1, 260) ∈ t.msix ∧
      (t.flowTxOf f.key).unacked = f.unacked

/-- ALL_REDUCE, REDUCE_SCATTER, ALL_GATHER, BROADCAST, ALL_TO_ALL_V and BARRIER: a group of one module moves its source to
its destination and records OK; a source that does not translate ends it with reason 0x06 and JOB_FATAL (R525, R528, R530,
R531, R533, R535). -/
def Obligations.Collectives : Prop :=
  (∀ (s s1 : State) (q : ColQueue) (k : Fin 6) (c : Coll) (i : SliceInfo) (l : List (Nat × Bool)), k.val < 4 →
    s.someHeld = false → collReady s q k c i → collAlone s c i → c.direct = false → c.root = 0 → 0 < c.count → l.length = c.count →
    (∀ e ∈ l, e.2 = false) → s.collRead { c with running := true } c.src c.count = (some l, s1) →
    ∃ t d, exec (collOf q k) s = .next t ∧ (t.colQ q).cur = some d ∧ d.done = some (0, 0) ∧ d.running = true ∧ d.hdr = c.hdr ∧
      t.mem = (s1.vaPut c.dst (elemBytes c.esz (l.map (·.1))) false).mem) ∧
  (∀ (s s2 : State) (q : ColQueue) (c : Coll) (i : SliceInfo) (so n ro m : Nat) (l : List (Nat × Bool)), n ≠ m →
    s.someHeld = false → collReady s q 4 c i → collAlone s c i → c.tbl = [[so, n, ro, m]] →
    s.collRead { c with running := true } (c.src + so * c.esz) n = (some l, s2) →
    ∃ t e, exec (.allToAllV q) s = .next t ∧ t.ras.fatals = s2.ras.fatals ++ [e] ∧ e.cls = 3 ∧ e.reason = 0x85 ∧
      (s2.rbit (pgRas + 0x040) 3 = false → t.mem = s2.mem)) ∧
  (∀ (s s2 : State) (q : ColQueue) (c : Coll) (i : SliceInfo) (so n ro : Nat) (l : List (Nat × Bool)), s.someHeld = false →
    collReady s q 4 c i → collAlone s c i → 0 < n → l.length = n → (∀ e ∈ l, e.2 = false) → c.tbl = [[so, n, ro, n]] →
    s.collRead { c with running := true } (c.src + so * c.esz) n = (some l, s2) →
    ∃ t d, exec (.allToAllV q) s = .next t ∧ (t.colQ q).cur = some d ∧ d.done = some (0, 0) ∧ d.running = true ∧
      t.mem = (s2.vaPut (c.dst + ro * c.esz) (elemBytes c.esz (l.map (·.1))) false).mem) ∧
  (∀ (s : State) (q : ColQueue) (c : Coll) (i : SliceInfo), collReady s q 5 c i → collAlone s c i → c.direct = false → c.poisoned = false →
    ∃ t d, exec (.barrier q) s = .next t ∧ (t.colQ q).cur = some d ∧ d.done = some (0, 0) ∧ t.mem = s.mem) ∧
  (∀ (s s1 : State) (q : ColQueue) (k : Fin 6) (c : Coll) (i : SliceInfo), (k.val = 0 ∨ k.val = 2) → s.someHeld = false → collReady s q k c i →
    s.collRead { c with running := true } c.src c.count = (none, s1) →
    ∃ t e, exec (collOf q k) s = .next t ∧ (t.colQ q).cur = some { c with running := true, deadline := none, done := some (3, 0x06) } ∧
      t.ras.fatals = s1.ras.fatals ++ [e] ∧ e.cls = 3 ∧ e.reason = 0x06 ∧ (s1.rbit (pgRas + 0x040) 3 = false → t.mem = s1.mem)) ∧
  ∀ (s : State) (q : ColQueue) (k : Fin 6), ((s.colQ q).cur = none ∨ s.top.slice = none ∨ s.working = false) →
    exec (collOf q k) s = .next s

/-- COLLECTIVE_ACCEPT, COLLECTIVE_PACKET_RECEIVE, COLLECTIVE_WAIT_DEADLINE, COLLECTIVE_COMPLETE and SLOW_RELAY_END: the
numbering of accepted collectives, the check of a packet against its collective or dispatch, the deadline, the record (R524
to R526, R531, R536, R538 to R541). -/
def Obligations.CollectiveQueues : Prop :=
  (∀ (s s1 s2 : State) (q : ColQueue) (i : SliceInfo) (p : Page) (h k m : Nat) (l : List Byte) (b : Bool), s.top.slice = some i →
    (s.colQ q).cur = none → s.working = true → s.someHeld = false → s.rbit (pgColQ q) 0 = true →
    s.xlate (agLinkDie 0) (s.reg64 (pgColQ q + 0x10) % 2 ^ 48) true false = (some p, s1) → s1.objAt p.pa = some (.ctr h k) →
    (s1.ctr h k).value ≠ 0 → (s1.colQ q).ahead = [] →
    s1.vaRead (agLinkDie 0) (s1.reg64 (pgColQ q + 8) % 2 ^ 48 +
      64 * (((s1.colQ q).head + 0) % 2 ^ s1.rfld (pgColQ q) 1 4)) 64 = (some (l, b), s2) →
    m = max 1 (dfld (ofBytes l) 5 1) → m ≠ 3 → m ≤ (s2.ctr h k).value →
    ∃ t c, exec (.collectiveAccept q) s = .next t ∧ (t.colQ q).cur = some c ∧
      c.idx = (s1.colQ q).head % 2 ^ s1.rfld (pgColQ q) 1 4 ∧ c.hdr = ofBytes l ∧
      c.cseq = (s1.colQ q).cseq ∧ (t.colQ q).cseq = ((s1.colQ q).cseq + 1) % 0x10000 ∧
      (t.colQ q).head = ((s1.colQ q).head + m) % 2 ^ s1.rfld (pgColQ q) 1 4) ∧
  (∀ (s s1 : State) (q : ColQueue) (i : SliceInfo) (p : Page) (h k : Nat), s.top.slice = some i → (s.colQ q).cur = none →
    s.working = true → s.rbit (pgColQ q) 0 = true →
    s.xlate (agLinkDie 0) (s.reg64 (pgColQ q + 0x10) % 2 ^ 48) true false = (some p, s1) → s1.objAt p.pa = some (.ctr h k) →
    (s1.ctr h k).value = 0 → exec (.collectiveAccept q) s = .next s1) ∧
  (∀ (s : State) (q : ColQueue), (s.top.slice = none ∨ s.working = false ∨ s.rbit (pgColQ q) 0 = false) →
    exec (.collectiveAccept q) s = .next s) ∧
  (∀ (s : State) (p : Packet), s.colIn.find? (fun o => pktKey o == pktKey p) ≠ some p →
    exec (.collectivePacketReceive p) s = .next s) ∧
  (∀ (s : State) (p : Packet), s.colIn.find? (fun o => pktKey o == pktKey p) = some p → s.working = false →
    exec (.collectivePacketReceive p) s = .next { s with colIn := s.colIn.erase p }) ∧
  (∀ (s : State) (p : Packet) (i : SliceInfo) (q : Nat), s.working = true →
    s.colIn.find? (fun o => pktKey o == pktKey p) = some p → p.slow = false → s.top.slice = some i →
    q = fld p.extra.toNat 0 4 → (s.colQ q).ahead = [] → (s.colQ q).cur = none →
    (fld p.extra.toNat 16 16 + 0x10000 - (s.colQ q).reached) % 0x10000 = 0 →
    ∃ t e, exec (.collectivePacketReceive p) s = .next t ∧ t.ras.fatals = s.ras.fatals ++ [e] ∧ e.cls = 3 ∧ e.reason = 0x84 ∧
      t.reg (pgCol 0 + 0x04C) = min (s.reg (pgCol 0 + 0x04C) + 1) 0xFFFFFFFF ∧ t.cols = s.cols ∧ (s.rbit (pgRas + 0x040) 3 = false → t.mem = s.mem)) ∧
  (∀ (s : State) (p : Packet) (i : SliceInfo) (q : Nat) (c : Coll), s.working = true →
    s.colIn.find? (fun o => pktKey o == pktKey p) = some p → p.slow = false →
    s.top.slice = some i → q = fld p.extra.toNat 0 4 → (s.colQ q).ahead = [] → (s.colQ q).cur = some c → c.type ≠ 6 →
    fld p.extra.toNat 16 16 = c.cseq → c.cseq < 2 ^ 16 → fld p.extra.toNat 8 8 = c.type → fld p.extra.toNat 32 8 = c.fmtByte →
    fld p.extra.toNat 40 8 = c.axes →
    (s.streamLens c (s.group i c.axes) c.tbl (2 * s.groupRank (s.group i c.axes) p.src.toNat + p.flow.toNat % 2))[
      (c.stream (2 * s.groupRank (s.group i c.axes) p.src.toNat + p.flow.toNat % 2)).length]? = some p.payload.length →
    exec (.collectivePacketReceive p) s = .next (({ s with colIn := s.colIn.erase p } : State).setColl q
      (c.push (2 * s.groupRank (s.group i c.axes) p.src.toNat + p.flow.toNat % 2) p.payload))) ∧
  (∀ (s : State) (p : Packet) (i : SliceInfo) (q : Nat), s.working = true →
    s.colIn.find? (fun o => pktKey o == pktKey p) = some p → p.slow = false → s.top.slice = some i →
    q = fld p.extra.toNat 0 4 → 1 ≤ (fld p.extra.toNat 16 16 + 0x10000 - (s.colQ q).reached) % 0x10000 →
    (fld p.extra.toNat 16 16 + 0x10000 - (s.colQ q).reached) % 0x10000 < 0x8000 →
    (s.shortBy q p = false → exec (.collectivePacketReceive p) s = .next (({ s with colIn := s.colIn.erase p } : State).setColQ q
      { s.colQ q with ahead := (s.colQ q).ahead ++ [p] })) ∧
    (s.shortBy q p = true → (∀ o ∈ (s.colQ q).ahead, pktKey o ≠ pktKey p) → ∃ t e, exec (.collectivePacketReceive p) s = .next t ∧
      t.ras.fatals = s.ras.fatals ++ [e] ∧ e.cls = 3 ∧ e.reason = 0x85 ∧ t.cols = s.cols)) ∧
  (∀ (s : State) (p : Packet) (i : SliceInfo) (q j : Nat) (c : Coll) (e : Disp), s.working = true →
    s.colIn.find? (fun o => pktKey o == pktKey p) = some p → p.slow = false → s.top.slice = some i → q = fld p.extra.toNat 0 4 →
    (s.colQ q).ahead = [] → (s.colQ q).cur = some c → c.type = 6 → fld p.extra.toNat 16 16 = c.cseq → c.cseq < 2 ^ 16 →
    fld p.extra.toNat 8 8 = c.type → fld p.extra.toNat 32 8 = c.fmtByte → fld p.extra.toNat 40 8 = c.axes →
    s.disps.find? (fun e => e.2.queue == q) = some (j, e) →
    (s.dispLenOk e i (s.rankOf i p.src.toNat) p.payload = true → ∃ t, exec (.collectivePacketReceive p) s = .next t ∧
      t.disp j = some (e.take_ (s.rankOf i p.src.toNat) p.payload) ∧ t.ras = s.ras) ∧
    (s.dispLenOk e i (s.rankOf i p.src.toNat) p.payload = false → ∃ t v, exec (.collectivePacketReceive p) s = .next t ∧
      t.ras.fatals = s.ras.fatals ++ [v] ∧ v.cls = 3 ∧ v.reason = 0x85 ∧ t.disps = s.disps)) ∧
  (∀ (s : State) (q : ColQueue) (c : Coll) (d : Nat), (s.colQ q).cur = some c → c.done = none → d ≤ s.now.toNat →
    (c.deadline = some d ∨ ∃ e ∈ s.disps, e.2.queue = q.val ∧ ∃ w ∈ e.2.dues, w.2 = d) → ∃ t e, exec (.collectiveWaitDeadline q) s = .next t ∧
      (t.colQ q).cur = some { c with deadline := none, done := some (6, 0x86) } ∧ t.ras.fatals = s.ras.fatals ++ [e] ∧
      e.cls = 3 ∧ e.reason = 0x86 ∧ t.reg (pgCol 0 + 0x050) = min (s.reg (pgCol 0 + 0x050) + 1) 0xFFFFFFFF ∧
      (∀ o, o ≠ pgCol 0 + 0x050 → o / 0x1000 ≠ pgRas / 0x1000 → t.reg o = s.reg o) ∧
      (s.rbit (pgRas + 0x040) 3 = false → t.mem = s.mem)) ∧
  (∀ (s : State) (q : ColQueue) (c : Coll) (d : Nat), (s.colQ q).cur = some c → c.deadline = some d → s.now.toNat < d →
    (∀ e ∈ s.disps, e.2.queue = q.val → ∀ w ∈ e.2.dues, s.now.toNat < w.2) → exec (.collectiveWaitDeadline q) s = .next s) ∧
  (∀ (s : State) (q : ColQueue) (c : Coll) (r : Nat × Nat), s.someHeld = false → (s.colQ q).cur = some c → c.done = some r →
    ∃ t, exec (.collectiveComplete q) s = .next t ∧ (t.colQ q).cur = none ∧
      t.reg64 (pgCol 0 + 0x058) = (s.reg64 (pgCol 0 + 0x058) + 1) % 2 ^ 64) ∧
  (∀ (s : State) (q : ColQueue) (c : Coll), (s.colQ q).cur = some c → c.done = none → exec (.collectiveComplete q) s = .next s) ∧
  (∀ s : State, s.top.slowRelay = true → s.top.slowAt + 1000000 ≤ s.now.toNat →
    exec .slowRelayEnd s = .next { s with top := { s.top with slowRelay := false } }) ∧
  ∀ s : State, (s.top.slowRelay = false ∨ s.now.toNat < s.top.slowAt + 1000000) → exec .slowRelayEnd s = .next s

/-- JOB_FORM, JOB_FORM_TIMEOUT and DISSOLVE: a slice is formed when every check holds and the slice agrees, and its flows
start afresh; it waits for agreement; it ends (R511 to R515). -/
def Obligations.SliceForming : Prop :=
  (∀ (s : State) (q : QueueId) (agreed : Bool) (c : HCmd) (b : Nat) (ds : List Nat), Settled s → s.hostNext q 0x0D = some c →
    s.top.slice = none → s.top.forming = none → s.reachableRange (dfld c.raw 16 8) 64 = true →
    s.badPa (dfld c.raw 16 8) 64 = false → b = s.readPaNat (dfld c.raw 16 8) 64 → s.top.plan.isSome = true → s.jfOk b = true →
    jfPlan b = s.reg64 (pgTop + 0x060) → s.inSlice (s.jfSlice b) s.coord = true → (s.jfSlice b).size ≤ 1024 →
    jfDetour b = false → s.portsOk (s.jfSlice b) = true → s.readDecls (s.jfSlice b) (jfDecls b) (jfCount b) = .ok ds →
    ∃ t, exec (.jobForm q true agreed) s = .next t ∧
      (agreed = true → t.top.slice = some { s.jfSlice b with sig := s.jobSig b } ∧ t.top.decls = ds ∧ t.top.detours = [] ∧
        t.flowTx = [] ∧ t.flowRx = [] ∧ t.queues = (s.hostEnd q c.cid hsOk 0 (s.jfSlice b).rank).queues) ∧
      (agreed = false → t.top.slice = none ∧ t.top.forming = some { s.jfSlice b with sig := s.jobSig b } ∧
        t.top.host = [(q.val, c.cid)] ∧ t.queues = (s.hostStart q c.cid).queues) ∧ t.mem = s.mem) ∧
  (∀ (s : State) (q : QueueId) (sigs agreed : Bool) (c : HCmd), s.hostNext q 0x0D = some c → s.top.slice.isSome = true →
    exec (.jobForm q sigs agreed) s = .next (s.hostEnd q c.cid hsRefused 0x0D 0)) ∧
  (∀ (s : State) (q : QueueId) (sigs agreed : Bool) (c : HCmd), Settled s → s.hostNext q 0x0D = some c → s.top.slice = none →
    s.top.forming = none → s.reachableRange (dfld c.raw 16 8) 64 = true → s.badPa (dfld c.raw 16 8) 64 = false →
    s.top.plan = none → exec (.jobForm q sigs agreed) s = .next (s.hostEnd q c.cid hsRefused 0x84 0)) ∧
  (∀ (s : State) (q cid : Nat) (i : SliceInfo), s.top.forming = some i → s.top.host = [(q, cid)] →
    exec .jobFormTimeout s =
      .next (({ s with top := { s.top with forming := none, host := [] } } : State).hostEnd q cid hsTimeout 0 0)) ∧
  (∀ s : State, s.top.forming = none → exec .jobFormTimeout s = .next s) ∧
  (∀ s : State, s.top.slice = none → exec .dissolve s = .next s) ∧
  (∀ s : State, s.top.slice.isSome = true → (s.flowsBusy = true ∨ ∃ p ∈ s.cols, p.2.cur.isSome = true) →
    exec .dissolve s = .next (s.refuse (pgTop + 0x074) 0x0D)) ∧
  ∀ s : State, s.top.slice.isSome = true → s.flowsBusy = false → (∀ p ∈ s.cols, p.2.cur = none) →
    ∃ t, exec .dissolve s = .next t ∧ t.top.slice = none ∧ t.top.decls = [] ∧ t.flowTx = [] ∧ t.flowRx = [] ∧
      (s.ras.recov = [] → t.mem = s.mem ∧ t.regs = s.regs) ∧ ∀ e ∈ t.seqRx, e.1 % 0x10000 / 0x2000 ≠ 3

/-- JOB_FATAL_HALT, HALT_TIMEOUT, DEVICE_FATAL, HALTCTL_HALT, ERRINJ, ABORT_RECEIVE, ABORT_REPEAT, JOB_ABORT,
STACK_LINK_FAILURE and STACK_LINK_FLIT_RESEND: a JOB_FATAL event is recorded when it is detected, the halt raises its
vectors, a device-fatal event sets DFATAL and reports an AER error, the first abort halts the module with its cause, an echo
is noted (R544, R546, R552, R555, R556, R560, R563, R564, R568). -/
def Obligations.FaultsAndAborts : Prop :=
  (∀ (s : State) (e : Event) (l : List Event), s.ras.fatals = e :: l → ∃ t, exec .jobFatalHalt s = .next t ∧
    t.ras.halted = true ∧ (1, 258) ∈ t.msix ∧ (0, 0) ∈ t.msix ∧
    t.ras.fatals = []) ∧
  (∀ s : State, s.ras.fatals = [] → exec .jobFatalHalt s = .next s ∧ exec .haltTimeout s = .next s) ∧
  (∀ s : State, s.ras.fatals ≠ [] → ∃ t, exec .haltTimeout s = .next t ∧ t.ras.dfatal = true ∧ t.out.head? = some (.aer 0)) ∧
  (∀ (s : State) (cause : Byte) (detail : Word), s.pw.powered = true → ∃ t, exec (.deviceFatal cause detail) s = .next t ∧ t.ras.dfatal = true ∧
    (1, 256) ∈ t.msix ∧ (0, 0) ∈ t.msix ∧ t.out.head? = some (.aer cause.toNat) ∧
    (s.rbit (pgRas + 0x080) 31 = false → t.reg (pgRas + 0x080) =
      cause.toNat + 2 ^ 8 * (detail.toNat % 256) + 2 ^ 16 * (detail.toNat / 256 % 256) + 2 ^ 31)) ∧
  (∀ s : State, s.serves .ras = true → ∃ t e, exec .haltctlHalt s = .next t ∧ t.ras.fatals = s.ras.fatals ++ [e] ∧ e.cls = 3 ∧
    e.reason = 0x81 ∧ t.ras.seq = s.ras.seq + 1 ∧ (s.ras.noted = false → t.ras.noted = true ∧
      t.reg (pgRas + 0x074) = e.reason % 256 + 2 ^ 8 * (e.btype % 256) + 2 ^ 16 * (e.inst % 256) + 2 ^ 31 ∧
      t.reg64 (pgRas + 0x078) = s.now.toNat) ∧
    (s.rbit (pgRas + 0x040) 3 = false → { t with ras := s.ras, boot := s.boot, regs := s.regs } = s)) ∧
  (∀ (s : State) (off : Bar0Off) (v : Word), off.toNat / 0x1000 < 0x50 → exec (.errinj .pf1 off v) s = .next s) ∧
  (∀ (s : State) (fn : Fn) (off : Bar0Off) (b : Block) (n : Nat), s.serves b = true → (fn = .pf0 ∨ 0x50 ≤ off.toNat / 0x1000) →
    off.toNat % 0x1000 = 0x024 → pageOf (off.toNat / 0x1000) = some (b, n) →
    exec (.errinj fn off 4) s = .next (s.setErr (off.toNat / 0x1000 * 0x1000) 2)) ∧
  (∀ (s : State) (l : LinkId) (ab : AbortInfo), (s.linkUp l = false ∨ s.abortIsOurs ab = false) →
    exec (.abortReceive l ab) s = .next s) ∧
  (∀ (s : State) (l : LinkId) (ab : AbortInfo), s.linkUp l = true → s.abortIsOurs ab = true → ab.echo = true →
    s.top.abortCause = none → exec (.abortReceive l ab) s = .next (s.setLink l { s.link l with echoed := true })) ∧
  (∀ (s : State) (l : LinkId) (ab : AbortInfo), s.linkUp l = true → s.abortIsOurs ab = true → ab.echo = false →
    s.top.abortCause = none → ∃ t, exec (.abortReceive l ab) s = .next t ∧ t.ras.halted = true ∧
      t.top.abortCause = some ab.cause.toNat ∧ .flit l (mkFlit (s.link l).v2 3 0 0 (s.link l).lack (abortBody { ab with echo := true })) ∈ t.out ∧ (1, 258) ∈ t.msix ∧
      t.reg (pgCol 0 + 0x048) = ab.cause.toNat + 2 ^ 8 * (ab.origin.toNat % 1024) + 2 ^ 31) ∧
  (∀ (s : State) (l : LinkId) (i : SliceInfo) (cause d : Nat), s.top.slice = some i → s.top.abortCause = some cause →
    s.linkDir l = some d → s.linkUp l = true → (s.neighbourDirs i).contains d = true →
    (∀ m ∈ s.dirLinks d, (s.link m).echoed = false) → ∃ t a, exec (.abortRepeat l) s = .next t ∧
      t.out = .flit l (mkFlit (s.link l).v2 3 0 0 (s.link l).lack (abortBody a)) :: s.out ∧ a.echo = false ∧ a.cause = BitVec.ofNat 8 cause ∧ { t with out := s.out } = s) ∧
  (∀ (s : State) (l : LinkId), s.top.abortCause = none → exec (.abortRepeat l) s = .next s) ∧
  (∀ (s : State) (q : QueueId) (c : HCmd), s.hostNext q 0x0E = some c → s.top.slice = none →
    exec (.jobAbort q) s = .next (s.hostEnd q c.cid hsRefused 0x0D 0)) ∧
  (∀ (s : State) (q : QueueId) (c : HCmd), s.hostNext q 0x0E = some c → s.top.slice.isSome = true → s.top.abortCause = none →
    ∃ t e, exec (.jobAbort q) s = .next t ∧ t.ras.fatals = s.ras.fatals ++ [e] ∧ e.cls = 3 ∧ e.reason = 0x87 ∧
      t.top.host = s.top.host ++ [(q.val, c.cid)] ∧ (s.rbit (pgRas + 0x040) 3 = false → t.mem = s.mem)) ∧
  (∀ (s : State) (x : StackId), s.ready = true → bitOf s.boot.stackSet.toNat x = true → (s.server x).fenced = false →
    ∃ t e, exec (.stackLinkFailure x) s = .next t ∧ (t.server x).fenced = true ∧ (t.server x).queues = [] ∧
      e ∈ t.ras.fatals ∧ e.cls = 3 ∧ e.reason = 0 ∧ e.inst = x.val) ∧
  (∀ (s : State) (x : StackId), (s.server x).fenced = true → exec (.stackLinkFailure x) s = .next s) ∧
  ∀ (s : State) (x : StackId), s.ready = true → bitOf s.boot.stackSet.toNat x = true →
    ∃ t, exec (.stackLinkFlitResend x) s = .next t ∧ t.reg (pgRas + 0x060) = min (s.reg (pgRas + 0x060) + 1) 0xFFFFFFFF ∧
      t.servers = s.servers ∧ t.units = s.units

/-- BOOT_BIST, FWADDR_HI_WRITE, VERIFY, TRAIN, LOAD, SECTION_FETCH, READY and ARBCTL_COMMIT: each state of the boot goes on
to the next, or to `FAIL` or back to `WAITFW` with its reason, and a command of another state changes nothing; READY opens
the pages of the enabled units; the commit blows `ARB` up to the bundle's SVN (R595, R599, R601, R606, R610 to R613, R616,
R633). -/
def Obligations.BootStates : Prop :=
  (∀ (s : State) (f : FuseReads) (l : List BootUnit), f.first.length = 0x800 →
    (s.boot.state ≠ 1 ∨ s.pw.perst = true ∨ s.pw.pwrgd = false) → exec (.bootBist f l) s = .next s) ∧
  (∀ (s : State) (f : FuseReads) (l : List BootUnit), f.first.length = 0x800 → s.boot.state = 1 → s.pw.perst = false →
    s.pw.pwrgd = true → ∃ t, exec (.bootBist f l) s = .next t ∧ (0, 1) ∈ t.msix ∧ t.mem = s.mem ∧ t.hostMem = s.hostMem ∧
      (fuseGood f = none → t.boot.state = 7 ∧ t.boot.lastErr = 0x89 ∧ t.boot.fuses = s.boot.fuses) ∧
      ∀ img g, fuseGood f = some img → g = (if s.boot.fuses.isEmpty then img else s.boot.fuses) → t.boot.fuses = g ∧
        ((.hub ∈ l ∨ .cpd ∈ l ∨ .bridge ∈ l) → t.boot.state = 7 ∧ t.boot.lastErr = 0x8A) ∧
        (.hub ∉ l → .cpd ∉ l → .bridge ∉ l →
          (∀ h : HomeId, (bitOf (fuseFld g 0x080 4) h = true ∨ .clusterLogic h ∈ l) →
            bitOf t.boot.clusters.toNat h = false) ∧
          (t.boot.clusters ≠ 0 → t.boot.stackSet ≠ 0 → t.boot.state = 2 ∧ t.boot.lastErr = s.boot.lastErr))) ∧
  (∀ (s : State) (v : Word), s.serves .hub = true → s.boot.state ≠ 2 → exec (.fwaddrHiWrite v) s = .next (s.refuse (pgHub 2 + 0x04C) 0x0D)) ∧
  (∀ (s : State) (v : Word) (a : Nat), s.serves .hub = true → s.boot.state = 2 →
    a = s.reg (pgHub 2 + 0x048) + 2 ^ 32 * (v.toNat % 2 ^ 16) → ∃ t, exec (.fwaddrHiWrite v) s = .next t ∧ (0, 1) ∈ t.msix ∧
      (a % 4096 = 0 → 0x40000000000 ≤ a → a < 0x80000000000 → t.boot = { s.boot with bundle := a, state := 3 }) ∧
      (a % 4096 ≠ 0 ∨ a < 0x40000000000 ∨ 0x80000000000 ≤ a → t.boot = { s.boot with lastErr := 0x87 }) ∧ t.mem = s.mem) ∧
  (∀ s : State, s.boot.state ≠ 3 → exec .verify s = .next s) ∧
  (∀ (s : State) (n : Nat) (m key sig : List Byte), s.boot.state = 3 → n = s.readPaNat (s.boot.bundle + 6) 2 % 4097 →
    m = s.readPa s.boot.bundle (64 + 64 * n) → key = s.readPa (s.boot.bundle + 64 + 64 * n) 1312 →
    sig = s.readPa (s.boot.bundle + 64 + 64 * n + 1312) 2420 → ∃ t, exec .verify s = .next t ∧ (0, 1) ∈ t.msix ∧ t.mem = s.mem ∧
      (∀ r, s.verifyCheck m key sig = some r → t.boot = { s.boot with lastErr := r, bundle := 0, state := 2 }) ∧
      (s.verifyCheck m key sig = none → s.boot.bundle + manFld m 16 8 ≤ 0x80000000000 →
        t.boot = { s.boot with manifest := m, pubkey := key, state := 4 })) ∧
  (∀ (s : State) (r : TrainResult), r.rates.length = 4 → s.boot.state ≠ 4 → exec (.train r) s = .next s) ∧
  (∀ (s : State) (r : TrainResult), r.rates.length = 4 → s.boot.state = 4 → ∃ t, exec (.train r) s = .next t ∧
    t.boot.rates = r.rates.map (·.val) ∧ (0, 1) ∈ t.msix ∧ t.mem = s.mem ∧
    (t.boot.stackSet ≠ 0 → t.boot.state = 5) ∧ (t.boot.stackSet = 0 → t.boot.state = 7 ∧ t.boot.lastErr = 0x8A) ∧
    (r.failedPch = [] → t.boot.hchOut = s.boot.hchOut) ∧
    (∀ x < 16, bitOf t.boot.stackSet.toNat x = true ↔
      bitOf s.boot.stackSet.toNat x = true ∧ (t.boot.hchOut.filter fun c => c / 32 == x).length ≤ 1) ∧
    ∀ c < 96, bitOf t.boot.rhzMapped.toNat c = true → ∀ x ∈ r.failedRhz, x.val ≠ c) ∧
  (∀ s : State, (s.boot.state ≠ 5 ∨ s.boot.loaded = true) → exec .load s = .next s) ∧
  (∀ (s : State) (m : List Byte) (mib base : Nat), s.boot.state = 5 → s.boot.loaded = false → m = s.boot.manifest →
    manFld m 16 8 ≤ 2 ^ 28 → mib = (manFld m 16 8 + 2 ^ 26 - 1) / 2 ^ 26 * 64 → base = (s.imgRegion + 1) * 2 ^ 30 - mib * 2 ^ 20 →
    ∃ t, exec .load s = .next t ∧ t.hostMem = s.hostMem ∧ t.regs = s.regs ∧ t.cores = s.cores ∧
      ((∀ j < manSections m, sha3 (t.readPa (base + secOffset m j) (secLength m j)) = secDigest m j) →
        t.boot = { s.boot with imgBase := base, imgMib := mib, loaded := true }) ∧
      (∀ j < manSections m, sha3 (t.readPa (base + secOffset m j) (secLength m j)) ≠ secDigest m j →
        t.boot = { s.boot with imgBase := base, imgMib := mib, loaded := true, lastErr := 0x84, state := 7 }) ∧
      (s.memOk = true → ∀ i < manFld m 16 8, t.byte (base + i) = (s.readPa s.boot.bundle (manFld m 16 8)).getD i 0)) ∧
  (∀ (s : State) (u : FwUnit) (b : Fin 3), (s.boot.state ≠ 5 ∨ s.boot.loaded = false ∨
      (u.kind.val, u.id.toNat) ∉ s.fwUnits ∨ s.fwLoaded u.kind.val u.id.toNat = true) →
    exec (.sectionFetch u b) s = .next s) ∧
  (∀ (s : State) (u : FwUnit) (b : Fin 3) (m : List Byte) (j : Nat), s.boot.state = 5 → s.boot.loaded = true →
    m = s.boot.manifest → sectionOf m u.kind.val u.id.toNat = some j →
    (u.kind.val, u.id.toNat) ∈ s.fwUnits → s.fwLoaded u.kind.val u.id.toNat = false → ∃ t, exec (.sectionFetch u b) s = .next t ∧
      ((b = 2 ∨ sha3 (s.readPa (s.boot.imgBase + secOffset m j) (secLength m j)) ≠ secDigest m j) → t.boot = { s.boot with
        errUnit := BitVec.ofNat 32 (u.kind.val + 2 ^ 16 * u.id.toNat + 2 ^ 31), lastErr := 0x84, state := 7 }) ∧
      (b ≠ 2 → sha3 (s.readPa (s.boot.imgBase + secOffset m j) (secLength m j)) = secDigest m j →
        t.boot = { s.boot with
          fetched := s.boot.fetched ++ [(u.kind.val, u.id.toNat)]
          fwMem := s.boot.fwMem ++ [((u.kind.val, u.id.toNat), s.readPa (s.boot.imgBase + secOffset m j) (secLength m j))] } ∧
        (u.kind.val = 1 → (t.core u.id.toNat).machine = true ∧
          (t.core u.id.toNat).pc = BitVec.ofNat 64 (s.fwEntry 1 u.id.toNat)) ∧
        (u.kind.val = 4 → s.pw.rackValid = true → s.pw.holdover = false → ∀ l : LinkId, l.val / 2 = u.id.toNat →
          bitOf s.boot.links.toNat l = true → (s.link l).st = 0 → (s.link l).held = false → (t.link l).st = 1))) ∧
  (∀ (s : State) (ms : Half), (s.boot.state ≠ 5 ∨ s.boot.loaded = false ∨ (s.fwUnits.all fun u => s.fwLoaded u.1 u.2) = false) →
    exec (.ready ms) s = .next s) ∧
  (∀ (s : State) (ms : Half), s.boot.state = 5 → s.boot.loaded = true → (s.fwUnits.all fun u => s.fwLoaded u.1 u.2) = true →
    ∃ t, exec (.ready ms) s = .next t ∧ t.boot = { s.boot with bootMs := ms.toNat, fatalSince := false, state := 6 } ∧
      (0, 1) ∈ t.msix ∧ (∀ pg ∈ s.readyPages, t.enabled pg = true) ∧ t.mem = s.mem ∧ t.cores = s.cores) ∧
  (∀ (s : State) (svn : Nat) (f : List Byte), svn = manFld s.boot.manifest 8 1 → f = s.boot.fuses →
    s.serves .hub = true → s.ready = true → bitOf (manFld s.boot.manifest 9 1) 0 = true → fusedSvn f < svn → s.boot.fatalSince = false →
    exec .arbctlCommit s = .next { s with boot := { s.boot with
      fuses := f.take 0x070 ++ toBytes 8 (fuseFld f 0x070 8 ||| (2 ^ svn - 1)) ++ f.drop 0x078 } }) ∧
  ∀ s : State, s.serves .hub = true → (s.ready = false ∨ bitOf (manFld s.boot.manifest 9 1) 0 = false ∨
      manFld s.boot.manifest 8 1 ≤ fusedSvn s.boot.fuses ∨ s.boot.fatalSince = true) →
    exec .arbctlCommit s = .next (s.refuse (pgHub 2 + 0x064) 0x0D)

/-- GETKEY, ATTEST, DBGCHAL and DBGUNLOCK answer with the 8-byte body header, the status and the body, and raise vector 3 of
PF0; a challenge's nonce serves one unlock; only a valid token on a device whose fuses allow it sets the unlocked scope (R617
to R621). The signature scheme and the random source are free values (log entries 3 and 14). -/
def Obligations.IdentityAndDebugUnlock : Prop :=
  (∀ s : State, s.doeOn = false → exec .getkey s = .next s ∧ exec .dbgchal s = .next s ∧
    (∀ l, exec (.attest l) s = .next s) ∧ ∀ l, exec (.dbgunlock l) s = .next s) ∧
  (∀ (s : State) (key : List Byte), s.doeOn = true → key = (Config.mldsaPublic s.idSeed).toList → ∃ t, exec .getkey s = .next t ∧
    t.boot = { s.boot with doeResp := [0x01, 0, 0, 0] ++ toBytes 4 1312 ++ key } ∧
    { t with boot := s.boot, msix := s.msix } = s ∧ (0, 3) ∈ t.msix) ∧
  (∀ (s : State) (nonce r sig : List Byte), s.doeOn = true → nonce.length = 32 → r = s.report nonce →
    sig = (Config.mldsaSign s.idSeed r).toList → ∃ t, exec (.attest nonce) s = .next t ∧
      t.boot = { s.boot with doeResp := [0x02, 0, 0, 0] ++ toBytes 4 (r.length + 2420) ++ r ++ sig } ∧
      { t with boot := s.boot, msix := s.msix } = s ∧ (0, 3) ∈ t.msix ∧
      (r.drop 4).take 32 = nonce ∧ r.getD 2 0 = (if s.boot.loaded then BitVec.ofNat 8 (manSections s.boot.manifest) else 0)) ∧
  (∀ s : State, s.doeOn = true → ∃ t n, exec .dbgchal s = .next t ∧ t.boot.nonce = some n ∧ n.length = 32 ∧
    t.boot.doeResp = [0x03, 0, 0, 0] ++ toBytes 4 ((fuseBytes s.boot.fuses 0 16).length + 32) ++ fuseBytes s.boot.fuses 0 16 ++ n ∧
    { t with boot := s.boot, msix := s.msix, free := s.free } = s ∧ (0, 3) ∈ t.msix ∧ t.boot.unlocked = s.boot.unlocked) ∧
  (∀ (s : State) (token : List Byte), s.doeOn = true → ∃ t, exec (.dbgunlock token) s = .next t ∧ t.boot.nonce = none ∧
    { t with boot := s.boot, msix := s.msix } = s ∧ (0, 3) ∈ t.msix ∧
    (fuseDbgOff s.boot.fuses = true → t.boot.doeResp = [0x04, 0x8C, 0, 0, 0, 0, 0, 0] ∧ t.boot.unlocked = s.boot.unlocked) ∧
    (fuseDbgOff s.boot.fuses = false → (s.boot.nonce ≠ some ((token.drop 20).take 32) ∨ token.length ≠ 3796 ∨
        (token.drop 4).take 16 ≠ fuseBytes s.boot.fuses 0 16 ∨
        sha3 ((token.drop 64).take 1312) ≠ fuseBytes s.boot.fuses 0x050 32 ∨
        Config.mldsaVerify ((token.drop 64).take 1312) (token.take 64) (token.drop 1376) = false) →
      t.boot.doeResp = [0x04, 0x8B, 0, 0, 0, 0, 0, 0] ∧ t.boot.unlocked = s.boot.unlocked) ∧
    (fuseDbgOff s.boot.fuses = false → s.tokenOk token = true →
      t.boot.doeResp = [0x04, 0, 0, 0, 0, 0, 0, 0] ∧ t.boot.unlocked = BitVec.ofNat 2 (token.getD 52 0).toNat)) ∧
  ∀ (s : State) (token : List Byte), s.boot.nonce = none → s.tokenOk token = false

/-- SQTAIL_DOORBELL, CQHEAD_DOORBELL, QUEUE_ENABLE, HOST_COMMAND_FETCH and COMPLETION_POST: a doorbell moves its pointer or
is refused; enabling starts a queue afresh; the hub fetches the next entry of the queue it picks and accepts, refuses or
reports it as a duplicate; the oldest command of a queue posts its 16-byte completion where room is left (R643 to R646, R649,
R650, R652, R655). -/
def Obligations.HostQueues : Prop :=
  (∀ (s : State) (q : QueueId) (v : Word), s.enabled (pgQue q) = false →
    exec (.sqtailDoorbell q v) s = .next s ∧ exec (.cqheadDoorbell q v) s = .next s) ∧
  (∀ (s : State) (q : QueueId) (v : Word), s.enabled (pgQue q) = true → v.toNat % 0x10000 < s.sqSize q →
    ∃ t, exec (.sqtailDoorbell q v) s = .next t ∧ t.hostQ q = { s.hostQ q with sqTail := v.toNat % 0x10000 } ∧
      (∀ p, p ≠ q.val → t.hostQ p = s.hostQ p) ∧ { t with queues := s.queues } = s) ∧
  (∀ (s : State) (q : QueueId) (v : Word), s.enabled (pgQue q) = true → v.toNat % 0x10000 < s.cqSize q →
    ∃ t, exec (.cqheadDoorbell q v) s = .next t ∧ t.hostQ q = { s.hostQ q with cqHead := v.toNat % 0x10000 } ∧
      (∀ p, p ≠ q.val → t.hostQ p = s.hostQ p) ∧ { t with queues := s.queues } = s) ∧
  (∀ (s : State) (q : QueueId) (v : Word), s.enabled (pgQue q) = true →
    (s.sqSize q ≤ v.toNat % 0x10000 → exec (.sqtailDoorbell q v) s = .next (s.refuse (pgQue q + 0x058) 0x01)) ∧
    (s.cqSize q ≤ v.toNat % 0x10000 → exec (.cqheadDoorbell q v) s = .next (s.refuse (pgQue q + 0x060) 0x01))) ∧
  (∀ (s : State) (q : QueueId), s.enabled (pgQue q) = true → exec (.queueEnable q) s = .next s) ∧
  (∀ (s : State) (q : QueueId), s.serves .que = true → s.enabled (pgQue q) = false →
    (s.sqBase q % 4096 ≠ 0 ∨ s.cqBase q % 4096 ≠ 0 →
      exec (.queueEnable q) s = .next (s.refuse (pgQue q + 0x010) 0x05)) ∧
    (s.sqBase q % 4096 = 0 → s.cqBase q % 4096 = 0 → inHbmOrHost (s.sqBase q) (s.sqEntry q * s.sqSize q) = true →
      inHbmOrHost (s.cqBase q) (16 * s.cqSize q) = true → (s.cqOf q = q ∨ s.enabled (pgQue (s.cqOf q)) = true) →
      ∃ t, exec (.queueEnable q) s = .next t ∧ t.enabled (pgQue q) = true ∧ t.reg (pgQue q + 0x018) = 0 ∧
        t.hostQ q = {} ∧ (∀ p, p ≠ q.val → t.hostQ p = s.hostQ p) ∧ { t with regs := s.regs, queues := s.queues } = s)) ∧
  (∀ s : State, (s.ready = false ∨ s.pickHostQ = none) → exec .hostCommandFetch s = .next s) ∧
  (∀ (s : State) (q : Nat), s.pickHostQ = some q → s.enabled (pgQue q) = true ∧ (s.hostQ q).sqHead ≠ (s.hostQ q).sqTail ∧
    s.cqFull (s.cqOf q) = false ∧ ∀ p < 256, s.fetchable p = true → s.qPrio p ≤ s.qPrio q) ∧
  (∀ (s : State) (q a raw : Nat), Settled s → s.ready = true → s.pickHostQ = some q →
    a = s.sqBase q + s.sqEntry q * (s.hostQ q).sqHead → raw = s.readPaNat a (s.sqEntry q) →
    s.reachableRange a (s.sqEntry q) = true → s.badPa a (s.sqEntry q) = false →
    ∃ t c, exec .hostCommandFetch s = .next t ∧ (t.hostQ q).cmds.getLast? = some c ∧
      (s.mayRun (dfld raw 0 1) = true → (t.hostQ q).cmds = (s.hostQ q).cmds ++ [c]) ∧
      (t.hostQ q).sqHead = ((s.hostQ q).sqHead + 1) % s.sqSize q ∧ c.cid = dfld raw 2 2 ∧ c.raw = raw ∧
      c.sqHead = ((s.hostQ q).sqHead + 1) % s.sqSize q ∧ t.hostRr = nset s.hostRr (s.qPrio q) q ∧ t.mem = s.mem ∧
      (∀ r d, (s.hostQ q).window.find? (·.1 == dfld raw 2 2) = some (r, some d) →
        c.done = some (hsDuplicate, 0, d.1 + 256 * d.2)) ∧
      ((s.hostQ q).window.find? (·.1 == dfld raw 2 2) = none → commandOk raw (s.qCompat q) = false →
        c.done = some (hsRefused, 0x01, 0) ∧ (t.hostQ q).window = (s.hostQ q).window) ∧
      ((s.hostQ q).window.find? (·.1 == dfld raw 2 2) = none → commandOk raw (s.qCompat q) = true →
        t.reg (pgQue q + 0x078) = dfld raw 2 2 ∧
        (s.mayRun (dfld raw 0 1) = true → c.done = none ∧ c.started = false ∧
          (t.hostQ q).window = ((dfld raw 2 2, none) :: (s.hostQ q).window).take 4096) ∧
        (s.mayRun (dfld raw 0 1) = false → c.done = some (hsAborted, 0x80, 0)))) ∧
  (∀ (s : State) (q : QueueId), ((s.hostQ q).cmds = [] ∨ (∃ c l, (s.hostQ q).cmds = c :: l ∧ c.done = none) ∨
      s.cqFull (s.cqOf q) = true) → exec (.completionPost q) s = .next s) ∧
  ∀ (s : State) (q : QueueId) (c : HCmd) (rest : List HCmd) (st re res p a : Nat), s.memOk = true → Settled s →
    (∀ x ∈ sectorsOf a 16, s.hasEntry x = false) → (s.hostQ q).cmds = c :: rest →
    c.done = some (st, re, res) → p = s.cqOf q → s.cqFull p = false → a = s.cqBase p + 16 * (s.hostQ p).cqTail →
    s.reachableRange a 16 = true → ∃ t, exec (.completionPost q) s = .next t ∧
      t.readPa a 16 = toBytes 8 res ++ toBytes 2 c.sqHead ++ toBytes 1 q.val ++ toBytes 1 re ++ toBytes 2 c.cid ++ toBytes 1 st
        ++ toBytes 1 (if (s.hostQ p).phase then 1 else 0) ∧
      (t.hostQ q).cmds = rest ∧ (t.hostQ p).cqTail = ((s.hostQ p).cqTail + 1) % s.cqSize p ∧
      (t.hostQ p).phase = (if ((s.hostQ p).cqTail + 1) % s.cqSize p = 0 then !(s.hostQ p).phase else (s.hostQ p).phase) ∧
      (s.qCqien p = true → (1, p) ∈ t.msix) ∧
      { t with
        mem := s.mem, poison := s.poison, junk := s.junk, hostMem := s.hostMem, units := s.units, queues := s.queues
        msix := s.msix } = s

/-- NOP, FENCE, LAUNCH_GRAPH, DMA_COPY, SELFTEST, CALIBRATE, SYNC_DUMP and TELEMETRY_SNAPSHOT: none runs unless it is the
next of its queue to start; each ends with the status, reason and result of its rules, or takes its place among what waits
for a slot; a graph passes every check before its roots are placed (R430, R436, R437, R587, R588, R594, R645, R648, R651,
R653, R654). -/
def Obligations.HostCommands : Prop :=
  (∀ (s : State) (q : QueueId),
    (s.hostNext q 0x0F = none → exec (.nop q) s = .next s) ∧ (s.hostNext q 0x03 = none → exec (.fence q) s = .next s) ∧
    (s.hostNext q 0x02 = none → exec (.dmaCopy q) s = .next s) ∧ (s.hostNext q 0x0A = none → exec (.syncDump q) s = .next s) ∧
    (s.hostNext q 0x08 = none → exec (.selftest q) s = .next s) ∧ (s.hostNext q 0x09 = none → exec (.calibrate q) s = .next s) ∧
    (s.hostNext q 0x0B = none → exec (.telemetrySnapshot q) s = .next s) ∧
    (s.working = false → exec (.launchGraph q) s = .next s)) ∧
  (∀ (s : State) (q op : Nat) (c : HCmd) (st re res : Nat), s.hostNext q op = some c → c.dup = false →
    dfld c.raw 0 1 = op ∧ c.started = false ∧ s.mayRun op = true ∧
    ∃ d ∈ ((s.hostEnd q c.cid st re res).hostQ q).cmds, d.cid = c.cid ∧ d.done = some (st, re, res)) ∧
  (∀ (s : State) (q : QueueId) (c : HCmd), s.hostNext q 0x0F = some c →
    exec (.nop q) s = .next (s.hostEnd q c.cid hsOk 0 (dfld c.raw 8 8))) ∧
  (∀ (s : State) (q : QueueId) (c : HCmd), s.hostNext q 0x03 = some c →
    ((dfld c.raw 8 1 ≠ 1 ∨ ∀ p ∈ s.queues, p.1 ≠ q.val → ∀ x ∈ p.2.cmds, x.seq < c.seq → x.done.isSome = true) →
      exec (.fence q) s = .next (s.hostEnd q c.cid hsOk 0 0)) ∧
    (dfld c.raw 8 1 = 1 → (∃ p ∈ s.queues, p.1 ≠ q.val ∧ ∃ x ∈ p.2.cmds, x.seq < c.seq ∧ x.done = none) →
      exec (.fence q) s = .next s)) ∧
  (∀ (s : State) (q : QueueId) (c : HCmd), s.hostNext q 0x02 = some c → dfld c.raw 24 8 % 2 ^ 40 = 0 →
    exec (.dmaCopy q) s = .next (({ s with free := s.free + 1 } : State).hostEnd q c.cid hsOk 0 0)) ∧
  (∀ (s : State) (q : QueueId) (c : HCmd) (src dst len : Nat), s.hostNext q 0x02 = some c → src = dfld c.raw 8 8 →
    dst = dfld c.raw 16 8 → len = dfld c.raw 24 8 % 2 ^ 40 → dfld c.raw 32 1 % 4 = 0 → 0 < len → len ≤ 64 - src % 64 →
    len ≤ 64 - dst % 64 → s.reachableRange src len = true → s.reachableRange dst len = true → s.badPa src len = false → Settled s → s.moves = [] →
    ∃ t, exec (.dmaCopy q) s = .next t ∧ t.queues = (s.hostEnd q c.cid hsOk 0 len).queues ∧
      (s.memOk = true → placeOf dst = .host → s.hotSlotOf dst = none →
        t.readPa dst len = s.readPa src len ∧ t.mem = s.mem ∧
        ∀ b, (b < s.hostBus dst ∨ s.hostBus dst + len ≤ b) → cellGet t.hostMem b = cellGet s.hostMem b)) ∧
  (∀ (s : State) (q : QueueId) (c : HCmd), s.hostNext q 0x0A = some c →
    (dfld c.raw 16 8 % 4096 ≠ 0 → exec (.syncDump q) s = .next (s.hostEnd q c.cid hsRefused 0x05 0)) ∧
    (dfld c.raw 16 8 % 4096 = 0 → dfld c.raw 24 8 < 17842176 →
      exec (.syncDump q) s = .next (s.hostEnd q c.cid hsRefused 0x07 0)) ∧
    (dfld c.raw 16 8 % 4096 = 0 → 17842176 ≤ dfld c.raw 24 8 → s.reachableRange (dfld c.raw 16 8) 17842176 = true →
      Settled s → s.moves = [] → ∃ t, exec (.syncDump q) s = .next t ∧ t.queues = (s.hostEnd q c.cid hsOk 0 17842176).queues ∧ t.homes = s.homes ∧
        t.fg = s.fg ∧ (s.memOk = true → t.readPa (dfld c.raw 16 8) 64 =
          toBytes 4 1 ++ toBytes 4 s.boot.clusters.toNat ++ toBytes 8 s.now.toNat ++ toBytes 2 s.boot.stackSet.toNat
            ++ toBytes 1 (if s.ras.halted then 1 else 0) ++ toBytes 45 0))) ∧
  (∀ (s : State) (q : QueueId) (c : HCmd) (code u a : Nat), s.hostNext q 0x08 = some c → code = dfld c.raw 8 1 →
    u = dfld c.raw 10 2 → a = dfld c.raw 16 8 →
    ((code = 0 ∨ 8 < code ∨ testUnits code ≤ u) → exec (.selftest q) s = .next (s.hostEnd q c.cid hsRefused 0x01 0)) ∧
    (code ≠ 0 → code ≤ 8 → u < testUnits code → s.testUnitOn code u = true →
      (s.rbit (pgCpd + 0x054) 4 = true ∨ s.rbit (pgCpd + 0x054) 5 = true) → a % 32 = 0 → s.reachableRange a 32 = true →
      (s.drained code u = false → exec (.selftest q) s = .next (s.hostEnd q c.cid hsRefused 0x0D 0)) ∧
      (s.drained code u = true → ∃ t, exec (.selftest q) s = .next t ∧ t.queues = (s.hostStart q c.cid).queues ∧
        t.pw.tests = s.pw.tests ++ [{ queue := q, cid := c.cid, code := code, unit := u, result := a, total := s.testChunks code u }] ∧
        t.reg (pgTel + 0x06C) = min (s.reg (pgTel + 0x06C) + 1) 0xFFFFFFFF ∧ t.mem = s.mem))) ∧
  (∀ (s : State) (q : QueueId) (c : HCmd) (kind u : Nat), s.hostNext q 0x09 = some c → kind = dfld c.raw 8 1 → u = dfld c.raw 10 2 →
    (2 < kind → exec (.calibrate q) s = .next (s.hostEnd q c.cid hsRefused 0x01 0)) ∧
    (kind = 0 → u < 1024 → s.chanLive u = true → (s.chan u).st ≠ 3 → s.rbit (pgCpd + 0x054) 1 = true →
      ∃ t, exec (.calibrate q) s = .next t ∧ t.queues = (s.hostStart q c.cid).queues ∧ t.mem = s.mem ∧
        t.pw.cals = s.pw.cals ++ [{ queue := q, cid := c.cid, code := 0, unit := u, result := 0, total := 1 }]) ∧
    (kind = 0 → u < 1024 → s.chanLive u = true → (s.chan u).st ≠ 3 → s.rbit (pgCpd + 0x054) 1 = false →
      exec (.calibrate q) s = .next (s.hostEnd q c.cid hsRefused 0x0C 0))) ∧
  (∀ (s : State) (q : QueueId) (c : HCmd) (a : Nat), s.hostNext q 0x0B = some c → a = dfld c.raw 16 8 →
    (a % 64 ≠ 0 → exec (.telemetrySnapshot q) s = .next (s.hostEnd q c.cid hsRefused 0x05 0)) ∧
    (a % 64 = 0 → s.reachableRange a 256 = false →
      exec (.telemetrySnapshot q) s = .next (s.hostEnd q c.cid hsRefused 0x06 0)) ∧
    (a % 64 = 0 → s.reachableRange a 256 = true → ∃ t, exec (.telemetrySnapshot q) s = .next t ∧
      t.queues = (s.hostStart q c.cid).queues ∧ t.pw.snaps = s.pw.snaps ++ [(q.val, c.cid, a)] ∧ t.mem = s.mem)) ∧
  (∀ (s : State) (q : QueueId) (gid : Nat) (g : Graph), s.working = true →
    s.someHeld = false → (s.graphs.find? fun g => g.2.queue == q.val && !g.2.roots.isEmpty) = some (gid, g) →
    exec (.launchGraph q) s = .next (s.placeRoots gid g.roots)) ∧
  ∀ (s : State) (q : QueueId) (c : HCmd), s.working = true → s.someHeld = false →
    (s.graphs.find? fun g => g.2.queue == q.val && !g.2.roots.isEmpty) = none → s.hostNext q 0x01 = some c →
    (dfld c.raw 8 8 % 64 ≠ 0 → exec (.launchGraph q) s = .next (s.hostEnd q c.cid hsRefused 0x05 0)) ∧
    ∀ (l rl kl : List Byte) (s1 s2 s3 s4 s5 s6 : State) (g : Nat) (roots : List Nat), dfld c.raw 8 8 % 64 = 0 →
      s.vaRead agHub (dfld c.raw 8 8) 64 = (some (l, false), s1) → g = ofBytes l → ghOk g = true → dfld g 8 8 % 128 = 0 →
      dfld g 16 8 % 4 = 0 → dfld g 24 8 % 8 = 0 → dfld g 36 4 ≠ 0 → dfld g 36 4 &&& s.boot.clusters.toNat = dfld g 36 4 →
      s1.checkOps g (dfld g 32 2) (dfld g 36 4) (dfld g 0 4) 0 = (none, s2) →
      s2.vaRead agHub (dfld g 16 8) (4 * dfld g 4 4) = (some (rl, false), s3) →
      roots = (List.range (dfld g 4 4)).map (fun i => ofBytes ((rl.drop (4 * i)).take 4)) →
      s3.checkRoots g (dfld g 0 4) roots = (none, s4) →
      s4.vaRead agHub (dfld g 24 8) (8 * dfld g 32 2) = (some (kl, false), s5) →
      (∀ r, checkKtab kl (dfld g 32 2) = some r → exec (.launchGraph q) s = .next (s5.hostEnd q c.cid r.1 r.2 0)) ∧
      (checkKtab kl (dfld g 32 2) = none → s5.freeGraph = none →
        exec (.launchGraph q) s = .next (s5.hostEnd q c.cid hsRefused 0x07 0)) ∧
      ∀ gid, checkKtab kl (dfld g 32 2) = none → s5.freeGraph = some gid →
        s6 = (({ s5 with serial := s5.serial + 1 } : State).hostStart q c.cid).initOps (dfld g 8 8) (dfld g 0 4) 0 →
        exec (.launchGraph q) s = .next (({ s6 with
          graphs := nset s6.graphs gid
            { queue := q, cid := c.cid, header := dfld c.raw 8 8, nops := dfld g 0 4, opBase := dfld g 8 8
              ktab := dfld g 24 8, roots := roots, serial := s5.serial } } : State).placeRoots gid roots)

/-- FLR_PF1, FLR_PF0, DEVRST, INVCMD_ALL, INVCMD_RANGE, BAR2_ACCESS, SMBUS_TARGET_ACCESS: a function-level reset of the
compute function ends its work, its slice and its halt and keeps modes and channels; one of the management function drops its
DOE state; 0xA5 in DEVRST from PF0 resets the device; invalidation empties the translation caches, or drops the entries of a
range; BAR2 reaches mapped memory or answers UR, and waits for a channel that serves nothing; the SMBus target reports while
PWRGD is high (R21, R22, R553, R567, R637, R640, R641, R656, R657, R659, R664). Which conditions the target reports is the
model's reading (log entry 16). -/
def Obligations.ResetsAndWindows : Prop :=
  (∀ s : State, s.pw.pwrgd = true → s.pw.perst = false → ∃ t, exec .flrPf1 s = .next t ∧
    t.tables = [] ∧ t.queues = [] ∧ t.graphs = [] ∧ t.cores = [] ∧ t.tlb = [] ∧ t.fg = [] ∧ t.sengs = [] ∧ t.cols = [] ∧
    t.top.slice = none ∧ t.top.abortCause = none ∧ t.ras.halted = false ∧ t.modes = s.modes ∧ t.chans = s.chans ∧
    t.now = s.now ∧ (∀ o, flrKeeps o = false → t.reg o = resetReg o) ∧ ∀ v, (1, v) ∉ t.msix) ∧
  (∀ s : State, s.pw.pwrgd = true → s.pw.perst = false → ∃ t, exec .flrPf0 s = .next t ∧
    t.boot = { s.boot with nonce := none, doeResp := [] } ∧ { t with boot := s.boot, msix := s.msix } = s ∧
    (∀ v, (0, v) ∉ t.msix) ∧ ∀ v, (1, v) ∈ t.msix ↔ (1, v) ∈ s.msix) ∧
  (∀ s : State, (s.pw.pwrgd = false ∨ s.pw.perst = true) → exec .flrPf1 s = .next s ∧ exec .flrPf0 s = .next s) ∧
  (∀ (s : State) (v : Word), s.serves .hub = true → v.toNat % 256 = 0xA5 → ∃ t, exec (.devrst .pf0 v) s = .next t ∧
    DeviceReset s { State.reset.pw with
      pwrEn := s.pw.pwrEn, powered := s.pw.powered, pwrgd := s.pw.pwrgd, perst := false, rstReq := s.pw.rstReq
      rackValid := s.pw.rackValid, pcieValid := s.pw.pcieValid, locked := s.pw.locked
      refPcie := s.pw.refPcie, holdover := s.pw.holdover } t) ∧
  (∀ (s : State) (fn : Fn) (v : Word), (fn = .pf1 ∨ v.toNat % 256 ≠ 0xA5) → exec (.devrst fn v) s = .next s) ∧
  (∀ s : State, s.serves .mmu = true → exec .invcmdAll s = .next { s with tlb := [] }) ∧
  (∀ (s : State) (a n : Nat), s.serves .mmu = true → n = s.reg (pgMmu + 0x058) → n ≠ 0 →
    a = s.reg64 (pgMmu + 0x050) % 2 ^ 48 / 0x10000 * 0x10000 → ∃ t, exec .invcmdRange s = .next t ∧ { t with tlb := s.tlb } = s ∧
      ∀ e, e ∈ t.tlb ↔ e ∈ s.tlb ∧ (a + n * 0x10000 ≤ e.va ∨ e.va + e.size ≤ a)) ∧
  (∀ s : State, s.serves .mmu = true → s.reg (pgMmu + 0x058) = 0 → exec .invcmdRange s = .next (s.refuse (pgMmu + 0x048) 0x01)) ∧
  (∀ (s : State) (off : BitVec 42) (acc : Bar2Op) (a : Nat), s.serves .mem = true → a = s.reg64 (pgMmu + 0x060) % 2 ^ 48 + off.toNat →
    (s.bar2Wait ≠ [] ∨ s.bar2Held a acc = true) →
    exec (.bar2Access off acc) s = .next { s with bar2Wait := s.bar2Wait ++ [(a, acc)] }) ∧
  (∀ (s : State) (off : BitVec 42) (n a : Nat), s.serves .mem = true → a = s.reg64 (pgMmu + 0x060) % 2 ^ 48 + off.toNat → s.bar2Wait = [] →
    Settled s → ((s.ready = false ∨ inMemory a n = false ∨ s.reachableRange a n = false) →
      exec (.bar2Access off (.read n)) s = .next { s with out := .unsupported off.toNat :: s.out }) ∧
    (s.ready = true → inMemory a n = true → s.reachableRange a n = true → s.isPoisoned a n = false →
      exec (.bar2Access off (.read n)) s = .next { s with out := .bar2 (s.bytes a n) false :: s.out }) ∧
    (s.ready = true → inMemory a n = true → s.reachableRange a n = true → s.isPoisoned a n = true →
      ∃ t e, exec (.bar2Access off (.read n)) s = .next t ∧ t.out = .bar2 (s.bytes a n) true :: s.out ∧
        t.ras.fatals = s.ras.fatals ++ [e] ∧ e.cls = 3 ∧ e.reason = 0x83 ∧ (s.rbit (pgRas + 0x040) 3 = false → t.mem = s.mem))) ∧
  (∀ (s : State) (off : BitVec 42) (d : List Byte) (bad : Bool) (a : Nat), s.serves .mem = true → a = s.reg64 (pgMmu + 0x060) % 2 ^ 48 + off.toNat →
    s.bar2Wait = [] → ((s.ready = false ∨ inMemory a d.length = false ∨ s.reachableRange a d.length = false) →
      exec (.bar2Access off (.write d bad)) s = .next { s with out := .aer 0x06 :: s.out }) ∧
    (s.ready = true → inMemory a d.length = true → s.reachableRange a d.length = true →
      ∃ t, exec (.bar2Access off (.write d bad)) s = .next t ∧
        (s.memOk = true → Settled s → s.units = [] → s.hotSlotOf a = none → t.bytes a d.length = d ∧
          ∀ b, (b < a ∨ a + d.length ≤ b) → t.byte b = s.byte b))) ∧
  (∀ (s : State) (acc : SmbusOp), s.pw.pwrgd = false → exec (.smbusTargetAccess acc) s = .next s) ∧
  (∀ s : State, s.pw.pwrgd = true →
    exec (.smbusTargetAccess .dfinfo) s = .next { s with out := .smbus (BitVec.ofNat 32 (s.reg (pgRas + 0x080))) :: s.out }) ∧
  ∀ s : State, s.pw.pwrgd = true → ∃ t w, exec (.smbusTargetAccess .pending) s = .next t ∧ t.out = .smbus w :: s.out ∧
    { t with out := s.out } = s ∧ ∀ i < 32, i ≠ 1 → w.getLsbD i = bitOf (s.reg (pgHub 1 + 0x028)) i

/-- REGISTER_WRITE and CTRL_EN_SET: no write lands while the device is held in reset, outside the HUB pages in `FAIL`, from
PF1 in `HUB` and `CPD` pages, or where no page stands; read-only registers keep their value; a stored field takes its value
unless it is reserved, locked (0x0D) or out of range; a 1 clears a W1C bit; `EN` in the page of an absent unit is refused
with 0x0A; `EN` is set where the block's check finds nothing, and a 64-bit write is its two halves, low first (R4, R10, R11,
R629, R631, R633, R636, R662, R663). -/
def Obligations.RegisterWrites : Prop :=
  (∀ (s : State) (fn : Fn) (off : Bar0Off) (w : Word),
    (s.pw.pwrgd = false ∨ s.pw.perst = true ∨ (fn = .pf1 ∧ off.toNat / 0x1000 < 0x50) ∨ off.toNat % 4 ≠ 0 ∨
        pageOf (off.toNat / 0x1000) = none ∨ (s.boot.state = 7 ∧ ∀ n, pageOf (off.toNat / 0x1000) ≠ some (.hub, n))) →
    exec (.registerWrite fn off (.w32 w)) s = .next s) ∧
  (∀ (s : State) (fn : Fn) (p : Bar0Page), (s.pw.pwrgd = false ∨ s.pw.perst = true ∨ (fn = .pf1 ∧ p.val < 0x50) ∨
      pageOf p.val = none ∨ (s.boot.state = 7 ∧ ∀ n, pageOf p.val ≠ some (.hub, n))) → exec (.ctrlEnSet fn p) s = .next s) ∧
  (∀ (s : State) (fn : Fn) (off : Bar0Off) (w : DWord) (t u : State), off.toNat % 8 = 0 → off.toNat + 4 < 2 ^ 25 →
    exec (.registerWrite fn off (.w32 (w.setWidth 32))) s = .next t →
    exec (.registerWrite fn (off + 4) (.w32 ((w >>> 32).setWidth 32))) t = .next u →
    exec (.registerWrite fn off (.w64 w)) s = .next u) ∧
  (∀ (s : State) (fn : Fn) (off : Bar0Off) (w : DWord), off.toNat % 8 ≠ 0 → exec (.registerWrite fn off (.w64 w)) s = .next s) ∧
  (∀ (s : State) (fn : Fn) (off : Bar0Off) (w : Word) (b : Block) (n : Nat), s.serves b = true →
    (fn = .pf0 ∨ 0x50 ≤ off.toNat / 0x1000) → off.toNat % 4 = 0 → pageOf (off.toNat / 0x1000) = some (b, n) →
    (s.pageLive b n = false → off.toNat % 0x1000 ≠ 0x010 → exec (.registerWrite fn off (.w32 w)) s = .next s) ∧
    (s.pageLive b n = false → off.toNat % 0x1000 = 0x010 → w.toNat.testBit 0 = true →
      exec (.registerWrite fn off (.w32 w)) s = .next (s.refuse off.toNat 0x0A)) ∧
    (s.pageLive b n = true → accessOf b n (off.toNat % 0x1000) = .ro → exec (.registerWrite fn off (.w32 w)) s = .next s) ∧
    (∀ m, s.pageLive b n = true → accessOf b n (off.toNat % 0x1000) = .rw m →
      (s.regBad b n (off.toNat % 0x1000) (w.toNat &&& m) = none → s.locked b n (off.toNat % 0x1000) = 0 →
        s.lockedAlways b n (off.toNat % 0x1000) = false → off.toNat % 0x1000 ≠ 0x02C → off.toNat ≠ pgCpd + 0x048 →
        exec (.registerWrite fn off (.w32 w)) s = .next (s.setReg off.toNat (w.toNat &&& m))) ∧
      (s.regBad b n (off.toNat % 0x1000) (w.toNat &&& m) = none → off.toNat = pgCpd + 0x048 →
        ∃ t, exec (.registerWrite fn off (.w32 w)) s = .next t ∧ t.reg off.toNat = w.toNat &&& m ∧
          t.pw = { s.pw with rail := if (w.toNat &&& m).testBit 1 then s.pw.rail else [] } ∧
          (∀ o, o ≠ off.toNat → t.reg o = s.reg o) ∧ { t with regs := s.regs, pw := s.pw } = s) ∧
      (∀ pg, s.regBad b n (off.toNat % 0x1000) (w.toNat &&& m) = none → s.locked b n (off.toNat % 0x1000) = 0 →
        s.lockedAlways b n (off.toNat % 0x1000) = false → off.toNat % 0x1000 = 0x02C → off.toNat = pg + 0x02C →
        ∃ t, exec (.registerWrite fn off (.w32 w)) s = .next t ∧ t.reg off.toNat = w.toNat &&& m ∧
          (∀ o, o ≠ off.toNat → t.reg o = s.reg o) ∧ { t with regs := s.regs, msix := s.msix } = s ∧
          ∀ i < 32, (s.reg (pg + 0x028)).testBit i = true → (w.toNat &&& m).testBit i = true →
            (s.reg off.toNat).testBit i = false →
            (if (s.reg (pg + 0x030)).testBit 9 then 0 else 1, s.rfld (pg + 0x030) 0 9) ∈ t.msix) ∧
      (s.regBad b n (off.toNat % 0x1000) (s.reg off.toNat &&& m) = none → s.locked b n (off.toNat % 0x1000) = 0xFFFFFFFF →
        (w.toNat ^^^ s.reg off.toNat) &&& m ≠ 0 → m < 2 ^ 32 → off.toNat % 0x1000 ≠ 0x02C → exec (.registerWrite fn off (.w32 w)) s =
          .next ((s.setReg off.toNat (s.reg off.toNat &&& m)).refuse off.toNat 0x0D)) ∧
      (∀ r, s.regBad b n (off.toNat % 0x1000) (w.toNat &&& m) = some r → s.locked b n (off.toNat % 0x1000) = 0 →
        w.toNat &&& m ≠ s.reg off.toNat &&& m → exec (.registerWrite fn off (.w32 w)) s = .next (s.refuse off.toNat r))) ∧
    (∀ m, s.pageLive b n = true → accessOf b n (off.toNat % 0x1000) = .w1c m → b ≠ .stk → b ≠ .syn →
      ∃ t, exec (.registerWrite fn off (.w32 w)) s = .next t ∧ { t with regs := s.regs } = s ∧
        ((b ≠ .cor ∨ off.toNat % 0x1000 ≠ 0x400) → ∀ o, o ≠ off.toNat → t.reg o = s.reg o) ∧
        (b = .cor → off.toNat % 0x1000 = 0x400 → (∀ o, o ≠ off.toNat → o ≠ pgCor n + 0x404 → t.reg o = s.reg o) ∧
          t.reg (pgCor n + 0x404) = if w.toNat.testBit 1 then 0 else s.reg (pgCor n + 0x404)) ∧
        ∀ i < 32, (t.reg off.toNat).testBit i = ((s.reg off.toNat).testBit i && !(w.toNat.testBit i && m.testBit i)))) ∧
  (∀ (s : State) (fn : Fn) (p : Bar0Page) (b : Block) (n : Nat), s.serves b = true →
    (fn = .pf0 ∨ 0x50 ≤ p.val) → pageOf p.val = some (b, n) → isMsix b n = false → s.pageLive b n = false →
    exec (.ctrlEnSet fn p) s = .next (s.refuse (p.val * 0x1000 + 0x010) 0x0A)) ∧
  ∀ (s : State) (fn : Fn) (p : Bar0Page) (b : Block) (n : Nat), s.serves b = true →
    (fn = .pf0 ∨ 0x50 ≤ p.val) → pageOf p.val = some (b, n) → isMsix b n = false → s.pageLive b n = true →
    s.reg (p.val * 0x1000 + 0x010) % 8 / 2 = 0 → s.enabled (p.val * 0x1000) = false → b ∉ [.cor, .l2c, .que] →
    (∀ r, s.cfgBad b n = some r → ∃ t, exec (.ctrlEnSet fn p) s = .next t ∧ t.enabled (p.val * 0x1000) = false ∧
      t.rbit (p.val * 0x1000 + 0x014) 1 = true ∧ t.reg (p.val * 0x1000 + 0x018) = r + 2 ^ 24 * 4) ∧
    (s.cfgBad b n = none → ∃ t, exec (.ctrlEnSet fn p) s = .next t ∧ t.enabled (p.val * 0x1000) = true ∧
      t.rbit (p.val * 0x1000 + 0x014) 0 = true ∧ t.rbit (p.val * 0x1000 + 0x014) 1 = false ∧
      t.reg (p.val * 0x1000 + 0x018) = 0 ∧ { t with regs := s.regs } = s)

/-- R586: clearing a bit of `SLOTEN` stops that slot's activities from the next frame; bits 0 and 6 cannot be cleared, and a
write that clears one leaves it at 1 and is noted as refused with reason 0x0C. -/
def Obligations.SlotEnables : Prop :=
  (∀ (s : State) (v : Word), s.serves .cpd = true → ∃ t, exec (.slotenWrite v) s = .next t ∧ t.pw = s.pw ∧
    (∀ i < 11, t.rbit (pgCpd + 0x054) i = (v.toNat.testBit i || i == 0 || i == 6)) ∧
    (v.toNat.testBit 0 = false ∨ v.toNat.testBit 6 = false →
      t.rbit (pgCpd + 0x014) 1 = true ∧ t.reg (pgCpd + 0x018) % 2 ^ 8 = 0x0C) ∧
    (v.toNat.testBit 0 = true → v.toNat.testBit 6 = true → ∀ o, o ≠ pgCpd + 0x054 → t.reg o = s.reg o)) ∧
  (∀ s : State, s.ready = true → (s.pw.resync = true ∨ s.frameDue = true) → ∃ t, exec .maintenanceFrameBoundary s = .next t ∧
    t.pw.frame = s.now.toNat / 128000 % 2 ^ 32 ∧ t.pw.next = (if s.pw.resync then s.now.toNat % 128000 / 8000 else 0) ∧
    t.pw.resync = false ∧ ∀ i < 11, t.pw.slotEn.toNat.testBit i = s.rbit (pgCpd + 0x054) i) ∧
  (∀ s : State, (s.ready = false ∨ (s.pw.resync = false ∧ s.pw.frame = s.now.toNat / 128000 % 2 ^ 32)) →
    exec .maintenanceFrameBoundary s = .next s) ∧
  ∀ (s : State) (obs : SlotObs) (n : Nat), s.ready = true → s.pw.resync = false → s.pw.frame = s.now.toNat / 128000 % 2 ^ 32 →
    n = s.now.toNat % 128000 / 8000 → s.pw.next ≤ n → s.pw.slotEn.toNat.testBit n = false → obs.upsets = [] → s.bar2Wait = [] →
    s.chanWait = [] → s.moves = [] → s.pw.chunk = none → (∀ p ∈ s.chans, p.2.st ≠ 1) → (∀ l < 16, (s.link l).st ≠ 5) →
    (∀ r ∈ s.pw.cals, r.run ≠ 1) →
    exec (.slotStart obs) s =
      .next { s with pw := { s.pw with slot := n, next := n + 1, holding := false, scrub := none } }

/-- R106: setting `CQCFG.EN` when the enabled depths would exceed 8,192 entries leaves `EN` at 0 and is refused with reason
0x86; clearing `EN` on a queue with `OCC` non-zero is refused with reason 0x0D. -/
def Obligations.QueueDepthLimit : Prop :=
  (∀ (s : State) (x : StackId) (q : CmdQueue) (v : Word), s.serves .stk = true → s.rbit (pgStk x + 0x100 + 4 * q) 0 = false → v.toNat.testBit 0 = true →
    4 ≤ fld v.toNat 1 4 → fld v.toNat 1 4 ≤ 10 →
    8192 < ((List.range 64).map fun i =>
      if i ≠ q.val ∧ s.rbit (pgStk x + 0x100 + 4 * i) 0 = true then s.queueDepth x i else 0).foldl (· + ·) 0 + 2 ^ fld v.toNat 1 4 →
    ∃ t, exec (.cqcfgEn x q v) s = .next t ∧ t.rbit (pgStk x + 0x100 + 4 * q) 0 = false ∧ t.rbit (pgStk x + 0x014) 1 = true ∧
      t.reg (pgStk x + 0x018) % 2 ^ 8 = 0x86) ∧
  ∀ (s : State) (x : StackId) (q : CmdQueue) (v : Word), s.serves .stk = true → s.rbit (pgStk x + 0x100 + 4 * q) 0 = true → v.toNat.testBit 0 = false →
    s.queueOcc x q ≠ 0 → ∃ t, exec (.cqcfgEn x q v) s = .next t ∧ t.rbit (pgStk x + 0x100 + 4 * q) 0 = true ∧
      t.rbit (pgStk x + 0x014) 1 = true ∧ t.reg (pgStk x + 0x018) % 2 ^ 8 = 0x0D

/-- A step takes the command at the front of the queue and runs it on the state with the queue's rest; with no command
waiting one nanosecond of clock T passes, and out of the fundamental reset the boot leaves ROM, the model's choice (log entry
4). -/
def Obligations.StepRunsTheFrontCommand : Prop :=
  (∀ (c : Instr) (l : List Instr) (s : State), step { s with pending := c :: l } = exec c { s with pending := l }) ∧
  (∀ s : State, s.pending = [] → (s.pw.powered = false ∨ s.pw.locked = false) → step s = .next s) ∧
  ∀ s : State, s.pending = [] → s.pw.powered = true → s.pw.locked = true → ∃ t, step s = .next t ∧ t.now = s.now + 1 ∧
    ((s.boot.state ≠ 0 ∨ s.pw.pwrgd = false ∨ s.pw.perst = true) → { t with now := s.now, units := s.units } = s) ∧
    (s.boot.state = 0 → s.pw.pwrgd = true → s.pw.perst = false → t.boot = { s.boot with state := 1 } ∧ (0, 1) ∈ t.msix ∧
      { t with now := s.now, units := s.units, boot := s.boot, msix := s.msix } = s)

/-- What reset leaves: no command waits, the boot is in state ROM, nothing is placed, cached or halted, no memory cell is
listed, and registers stand at the values of their tables (R516, R567, R595, R597, R657 and the register tables). -/
def Obligations.ResetState : Prop :=
  State.reset.pending = [] ∧ State.reset.boot.state = 0 ∧ State.reset.memOk = true ∧ State.reset.mem = [] ∧
  State.reset.queues = [] ∧ State.reset.tables = [] ∧ State.reset.graphs = [] ∧ State.reset.tlb = [] ∧
  State.reset.msix = [] ∧ State.reset.ras.halted = false ∧ State.reset.top.slice = none ∧
  (∀ p < 0x2000, p / 4 ≠ 1 → State.reset.enabled (p * 0x1000) = false) ∧
  (∀ p < 0x2000, (pageOf p).isSome = true → p / 4 ≠ 1 → State.reset.reg (p * 0x1000 + 0x030) = 0x100) ∧
  (∀ q < 256, State.reset.reg (pgQue q + 0x040) = 0x404 + 2 ^ 24 * q) ∧
  (∀ e < 512, State.reset.reg (pgSor e + 0x040) = 0x400 ∧ State.reset.reg (pgSor e + 0x108) = 1) ∧
  (∀ x < 16, State.reset.reg (pgStk x + 0x040) = 3 ∧ ∀ i < 64, State.reset.reg (pgStk x + 0x100 + 4 * i) = 0x68) ∧
  (∀ c < 2048, State.reset.reg (pgCor c + 0x04C) = 1) ∧
  (∀ h < 32, State.reset.reg (pgL2c h + 0x040) = 0x11100 ∧ State.reset.reg (pgClu h + 0x040) = 0x448) ∧
  State.reset.reg (pgCpd + 0x044) = 0x9C4 ∧ State.reset.reg (pgCpd + 0x054) = 0x7FF ∧
  State.reset.reg (pgTop + 0x078) = 0x44222000 ∧ State.reset.reg (pgTop + 0x080) = 0x66543210 ∧
  State.reset.reg (pgMem + 0x060) = 0x4000010 ∧ State.reset.reg (pgRas + 0x040) = 2

/-- From every state whose memories stand in their canonical form, and not only from those that a run reaches, a step leaves
them so: addresses strictly rising, no cell equal to what an unlisted address reads as. -/
def Obligations.StepKeepsMemoryCanonical : Prop := ∀ s t : State, s.memOk = true → step s = .next t → t.memOk = true

/-- The frame of every command: when it answers a next state, each kind of state outside the kinds that the command may write
is as before, and so is the queue of waiting commands; a command that may write no memory leaves every byte as it reads. -/
def Obligations.CommandFrames : Prop :=
  ∀ (i : Instr) (s t : State), exec i s = .next t → Keeps (writes i) s t ∧ t.pending = s.pending ∧
    (.mem ∉ writes i → .junk ∉ writes i → ∀ a, t.byte a = s.byte a)

/-- The module asks for a power cycle only where a device-fatal event stands, and what it asks for ends only with a rise of
`PWR_EN`, whatever the command (R20, R564). -/
def Obligations.PowerCycleRequest : Prop :=
  ∀ (i : Instr) (s t : State), exec i s = .next t →
    (s.pw.rstReq = false → t.pw.rstReq = true → t.ras.dfatal = true) ∧
    (s.pw.rstReq = true → t.pw.rstReq = false → i = .pwrEnRise)

/-- Engine instruction words and operations agree in both directions: every well-formed operation decodes from its own word,
and every word that decodes is the word of the operation it decodes to (R257, R258, R262, R265, R272, R323 to R326, R411). -/
def Obligations.EngineWordsAgree : Prop :=
  (∀ op : EngOp, op.wf = true → (encodeEng op).2 = 4 →
    (encodeEng op).1 < 2 ^ 32 ∧ decodeEng32 (encodeEng op).1 = some op) ∧
  (∀ op : EngOp, op.wf = true → (encodeEng op).2 ≠ 4 →
    (encodeEng op).2 = 8 ∧ (encodeEng op).1 < 2 ^ 64 ∧ decodeEng64 (encodeEng op).1 = some op) ∧
  (∀ (w : Nat) (op : EngOp), w < 2 ^ 32 → decodeEng32 w = some op → op.wf = true ∧ encodeEng op = (w, 4)) ∧
  ∀ (w : Nat) (op : EngOp), w < 2 ^ 64 → decodeEng64 w = some op → op.wf = true ∧ encodeEng op = (w, 8)
end

