-- ==== Sys2Proof/Laws/Maps.lean ====
section
/-! SUPPORT. Laws/Maps.lean: sparse maps: reading after setting, and setting leaves every other key alone. -/

namespace Sys2Proof.Machine

open Sys2Proof

theorem nfind_nset {α : Type} (m : NMap α) (i j : Nat) (v : α) :
    nfind (nset m i v) j = if i = j then some v else nfind m j := by
  induction m with
  | nil => simp [nset, nfind]
  | cons p l ih =>
    obtain ⟨k, w⟩ := p
    simp only [nset]
    split
    · subst_vars
      simp only [nfind]
      split <;> rfl
    · split
      · simp only [nfind]
      · simp only [nfind, ih]
        split
        · split
          · omega
          · rfl
        · rfl

@[simp] theorem nget_nset_same {α : Type} (m : NMap α) (i : Nat) (v d : α) : nget (nset m i v) i d = v := by
  simp [nget, nfind_nset]

theorem nget_nset_other {α : Type} (m : NMap α) {i j : Nat} (v d : α) (h : j ≠ i) : nget (nset m i v) j d = nget m j d := by
  simp [nget, nfind_nset, Ne.symm h]

theorem nget_nset {α : Type} (m : NMap α) (i j : Nat) (v d : α) :
    nget (nset m i v) j d = if i = j then v else nget m j d := by
  split
  · subst_vars
    exact nget_nset_same ..
  · exact nget_nset_other m v d (Ne.symm ‹_›)

@[simp] theorem nget_nil {α : Type} (i : Nat) (d : α) : nget ([] : NMap α) i d = d := rfl

end Sys2Proof.Machine
end

