-- ==== Sys2Proof/Laws/Memory.lean ====
section
/-! SUPPORT. Laws/Memory.lean: the cells of device and host memory: every operation keeps the canonical form, a read after a
write gives the value written, and a write leaves every other address alone. -/

namespace Sys2Proof.Machine

open Sys2Proof

/-- Every address of the cells lies above `b`. -/
def cellsAbove (b : Nat) (m : List Host.Cell) : Prop := ∀ c ∈ m, b < c.1

theorem wf_cons (k : Nat) (v : Byte) (l : List Host.Cell) :
    Memory.wf ((k, v) :: l) = true ↔ v ≠ 0 ∧ cellsAbove k l ∧ Memory.wf l = true := by
  induction l generalizing k v with
  | nil => simp [Memory.wf, cellsAbove]
  | cons c l ih =>
    obtain ⟨k', v'⟩ := c
    simp only [Memory.wf, Bool.and_eq_true, bne_iff_ne, decide_eq_true_eq]
    constructor
    · rintro ⟨⟨hv, hk⟩, hl⟩
      refine ⟨hv, fun c hc => ?_, hl⟩
      rcases List.mem_cons.1 hc with rfl | hc
      · exact hk
      · exact Nat.lt_trans hk (((ih k' v').1 hl).2.1 c hc)
    · rintro ⟨hv, ha, hl⟩
      exact ⟨⟨hv, ha (k', v') (List.mem_cons_self ..)⟩, hl⟩

/-- Below every listed address a cell list reads as unlisted. -/
theorem cellGet_below {m : List Host.Cell} {b a : Nat} (h : cellsAbove b m) (ha : a ≤ b) : cellGet m a = 0 := by
  cases m with
  | nil => rfl
  | cons c l =>
    obtain ⟨k, v⟩ := c
    have : b < k := h (k, v) (List.mem_cons_self ..)
    simp only [cellGet]
    rw [if_neg (by omega), if_pos (by omega)]

theorem cellsAbove_cellSet {m : List Host.Cell} {b a : Nat} {v : Byte} (h : cellsAbove b m) (ha : b < a) :
    cellsAbove b (cellSet m a v) := by
  induction m with
  | nil =>
    simp only [cellSet]
    split <;> simp [cellsAbove, ha]
  | cons c l ih =>
    obtain ⟨k, w⟩ := c
    have hk : b < k := h (k, w) (List.mem_cons_self ..)
    have hl : cellsAbove b l := fun c hc => h c (List.mem_cons_of_mem _ hc)
    simp only [cellSet]
    split
    · split
      · exact hl
      · intro c hc
        rcases List.mem_cons.1 hc with rfl | hc
        · exact ha
        · exact hl c hc
    · split
      · split
        · exact h
        · intro c hc
          rcases List.mem_cons.1 hc with rfl | hc
          · exact ha
          · exact h c hc
      · intro c hc
        rcases List.mem_cons.1 hc with rfl | hc
        · exact hk
        · exact ih hl c hc

/-- Writing a byte keeps the canonical form. -/
theorem cellSet_wf {m : List Host.Cell} (a : Nat) (v : Byte) (h : Memory.wf m = true) :
    Memory.wf (cellSet m a v) = true := by
  induction m with
  | nil =>
    simp only [cellSet]
    split <;> simp_all [Memory.wf]
  | cons c l ih =>
    obtain ⟨k, w⟩ := c
    obtain ⟨hw, ha, hl⟩ := (wf_cons k w l).1 h
    simp only [cellSet]
    split
    · split
      · exact hl
      · subst_vars
        exact (wf_cons _ _ _).2 ⟨‹_›, ha, hl⟩
    · split
      · split
        · exact h
        · refine (wf_cons _ _ _).2 ⟨‹_›, fun c hc => ?_, h⟩
          rcases List.mem_cons.1 hc with rfl | hc
          · assumption
          · exact Nat.lt_trans ‹a < k› (ha c hc)
      · exact (wf_cons _ _ _).2 ⟨hw, cellsAbove_cellSet ha (by omega), ih hl⟩

/-- Reading the address that a write wrote. -/
@[simp] theorem cellGet_cellSet_same {m : List Host.Cell} (a : Nat) (v : Byte) (h : Memory.wf m = true) :
    cellGet (cellSet m a v) a = v := by
  induction m with
  | nil =>
    simp only [cellSet]
    split <;> simp_all [cellGet]
  | cons c l ih =>
    obtain ⟨k, w⟩ := c
    obtain ⟨hw, ha, hl⟩ := (wf_cons k w l).1 h
    simp only [cellSet]
    split
    · subst_vars
      split
      · subst_vars
        exact cellGet_below ha (Nat.le_refl _)
      · simp [cellGet]
    · split
      · split
        · simp only [cellGet]
          rw [if_neg (by omega), if_pos (by omega)]
          exact Eq.symm ‹_›
        · simp [cellGet]
      · simp only [cellGet]
        rw [if_neg (by omega), if_neg (by omega)]
        exact ih hl

/-- A write leaves every other address alone. -/
theorem cellGet_cellSet_other {m : List Host.Cell} {a b : Nat} (v : Byte) (h : Memory.wf m = true) (hab : b ≠ a) :
    cellGet (cellSet m a v) b = cellGet m b := by
  induction m with
  | nil =>
    simp only [cellSet]
    split
    · rfl
    · simp only [cellGet]
      rw [if_neg (by omega)]
      split <;> rfl
  | cons c l ih =>
    obtain ⟨k, w⟩ := c
    obtain ⟨hw, ha, hl⟩ := (wf_cons k w l).1 h
    simp only [cellSet]
    split
    · subst_vars
      split
      · simp only [cellGet]
        rw [if_neg (Ne.symm hab)]
        split
        · exact cellGet_below ha (Nat.le_of_lt ‹_›)
        · rfl
      · simp only [cellGet]
        rw [if_neg (Ne.symm hab), if_neg (Ne.symm hab)]
    · split
      · split
        · rfl
        · simp only [cellGet]
          rw [if_neg (Ne.symm hab)]
          split
          · rw [if_neg (by omega), if_pos (by omega)]
          · rfl
      · simp only [cellGet, ih hl]

/-- Writing consecutive bytes keeps the canonical form. -/
theorem cellsSet_wf {m : List Host.Cell} (a : Nat) (l : List Byte) (h : Memory.wf m = true) :
    Memory.wf (cellsSet m a l) = true := by
  induction l generalizing m a with
  | nil => exact h
  | cons b l ih => exact ih _ (cellSet_wf a b h)

/-- Writing consecutive bytes leaves the addresses outside them alone. -/
theorem cellGet_cellsSet_other {m : List Host.Cell} {a b : Nat} (l : List Byte) (h : Memory.wf m = true)
    (hab : b < a ∨ a + l.length ≤ b) : cellGet (cellsSet m a l) b = cellGet m b := by
  induction l generalizing m a with
  | nil => rfl
  | cons x l ih =>
    simp only [List.length_cons] at hab
    rw [cellsSet, ih (cellSet_wf a x h) (by omega), cellGet_cellSet_other x h (by omega)]

/-- Reading a byte that a write of consecutive bytes wrote. -/
theorem cellGet_cellsSet_in {m : List Host.Cell} {a i : Nat} (l : List Byte) (h : Memory.wf m = true) (hi : i < l.length) :
    cellGet (cellsSet m a l) (a + i) = l[i] := by
  induction l generalizing m a i with
  | nil => simp at hi
  | cons x l ih =>
    cases i with
    | zero =>
      rw [cellsSet, cellGet_cellsSet_other l (cellSet_wf a x h) (by omega)]
      simp [h]
    | succ i =>
      have := ih (a := a + 1) (i := i) (cellSet_wf a x h) (by simpa using hi)
      simp only [cellsSet, List.getElem_cons_succ]
      rw [← this]
      congr 1
      omega

/-- Dropping cells keeps the canonical form. -/
theorem filter_wf {m : List Host.Cell} (p : Host.Cell → Bool) (h : Memory.wf m = true) :
    Memory.wf (m.filter p) = true := by
  induction m with
  | nil => rfl
  | cons c l ih =>
    obtain ⟨k, w⟩ := c
    obtain ⟨hw, ha, hl⟩ := (wf_cons k w l).1 h
    simp only [List.filter_cons]
    split
    · exact (wf_cons _ _ _).2 ⟨hw, fun c hc => ha c (List.mem_filter.1 hc).1, ih hl⟩
    · exact ih hl

end Sys2Proof.Machine
end

