-- ==== Sys2Proof/Laws/Sound.lean ====
section
/-! SUPPORT. Laws/Sound.lean: what every operation of the model keeps: the queue of waiting commands, the canonical form of
device and host memory, and each kind of state that it does not write. A lemma <operation>_sound says it of one operation; its
number gives the kinds of state that the operation may write, bit i for the i-th constructor of Field. -/

namespace Sys2Proof.Machine

open Sys2Proof

/-- What is asked of a state: the state it began as, whether memories are to stand in their canonical form, and the kinds of
state that may have changed, bit i for the i-th constructor of Field. -/
structure Frame where
  base : State
  ok : Prop
  w : Nat

/-- Every kind of state in `m` is in `w`. -/
def sub (m w : Nat) : Bool := m &&& w == m

theorem sub_trans {a b c : Nat} (h1 : sub a b = true) (h2 : sub b c = true) : sub a c = true := by
  simp only [sub, beq_iff_eq] at *
  rw [← h1, Nat.and_assoc, h2]

/-- The commands that wait are those of the beginning; where it is asked for, both memories stand in their canonical form; what
may not have changed has not. -/
structure Sound (Q : Frame) (s : State) : Prop where
  pend : s.pending = Q.base.pending
  mem : Q.ok → Memory.wf s.mem = true
  host : Q.ok → Memory.wf s.hostMem = true
  keep : ∀ f : Field, Q.w.testBit f.ctorIdx = false → f.same Q.base s

variable {Q : Frame}

theorem sound_of_memOk {s : State} (w : Nat) (h : s.memOk = true) : Sound ⟨s, True, w⟩ s := by
  simp only [State.memOk, Bool.and_eq_true] at h
  exact ⟨rfl, fun _ => h.1, fun _ => h.2, fun f _ => by cases f <;> rfl⟩

theorem Sound.memOk {b : State} {w : Nat} {s : State} (h : Sound ⟨b, True, w⟩ s) : s.memOk = true := by
  simp [State.memOk, h.mem trivial, h.host trivial]

/-- Every state is sound where memory is not asked about. -/
theorem sound_self (s : State) (w : Nat) : Sound ⟨s, False, w⟩ s :=
  ⟨rfl, False.elim, False.elim, fun f _ => by cases f <;> rfl⟩

/-- What an operation that writes the kinds of state in `m` leaves unchanged. -/
theorem unwritten {s t : State} {m : Nat} (h : ∀ Q : Frame, Sound Q s → sub m Q.w = true → Sound Q t) (f : Field)
    (hf : m.testBit f.ctorIdx = false) : f.same s t :=
  (h ⟨s, False, m⟩ (sound_self s m) (by simp [sub])).keep f hf

/-- A sound state's unwritten kinds, by a list of those written. -/
theorem Sound.keeps {b : State} {p : Prop} {m : Nat} {w : List Field} {s : State} (h : Sound ⟨b, p, m⟩ s)
    (hw : ∀ f : Field, f ∉ w → m.testBit f.ctorIdx = false) : Keeps w b s := fun f hf => h.keep f (hw f hf)

/-- What the result of an instruction carries is sound. -/
inductive ISound (Q : Frame) : IRes → Prop where
  | done {s : State} (h : Sound Q s) : ISound Q (.done s)
  | jump {pc : DWord} {s : State} (h : Sound Q s) : ISound Q (.jump pc s)
  | trap {c v : Nat} {s : State} (h : Sound Q s) : ISound Q (.trap c v s)
  | stall {s : State} (h : Sound Q s) : ISound Q (.stall s)

theorem isound_trap {r : IRes} {c v : Nat} {s : State} (e : r = .trap c v s) (h : ISound Q r) : Sound Q s := by
  subst e
  cases h
  assumption

theorem isound_stall {r : IRes} {s : State} (e : r = .stall s) (h : ISound Q r) : Sound Q s := by
  subst e
  cases h
  assumption

/-- A state that may be there is sound. -/
inductive OSound (Q : Frame) : Option State → Prop where
  | none : OSound Q none
  | some {s : State} (h : Sound Q s) : OSound Q (some s)

theorem osound_some {r : Option State} {s : State} (e : r = some s) (h : OSound Q r) : Sound Q s := by
  subst e
  cases h
  assumption

theorem osound_getD {r : Option State} {s : State} (h : OSound Q r) (hs : Sound Q s) : Sound Q (r.getD s) := by
  cases h
  · exact hs
  · assumption

theorem osound_findSome {α : Type} {l : List α} {f : α → Option State} (hf : ∀ x, OSound Q (f x)) :
    OSound Q (l.findSome? f) := by
  induction l with
  | nil => exact OSound.none
  | cons x l ih =>
    rw [List.findSome?_cons]
    split
    · next t e => exact e ▸ hf x
    · exact ih

theorem osound_bind {o : Option State} {f : State → Option State} (h : OSound Q o) (hf : ∀ t, Sound Q t → OSound Q (f t)) :
    OSound Q (o.bind f) := by
  cases h
  · exact OSound.none
  · exact hf _ ‹_›

theorem osound_map {o : Option State} {f : State → State} (h : OSound Q o) (hf : ∀ t, Sound Q t → Sound Q (f t)) :
    OSound Q (o.map f) := by
  cases h
  · exact OSound.none
  · exact OSound.some (hf _ ‹_›)

theorem osound_foldl {α : Type} {l : List α} {f : Option State → α → Option State} {o : Option State}
    (hf : ∀ a x, OSound Q a → OSound Q (f a x)) (h : OSound Q o) : OSound Q (l.foldl f o) := by
  induction l generalizing o with
  | nil => exact h
  | cons x l ih => exact ih (hf o x h)

/-- What an outcome carries is sound. -/
inductive OutSound (Q : Frame) : Host.Outcome State Fault Refusal → Prop where
  | next {s : State} (h : Sound Q s) : OutSound Q (.next s)
  | fault {r : Fault} : OutSound Q (.fault r)
  | refused {r : Refusal} : OutSound Q (.refused r)

theorem outSound_next {o : Host.Outcome State Fault Refusal} {s : State} (e : o = .next s) (h : OutSound Q o) : Sound Q s := by
  subst e
  cases h
  assumption

theorem testBit_of_sub {m w i : Nat} (h : sub m w = true) (hi : m.testBit i = true) : ¬ w.testBit i = false := by
  simp only [sub, beq_iff_eq] at h
  rw [← h, Nat.testBit_and] at hi
  simp_all

/-! Updates that leave the queue and both memories alone. -/

theorem sound_set_free {s : State} (hw : sub 1 Q.w = true) :
    Sound Q { s with free := y0 } ↔ Sound Q s :=
  ⟨fun h => ⟨h.pend, h.mem, h.host, fun f hf => by cases f <;> first | exact h.keep _ hf | exact absurd hf (testBit_of_sub hw (by decide))⟩,
    fun h => ⟨h.pend, h.mem, h.host, fun f hf => by cases f <;> first | exact h.keep _ hf | exact absurd hf (testBit_of_sub hw (by decide))⟩⟩

theorem sound_set_now {s : State} (hw : sub 2 Q.w = true) :
    Sound Q { s with now := y1 } ↔ Sound Q s :=
  ⟨fun h => ⟨h.pend, h.mem, h.host, fun f hf => by cases f <;> first | exact h.keep _ hf | exact absurd hf (testBit_of_sub hw (by decide))⟩,
    fun h => ⟨h.pend, h.mem, h.host, fun f hf => by cases f <;> first | exact h.keep _ hf | exact absurd hf (testBit_of_sub hw (by decide))⟩⟩

theorem sound_set_regs {s : State} (hw : sub 4 Q.w = true) :
    Sound Q { s with regs := y2 } ↔ Sound Q s :=
  ⟨fun h => ⟨h.pend, h.mem, h.host, fun f hf => by cases f <;> first | exact h.keep _ hf | exact absurd hf (testBit_of_sub hw (by decide))⟩,
    fun h => ⟨h.pend, h.mem, h.host, fun f hf => by cases f <;> first | exact h.keep _ hf | exact absurd hf (testBit_of_sub hw (by decide))⟩⟩

theorem sound_set_poison {s : State} (hw : sub 16 Q.w = true) :
    Sound Q { s with poison := y4 } ↔ Sound Q s :=
  ⟨fun h => ⟨h.pend, h.mem, h.host, fun f hf => by cases f <;> first | exact h.keep _ hf | exact absurd hf (testBit_of_sub hw (by decide))⟩,
    fun h => ⟨h.pend, h.mem, h.host, fun f hf => by cases f <;> first | exact h.keep _ hf | exact absurd hf (testBit_of_sub hw (by decide))⟩⟩

theorem sound_set_upsets {s : State} (hw : sub 32 Q.w = true) :
    Sound Q { s with upsets := y5 } ↔ Sound Q s :=
  ⟨fun h => ⟨h.pend, h.mem, h.host, fun f hf => by cases f <;> first | exact h.keep _ hf | exact absurd hf (testBit_of_sub hw (by decide))⟩,
    fun h => ⟨h.pend, h.mem, h.host, fun f hf => by cases f <;> first | exact h.keep _ hf | exact absurd hf (testBit_of_sub hw (by decide))⟩⟩

theorem sound_set_pw {s : State} (hw : sub 256 Q.w = true) :
    Sound Q { s with pw := y8 } ↔ Sound Q s :=
  ⟨fun h => ⟨h.pend, h.mem, h.host, fun f hf => by cases f <;> first | exact h.keep _ hf | exact absurd hf (testBit_of_sub hw (by decide))⟩,
    fun h => ⟨h.pend, h.mem, h.host, fun f hf => by cases f <;> first | exact h.keep _ hf | exact absurd hf (testBit_of_sub hw (by decide))⟩⟩

theorem sound_set_boot {s : State} (hw : sub 512 Q.w = true) :
    Sound Q { s with boot := y9 } ↔ Sound Q s :=
  ⟨fun h => ⟨h.pend, h.mem, h.host, fun f hf => by cases f <;> first | exact h.keep _ hf | exact absurd hf (testBit_of_sub hw (by decide))⟩,
    fun h => ⟨h.pend, h.mem, h.host, fun f hf => by cases f <;> first | exact h.keep _ hf | exact absurd hf (testBit_of_sub hw (by decide))⟩⟩

theorem sound_set_cores {s : State} (hw : sub 1024 Q.w = true) :
    Sound Q { s with cores := y10 } ↔ Sound Q s :=
  ⟨fun h => ⟨h.pend, h.mem, h.host, fun f hf => by cases f <;> first | exact h.keep _ hf | exact absurd hf (testBit_of_sub hw (by decide))⟩,
    fun h => ⟨h.pend, h.mem, h.host, fun f hf => by cases f <;> first | exact h.keep _ hf | exact absurd hf (testBit_of_sub hw (by decide))⟩⟩

theorem sound_set_homes {s : State} (hw : sub 2048 Q.w = true) :
    Sound Q { s with homes := y11 } ↔ Sound Q s :=
  ⟨fun h => ⟨h.pend, h.mem, h.host, fun f hf => by cases f <;> first | exact h.keep _ hf | exact absurd hf (testBit_of_sub hw (by decide))⟩,
    fun h => ⟨h.pend, h.mem, h.host, fun f hf => by cases f <;> first | exact h.keep _ hf | exact absurd hf (testBit_of_sub hw (by decide))⟩⟩

theorem sound_set_fg {s : State} (hw : sub 4096 Q.w = true) :
    Sound Q { s with fg := y12 } ↔ Sound Q s :=
  ⟨fun h => ⟨h.pend, h.mem, h.host, fun f hf => by cases f <;> first | exact h.keep _ hf | exact absurd hf (testBit_of_sub hw (by decide))⟩,
    fun h => ⟨h.pend, h.mem, h.host, fun f hf => by cases f <;> first | exact h.keep _ hf | exact absurd hf (testBit_of_sub hw (by decide))⟩⟩

theorem sound_set_sengs {s : State} (hw : sub 8192 Q.w = true) :
    Sound Q { s with sengs := y13 } ↔ Sound Q s :=
  ⟨fun h => ⟨h.pend, h.mem, h.host, fun f hf => by cases f <;> first | exact h.keep _ hf | exact absurd hf (testBit_of_sub hw (by decide))⟩,
    fun h => ⟨h.pend, h.mem, h.host, fun f hf => by cases f <;> first | exact h.keep _ hf | exact absurd hf (testBit_of_sub hw (by decide))⟩⟩

theorem sound_set_graphs {s : State} (hw : sub 16384 Q.w = true) :
    Sound Q { s with graphs := y14 } ↔ Sound Q s :=
  ⟨fun h => ⟨h.pend, h.mem, h.host, fun f hf => by cases f <;> first | exact h.keep _ hf | exact absurd hf (testBit_of_sub hw (by decide))⟩,
    fun h => ⟨h.pend, h.mem, h.host, fun f hf => by cases f <;> first | exact h.keep _ hf | exact absurd hf (testBit_of_sub hw (by decide))⟩⟩

theorem sound_set_chans {s : State} (hw : sub 32768 Q.w = true) :
    Sound Q { s with chans := y15 } ↔ Sound Q s :=
  ⟨fun h => ⟨h.pend, h.mem, h.host, fun f hf => by cases f <;> first | exact h.keep _ hf | exact absurd hf (testBit_of_sub hw (by decide))⟩,
    fun h => ⟨h.pend, h.mem, h.host, fun f hf => by cases f <;> first | exact h.keep _ hf | exact absurd hf (testBit_of_sub hw (by decide))⟩⟩

theorem sound_set_modes {s : State} (hw : sub 65536 Q.w = true) :
    Sound Q { s with modes := y16 } ↔ Sound Q s :=
  ⟨fun h => ⟨h.pend, h.mem, h.host, fun f hf => by cases f <;> first | exact h.keep _ hf | exact absurd hf (testBit_of_sub hw (by decide))⟩,
    fun h => ⟨h.pend, h.mem, h.host, fun f hf => by cases f <;> first | exact h.keep _ hf | exact absurd hf (testBit_of_sub hw (by decide))⟩⟩

theorem sound_set_tlb {s : State} (hw : sub 131072 Q.w = true) :
    Sound Q { s with tlb := y17 } ↔ Sound Q s :=
  ⟨fun h => ⟨h.pend, h.mem, h.host, fun f hf => by cases f <;> first | exact h.keep _ hf | exact absurd hf (testBit_of_sub hw (by decide))⟩,
    fun h => ⟨h.pend, h.mem, h.host, fun f hf => by cases f <;> first | exact h.keep _ hf | exact absurd hf (testBit_of_sub hw (by decide))⟩⟩

theorem sound_set_queues {s : State} (hw : sub 262144 Q.w = true) :
    Sound Q { s with queues := y18 } ↔ Sound Q s :=
  ⟨fun h => ⟨h.pend, h.mem, h.host, fun f hf => by cases f <;> first | exact h.keep _ hf | exact absurd hf (testBit_of_sub hw (by decide))⟩,
    fun h => ⟨h.pend, h.mem, h.host, fun f hf => by cases f <;> first | exact h.keep _ hf | exact absurd hf (testBit_of_sub hw (by decide))⟩⟩

theorem sound_set_hostRr {s : State} (hw : sub 524288 Q.w = true) :
    Sound Q { s with hostRr := y19 } ↔ Sound Q s :=
  ⟨fun h => ⟨h.pend, h.mem, h.host, fun f hf => by cases f <;> first | exact h.keep _ hf | exact absurd hf (testBit_of_sub hw (by decide))⟩,
    fun h => ⟨h.pend, h.mem, h.host, fun f hf => by cases f <;> first | exact h.keep _ hf | exact absurd hf (testBit_of_sub hw (by decide))⟩⟩

theorem sound_set_ras {s : State} (hw : sub 1048576 Q.w = true) :
    Sound Q { s with ras := y20 } ↔ Sound Q s :=
  ⟨fun h => ⟨h.pend, h.mem, h.host, fun f hf => by cases f <;> first | exact h.keep _ hf | exact absurd hf (testBit_of_sub hw (by decide))⟩,
    fun h => ⟨h.pend, h.mem, h.host, fun f hf => by cases f <;> first | exact h.keep _ hf | exact absurd hf (testBit_of_sub hw (by decide))⟩⟩

theorem sound_set_links {s : State} (hw : sub 2097152 Q.w = true) :
    Sound Q { s with links := y21 } ↔ Sound Q s :=
  ⟨fun h => ⟨h.pend, h.mem, h.host, fun f hf => by cases f <;> first | exact h.keep _ hf | exact absurd hf (testBit_of_sub hw (by decide))⟩,
    fun h => ⟨h.pend, h.mem, h.host, fun f hf => by cases f <;> first | exact h.keep _ hf | exact absurd hf (testBit_of_sub hw (by decide))⟩⟩

theorem sound_set_serial {s : State} (hw : sub 4194304 Q.w = true) :
    Sound Q { s with serial := y22 } ↔ Sound Q s :=
  ⟨fun h => ⟨h.pend, h.mem, h.host, fun f hf => by cases f <;> first | exact h.keep _ hf | exact absurd hf (testBit_of_sub hw (by decide))⟩,
    fun h => ⟨h.pend, h.mem, h.host, fun f hf => by cases f <;> first | exact h.keep _ hf | exact absurd hf (testBit_of_sub hw (by decide))⟩⟩

theorem sound_set_servers {s : State} (hw : sub 8388608 Q.w = true) :
    Sound Q { s with servers := y23 } ↔ Sound Q s :=
  ⟨fun h => ⟨h.pend, h.mem, h.host, fun f hf => by cases f <;> first | exact h.keep _ hf | exact absurd hf (testBit_of_sub hw (by decide))⟩,
    fun h => ⟨h.pend, h.mem, h.host, fun f hf => by cases f <;> first | exact h.keep _ hf | exact absurd hf (testBit_of_sub hw (by decide))⟩⟩

theorem sound_set_units {s : State} (hw : sub 16777216 Q.w = true) :
    Sound Q { s with units := y24 } ↔ Sound Q s :=
  ⟨fun h => ⟨h.pend, h.mem, h.host, fun f hf => by cases f <;> first | exact h.keep _ hf | exact absurd hf (testBit_of_sub hw (by decide))⟩,
    fun h => ⟨h.pend, h.mem, h.host, fun f hf => by cases f <;> first | exact h.keep _ hf | exact absurd hf (testBit_of_sub hw (by decide))⟩⟩

theorem sound_set_upk {s : State} (hw : sub 33554432 Q.w = true) :
    Sound Q { s with upk := y25 } ↔ Sound Q s :=
  ⟨fun h => ⟨h.pend, h.mem, h.host, fun f hf => by cases f <;> first | exact h.keep _ hf | exact absurd hf (testBit_of_sub hw (by decide))⟩,
    fun h => ⟨h.pend, h.mem, h.host, fun f hf => by cases f <;> first | exact h.keep _ hf | exact absurd hf (testBit_of_sub hw (by decide))⟩⟩

theorem sound_set_seqTx {s : State} (hw : sub 67108864 Q.w = true) :
    Sound Q { s with seqTx := y26 } ↔ Sound Q s :=
  ⟨fun h => ⟨h.pend, h.mem, h.host, fun f hf => by cases f <;> first | exact h.keep _ hf | exact absurd hf (testBit_of_sub hw (by decide))⟩,
    fun h => ⟨h.pend, h.mem, h.host, fun f hf => by cases f <;> first | exact h.keep _ hf | exact absurd hf (testBit_of_sub hw (by decide))⟩⟩

theorem sound_set_seqRx {s : State} (hw : sub 134217728 Q.w = true) :
    Sound Q { s with seqRx := y27 } ↔ Sound Q s :=
  ⟨fun h => ⟨h.pend, h.mem, h.host, fun f hf => by cases f <;> first | exact h.keep _ hf | exact absurd hf (testBit_of_sub hw (by decide))⟩,
    fun h => ⟨h.pend, h.mem, h.host, fun f hf => by cases f <;> first | exact h.keep _ hf | exact absurd hf (testBit_of_sub hw (by decide))⟩⟩

theorem sound_set_tables {s : State} (hw : sub 536870912 Q.w = true) :
    Sound Q { s with tables := y29 } ↔ Sound Q s :=
  ⟨fun h => ⟨h.pend, h.mem, h.host, fun f hf => by cases f <;> first | exact h.keep _ hf | exact absurd hf (testBit_of_sub hw (by decide))⟩,
    fun h => ⟨h.pend, h.mem, h.host, fun f hf => by cases f <;> first | exact h.keep _ hf | exact absurd hf (testBit_of_sub hw (by decide))⟩⟩

theorem sound_set_moves {s : State} (hw : sub 1073741824 Q.w = true) :
    Sound Q { s with moves := y30 } ↔ Sound Q s :=
  ⟨fun h => ⟨h.pend, h.mem, h.host, fun f hf => by cases f <;> first | exact h.keep _ hf | exact absurd hf (testBit_of_sub hw (by decide))⟩,
    fun h => ⟨h.pend, h.mem, h.host, fun f hf => by cases f <;> first | exact h.keep _ hf | exact absurd hf (testBit_of_sub hw (by decide))⟩⟩

theorem sound_set_epWaits {s : State} (hw : sub 2147483648 Q.w = true) :
    Sound Q { s with epWaits := y31 } ↔ Sound Q s :=
  ⟨fun h => ⟨h.pend, h.mem, h.host, fun f hf => by cases f <;> first | exact h.keep _ hf | exact absurd hf (testBit_of_sub hw (by decide))⟩,
    fun h => ⟨h.pend, h.mem, h.host, fun f hf => by cases f <;> first | exact h.keep _ hf | exact absurd hf (testBit_of_sub hw (by decide))⟩⟩

theorem sound_set_repair {s : State} (hw : sub 8589934592 Q.w = true) :
    Sound Q { s with repair := y33 } ↔ Sound Q s :=
  ⟨fun h => ⟨h.pend, h.mem, h.host, fun f hf => by cases f <;> first | exact h.keep _ hf | exact absurd hf (testBit_of_sub hw (by decide))⟩,
    fun h => ⟨h.pend, h.mem, h.host, fun f hf => by cases f <;> first | exact h.keep _ hf | exact absurd hf (testBit_of_sub hw (by decide))⟩⟩

theorem sound_set_rowTrack {s : State} (hw : sub 17179869184 Q.w = true) :
    Sound Q { s with rowTrack := y34 } ↔ Sound Q s :=
  ⟨fun h => ⟨h.pend, h.mem, h.host, fun f hf => by cases f <;> first | exact h.keep _ hf | exact absurd hf (testBit_of_sub hw (by decide))⟩,
    fun h => ⟨h.pend, h.mem, h.host, fun f hf => by cases f <;> first | exact h.keep _ hf | exact absurd hf (testBit_of_sub hw (by decide))⟩⟩

theorem sound_set_cols {s : State} (hw : sub 34359738368 Q.w = true) :
    Sound Q { s with cols := y35 } ↔ Sound Q s :=
  ⟨fun h => ⟨h.pend, h.mem, h.host, fun f hf => by cases f <;> first | exact h.keep _ hf | exact absurd hf (testBit_of_sub hw (by decide))⟩,
    fun h => ⟨h.pend, h.mem, h.host, fun f hf => by cases f <;> first | exact h.keep _ hf | exact absurd hf (testBit_of_sub hw (by decide))⟩⟩

theorem sound_set_disps {s : State} (hw : sub 68719476736 Q.w = true) :
    Sound Q { s with disps := y36 } ↔ Sound Q s :=
  ⟨fun h => ⟨h.pend, h.mem, h.host, fun f hf => by cases f <;> first | exact h.keep _ hf | exact absurd hf (testBit_of_sub hw (by decide))⟩,
    fun h => ⟨h.pend, h.mem, h.host, fun f hf => by cases f <;> first | exact h.keep _ hf | exact absurd hf (testBit_of_sub hw (by decide))⟩⟩

theorem sound_set_colIn {s : State} (hw : sub 137438953472 Q.w = true) :
    Sound Q { s with colIn := y37 } ↔ Sound Q s :=
  ⟨fun h => ⟨h.pend, h.mem, h.host, fun f hf => by cases f <;> first | exact h.keep _ hf | exact absurd hf (testBit_of_sub hw (by decide))⟩,
    fun h => ⟨h.pend, h.mem, h.host, fun f hf => by cases f <;> first | exact h.keep _ hf | exact absurd hf (testBit_of_sub hw (by decide))⟩⟩

theorem sound_set_flowTx {s : State} (hw : sub 274877906944 Q.w = true) :
    Sound Q { s with flowTx := y38 } ↔ Sound Q s :=
  ⟨fun h => ⟨h.pend, h.mem, h.host, fun f hf => by cases f <;> first | exact h.keep _ hf | exact absurd hf (testBit_of_sub hw (by decide))⟩,
    fun h => ⟨h.pend, h.mem, h.host, fun f hf => by cases f <;> first | exact h.keep _ hf | exact absurd hf (testBit_of_sub hw (by decide))⟩⟩

theorem sound_set_flowWait {s : State} (hw : sub 549755813888 Q.w = true) :
    Sound Q { s with flowWait := y39 } ↔ Sound Q s :=
  ⟨fun h => ⟨h.pend, h.mem, h.host, fun f hf => by cases f <;> first | exact h.keep _ hf | exact absurd hf (testBit_of_sub hw (by decide))⟩,
    fun h => ⟨h.pend, h.mem, h.host, fun f hf => by cases f <;> first | exact h.keep _ hf | exact absurd hf (testBit_of_sub hw (by decide))⟩⟩

theorem sound_set_flowRx {s : State} (hw : sub 1099511627776 Q.w = true) :
    Sound Q { s with flowRx := y40 } ↔ Sound Q s :=
  ⟨fun h => ⟨h.pend, h.mem, h.host, fun f hf => by cases f <;> first | exact h.keep _ hf | exact absurd hf (testBit_of_sub hw (by decide))⟩,
    fun h => ⟨h.pend, h.mem, h.host, fun f hf => by cases f <;> first | exact h.keep _ hf | exact absurd hf (testBit_of_sub hw (by decide))⟩⟩

theorem sound_set_rxParts {s : State} (hw : sub 2199023255552 Q.w = true) :
    Sound Q { s with rxParts := y41 } ↔ Sound Q s :=
  ⟨fun h => ⟨h.pend, h.mem, h.host, fun f hf => by cases f <;> first | exact h.keep _ hf | exact absurd hf (testBit_of_sub hw (by decide))⟩,
    fun h => ⟨h.pend, h.mem, h.host, fun f hf => by cases f <;> first | exact h.keep _ hf | exact absurd hf (testBit_of_sub hw (by decide))⟩⟩

theorem sound_set_upFails {s : State} (hw : sub 4398046511104 Q.w = true) :
    Sound Q { s with upFails := y42 } ↔ Sound Q s :=
  ⟨fun h => ⟨h.pend, h.mem, h.host, fun f hf => by cases f <;> first | exact h.keep _ hf | exact absurd hf (testBit_of_sub hw (by decide))⟩,
    fun h => ⟨h.pend, h.mem, h.host, fun f hf => by cases f <;> first | exact h.keep _ hf | exact absurd hf (testBit_of_sub hw (by decide))⟩⟩

theorem sound_set_upStops {s : State} (hw : sub 8796093022208 Q.w = true) :
    Sound Q { s with upStops := y43 } ↔ Sound Q s :=
  ⟨fun h => ⟨h.pend, h.mem, h.host, fun f hf => by cases f <;> first | exact h.keep _ hf | exact absurd hf (testBit_of_sub hw (by decide))⟩,
    fun h => ⟨h.pend, h.mem, h.host, fun f hf => by cases f <;> first | exact h.keep _ hf | exact absurd hf (testBit_of_sub hw (by decide))⟩⟩

theorem sound_set_top {s : State} (hw : sub 17592186044416 Q.w = true) :
    Sound Q { s with top := y44 } ↔ Sound Q s :=
  ⟨fun h => ⟨h.pend, h.mem, h.host, fun f hf => by cases f <;> first | exact h.keep _ hf | exact absurd hf (testBit_of_sub hw (by decide))⟩,
    fun h => ⟨h.pend, h.mem, h.host, fun f hf => by cases f <;> first | exact h.keep _ hf | exact absurd hf (testBit_of_sub hw (by decide))⟩⟩

theorem sound_set_msix {s : State} (hw : sub 35184372088832 Q.w = true) :
    Sound Q { s with msix := y45 } ↔ Sound Q s :=
  ⟨fun h => ⟨h.pend, h.mem, h.host, fun f hf => by cases f <;> first | exact h.keep _ hf | exact absurd hf (testBit_of_sub hw (by decide))⟩,
    fun h => ⟨h.pend, h.mem, h.host, fun f hf => by cases f <;> first | exact h.keep _ hf | exact absurd hf (testBit_of_sub hw (by decide))⟩⟩

theorem sound_set_latch {s : State} (hw : sub 70368744177664 Q.w = true) :
    Sound Q { s with latch := y46 } ↔ Sound Q s :=
  ⟨fun h => ⟨h.pend, h.mem, h.host, fun f hf => by cases f <;> first | exact h.keep _ hf | exact absurd hf (testBit_of_sub hw (by decide))⟩,
    fun h => ⟨h.pend, h.mem, h.host, fun f hf => by cases f <;> first | exact h.keep _ hf | exact absurd hf (testBit_of_sub hw (by decide))⟩⟩

theorem sound_set_bar2Wait {s : State} (hw : sub 140737488355328 Q.w = true) :
    Sound Q { s with bar2Wait := y47 } ↔ Sound Q s :=
  ⟨fun h => ⟨h.pend, h.mem, h.host, fun f hf => by cases f <;> first | exact h.keep _ hf | exact absurd hf (testBit_of_sub hw (by decide))⟩,
    fun h => ⟨h.pend, h.mem, h.host, fun f hf => by cases f <;> first | exact h.keep _ hf | exact absurd hf (testBit_of_sub hw (by decide))⟩⟩

theorem sound_set_chanWait {s : State} (hw : sub 281474976710656 Q.w = true) :
    Sound Q { s with chanWait := y48 } ↔ Sound Q s :=
  ⟨fun h => ⟨h.pend, h.mem, h.host, fun f hf => by cases f <;> first | exact h.keep _ hf | exact absurd hf (testBit_of_sub hw (by decide))⟩,
    fun h => ⟨h.pend, h.mem, h.host, fun f hf => by cases f <;> first | exact h.keep _ hf | exact absurd hf (testBit_of_sub hw (by decide))⟩⟩

theorem sound_set_out {s : State} (hw : sub 562949953421312 Q.w = true) :
    Sound Q { s with out := y49 } ↔ Sound Q s :=
  ⟨fun h => ⟨h.pend, h.mem, h.host, fun f hf => by cases f <;> first | exact h.keep _ hf | exact absurd hf (testBit_of_sub hw (by decide))⟩,
    fun h => ⟨h.pend, h.mem, h.host, fun f hf => by cases f <;> first | exact h.keep _ hf | exact absurd hf (testBit_of_sub hw (by decide))⟩⟩

theorem sound_set_free_boot {s : State} (hw : sub 513 Q.w = true) :
    Sound Q { s with free := y0, boot := y9 } ↔ Sound Q s :=
  ⟨fun h => ⟨h.pend, h.mem, h.host, fun f hf => by cases f <;> first | exact h.keep _ hf | exact absurd hf (testBit_of_sub hw (by decide))⟩,
    fun h => ⟨h.pend, h.mem, h.host, fun f hf => by cases f <;> first | exact h.keep _ hf | exact absurd hf (testBit_of_sub hw (by decide))⟩⟩

theorem sound_set_now_pw {s : State} (hw : sub 258 Q.w = true) :
    Sound Q { s with now := y1, pw := y8 } ↔ Sound Q s :=
  ⟨fun h => ⟨h.pend, h.mem, h.host, fun f hf => by cases f <;> first | exact h.keep _ hf | exact absurd hf (testBit_of_sub hw (by decide))⟩,
    fun h => ⟨h.pend, h.mem, h.host, fun f hf => by cases f <;> first | exact h.keep _ hf | exact absurd hf (testBit_of_sub hw (by decide))⟩⟩

theorem sound_set_now_top {s : State} (hw : sub 17592186044418 Q.w = true) :
    Sound Q { s with now := y1, top := y44 } ↔ Sound Q s :=
  ⟨fun h => ⟨h.pend, h.mem, h.host, fun f hf => by cases f <;> first | exact h.keep _ hf | exact absurd hf (testBit_of_sub hw (by decide))⟩,
    fun h => ⟨h.pend, h.mem, h.host, fun f hf => by cases f <;> first | exact h.keep _ hf | exact absurd hf (testBit_of_sub hw (by decide))⟩⟩

theorem sound_set_regs_and_25 {s : State} (hw : sub 545606399327492 Q.w = true) :
    Sound Q { s with
        regs := y2, pw := y8, cores := y10, homes := y11, fg := y12, sengs := y13, graphs := y14, tlb :=
        y17, queues := y18, hostRr := y19, ras := y20, servers := y23, units := y24, upk := y25, tables :=
        y29, moves := y30, epWaits := y31, retired := y32, cols := y35, disps := y36, colIn := y37, top :=
        y44, msix := y45, latch := y46, bar2Wait := y47, chanWait := y48 } ↔ Sound Q s :=
  ⟨fun h => ⟨h.pend, h.mem, h.host, fun f hf => by cases f <;> first | exact h.keep _ hf | exact absurd hf (testBit_of_sub hw (by decide))⟩,
    fun h => ⟨h.pend, h.mem, h.host, fun f hf => by cases f <;> first | exact h.keep _ hf | exact absurd hf (testBit_of_sub hw (by decide))⟩⟩

theorem sound_set_poison_upsets {s : State} (hw : sub 48 Q.w = true) :
    Sound Q { s with poison := y4, upsets := y5 } ↔ Sound Q s :=
  ⟨fun h => ⟨h.pend, h.mem, h.host, fun f hf => by cases f <;> first | exact h.keep _ hf | exact absurd hf (testBit_of_sub hw (by decide))⟩,
    fun h => ⟨h.pend, h.mem, h.host, fun f hf => by cases f <;> first | exact h.keep _ hf | exact absurd hf (testBit_of_sub hw (by decide))⟩⟩

theorem sound_set_pw_boot_ras {s : State} (hw : sub 1049344 Q.w = true) :
    Sound Q { s with pw := y8, boot := y9, ras := y20 } ↔ Sound Q s :=
  ⟨fun h => ⟨h.pend, h.mem, h.host, fun f hf => by cases f <;> first | exact h.keep _ hf | exact absurd hf (testBit_of_sub hw (by decide))⟩,
    fun h => ⟨h.pend, h.mem, h.host, fun f hf => by cases f <;> first | exact h.keep _ hf | exact absurd hf (testBit_of_sub hw (by decide))⟩⟩

theorem sound_set_pw_graphs_tables_top {s : State} (hw : sub 17592722931968 Q.w = true) :
    Sound Q { s with pw := y8, graphs := y14, tables := y29, top := y44 } ↔ Sound Q s :=
  ⟨fun h => ⟨h.pend, h.mem, h.host, fun f hf => by cases f <;> first | exact h.keep _ hf | exact absurd hf (testBit_of_sub hw (by decide))⟩,
    fun h => ⟨h.pend, h.mem, h.host, fun f hf => by cases f <;> first | exact h.keep _ hf | exact absurd hf (testBit_of_sub hw (by decide))⟩⟩

theorem sound_set_pw_chans {s : State} (hw : sub 33024 Q.w = true) :
    Sound Q { s with pw := y8, chans := y15 } ↔ Sound Q s :=
  ⟨fun h => ⟨h.pend, h.mem, h.host, fun f hf => by cases f <;> first | exact h.keep _ hf | exact absurd hf (testBit_of_sub hw (by decide))⟩,
    fun h => ⟨h.pend, h.mem, h.host, fun f hf => by cases f <;> first | exact h.keep _ hf | exact absurd hf (testBit_of_sub hw (by decide))⟩⟩

theorem sound_set_pw_units {s : State} (hw : sub 16777472 Q.w = true) :
    Sound Q { s with pw := y8, units := y24 } ↔ Sound Q s :=
  ⟨fun h => ⟨h.pend, h.mem, h.host, fun f hf => by cases f <;> first | exact h.keep _ hf | exact absurd hf (testBit_of_sub hw (by decide))⟩,
    fun h => ⟨h.pend, h.mem, h.host, fun f hf => by cases f <;> first | exact h.keep _ hf | exact absurd hf (testBit_of_sub hw (by decide))⟩⟩

theorem sound_set_pw_units_tables {s : State} (hw : sub 553648384 Q.w = true) :
    Sound Q { s with pw := y8, units := y24, tables := y29 } ↔ Sound Q s :=
  ⟨fun h => ⟨h.pend, h.mem, h.host, fun f hf => by cases f <;> first | exact h.keep _ hf | exact absurd hf (testBit_of_sub hw (by decide))⟩,
    fun h => ⟨h.pend, h.mem, h.host, fun f hf => by cases f <;> first | exact h.keep _ hf | exact absurd hf (testBit_of_sub hw (by decide))⟩⟩

theorem sound_set_boot_modes {s : State} (hw : sub 66048 Q.w = true) :
    Sound Q { s with boot := y9, modes := y16 } ↔ Sound Q s :=
  ⟨fun h => ⟨h.pend, h.mem, h.host, fun f hf => by cases f <;> first | exact h.keep _ hf | exact absurd hf (testBit_of_sub hw (by decide))⟩,
    fun h => ⟨h.pend, h.mem, h.host, fun f hf => by cases f <;> first | exact h.keep _ hf | exact absurd hf (testBit_of_sub hw (by decide))⟩⟩

theorem sound_set_boot_ras {s : State} (hw : sub 1049088 Q.w = true) :
    Sound Q { s with boot := y9, ras := y20 } ↔ Sound Q s :=
  ⟨fun h => ⟨h.pend, h.mem, h.host, fun f hf => by cases f <;> first | exact h.keep _ hf | exact absurd hf (testBit_of_sub hw (by decide))⟩,
    fun h => ⟨h.pend, h.mem, h.host, fun f hf => by cases f <;> first | exact h.keep _ hf | exact absurd hf (testBit_of_sub hw (by decide))⟩⟩

theorem sound_set_boot_msix {s : State} (hw : sub 35184372089344 Q.w = true) :
    Sound Q { s with boot := y9, msix := y45 } ↔ Sound Q s :=
  ⟨fun h => ⟨h.pend, h.mem, h.host, fun f hf => by cases f <;> first | exact h.keep _ hf | exact absurd hf (testBit_of_sub hw (by decide))⟩,
    fun h => ⟨h.pend, h.mem, h.host, fun f hf => by cases f <;> first | exact h.keep _ hf | exact absurd hf (testBit_of_sub hw (by decide))⟩⟩

theorem sound_set_homes_fg {s : State} (hw : sub 6144 Q.w = true) :
    Sound Q { s with homes := y11, fg := y12 } ↔ Sound Q s :=
  ⟨fun h => ⟨h.pend, h.mem, h.host, fun f hf => by cases f <;> first | exact h.keep _ hf | exact absurd hf (testBit_of_sub hw (by decide))⟩,
    fun h => ⟨h.pend, h.mem, h.host, fun f hf => by cases f <;> first | exact h.keep _ hf | exact absurd hf (testBit_of_sub hw (by decide))⟩⟩

theorem sound_set_ras_top {s : State} (hw : sub 17592187092992 Q.w = true) :
    Sound Q { s with ras := y20, top := y44 } ↔ Sound Q s :=
  ⟨fun h => ⟨h.pend, h.mem, h.host, fun f hf => by cases f <;> first | exact h.keep _ hf | exact absurd hf (testBit_of_sub hw (by decide))⟩,
    fun h => ⟨h.pend, h.mem, h.host, fun f hf => by cases f <;> first | exact h.keep _ hf | exact absurd hf (testBit_of_sub hw (by decide))⟩⟩

theorem sound_set_links_and_11 {s : State} (hw : sub 35083576672256 Q.w = true) :
    Sound Q { s with
        links := y21, seqRx := y27, epWaits := y31, cols := y35, colIn := y37, flowTx := y38, flowWait :=
        y39, flowRx := y40, rxParts := y41, upFails := y42, upStops := y43, top := y44 } ↔ Sound Q s :=
  ⟨fun h => ⟨h.pend, h.mem, h.host, fun f hf => by cases f <;> first | exact h.keep _ hf | exact absurd hf (testBit_of_sub hw (by decide))⟩,
    fun h => ⟨h.pend, h.mem, h.host, fun f hf => by cases f <;> first | exact h.keep _ hf | exact absurd hf (testBit_of_sub hw (by decide))⟩⟩

theorem sound_set_links_and_10 {s : State} (hw : sub 35049216933888 Q.w = true) :
    Sound Q { s with
        links := y21, seqRx := y27, epWaits := y31, colIn := y37, flowTx := y38, flowWait := y39, flowRx :=
        y40, rxParts := y41, upFails := y42, upStops := y43, top := y44 } ↔ Sound Q s :=
  ⟨fun h => ⟨h.pend, h.mem, h.host, fun f hf => by cases f <;> first | exact h.keep _ hf | exact absurd hf (testBit_of_sub hw (by decide))⟩,
    fun h => ⟨h.pend, h.mem, h.host, fun f hf => by cases f <;> first | exact h.keep _ hf | exact absurd hf (testBit_of_sub hw (by decide))⟩⟩

theorem sound_set_serial_upk {s : State} (hw : sub 37748736 Q.w = true) :
    Sound Q { s with serial := y22, upk := y25 } ↔ Sound Q s :=
  ⟨fun h => ⟨h.pend, h.mem, h.host, fun f hf => by cases f <;> first | exact h.keep _ hf | exact absurd hf (testBit_of_sub hw (by decide))⟩,
    fun h => ⟨h.pend, h.mem, h.host, fun f hf => by cases f <;> first | exact h.keep _ hf | exact absurd hf (testBit_of_sub hw (by decide))⟩⟩

theorem sound_set_serial_epWaits {s : State} (hw : sub 2151677952 Q.w = true) :
    Sound Q { s with serial := y22, epWaits := y31 } ↔ Sound Q s :=
  ⟨fun h => ⟨h.pend, h.mem, h.host, fun f hf => by cases f <;> first | exact h.keep _ hf | exact absurd hf (testBit_of_sub hw (by decide))⟩,
    fun h => ⟨h.pend, h.mem, h.host, fun f hf => by cases f <;> first | exact h.keep _ hf | exact absurd hf (testBit_of_sub hw (by decide))⟩⟩

theorem sound_set_units_upk {s : State} (hw : sub 50331648 Q.w = true) :
    Sound Q { s with units := y24, upk := y25 } ↔ Sound Q s :=
  ⟨fun h => ⟨h.pend, h.mem, h.host, fun f hf => by cases f <;> first | exact h.keep _ hf | exact absurd hf (testBit_of_sub hw (by decide))⟩,
    fun h => ⟨h.pend, h.mem, h.host, fun f hf => by cases f <;> first | exact h.keep _ hf | exact absurd hf (testBit_of_sub hw (by decide))⟩⟩

theorem sound_set_seqTx_srcEpoch {s : State} (hw : sub 335544320 Q.w = true) :
    Sound Q { s with seqTx := y26, srcEpoch := y28 } ↔ Sound Q s :=
  ⟨fun h => ⟨h.pend, h.mem, h.host, fun f hf => by cases f <;> first | exact h.keep _ hf | exact absurd hf (testBit_of_sub hw (by decide))⟩,
    fun h => ⟨h.pend, h.mem, h.host, fun f hf => by cases f <;> first | exact h.keep _ hf | exact absurd hf (testBit_of_sub hw (by decide))⟩⟩

theorem sound_set_tables_retired {s : State} (hw : sub 4831838208 Q.w = true) :
    Sound Q { s with tables := y29, retired := y32 } ↔ Sound Q s :=
  ⟨fun h => ⟨h.pend, h.mem, h.host, fun f hf => by cases f <;> first | exact h.keep _ hf | exact absurd hf (testBit_of_sub hw (by decide))⟩,
    fun h => ⟨h.pend, h.mem, h.host, fun f hf => by cases f <;> first | exact h.keep _ hf | exact absurd hf (testBit_of_sub hw (by decide))⟩⟩

theorem sound_set_tables_retired_top {s : State} (hw : sub 17597017882624 Q.w = true) :
    Sound Q { s with tables := y29, retired := y32, top := y44 } ↔ Sound Q s :=
  ⟨fun h => ⟨h.pend, h.mem, h.host, fun f hf => by cases f <;> first | exact h.keep _ hf | exact absurd hf (testBit_of_sub hw (by decide))⟩,
    fun h => ⟨h.pend, h.mem, h.host, fun f hf => by cases f <;> first | exact h.keep _ hf | exact absurd hf (testBit_of_sub hw (by decide))⟩⟩

theorem sound_set_cols_disps_top {s : State} (hw : sub 17695265259520 Q.w = true) :
    Sound Q { s with cols := y35, disps := y36, top := y44 } ↔ Sound Q s :=
  ⟨fun h => ⟨h.pend, h.mem, h.host, fun f hf => by cases f <;> first | exact h.keep _ hf | exact absurd hf (testBit_of_sub hw (by decide))⟩,
    fun h => ⟨h.pend, h.mem, h.host, fun f hf => by cases f <;> first | exact h.keep _ hf | exact absurd hf (testBit_of_sub hw (by decide))⟩⟩

theorem sound_ite {c : Prop} [Decidable c] {a b : State} (ha : c → Sound Q a) (hb : ¬c → Sound Q b) :
    Sound Q (if c then a else b) := by
  split
  · exact ha ‹_›
  · exact hb ‹_›

theorem pred_ite {α : Type} {P : α → Prop} {c : Prop} [Decidable c] {a b : α} (ha : c → P a) (hb : ¬c → P b) :
    P (if c then a else b) := by
  split
  · exact ha ‹_›
  · exact hb ‹_›

theorem sound_foldl {α : Type} {l : List α} {f : State → α → State} {s : State}
    (hf : ∀ a x, Sound Q a → Sound Q (f a x)) (h : Sound Q s) : Sound Q (l.foldl f s) := by
  induction l generalizing s with
  | nil => exact h
  | cons x l ih => exact ih (hf s x h)

theorem sound_foldr {α : Type} {l : List α} {f : α → State → State} {s : State}
    (hf : ∀ a x, Sound Q a → Sound Q (f x a)) (h : Sound Q s) : Sound Q (l.foldr f s) := by
  induction l with
  | nil => exact h
  | cons x l ih => exact hf _ x ih

/-- A fold that carries something beside the state. -/
theorem sound_foldl_snd {α β : Type} {l : List α} {f : β × State → α → β × State} {s : β × State}
    (hf : ∀ a x, Sound Q a.2 → Sound Q (f a x).2) (h : Sound Q s.2) : Sound Q (l.foldl f s).2 := by
  induction l generalizing s with
  | nil => exact h
  | cons x l ih => exact ih (hf s x h)

theorem sound_foldl_fst {α β : Type} {l : List α} {f : State × β → α → State × β} {s : State × β}
    (hf : ∀ a x, Sound Q a.1 → Sound Q (f a x).1) (h : Sound Q s.1) : Sound Q (l.foldl f s).1 := by
  induction l generalizing s with
  | nil => exact h
  | cons x l ih => exact ih (hf s x h)

theorem sound_foldl_snd2 {α β γ : Type} {l : List α} {f : β × γ × State → α → β × γ × State} {s : β × γ × State}
    (hf : ∀ a x, Sound Q a.2.2 → Sound Q (f a x).2.2) (h : Sound Q s.2.2) : Sound Q (l.foldl f s).2.2 := by
  induction l generalizing s with
  | nil => exact h
  | cons x l ih => exact ih (hf s x h)

/-- The state part of a pair that is sound as a whole. -/
theorem sound_snd_of {α : Type} {p : α × State} {a : α} {t : State} (e : p = (a, t)) (h : Sound Q p.2) : Sound Q t := by
  rw [e] at h
  exact h

theorem sound_snd2_of {α β : Type} {p : α × β × State} {a : α} {b : β} {t : State} (e : p = (a, b, t)) (h : Sound Q p.2.2) :
    Sound Q t := by
  rw [e] at h
  exact h

theorem sound_fst_of {α : Type} {p : State × α} {a : α} {t : State} (e : p = (t, a)) (h : Sound Q p.1) : Sound Q t := by
  rw [e] at h
  exact h

end Sys2Proof.Machine
end

