-- ==== Sys2Proof/Laws/SoundOps.lean ====
section
/-! SUPPORT. Laws/SoundOps.lean: the operations of Machine/Ops.lean keep the waiting commands and the canonical form of both
memories. -/

namespace Sys2Proof.Machine

open Sys2Proof

variable {Q : Frame}

theorem State.setBytes_sound (s : State) (a : Nat) (l : List Byte) (hs : Sound Q s) (hw : sub 72 Q.w = true) :
    Sound Q (State.setBytes s a l) := by
  exact ⟨hs.pend, fun h => cellsSet_wf a l (hs.mem h), hs.host,
    fun f hf => by cases f <;> first | exact hs.keep _ hf | exact absurd hf (testBit_of_sub hw (by decide))⟩

theorem State.makeJunk_sound (s : State) (lo : Nat) (hi : Nat) (hs : Sound Q s) (hw : sub 73 Q.w = true) :
    Sound Q (State.makeJunk s lo hi) := by
  exact ⟨hs.pend, fun h => filter_wf _ (hs.mem h), hs.host,
    fun f hf => by cases f <;> first | exact hs.keep _ hf | exact absurd hf (testBit_of_sub hw (by decide))⟩

theorem State.takeFree_sound (s : State) (hs : Sound Q s) (hw : sub 1 Q.w = true) : Sound Q (State.takeFree s).2 := by
  unfold State.takeFree
  repeat' first
    | with_reducible assumption
    | with_reducible exact sub_trans (by decide) hw
    | with_reducible refine sound_ite (fun _ => ?_) (fun _ => ?_)
    | with_reducible refine sound_foldl (fun _ _ _ => ?_) ?_
    | with_reducible refine sound_foldl_snd (fun _ _ _ => ?_) ?_
    | with_reducible refine sound_foldl_fst (fun _ _ _ => ?_) ?_
    | with_reducible refine sound_foldl_snd2 (fun _ _ _ => ?_) ?_
    | with_reducible refine sound_snd_of (by assumption) ?_
    | with_reducible refine sound_snd2_of (by assumption) ?_
    | with_reducible refine sound_fst_of (by assumption) ?_
    | simp only [sound_set_free (sub_trans (by decide) hw)]

theorem State.setReg_sound (s : State) (off : Nat) (v : Nat) (hs : Sound Q s) (hw : sub 4 Q.w = true) :
    Sound Q (State.setReg s off v) := by
  unfold State.setReg
  repeat' first
    | with_reducible assumption
    | with_reducible exact sub_trans (by decide) hw
    | with_reducible refine sound_ite (fun _ => ?_) (fun _ => ?_)
    | with_reducible refine sound_foldl (fun _ _ _ => ?_) ?_
    | with_reducible refine sound_foldl_snd (fun _ _ _ => ?_) ?_
    | with_reducible refine sound_foldl_fst (fun _ _ _ => ?_) ?_
    | with_reducible refine sound_foldl_snd2 (fun _ _ _ => ?_) ?_
    | with_reducible refine sound_snd_of (by assumption) ?_
    | with_reducible refine sound_snd2_of (by assumption) ?_
    | with_reducible refine sound_fst_of (by assumption) ?_
    | simp only [sound_set_regs (sub_trans (by decide) hw)]

theorem State.setReg64_sound (s : State) (off : Nat) (v : Nat) (hs : Sound Q s) (hw : sub 4 Q.w = true) :
    Sound Q (State.setReg64 s off v) := by
  unfold State.setReg64
  repeat' first
    | with_reducible assumption
    | with_reducible exact sub_trans (by decide) hw
    | with_reducible apply State.setReg_sound

theorem State.setRfld_sound (s : State) (off : Nat) (lo : Nat) (w : Nat) (v : Nat) (hs : Sound Q s) (hw : sub 4 Q.w = true) :
    Sound Q (State.setRfld s off lo w v) := by
  unfold State.setRfld
  repeat' first
    | with_reducible assumption
    | with_reducible exact sub_trans (by decide) hw
    | with_reducible apply State.setReg_sound

theorem State.count64_sound (s : State) (off : Nat) (n : Nat) (hs : Sound Q s) (hw : sub 4 Q.w = true) :
    Sound Q (State.count64 s off n) := by
  unfold State.count64
  repeat' first
    | with_reducible assumption
    | with_reducible exact sub_trans (by decide) hw
    | with_reducible apply State.setReg64_sound

theorem State.count32_sound (s : State) (off : Nat) (n : Nat) (hs : Sound Q s) (hw : sub 4 Q.w = true) :
    Sound Q (State.count32 s off n) := by
  unfold State.count32
  repeat' first
    | with_reducible assumption
    | with_reducible exact sub_trans (by decide) hw
    | with_reducible apply State.setReg_sound

theorem State.raiseVec_sound (s : State) (fn : Nat) (vec : Nat) (hs : Sound Q s) (hw : sub 35184372088832 Q.w = true) :
    Sound Q (State.raiseVec s fn vec) := by
  unfold State.raiseVec
  repeat' first
    | with_reducible assumption
    | with_reducible exact sub_trans (by decide) hw
    | with_reducible refine sound_ite (fun _ => ?_) (fun _ => ?_)
    | with_reducible refine sound_foldl (fun _ _ _ => ?_) ?_
    | with_reducible refine sound_foldl_snd (fun _ _ _ => ?_) ?_
    | with_reducible refine sound_foldl_fst (fun _ _ _ => ?_) ?_
    | with_reducible refine sound_foldl_snd2 (fun _ _ _ => ?_) ?_
    | with_reducible refine sound_snd_of (by assumption) ?_
    | with_reducible refine sound_snd2_of (by assumption) ?_
    | with_reducible refine sound_fst_of (by assumption) ?_
    | simp only [sound_set_msix (sub_trans (by decide) hw)]

theorem State.setInt_sound (s : State) (pg : Nat) (bits : Nat) (hs : Sound Q s) (hw : sub 35184372088836 Q.w = true) :
    Sound Q (State.setInt s pg bits) := by
  unfold State.setInt
  repeat' first
    | with_reducible assumption
    | with_reducible exact sub_trans (by decide) hw
    | with_reducible apply State.setReg_sound
    | with_reducible apply State.raiseVec_sound
    | with_reducible refine sound_ite (fun _ => ?_) (fun _ => ?_)

theorem State.setIntEn_sound (s : State) (pg : Nat) (new : Nat) (hs : Sound Q s) (hw : sub 35184372088836 Q.w = true) :
    Sound Q (State.setIntEn s pg new) := by
  unfold State.setIntEn
  repeat' first
    | with_reducible assumption
    | with_reducible exact sub_trans (by decide) hw
    | with_reducible apply State.setReg_sound
    | with_reducible apply State.raiseVec_sound
    | with_reducible refine sound_ite (fun _ => ?_) (fun _ => ?_)

theorem State.setErr_sound (s : State) (pg : Nat) (bit : Nat) (hs : Sound Q s) (hw : sub 35184372088836 Q.w = true) :
    Sound Q (State.setErr s pg bit) := by
  unfold State.setErr
  repeat' first
    | with_reducible assumption
    | with_reducible exact sub_trans (by decide) hw
    | with_reducible apply State.setReg_sound
    | with_reducible apply State.setInt_sound
    | with_reducible refine sound_ite (fun _ => ?_) (fun _ => ?_)

theorem State.refuse_sound (s : State) (off : Nat) (reason : Nat) (hs : Sound Q s) (hw : sub 35184372088836 Q.w = true) :
    Sound Q (State.refuse s off reason) := by
  unfold State.refuse
  repeat' first
    | with_reducible assumption
    | with_reducible exact sub_trans (by decide) hw
    | with_reducible apply State.setReg_sound
    | with_reducible apply State.setRfld_sound
    | with_reducible apply State.setErr_sound

theorem State.refuseBy_sound (s : State) (off : Nat) (reason : Nat) (btype : Nat) (inst : Nat) (hs : Sound Q s) (hw : sub 35184372088836 Q.w = true) :
    Sound Q (State.refuseBy s off reason btype inst) := by
  unfold State.refuseBy
  repeat' first
    | with_reducible assumption
    | with_reducible exact sub_trans (by decide) hw
    | with_reducible apply State.setReg_sound
    | with_reducible apply State.refuse_sound

theorem State.setCore_sound (s : State) (c : Nat) (k : Core) (hs : Sound Q s) (hw : sub 1024 Q.w = true) :
    Sound Q (State.setCore s c k) := by
  unfold State.setCore
  repeat' first
    | with_reducible assumption
    | with_reducible exact sub_trans (by decide) hw
    | with_reducible refine sound_ite (fun _ => ?_) (fun _ => ?_)
    | with_reducible refine sound_foldl (fun _ _ _ => ?_) ?_
    | with_reducible refine sound_foldl_snd (fun _ _ _ => ?_) ?_
    | with_reducible refine sound_foldl_fst (fun _ _ _ => ?_) ?_
    | with_reducible refine sound_foldl_snd2 (fun _ _ _ => ?_) ?_
    | with_reducible refine sound_snd_of (by assumption) ?_
    | with_reducible refine sound_snd2_of (by assumption) ?_
    | with_reducible refine sound_fst_of (by assumption) ?_
    | simp only [sound_set_cores (sub_trans (by decide) hw)]

theorem State.modCore_sound (s : State) (c : Nat) (f : Core → Core) (hs : Sound Q s) (hw : sub 1024 Q.w = true) :
    Sound Q (State.modCore s c f) := by
  unfold State.modCore
  repeat' first
    | with_reducible assumption
    | with_reducible exact sub_trans (by decide) hw
    | with_reducible apply State.setCore_sound

theorem State.setHome_sound (s : State) (h : Nat) (k : Home) (hs : Sound Q s) (hw : sub 2048 Q.w = true) :
    Sound Q (State.setHome s h k) := by
  unfold State.setHome
  repeat' first
    | with_reducible assumption
    | with_reducible exact sub_trans (by decide) hw
    | with_reducible refine sound_ite (fun _ => ?_) (fun _ => ?_)
    | with_reducible refine sound_foldl (fun _ _ _ => ?_) ?_
    | with_reducible refine sound_foldl_snd (fun _ _ _ => ?_) ?_
    | with_reducible refine sound_foldl_fst (fun _ _ _ => ?_) ?_
    | with_reducible refine sound_foldl_snd2 (fun _ _ _ => ?_) ?_
    | with_reducible refine sound_snd_of (by assumption) ?_
    | with_reducible refine sound_snd2_of (by assumption) ?_
    | with_reducible refine sound_fst_of (by assumption) ?_
    | simp only [sound_set_homes (sub_trans (by decide) hw)]

theorem State.modHome_sound (s : State) (h : Nat) (f : Home → Home) (hs : Sound Q s) (hw : sub 2048 Q.w = true) :
    Sound Q (State.modHome s h f) := by
  unfold State.modHome
  repeat' first
    | with_reducible assumption
    | with_reducible exact sub_trans (by decide) hw
    | with_reducible apply State.setHome_sound

theorem State.setChan_sound (s : State) (c : Nat) (k : Chan) (hs : Sound Q s) (hw : sub 32768 Q.w = true) :
    Sound Q (State.setChan s c k) := by
  unfold State.setChan
  repeat' first
    | with_reducible assumption
    | with_reducible exact sub_trans (by decide) hw
    | with_reducible refine sound_ite (fun _ => ?_) (fun _ => ?_)
    | with_reducible refine sound_foldl (fun _ _ _ => ?_) ?_
    | with_reducible refine sound_foldl_snd (fun _ _ _ => ?_) ?_
    | with_reducible refine sound_foldl_fst (fun _ _ _ => ?_) ?_
    | with_reducible refine sound_foldl_snd2 (fun _ _ _ => ?_) ?_
    | with_reducible refine sound_snd_of (by assumption) ?_
    | with_reducible refine sound_snd2_of (by assumption) ?_
    | with_reducible refine sound_fst_of (by assumption) ?_
    | simp only [sound_set_chans (sub_trans (by decide) hw)]

theorem State.setLink_sound (s : State) (l : Nat) (k : Link) (hs : Sound Q s) (hw : sub 2097152 Q.w = true) :
    Sound Q (State.setLink s l k) := by
  unfold State.setLink
  repeat' first
    | with_reducible assumption
    | with_reducible exact sub_trans (by decide) hw
    | with_reducible refine sound_ite (fun _ => ?_) (fun _ => ?_)
    | with_reducible refine sound_foldl (fun _ _ _ => ?_) ?_
    | with_reducible refine sound_foldl_snd (fun _ _ _ => ?_) ?_
    | with_reducible refine sound_foldl_fst (fun _ _ _ => ?_) ?_
    | with_reducible refine sound_foldl_snd2 (fun _ _ _ => ?_) ?_
    | with_reducible refine sound_snd_of (by assumption) ?_
    | with_reducible refine sound_snd2_of (by assumption) ?_
    | with_reducible refine sound_fst_of (by assumption) ?_
    | simp only [sound_set_links (sub_trans (by decide) hw)]

theorem State.modLink_sound (s : State) (l : Nat) (f : Link → Link) (hs : Sound Q s) (hw : sub 2097152 Q.w = true) :
    Sound Q (State.modLink s l f) := by
  unfold State.modLink
  repeat' first
    | with_reducible assumption
    | with_reducible exact sub_trans (by decide) hw
    | with_reducible apply State.setLink_sound

theorem State.setSeng_sound (s : State) (e : Nat) (k : SEng) (hs : Sound Q s) (hw : sub 8192 Q.w = true) :
    Sound Q (State.setSeng s e k) := by
  unfold State.setSeng
  repeat' first
    | with_reducible assumption
    | with_reducible exact sub_trans (by decide) hw
    | with_reducible refine sound_ite (fun _ => ?_) (fun _ => ?_)
    | with_reducible refine sound_foldl (fun _ _ _ => ?_) ?_
    | with_reducible refine sound_foldl_snd (fun _ _ _ => ?_) ?_
    | with_reducible refine sound_foldl_fst (fun _ _ _ => ?_) ?_
    | with_reducible refine sound_foldl_snd2 (fun _ _ _ => ?_) ?_
    | with_reducible refine sound_snd_of (by assumption) ?_
    | with_reducible refine sound_snd2_of (by assumption) ?_
    | with_reducible refine sound_fst_of (by assumption) ?_
    | simp only [sound_set_sengs (sub_trans (by decide) hw)]

theorem State.setHostQ_sound (s : State) (q : Nat) (k : HostQ) (hs : Sound Q s) (hw : sub 262144 Q.w = true) :
    Sound Q (State.setHostQ s q k) := by
  unfold State.setHostQ
  repeat' first
    | with_reducible assumption
    | with_reducible exact sub_trans (by decide) hw
    | with_reducible refine sound_ite (fun _ => ?_) (fun _ => ?_)
    | with_reducible refine sound_foldl (fun _ _ _ => ?_) ?_
    | with_reducible refine sound_foldl_snd (fun _ _ _ => ?_) ?_
    | with_reducible refine sound_foldl_fst (fun _ _ _ => ?_) ?_
    | with_reducible refine sound_foldl_snd2 (fun _ _ _ => ?_) ?_
    | with_reducible refine sound_snd_of (by assumption) ?_
    | with_reducible refine sound_snd2_of (by assumption) ?_
    | with_reducible refine sound_fst_of (by assumption) ?_
    | simp only [sound_set_queues (sub_trans (by decide) hw)]

theorem State.emit_sound (s : State) (o : Output) (hs : Sound Q s) (hw : sub 562949953421312 Q.w = true) :
    Sound Q (State.emit s o) := by
  unfold State.emit
  repeat' first
    | with_reducible assumption
    | with_reducible exact sub_trans (by decide) hw
    | with_reducible refine sound_ite (fun _ => ?_) (fun _ => ?_)
    | with_reducible refine sound_foldl (fun _ _ _ => ?_) ?_
    | with_reducible refine sound_foldl_snd (fun _ _ _ => ?_) ?_
    | with_reducible refine sound_foldl_fst (fun _ _ _ => ?_) ?_
    | with_reducible refine sound_foldl_snd2 (fun _ _ _ => ?_) ?_
    | with_reducible refine sound_snd_of (by assumption) ?_
    | with_reducible refine sound_snd2_of (by assumption) ?_
    | with_reducible refine sound_fst_of (by assumption) ?_
    | simp only [sound_set_out (sub_trans (by decide) hw)]

theorem State.setServer_sound (s : State) (x : Nat) (v : Server) (hs : Sound Q s) (hw : sub 8388608 Q.w = true) :
    Sound Q (State.setServer s x v) := by
  unfold State.setServer
  repeat' first
    | with_reducible assumption
    | with_reducible exact sub_trans (by decide) hw
    | with_reducible refine sound_ite (fun _ => ?_) (fun _ => ?_)
    | with_reducible refine sound_foldl (fun _ _ _ => ?_) ?_
    | with_reducible refine sound_foldl_snd (fun _ _ _ => ?_) ?_
    | with_reducible refine sound_foldl_fst (fun _ _ _ => ?_) ?_
    | with_reducible refine sound_foldl_snd2 (fun _ _ _ => ?_) ?_
    | with_reducible refine sound_snd_of (by assumption) ?_
    | with_reducible refine sound_snd2_of (by assumption) ?_
    | with_reducible refine sound_fst_of (by assumption) ?_
    | simp only [sound_set_servers (sub_trans (by decide) hw)]

theorem State.modServer_sound (s : State) (x : Nat) (f : Server → Server) (hs : Sound Q s) (hw : sub 8388608 Q.w = true) :
    Sound Q (State.modServer s x f) := by
  unfold State.modServer
  repeat' first
    | with_reducible assumption
    | with_reducible exact sub_trans (by decide) hw
    | with_reducible apply State.setServer_sound

theorem State.setUnit_sound (s : State) (u : Nat) (v : SUnit) (hs : Sound Q s) (hw : sub 16777216 Q.w = true) :
    Sound Q (State.setUnit s u v) := by
  unfold State.setUnit
  repeat' first
    | with_reducible assumption
    | with_reducible exact sub_trans (by decide) hw
    | with_reducible refine sound_ite (fun _ => ?_) (fun _ => ?_)
    | with_reducible refine sound_foldl (fun _ _ _ => ?_) ?_
    | with_reducible refine sound_foldl_snd (fun _ _ _ => ?_) ?_
    | with_reducible refine sound_foldl_fst (fun _ _ _ => ?_) ?_
    | with_reducible refine sound_foldl_snd2 (fun _ _ _ => ?_) ?_
    | with_reducible refine sound_snd_of (by assumption) ?_
    | with_reducible refine sound_snd2_of (by assumption) ?_
    | with_reducible refine sound_fst_of (by assumption) ?_
    | simp only [sound_set_units (sub_trans (by decide) hw)]

theorem State.modUnit_sound (s : State) (u : Nat) (f : SUnit → SUnit) (hs : Sound Q s) (hw : sub 16777216 Q.w = true) :
    Sound Q (State.modUnit s u f) := by
  unfold State.modUnit
  repeat' first
    | with_reducible assumption
    | with_reducible exact sub_trans (by decide) hw
    | with_reducible apply State.setUnit_sound

theorem State.dropSector_sound (s : State) (sec : Nat) (hs : Sound Q s) (hw : sub 16777216 Q.w = true) :
    Sound Q (State.dropSector s sec) := by
  unfold State.dropSector
  repeat' first
    | with_reducible assumption
    | with_reducible exact sub_trans (by decide) hw
    | with_reducible apply State.modUnit_sound
    | with_reducible refine sound_ite (fun _ => ?_) (fun _ => ?_)
    | with_reducible refine sound_foldl (fun _ _ _ => ?_) ?_
    | with_reducible refine sound_foldl_snd (fun _ _ _ => ?_) ?_
    | with_reducible refine sound_foldl_fst (fun _ _ _ => ?_) ?_
    | with_reducible refine sound_foldl_snd2 (fun _ _ _ => ?_) ?_
    | with_reducible refine sound_snd_of (by assumption) ?_
    | with_reducible refine sound_snd2_of (by assumption) ?_
    | with_reducible refine sound_fst_of (by assumption) ?_
    | simp only []
    | split

theorem State.dropSectors_sound (s : State) (a : Nat) (n : Nat) (hs : Sound Q s) (hw : sub 16777216 Q.w = true) :
    Sound Q (State.dropSectors s a n) := by
  unfold State.dropSectors
  repeat' first
    | with_reducible assumption
    | with_reducible exact sub_trans (by decide) hw
    | with_reducible apply State.dropSector_sound
    | with_reducible refine sound_ite (fun _ => ?_) (fun _ => ?_)
    | with_reducible refine sound_foldl (fun _ _ _ => ?_) ?_

theorem State.storeRaw_sound (s : State) (a : Nat) (l : List Byte) (bad : Bool) (hs : Sound Q s) (hw : sub 120 Q.w = true) :
    Sound Q (State.storeRaw s a l bad) := by
  unfold State.storeRaw
  repeat' first
    | with_reducible assumption
    | with_reducible exact sub_trans (by decide) hw
    | with_reducible apply State.setBytes_sound
    | with_reducible refine sound_ite (fun _ => ?_) (fun _ => ?_)
    | with_reducible refine sound_foldl (fun _ _ _ => ?_) ?_
    | with_reducible refine sound_foldl_snd (fun _ _ _ => ?_) ?_
    | with_reducible refine sound_foldl_fst (fun _ _ _ => ?_) ?_
    | with_reducible refine sound_foldl_snd2 (fun _ _ _ => ?_) ?_
    | with_reducible refine sound_snd_of (by assumption) ?_
    | with_reducible refine sound_snd2_of (by assumption) ?_
    | with_reducible refine sound_fst_of (by assumption) ?_
    | simp only [sound_set_poison_upsets (sub_trans (by decide) hw)]

theorem State.store_sound (s : State) (a : Nat) (l : List Byte) (bad : Bool) (hs : Sound Q s) (hw : sub 16777336 Q.w = true) :
    Sound Q (State.store s a l bad) := by
  unfold State.store
  repeat' first
    | with_reducible assumption
    | with_reducible exact sub_trans (by decide) hw
    | with_reducible apply State.storeRaw_sound
    | with_reducible apply State.dropSectors_sound

theorem State.putPa_sound (s : State) (a : Nat) (l : List Byte) (bad : Bool) (hs : Sound Q s) (hw : sub 562949970198776 Q.w = true) :
    Sound Q (State.putPa s a l bad) := by
  unfold State.putPa
  have h1 : Sound Q { s with hostMem := cellsSet s.hostMem (s.hostBus a) l } := ⟨hs.pend, hs.mem, fun h => cellsSet_wf _ l (hs.host h),
    fun f hf => by cases f <;> first | exact hs.keep _ hf | exact absurd hf (testBit_of_sub hw (by decide))⟩
  split
  · exact sound_ite (fun _ => State.emit_sound _ _ h1 (sub_trans (by decide) hw)) (fun _ => h1)
  · exact State.store_sound s a l bad hs (sub_trans (by decide) hw)

theorem State.recordEvent_sound (s : State) (e : Event) (hs : Sound Q s) (hw : sub 562949971247356 Q.w = true) :
    Sound Q (State.recordEvent s e) := by
  unfold State.recordEvent
  repeat' first
    | with_reducible assumption
    | with_reducible exact sub_trans (by decide) hw
    | with_reducible apply State.setReg_sound
    | with_reducible apply State.putPa_sound
    | with_reducible apply State.count32_sound
    | with_reducible refine sound_ite (fun _ => ?_) (fun _ => ?_)
    | with_reducible refine sound_foldl (fun _ _ _ => ?_) ?_
    | with_reducible refine sound_foldl_snd (fun _ _ _ => ?_) ?_
    | with_reducible refine sound_foldl_fst (fun _ _ _ => ?_) ?_
    | with_reducible refine sound_foldl_snd2 (fun _ _ _ => ?_) ?_
    | with_reducible refine sound_snd_of (by assumption) ?_
    | with_reducible refine sound_snd2_of (by assumption) ?_
    | with_reducible refine sound_fst_of (by assumption) ?_
    | simp only [sound_set_ras (sub_trans (by decide) hw)]

theorem State.lightEvent_sound (s : State) (e : Event) (hs : Sound Q s) (hw : sub 598134343336188 Q.w = true) :
    Sound Q (State.lightEvent s e) := by
  unfold State.lightEvent
  repeat' first
    | with_reducible assumption
    | with_reducible exact sub_trans (by decide) hw
    | with_reducible apply State.recordEvent_sound
    | with_reducible apply State.raiseVec_sound
    | with_reducible refine sound_ite (fun _ => ?_) (fun _ => ?_)

theorem State.takeDur_sound (s : State) (bound : Nat) (hs : Sound Q s) (hw : sub 1 Q.w = true) :
    Sound Q (State.takeDur s bound).2 := by
  unfold State.takeDur
  repeat' first
    | with_reducible assumption
    | with_reducible exact sub_trans (by decide) hw
    | with_reducible apply State.takeFree_sound

theorem State.fatalEvent_sound (s : State) (ev : Event) (hs : Sound Q s) (hw : sub 562949971247868 Q.w = true) :
    Sound Q (State.fatalEvent s ev) := by
  unfold State.fatalEvent
  repeat' first
    | with_reducible assumption
    | with_reducible exact sub_trans (by decide) hw
    | with_reducible apply State.setReg_sound
    | with_reducible apply State.setReg64_sound
    | with_reducible apply State.recordEvent_sound
    | with_reducible refine sound_ite (fun _ => ?_) (fun _ => ?_)
    | with_reducible refine sound_foldl (fun _ _ _ => ?_) ?_
    | with_reducible refine sound_foldl_snd (fun _ _ _ => ?_) ?_
    | with_reducible refine sound_foldl_fst (fun _ _ _ => ?_) ?_
    | with_reducible refine sound_foldl_snd2 (fun _ _ _ => ?_) ?_
    | with_reducible refine sound_snd_of (by assumption) ?_
    | with_reducible refine sound_snd2_of (by assumption) ?_
    | with_reducible refine sound_fst_of (by assumption) ?_
    | simp only [sound_set_boot_ras (sub_trans (by decide) hw)]

theorem State.fatal_sound (s : State) (b : Block) (inst : Nat) (reason : Nat) (unit : optParam Nat 65535) (addr : optParam (Option Nat) none) (hs : Sound Q s) (hw : sub 562949971247868 Q.w = true) :
    Sound Q (State.fatal s b inst reason unit addr) := by
  unfold State.fatal
  repeat' first
    | with_reducible assumption
    | with_reducible exact sub_trans (by decide) hw
    | with_reducible apply State.fatalEvent_sound

theorem State.poisonRead_sound (s : State) (b : Block) (inst : Nat) (a : Nat) (hs : Sound Q s) (hw : sub 562949971247868 Q.w = true) :
    Sound Q (State.poisonRead s b inst a) := by
  unfold State.poisonRead
  repeat' first
    | with_reducible assumption
    | with_reducible exact sub_trans (by decide) hw
    | with_reducible apply State.fatal_sound

theorem State.alertOn_sound (s : State) (hs : Sound Q s) (hw : sub 35184372088836 Q.w = true) :
    Sound Q (State.alertOn s) := by
  unfold State.alertOn
  repeat' first
    | with_reducible assumption
    | with_reducible exact sub_trans (by decide) hw
    | with_reducible apply State.setReg_sound
    | with_reducible apply State.raiseVec_sound
    | with_reducible refine sound_ite (fun _ => ?_) (fun _ => ?_)

theorem State.bootTo_sound (s : State) (n : Nat) (hs : Sound Q s) (hw : sub 35184372089344 Q.w = true) :
    Sound Q (State.bootTo s n) := by
  unfold State.bootTo
  repeat' first
    | with_reducible assumption
    | with_reducible exact sub_trans (by decide) hw
    | with_reducible apply State.raiseVec_sound
    | with_reducible refine sound_ite (fun _ => ?_) (fun _ => ?_)
    | with_reducible refine sound_foldl (fun _ _ _ => ?_) ?_
    | with_reducible refine sound_foldl_snd (fun _ _ _ => ?_) ?_
    | with_reducible refine sound_foldl_fst (fun _ _ _ => ?_) ?_
    | with_reducible refine sound_foldl_snd2 (fun _ _ _ => ?_) ?_
    | with_reducible refine sound_snd_of (by assumption) ?_
    | with_reducible refine sound_snd2_of (by assumption) ?_
    | with_reducible refine sound_fst_of (by assumption) ?_
    | simp only [sound_set_boot (sub_trans (by decide) hw)]

end Sys2Proof.Machine
end

