-- ==== Sys2Proof/Laws/SoundErrors.lean ====
section
/-! SUPPORT. Laws/SoundErrors.lean: the operations of Machine/Errors.lean keep the waiting commands and the canonical form of both
memories. -/

namespace Sys2Proof.Machine

open Sys2Proof

variable {Q : Frame}

theorem State.modVersion_sound (s : State) (tid : Nat) (epoch : Nat) (f : Version → Version) (hs : Sound Q s) (hw : sub 536870912 Q.w = true) :
    Sound Q (State.modVersion s tid epoch f) := by
  unfold State.modVersion
  repeat' first
    | with_reducible assumption
    | with_reducible exact sub_trans (by decide) hw
    | with_reducible refine sound_ite (fun _ => ?_) (fun _ => ?_)
    | with_reducible refine sound_foldl (fun _ _ _ => ?_) ?_
    | with_reducible refine sound_foldl_snd (fun _ _ _ => ?_) ?_
    | with_reducible refine sound_foldl_fst (fun _ _ _ => ?_) ?_
    | with_reducible refine sound_foldl_snd2 (fun _ _ _ => ?_) ?_
    | with_reducible refine sound_snd_of (by assumption) ?_
    | with_reducible refine sound_snd2_of (by assumption) ?_
    | with_reducible refine sound_fst_of (by assumption) ?_
    | simp only [sound_set_tables (sub_trans (by decide) hw)]

theorem State.dirtyHot_sound (s : State) (pa : Nat) (hs : Sound Q s) (hw : sub 16777288 Q.w = true) :
    Sound Q (State.dirtyHot s pa) := by
  unfold State.dirtyHot
  repeat' first
    | with_reducible assumption
    | with_reducible exact sub_trans (by decide) hw
    | with_reducible apply State.dropSectors_sound
    | with_reducible apply State.setBytes_sound
    | with_reducible refine sound_ite (fun _ => ?_) (fun _ => ?_)
    | with_reducible refine sound_foldl (fun _ _ _ => ?_) ?_
    | with_reducible refine sound_foldl_snd (fun _ _ _ => ?_) ?_
    | with_reducible refine sound_foldl_fst (fun _ _ _ => ?_) ?_
    | with_reducible refine sound_foldl_snd2 (fun _ _ _ => ?_) ?_
    | with_reducible refine sound_snd_of (by assumption) ?_
    | with_reducible refine sound_snd2_of (by assumption) ?_
    | with_reducible refine sound_fst_of (by assumption) ?_
    | simp only []
    | split

theorem State.countCE_sound (s : State) (ch : Nat) (hs : Sound Q s) (hw : sub 35184372088836 Q.w = true) :
    Sound Q (State.countCE s ch) := by
  unfold State.countCE
  repeat' first
    | with_reducible assumption
    | with_reducible exact sub_trans (by decide) hw
    | with_reducible apply State.count32_sound
    | with_reducible apply State.setErr_sound
    | with_reducible apply State.count64_sound
    | with_reducible refine sound_ite (fun _ => ?_) (fun _ => ?_)

theorem State.countUE_sound (s : State) (ch : Nat) (hs : Sound Q s) (hw : sub 35184372088836 Q.w = true) :
    Sound Q (State.countUE s ch) := by
  unfold State.countUE
  repeat' first
    | with_reducible assumption
    | with_reducible exact sub_trans (by decide) hw
    | with_reducible apply State.count32_sound
    | with_reducible apply State.setErr_sound
    | with_reducible refine sound_ite (fun _ => ?_) (fun _ => ?_)

theorem State.logRow_sound (s : State) (st : Nat) (row : Nat) (hs : Sound Q s) (hw : sub 8589934592 Q.w = true) :
    Sound Q (State.logRow s st row) := by
  unfold State.logRow
  repeat' first
    | with_reducible assumption
    | with_reducible exact sub_trans (by decide) hw
    | with_reducible refine sound_ite (fun _ => ?_) (fun _ => ?_)
    | with_reducible refine sound_foldl (fun _ _ _ => ?_) ?_
    | with_reducible refine sound_foldl_snd (fun _ _ _ => ?_) ?_
    | with_reducible refine sound_foldl_fst (fun _ _ _ => ?_) ?_
    | with_reducible refine sound_foldl_snd2 (fun _ _ _ => ?_) ?_
    | with_reducible refine sound_snd_of (by assumption) ?_
    | with_reducible refine sound_snd2_of (by assumption) ?_
    | with_reducible refine sound_fst_of (by assumption) ?_
    | simp only [sound_set_repair (sub_trans (by decide) hw)]

theorem State.trackRow_sound (s : State) (st : Nat) (row : Nat) (hs : Sound Q s) (hw : sub 25769803776 Q.w = true) :
    Sound Q (State.trackRow s st row) := by
  unfold State.trackRow
  repeat' first
    | with_reducible assumption
    | with_reducible exact sub_trans (by decide) hw
    | with_reducible apply State.logRow_sound
    | with_reducible refine sound_ite (fun _ => ?_) (fun _ => ?_)
    | with_reducible refine sound_foldl (fun _ _ _ => ?_) ?_
    | with_reducible refine sound_foldl_snd (fun _ _ _ => ?_) ?_
    | with_reducible refine sound_foldl_fst (fun _ _ _ => ?_) ?_
    | with_reducible refine sound_foldl_snd2 (fun _ _ _ => ?_) ?_
    | with_reducible refine sound_snd_of (by assumption) ?_
    | with_reducible refine sound_snd2_of (by assumption) ?_
    | with_reducible refine sound_fst_of (by assumption) ?_
    | simp only [sound_set_rowTrack (sub_trans (by decide) hw)]
    | split

theorem State.l2Corrected_sound (s : State) (h : Nat) (slice : Nat) (way : Nat) (hs : Sound Q s) (hw : sub 598134343338236 Q.w = true) :
    Sound Q (State.l2Corrected s h slice way) := by
  unfold State.l2Corrected
  repeat' first
    | with_reducible assumption
    | with_reducible exact sub_trans (by decide) hw
    | with_reducible apply State.modHome_sound
    | with_reducible apply State.lightEvent_sound
    | with_reducible apply State.setErr_sound
    | with_reducible apply State.count64_sound

theorem State.l2CountUE_sound (s : State) (h : Nat) (hs : Sound Q s) (hw : sub 35184372088836 Q.w = true) :
    Sound Q (State.l2CountUE s h) := by
  unfold State.l2CountUE
  repeat' first
    | with_reducible assumption
    | with_reducible exact sub_trans (by decide) hw
    | with_reducible apply State.setErr_sound
    | with_reducible apply State.count64_sound

theorem State.dramFatal_sound (s : State) (sec : Nat) (hs : Sound Q s) (hw : sub 562949971247868 Q.w = true) :
    Sound Q (State.dramFatal s sec) := by
  unfold State.dramFatal
  repeat' first
    | with_reducible assumption
    | with_reducible exact sub_trans (by decide) hw
    | with_reducible apply State.fatal_sound
    | with_reducible refine sound_ite (fun _ => ?_) (fun _ => ?_)
    | with_reducible refine sound_foldl (fun _ _ _ => ?_) ?_
    | with_reducible refine sound_foldl_snd (fun _ _ _ => ?_) ?_
    | with_reducible refine sound_foldl_fst (fun _ _ _ => ?_) ?_
    | with_reducible refine sound_foldl_snd2 (fun _ _ _ => ?_) ?_
    | with_reducible refine sound_snd_of (by assumption) ?_
    | with_reducible refine sound_snd2_of (by assumption) ?_
    | with_reducible refine sound_fst_of (by assumption) ?_
    | simp only []
    | split

theorem State.dramCorrected_sound (s : State) (sec : Nat) (hs : Sound Q s) (hw : sub 598160113139964 Q.w = true) :
    Sound Q (State.dramCorrected s sec) := by
  unfold State.dramCorrected
  repeat' first
    | with_reducible assumption
    | with_reducible exact sub_trans (by decide) hw
    | with_reducible apply State.lightEvent_sound
    | with_reducible apply State.trackRow_sound
    | with_reducible apply State.countCE_sound
    | with_reducible refine sound_ite (fun _ => ?_) (fun _ => ?_)
    | with_reducible refine sound_foldl (fun _ _ _ => ?_) ?_
    | with_reducible refine sound_foldl_snd (fun _ _ _ => ?_) ?_
    | with_reducible refine sound_foldl_fst (fun _ _ _ => ?_) ?_
    | with_reducible refine sound_foldl_snd2 (fun _ _ _ => ?_) ?_
    | with_reducible refine sound_snd_of (by assumption) ?_
    | with_reducible refine sound_snd2_of (by assumption) ?_
    | with_reducible refine sound_fst_of (by assumption) ?_
    | simp only []
    | split

theorem State.dramCountUE_sound (s : State) (sec : Nat) (hs : Sound Q s) (hw : sub 35192962023428 Q.w = true) :
    Sound Q (State.dramCountUE s sec) := by
  unfold State.dramCountUE
  repeat' first
    | with_reducible assumption
    | with_reducible exact sub_trans (by decide) hw
    | with_reducible apply State.countUE_sound
    | with_reducible apply State.logRow_sound
    | with_reducible refine sound_ite (fun _ => ?_) (fun _ => ?_)

theorem State.poisonSector_sound (s : State) (sec : Nat) (hs : Sound Q s) (hw : sub 48 Q.w = true) :
    Sound Q (State.poisonSector s sec) := by
  unfold State.poisonSector
  repeat' first
    | with_reducible assumption
    | with_reducible exact sub_trans (by decide) hw
    | with_reducible refine sound_ite (fun _ => ?_) (fun _ => ?_)
    | with_reducible refine sound_foldl (fun _ _ _ => ?_) ?_
    | with_reducible refine sound_foldl_snd (fun _ _ _ => ?_) ?_
    | with_reducible refine sound_foldl_fst (fun _ _ _ => ?_) ?_
    | with_reducible refine sound_foldl_snd2 (fun _ _ _ => ?_) ?_
    | with_reducible refine sound_snd_of (by assumption) ?_
    | with_reducible refine sound_snd2_of (by assumption) ?_
    | with_reducible refine sound_fst_of (by assumption) ?_
    | simp only [sound_set_poison_upsets (sub_trans (by decide) hw)]

theorem State.meetPlain_sound (s : State) (sec : Nat) (hs : Sound Q s) (hw : sub 598160113142012 Q.w = true) :
    Sound Q (State.meetPlain s sec) := by
  unfold State.meetPlain
  repeat' first
    | with_reducible assumption
    | with_reducible exact sub_trans (by decide) hw
    | with_reducible apply State.poisonSector_sound
    | with_reducible apply State.l2Corrected_sound
    | with_reducible apply State.dramCorrected_sound
    | with_reducible apply State.l2CountUE_sound
    | with_reducible apply State.dramCountUE_sound
    | with_reducible refine sound_ite (fun _ => ?_) (fun _ => ?_)
    | with_reducible refine sound_foldl (fun _ _ _ => ?_) ?_
    | with_reducible refine sound_foldl_snd (fun _ _ _ => ?_) ?_
    | with_reducible refine sound_foldl_fst (fun _ _ _ => ?_) ?_
    | with_reducible refine sound_foldl_snd2 (fun _ _ _ => ?_) ?_
    | with_reducible refine sound_snd_of (by assumption) ?_
    | with_reducible refine sound_snd2_of (by assumption) ?_
    | with_reducible refine sound_fst_of (by assumption) ?_
    | simp only [sound_set_upsets (sub_trans (by decide) hw)]
    | split

theorem State.recoverHot_sound (s : State) (sec : Nat) (hs : Sound Q s) (hw : sub 598160113142013 Q.w = true) :
    OSound Q (State.recoverHot s sec) := by
  unfold State.recoverHot
  repeat' first
    | with_reducible assumption
    | with_reducible exact sub_trans (by decide) hw
    | with_reducible apply OSound.none
    | with_reducible apply OSound.some
    | with_reducible apply State.storeRaw_sound
    | with_reducible apply State.lightEvent_sound
    | with_reducible apply State.takeDur_sound
    | with_reducible apply State.meetPlain_sound
    | with_reducible refine osound_findSome (fun _ => ?_)
    | with_reducible refine osound_map ?_ (fun _ _ => ?_)
    | with_reducible refine osound_bind ?_ (fun _ _ => ?_)
    | with_reducible refine osound_foldl (fun _ _ _ => ?_) ?_
    | with_reducible refine pred_ite (P := OSound Q) (fun _ => ?_) (fun _ => ?_)
    | with_reducible refine sound_ite (fun _ => ?_) (fun _ => ?_)
    | with_reducible refine sound_foldl (fun _ _ _ => ?_) ?_
    | with_reducible refine sound_foldl_snd (fun _ _ _ => ?_) ?_
    | with_reducible refine sound_foldl_fst (fun _ _ _ => ?_) ?_
    | with_reducible refine sound_foldl_snd2 (fun _ _ _ => ?_) ?_
    | with_reducible refine sound_snd_of (by assumption) ?_
    | with_reducible refine sound_snd2_of (by assumption) ?_
    | with_reducible refine sound_fst_of (by assumption) ?_
    | simp only []
    | split

theorem State.dramUncorrectable_sound (s : State) (sec : Nat) (hs : Sound Q s) (hw : sub 598160113142013 Q.w = true) :
    Sound Q (State.dramUncorrectable s sec) := by
  unfold State.dramUncorrectable
  repeat' first
    | with_reducible assumption
    | with_reducible exact sub_trans (by decide) hw
    | with_reducible apply State.recoverHot_sound
    | with_reducible apply State.poisonSector_sound
    | with_reducible apply State.dramCountUE_sound
    | with_reducible refine osound_getD ?_ ?_

theorem State.meetSector_sound (s : State) (sec : Nat) (hs : Sound Q s) (hw : sub 598160113142013 Q.w = true) :
    Sound Q (State.meetSector s sec) := by
  unfold State.meetSector
  repeat' first
    | with_reducible assumption
    | with_reducible exact sub_trans (by decide) hw
    | with_reducible apply State.meetPlain_sound
    | with_reducible apply State.dramUncorrectable_sound
    | with_reducible refine sound_ite (fun _ => ?_) (fun _ => ?_)
    | with_reducible refine sound_foldl (fun _ _ _ => ?_) ?_
    | with_reducible refine sound_foldl_snd (fun _ _ _ => ?_) ?_
    | with_reducible refine sound_foldl_fst (fun _ _ _ => ?_) ?_
    | with_reducible refine sound_foldl_snd2 (fun _ _ _ => ?_) ?_
    | with_reducible refine sound_snd_of (by assumption) ?_
    | with_reducible refine sound_snd2_of (by assumption) ?_
    | with_reducible refine sound_fst_of (by assumption) ?_
    | simp only []
    | split

theorem State.accApply_sound (s : State) (h : Nat) (a : AccWrite) (hs : Sound Q s) (hw : sub 598160113142525 Q.w = true) :
    Sound Q (State.accApply s h a) := by
  unfold State.accApply
  repeat' first
    | with_reducible assumption
    | with_reducible exact sub_trans (by decide) hw
    | with_reducible apply State.fatal_sound
    | with_reducible apply State.storeRaw_sound
    | with_reducible apply State.meetSector_sound
    | with_reducible apply State.count64_sound
    | with_reducible refine sound_ite (fun _ => ?_) (fun _ => ?_)
    | with_reducible refine sound_foldl (fun _ _ _ => ?_) ?_

theorem State.accDrain_sound (s : State) (a : Nat) (n : Nat) (hs : Sound Q s) (hw : sub 598160113142525 Q.w = true) :
    Sound Q (State.accDrain s a n) := by
  unfold State.accDrain
  repeat' first
    | with_reducible assumption
    | with_reducible exact sub_trans (by decide) hw
    | with_reducible apply State.accApply_sound
    | with_reducible apply State.modHome_sound
    | with_reducible refine sound_ite (fun _ => ?_) (fun _ => ?_)
    | with_reducible refine sound_foldl (fun _ _ _ => ?_) ?_
    | with_reducible refine sound_foldl_snd (fun _ _ _ => ?_) ?_
    | with_reducible refine sound_foldl_fst (fun _ _ _ => ?_) ?_
    | with_reducible refine sound_foldl_snd2 (fun _ _ _ => ?_) ?_
    | with_reducible refine sound_snd_of (by assumption) ?_
    | with_reducible refine sound_snd2_of (by assumption) ?_
    | with_reducible refine sound_fst_of (by assumption) ?_
    | simp only []
    | split

theorem State.writePa_sound (s : State) (a : Nat) (l : List Byte) (bad : Bool) (hs : Sound Q s) (hw : sub 598160113142525 Q.w = true) :
    Sound Q (State.writePa s a l bad) := by
  unfold State.writePa
  repeat' first
    | with_reducible assumption
    | with_reducible exact sub_trans (by decide) hw
    | with_reducible apply State.putPa_sound
    | with_reducible apply State.accDrain_sound

theorem State.meet_sound (s : State) (a : Nat) (n : Nat) (hs : Sound Q s) (hw : sub 598160113142525 Q.w = true) :
    Sound Q (State.meet s a n) := by
  unfold State.meet
  repeat' first
    | with_reducible assumption
    | with_reducible exact sub_trans (by decide) hw
    | with_reducible apply State.meetSector_sound
    | with_reducible apply State.accDrain_sound
    | with_reducible refine sound_ite (fun _ => ?_) (fun _ => ?_)
    | with_reducible refine sound_foldl (fun _ _ _ => ?_) ?_

theorem State.upsetArrives_sound (s : State) (u : Upset) (hs : Sound Q s) (hw : sub 3104 Q.w = true) :
    Sound Q (State.upsetArrives s u) := by
  unfold State.upsetArrives
  repeat' first
    | with_reducible assumption
    | with_reducible exact sub_trans (by decide) hw
    | with_reducible apply State.modHome_sound
    | with_reducible apply State.modCore_sound
    | with_reducible refine sound_ite (fun _ => ?_) (fun _ => ?_)
    | with_reducible refine sound_foldl (fun _ _ _ => ?_) ?_
    | with_reducible refine sound_foldl_snd (fun _ _ _ => ?_) ?_
    | with_reducible refine sound_foldl_fst (fun _ _ _ => ?_) ?_
    | with_reducible refine sound_foldl_snd2 (fun _ _ _ => ?_) ?_
    | with_reducible refine sound_snd_of (by assumption) ?_
    | with_reducible refine sound_snd2_of (by assumption) ?_
    | with_reducible refine sound_fst_of (by assumption) ?_
    | simp only [sound_set_upsets (sub_trans (by decide) hw)]
    | split

end Sys2Proof.Machine
end

