-- ==== Sys2Proof/Laws/SoundLink.lean ====
section
/-! SUPPORT. Laws/SoundLink.lean: the operations of Machine/Link.lean keep the waiting commands and the canonical form of both
memories. -/

namespace Sys2Proof.Machine

open Sys2Proof

variable {Q : Frame}

theorem State.sendControl_sound (s : State) (l : Nat) (body : List Byte) (hs : Sound Q s) (hw : sub 562949953421312 Q.w = true) :
    Sound Q (State.sendControl s l body) := by
  unfold State.sendControl
  repeat' first
    | with_reducible assumption
    | with_reducible exact sub_trans (by decide) hw
    | with_reducible apply State.emit_sound

theorem State.linkEvent_sound (s : State) (bit : Nat) (hs : Sound Q s) (hw : sub 35184372088836 Q.w = true) :
    Sound Q (State.linkEvent s bit) := by
  unfold State.linkEvent
  repeat' first
    | with_reducible assumption
    | with_reducible exact sub_trans (by decide) hw
    | with_reducible apply State.setReg_sound
    | with_reducible apply State.raiseVec_sound

theorem State.dropDone_sound (s : State) (l : Nat) (hs : Sound Q s) (hw : sub 598134345433340 Q.w = true) :
    Sound Q (State.dropDone s l) := by
  unfold State.dropDone
  repeat' first
    | with_reducible assumption
    | with_reducible exact sub_trans (by decide) hw
    | with_reducible apply State.modLink_sound
    | with_reducible apply State.lightEvent_sound
    | with_reducible refine sound_ite (fun _ => ?_) (fun _ => ?_)
    | with_reducible refine sound_foldl (fun _ _ _ => ?_) ?_
    | with_reducible refine sound_foldl_snd (fun _ _ _ => ?_) ?_
    | with_reducible refine sound_foldl_fst (fun _ _ _ => ?_) ?_
    | with_reducible refine sound_foldl_snd2 (fun _ _ _ => ?_) ?_
    | with_reducible refine sound_snd_of (by assumption) ?_
    | with_reducible refine sound_snd2_of (by assumption) ?_
    | with_reducible refine sound_fst_of (by assumption) ?_
    | simp only []
    | split

theorem State.linkDown_sound (s : State) (l : Nat) (hs : Sound Q s) (hw : sub 598134345433340 Q.w = true) :
    Sound Q (State.linkDown s l) := by
  unfold State.linkDown
  repeat' first
    | with_reducible assumption
    | with_reducible exact sub_trans (by decide) hw
    | with_reducible apply State.modLink_sound
    | with_reducible apply State.dropDone_sound

theorem State.linkTrain_sound (s : State) (l : Nat) (fresh : optParam Bool false) (hs : Sound Q s) (hw : sub 2097152 Q.w = true) :
    Sound Q (State.linkTrain s l fresh) := by
  unfold State.linkTrain
  repeat' first
    | with_reducible assumption
    | with_reducible exact sub_trans (by decide) hw
    | with_reducible apply State.modLink_sound

theorem State.putPacket_sound (s : State) (l : Nat) (vl : Nat) (p : Packet) (hs : Sound Q s) (hw : sub 562949955518468 Q.w = true) :
    Sound Q (State.putPacket s l vl p) := by
  unfold State.putPacket
  repeat' first
    | with_reducible assumption
    | with_reducible exact sub_trans (by decide) hw
    | with_reducible apply State.setLink_sound
    | with_reducible apply State.count64_sound
    | with_reducible apply State.emit_sound
    | with_reducible refine sound_ite (fun _ => ?_) (fun _ => ?_)
    | with_reducible refine sound_foldl (fun _ _ _ => ?_) ?_

theorem State.drainLink_sound (s : State) (l : Nat) (hs : Sound Q s) (hw : sub 562949955518468 Q.w = true) :
    Sound Q (State.drainLink s l) := by
  unfold State.drainLink
  repeat' first
    | with_reducible assumption
    | with_reducible exact sub_trans (by decide) hw
    | with_reducible apply State.modLink_sound
    | with_reducible apply State.putPacket_sound
    | with_reducible refine sound_ite (fun _ => ?_) (fun _ => ?_)
    | with_reducible refine sound_foldl (fun _ _ _ => ?_) ?_
    | with_reducible refine sound_foldl_snd (fun _ _ _ => ?_) ?_
    | with_reducible refine sound_foldl_fst (fun _ _ _ => ?_) ?_
    | with_reducible refine sound_foldl_snd2 (fun _ _ _ => ?_) ?_
    | with_reducible refine sound_snd_of (by assumption) ?_
    | with_reducible refine sound_snd2_of (by assumption) ?_
    | with_reducible refine sound_fst_of (by assumption) ?_
    | simp only []
    | split

theorem State.sendOn_sound (s : State) (l : Nat) (vl : Nat) (p : Packet) (hs : Sound Q s) (hw : sub 562949955518468 Q.w = true) :
    Sound Q (State.sendOn s l vl p) := by
  unfold State.sendOn
  repeat' first
    | with_reducible assumption
    | with_reducible exact sub_trans (by decide) hw
    | with_reducible apply State.modLink_sound
    | with_reducible apply State.drainLink_sound

theorem State.resendFrom_sound (s : State) (l : Nat) (i : Nat) (hs : Sound Q s) (hw : sub 598134343336189 Q.w = true) :
    Sound Q (State.resendFrom s l i) := by
  unfold State.resendFrom
  repeat' first
    | with_reducible assumption
    | with_reducible exact sub_trans (by decide) hw
    | with_reducible apply State.lightEvent_sound
    | with_reducible apply State.takeDur_sound
    | with_reducible apply State.count32_sound
    | with_reducible apply State.emit_sound
    | with_reducible refine sound_ite (fun _ => ?_) (fun _ => ?_)
    | with_reducible refine sound_foldl (fun _ _ _ => ?_) ?_

theorem State.takeLack_sound (s : State) (l : Nat) (lack : Nat) (hs : Sound Q s) (hw : sub 598134345433340 Q.w = true) :
    Sound Q (State.takeLack s l lack) := by
  unfold State.takeLack
  repeat' first
    | with_reducible assumption
    | with_reducible exact sub_trans (by decide) hw
    | with_reducible apply State.modLink_sound
    | with_reducible apply State.dropDone_sound
    | with_reducible apply State.drainLink_sound
    | with_reducible refine sound_ite (fun _ => ?_) (fun _ => ?_)
    | with_reducible refine sound_foldl (fun _ _ _ => ?_) ?_
    | with_reducible refine sound_foldl_snd (fun _ _ _ => ?_) ?_
    | with_reducible refine sound_foldl_fst (fun _ _ _ => ?_) ?_
    | with_reducible refine sound_foldl_snd2 (fun _ _ _ => ?_) ?_
    | with_reducible refine sound_snd_of (by assumption) ?_
    | with_reducible refine sound_snd2_of (by assumption) ?_
    | with_reducible refine sound_fst_of (by assumption) ?_
    | simp only []
    | split

theorem State.sendNak_sound (s : State) (l : Nat) (crc : Bool) (hs : Sound Q s) (hw : sub 562949955518464 Q.w = true) :
    Sound Q (State.sendNak s l crc) := by
  unfold State.sendNak
  repeat' first
    | with_reducible assumption
    | with_reducible exact sub_trans (by decide) hw
    | with_reducible apply State.modLink_sound
    | with_reducible apply State.emit_sound
    | with_reducible refine sound_ite (fun _ => ?_) (fun _ => ?_)

theorem State.takeBody_sound (s : State) (l : Nat) (vl : Nat) (first : Bool) (body : List Byte) (hs : Sound Q s) (hw : sub 2097152 Q.w = true) :
    Sound Q (State.takeBody s l vl first body) := by
  unfold State.takeBody
  repeat' first
    | with_reducible assumption
    | with_reducible exact sub_trans (by decide) hw
    | with_reducible apply State.setLink_sound
    | with_reducible refine sound_ite (fun _ => ?_) (fun _ => ?_)

theorem State.fecCount_sound (s : State) (l : Nat) (flit : Flit) (hs : Sound Q s) (hw : sub 598134343336188 Q.w = true) :
    Sound Q (State.fecCount s l flit) := by
  unfold State.fecCount
  repeat' first
    | with_reducible assumption
    | with_reducible exact sub_trans (by decide) hw
    | with_reducible apply State.lightEvent_sound
    | with_reducible apply State.count32_sound
    | with_reducible apply State.count64_sound
    | with_reducible refine sound_ite (fun _ => ?_) (fun _ => ?_)

theorem State.takeNak_sound (s : State) (l : Nat) (lseq : Nat) (hs : Sound Q s) (hw : sub 598134345433341 Q.w = true) :
    Sound Q (State.takeNak s l lseq) := by
  unfold State.takeNak
  repeat' first
    | with_reducible assumption
    | with_reducible exact sub_trans (by decide) hw
    | with_reducible apply State.modLink_sound
    | with_reducible apply State.resendFrom_sound
    | with_reducible refine sound_ite (fun _ => ?_) (fun _ => ?_)
    | with_reducible refine sound_foldl (fun _ _ _ => ?_) ?_
    | with_reducible refine sound_foldl_snd (fun _ _ _ => ?_) ?_
    | with_reducible refine sound_foldl_fst (fun _ _ _ => ?_) ?_
    | with_reducible refine sound_foldl_snd2 (fun _ _ _ => ?_) ?_
    | with_reducible refine sound_snd_of (by assumption) ?_
    | with_reducible refine sound_snd2_of (by assumption) ?_
    | with_reducible refine sound_fst_of (by assumption) ?_
    | simp only []
    | split

theorem State.eqDone_sound (s : State) (l : Nat) (hs : Sound Q s) (hw : sub 598134345433341 Q.w = true) :
    Sound Q (State.eqDone s l) := by
  unfold State.eqDone
  repeat' first
    | with_reducible assumption
    | with_reducible exact sub_trans (by decide) hw
    | with_reducible apply State.modLink_sound
    | with_reducible apply State.drainLink_sound
    | with_reducible apply State.takeNak_sound
    | with_reducible refine sound_ite (fun _ => ?_) (fun _ => ?_)
    | with_reducible refine sound_foldl (fun _ _ _ => ?_) ?_
    | with_reducible refine sound_foldl_snd (fun _ _ _ => ?_) ?_
    | with_reducible refine sound_foldl_fst (fun _ _ _ => ?_) ?_
    | with_reducible refine sound_foldl_snd2 (fun _ _ _ => ?_) ?_
    | with_reducible refine sound_snd_of (by assumption) ?_
    | with_reducible refine sound_snd2_of (by assumption) ?_
    | with_reducible refine sound_fst_of (by assumption) ?_
    | simp only []
    | split

theorem State.sendCredit_sound (s : State) (l : Nat) (vl : Nat) (n : Nat) (hs : Sound Q s) (hw : sub 562949955518468 Q.w = true) :
    Sound Q (State.sendCredit s l vl n) := by
  unfold State.sendCredit
  repeat' first
    | with_reducible assumption
    | with_reducible exact sub_trans (by decide) hw
    | with_reducible apply State.modLink_sound
    | with_reducible apply State.drainLink_sound
    | with_reducible apply State.emit_sound
    | with_reducible refine sound_ite (fun _ => ?_) (fun _ => ?_)

theorem execRetrain_sound (l : LinkId) (s : State) (hs : Sound Q s) (hw : sub 2097152 Q.w = true) :
    OutSound Q (execRetrain l s) := by
  unfold execRetrain
  repeat' first
    | with_reducible assumption
    | with_reducible exact sub_trans (by decide) hw
    | with_reducible apply OutSound.next
    | with_reducible apply OutSound.fault
    | with_reducible apply OutSound.refused
    | with_reducible apply State.linkTrain_sound
    | with_reducible refine pred_ite (P := OutSound Q) (fun _ => ?_) (fun _ => ?_)

theorem execLinkHold_sound (l : LinkId) (s : State) (hs : Sound Q s) (hw : sub 598134345433340 Q.w = true) :
    OutSound Q (execLinkHold l s) := by
  unfold execLinkHold
  repeat' first
    | with_reducible assumption
    | with_reducible exact sub_trans (by decide) hw
    | with_reducible apply OutSound.next
    | with_reducible apply OutSound.fault
    | with_reducible apply OutSound.refused
    | with_reducible apply State.modLink_sound
    | with_reducible apply State.linkDown_sound
    | with_reducible refine pred_ite (P := OutSound Q) (fun _ => ?_) (fun _ => ?_)
    | with_reducible refine sound_ite (fun _ => ?_) (fun _ => ?_)

theorem execLinkRelease_sound (l : LinkId) (s : State) (hs : Sound Q s) (hw : sub 2097152 Q.w = true) :
    OutSound Q (execLinkRelease l s) := by
  unfold execLinkRelease
  repeat' first
    | with_reducible assumption
    | with_reducible exact sub_trans (by decide) hw
    | with_reducible apply OutSound.next
    | with_reducible apply OutSound.fault
    | with_reducible apply OutSound.refused
    | with_reducible apply State.modLink_sound
    | with_reducible apply State.linkTrain_sound
    | with_reducible refine pred_ite (P := OutSound Q) (fun _ => ?_) (fun _ => ?_)

theorem State.toDiscover_sound (s : State) (l : Nat) (hs : Sound Q s) (hw : sub 562949955518464 Q.w = true) :
    Sound Q (State.toDiscover s l) := by
  unfold State.toDiscover
  repeat' first
    | with_reducible assumption
    | with_reducible exact sub_trans (by decide) hw
    | with_reducible apply State.modLink_sound
    | with_reducible apply State.emit_sound

theorem State.setClass_sound (s : State) (l : Nat) (cls : Nat) (pair : Option Nat) (hs : Sound Q s) (hw : sub 35184374185988 Q.w = true) :
    Sound Q (State.setClass s l cls pair) := by
  unfold State.setClass
  repeat' first
    | with_reducible assumption
    | with_reducible exact sub_trans (by decide) hw
    | with_reducible apply State.setLink_sound
    | with_reducible apply State.linkEvent_sound
    | with_reducible refine sound_ite (fun _ => ?_) (fun _ => ?_)

theorem State.classPartner_sound (s : State) (pl : List Byte) (l : Nat) (m : Nat) (hs : Sound Q s) (hw : sub 35184374185988 Q.w = true) :
    Sound Q (State.classPartner s pl l m) := by
  unfold State.classPartner
  repeat' first
    | with_reducible assumption
    | with_reducible exact sub_trans (by decide) hw
    | with_reducible apply State.modLink_sound
    | with_reducible apply State.setClass_sound
    | with_reducible refine sound_ite (fun _ => ?_) (fun _ => ?_)
    | with_reducible refine sound_foldl (fun _ _ _ => ?_) ?_
    | with_reducible refine sound_foldl_snd (fun _ _ _ => ?_) ?_
    | with_reducible refine sound_foldl_fst (fun _ _ _ => ?_) ?_
    | with_reducible refine sound_foldl_snd2 (fun _ _ _ => ?_) ?_
    | with_reducible refine sound_snd_of (by assumption) ?_
    | with_reducible refine sound_snd2_of (by assumption) ?_
    | with_reducible refine sound_fst_of (by assumption) ?_
    | simp only []
    | split

theorem State.linkGoUp_sound (s : State) (l : Nat) (hs : Sound Q s) (hw : sub 615726531477757 Q.w = true) :
    Sound Q (State.linkGoUp s l) := by
  unfold State.linkGoUp
  repeat' first
    | with_reducible assumption
    | with_reducible exact sub_trans (by decide) hw
    | with_reducible apply State.modLink_sound
    | with_reducible apply State.dropDone_sound
    | with_reducible apply State.sendCredit_sound
    | with_reducible apply State.drainLink_sound
    | with_reducible apply State.resendFrom_sound
    | with_reducible refine sound_ite (fun _ => ?_) (fun _ => ?_)
    | with_reducible refine sound_foldl (fun _ _ _ => ?_) ?_
    | with_reducible refine sound_foldl_snd (fun _ _ _ => ?_) ?_
    | with_reducible refine sound_foldl_fst (fun _ _ _ => ?_) ?_
    | with_reducible refine sound_foldl_snd2 (fun _ _ _ => ?_) ?_
    | with_reducible refine sound_snd_of (by assumption) ?_
    | with_reducible refine sound_snd2_of (by assumption) ?_
    | with_reducible refine sound_fst_of (by assumption) ?_
    | simp only [sound_set_top (sub_trans (by decide) hw)]

theorem State.classify_sound (s : State) (l : Nat) (hs : Sound Q s) (hw : sub 615726531477757 Q.w = true) :
    Sound Q (State.classify s l) := by
  unfold State.classify
  repeat' first
    | with_reducible assumption
    | with_reducible exact sub_trans (by decide) hw
    | with_reducible apply State.modLink_sound
    | with_reducible apply State.linkGoUp_sound
    | with_reducible apply State.classPartner_sound
    | with_reducible apply State.setClass_sound
    | with_reducible refine sound_ite (fun _ => ?_) (fun _ => ?_)
    | with_reducible refine sound_foldl (fun _ _ _ => ?_) ?_
    | with_reducible refine sound_foldl_snd (fun _ _ _ => ?_) ?_
    | with_reducible refine sound_foldl_fst (fun _ _ _ => ?_) ?_
    | with_reducible refine sound_foldl_snd2 (fun _ _ _ => ?_) ?_
    | with_reducible refine sound_snd_of (by assumption) ?_
    | with_reducible refine sound_snd2_of (by assumption) ?_
    | with_reducible refine sound_fst_of (by assumption) ?_
    | simp only []
    | split

theorem State.portDegraded_sound (s : State) (hs : Sound Q s) (hw : sub 35184372088836 Q.w = true) :
    Sound Q (State.portDegraded s) := by
  unfold State.portDegraded
  repeat' first
    | with_reducible assumption
    | with_reducible exact sub_trans (by decide) hw
    | with_reducible apply State.linkEvent_sound

theorem planLoad_sound (s : State) (hs : Sound Q s) (hw : sub 897227277994749 Q.w = true) : Sound Q (planLoad s) := by
  unfold planLoad
  repeat' first
    | with_reducible assumption
    | with_reducible exact sub_trans (by decide) hw
    | with_reducible apply State.setReg_sound
    | with_reducible apply State.setReg64_sound
    | with_reducible apply State.refuse_sound
    | with_reducible apply State.poisonRead_sound
    | with_reducible apply State.meet_sound
    | with_reducible apply State.classify_sound
    | with_reducible refine sound_ite (fun _ => ?_) (fun _ => ?_)
    | with_reducible refine sound_foldl (fun _ _ _ => ?_) ?_
    | with_reducible refine sound_foldl_snd (fun _ _ _ => ?_) ?_
    | with_reducible refine sound_foldl_fst (fun _ _ _ => ?_) ?_
    | with_reducible refine sound_foldl_snd2 (fun _ _ _ => ?_) ?_
    | with_reducible refine sound_snd_of (by assumption) ?_
    | with_reducible refine sound_snd2_of (by assumption) ?_
    | with_reducible refine sound_fst_of (by assumption) ?_
    | simp only [sound_set_chanWait (sub_trans (by decide) hw), sound_set_top (sub_trans (by decide) hw)]

theorem execPlanLoad_sound (s : State) (hs : Sound Q s) (hw : sub 897227277994749 Q.w = true) :
    OutSound Q (execPlanLoad s) := by
  unfold execPlanLoad
  repeat' first
    | with_reducible assumption
    | with_reducible exact sub_trans (by decide) hw
    | with_reducible apply OutSound.next
    | with_reducible apply OutSound.fault
    | with_reducible apply OutSound.refused
    | with_reducible apply planLoad_sound
    | with_reducible refine pred_ite (P := OutSound Q) (fun _ => ?_) (fun _ => ?_)
    | with_reducible refine sound_ite (fun _ => ?_) (fun _ => ?_)

theorem State.timeCheck_sound (s : State) (hs : Sound Q s) (hw : sub 35184372088836 Q.w = true) :
    Sound Q (State.timeCheck s) := by
  unfold State.timeCheck
  repeat' first
    | with_reducible assumption
    | with_reducible exact sub_trans (by decide) hw
    | with_reducible apply State.setReg_sound
    | with_reducible apply State.linkEvent_sound
    | with_reducible refine sound_ite (fun _ => ?_) (fun _ => ?_)

theorem State.takeCorr_sound (s : State) (c : Int) (edge : Nat) (by_ : Option Nat) (hs : Sound Q s) (hw : sub 580542139465728 Q.w = true) :
    Sound Q (State.takeCorr s c edge by_) := by
  unfold State.takeCorr
  repeat' first
    | with_reducible assumption
    | with_reducible exact sub_trans (by decide) hw
    | with_reducible apply State.emit_sound
    | with_reducible refine sound_ite (fun _ => ?_) (fun _ => ?_)
    | with_reducible refine sound_foldl (fun _ _ _ => ?_) ?_
    | with_reducible refine sound_foldl_snd (fun _ _ _ => ?_) ?_
    | with_reducible refine sound_foldl_fst (fun _ _ _ => ?_) ?_
    | with_reducible refine sound_foldl_snd2 (fun _ _ _ => ?_) ?_
    | with_reducible refine sound_snd_of (by assumption) ?_
    | with_reducible refine sound_snd2_of (by assumption) ?_
    | with_reducible refine sound_fst_of (by assumption) ?_
    | simp only [sound_set_top (sub_trans (by decide) hw)]
    | split

end Sys2Proof.Machine
end

