-- ==== Sys2Proof/Laws/SoundBoot.lean ====
section
/-! SUPPORT. Laws/SoundBoot.lean: the operations of Machine/Boot.lean keep the waiting commands and the canonical form of both
memories. -/

namespace Sys2Proof.Machine

open Sys2Proof

variable {Q : Frame}

theorem State.bootFail_sound (s : State) (reason : Nat) (hs : Sound Q s) (hw : sub 35184372089344 Q.w = true) :
    Sound Q (State.bootFail s reason) := by
  unfold State.bootFail
  repeat' first
    | with_reducible assumption
    | with_reducible exact sub_trans (by decide) hw
    | with_reducible apply State.bootTo_sound
    | with_reducible refine sound_ite (fun _ => ?_) (fun _ => ?_)
    | with_reducible refine sound_foldl (fun _ _ _ => ?_) ?_
    | with_reducible refine sound_foldl_snd (fun _ _ _ => ?_) ?_
    | with_reducible refine sound_foldl_fst (fun _ _ _ => ?_) ?_
    | with_reducible refine sound_foldl_snd2 (fun _ _ _ => ?_) ?_
    | with_reducible refine sound_snd_of (by assumption) ?_
    | with_reducible refine sound_snd2_of (by assumption) ?_
    | with_reducible refine sound_fst_of (by assumption) ?_
    | simp only [sound_set_boot (sub_trans (by decide) hw)]

theorem State.bootWays_sound (s : State) (h : Nat) (ws : List Nat) (hs : Sound Q s) (hw : sub 2052 Q.w = true) :
    Sound Q (State.bootWays s h ws) := by
  unfold State.bootWays
  repeat' first
    | with_reducible assumption
    | with_reducible exact sub_trans (by decide) hw
    | with_reducible apply State.setReg_sound
    | with_reducible apply State.modHome_sound
    | with_reducible refine sound_ite (fun _ => ?_) (fun _ => ?_)
    | with_reducible refine sound_foldl (fun _ _ _ => ?_) ?_

theorem fwaddrHi_sound (v : Nat) (s : State) (hs : Sound Q s) (hw : sub 35184372089348 Q.w = true) :
    Sound Q (fwaddrHi v s) := by
  unfold fwaddrHi
  repeat' first
    | with_reducible assumption
    | with_reducible exact sub_trans (by decide) hw
    | with_reducible apply State.setReg_sound
    | with_reducible apply State.refuse_sound
    | with_reducible apply State.raiseVec_sound
    | with_reducible apply State.bootTo_sound
    | with_reducible refine sound_ite (fun _ => ?_) (fun _ => ?_)
    | with_reducible refine sound_foldl (fun _ _ _ => ?_) ?_
    | with_reducible refine sound_foldl_snd (fun _ _ _ => ?_) ?_
    | with_reducible refine sound_foldl_fst (fun _ _ _ => ?_) ?_
    | with_reducible refine sound_foldl_snd2 (fun _ _ _ => ?_) ?_
    | with_reducible refine sound_snd_of (by assumption) ?_
    | with_reducible refine sound_snd2_of (by assumption) ?_
    | with_reducible refine sound_fst_of (by assumption) ?_
    | simp only [sound_set_boot (sub_trans (by decide) hw)]

theorem execArbctlCommit_sound (s : State) (hs : Sound Q s) (hw : sub 35184372089348 Q.w = true) :
    OutSound Q (execArbctlCommit s) := by
  unfold execArbctlCommit
  repeat' first
    | with_reducible assumption
    | with_reducible exact sub_trans (by decide) hw
    | with_reducible apply OutSound.next
    | with_reducible apply OutSound.fault
    | with_reducible apply OutSound.refused
    | with_reducible apply State.refuse_sound
    | with_reducible refine pred_ite (P := OutSound Q) (fun _ => ?_) (fun _ => ?_)
    | with_reducible refine sound_ite (fun _ => ?_) (fun _ => ?_)
    | with_reducible refine sound_foldl (fun _ _ _ => ?_) ?_
    | with_reducible refine sound_foldl_snd (fun _ _ _ => ?_) ?_
    | with_reducible refine sound_foldl_fst (fun _ _ _ => ?_) ?_
    | with_reducible refine sound_foldl_snd2 (fun _ _ _ => ?_) ?_
    | with_reducible refine sound_snd_of (by assumption) ?_
    | with_reducible refine sound_snd2_of (by assumption) ?_
    | with_reducible refine sound_fst_of (by assumption) ?_
    | simp only [sound_set_boot (sub_trans (by decide) hw)]

theorem State.dieStarts_sound (s : State) (d : Nat) (hs : Sound Q s) (hw : sub 2097152 Q.w = true) :
    Sound Q (State.dieStarts s d) := by
  unfold State.dieStarts
  repeat' first
    | with_reducible assumption
    | with_reducible exact sub_trans (by decide) hw
    | with_reducible apply State.linkTrain_sound
    | with_reducible refine sound_ite (fun _ => ?_) (fun _ => ?_)
    | with_reducible refine sound_foldl (fun _ _ _ => ?_) ?_

theorem State.respond_sound (s : State) (ty : Nat) (status : Nat) (body : List Byte) (hs : Sound Q s) (hw : sub 35184372089344 Q.w = true) :
    Sound Q (State.respond s ty status body) := by
  unfold State.respond
  repeat' first
    | with_reducible assumption
    | with_reducible exact sub_trans (by decide) hw
    | with_reducible apply State.raiseVec_sound
    | with_reducible refine sound_ite (fun _ => ?_) (fun _ => ?_)
    | with_reducible refine sound_foldl (fun _ _ _ => ?_) ?_
    | with_reducible refine sound_foldl_snd (fun _ _ _ => ?_) ?_
    | with_reducible refine sound_foldl_fst (fun _ _ _ => ?_) ?_
    | with_reducible refine sound_foldl_snd2 (fun _ _ _ => ?_) ?_
    | with_reducible refine sound_snd_of (by assumption) ?_
    | with_reducible refine sound_snd2_of (by assumption) ?_
    | with_reducible refine sound_fst_of (by assumption) ?_
    | simp only [sound_set_boot (sub_trans (by decide) hw)]

end Sys2Proof.Machine
end

