-- ==== Sys2Proof/Laws/SoundCoreOps.lean ====
section
/-! SUPPORT. Laws/SoundCoreOps.lean: the operations of Machine/CoreOps.lean keep the waiting commands and the canonical form of both
memories. -/

namespace Sys2Proof.Machine

open Sys2Proof

variable {Q : Frame}

theorem State.takeTrap_sound (s : State) (c : Nat) (cause : Nat) (tval : Nat) (hs : Sound Q s) (hw : sub 1028 Q.w = true) :
    Sound Q (State.takeTrap s c cause tval) := by
  unfold State.takeTrap
  repeat' first
    | with_reducible assumption
    | with_reducible exact sub_trans (by decide) hw
    | with_reducible apply State.setReg_sound
    | with_reducible apply State.setReg64_sound
    | with_reducible apply State.setCore_sound

theorem State.retireTo_sound (s : State) (c : Nat) (pc : DWord) (hs : Sound Q s) (hw : sub 1028 Q.w = true) :
    Sound Q (State.retireTo s c pc) := by
  unfold State.retireTo
  repeat' first
    | with_reducible assumption
    | with_reducible exact sub_trans (by decide) hw
    | with_reducible apply State.modCore_sound
    | with_reducible apply State.count64_sound

theorem State.retire_sound (s : State) (c : Nat) (len : Nat) (hs : Sound Q s) (hw : sub 1028 Q.w = true) :
    Sound Q (State.retire s c len) := by
  unfold State.retire
  repeat' first
    | with_reducible assumption
    | with_reducible exact sub_trans (by decide) hw
    | with_reducible apply State.retireTo_sound

theorem IRes.finish_sound (c : Nat) (len : Nat) (a2 : IRes) (ha2 : ISound Q a2) (hw : sub 1028 Q.w = true) :
    Sound Q (IRes.finish c len a2) := by
  cases ha2 with
  | done h => exact State.retire_sound _ c len h (sub_trans (by decide) hw)
  | jump h => exact State.retireTo_sound _ c _ h (sub_trans (by decide) hw)
  | trap h => exact State.takeTrap_sound _ c _ _ h (sub_trans (by decide) hw)
  | stall h => exact h

theorem State.stayAt_sound (s : State) (c : Nat) (bits : Nat) (hs : Sound Q s) (hw : sub 1024 Q.w = true) :
    Sound Q (State.stayAt s c bits) := by
  unfold State.stayAt
  repeat' first
    | with_reducible assumption
    | with_reducible exact sub_trans (by decide) hw
    | with_reducible apply State.modCore_sound
    | with_reducible refine sound_ite (fun _ => ?_) (fun _ => ?_)

theorem State.issue_sound (s : State) (c : Nat) (op : EngOp) (f : State → IRes) (hs : Sound Q s) (hf : ∀ s, Sound Q s → ISound Q (f s)) (hw : sub 1028 Q.w = true) :
    Sound Q (State.issue s c op f) := by
  unfold State.issue
  repeat' first
    | with_reducible assumption
    | with_reducible exact sub_trans (by decide) hw
    | with_reducible apply ISound.done
    | with_reducible apply ISound.jump
    | with_reducible apply ISound.trap
    | with_reducible apply ISound.stall
    | with_reducible apply State.stayAt_sound
    | with_reducible apply IRes.finish_sound
    | with_reducible apply hf
    | with_reducible refine sound_ite (fun _ => ?_) (fun _ => ?_)
    | with_reducible refine sound_foldl (fun _ _ _ => ?_) ?_
    | with_reducible refine isound_trap (by assumption) ?_
    | with_reducible refine isound_stall (by assumption) ?_
    | with_reducible refine sound_foldl_snd (fun _ _ _ => ?_) ?_
    | with_reducible refine sound_foldl_fst (fun _ _ _ => ?_) ?_
    | with_reducible refine sound_foldl_snd2 (fun _ _ _ => ?_) ?_
    | with_reducible refine sound_snd_of (by assumption) ?_
    | with_reducible refine sound_snd2_of (by assumption) ?_
    | with_reducible refine sound_fst_of (by assumption) ?_
    | simp only []
    | split

theorem illegal_sound (op : EngOp) (s : State) (hs : Sound Q s) : ISound Q (illegal op s) := by
  unfold illegal
  repeat' first
    | with_reducible assumption
    | with_reducible apply ISound.done
    | with_reducible apply ISound.jump
    | with_reducible apply ISound.trap

theorem partTrap_sound (c : Nat) (op : EngOp) (s : State) (hs : Sound Q s) (hw : sub 4 Q.w = true) :
    ISound Q (partTrap c op s) := by
  unfold partTrap
  repeat' first
    | with_reducible assumption
    | with_reducible exact sub_trans (by decide) hw
    | with_reducible apply illegal_sound
    | with_reducible apply ISound.done
    | with_reducible apply ISound.jump
    | with_reducible apply ISound.trap
    | with_reducible apply ISound.stall
    | with_reducible apply State.setReg_sound

theorem State.markPoison_sound (s : State) (c : Nat) (hs : Sound Q s) (hw : sub 1028 Q.w = true) :
    Sound Q (State.markPoison s c) := by
  unfold State.markPoison
  repeat' first
    | with_reducible assumption
    | with_reducible exact sub_trans (by decide) hw
    | with_reducible apply State.setReg_sound
    | with_reducible apply State.modCore_sound

theorem State.setX_sound (s : State) (c : Nat) (r : XReg) (v : DWord) (hs : Sound Q s) (hw : sub 1024 Q.w = true) :
    Sound Q (State.setX s c r v) := by
  unfold State.setX
  repeat' first
    | with_reducible assumption
    | with_reducible exact sub_trans (by decide) hw
    | with_reducible apply State.modCore_sound

theorem State.setXn_sound (s : State) (c : Nat) (r : XReg) (v : Nat) (hs : Sound Q s) (hw : sub 1024 Q.w = true) :
    Sound Q (State.setXn s c r v) := by
  unfold State.setXn
  repeat' first
    | with_reducible assumption
    | with_reducible exact sub_trans (by decide) hw
    | with_reducible apply State.setX_sound

end Sys2Proof.Machine
end

