-- ==== Sys2Proof/Laws/SoundXlate.lean ====
section
/-! SUPPORT. Laws/SoundXlate.lean: the operations of Machine/Xlate.lean keep the waiting commands and the canonical form of both
memories. -/

namespace Sys2Proof.Machine

open Sys2Proof

variable {Q : Frame}

theorem State.meetWalk_sound (s : State) (va : Nat) (hs : Sound Q s) (hw : sub 598160113142525 Q.w = true) :
    Sound Q (State.meetWalk s va) := by
  unfold State.meetWalk
  repeat' first
    | with_reducible assumption
    | with_reducible exact sub_trans (by decide) hw
    | with_reducible apply State.meet_sound
    | with_reducible refine sound_ite (fun _ => ?_) (fun _ => ?_)
    | with_reducible refine sound_foldl (fun _ _ _ => ?_) ?_

theorem State.xlateFail_sound (s : State) (va : Nat) (hs : Sound Q s) (hw : sub 4 Q.w = true) :
    Sound Q (State.xlateFail s va) := by
  unfold State.xlateFail
  repeat' first
    | with_reducible assumption
    | with_reducible exact sub_trans (by decide) hw
    | with_reducible apply State.setReg64_sound
    | with_reducible apply State.count32_sound

theorem State.xlate_sound (s : State) (agent : Nat) (va : Nat) (write : Bool) (fetch : Bool) (hs : Sound Q s) (hw : sub 598160113273597 Q.w = true) :
    Sound Q (State.xlate s agent va write fetch).2 := by
  unfold State.xlate
  repeat' first
    | with_reducible assumption
    | with_reducible exact sub_trans (by decide) hw
    | with_reducible apply State.xlateFail_sound
    | with_reducible apply State.meetWalk_sound
    | with_reducible apply State.poisonRead_sound
    | with_reducible apply State.count32_sound
    | with_reducible refine sound_ite (fun _ => ?_) (fun _ => ?_)
    | with_reducible refine sound_foldl (fun _ _ _ => ?_) ?_
    | with_reducible refine sound_foldl_snd (fun _ _ _ => ?_) ?_
    | with_reducible refine sound_foldl_fst (fun _ _ _ => ?_) ?_
    | with_reducible refine sound_foldl_snd2 (fun _ _ _ => ?_) ?_
    | with_reducible refine sound_snd_of (by assumption) ?_
    | with_reducible refine sound_snd2_of (by assumption) ?_
    | with_reducible refine sound_fst_of (by assumption) ?_
    | simp only [sound_set_tlb (sub_trans (by decide) hw)]
    | split

theorem State.xlateAll_sound (s : State) (agent : Nat) (write : Bool) (a3 : List (Nat × Nat)) (hs : Sound Q s) (hw : sub 598160113273597 Q.w = true) :
    Sound Q (State.xlateAll s agent write a3).2 := by
  fun_induction State.xlateAll s agent write a3
  all_goals
    repeat' first
      | with_reducible assumption
      | with_reducible exact sub_trans (by decide) hw
      | with_reducible apply State.xlate_sound
      | with_reducible refine sound_ite (fun _ => ?_) (fun _ => ?_)
      | with_reducible refine sound_foldl (fun _ _ _ => ?_) ?_
      | with_reducible refine sound_foldl_snd (fun _ _ _ => ?_) ?_
      | with_reducible refine sound_foldl_fst (fun _ _ _ => ?_) ?_
      | with_reducible refine sound_foldl_snd2 (fun _ _ _ => ?_) ?_
      | with_reducible refine sound_snd_of (by assumption) ?_
      | with_reducible refine sound_snd2_of (by assumption) ?_
      | with_reducible refine sound_fst_of (by assumption) ?_
      | simp only []
      | split
      | intro _
      | with_reducible apply_assumption

theorem State.xlateRange_sound (s : State) (agent : Nat) (va : Nat) (n : Nat) (write : Bool) (hs : Sound Q s) (hw : sub 598160113273597 Q.w = true) :
    Sound Q (State.xlateRange s agent va n write).2 := by
  unfold State.xlateRange
  repeat' first
    | with_reducible assumption
    | with_reducible exact sub_trans (by decide) hw
    | with_reducible apply State.xlateAll_sound

theorem State.meetPieces_sound (s : State) (ps : List (Page × Nat)) (hs : Sound Q s) (hw : sub 598160113142525 Q.w = true) :
    Sound Q (State.meetPieces s ps) := by
  unfold State.meetPieces
  repeat' first
    | with_reducible assumption
    | with_reducible exact sub_trans (by decide) hw
    | with_reducible apply State.meet_sound
    | with_reducible refine sound_ite (fun _ => ?_) (fun _ => ?_)
    | with_reducible refine sound_foldl (fun _ _ _ => ?_) ?_

theorem State.writePieces_sound (s : State) (a1 : List (Page × Nat)) (a2 : List Byte) (a3 : Bool) (hs : Sound Q s) (hw : sub 598160113142525 Q.w = true) :
    Sound Q (State.writePieces s a1 a2 a3) := by
  fun_induction State.writePieces s a1 a2 a3
  all_goals
    repeat' first
      | with_reducible assumption
      | with_reducible exact sub_trans (by decide) hw
      | with_reducible apply State.writePa_sound
      | with_reducible refine sound_ite (fun _ => ?_) (fun _ => ?_)
      | with_reducible refine sound_foldl (fun _ _ _ => ?_) ?_
      | with_reducible refine sound_foldl_snd (fun _ _ _ => ?_) ?_
      | with_reducible refine sound_foldl_fst (fun _ _ _ => ?_) ?_
      | with_reducible refine sound_foldl_snd2 (fun _ _ _ => ?_) ?_
      | with_reducible refine sound_snd_of (by assumption) ?_
      | with_reducible refine sound_snd2_of (by assumption) ?_
      | with_reducible refine sound_fst_of (by assumption) ?_
      | simp only []
      | split
      | intro _
      | with_reducible apply_assumption

theorem execInvcmdAll_sound (s : State) (hs : Sound Q s) (hw : sub 131072 Q.w = true) : OutSound Q (execInvcmdAll s) := by
  unfold execInvcmdAll
  repeat' first
    | with_reducible assumption
    | with_reducible exact sub_trans (by decide) hw
    | with_reducible apply OutSound.next
    | with_reducible apply OutSound.fault
    | with_reducible apply OutSound.refused
    | with_reducible refine pred_ite (P := OutSound Q) (fun _ => ?_) (fun _ => ?_)
    | with_reducible refine sound_ite (fun _ => ?_) (fun _ => ?_)
    | with_reducible refine sound_foldl (fun _ _ _ => ?_) ?_
    | with_reducible refine sound_foldl_snd (fun _ _ _ => ?_) ?_
    | with_reducible refine sound_foldl_fst (fun _ _ _ => ?_) ?_
    | with_reducible refine sound_foldl_snd2 (fun _ _ _ => ?_) ?_
    | with_reducible refine sound_snd_of (by assumption) ?_
    | with_reducible refine sound_snd2_of (by assumption) ?_
    | with_reducible refine sound_fst_of (by assumption) ?_
    | simp only [sound_set_tlb (sub_trans (by decide) hw)]

theorem State.dropRange_sound (s : State) (va : Nat) (len : Nat) (hs : Sound Q s) (hw : sub 131072 Q.w = true) :
    Sound Q (State.dropRange s va len) := by
  unfold State.dropRange
  repeat' first
    | with_reducible assumption
    | with_reducible exact sub_trans (by decide) hw
    | with_reducible refine sound_ite (fun _ => ?_) (fun _ => ?_)
    | with_reducible refine sound_foldl (fun _ _ _ => ?_) ?_
    | with_reducible refine sound_foldl_snd (fun _ _ _ => ?_) ?_
    | with_reducible refine sound_foldl_fst (fun _ _ _ => ?_) ?_
    | with_reducible refine sound_foldl_snd2 (fun _ _ _ => ?_) ?_
    | with_reducible refine sound_snd_of (by assumption) ?_
    | with_reducible refine sound_snd2_of (by assumption) ?_
    | with_reducible refine sound_fst_of (by assumption) ?_
    | simp only [sound_set_tlb (sub_trans (by decide) hw)]

theorem execInvcmdRange_sound (s : State) (hs : Sound Q s) (hw : sub 35184372219908 Q.w = true) :
    OutSound Q (execInvcmdRange s) := by
  unfold execInvcmdRange
  repeat' first
    | with_reducible assumption
    | with_reducible exact sub_trans (by decide) hw
    | with_reducible apply OutSound.next
    | with_reducible apply OutSound.fault
    | with_reducible apply OutSound.refused
    | with_reducible apply State.dropRange_sound
    | with_reducible apply State.refuse_sound
    | with_reducible refine pred_ite (P := OutSound Q) (fun _ => ?_) (fun _ => ?_)

end Sys2Proof.Machine
end

