-- ==== Sys2Proof/Laws/SoundCache.lean ====
section
/-! SUPPORT. Laws/SoundCache.lean: the operations of Machine/Cache.lean keep the waiting commands and the canonical form of both
memories. -/

namespace Sys2Proof.Machine

open Sys2Proof

variable {Q : Frame}

/-- What the check of a memory operand gives is sound. -/
inductive MSound (Q : Frame) : MemChk → Prop where
  | ok {ts : List (Target × Nat)} {s : State} (h : Sound Q s) : MSound Q (.ok ts s)
  | bad {r : IRes} (h : ISound Q r) : MSound Q (.bad r)

theorem msound_ok {r : MemChk} {ts : List (Target × Nat)} {s : State} (e : r = .ok ts s) (h : MSound Q r) : Sound Q s := by
  subst e; cases h; assumption

theorem msound_bad {r : MemChk} {i : IRes} (e : r = .bad i) (h : MSound Q r) : ISound Q i := by
  subst e; cases h; assumption

/-- What a load gives is sound. -/
inductive LSound (Q : Frame) : LdRes → Prop where
  | data {v : Nat} {s : State} (h : Sound Q s) : LSound Q (.data v s)
  | res {r : IRes} (h : ISound Q r) : LSound Q (.res r)

theorem lsound_data {r : LdRes} {v : Nat} {s : State} (e : r = .data v s) (h : LSound Q r) : Sound Q s := by
  subst e; cases h; assumption

theorem lsound_res {r : LdRes} {i : IRes} (e : r = .res i) (h : LSound Q r) : ISound Q i := by
  subst e; cases h; assumption

/-- What a fetch gives is sound. -/
inductive HSound (Q : Frame) : FetchRes → Prop where
  | half {v : Nat} {s : State} (h : Sound Q s) : HSound Q (.half v s)
  | trap {c : Nat} {s : State} (h : Sound Q s) : HSound Q (.trap c s)
  | wait {s : State} (h : Sound Q s) : HSound Q (.wait s)

theorem hsound_half {r : FetchRes} {v : Nat} {s : State} (e : r = .half v s) (h : HSound Q r) : Sound Q s := by
  subst e; cases h; assumption

theorem hsound_trap {r : FetchRes} {c : Nat} {s : State} (e : r = .trap c s) (h : HSound Q r) : Sound Q s := by
  subst e; cases h; assumption

theorem hsound_wait {r : FetchRes} {s : State} (e : r = .wait s) (h : HSound Q r) : Sound Q s := by
  subst e; cases h; assumption

theorem State.l2Uncorrectable_sound (s : State) (h : Nat) (key : Nat) (hs : Sound Q s) (hw : sub 598160113142525 Q.w = true) :
    Sound Q (State.l2Uncorrectable s h key) := by
  unfold State.l2Uncorrectable
  repeat' first
    | with_reducible assumption
    | with_reducible exact sub_trans (by decide) hw
    | with_reducible apply State.modHome_sound
    | with_reducible apply State.l2Corrected_sound
    | with_reducible apply State.meet_sound
    | with_reducible apply State.l2CountUE_sound
    | with_reducible refine sound_ite (fun _ => ?_) (fun _ => ?_)
    | with_reducible refine sound_foldl (fun _ _ _ => ?_) ?_
    | with_reducible refine sound_foldl_snd (fun _ _ _ => ?_) ?_
    | with_reducible refine sound_foldl_fst (fun _ _ _ => ?_) ?_
    | with_reducible refine sound_foldl_snd2 (fun _ _ _ => ?_) ?_
    | with_reducible refine sound_snd_of (by assumption) ?_
    | with_reducible refine sound_snd2_of (by assumption) ?_
    | with_reducible refine sound_fst_of (by assumption) ?_
    | simp only []
    | split

theorem State.l2Meet_sound (s : State) (h : Nat) (key : Nat) (hs : Sound Q s) (hw : sub 598160113142525 Q.w = true) :
    Sound Q (State.l2Meet s h key) := by
  unfold State.l2Meet
  repeat' first
    | with_reducible assumption
    | with_reducible exact sub_trans (by decide) hw
    | with_reducible apply State.l2Uncorrectable_sound
    | with_reducible apply State.l2Corrected_sound
    | with_reducible refine sound_ite (fun _ => ?_) (fun _ => ?_)
    | with_reducible refine sound_foldl (fun _ _ _ => ?_) ?_
    | with_reducible refine sound_foldl_snd (fun _ _ _ => ?_) ?_
    | with_reducible refine sound_foldl_fst (fun _ _ _ => ?_) ?_
    | with_reducible refine sound_foldl_snd2 (fun _ _ _ => ?_) ?_
    | with_reducible refine sound_snd_of (by assumption) ?_
    | with_reducible refine sound_snd2_of (by assumption) ?_
    | with_reducible refine sound_fst_of (by assumption) ?_
    | simp only []
    | split

theorem State.l2MeetAlone_sound (s : State) (h : Nat) (key : Nat) (hs : Sound Q s) (hw : sub 598160113142525 Q.w = true) :
    Sound Q (State.l2MeetAlone s h key) := by
  unfold State.l2MeetAlone
  repeat' first
    | with_reducible assumption
    | with_reducible exact sub_trans (by decide) hw
    | with_reducible apply State.fatal_sound
    | with_reducible apply State.l2Meet_sound
    | with_reducible refine sound_ite (fun _ => ?_) (fun _ => ?_)

theorem State.l2WriteBack_sound (s0 : State) (h : Nat) (key : Nat) (hs0 : Sound Q s0) (hw : sub 598160113142525 Q.w = true) :
    Sound Q (State.l2WriteBack s0 h key) := by
  unfold State.l2WriteBack
  repeat' first
    | with_reducible assumption
    | with_reducible exact sub_trans (by decide) hw
    | with_reducible apply State.l2MeetAlone_sound
    | with_reducible apply State.modHome_sound
    | with_reducible apply State.store_sound
    | with_reducible apply State.count64_sound
    | with_reducible refine sound_ite (fun _ => ?_) (fun _ => ?_)
    | with_reducible refine sound_foldl (fun _ _ _ => ?_) ?_
    | with_reducible refine sound_foldl_snd (fun _ _ _ => ?_) ?_
    | with_reducible refine sound_foldl_fst (fun _ _ _ => ?_) ?_
    | with_reducible refine sound_foldl_snd2 (fun _ _ _ => ?_) ?_
    | with_reducible refine sound_snd_of (by assumption) ?_
    | with_reducible refine sound_snd2_of (by assumption) ?_
    | with_reducible refine sound_fst_of (by assumption) ?_
    | simp only []
    | split

theorem State.l2Drop_sound (s : State) (h : Nat) (key : Nat) (hs : Sound Q s) (hw : sub 2048 Q.w = true) :
    Sound Q (State.l2Drop s h key) := by
  unfold State.l2Drop
  repeat' first
    | with_reducible assumption
    | with_reducible exact sub_trans (by decide) hw
    | with_reducible apply State.modHome_sound

theorem State.l2Install_sound (s : State) (h : Nat) (e : L2Line) (hs : Sound Q s) (hw : sub 598160113142525 Q.w = true) :
    Sound Q (State.l2Install s h e) := by
  unfold State.l2Install
  repeat' first
    | with_reducible assumption
    | with_reducible exact sub_trans (by decide) hw
    | with_reducible apply State.modHome_sound
    | with_reducible apply State.l2WriteBack_sound
    | with_reducible apply State.setHome_sound

theorem State.l2Fill_sound (s : State) (h : Nat) (line : Nat) (age : Nat) (pf : Bool) (hs : Sound Q s) (hw : sub 598160113142525 Q.w = true) :
    Sound Q (State.l2Fill s h line age pf) := by
  unfold State.l2Fill
  repeat' first
    | with_reducible assumption
    | with_reducible exact sub_trans (by decide) hw
    | with_reducible apply State.l2Install_sound
    | with_reducible apply State.meet_sound

theorem State.l2FillAhead_sound (s : State) (h : Nat) (line : Nat) (age : Nat) (hs : Sound Q s) (hw : sub 598160113142525 Q.w = true) :
    Sound Q (State.l2FillAhead s h line age) := by
  unfold State.l2FillAhead
  repeat' first
    | with_reducible assumption
    | with_reducible exact sub_trans (by decide) hw
    | with_reducible apply State.dramFatal_sound
    | with_reducible apply State.l2Fill_sound
    | with_reducible refine sound_ite (fun _ => ?_) (fun _ => ?_)

theorem State.noteMiss_sound (s : State) (h : Nat) (line : Nat) (age : Nat) (hs : Sound Q s) (hw : sub 2048 Q.w = true) :
    Sound Q (State.noteMiss s h line age) := by
  unfold State.noteMiss
  repeat' first
    | with_reducible assumption
    | with_reducible exact sub_trans (by decide) hw
    | with_reducible apply State.modHome_sound
    | with_reducible refine sound_ite (fun _ => ?_) (fun _ => ?_)

theorem State.prefetch_sound (s : State) (h : Nat) (line : Nat) (hs : Sound Q s) (hw : sub 598160113142525 Q.w = true) :
    Sound Q (State.prefetch s h line) := by
  unfold State.prefetch
  repeat' first
    | with_reducible assumption
    | with_reducible exact sub_trans (by decide) hw
    | with_reducible apply State.l2FillAhead_sound
    | with_reducible apply State.noteMiss_sound
    | with_reducible apply State.count64_sound
    | with_reducible refine sound_ite (fun _ => ?_) (fun _ => ?_)

theorem State.train_sound (s : State) (h : Nat) (req : Nat) (line : Nat) (hs : Sound Q s) (hw : sub 598160113142525 Q.w = true) :
    Sound Q (State.train s h req line) := by
  unfold State.train
  repeat' first
    | with_reducible assumption
    | with_reducible exact sub_trans (by decide) hw
    | with_reducible apply State.setHome_sound
    | with_reducible apply State.prefetch_sound
    | with_reducible refine sound_ite (fun _ => ?_) (fun _ => ?_)
    | with_reducible refine sound_foldl (fun _ _ _ => ?_) ?_
    | with_reducible refine sound_foldl_snd (fun _ _ _ => ?_) ?_
    | with_reducible refine sound_foldl_fst (fun _ _ _ => ?_) ?_
    | with_reducible refine sound_foldl_snd2 (fun _ _ _ => ?_) ?_
    | with_reducible refine sound_snd_of (by assumption) ?_
    | with_reducible refine sound_snd2_of (by assumption) ?_
    | with_reducible refine sound_fst_of (by assumption) ?_
    | simp only []
    | split

theorem State.l2Hit_sound (s : State) (h : Nat) (key : Nat) (hs : Sound Q s) (hw : sub 2052 Q.w = true) :
    Sound Q (State.l2Hit s h key) := by
  unfold State.l2Hit
  repeat' first
    | with_reducible assumption
    | with_reducible exact sub_trans (by decide) hw
    | with_reducible apply State.modHome_sound
    | with_reducible apply State.count64_sound
    | with_reducible refine sound_ite (fun _ => ?_) (fun _ => ?_)
    | with_reducible refine sound_foldl (fun _ _ _ => ?_) ?_
    | with_reducible refine sound_foldl_snd (fun _ _ _ => ?_) ?_
    | with_reducible refine sound_foldl_fst (fun _ _ _ => ?_) ?_
    | with_reducible refine sound_foldl_snd2 (fun _ _ _ => ?_) ?_
    | with_reducible refine sound_snd_of (by assumption) ?_
    | with_reducible refine sound_snd2_of (by assumption) ?_
    | with_reducible refine sound_fst_of (by assumption) ?_
    | simp only []
    | split

theorem State.l2Access_sound (s : State) (h : Nat) (req : Nat) (line : Nat) (strm : Bool) (hs : Sound Q s) (hw : sub 598160113142525 Q.w = true) :
    Sound Q (State.l2Access s h req line strm) := by
  unfold State.l2Access
  repeat' first
    | with_reducible assumption
    | with_reducible exact sub_trans (by decide) hw
    | with_reducible apply State.train_sound
    | with_reducible apply State.l2Meet_sound
    | with_reducible apply State.l2Hit_sound
    | with_reducible apply State.l2Fill_sound
    | with_reducible apply State.count64_sound
    | with_reducible refine sound_ite (fun _ => ?_) (fun _ => ?_)
    | with_reducible refine sound_foldl (fun _ _ _ => ?_) ?_
    | with_reducible refine sound_foldl_snd (fun _ _ _ => ?_) ?_
    | with_reducible refine sound_foldl_fst (fun _ _ _ => ?_) ?_
    | with_reducible refine sound_foldl_snd2 (fun _ _ _ => ?_) ?_
    | with_reducible refine sound_snd_of (by assumption) ?_
    | with_reducible refine sound_snd2_of (by assumption) ?_
    | with_reducible refine sound_fst_of (by assumption) ?_
    | simp only []
    | split

theorem State.l2WriteLine_sound (s : State) (h : Nat) (line : Nat) (d : BitVec 512) (bad : Bool) (hs : Sound Q s) (hw : sub 598160113142525 Q.w = true) :
    Sound Q (State.l2WriteLine s h line d bad) := by
  unfold State.l2WriteLine
  repeat' first
    | with_reducible assumption
    | with_reducible exact sub_trans (by decide) hw
    | with_reducible apply State.modHome_sound
    | with_reducible apply State.store_sound
    | with_reducible apply State.l2Install_sound
    | with_reducible apply State.l2Hit_sound
    | with_reducible apply State.count64_sound
    | with_reducible refine sound_ite (fun _ => ?_) (fun _ => ?_)
    | with_reducible refine sound_foldl (fun _ _ _ => ?_) ?_
    | with_reducible refine sound_foldl_snd (fun _ _ _ => ?_) ?_
    | with_reducible refine sound_foldl_fst (fun _ _ _ => ?_) ?_
    | with_reducible refine sound_foldl_snd2 (fun _ _ _ => ?_) ?_
    | with_reducible refine sound_snd_of (by assumption) ?_
    | with_reducible refine sound_snd2_of (by assumption) ?_
    | with_reducible refine sound_fst_of (by assumption) ?_
    | simp only []
    | split

theorem State.clusterLine_sound (s : State) (h : Nat) (req : Nat) (line : Nat) (strm : Bool) (hs : Sound Q s) (hw : sub 598160113142525 Q.w = true) :
    Sound Q (State.clusterLine s h req line strm).2.2 := by
  unfold State.clusterLine
  repeat' first
    | with_reducible assumption
    | with_reducible exact sub_trans (by decide) hw
    | with_reducible apply State.meet_sound
    | with_reducible apply State.l2Access_sound
    | with_reducible refine sound_ite (fun _ => ?_) (fun _ => ?_)
    | with_reducible refine sound_foldl (fun _ _ _ => ?_) ?_
    | with_reducible refine sound_foldl_snd (fun _ _ _ => ?_) ?_
    | with_reducible refine sound_foldl_fst (fun _ _ _ => ?_) ?_
    | with_reducible refine sound_foldl_snd2 (fun _ _ _ => ?_) ?_
    | with_reducible refine sound_snd_of (by assumption) ?_
    | with_reducible refine sound_snd2_of (by assumption) ?_
    | with_reducible refine sound_fst_of (by assumption) ?_
    | simp only []
    | split

theorem State.clusterLineAgain_sound (s : State) (h : Nat) (line : Nat) (hs : Sound Q s) (hw : sub 598160113142525 Q.w = true) :
    Sound Q (State.clusterLineAgain s h line).2.2 := by
  unfold State.clusterLineAgain
  repeat' first
    | with_reducible assumption
    | with_reducible exact sub_trans (by decide) hw
    | with_reducible apply State.l2Meet_sound
    | with_reducible apply State.meet_sound
    | with_reducible refine sound_ite (fun _ => ?_) (fun _ => ?_)
    | with_reducible refine sound_foldl (fun _ _ _ => ?_) ?_
    | with_reducible refine sound_foldl_snd (fun _ _ _ => ?_) ?_
    | with_reducible refine sound_foldl_fst (fun _ _ _ => ?_) ?_
    | with_reducible refine sound_foldl_snd2 (fun _ _ _ => ?_) ?_
    | with_reducible refine sound_snd_of (by assumption) ?_
    | with_reducible refine sound_snd2_of (by assumption) ?_
    | with_reducible refine sound_fst_of (by assumption) ?_
    | simp only []
    | split

theorem State.dropResv_sound (s : State) (h : Nat) (line : Nat) (but : Nat) (hs : Sound Q s) (hw : sub 1024 Q.w = true) :
    Sound Q (State.dropResv s h line but) := by
  unfold State.dropResv
  repeat' first
    | with_reducible assumption
    | with_reducible exact sub_trans (by decide) hw
    | with_reducible refine sound_ite (fun _ => ?_) (fun _ => ?_)
    | with_reducible refine sound_foldl (fun _ _ _ => ?_) ?_
    | with_reducible refine sound_foldl_snd (fun _ _ _ => ?_) ?_
    | with_reducible refine sound_foldl_fst (fun _ _ _ => ?_) ?_
    | with_reducible refine sound_foldl_snd2 (fun _ _ _ => ?_) ?_
    | with_reducible refine sound_snd_of (by assumption) ?_
    | with_reducible refine sound_snd2_of (by assumption) ?_
    | with_reducible refine sound_fst_of (by assumption) ?_
    | simp only [sound_set_cores (sub_trans (by decide) hw)]

theorem State.l1Corrected_sound (s : State) (c : Nat) (line : Nat) (hs : Sound Q s) (hw : sub 598134343336188 Q.w = true) :
    Sound Q (State.l1Corrected s c line) := by
  unfold State.l1Corrected
  repeat' first
    | with_reducible assumption
    | with_reducible exact sub_trans (by decide) hw
    | with_reducible apply State.lightEvent_sound
    | with_reducible apply State.count32_sound
    | with_reducible apply State.setErr_sound

theorem State.l1MeetKept_sound (s : State) (c : Nat) (key : Nat) (hs : Sound Q s) (hw : sub 598134343337212 Q.w = true) :
    Sound Q (State.l1MeetKept s c key) := by
  unfold State.l1MeetKept
  repeat' first
    | with_reducible assumption
    | with_reducible exact sub_trans (by decide) hw
    | with_reducible apply State.l1Corrected_sound
    | with_reducible apply State.modCore_sound
    | with_reducible apply State.count32_sound
    | with_reducible apply State.setErr_sound
    | with_reducible refine sound_ite (fun _ => ?_) (fun _ => ?_)
    | with_reducible refine sound_foldl (fun _ _ _ => ?_) ?_
    | with_reducible refine sound_foldl_snd (fun _ _ _ => ?_) ?_
    | with_reducible refine sound_foldl_fst (fun _ _ _ => ?_) ?_
    | with_reducible refine sound_foldl_snd2 (fun _ _ _ => ?_) ?_
    | with_reducible refine sound_snd_of (by assumption) ?_
    | with_reducible refine sound_snd2_of (by assumption) ?_
    | with_reducible refine sound_fst_of (by assumption) ?_
    | simp only []
    | split

theorem State.l1MeetAlone_sound (s : State) (c : Nat) (key : Nat) (hs : Sound Q s) (hw : sub 598134343337724 Q.w = true) :
    Sound Q (State.l1MeetAlone s c key) := by
  unfold State.l1MeetAlone
  repeat' first
    | with_reducible assumption
    | with_reducible exact sub_trans (by decide) hw
    | with_reducible apply State.fatal_sound
    | with_reducible apply State.l1MeetKept_sound
    | with_reducible refine sound_ite (fun _ => ?_) (fun _ => ?_)

theorem State.l1WriteBack_sound (s0 : State) (c : Nat) (key : Nat) (hs0 : Sound Q s0) (hw : sub 598160113143549 Q.w = true) :
    Sound Q (State.l1WriteBack s0 c key) := by
  unfold State.l1WriteBack
  repeat' first
    | with_reducible assumption
    | with_reducible exact sub_trans (by decide) hw
    | with_reducible apply State.l2WriteLine_sound
    | with_reducible apply State.l1MeetAlone_sound
    | with_reducible apply State.modCore_sound
    | with_reducible apply State.dropResv_sound
    | with_reducible apply State.count64_sound
    | with_reducible refine sound_ite (fun _ => ?_) (fun _ => ?_)
    | with_reducible refine sound_foldl (fun _ _ _ => ?_) ?_
    | with_reducible refine sound_foldl_snd (fun _ _ _ => ?_) ?_
    | with_reducible refine sound_foldl_fst (fun _ _ _ => ?_) ?_
    | with_reducible refine sound_foldl_snd2 (fun _ _ _ => ?_) ?_
    | with_reducible refine sound_snd_of (by assumption) ?_
    | with_reducible refine sound_snd2_of (by assumption) ?_
    | with_reducible refine sound_fst_of (by assumption) ?_
    | simp only []
    | split

theorem State.l1Install_sound (s : State) (c : Nat) (e : L1Line) (hs : Sound Q s) (hw : sub 598160113143549 Q.w = true) :
    Sound Q (State.l1Install s c e) := by
  unfold State.l1Install
  repeat' first
    | with_reducible assumption
    | with_reducible exact sub_trans (by decide) hw
    | with_reducible apply State.modCore_sound
    | with_reducible apply State.l1WriteBack_sound

theorem State.l1Fill_sound (s : State) (c : Nat) (line : Nat) (strm : Bool) (hs : Sound Q s) (hw : sub 598160113143549 Q.w = true) :
    Sound Q (State.l1Fill s c line strm) := by
  unfold State.l1Fill
  repeat' first
    | with_reducible assumption
    | with_reducible exact sub_trans (by decide) hw
    | with_reducible apply State.clusterLine_sound
    | with_reducible apply State.l1Install_sound

theorem State.l1Meet_sound (s : State) (c : Nat) (key : Nat) (strm : Bool) (hs : Sound Q s) (hw : sub 598160113143549 Q.w = true) :
    Sound Q (State.l1Meet s c key strm) := by
  unfold State.l1Meet
  repeat' first
    | with_reducible assumption
    | with_reducible exact sub_trans (by decide) hw
    | with_reducible apply State.l1MeetKept_sound
    | with_reducible apply State.l1Fill_sound
    | with_reducible apply State.l1Corrected_sound
    | with_reducible apply State.modCore_sound
    | with_reducible refine sound_ite (fun _ => ?_) (fun _ => ?_)
    | with_reducible refine sound_foldl (fun _ _ _ => ?_) ?_
    | with_reducible refine sound_foldl_snd (fun _ _ _ => ?_) ?_
    | with_reducible refine sound_foldl_fst (fun _ _ _ => ?_) ?_
    | with_reducible refine sound_foldl_snd2 (fun _ _ _ => ?_) ?_
    | with_reducible refine sound_snd_of (by assumption) ?_
    | with_reducible refine sound_snd2_of (by assumption) ?_
    | with_reducible refine sound_fst_of (by assumption) ?_
    | simp only []
    | split

theorem State.l1MeetStore_sound (s : State) (c : Nat) (key : Nat) (strm : Bool) (hs : Sound Q s) (hw : sub 598160113143549 Q.w = true) :
    Sound Q (State.l1MeetStore s c key strm) := by
  unfold State.l1MeetStore
  repeat' first
    | with_reducible assumption
    | with_reducible exact sub_trans (by decide) hw
    | with_reducible apply State.l1MeetAlone_sound
    | with_reducible apply State.l1Meet_sound
    | with_reducible refine sound_ite (fun _ => ?_) (fun _ => ?_)

theorem State.l1Touch_sound (s : State) (c : Nat) (line : Nat) (hs : Sound Q s) (hw : sub 1024 Q.w = true) :
    Sound Q (State.l1Touch s c line) := by
  unfold State.l1Touch
  repeat' first
    | with_reducible assumption
    | with_reducible exact sub_trans (by decide) hw
    | with_reducible apply State.modCore_sound
    | with_reducible refine sound_ite (fun _ => ?_) (fun _ => ?_)
    | with_reducible refine sound_foldl (fun _ _ _ => ?_) ?_
    | with_reducible refine sound_foldl_snd (fun _ _ _ => ?_) ?_
    | with_reducible refine sound_foldl_fst (fun _ _ _ => ?_) ?_
    | with_reducible refine sound_foldl_snd2 (fun _ _ _ => ?_) ?_
    | with_reducible refine sound_snd_of (by assumption) ?_
    | with_reducible refine sound_snd2_of (by assumption) ?_
    | with_reducible refine sound_fst_of (by assumption) ?_
    | simp only []
    | split

theorem State.l1Ensure_sound (s : State) (c : Nat) (line : Nat) (strm : Bool) (write : Bool) (hs : Sound Q s) (hw : sub 598160113143549 Q.w = true) :
    Sound Q (State.l1Ensure s c line strm write) := by
  unfold State.l1Ensure
  repeat' first
    | with_reducible assumption
    | with_reducible exact sub_trans (by decide) hw
    | with_reducible apply State.l1Fill_sound
    | with_reducible apply State.l1Meet_sound
    | with_reducible apply State.l1MeetStore_sound
    | with_reducible apply State.l1Touch_sound
    | with_reducible apply State.count64_sound
    | with_reducible refine sound_ite (fun _ => ?_) (fun _ => ?_)
    | with_reducible refine sound_foldl (fun _ _ _ => ?_) ?_
    | with_reducible refine sound_foldl_snd (fun _ _ _ => ?_) ?_
    | with_reducible refine sound_foldl_fst (fun _ _ _ => ?_) ?_
    | with_reducible refine sound_foldl_snd2 (fun _ _ _ => ?_) ?_
    | with_reducible refine sound_snd_of (by assumption) ?_
    | with_reducible refine sound_snd2_of (by assumption) ?_
    | with_reducible refine sound_fst_of (by assumption) ?_
    | simp only []
    | split

theorem State.l1Write_sound (s : State) (c : Nat) (line : Nat) (off : Nat) (l : List Byte) (bad : Bool) (hs : Sound Q s) (hw : sub 1024 Q.w = true) :
    Sound Q (State.l1Write s c line off l bad) := by
  unfold State.l1Write
  repeat' first
    | with_reducible assumption
    | with_reducible exact sub_trans (by decide) hw
    | with_reducible apply State.modCore_sound
    | with_reducible refine sound_ite (fun _ => ?_) (fun _ => ?_)
    | with_reducible refine sound_foldl (fun _ _ _ => ?_) ?_
    | with_reducible refine sound_foldl_snd (fun _ _ _ => ?_) ?_
    | with_reducible refine sound_foldl_fst (fun _ _ _ => ?_) ?_
    | with_reducible refine sound_foldl_snd2 (fun _ _ _ => ?_) ?_
    | with_reducible refine sound_snd_of (by assumption) ?_
    | with_reducible refine sound_snd2_of (by assumption) ?_
    | with_reducible refine sound_fst_of (by assumption) ?_
    | simp only []
    | split

theorem State.coreXlate_sound (s : State) (c : Nat) (va : Nat) (write : Bool) (fetch : Bool) (hs : Sound Q s) (hw : sub 598160113273597 Q.w = true) :
    Sound Q (State.coreXlate s c va write fetch).2 := by
  unfold State.coreXlate
  repeat' first
    | with_reducible assumption
    | with_reducible exact sub_trans (by decide) hw
    | with_reducible apply State.xlate_sound
    | with_reducible refine sound_ite (fun _ => ?_) (fun _ => ?_)
    | with_reducible refine sound_foldl (fun _ _ _ => ?_) ?_
    | with_reducible refine sound_foldl_snd (fun _ _ _ => ?_) ?_
    | with_reducible refine sound_foldl_fst (fun _ _ _ => ?_) ?_
    | with_reducible refine sound_foldl_snd2 (fun _ _ _ => ?_) ?_
    | with_reducible refine sound_snd_of (by assumption) ?_
    | with_reducible refine sound_snd2_of (by assumption) ?_
    | with_reducible refine sound_fst_of (by assumption) ?_
    | simp only []
    | split

theorem State.coreXlateAll_sound (s : State) (c : Nat) (write : Bool) (a3 : List (Nat × Nat)) (hs : Sound Q s) (hw : sub 598160113273597 Q.w = true) :
    Sound Q (State.coreXlateAll s c write a3).2 := by
  fun_induction State.coreXlateAll s c write a3
  all_goals
    repeat' first
      | with_reducible assumption
      | with_reducible exact sub_trans (by decide) hw
      | with_reducible apply State.coreXlate_sound
      | with_reducible refine sound_ite (fun _ => ?_) (fun _ => ?_)
      | with_reducible refine sound_foldl (fun _ _ _ => ?_) ?_
      | with_reducible refine sound_foldl_snd (fun _ _ _ => ?_) ?_
      | with_reducible refine sound_foldl_fst (fun _ _ _ => ?_) ?_
      | with_reducible refine sound_foldl_snd2 (fun _ _ _ => ?_) ?_
      | with_reducible refine sound_snd_of (by assumption) ?_
      | with_reducible refine sound_snd2_of (by assumption) ?_
      | with_reducible refine sound_fst_of (by assumption) ?_
      | simp only []
      | split
      | intro _
      | with_reducible apply_assumption

theorem State.readPart_sound (s : State) (c : Nat) (line : Nat) (off : Nat) (n : Nat) (strm : Bool) (hs : Sound Q s) (hw : sub 598160113143549 Q.w = true) :
    Sound Q (State.readPart s c line off n strm).2.2 := by
  unfold State.readPart
  repeat' first
    | with_reducible assumption
    | with_reducible exact sub_trans (by decide) hw
    | with_reducible apply State.l1Ensure_sound
    | with_reducible refine sound_ite (fun _ => ?_) (fun _ => ?_)
    | with_reducible refine sound_foldl (fun _ _ _ => ?_) ?_
    | with_reducible refine sound_foldl_snd (fun _ _ _ => ?_) ?_
    | with_reducible refine sound_foldl_fst (fun _ _ _ => ?_) ?_
    | with_reducible refine sound_foldl_snd2 (fun _ _ _ => ?_) ?_
    | with_reducible refine sound_snd_of (by assumption) ?_
    | with_reducible refine sound_snd2_of (by assumption) ?_
    | with_reducible refine sound_fst_of (by assumption) ?_
    | simp only []
    | split

theorem State.readLines_sound (s : State) (c : Nat) (strm : Bool) (a3 : Nat) (a4 : Nat) (a5 : Nat) (hs : Sound Q s) (hw : sub 598160113143549 Q.w = true) :
    Sound Q (State.readLines s c strm a3 a4 a5).2.2 := by
  fun_induction State.readLines s c strm a3 a4 a5
  all_goals
    repeat' first
      | with_reducible assumption
      | with_reducible exact sub_trans (by decide) hw
      | with_reducible apply State.readPart_sound
      | with_reducible refine sound_ite (fun _ => ?_) (fun _ => ?_)
      | with_reducible refine sound_foldl (fun _ _ _ => ?_) ?_
      | with_reducible refine sound_foldl_snd (fun _ _ _ => ?_) ?_
      | with_reducible refine sound_foldl_fst (fun _ _ _ => ?_) ?_
      | with_reducible refine sound_foldl_snd2 (fun _ _ _ => ?_) ?_
      | with_reducible refine sound_snd_of (by assumption) ?_
      | with_reducible refine sound_snd2_of (by assumption) ?_
      | with_reducible refine sound_fst_of (by assumption) ?_
      | simp only []
      | split
      | intro _
      | with_reducible apply_assumption

theorem State.coreRead_sound (s : State) (c : Nat) (t : Target) (n : Nat) (hs : Sound Q s) (hw : sub 598160113143549 Q.w = true) :
    Sound Q (State.coreRead s c t n).2.2 := by
  unfold State.coreRead
  repeat' first
    | with_reducible assumption
    | with_reducible exact sub_trans (by decide) hw
    | with_reducible apply State.poisonRead_sound
    | with_reducible apply State.meet_sound
    | with_reducible apply State.readLines_sound
    | with_reducible refine sound_ite (fun _ => ?_) (fun _ => ?_)
    | with_reducible refine sound_foldl (fun _ _ _ => ?_) ?_
    | with_reducible refine sound_foldl_snd (fun _ _ _ => ?_) ?_
    | with_reducible refine sound_foldl_fst (fun _ _ _ => ?_) ?_
    | with_reducible refine sound_foldl_snd2 (fun _ _ _ => ?_) ?_
    | with_reducible refine sound_snd_of (by assumption) ?_
    | with_reducible refine sound_snd2_of (by assumption) ?_
    | with_reducible refine sound_fst_of (by assumption) ?_
    | simp only []
    | split

theorem State.writeLines_sound (s : State) (c : Nat) (strm : Bool) (bad : Bool) (a4 : Nat) (a5 : Nat) (a6 : List Byte) (hs : Sound Q s) (hw : sub 598160113143549 Q.w = true) :
    Sound Q (State.writeLines s c strm bad a4 a5 a6) := by
  fun_induction State.writeLines s c strm bad a4 a5 a6
  all_goals
    repeat' first
      | with_reducible assumption
      | with_reducible exact sub_trans (by decide) hw
      | with_reducible apply State.l1Write_sound
      | with_reducible apply State.l1Ensure_sound
      | with_reducible refine sound_ite (fun _ => ?_) (fun _ => ?_)
      | with_reducible refine sound_foldl (fun _ _ _ => ?_) ?_
      | with_reducible refine sound_foldl_snd (fun _ _ _ => ?_) ?_
      | with_reducible refine sound_foldl_fst (fun _ _ _ => ?_) ?_
      | with_reducible refine sound_foldl_snd2 (fun _ _ _ => ?_) ?_
      | with_reducible refine sound_snd_of (by assumption) ?_
      | with_reducible refine sound_snd2_of (by assumption) ?_
      | with_reducible refine sound_fst_of (by assumption) ?_
      | simp only []
      | split
      | intro _
      | with_reducible apply_assumption

theorem State.coreWrite_sound (s : State) (c : Nat) (t : Target) (l : List Byte) (bad : Bool) (hs : Sound Q s) (hw : sub 598160113143549 Q.w = true) :
    Sound Q (State.coreWrite s c t l bad) := by
  unfold State.coreWrite
  repeat' first
    | with_reducible assumption
    | with_reducible exact sub_trans (by decide) hw
    | with_reducible apply State.writePa_sound
    | with_reducible apply State.writeLines_sound
    | with_reducible refine sound_ite (fun _ => ?_) (fun _ => ?_)

theorem State.coreReadAll_sound (s : State) (c : Nat) (a2 : List (Target × Nat)) (hs : Sound Q s) (hw : sub 598160113143549 Q.w = true) :
    Sound Q (State.coreReadAll s c a2).2.2 := by
  fun_induction State.coreReadAll s c a2
  all_goals
    repeat' first
      | with_reducible assumption
      | with_reducible exact sub_trans (by decide) hw
      | with_reducible apply State.coreRead_sound
      | with_reducible refine sound_ite (fun _ => ?_) (fun _ => ?_)
      | with_reducible refine sound_foldl (fun _ _ _ => ?_) ?_
      | with_reducible refine sound_foldl_snd (fun _ _ _ => ?_) ?_
      | with_reducible refine sound_foldl_fst (fun _ _ _ => ?_) ?_
      | with_reducible refine sound_foldl_snd2 (fun _ _ _ => ?_) ?_
      | with_reducible refine sound_snd_of (by assumption) ?_
      | with_reducible refine sound_snd2_of (by assumption) ?_
      | with_reducible refine sound_fst_of (by assumption) ?_
      | simp only []
      | split
      | intro _
      | with_reducible apply_assumption

theorem State.coreWriteAll_sound (s : State) (c : Nat) (bad : Bool) (a3 : List (Target × Nat)) (a4 : List Byte) (hs : Sound Q s) (hw : sub 598160113143549 Q.w = true) :
    Sound Q (State.coreWriteAll s c bad a3 a4) := by
  fun_induction State.coreWriteAll s c bad a3 a4
  all_goals
    repeat' first
      | with_reducible assumption
      | with_reducible exact sub_trans (by decide) hw
      | with_reducible apply State.coreWrite_sound
      | with_reducible refine sound_ite (fun _ => ?_) (fun _ => ?_)
      | with_reducible refine sound_foldl (fun _ _ _ => ?_) ?_
      | with_reducible refine sound_foldl_snd (fun _ _ _ => ?_) ?_
      | with_reducible refine sound_foldl_fst (fun _ _ _ => ?_) ?_
      | with_reducible refine sound_foldl_snd2 (fun _ _ _ => ?_) ?_
      | with_reducible refine sound_snd_of (by assumption) ?_
      | with_reducible refine sound_snd2_of (by assumption) ?_
      | with_reducible refine sound_fst_of (by assumption) ?_
      | simp only []
      | split
      | intro _
      | with_reducible apply_assumption

theorem State.memCheck_sound (s : State) (c : Nat) (write : Bool) (ps : List (Nat × Nat)) (hs : Sound Q s) (hw : sub 598160113273597 Q.w = true) :
    MSound Q (State.memCheck s c write ps) := by
  unfold State.memCheck
  repeat' first
    | with_reducible assumption
    | with_reducible exact sub_trans (by decide) hw
    | with_reducible apply MSound.ok
    | with_reducible apply MSound.bad
    | with_reducible apply ISound.done
    | with_reducible apply ISound.jump
    | with_reducible apply ISound.trap
    | with_reducible apply ISound.stall
    | with_reducible apply State.coreXlateAll_sound
    | with_reducible refine pred_ite (P := MSound Q) (fun _ => ?_) (fun _ => ?_)
    | with_reducible refine pred_ite (P := ISound Q) (fun _ => ?_) (fun _ => ?_)
    | with_reducible refine sound_ite (fun _ => ?_) (fun _ => ?_)
    | with_reducible refine sound_foldl (fun _ _ _ => ?_) ?_
    | with_reducible refine sound_foldl_snd (fun _ _ _ => ?_) ?_
    | with_reducible refine sound_foldl_fst (fun _ _ _ => ?_) ?_
    | with_reducible refine sound_foldl_snd2 (fun _ _ _ => ?_) ?_
    | with_reducible refine sound_snd_of (by assumption) ?_
    | with_reducible refine sound_snd2_of (by assumption) ?_
    | with_reducible refine sound_fst_of (by assumption) ?_
    | simp only []
    | split

theorem State.missLine_sound (s : State) (c : Nat) (line : Nat) (strm : Bool) (hs : Sound Q s) (hw : sub 598160113143549 Q.w = true) :
    Sound Q (State.missLine s c line strm) := by
  unfold State.missLine
  repeat' first
    | with_reducible assumption
    | with_reducible exact sub_trans (by decide) hw
    | with_reducible apply State.train_sound
    | with_reducible apply State.modCore_sound
    | with_reducible apply State.setCore_sound
    | with_reducible apply State.noteMiss_sound
    | with_reducible apply State.l2Hit_sound
    | with_reducible apply State.count64_sound
    | with_reducible refine sound_ite (fun _ => ?_) (fun _ => ?_)
    | with_reducible refine sound_foldl (fun _ _ _ => ?_) ?_
    | with_reducible refine sound_foldl_snd (fun _ _ _ => ?_) ?_
    | with_reducible refine sound_foldl_fst (fun _ _ _ => ?_) ?_
    | with_reducible refine sound_foldl_snd2 (fun _ _ _ => ?_) ?_
    | with_reducible refine sound_snd_of (by assumption) ?_
    | with_reducible refine sound_snd2_of (by assumption) ?_
    | with_reducible refine sound_fst_of (by assumption) ?_
    | simp only []
    | split

theorem State.cpLoad_sound (s : State) (c : Nat) (va : Nat) (n : Nat) (hs : Sound Q s) (hw : sub 598160113274621 Q.w = true) :
    LSound Q (State.cpLoad s c va n) := by
  unfold State.cpLoad
  repeat' first
    | with_reducible assumption
    | with_reducible exact sub_trans (by decide) hw
    | with_reducible apply LSound.data
    | with_reducible apply LSound.res
    | with_reducible apply ISound.done
    | with_reducible apply ISound.jump
    | with_reducible apply ISound.trap
    | with_reducible apply ISound.stall
    | with_reducible apply State.modCore_sound
    | with_reducible apply State.l1Meet_sound
    | with_reducible apply State.poisonRead_sound
    | with_reducible apply State.coreXlate_sound
    | with_reducible apply State.meet_sound
    | with_reducible apply State.count64_sound
    | with_reducible apply State.missLine_sound
    | with_reducible refine pred_ite (P := LSound Q) (fun _ => ?_) (fun _ => ?_)
    | with_reducible refine pred_ite (P := ISound Q) (fun _ => ?_) (fun _ => ?_)
    | with_reducible refine sound_ite (fun _ => ?_) (fun _ => ?_)
    | with_reducible refine sound_foldl (fun _ _ _ => ?_) ?_
    | with_reducible refine sound_foldl_snd (fun _ _ _ => ?_) ?_
    | with_reducible refine sound_foldl_fst (fun _ _ _ => ?_) ?_
    | with_reducible refine sound_foldl_snd2 (fun _ _ _ => ?_) ?_
    | with_reducible refine sound_snd_of (by assumption) ?_
    | with_reducible refine sound_snd2_of (by assumption) ?_
    | with_reducible refine sound_fst_of (by assumption) ?_
    | simp only []
    | split

theorem State.cpStore_sound (s : State) (c : Nat) (va : Nat) (n : Nat) (v : Nat) (hs : Sound Q s) (hw : sub 598160113274621 Q.w = true) :
    ISound Q (State.cpStore s c va n v) := by
  unfold State.cpStore
  repeat' first
    | with_reducible assumption
    | with_reducible exact sub_trans (by decide) hw
    | with_reducible apply ISound.done
    | with_reducible apply ISound.jump
    | with_reducible apply ISound.trap
    | with_reducible apply ISound.stall
    | with_reducible apply State.l1Write_sound
    | with_reducible apply State.writePa_sound
    | with_reducible apply State.modCore_sound
    | with_reducible apply State.l1MeetStore_sound
    | with_reducible apply State.l1Touch_sound
    | with_reducible apply State.coreXlate_sound
    | with_reducible apply State.count64_sound
    | with_reducible apply State.missLine_sound
    | with_reducible refine pred_ite (P := ISound Q) (fun _ => ?_) (fun _ => ?_)
    | with_reducible refine sound_ite (fun _ => ?_) (fun _ => ?_)
    | with_reducible refine sound_foldl (fun _ _ _ => ?_) ?_
    | with_reducible refine sound_foldl_snd (fun _ _ _ => ?_) ?_
    | with_reducible refine sound_foldl_fst (fun _ _ _ => ?_) ?_
    | with_reducible refine sound_foldl_snd2 (fun _ _ _ => ?_) ?_
    | with_reducible refine sound_snd_of (by assumption) ?_
    | with_reducible refine sound_snd2_of (by assumption) ?_
    | with_reducible refine sound_fst_of (by assumption) ?_
    | simp only []
    | split

theorem State.l1FlushLine_sound (s : State) (c : Nat) (line : Nat) (hs : Sound Q s) (hw : sub 598160113143549 Q.w = true) :
    Sound Q (State.l1FlushLine s c line) := by
  unfold State.l1FlushLine
  repeat' first
    | with_reducible assumption
    | with_reducible exact sub_trans (by decide) hw
    | with_reducible apply State.modCore_sound
    | with_reducible apply State.l1WriteBack_sound
    | with_reducible refine sound_ite (fun _ => ?_) (fun _ => ?_)
    | with_reducible refine sound_foldl (fun _ _ _ => ?_) ?_
    | with_reducible refine sound_foldl_snd (fun _ _ _ => ?_) ?_
    | with_reducible refine sound_foldl_fst (fun _ _ _ => ?_) ?_
    | with_reducible refine sound_foldl_snd2 (fun _ _ _ => ?_) ?_
    | with_reducible refine sound_snd_of (by assumption) ?_
    | with_reducible refine sound_snd2_of (by assumption) ?_
    | with_reducible refine sound_fst_of (by assumption) ?_
    | simp only []
    | split

theorem State.atomicRead_sound (s : State) (c : Nat) (t : Target) (n : Nat) (hs : Sound Q s) (hw : sub 598160113143549 Q.w = true) :
    Sound Q (State.atomicRead s c t n).2.2 := by
  unfold State.atomicRead
  repeat' first
    | with_reducible assumption
    | with_reducible exact sub_trans (by decide) hw
    | with_reducible apply State.clusterLine_sound
    | with_reducible apply State.l1FlushLine_sound
    | with_reducible apply State.meet_sound
    | with_reducible refine sound_ite (fun _ => ?_) (fun _ => ?_)
    | with_reducible refine sound_foldl (fun _ _ _ => ?_) ?_
    | with_reducible refine sound_foldl_snd (fun _ _ _ => ?_) ?_
    | with_reducible refine sound_foldl_fst (fun _ _ _ => ?_) ?_
    | with_reducible refine sound_foldl_snd2 (fun _ _ _ => ?_) ?_
    | with_reducible refine sound_snd_of (by assumption) ?_
    | with_reducible refine sound_snd2_of (by assumption) ?_
    | with_reducible refine sound_fst_of (by assumption) ?_
    | simp only []
    | split

theorem State.atomicWrite_sound (s : State) (c : Nat) (t : Target) (n : Nat) (v : Nat) (hs : Sound Q s) (hw : sub 598160113143549 Q.w = true) :
    Sound Q (State.atomicWrite s c t n v) := by
  unfold State.atomicWrite
  repeat' first
    | with_reducible assumption
    | with_reducible exact sub_trans (by decide) hw
    | with_reducible apply State.writePa_sound
    | with_reducible apply State.modHome_sound
    | with_reducible apply State.dropResv_sound
    | with_reducible refine sound_ite (fun _ => ?_) (fun _ => ?_)
    | with_reducible refine sound_foldl (fun _ _ _ => ?_) ?_
    | with_reducible refine sound_foldl_snd (fun _ _ _ => ?_) ?_
    | with_reducible refine sound_foldl_fst (fun _ _ _ => ?_) ?_
    | with_reducible refine sound_foldl_snd2 (fun _ _ _ => ?_) ?_
    | with_reducible refine sound_snd_of (by assumption) ?_
    | with_reducible refine sound_snd2_of (by assumption) ?_
    | with_reducible refine sound_fst_of (by assumption) ?_
    | simp only []
    | split

theorem State.fillI_sound (s : State) (c : Nat) (line : Nat) (strm : Bool) (hs : Sound Q s) (hw : sub 598160113143549 Q.w = true) :
    Sound Q (State.fillI s c line strm) := by
  unfold State.fillI
  repeat' first
    | with_reducible assumption
    | with_reducible exact sub_trans (by decide) hw
    | with_reducible apply State.clusterLine_sound
    | with_reducible apply State.modCore_sound
    | with_reducible refine sound_ite (fun _ => ?_) (fun _ => ?_)
    | with_reducible refine sound_foldl (fun _ _ _ => ?_) ?_
    | with_reducible refine sound_foldl_snd (fun _ _ _ => ?_) ?_
    | with_reducible refine sound_foldl_fst (fun _ _ _ => ?_) ?_
    | with_reducible refine sound_foldl_snd2 (fun _ _ _ => ?_) ?_
    | with_reducible refine sound_snd_of (by assumption) ?_
    | with_reducible refine sound_snd2_of (by assumption) ?_
    | with_reducible refine sound_fst_of (by assumption) ?_
    | simp only [sound_set_free (sub_trans (by decide) hw)]
    | split

theorem State.fetchHalf_sound (s : State) (c : Nat) (va : Nat) (hs : Sound Q s) (hw : sub 598160113274621 Q.w = true) :
    HSound Q (State.fetchHalf s c va) := by
  unfold State.fetchHalf
  repeat' first
    | with_reducible assumption
    | with_reducible exact sub_trans (by decide) hw
    | with_reducible apply HSound.half
    | with_reducible apply HSound.trap
    | with_reducible apply HSound.wait
    | with_reducible apply State.poisonRead_sound
    | with_reducible apply State.coreXlate_sound
    | with_reducible apply State.meet_sound
    | with_reducible apply State.fillI_sound
    | with_reducible refine pred_ite (P := HSound Q) (fun _ => ?_) (fun _ => ?_)
    | with_reducible refine sound_ite (fun _ => ?_) (fun _ => ?_)
    | with_reducible refine sound_foldl (fun _ _ _ => ?_) ?_
    | with_reducible refine sound_foldl_snd (fun _ _ _ => ?_) ?_
    | with_reducible refine sound_foldl_fst (fun _ _ _ => ?_) ?_
    | with_reducible refine sound_foldl_snd2 (fun _ _ _ => ?_) ?_
    | with_reducible refine sound_snd_of (by assumption) ?_
    | with_reducible refine sound_snd2_of (by assumption) ?_
    | with_reducible refine sound_fst_of (by assumption) ?_
    | simp only []
    | split

theorem State.l1Op_sound (s : State) (c : Nat) (op : RangeOp) (key : Nat) (hs : Sound Q s) (hw : sub 598160113143549 Q.w = true) :
    Sound Q (State.l1Op s c op key) := by
  unfold State.l1Op
  repeat' first
    | with_reducible assumption
    | with_reducible exact sub_trans (by decide) hw
    | with_reducible apply State.modCore_sound
    | with_reducible apply State.l1WriteBack_sound
    | with_reducible refine sound_ite (fun _ => ?_) (fun _ => ?_)
    | with_reducible refine sound_foldl (fun _ _ _ => ?_) ?_
    | with_reducible refine sound_foldl_snd (fun _ _ _ => ?_) ?_
    | with_reducible refine sound_foldl_fst (fun _ _ _ => ?_) ?_
    | with_reducible refine sound_foldl_snd2 (fun _ _ _ => ?_) ?_
    | with_reducible refine sound_snd_of (by assumption) ?_
    | with_reducible refine sound_snd2_of (by assumption) ?_
    | with_reducible refine sound_fst_of (by assumption) ?_
    | simp only []
    | split

theorem State.l2Op_sound (s : State) (h : Nat) (op : RangeOp) (key : Nat) (hs : Sound Q s) (hw : sub 598160113142525 Q.w = true) :
    Sound Q (State.l2Op s h op key) := by
  unfold State.l2Op
  repeat' first
    | with_reducible assumption
    | with_reducible exact sub_trans (by decide) hw
    | with_reducible apply State.l2Drop_sound
    | with_reducible apply State.l2WriteBack_sound
    | with_reducible refine sound_ite (fun _ => ?_) (fun _ => ?_)
    | with_reducible refine sound_foldl (fun _ _ _ => ?_) ?_
    | with_reducible refine sound_foldl_snd (fun _ _ _ => ?_) ?_
    | with_reducible refine sound_foldl_fst (fun _ _ _ => ?_) ?_
    | with_reducible refine sound_foldl_snd2 (fun _ _ _ => ?_) ?_
    | with_reducible refine sound_snd_of (by assumption) ?_
    | with_reducible refine sound_snd2_of (by assumption) ?_
    | with_reducible refine sound_fst_of (by assumption) ?_
    | simp only []
    | split

theorem State.l1Range_sound (s : State) (c : Nat) (op : RangeOp) (inRange : Nat → Bool) (hs : Sound Q s) (hw : sub 598160113143549 Q.w = true) :
    Sound Q (State.l1Range s c op inRange) := by
  unfold State.l1Range
  repeat' first
    | with_reducible assumption
    | with_reducible exact sub_trans (by decide) hw
    | with_reducible apply State.l1Op_sound
    | with_reducible refine sound_ite (fun _ => ?_) (fun _ => ?_)
    | with_reducible refine sound_foldl (fun _ _ _ => ?_) ?_

theorem State.l2Known_sound (s : State) (h : Nat) (hs : Sound Q s) (hw : sub 2049 Q.w = true) :
    Sound Q (State.l2Known s h) := by
  unfold State.l2Known
  repeat' first
    | with_reducible assumption
    | with_reducible exact sub_trans (by decide) hw
    | with_reducible apply State.modHome_sound
    | with_reducible refine sound_ite (fun _ => ?_) (fun _ => ?_)
    | with_reducible refine sound_foldl (fun _ _ _ => ?_) ?_
    | with_reducible refine sound_foldl_snd (fun _ _ _ => ?_) ?_
    | with_reducible refine sound_foldl_fst (fun _ _ _ => ?_) ?_
    | with_reducible refine sound_foldl_snd2 (fun _ _ _ => ?_) ?_
    | with_reducible refine sound_snd_of (by assumption) ?_
    | with_reducible refine sound_snd2_of (by assumption) ?_
    | with_reducible refine sound_fst_of (by assumption) ?_
    | simp only [sound_set_free (sub_trans (by decide) hw)]

theorem State.l2Range_sound (s0 : State) (h : Nat) (op : RangeOp) (inRange : Nat → Bool) (hs0 : Sound Q s0) (hw : sub 598160113142525 Q.w = true) :
    Sound Q (State.l2Range s0 h op inRange) := by
  unfold State.l2Range
  repeat' first
    | with_reducible assumption
    | with_reducible exact sub_trans (by decide) hw
    | with_reducible apply State.l2Known_sound
    | with_reducible apply State.l2Op_sound
    | with_reducible refine sound_ite (fun _ => ?_) (fun _ => ?_)
    | with_reducible refine sound_foldl (fun _ _ _ => ?_) ?_

theorem cacheRange_sound (c : Nat) (op : EngOp) (o : RangeOp) (lv : RangeLevel) (rs1 : XReg) (rs2 : XReg) (s : State) (hs : Sound Q s) (hw : sub 598160113274621 Q.w = true) :
    ISound Q (cacheRange c op o lv rs1 rs2 s) := by
  unfold cacheRange
  repeat' first
    | with_reducible assumption
    | with_reducible exact sub_trans (by decide) hw
    | with_reducible apply illegal_sound
    | with_reducible apply ISound.done
    | with_reducible apply ISound.jump
    | with_reducible apply ISound.trap
    | with_reducible apply ISound.stall
    | with_reducible apply State.coreXlateAll_sound
    | with_reducible apply State.l2Range_sound
    | with_reducible apply State.l1Range_sound
    | with_reducible refine pred_ite (P := ISound Q) (fun _ => ?_) (fun _ => ?_)
    | with_reducible refine sound_ite (fun _ => ?_) (fun _ => ?_)
    | with_reducible refine sound_foldl (fun _ _ _ => ?_) ?_
    | with_reducible refine isound_trap (by assumption) ?_
    | with_reducible refine isound_stall (by assumption) ?_
    | with_reducible refine sound_foldl_snd (fun _ _ _ => ?_) ?_
    | with_reducible refine sound_foldl_fst (fun _ _ _ => ?_) ?_
    | with_reducible refine sound_foldl_snd2 (fun _ _ _ => ?_) ?_
    | with_reducible refine sound_snd_of (by assumption) ?_
    | with_reducible refine sound_snd2_of (by assumption) ?_
    | with_reducible refine sound_fst_of (by assumption) ?_
    | simp only []
    | split

theorem State.maintRun_sound (s : State) (h : Nat) (op : RangeOp) (r : Option (Nat × Nat)) (hs : Sound Q s) (hw : sub 879635089853181 Q.w = true) :
    Sound Q (State.maintRun s h op r) := by
  unfold State.maintRun
  repeat' first
    | with_reducible assumption
    | with_reducible exact sub_trans (by decide) hw
    | with_reducible apply State.modHome_sound
    | with_reducible apply State.l2Range_sound
    | with_reducible refine sound_ite (fun _ => ?_) (fun _ => ?_)
    | with_reducible refine sound_foldl (fun _ _ _ => ?_) ?_
    | with_reducible refine sound_foldl_snd (fun _ _ _ => ?_) ?_
    | with_reducible refine sound_foldl_fst (fun _ _ _ => ?_) ?_
    | with_reducible refine sound_foldl_snd2 (fun _ _ _ => ?_) ?_
    | with_reducible refine sound_snd_of (by assumption) ?_
    | with_reducible refine sound_snd2_of (by assumption) ?_
    | with_reducible refine sound_fst_of (by assumption) ?_
    | simp only [sound_set_chanWait (sub_trans (by decide) hw)]

theorem maintRange_sound (s : State) (h : Nat) (op : RangeOp) (hs : Sound Q s) (hw : sub 879635089853181 Q.w = true) :
    Sound Q (maintRange s h op) := by
  unfold maintRange
  repeat' first
    | with_reducible assumption
    | with_reducible exact sub_trans (by decide) hw
    | with_reducible apply State.maintRun_sound
    | with_reducible apply State.refuse_sound
    | with_reducible refine sound_ite (fun _ => ?_) (fun _ => ?_)
    | with_reducible refine sound_foldl (fun _ _ _ => ?_) ?_
    | with_reducible refine sound_foldl_snd (fun _ _ _ => ?_) ?_
    | with_reducible refine sound_foldl_fst (fun _ _ _ => ?_) ?_
    | with_reducible refine sound_foldl_snd2 (fun _ _ _ => ?_) ?_
    | with_reducible refine sound_snd_of (by assumption) ?_
    | with_reducible refine sound_snd2_of (by assumption) ?_
    | with_reducible refine sound_fst_of (by assumption) ?_
    | simp only []
    | split

theorem maintAll_sound (s : State) (h : Nat) (op : RangeOp) (hs : Sound Q s) (hw : sub 879635089853181 Q.w = true) :
    Sound Q (maintAll s h op) := by
  unfold maintAll
  repeat' first
    | with_reducible assumption
    | with_reducible exact sub_trans (by decide) hw
    | with_reducible apply State.maintRun_sound
    | with_reducible apply State.modHome_sound
    | with_reducible apply State.refuse_sound
    | with_reducible refine sound_ite (fun _ => ?_) (fun _ => ?_)

theorem State.setEn_sound (s : State) (pg : Nat) (on : Bool) (hs : Sound Q s) (hw : sub 4 Q.w = true) :
    Sound Q (State.setEn s pg on) := by
  unfold State.setEn
  repeat' first
    | with_reducible assumption
    | with_reducible exact sub_trans (by decide) hw
    | with_reducible apply State.setReg_sound
    | with_reducible apply State.setRfld_sound

theorem State.carveNow_sound (s : State) (h : Nat) (w : Nat) (hs : Sound Q s) (hw : sub 598160113142525 Q.w = true) :
    Sound Q (State.carveNow s h w) := by
  unfold State.carveNow
  repeat' first
    | with_reducible assumption
    | with_reducible exact sub_trans (by decide) hw
    | with_reducible apply State.l2Drop_sound
    | with_reducible apply State.modHome_sound
    | with_reducible apply State.l2WriteBack_sound
    | with_reducible apply State.makeJunk_sound
    | with_reducible refine sound_ite (fun _ => ?_) (fun _ => ?_)
    | with_reducible refine sound_foldl (fun _ _ _ => ?_) ?_
    | with_reducible refine sound_foldl_snd (fun _ _ _ => ?_) ?_
    | with_reducible refine sound_foldl_fst (fun _ _ _ => ?_) ?_
    | with_reducible refine sound_foldl_snd2 (fun _ _ _ => ?_) ?_
    | with_reducible refine sound_snd_of (by assumption) ?_
    | with_reducible refine sound_snd2_of (by assumption) ?_
    | with_reducible refine sound_fst_of (by assumption) ?_
    | simp only [sound_set_poison (sub_trans (by decide) hw)]

theorem l2Enable_sound (s : State) (h : Nat) (hs : Sound Q s) (hw : sub 598160113142525 Q.w = true) :
    Sound Q (l2Enable s h) := by
  unfold l2Enable
  repeat' first
    | with_reducible assumption
    | with_reducible exact sub_trans (by decide) hw
    | with_reducible apply State.carveNow_sound
    | with_reducible apply State.l2Known_sound
    | with_reducible apply State.refuse_sound
    | with_reducible apply State.setEn_sound
    | with_reducible refine sound_ite (fun _ => ?_) (fun _ => ?_)

theorem l2Disable_sound (s : State) (h : Nat) (hs : Sound Q s) (hw : sub 879635089853181 Q.w = true) :
    Sound Q (l2Disable s h) := by
  unfold l2Disable
  repeat' first
    | with_reducible assumption
    | with_reducible exact sub_trans (by decide) hw
    | with_reducible apply State.modHome_sound
    | with_reducible apply State.setEn_sound
    | with_reducible apply State.makeJunk_sound
    | with_reducible apply State.l2Range_sound
    | with_reducible refine sound_ite (fun _ => ?_) (fun _ => ?_)
    | with_reducible refine sound_foldl (fun _ _ _ => ?_) ?_
    | with_reducible refine sound_foldl_snd (fun _ _ _ => ?_) ?_
    | with_reducible refine sound_foldl_fst (fun _ _ _ => ?_) ?_
    | with_reducible refine sound_foldl_snd2 (fun _ _ _ => ?_) ?_
    | with_reducible refine sound_snd_of (by assumption) ?_
    | with_reducible refine sound_snd2_of (by assumption) ?_
    | with_reducible refine sound_fst_of (by assumption) ?_
    | simp only [sound_set_chanWait (sub_trans (by decide) hw)]

theorem State.clearWay_sound (s : State) (h : Nat) (slice : Nat) (way : Nat) (hs : Sound Q s) (hw : sub 598160113142525 Q.w = true) :
    Sound Q (State.clearWay s h slice way) := by
  unfold State.clearWay
  repeat' first
    | with_reducible assumption
    | with_reducible exact sub_trans (by decide) hw
    | with_reducible apply State.l2Drop_sound
    | with_reducible apply State.l2WriteBack_sound
    | with_reducible refine sound_ite (fun _ => ?_) (fun _ => ?_)
    | with_reducible refine sound_foldl (fun _ _ _ => ?_) ?_

theorem wayDisable_sound (s : State) (h : Nat) (slice : Nat) (way : Nat) (hs : Sound Q s) (hw : sub 598160113142525 Q.w = true) :
    Sound Q (wayDisable s h slice way) := by
  unfold wayDisable
  repeat' first
    | with_reducible assumption
    | with_reducible exact sub_trans (by decide) hw
    | with_reducible apply State.setReg_sound
    | with_reducible apply State.modHome_sound
    | with_reducible apply State.lightEvent_sound
    | with_reducible apply State.takeDur_sound
    | with_reducible apply State.clearWay_sound
    | with_reducible refine sound_ite (fun _ => ?_) (fun _ => ?_)
    | with_reducible refine sound_foldl (fun _ _ _ => ?_) ?_
    | with_reducible refine sound_foldl_snd (fun _ _ _ => ?_) ?_
    | with_reducible refine sound_foldl_fst (fun _ _ _ => ?_) ?_
    | with_reducible refine sound_foldl_snd2 (fun _ _ _ => ?_) ?_
    | with_reducible refine sound_snd_of (by assumption) ?_
    | with_reducible refine sound_snd2_of (by assumption) ?_
    | with_reducible refine sound_fst_of (by assumption) ?_
    | simp only [sound_set_poison (sub_trans (by decide) hw)]
    | split

end Sys2Proof.Machine
end

