-- ==== Sys2Proof/Laws/SoundRoute.lean ====
section
/-! SUPPORT. Laws/SoundRoute.lean: the operations of Machine/Route.lean keep the waiting commands and the canonical form of both
memories. -/

namespace Sys2Proof.Machine

open Sys2Proof

variable {Q : Frame}

theorem State.noRoute_sound (s : State) (hs : Sound Q s) (hw : sub 562949971247868 Q.w = true) :
    Sound Q (State.noRoute s) := by
  unfold State.noRoute
  repeat' first
    | with_reducible assumption
    | with_reducible exact sub_trans (by decide) hw
    | with_reducible apply State.fatal_sound

theorem State.detourTaken_sound (s : State) (d : Nat) (hs : Sound Q s) (hw : sub 615726529380604 Q.w = true) :
    Sound Q (State.detourTaken s d) := by
  unfold State.detourTaken
  repeat' first
    | with_reducible assumption
    | with_reducible exact sub_trans (by decide) hw
    | with_reducible apply State.lightEvent_sound
    | with_reducible apply State.linkEvent_sound
    | with_reducible refine sound_ite (fun _ => ?_) (fun _ => ?_)
    | with_reducible refine sound_foldl (fun _ _ _ => ?_) ?_
    | with_reducible refine sound_foldl_snd (fun _ _ _ => ?_) ?_
    | with_reducible refine sound_foldl_fst (fun _ _ _ => ?_) ?_
    | with_reducible refine sound_foldl_snd2 (fun _ _ _ => ?_) ?_
    | with_reducible refine sound_snd_of (by assumption) ?_
    | with_reducible refine sound_snd2_of (by assumption) ?_
    | with_reducible refine sound_fst_of (by assumption) ?_
    | simp only [sound_set_top (sub_trans (by decide) hw)]

theorem State.hop_sound (s : State) (p : Packet) (arr : Option (Nat × Nat)) (pin : Option Nat) (hs : Sound Q s) (hw : sub 615726531478268 Q.w = true) :
    Sound Q (State.hop s p arr pin).1 := by
  unfold State.hop
  repeat' first
    | with_reducible assumption
    | with_reducible exact sub_trans (by decide) hw
    | with_reducible apply State.fatal_sound
    | with_reducible apply State.noRoute_sound
    | with_reducible apply State.detourTaken_sound
    | with_reducible apply State.sendOn_sound
    | with_reducible apply State.count32_sound
    | with_reducible refine sound_ite (fun _ => ?_) (fun _ => ?_)
    | with_reducible refine sound_foldl (fun _ _ _ => ?_) ?_
    | with_reducible refine sound_foldl_snd (fun _ _ _ => ?_) ?_
    | with_reducible refine sound_foldl_fst (fun _ _ _ => ?_) ?_
    | with_reducible refine sound_foldl_snd2 (fun _ _ _ => ?_) ?_
    | with_reducible refine sound_snd_of (by assumption) ?_
    | with_reducible refine sound_snd2_of (by assumption) ?_
    | with_reducible refine sound_fst_of (by assumption) ?_
    | simp only []
    | split

theorem State.setFlowTx_sound (s : State) (f : FlowTx) (hs : Sound Q s) (hw : sub 274877906944 Q.w = true) :
    Sound Q (State.setFlowTx s f) := by
  unfold State.setFlowTx
  repeat' first
    | with_reducible assumption
    | with_reducible exact sub_trans (by decide) hw
    | with_reducible refine sound_ite (fun _ => ?_) (fun _ => ?_)
    | with_reducible refine sound_foldl (fun _ _ _ => ?_) ?_
    | with_reducible refine sound_foldl_snd (fun _ _ _ => ?_) ?_
    | with_reducible refine sound_foldl_fst (fun _ _ _ => ?_) ?_
    | with_reducible refine sound_foldl_snd2 (fun _ _ _ => ?_) ?_
    | with_reducible refine sound_snd_of (by assumption) ?_
    | with_reducible refine sound_snd2_of (by assumption) ?_
    | with_reducible refine sound_fst_of (by assumption) ?_
    | simp only [sound_set_flowTx (sub_trans (by decide) hw)]

theorem State.flowPut_sound (s : State) (k : FlowKey) (p : Packet) (hs : Sound Q s) (hw : sub 616001409385212 Q.w = true) :
    Sound Q (State.flowPut s k p) := by
  unfold State.flowPut
  repeat' first
    | with_reducible assumption
    | with_reducible exact sub_trans (by decide) hw
    | with_reducible apply State.hop_sound
    | with_reducible apply State.setFlowTx_sound

theorem State.flowDrain_sound (s : State) (hs : Sound Q s) (hw : sub 616551165199100 Q.w = true) :
    Sound Q (State.flowDrain s) := by
  unfold State.flowDrain
  repeat' first
    | with_reducible assumption
    | with_reducible exact sub_trans (by decide) hw
    | with_reducible apply State.flowPut_sound
    | with_reducible refine sound_ite (fun _ => ?_) (fun _ => ?_)
    | with_reducible refine sound_foldl (fun _ _ _ => ?_) ?_
    | with_reducible refine sound_foldl_snd (fun _ _ _ => ?_) ?_
    | with_reducible refine sound_foldl_fst (fun _ _ _ => ?_) ?_
    | with_reducible refine sound_foldl_snd2 (fun _ _ _ => ?_) ?_
    | with_reducible refine sound_snd_of (by assumption) ?_
    | with_reducible refine sound_snd2_of (by assumption) ?_
    | with_reducible refine sound_fst_of (by assumption) ?_
    | simp only [sound_set_flowWait (sub_trans (by decide) hw)]
    | split

theorem State.flowSend_sound (s : State) (dst : Nat) (cls : Nat) (flow : Nat) (kind : Nat) (epoch : Nat) (extra : Nat) (payload : List Byte) (slow : optParam Bool false) (hs : Sound Q s) (hw : sub 616551165199100 Q.w = true) :
    Sound Q (State.flowSend s dst cls flow kind epoch extra payload slow) := by
  unfold State.flowSend
  repeat' first
    | with_reducible assumption
    | with_reducible exact sub_trans (by decide) hw
    | with_reducible apply State.flowDrain_sound
    | with_reducible apply State.setFlowTx_sound
    | with_reducible refine sound_ite (fun _ => ?_) (fun _ => ?_)
    | with_reducible refine sound_foldl (fun _ _ _ => ?_) ?_
    | with_reducible refine sound_foldl_snd (fun _ _ _ => ?_) ?_
    | with_reducible refine sound_foldl_fst (fun _ _ _ => ?_) ?_
    | with_reducible refine sound_foldl_snd2 (fun _ _ _ => ?_) ?_
    | with_reducible refine sound_snd_of (by assumption) ?_
    | with_reducible refine sound_snd2_of (by assumption) ?_
    | with_reducible refine sound_fst_of (by assumption) ?_
    | simp only [sound_set_flowWait (sub_trans (by decide) hw)]
    | split

theorem State.flowSendAll_sound (s : State) (dst : Nat) (cls : Nat) (flow : Nat) (kind : Nat) (epoch : Nat) (ex : Nat → Bool → Nat) (data : List Byte) (hs : Sound Q s) (hw : sub 616551165199100 Q.w = true) :
    Sound Q (State.flowSendAll s dst cls flow kind epoch ex data) := by
  unfold State.flowSendAll
  repeat' first
    | with_reducible assumption
    | with_reducible exact sub_trans (by decide) hw
    | with_reducible apply State.flowSend_sound
    | with_reducible refine sound_ite (fun _ => ?_) (fun _ => ?_)
    | with_reducible refine sound_foldl (fun _ _ _ => ?_) ?_

theorem State.moveFlow_sound (s : State) (k : FlowKey) (hs : Sound Q s) (hw : sub 616001409385212 Q.w = true) :
    Sound Q (State.moveFlow s k) := by
  unfold State.moveFlow
  repeat' first
    | with_reducible assumption
    | with_reducible exact sub_trans (by decide) hw
    | with_reducible apply State.noRoute_sound
    | with_reducible apply State.hop_sound
    | with_reducible apply State.setFlowTx_sound
    | with_reducible refine sound_ite (fun _ => ?_) (fun _ => ?_)
    | with_reducible refine sound_foldl (fun _ _ _ => ?_) ?_
    | with_reducible refine sound_foldl_snd (fun _ _ _ => ?_) ?_
    | with_reducible refine sound_foldl_fst (fun _ _ _ => ?_) ?_
    | with_reducible refine sound_foldl_snd2 (fun _ _ _ => ?_) ?_
    | with_reducible refine sound_snd_of (by assumption) ?_
    | with_reducible refine sound_snd2_of (by assumption) ?_
    | with_reducible refine sound_fst_of (by assumption) ?_
    | simp only []
    | split

theorem State.recovDone_sound (s : State) (hs : Sound Q s) (hw : sub 598134343336188 Q.w = true) :
    Sound Q (State.recovDone s) := by
  unfold State.recovDone
  repeat' first
    | with_reducible assumption
    | with_reducible exact sub_trans (by decide) hw
    | with_reducible apply State.lightEvent_sound
    | with_reducible refine sound_ite (fun _ => ?_) (fun _ => ?_)
    | with_reducible refine sound_foldl (fun _ _ _ => ?_) ?_
    | with_reducible refine sound_foldl_snd (fun _ _ _ => ?_) ?_
    | with_reducible refine sound_foldl_fst (fun _ _ _ => ?_) ?_
    | with_reducible refine sound_foldl_snd2 (fun _ _ _ => ?_) ?_
    | with_reducible refine sound_snd_of (by assumption) ?_
    | with_reducible refine sound_snd2_of (by assumption) ?_
    | with_reducible refine sound_fst_of (by assumption) ?_
    | simp only [sound_set_ras (sub_trans (by decide) hw)]

theorem State.flowAcked_sound (s : State) (k : FlowKey) (h : Nat) (hs : Sound Q s) (hw : sub 616551165199100 Q.w = true) :
    Sound Q (State.flowAcked s k h) := by
  unfold State.flowAcked
  repeat' first
    | with_reducible assumption
    | with_reducible exact sub_trans (by decide) hw
    | with_reducible apply State.moveFlow_sound
    | with_reducible apply State.flowDrain_sound
    | with_reducible apply State.recovDone_sound
    | with_reducible apply State.setFlowTx_sound
    | with_reducible refine sound_ite (fun _ => ?_) (fun _ => ?_)
    | with_reducible refine sound_foldl (fun _ _ _ => ?_) ?_

theorem State.setFlowRx_sound (s : State) (f : FlowRx) (hs : Sound Q s) (hw : sub 1099511627776 Q.w = true) :
    Sound Q (State.setFlowRx s f) := by
  unfold State.setFlowRx
  repeat' first
    | with_reducible assumption
    | with_reducible exact sub_trans (by decide) hw
    | with_reducible refine sound_ite (fun _ => ?_) (fun _ => ?_)
    | with_reducible refine sound_foldl (fun _ _ _ => ?_) ?_
    | with_reducible refine sound_foldl_snd (fun _ _ _ => ?_) ?_
    | with_reducible refine sound_foldl_fst (fun _ _ _ => ?_) ?_
    | with_reducible refine sound_foldl_snd2 (fun _ _ _ => ?_) ?_
    | with_reducible refine sound_snd_of (by assumption) ?_
    | with_reducible refine sound_snd2_of (by assumption) ?_
    | with_reducible refine sound_fst_of (by assumption) ?_
    | simp only [sound_set_flowRx (sub_trans (by decide) hw)]

theorem State.sendAck_sound (s : State) (k : FlowKey) (hs : Sound Q s) (hw : sub 621224089617148 Q.w = true) :
    Sound Q (State.sendAck s k) := by
  unfold State.sendAck
  repeat' first
    | with_reducible assumption
    | with_reducible exact sub_trans (by decide) hw
    | with_reducible apply State.hop_sound
    | with_reducible apply State.setFlowRx_sound
    | with_reducible refine sound_ite (fun _ => ?_) (fun _ => ?_)
    | with_reducible refine sound_foldl (fun _ _ _ => ?_) ?_
    | with_reducible refine sound_foldl_snd (fun _ _ _ => ?_) ?_
    | with_reducible refine sound_foldl_fst (fun _ _ _ => ?_) ?_
    | with_reducible refine sound_foldl_snd2 (fun _ _ _ => ?_) ?_
    | with_reducible refine sound_snd_of (by assumption) ?_
    | with_reducible refine sound_snd2_of (by assumption) ?_
    | with_reducible refine sound_fst_of (by assumption) ?_
    | simp only [sound_set_upFails (sub_trans (by decide) hw)]
    | split

theorem State.flowArrive_sound (s : State) (p : Packet) (die : Nat) (hs : Sound Q s) (hw : sub 621224089617148 Q.w = true) :
    Sound Q (State.flowArrive s p die).2 := by
  unfold State.flowArrive
  extract_lets k f d
  clear_value f d
  have h1 : ∀ g, Sound Q (s.setFlowRx g) := fun g => State.setFlowRx_sound s g hs (sub_trans (by decide) hw)
  split
  · exact State.sendAck_sound _ _ (State.count32_sound _ _ _ (h1 _) (sub_trans (by decide) hw)) (sub_trans (by decide) hw)
  · split
    · split
      extract_lets all s1
      split
      · exact State.sendAck_sound _ _ (h1 _) (sub_trans (by decide) hw)
      · exact h1 _
    · split
      · split <;> exact h1 _
      · exact State.fatal_sound _ _ _ _ _ _ (h1 _) (sub_trans (by decide) hw)

theorem detLoad_sound (s : State) (hs : Sound Q s) (hw : sub 897227275897597 Q.w = true) : Sound Q (detLoad s) := by
  unfold detLoad
  repeat' first
    | with_reducible assumption
    | with_reducible exact sub_trans (by decide) hw
    | with_reducible apply State.refuse_sound
    | with_reducible apply State.poisonRead_sound
    | with_reducible apply State.meet_sound
    | with_reducible refine sound_ite (fun _ => ?_) (fun _ => ?_)
    | with_reducible refine sound_foldl (fun _ _ _ => ?_) ?_
    | with_reducible refine sound_foldl_snd (fun _ _ _ => ?_) ?_
    | with_reducible refine sound_foldl_fst (fun _ _ _ => ?_) ?_
    | with_reducible refine sound_foldl_snd2 (fun _ _ _ => ?_) ?_
    | with_reducible refine sound_snd_of (by assumption) ?_
    | with_reducible refine sound_snd2_of (by assumption) ?_
    | with_reducible refine sound_fst_of (by assumption) ?_
    | simp only [sound_set_chanWait (sub_trans (by decide) hw), sound_set_top (sub_trans (by decide) hw)]
    | split

theorem execDetload_sound (s : State) (hs : Sound Q s) (hw : sub 897227275897597 Q.w = true) :
    OutSound Q (execDetload s) := by
  unfold execDetload
  repeat' first
    | with_reducible assumption
    | with_reducible exact sub_trans (by decide) hw
    | with_reducible apply OutSound.next
    | with_reducible apply OutSound.fault
    | with_reducible apply OutSound.refused
    | with_reducible apply detLoad_sound
    | with_reducible refine pred_ite (P := OutSound Q) (fun _ => ?_) (fun _ => ?_)
    | with_reducible refine sound_ite (fun _ => ?_) (fun _ => ?_)

end Sys2Proof.Machine
end

