-- ==== Sys2Proof/Laws/SoundHostBase.lean ====
section
/-! SUPPORT. Laws/SoundHostBase.lean: the operations of Machine/HostBase.lean keep the waiting commands and the canonical form of both
memories. -/

namespace Sys2Proof.Machine

open Sys2Proof

variable {Q : Frame}

theorem State.modHostQ_sound (s : State) (q : Nat) (f : HostQ → HostQ) (hs : Sound Q s) (hw : sub 262144 Q.w = true) :
    Sound Q (State.modHostQ s q f) := by
  unfold State.modHostQ
  repeat' first
    | with_reducible assumption
    | with_reducible exact sub_trans (by decide) hw
    | with_reducible apply State.setHostQ_sound

theorem State.hostStart_sound (s : State) (q : Nat) (cid : Nat) (hs : Sound Q s) (hw : sub 262144 Q.w = true) :
    Sound Q (State.hostStart s q cid) := by
  unfold State.hostStart
  repeat' first
    | with_reducible assumption
    | with_reducible exact sub_trans (by decide) hw
    | with_reducible apply State.modHostQ_sound

theorem State.hostEnd_sound (s : State) (q : Nat) (cid : Nat) (status : Nat) (reason : Nat) (result : Nat) (hs : Sound Q s) (hw : sub 262148 Q.w = true) :
    Sound Q (State.hostEnd s q cid status reason result) := by
  unfold State.hostEnd
  repeat' first
    | with_reducible assumption
    | with_reducible exact sub_trans (by decide) hw
    | with_reducible apply State.modHostQ_sound
    | with_reducible apply State.count32_sound
    | with_reducible refine sound_ite (fun _ => ?_) (fun _ => ?_)

theorem State.hostRefuse_sound (s : State) (q : Nat) (cid : Nat) (reason : Nat) (hs : Sound Q s) (hw : sub 262148 Q.w = true) :
    Sound Q (State.hostRefuse s q cid reason) := by
  unfold State.hostRefuse
  repeat' first
    | with_reducible assumption
    | with_reducible exact sub_trans (by decide) hw
    | with_reducible apply State.hostEnd_sound

theorem State.hostRun_sound (s : State) (q : Nat) (op : Nat) (f : HCmd → State → State) (hs : Sound Q s) (hf : ∀ x s, Sound Q s → Sound Q (f x s)) :
    Sound Q (State.hostRun s q op f) := by
  unfold State.hostRun
  repeat' first
    | with_reducible assumption
    | with_reducible apply hf
    | with_reducible refine sound_ite (fun _ => ?_) (fun _ => ?_)
    | with_reducible refine sound_foldl (fun _ _ _ => ?_) ?_
    | with_reducible refine sound_foldl_snd (fun _ _ _ => ?_) ?_
    | with_reducible refine sound_foldl_fst (fun _ _ _ => ?_) ?_
    | with_reducible refine sound_foldl_snd2 (fun _ _ _ => ?_) ?_
    | with_reducible refine sound_snd_of (by assumption) ?_
    | with_reducible refine sound_snd2_of (by assumption) ?_
    | with_reducible refine sound_fst_of (by assumption) ?_
    | simp only []
    | split

end Sys2Proof.Machine
end

