-- ==== Sys2Proof/Laws/SoundFlags.lean ====
section
/-! SUPPORT. Laws/SoundFlags.lean: the operations of Machine/Flags.lean keep the waiting commands and the canonical form of both
memories. -/

namespace Sys2Proof.Machine

open Sys2Proof

variable {Q : Frame}

theorem State.addSp_sound (s : State) (c : Nat) (f : Nat) (hs : Sound Q s) (hw : sub 4 Q.w = true) :
    Sound Q (State.addSp s c f) := by
  unfold State.addSp
  repeat' first
    | with_reducible assumption
    | with_reducible exact sub_trans (by decide) hw
    | with_reducible apply State.setReg_sound

end Sys2Proof.Machine
end

