-- ==== Sys2Proof/Laws/SoundMatrix.lean ====
section
/-! SUPPORT. Laws/SoundMatrix.lean: the operations of Machine/Matrix.lean keep the waiting commands and the canonical form of both
memories. -/

namespace Sys2Proof.Machine

open Sys2Proof

variable {Q : Frame}

theorem State.mmaDone_sound (s : State) (c : Nat) (op : MmaOp) (hs : Sound Q s) (hw : sub 1028 Q.w = true) :
    Sound Q (State.mmaDone s c op) := by
  unfold State.mmaDone
  repeat' first
    | with_reducible assumption
    | with_reducible exact sub_trans (by decide) hw
    | with_reducible apply State.markPoison_sound
    | with_reducible apply State.setCore_sound
    | with_reducible apply State.addSp_sound
    | with_reducible apply State.count64_sound
    | with_reducible refine sound_ite (fun _ => ?_) (fun _ => ?_)

theorem State.mmaPop_sound (s : State) (c : Nat) (hs : Sound Q s) (hw : sub 1028 Q.w = true) :
    Sound Q (State.mmaPop s c) := by
  unfold State.mmaPop
  repeat' first
    | with_reducible assumption
    | with_reducible exact sub_trans (by decide) hw
    | with_reducible apply State.modCore_sound
    | with_reducible apply State.mmaDone_sound
    | with_reducible refine sound_ite (fun _ => ?_) (fun _ => ?_)
    | with_reducible refine sound_foldl (fun _ _ _ => ?_) ?_
    | with_reducible refine sound_foldl_snd (fun _ _ _ => ?_) ?_
    | with_reducible refine sound_foldl_fst (fun _ _ _ => ?_) ?_
    | with_reducible refine sound_foldl_snd2 (fun _ _ _ => ?_) ?_
    | with_reducible refine sound_snd_of (by assumption) ?_
    | with_reducible refine sound_snd2_of (by assumption) ?_
    | with_reducible refine sound_fst_of (by assumption) ?_
    | simp only []
    | split

theorem State.drainN_sound (s : State) (c : Nat) (a2 : Nat) (hs : Sound Q s) (hw : sub 1028 Q.w = true) :
    Sound Q (State.drainN s c a2) := by
  fun_induction State.drainN s c a2
  all_goals
    repeat' first
      | with_reducible assumption
      | with_reducible exact sub_trans (by decide) hw
      | with_reducible apply State.mmaPop_sound
      | with_reducible refine sound_ite (fun _ => ?_) (fun _ => ?_)
      | with_reducible refine sound_foldl (fun _ _ _ => ?_) ?_
      | with_reducible refine sound_foldl_snd (fun _ _ _ => ?_) ?_
      | with_reducible refine sound_foldl_fst (fun _ _ _ => ?_) ?_
      | with_reducible refine sound_foldl_snd2 (fun _ _ _ => ?_) ?_
      | with_reducible refine sound_snd_of (by assumption) ?_
      | with_reducible refine sound_snd2_of (by assumption) ?_
      | with_reducible refine sound_fst_of (by assumption) ?_
      | simp only []
      | split
      | intro _
      | with_reducible apply_assumption

theorem State.drain_sound (s : State) (c : Nat) (hs : Sound Q s) (hw : sub 1028 Q.w = true) : Sound Q (State.drain s c) := by
  unfold State.drain
  repeat' first
    | with_reducible assumption
    | with_reducible exact sub_trans (by decide) hw
    | with_reducible apply State.drainN_sound

theorem mmaIssue_sound (c : Nat) (op : EngOp) (m : MmaOp) (s : State) (hs : Sound Q s) (hw : sub 1028 Q.w = true) :
    ISound Q (mmaIssue c op m s) := by
  unfold mmaIssue
  repeat' first
    | with_reducible assumption
    | with_reducible exact sub_trans (by decide) hw
    | with_reducible apply partTrap_sound
    | with_reducible apply illegal_sound
    | with_reducible apply ISound.done
    | with_reducible apply ISound.jump
    | with_reducible apply ISound.trap
    | with_reducible apply ISound.stall
    | with_reducible apply State.setCore_sound
    | with_reducible refine pred_ite (P := ISound Q) (fun _ => ?_) (fun _ => ?_)

theorem withMem_sound (s : State) (c : Nat) (write : Bool) (ps : List (Nat × Nat)) (f : List (Target × Nat) → State → IRes) (hs : Sound Q s) (hf : ∀ x s, Sound Q s → ISound Q (f x s)) (hw : sub 598160113273597 Q.w = true) :
    ISound Q (withMem s c write ps f) := by
  unfold withMem
  repeat' first
    | with_reducible assumption
    | with_reducible exact sub_trans (by decide) hw
    | with_reducible apply State.memCheck_sound
    | with_reducible apply ISound.done
    | with_reducible apply ISound.jump
    | with_reducible apply ISound.trap
    | with_reducible apply ISound.stall
    | with_reducible refine pred_ite (P := ISound Q) (fun _ => ?_) (fun _ => ?_)
    | with_reducible apply hf
    | with_reducible refine sound_ite (fun _ => ?_) (fun _ => ?_)
    | with_reducible refine sound_foldl (fun _ _ _ => ?_) ?_
    | with_reducible refine isound_trap (by assumption) ?_
    | with_reducible refine isound_stall (by assumption) ?_
    | with_reducible refine msound_ok (by assumption) ?_
    | with_reducible refine msound_bad (by assumption) ?_
    | with_reducible refine sound_foldl_snd (fun _ _ _ => ?_) ?_
    | with_reducible refine sound_foldl_fst (fun _ _ _ => ?_) ?_
    | with_reducible refine sound_foldl_snd2 (fun _ _ _ => ?_) ?_
    | with_reducible refine sound_snd_of (by assumption) ?_
    | with_reducible refine sound_snd2_of (by assumption) ?_
    | with_reducible refine sound_fst_of (by assumption) ?_
    | simp only []
    | split

theorem mldInstr_sound (c : Nat) (op : EngOp) (rs1 : XReg) (rs2 : XReg) (t : Nat) (tr : Bool) (sc : Bool) (fsel : Bool) (s0 : State) (hs0 : Sound Q s0) (hw : sub 598160113274621 Q.w = true) :
    ISound Q (mldInstr c op rs1 rs2 t tr sc fsel s0) := by
  unfold mldInstr
  repeat' first
    | with_reducible assumption
    | with_reducible exact sub_trans (by decide) hw
    | with_reducible apply partTrap_sound
    | with_reducible apply illegal_sound
    | with_reducible apply withMem_sound
    | with_reducible apply ISound.done
    | with_reducible apply ISound.jump
    | with_reducible apply ISound.trap
    | with_reducible apply ISound.stall
    | with_reducible apply State.markPoison_sound
    | with_reducible apply State.modCore_sound
    | with_reducible apply State.coreReadAll_sound
    | with_reducible apply State.drain_sound
    | with_reducible refine pred_ite (P := ISound Q) (fun _ => ?_) (fun _ => ?_)
    | with_reducible refine sound_ite (fun _ => ?_) (fun _ => ?_)
    | with_reducible refine sound_foldl (fun _ _ _ => ?_) ?_
    | with_reducible refine isound_trap (by assumption) ?_
    | with_reducible refine isound_stall (by assumption) ?_
    | with_reducible refine sound_foldl_snd (fun _ _ _ => ?_) ?_
    | with_reducible refine sound_foldl_fst (fun _ _ _ => ?_) ?_
    | with_reducible refine sound_foldl_snd2 (fun _ _ _ => ?_) ?_
    | with_reducible refine sound_snd_of (by assumption) ?_
    | with_reducible refine sound_snd2_of (by assumption) ?_
    | with_reducible refine sound_fst_of (by assumption) ?_
    | simp only []
    | split
    | intro _

theorem writeOut_sound (s : State) (c : Nat) (acc : Nat) (ofmt : Nat) (sr : Bool) (tr : Bool) (hs : Sound Q s) (hw : sub 1028 Q.w = true) :
    Sound Q (writeOut s c acc ofmt sr tr).2 := by
  unfold writeOut
  repeat' first
    | with_reducible assumption
    | with_reducible exact sub_trans (by decide) hw
    | with_reducible apply State.setReg_sound
    | with_reducible apply State.modCore_sound
    | with_reducible refine sound_ite (fun _ => ?_) (fun _ => ?_)

theorem mstInstr_sound (c : Nat) (op : EngOp) (rs1 : XReg) (rs2 : XReg) (acc : Nat) (ofmt : Nat) (sr : Bool) (tr : Bool) (s0 : State) (hs0 : Sound Q s0) (hw : sub 598160113274621 Q.w = true) :
    ISound Q (mstInstr c op rs1 rs2 acc ofmt sr tr s0) := by
  unfold mstInstr
  repeat' first
    | with_reducible assumption
    | with_reducible exact sub_trans (by decide) hw
    | with_reducible apply partTrap_sound
    | with_reducible apply illegal_sound
    | with_reducible apply withMem_sound
    | with_reducible apply ISound.done
    | with_reducible apply ISound.jump
    | with_reducible apply ISound.trap
    | with_reducible apply ISound.stall
    | with_reducible apply State.coreWriteAll_sound
    | with_reducible apply writeOut_sound
    | with_reducible apply State.drain_sound
    | with_reducible refine pred_ite (P := ISound Q) (fun _ => ?_) (fun _ => ?_)
    | with_reducible refine sound_ite (fun _ => ?_) (fun _ => ?_)
    | with_reducible refine sound_foldl (fun _ _ _ => ?_) ?_
    | with_reducible refine isound_trap (by assumption) ?_
    | with_reducible refine isound_stall (by assumption) ?_
    | with_reducible refine sound_foldl_snd (fun _ _ _ => ?_) ?_
    | with_reducible refine sound_foldl_fst (fun _ _ _ => ?_) ?_
    | with_reducible refine sound_foldl_snd2 (fun _ _ _ => ?_) ?_
    | with_reducible refine sound_snd_of (by assumption) ?_
    | with_reducible refine sound_snd2_of (by assumption) ?_
    | with_reducible refine sound_fst_of (by assumption) ?_
    | simp only []
    | split
    | intro _

theorem mldaInstr_sound (c : Nat) (op : EngOp) (rs1 : XReg) (rs2 : XReg) (acc : Nat) (s0 : State) (hs0 : Sound Q s0) (hw : sub 598160113274621 Q.w = true) :
    ISound Q (mldaInstr c op rs1 rs2 acc s0) := by
  unfold mldaInstr
  repeat' first
    | with_reducible assumption
    | with_reducible exact sub_trans (by decide) hw
    | with_reducible apply partTrap_sound
    | with_reducible apply withMem_sound
    | with_reducible apply ISound.done
    | with_reducible apply ISound.jump
    | with_reducible apply ISound.trap
    | with_reducible apply ISound.stall
    | with_reducible apply State.markPoison_sound
    | with_reducible apply State.modCore_sound
    | with_reducible apply State.coreReadAll_sound
    | with_reducible apply State.drain_sound
    | with_reducible refine pred_ite (P := ISound Q) (fun _ => ?_) (fun _ => ?_)
    | with_reducible refine sound_ite (fun _ => ?_) (fun _ => ?_)
    | with_reducible refine sound_foldl (fun _ _ _ => ?_) ?_
    | with_reducible refine isound_trap (by assumption) ?_
    | with_reducible refine isound_stall (by assumption) ?_
    | with_reducible refine sound_foldl_snd (fun _ _ _ => ?_) ?_
    | with_reducible refine sound_foldl_fst (fun _ _ _ => ?_) ?_
    | with_reducible refine sound_foldl_snd2 (fun _ _ _ => ?_) ?_
    | with_reducible refine sound_snd_of (by assumption) ?_
    | with_reducible refine sound_snd2_of (by assumption) ?_
    | with_reducible refine sound_fst_of (by assumption) ?_
    | simp only []
    | split
    | intro _

theorem mzInstr_sound (c : Nat) (op : EngOp) (mask : Half) (s : State) (hs : Sound Q s) (hw : sub 1028 Q.w = true) :
    ISound Q (mzInstr c op mask s) := by
  unfold mzInstr
  repeat' first
    | with_reducible assumption
    | with_reducible exact sub_trans (by decide) hw
    | with_reducible apply partTrap_sound
    | with_reducible apply ISound.done
    | with_reducible apply ISound.jump
    | with_reducible apply ISound.trap
    | with_reducible apply ISound.stall
    | with_reducible apply State.modCore_sound
    | with_reducible apply State.drain_sound
    | with_reducible refine pred_ite (P := ISound Q) (fun _ => ?_) (fun _ => ?_)

theorem mtvInstr_sound (c : Nat) (op : EngOp) (v : Nat) (acc : Nat) (ofmt : Nat) (sr : Bool) (s0 : State) (hs0 : Sound Q s0) (hw : sub 1028 Q.w = true) :
    ISound Q (mtvInstr c op v acc ofmt sr s0) := by
  unfold mtvInstr
  repeat' first
    | with_reducible assumption
    | with_reducible exact sub_trans (by decide) hw
    | with_reducible apply partTrap_sound
    | with_reducible apply illegal_sound
    | with_reducible apply ISound.done
    | with_reducible apply ISound.jump
    | with_reducible apply ISound.trap
    | with_reducible apply ISound.stall
    | with_reducible apply State.markPoison_sound
    | with_reducible apply State.modCore_sound
    | with_reducible apply writeOut_sound
    | with_reducible apply State.drain_sound
    | with_reducible refine pred_ite (P := ISound Q) (fun _ => ?_) (fun _ => ?_)
    | with_reducible refine sound_ite (fun _ => ?_) (fun _ => ?_)

theorem mfvInstr_sound (c : Nat) (op : EngOp) (v : Nat) (t : Nat) (s0 : State) (hs0 : Sound Q s0) (hw : sub 1028 Q.w = true) :
    ISound Q (mfvInstr c op v t s0) := by
  unfold mfvInstr
  repeat' first
    | with_reducible assumption
    | with_reducible exact sub_trans (by decide) hw
    | with_reducible apply partTrap_sound
    | with_reducible apply illegal_sound
    | with_reducible apply ISound.done
    | with_reducible apply ISound.jump
    | with_reducible apply ISound.trap
    | with_reducible apply ISound.stall
    | with_reducible apply State.markPoison_sound
    | with_reducible apply State.modCore_sound
    | with_reducible apply State.drain_sound
    | with_reducible refine pred_ite (P := ISound Q) (fun _ => ?_) (fun _ => ?_)
    | with_reducible refine sound_ite (fun _ => ?_) (fun _ => ?_)

end Sys2Proof.Machine
end

