-- ==== Sys2Proof/Laws/SoundSorus.lean ====
section
/-! SUPPORT. Laws/SoundSorus.lean: the operations of Machine/Sorus.lean keep the waiting commands and the canonical form of both
memories. -/

namespace Sys2Proof.Machine

open Sys2Proof

variable {Q : Frame}

theorem State.unitCount_sound (s : State) (u : Nat) (engOff : Nat) (rhzOff : Nat) (n : Nat) (hs : Sound Q s) (hw : sub 4 Q.w = true) :
    Sound Q (State.unitCount s u engOff rhzOff n) := by
  unfold State.unitCount
  repeat' first
    | with_reducible assumption
    | with_reducible exact sub_trans (by decide) hw
    | with_reducible apply State.count64_sound
    | with_reducible refine sound_ite (fun _ => ?_) (fun _ => ?_)

theorem State.hhRequest_sound (s : State) (u : Nat) (tid : Nat) (row : Nat) (hs : Sound Q s) (hw : sub 16777216 Q.w = true) :
    Sound Q (State.hhRequest s u tid row) := by
  unfold State.hhRequest
  repeat' first
    | with_reducible assumption
    | with_reducible exact sub_trans (by decide) hw
    | with_reducible apply State.modUnit_sound
    | with_reducible refine sound_ite (fun _ => ?_) (fun _ => ?_)

theorem State.poisonUnit_sound (s : State) (pa : Nat) (hit : Bool) (hs : Sound Q s) (hw : sub 562949971247868 Q.w = true) :
    Sound Q (State.poisonUnit s pa hit) := by
  unfold State.poisonUnit
  repeat' first
    | with_reducible assumption
    | with_reducible exact sub_trans (by decide) hw
    | with_reducible apply State.fatal_sound
    | with_reducible refine sound_ite (fun _ => ?_) (fun _ => ?_)
    | with_reducible refine sound_foldl (fun _ _ _ => ?_) ?_
    | with_reducible refine sound_foldl_snd (fun _ _ _ => ?_) ?_
    | with_reducible refine sound_foldl_fst (fun _ _ _ => ?_) ?_
    | with_reducible refine sound_foldl_snd2 (fun _ _ _ => ?_) ?_
    | with_reducible refine sound_snd_of (by assumption) ?_
    | with_reducible refine sound_snd2_of (by assumption) ?_
    | with_reducible refine sound_fst_of (by assumption) ?_
    | simp only []
    | split

theorem State.engRead_sound (s : State) (pa : Nat) (hs : Sound Q s) (hw : sub 598160113142013 Q.w = true) :
    Sound Q (State.engRead s pa).2 := by
  unfold State.engRead
  repeat' first
    | with_reducible assumption
    | with_reducible exact sub_trans (by decide) hw
    | with_reducible apply State.modUnit_sound
    | with_reducible apply State.meetSector_sound
    | with_reducible apply State.unitCount_sound
    | with_reducible refine sound_ite (fun _ => ?_) (fun _ => ?_)
    | with_reducible refine sound_foldl (fun _ _ _ => ?_) ?_
    | with_reducible refine sound_foldl_snd (fun _ _ _ => ?_) ?_
    | with_reducible refine sound_foldl_fst (fun _ _ _ => ?_) ?_
    | with_reducible refine sound_foldl_snd2 (fun _ _ _ => ?_) ?_
    | with_reducible refine sound_snd_of (by assumption) ?_
    | with_reducible refine sound_snd2_of (by assumption) ?_
    | with_reducible refine sound_fst_of (by assumption) ?_
    | simp only []
    | split

theorem State.countLoad_sound (s : State) (v : Version) (shard : Nat) (hs : Sound Q s) (hw : sub 536870912 Q.w = true) :
    Sound Q (State.countLoad s v shard) := by
  unfold State.countLoad
  repeat' first
    | with_reducible assumption
    | with_reducible exact sub_trans (by decide) hw
    | with_reducible apply State.modVersion_sound

theorem State.locate_sound (s : State) (v : Version) (row : Nat) (count : Bool) (hs : Sound Q s) (hw : sub 598160650012925 Q.w = true) :
    Sound Q (State.locate s v row count).2 := by
  unfold State.locate
  repeat' first
    | with_reducible assumption
    | with_reducible exact sub_trans (by decide) hw
    | with_reducible apply State.countLoad_sound
    | with_reducible apply State.engRead_sound
    | with_reducible refine sound_ite (fun _ => ?_) (fun _ => ?_)
    | with_reducible refine sound_foldl (fun _ _ _ => ?_) ?_
    | with_reducible refine sound_foldl_snd (fun _ _ _ => ?_) ?_
    | with_reducible refine sound_foldl_fst (fun _ _ _ => ?_) ?_
    | with_reducible refine sound_foldl_snd2 (fun _ _ _ => ?_) ?_
    | with_reducible refine sound_snd_of (by assumption) ?_
    | with_reducible refine sound_snd2_of (by assumption) ?_
    | with_reducible refine sound_fst_of (by assumption) ?_
    | simp only []
    | split

theorem State.readList_sound (s : State) (ag : Nat) (va : Nat) (n : Nat) (w : Nat) (b : Block) (inst : Nat) (hs : Sound Q s) (hw : sub 598160113273597 Q.w = true) :
    Sound Q (State.readList s ag va n w b inst).2 := by
  unfold State.readList
  repeat' first
    | with_reducible assumption
    | with_reducible exact sub_trans (by decide) hw
    | with_reducible apply State.xlateRange_sound
    | with_reducible apply State.fatal_sound
    | with_reducible apply State.meetPieces_sound
    | with_reducible refine sound_ite (fun _ => ?_) (fun _ => ?_)
    | with_reducible refine sound_foldl (fun _ _ _ => ?_) ?_
    | with_reducible refine sound_foldl_snd (fun _ _ _ => ?_) ?_
    | with_reducible refine sound_foldl_fst (fun _ _ _ => ?_) ?_
    | with_reducible refine sound_foldl_snd2 (fun _ _ _ => ?_) ?_
    | with_reducible refine sound_snd_of (by assumption) ?_
    | with_reducible refine sound_snd2_of (by assumption) ?_
    | with_reducible refine sound_fst_of (by assumption) ?_
    | simp only []
    | split

theorem State.rmw_sound (s0 : State) (u : Nat) (sec : Nat) (k0 : UKey) (vals : NMap Nat) (hs0 : Sound Q s0) (hw : sub 598160113142525 Q.w = true) :
    Sound Q (State.rmw s0 u sec k0 vals).2 := by
  unfold State.rmw
  repeat' first
    | with_reducible assumption
    | with_reducible exact sub_trans (by decide) hw
    | with_reducible apply State.setReg_sound
    | with_reducible apply State.fatal_sound
    | with_reducible apply State.dirtyHot_sound
    | with_reducible apply State.store_sound
    | with_reducible apply State.meetSector_sound
    | with_reducible apply State.dropSector_sound
    | with_reducible apply State.unitCount_sound
    | with_reducible apply State.count32_sound
    | with_reducible apply State.count64_sound
    | with_reducible refine sound_ite (fun _ => ?_) (fun _ => ?_)
    | with_reducible refine sound_foldl (fun _ _ _ => ?_) ?_
    | with_reducible refine sound_foldl_snd (fun _ _ _ => ?_) ?_
    | with_reducible refine sound_foldl_fst (fun _ _ _ => ?_) ?_
    | with_reducible refine sound_foldl_snd2 (fun _ _ _ => ?_) ?_
    | with_reducible refine sound_snd_of (by assumption) ?_
    | with_reducible refine sound_snd2_of (by assumption) ?_
    | with_reducible refine sound_fst_of (by assumption) ?_
    | simp only []
    | split

theorem State.poisonFences_sound (s : State) (r : Nat) (orgs : List Origin) (hs : Sound Q s) (hw : sub 8388608 Q.w = true) :
    Sound Q (State.poisonFences s r orgs) := by
  unfold State.poisonFences
  repeat' first
    | with_reducible assumption
    | with_reducible exact sub_trans (by decide) hw
    | with_reducible refine sound_ite (fun _ => ?_) (fun _ => ?_)
    | with_reducible refine sound_foldl (fun _ _ _ => ?_) ?_
    | with_reducible refine sound_foldl_snd (fun _ _ _ => ?_) ?_
    | with_reducible refine sound_foldl_fst (fun _ _ _ => ?_) ?_
    | with_reducible refine sound_foldl_snd2 (fun _ _ _ => ?_) ?_
    | with_reducible refine sound_snd_of (by assumption) ?_
    | with_reducible refine sound_snd2_of (by assumption) ?_
    | with_reducible refine sound_fst_of (by assumption) ?_
    | simp only [sound_set_servers (sub_trans (by decide) hw)]

theorem State.applyVals_sound (s : State) (u : Nat) (sec : Nat) (k : UKey) (vals : NMap Nat) (orgs : List Origin) (hs : Sound Q s) (hw : sub 598160121531133 Q.w = true) :
    Sound Q (State.applyVals s u sec k vals orgs) := by
  unfold State.applyVals
  repeat' first
    | with_reducible assumption
    | with_reducible exact sub_trans (by decide) hw
    | with_reducible apply State.rmw_sound
    | with_reducible apply State.poisonFences_sound
    | with_reducible refine sound_ite (fun _ => ?_) (fun _ => ?_)

theorem FlushWhy.count_sound (w : FlushWhy) (u : Nat) (s : State) (hs : Sound Q s) (hw : sub 4 Q.w = true) :
    Sound Q (FlushWhy.count w u s) := by
  unfold FlushWhy.count
  repeat' first
    | with_reducible assumption
    | with_reducible exact sub_trans (by decide) hw
    | with_reducible apply State.unitCount_sound
    | with_reducible refine sound_ite (fun _ => ?_) (fun _ => ?_)
    | with_reducible refine sound_foldl (fun _ _ _ => ?_) ?_
    | with_reducible refine sound_foldl_snd (fun _ _ _ => ?_) ?_
    | with_reducible refine sound_foldl_fst (fun _ _ _ => ?_) ?_
    | with_reducible refine sound_foldl_snd2 (fun _ _ _ => ?_) ?_
    | with_reducible refine sound_snd_of (by assumption) ?_
    | with_reducible refine sound_snd2_of (by assumption) ?_
    | with_reducible refine sound_fst_of (by assumption) ?_
    | simp only []
    | split

theorem State.flushSector_sound (s : State) (u : Nat) (sec : Nat) (why : FlushWhy) (hs : Sound Q s) (hw : sub 598160121531133 Q.w = true) :
    Sound Q (State.flushSector s u sec why) := by
  unfold State.flushSector
  repeat' first
    | with_reducible assumption
    | with_reducible exact sub_trans (by decide) hw
    | with_reducible apply State.applyVals_sound
    | with_reducible apply State.modUnit_sound
    | with_reducible apply FlushWhy.count_sound
    | with_reducible refine sound_ite (fun _ => ?_) (fun _ => ?_)
    | with_reducible refine sound_foldl (fun _ _ _ => ?_) ?_
    | with_reducible refine sound_foldl_snd (fun _ _ _ => ?_) ?_
    | with_reducible refine sound_foldl_fst (fun _ _ _ => ?_) ?_
    | with_reducible refine sound_foldl_snd2 (fun _ _ _ => ?_) ?_
    | with_reducible refine sound_snd_of (by assumption) ?_
    | with_reducible refine sound_snd2_of (by assumption) ?_
    | with_reducible refine sound_fst_of (by assumption) ?_
    | simp only []
    | split

theorem State.markDue_sound (s : State) (u : Nat) (sec : Nat) (why : FlushWhy) (hs : Sound Q s) (hw : sub 16777216 Q.w = true) :
    Sound Q (State.markDue s u sec why) := by
  unfold State.markDue
  repeat' first
    | with_reducible assumption
    | with_reducible exact sub_trans (by decide) hw
    | with_reducible apply State.modUnit_sound

theorem State.flushWhere_sound (s : State) (u : Nat) (p : UEnt → Bool) (why : FlushWhy) (hs : Sound Q s) (hw : sub 598160121531133 Q.w = true) :
    Sound Q (State.flushWhere s u p why) := by
  unfold State.flushWhere
  repeat' first
    | with_reducible assumption
    | with_reducible exact sub_trans (by decide) hw
    | with_reducible apply State.markDue_sound
    | with_reducible apply State.flushSector_sound
    | with_reducible refine sound_ite (fun _ => ?_) (fun _ => ?_)
    | with_reducible refine sound_foldl (fun _ _ _ => ?_) ?_

theorem State.flushRange_sound (s : State) (a : Nat) (n : Nat) (hs : Sound Q s) (hw : sub 598160121531133 Q.w = true) :
    Sound Q (State.flushRange s a n) := by
  unfold State.flushRange
  repeat' first
    | with_reducible assumption
    | with_reducible exact sub_trans (by decide) hw
    | with_reducible apply State.markDue_sound
    | with_reducible apply State.flushSector_sound
    | with_reducible refine sound_ite (fun _ => ?_) (fun _ => ?_)
    | with_reducible refine sound_foldl (fun _ _ _ => ?_) ?_
    | with_reducible refine sound_foldl_snd (fun _ _ _ => ?_) ?_
    | with_reducible refine sound_foldl_fst (fun _ _ _ => ?_) ?_
    | with_reducible refine sound_foldl_snd2 (fun _ _ _ => ?_) ?_
    | with_reducible refine sound_snd_of (by assumption) ?_
    | with_reducible refine sound_snd2_of (by assumption) ?_
    | with_reducible refine sound_fst_of (by assumption) ?_
    | simp only []
    | split

theorem State.beforeWrite_sound (s : State) (a : Nat) (n : Nat) (hs : Sound Q s) (hw : sub 598160121531133 Q.w = true) :
    Sound Q (State.beforeWrite s a n) := by
  unfold State.beforeWrite
  repeat' first
    | with_reducible assumption
    | with_reducible exact sub_trans (by decide) hw
    | with_reducible apply State.dropSectors_sound
    | with_reducible apply State.flushRange_sound

theorem State.flushDue_sound (s : State) (u : Nat) (hs : Sound Q s) (hw : sub 598160121531133 Q.w = true) :
    Sound Q (State.flushDue s u) := by
  unfold State.flushDue
  repeat' first
    | with_reducible assumption
    | with_reducible exact sub_trans (by decide) hw
    | with_reducible apply State.flushSector_sound
    | with_reducible refine sound_ite (fun _ => ?_) (fun _ => ?_)
    | with_reducible refine sound_foldl (fun _ _ _ => ?_) ?_
    | with_reducible refine sound_foldl_snd (fun _ _ _ => ?_) ?_
    | with_reducible refine sound_foldl_fst (fun _ _ _ => ?_) ?_
    | with_reducible refine sound_foldl_snd2 (fun _ _ _ => ?_) ?_
    | with_reducible refine sound_snd_of (by assumption) ?_
    | with_reducible refine sound_snd2_of (by assumption) ?_
    | with_reducible refine sound_fst_of (by assumption) ?_
    | simp only []
    | split

theorem State.writeDest_sound (s : State) (a1 : List (Page × Nat)) (a2 : List Byte) (a3 : Bool) (hs : Sound Q s) (hw : sub 598160113142525 Q.w = true) :
    Sound Q (State.writeDest s a1 a2 a3) := by
  fun_induction State.writeDest s a1 a2 a3
  all_goals
    repeat' first
      | with_reducible assumption
      | with_reducible exact sub_trans (by decide) hw
      | with_reducible apply State.writePa_sound
      | with_reducible apply State.dirtyHot_sound
      | with_reducible refine sound_ite (fun _ => ?_) (fun _ => ?_)
      | with_reducible refine sound_foldl (fun _ _ _ => ?_) ?_
      | with_reducible refine sound_foldl_snd (fun _ _ _ => ?_) ?_
      | with_reducible refine sound_foldl_fst (fun _ _ _ => ?_) ?_
      | with_reducible refine sound_foldl_snd2 (fun _ _ _ => ?_) ?_
      | with_reducible refine sound_snd_of (by assumption) ?_
      | with_reducible refine sound_snd2_of (by assumption) ?_
      | with_reducible refine sound_fst_of (by assumption) ?_
      | simp only []
      | split
      | intro _
      | with_reducible apply_assumption

theorem State.placeUps_sound (s : State) (a1 : List UReq) (hs : Sound Q s) (hw : sub 16777220 Q.w = true) :
    Sound Q (State.placeUps s a1).2 := by
  fun_induction State.placeUps s a1
  all_goals
    repeat' first
      | with_reducible assumption
      | with_reducible exact sub_trans (by decide) hw
      | with_reducible apply State.modUnit_sound
      | with_reducible apply State.unitCount_sound
      | with_reducible refine sound_ite (fun _ => ?_) (fun _ => ?_)
      | with_reducible refine sound_foldl (fun _ _ _ => ?_) ?_
      | with_reducible refine sound_foldl_snd (fun _ _ _ => ?_) ?_
      | with_reducible refine sound_foldl_fst (fun _ _ _ => ?_) ?_
      | with_reducible refine sound_foldl_snd2 (fun _ _ _ => ?_) ?_
      | with_reducible refine sound_snd_of (by assumption) ?_
      | with_reducible refine sound_snd2_of (by assumption) ?_
      | with_reducible refine sound_fst_of (by assumption) ?_
      | simp only []
      | split
      | intro _
      | with_reducible apply_assumption

theorem State.modUpk_sound (s : State) (id : Nat) (f : UPkt → UPkt) (hs : Sound Q s) (hw : sub 33554432 Q.w = true) :
    Sound Q (State.modUpk s id f) := by
  unfold State.modUpk
  repeat' first
    | with_reducible assumption
    | with_reducible exact sub_trans (by decide) hw
    | with_reducible refine sound_ite (fun _ => ?_) (fun _ => ?_)
    | with_reducible refine sound_foldl (fun _ _ _ => ?_) ?_
    | with_reducible refine sound_foldl_snd (fun _ _ _ => ?_) ?_
    | with_reducible refine sound_foldl_fst (fun _ _ _ => ?_) ?_
    | with_reducible refine sound_foldl_snd2 (fun _ _ _ => ?_) ?_
    | with_reducible refine sound_snd_of (by assumption) ?_
    | with_reducible refine sound_snd2_of (by assumption) ?_
    | with_reducible refine sound_fst_of (by assumption) ?_
    | simp only [sound_set_upk (sub_trans (by decide) hw)]

theorem State.routePacket_sound (s : State) (id : Nat) (hs : Sound Q s) (hw : sub 50331652 Q.w = true) :
    Sound Q (State.routePacket s id) := by
  unfold State.routePacket
  repeat' first
    | with_reducible assumption
    | with_reducible exact sub_trans (by decide) hw
    | with_reducible apply State.modUpk_sound
    | with_reducible apply State.placeUps_sound
    | with_reducible refine sound_ite (fun _ => ?_) (fun _ => ?_)
    | with_reducible refine sound_foldl (fun _ _ _ => ?_) ?_
    | with_reducible refine sound_foldl_snd (fun _ _ _ => ?_) ?_
    | with_reducible refine sound_foldl_fst (fun _ _ _ => ?_) ?_
    | with_reducible refine sound_foldl_snd2 (fun _ _ _ => ?_) ?_
    | with_reducible refine sound_snd_of (by assumption) ?_
    | with_reducible refine sound_snd2_of (by assumption) ?_
    | with_reducible refine sound_fst_of (by assumption) ?_
    | simp only []
    | split

theorem State.routeUpdates_sound (s : State) (r : Nat) (hs : Sound Q s) (hw : sub 50331652 Q.w = true) :
    Sound Q (State.routeUpdates s r) := by
  unfold State.routeUpdates
  repeat' first
    | with_reducible assumption
    | with_reducible exact sub_trans (by decide) hw
    | with_reducible apply State.routePacket_sound
    | with_reducible refine sound_ite (fun _ => ?_) (fun _ => ?_)
    | with_reducible refine sound_foldl (fun _ _ _ => ?_) ?_

theorem State.upAccepted_sound (s : State) (id : Nat) (hs : Sound Q s) (hw : sub 33554432 Q.w = true) :
    Sound Q (State.upAccepted s id) := by
  unfold State.upAccepted
  repeat' first
    | with_reducible assumption
    | with_reducible exact sub_trans (by decide) hw
    | with_reducible apply State.modUpk_sound

theorem State.setLastSent_sound (s : State) (src : Nat) (rcv : Nat) (n : Nat) (hs : Sound Q s) (hw : sub 67108864 Q.w = true) :
    Sound Q (State.setLastSent s src rcv n) := by
  unfold State.setLastSent
  repeat' first
    | with_reducible assumption
    | with_reducible exact sub_trans (by decide) hw
    | with_reducible refine sound_ite (fun _ => ?_) (fun _ => ?_)
    | with_reducible refine sound_foldl (fun _ _ _ => ?_) ?_
    | with_reducible refine sound_foldl_snd (fun _ _ _ => ?_) ?_
    | with_reducible refine sound_foldl_fst (fun _ _ _ => ?_) ?_
    | with_reducible refine sound_foldl_snd2 (fun _ _ _ => ?_) ?_
    | with_reducible refine sound_snd_of (by assumption) ?_
    | with_reducible refine sound_snd2_of (by assumption) ?_
    | with_reducible refine sound_fst_of (by assumption) ?_
    | simp only [sound_set_seqTx (sub_trans (by decide) hw)]

theorem State.setSeqEntry_sound (s : State) (rcv : Nat) (src : Nat) (e : SeqRx) (hs : Sound Q s) (hw : sub 134217728 Q.w = true) :
    Sound Q (State.setSeqEntry s rcv src e) := by
  unfold State.setSeqEntry
  repeat' first
    | with_reducible assumption
    | with_reducible exact sub_trans (by decide) hw
    | with_reducible refine sound_ite (fun _ => ?_) (fun _ => ?_)
    | with_reducible refine sound_foldl (fun _ _ _ => ?_) ?_
    | with_reducible refine sound_foldl_snd (fun _ _ _ => ?_) ?_
    | with_reducible refine sound_foldl_fst (fun _ _ _ => ?_) ?_
    | with_reducible refine sound_foldl_snd2 (fun _ _ _ => ?_) ?_
    | with_reducible refine sound_snd_of (by assumption) ?_
    | with_reducible refine sound_snd2_of (by assumption) ?_
    | with_reducible refine sound_fst_of (by assumption) ?_
    | simp only [sound_set_seqRx (sub_trans (by decide) hw)]

theorem State.seqError_sound (s : State) (r : Nat) (src : Nat) (ep : Nat) (bit : Nat) (hs : Sound Q s) (hw : sub 4 Q.w = true) :
    Sound Q (State.seqError s r src ep bit) := by
  unfold State.seqError
  repeat' first
    | with_reducible assumption
    | with_reducible exact sub_trans (by decide) hw
    | with_reducible apply State.setReg_sound
    | with_reducible refine sound_ite (fun _ => ?_) (fun _ => ?_)

theorem State.seqCount_sound (s : State) (r : Nat) (dup : Bool) (hs : Sound Q s) (hw : sub 4 Q.w = true) :
    Sound Q (State.seqCount s r dup) := by
  unfold State.seqCount
  repeat' first
    | with_reducible assumption
    | with_reducible exact sub_trans (by decide) hw
    | with_reducible apply State.count32_sound
    | with_reducible apply State.count64_sound
    | with_reducible refine sound_ite (fun _ => ?_) (fun _ => ?_)

theorem State.seqCheck_sound (s : State) (r : Nat) (src : Nat) (ep : Nat) (sq : Nat) (hs : Sound Q s) (hw : sub 562950105465596 Q.w = true) :
    Sound Q (State.seqCheck s r src ep sq).2 := by
  unfold State.seqCheck
  repeat' first
    | with_reducible assumption
    | with_reducible exact sub_trans (by decide) hw
    | with_reducible apply State.fatal_sound
    | with_reducible apply State.seqError_sound
    | with_reducible apply State.seqCount_sound
    | with_reducible apply State.setSeqEntry_sound
    | with_reducible refine sound_ite (fun _ => ?_) (fun _ => ?_)
    | with_reducible refine sound_foldl (fun _ _ _ => ?_) ?_
    | with_reducible refine sound_foldl_snd (fun _ _ _ => ?_) ?_
    | with_reducible refine sound_foldl_fst (fun _ _ _ => ?_) ?_
    | with_reducible refine sound_foldl_snd2 (fun _ _ _ => ?_) ?_
    | with_reducible refine sound_snd_of (by assumption) ?_
    | with_reducible refine sound_snd2_of (by assumption) ?_
    | with_reducible refine sound_fst_of (by assumption) ?_
    | simp only []
    | split

theorem State.sourceReset_sound (s : State) (src : Nat) (hs : Sound Q s) (hw : sub 335544320 Q.w = true) :
    Sound Q (State.sourceReset s src) := by
  unfold State.sourceReset
  repeat' first
    | with_reducible assumption
    | with_reducible exact sub_trans (by decide) hw
    | with_reducible refine sound_ite (fun _ => ?_) (fun _ => ?_)
    | with_reducible refine sound_foldl (fun _ _ _ => ?_) ?_
    | with_reducible refine sound_foldl_snd (fun _ _ _ => ?_) ?_
    | with_reducible refine sound_foldl_fst (fun _ _ _ => ?_) ?_
    | with_reducible refine sound_foldl_snd2 (fun _ _ _ => ?_) ?_
    | with_reducible refine sound_snd_of (by assumption) ?_
    | with_reducible refine sound_snd2_of (by assumption) ?_
    | with_reducible refine sound_fst_of (by assumption) ?_
    | simp only [sound_set_seqTx_srcEpoch (sub_trans (by decide) hw)]

theorem State.enqueue_sound (s : State) (x : Nat) (q : Nat) (raw : Nat) (packets : List Byte) (missing : Nat) (src : Nat) (hs : Sound Q s) (hw : sub 79691776 Q.w = true) :
    Sound Q (State.enqueue s x q raw packets missing src) := by
  unfold State.enqueue
  repeat' first
    | with_reducible assumption
    | with_reducible exact sub_trans (by decide) hw
    | with_reducible apply State.modServer_sound
    | with_reducible apply State.setLastSent_sound
    | with_reducible refine sound_ite (fun _ => ?_) (fun _ => ?_)
    | with_reducible refine sound_foldl (fun _ _ _ => ?_) ?_
    | with_reducible refine sound_foldl_snd (fun _ _ _ => ?_) ?_
    | with_reducible refine sound_foldl_fst (fun _ _ _ => ?_) ?_
    | with_reducible refine sound_foldl_snd2 (fun _ _ _ => ?_) ?_
    | with_reducible refine sound_snd_of (by assumption) ?_
    | with_reducible refine sound_snd2_of (by assumption) ?_
    | with_reducible refine sound_fst_of (by assumption) ?_
    | simp only [sound_set_serial (sub_trans (by decide) hw)]

theorem State.issueCmd_sound (s : State) (x : Nat) (q : Nat) (data : List Byte) (blocking : Bool) (src : Nat) (hs : Sound Q s) (hw : sub 79691776 Q.w = true) :
    Sound Q (State.issueCmd s x q data blocking src).2 := by
  unfold State.issueCmd
  repeat' first
    | with_reducible assumption
    | with_reducible exact sub_trans (by decide) hw
    | with_reducible apply State.enqueue_sound
    | with_reducible refine sound_ite (fun _ => ?_) (fun _ => ?_)
    | with_reducible refine sound_foldl (fun _ _ _ => ?_) ?_
    | with_reducible refine sound_foldl_snd (fun _ _ _ => ?_) ?_
    | with_reducible refine sound_foldl_fst (fun _ _ _ => ?_) ?_
    | with_reducible refine sound_foldl_snd2 (fun _ _ _ => ?_) ?_
    | with_reducible refine sound_snd_of (by assumption) ?_
    | with_reducible refine sound_snd2_of (by assumption) ?_
    | with_reducible refine sound_fst_of (by assumption) ?_
    | simp only []
    | split

theorem State.feedCmd_sound (s : State) (x : Nat) (serial : Nat) (rest : List Byte) (hs : Sound Q s) (hw : sub 8388608 Q.w = true) :
    Sound Q (State.feedCmd s x serial rest).2 := by
  unfold State.feedCmd
  repeat' first
    | with_reducible assumption
    | with_reducible exact sub_trans (by decide) hw
    | with_reducible apply State.modServer_sound
    | with_reducible refine sound_ite (fun _ => ?_) (fun _ => ?_)
    | with_reducible refine sound_foldl (fun _ _ _ => ?_) ?_
    | with_reducible refine sound_foldl_snd (fun _ _ _ => ?_) ?_
    | with_reducible refine sound_foldl_fst (fun _ _ _ => ?_) ?_
    | with_reducible refine sound_foldl_snd2 (fun _ _ _ => ?_) ?_
    | with_reducible refine sound_snd_of (by assumption) ?_
    | with_reducible refine sound_snd2_of (by assumption) ?_
    | with_reducible refine sound_fst_of (by assumption) ?_
    | simp only []
    | split

theorem State.modCmd_sound (s : State) (x : Nat) (serial : Nat) (f : SCmd → SCmd) (hs : Sound Q s) (hw : sub 8388608 Q.w = true) :
    Sound Q (State.modCmd s x serial f) := by
  unfold State.modCmd
  repeat' first
    | with_reducible assumption
    | with_reducible exact sub_trans (by decide) hw
    | with_reducible apply State.modServer_sound

end Sys2Proof.Machine
end

