-- ==== Sys2Proof/Laws/SoundSync.lean ====
section
/-! SUPPORT. Laws/SoundSync.lean: the operations of Machine/Sync.lean keep the waiting commands and the canonical form of both
memories. -/

namespace Sys2Proof.Machine

open Sys2Proof

variable {Q : Frame}

/-- What the address of a bead or counter gives is sound. -/
inductive ESound (Q : Frame) : Except IRes (Obj × State) → Prop where
  | ok {o : Obj} {s : State} (h : Sound Q s) : ESound Q (.ok (o, s))
  | error {r : IRes} (h : ISound Q r) : ESound Q (.error r)

theorem esound_ok {r : Except IRes (Obj × State)} {o : Obj} {s : State} (e : r = .ok (o, s)) (h : ESound Q r) : Sound Q s := by
  subst e; cases h; assumption

theorem esound_error {r : Except IRes (Obj × State)} {i : IRes} (e : r = .error i) (h : ESound Q r) : ISound Q i := by
  subst e; cases h; assumption

theorem State.setBead_sound (s : State) (h : Nat) (b : Nat) (v : Bead) (hs : Sound Q s) (hw : sub 2048 Q.w = true) :
    Sound Q (State.setBead s h b v) := by
  unfold State.setBead
  repeat' first
    | with_reducible assumption
    | with_reducible exact sub_trans (by decide) hw
    | with_reducible apply State.modHome_sound

theorem State.setCtr_sound (s : State) (h : Nat) (k : Nat) (v : Ctr) (hs : Sound Q s) (hw : sub 2048 Q.w = true) :
    Sound Q (State.setCtr s h k v) := by
  unfold State.setCtr
  repeat' first
    | with_reducible assumption
    | with_reducible exact sub_trans (by decide) hw
    | with_reducible apply State.modHome_sound

theorem State.wake_sound (s : State) (c : Nat) (rd : Nat) (v : Nat) (st : BitVec 5) (hs : Sound Q s) (hw : sub 1028 Q.w = true) :
    Sound Q (State.wake s c rd v st) := by
  unfold State.wake
  repeat' first
    | with_reducible assumption
    | with_reducible exact sub_trans (by decide) hw
    | with_reducible apply State.retire_sound
    | with_reducible apply State.modCore_sound

theorem State.dropWaiter_sound (s : State) (h : Nat) (w : Waiter) (hs : Sound Q s) (hw : sub 2048 Q.w = true) :
    Sound Q (State.dropWaiter s h w) := by
  unfold State.dropWaiter
  repeat' first
    | with_reducible assumption
    | with_reducible exact sub_trans (by decide) hw
    | with_reducible apply State.modHome_sound

theorem State.releaseBead_sound (s : State) (h : Nat) (b : Nat) (a3 : Nat) (hs : Sound Q s) (hw : sub 3076 Q.w = true) :
    Sound Q (State.releaseBead s h b a3) := by
  fun_induction State.releaseBead s h b a3
  all_goals
    repeat' first
      | with_reducible assumption
      | with_reducible exact sub_trans (by decide) hw
      | with_reducible apply State.dropWaiter_sound
      | with_reducible apply State.wake_sound
      | with_reducible apply State.setBead_sound
      | with_reducible refine sound_ite (fun _ => ?_) (fun _ => ?_)
      | with_reducible refine sound_foldl (fun _ _ _ => ?_) ?_
      | with_reducible refine sound_foldl_snd (fun _ _ _ => ?_) ?_
      | with_reducible refine sound_foldl_fst (fun _ _ _ => ?_) ?_
      | with_reducible refine sound_foldl_snd2 (fun _ _ _ => ?_) ?_
      | with_reducible refine sound_snd_of (by assumption) ?_
      | with_reducible refine sound_snd2_of (by assumption) ?_
      | with_reducible refine sound_fst_of (by assumption) ?_
      | simp only []
      | split
      | intro _
      | with_reducible apply_assumption

theorem State.beadSettled_sound (s : State) (h : Nat) (b : Nat) (hs : Sound Q s) (hw : sub 3076 Q.w = true) :
    Sound Q (State.beadSettled s h b) := by
  unfold State.beadSettled
  repeat' first
    | with_reducible assumption
    | with_reducible exact sub_trans (by decide) hw
    | with_reducible apply State.releaseBead_sound

theorem State.releaseCtr_sound (s : State) (h : Nat) (k : Nat) (hs : Sound Q s) (hw : sub 3076 Q.w = true) :
    Sound Q (State.releaseCtr s h k) := by
  unfold State.releaseCtr
  repeat' first
    | with_reducible assumption
    | with_reducible exact sub_trans (by decide) hw
    | with_reducible apply State.dropWaiter_sound
    | with_reducible apply State.wake_sound
    | with_reducible refine sound_ite (fun _ => ?_) (fun _ => ?_)
    | with_reducible refine sound_foldl (fun _ _ _ => ?_) ?_
    | with_reducible refine sound_foldl_snd (fun _ _ _ => ?_) ?_
    | with_reducible refine sound_foldl_fst (fun _ _ _ => ?_) ?_
    | with_reducible refine sound_foldl_snd2 (fun _ _ _ => ?_) ?_
    | with_reducible refine sound_snd_of (by assumption) ?_
    | with_reducible refine sound_snd2_of (by assumption) ?_
    | with_reducible refine sound_fst_of (by assumption) ?_
    | simp only []
    | split

theorem State.poisonWaiters_sound (s : State) (o : Obj) (count : Bool) (hs : Sound Q s) (hw : sub 3076 Q.w = true) :
    Sound Q (State.poisonWaiters s o count) := by
  unfold State.poisonWaiters
  repeat' first
    | with_reducible assumption
    | with_reducible exact sub_trans (by decide) hw
    | with_reducible apply State.dropWaiter_sound
    | with_reducible apply State.wake_sound
    | with_reducible apply State.count32_sound
    | with_reducible refine sound_ite (fun _ => ?_) (fun _ => ?_)
    | with_reducible refine sound_foldl (fun _ _ _ => ?_) ?_

theorem State.syncOp_sound (s : State) (h : Nat) (hs : Sound Q s) (hw : sub 4 Q.w = true) : Sound Q (State.syncOp s h) := by
  unfold State.syncOp
  repeat' first
    | with_reducible assumption
    | with_reducible exact sub_trans (by decide) hw
    | with_reducible apply State.count64_sound

theorem State.storeBead_sound (s : State) (h : Nat) (b : Nat) (v : DWord) (hs : Sound Q s) (hw : sub 3076 Q.w = true) :
    Sound Q (State.storeBead s h b v).2 := by
  unfold State.storeBead
  repeat' first
    | with_reducible assumption
    | with_reducible exact sub_trans (by decide) hw
    | with_reducible apply State.setBead_sound
    | with_reducible apply State.beadSettled_sound
    | with_reducible apply State.count32_sound
    | with_reducible apply State.syncOp_sound
    | with_reducible refine sound_ite (fun _ => ?_) (fun _ => ?_)
    | with_reducible refine sound_foldl (fun _ _ _ => ?_) ?_
    | with_reducible refine sound_foldl_snd (fun _ _ _ => ?_) ?_
    | with_reducible refine sound_foldl_fst (fun _ _ _ => ?_) ?_
    | with_reducible refine sound_foldl_snd2 (fun _ _ _ => ?_) ?_
    | with_reducible refine sound_snd_of (by assumption) ?_
    | with_reducible refine sound_snd2_of (by assumption) ?_
    | with_reducible refine sound_fst_of (by assumption) ?_
    | simp only []
    | split

theorem State.addCtr_sound (s : State) (h : Nat) (k : Nat) (n : Nat) (hs : Sound Q s) (hw : sub 3076 Q.w = true) :
    Sound Q (State.addCtr s h k n) := by
  unfold State.addCtr
  repeat' first
    | with_reducible assumption
    | with_reducible exact sub_trans (by decide) hw
    | with_reducible apply State.releaseCtr_sound
    | with_reducible apply State.setCtr_sound
    | with_reducible apply State.count32_sound
    | with_reducible apply State.syncOp_sound
    | with_reducible refine sound_ite (fun _ => ?_) (fun _ => ?_)

theorem State.subCtr_sound (s : State) (h : Nat) (k : Nat) (n : Nat) (hs : Sound Q s) (hw : sub 2052 Q.w = true) :
    Sound Q (State.subCtr s h k n) := by
  unfold State.subCtr
  repeat' first
    | with_reducible assumption
    | with_reducible exact sub_trans (by decide) hw
    | with_reducible apply State.setCtr_sound
    | with_reducible apply State.count32_sound
    | with_reducible apply State.syncOp_sound
    | with_reducible refine sound_ite (fun _ => ?_) (fun _ => ?_)

theorem State.signal_sound (s : State) (pa : Nat) (counter : Bool) (v : Nat) (hs : Sound Q s) (hw : sub 3076 Q.w = true) :
    Sound Q (State.signal s pa counter v) := by
  unfold State.signal
  repeat' first
    | with_reducible assumption
    | with_reducible exact sub_trans (by decide) hw
    | with_reducible apply State.storeBead_sound
    | with_reducible apply State.addCtr_sound
    | with_reducible refine sound_ite (fun _ => ?_) (fun _ => ?_)
    | with_reducible refine sound_foldl (fun _ _ _ => ?_) ?_
    | with_reducible refine sound_foldl_snd (fun _ _ _ => ?_) ?_
    | with_reducible refine sound_foldl_fst (fun _ _ _ => ?_) ?_
    | with_reducible refine sound_foldl_snd2 (fun _ _ _ => ?_) ?_
    | with_reducible refine sound_snd_of (by assumption) ?_
    | with_reducible refine sound_snd2_of (by assumption) ?_
    | with_reducible refine sound_fst_of (by assumption) ?_
    | simp only []
    | split

theorem syncTarget_sound (s : State) (c : Nat) (rs1 : XReg) (write : Bool) (hs : Sound Q s) (hw : sub 598160113273597 Q.w = true) :
    ESound Q (syncTarget s c rs1 write) := by
  unfold syncTarget
  repeat' first
    | with_reducible assumption
    | with_reducible exact sub_trans (by decide) hw
    | with_reducible apply ESound.error
    | with_reducible apply ESound.ok
    | with_reducible apply ISound.done
    | with_reducible apply ISound.jump
    | with_reducible apply ISound.trap
    | with_reducible apply ISound.stall
    | with_reducible apply State.coreXlate_sound
    | with_reducible refine pred_ite (P := ESound Q) (fun _ => ?_) (fun _ => ?_)
    | with_reducible refine pred_ite (P := ISound Q) (fun _ => ?_) (fun _ => ?_)
    | with_reducible refine sound_ite (fun _ => ?_) (fun _ => ?_)
    | with_reducible refine sound_foldl (fun _ _ _ => ?_) ?_
    | with_reducible refine sound_foldl_snd (fun _ _ _ => ?_) ?_
    | with_reducible refine sound_foldl_fst (fun _ _ _ => ?_) ?_
    | with_reducible refine sound_foldl_snd2 (fun _ _ _ => ?_) ?_
    | with_reducible refine sound_snd_of (by assumption) ?_
    | with_reducible refine sound_snd2_of (by assumption) ?_
    | with_reducible refine sound_fst_of (by assumption) ?_
    | simp only []
    | split

theorem State.syncDone_sound (s : State) (c : Nat) (rd : XReg) (v : Nat) (st : Nat) (before : Nat) (flag : Bool) (hs : Sound Q s) (hw : sub 1024 Q.w = true) :
    ISound Q (State.syncDone s c rd v st before flag) := by
  unfold State.syncDone
  repeat' first
    | with_reducible assumption
    | with_reducible exact sub_trans (by decide) hw
    | with_reducible apply ISound.done
    | with_reducible apply ISound.jump
    | with_reducible apply ISound.trap
    | with_reducible apply ISound.stall
    | with_reducible apply State.modCore_sound
    | with_reducible apply State.setXn_sound

theorem State.waitAt_sound (s : State) (c : Nat) (o : Obj) (kind : WaitKind) (rd : XReg) (hs : Sound Q s) (hw : sub 3076 Q.w = true) :
    ISound Q (State.waitAt s c o kind rd) := by
  unfold State.waitAt
  repeat' first
    | with_reducible assumption
    | with_reducible exact sub_trans (by decide) hw
    | with_reducible apply ISound.done
    | with_reducible apply ISound.jump
    | with_reducible apply ISound.trap
    | with_reducible apply ISound.stall
    | with_reducible apply State.modHome_sound
    | with_reducible apply State.modCore_sound
    | with_reducible apply State.syncOp_sound

theorem beadInstr_sound (c : Nat) (fn : BeadFn) (rd : XReg) (rs1 : XReg) (rs2 : XReg) (s : State) (hs : Sound Q s) (hw : sub 598160113274621 Q.w = true) :
    ISound Q (beadInstr c fn rd rs1 rs2 s) := by
  unfold beadInstr
  repeat' first
    | with_reducible assumption
    | with_reducible exact sub_trans (by decide) hw
    | with_reducible apply State.syncDone_sound
    | with_reducible apply syncTarget_sound
    | with_reducible apply State.waitAt_sound
    | with_reducible apply ISound.done
    | with_reducible apply ISound.jump
    | with_reducible apply ISound.trap
    | with_reducible apply ISound.stall
    | with_reducible apply State.storeBead_sound
    | with_reducible apply State.setBead_sound
    | with_reducible apply State.beadSettled_sound
    | with_reducible apply State.syncOp_sound
    | with_reducible refine pred_ite (P := ISound Q) (fun _ => ?_) (fun _ => ?_)
    | with_reducible refine sound_ite (fun _ => ?_) (fun _ => ?_)
    | with_reducible refine sound_foldl (fun _ _ _ => ?_) ?_
    | with_reducible refine esound_ok (by assumption) ?_
    | with_reducible refine esound_error (by assumption) ?_
    | with_reducible refine isound_trap (by assumption) ?_
    | with_reducible refine isound_stall (by assumption) ?_
    | with_reducible refine sound_foldl_snd (fun _ _ _ => ?_) ?_
    | with_reducible refine sound_foldl_fst (fun _ _ _ => ?_) ?_
    | with_reducible refine sound_foldl_snd2 (fun _ _ _ => ?_) ?_
    | with_reducible refine sound_snd_of (by assumption) ?_
    | with_reducible refine sound_snd2_of (by assumption) ?_
    | with_reducible refine sound_fst_of (by assumption) ?_
    | simp only []
    | split

theorem ctrInstr_sound (c : Nat) (fn : CtrFn) (rd : XReg) (rs1 : XReg) (rs2 : XReg) (s : State) (hs : Sound Q s) (hw : sub 598160113274621 Q.w = true) :
    ISound Q (ctrInstr c fn rd rs1 rs2 s) := by
  unfold ctrInstr
  repeat' first
    | with_reducible assumption
    | with_reducible exact sub_trans (by decide) hw
    | with_reducible apply State.syncDone_sound
    | with_reducible apply syncTarget_sound
    | with_reducible apply State.waitAt_sound
    | with_reducible apply ISound.done
    | with_reducible apply ISound.jump
    | with_reducible apply ISound.trap
    | with_reducible apply ISound.stall
    | with_reducible apply State.subCtr_sound
    | with_reducible apply State.addCtr_sound
    | with_reducible apply State.syncOp_sound
    | with_reducible refine pred_ite (P := ISound Q) (fun _ => ?_) (fun _ => ?_)
    | with_reducible refine sound_ite (fun _ => ?_) (fun _ => ?_)
    | with_reducible refine sound_foldl (fun _ _ _ => ?_) ?_
    | with_reducible refine esound_ok (by assumption) ?_
    | with_reducible refine esound_error (by assumption) ?_
    | with_reducible refine isound_trap (by assumption) ?_
    | with_reducible refine isound_stall (by assumption) ?_
    | with_reducible refine sound_foldl_snd (fun _ _ _ => ?_) ?_
    | with_reducible refine sound_foldl_fst (fun _ _ _ => ?_) ?_
    | with_reducible refine sound_foldl_snd2 (fun _ _ _ => ?_) ?_
    | with_reducible refine sound_snd_of (by assumption) ?_
    | with_reducible refine sound_snd2_of (by assumption) ?_
    | with_reducible refine sound_fst_of (by assumption) ?_
    | simp only []
    | split

theorem State.claim_sound (s : State) (task : Nat) (a2 : Obj) (hs : Sound Q s) (hw : sub 2048 Q.w = true) :
    Sound Q (State.claim s task a2) := by
  unfold State.claim
  repeat' first
    | with_reducible assumption
    | with_reducible exact sub_trans (by decide) hw
    | with_reducible apply State.setCtr_sound
    | with_reducible apply State.setBead_sound
    | with_reducible refine sound_ite (fun _ => ?_) (fun _ => ?_)
    | with_reducible refine sound_foldl (fun _ _ _ => ?_) ?_
    | with_reducible refine sound_foldl_snd (fun _ _ _ => ?_) ?_
    | with_reducible refine sound_foldl_fst (fun _ _ _ => ?_) ?_
    | with_reducible refine sound_foldl_snd2 (fun _ _ _ => ?_) ?_
    | with_reducible refine sound_snd_of (by assumption) ?_
    | with_reducible refine sound_snd2_of (by assumption) ?_
    | with_reducible refine sound_fst_of (by assumption) ?_
    | simp only []
    | split

theorem sclaimInstr_sound (c : Nat) (rd : XReg) (rs1 : XReg) (rs2 : XReg) (s : State) (hs : Sound Q s) (hw : sub 598160113274621 Q.w = true) :
    ISound Q (sclaimInstr c rd rs1 rs2 s) := by
  unfold sclaimInstr
  repeat' first
    | with_reducible assumption
    | with_reducible exact sub_trans (by decide) hw
    | with_reducible apply syncTarget_sound
    | with_reducible apply ISound.done
    | with_reducible apply ISound.jump
    | with_reducible apply ISound.trap
    | with_reducible apply ISound.stall
    | with_reducible apply State.modCore_sound
    | with_reducible apply State.setXn_sound
    | with_reducible apply State.claim_sound
    | with_reducible refine pred_ite (P := ISound Q) (fun _ => ?_) (fun _ => ?_)
    | with_reducible refine sound_ite (fun _ => ?_) (fun _ => ?_)
    | with_reducible refine sound_foldl (fun _ _ _ => ?_) ?_
    | with_reducible refine esound_ok (by assumption) ?_
    | with_reducible refine esound_error (by assumption) ?_
    | with_reducible refine sound_foldl_snd (fun _ _ _ => ?_) ?_
    | with_reducible refine sound_foldl_fst (fun _ _ _ => ?_) ?_
    | with_reducible refine sound_foldl_snd2 (fun _ _ _ => ?_) ?_
    | with_reducible refine sound_snd_of (by assumption) ?_
    | with_reducible refine sound_snd2_of (by assumption) ?_
    | with_reducible refine sound_fst_of (by assumption) ?_
    | simp only []
    | split

theorem State.ownerResetHome_sound (s : State) (h : Nat) (task : Nat) (hs : Sound Q s) (hw : sub 3076 Q.w = true) :
    Sound Q (State.ownerResetHome s h task) := by
  unfold State.ownerResetHome
  repeat' first
    | with_reducible assumption
    | with_reducible exact sub_trans (by decide) hw
    | with_reducible apply State.setCtr_sound
    | with_reducible apply State.setBead_sound
    | with_reducible apply State.poisonWaiters_sound
    | with_reducible refine sound_ite (fun _ => ?_) (fun _ => ?_)
    | with_reducible refine sound_foldl (fun _ _ _ => ?_) ?_

theorem State.ownerReset_sound (s : State) (task : Nat) (hs : Sound Q s) (hw : sub 3076 Q.w = true) :
    Sound Q (State.ownerReset s task) := by
  unfold State.ownerReset
  repeat' first
    | with_reducible assumption
    | with_reducible exact sub_trans (by decide) hw
    | with_reducible apply State.ownerResetHome_sound
    | with_reducible refine sound_ite (fun _ => ?_) (fun _ => ?_)
    | with_reducible refine sound_foldl (fun _ _ _ => ?_) ?_

theorem State.reportLeak_sound (s : State) (task : Nat) (o : Obj) (hs : Sound Q s) (hw : sub 35184372088836 Q.w = true) :
    Sound Q (State.reportLeak s task o) := by
  unfold State.reportLeak
  repeat' first
    | with_reducible assumption
    | with_reducible exact sub_trans (by decide) hw
    | with_reducible apply State.setReg_sound
    | with_reducible apply State.raiseVec_sound
    | with_reducible apply State.count32_sound
    | with_reducible refine sound_ite (fun _ => ?_) (fun _ => ?_)

theorem State.disown_sound (s : State) (task : Nat) (a2 : Obj) (hs : Sound Q s) (hw : sub 2048 Q.w = true) :
    Sound Q (State.disown s task a2) := by
  unfold State.disown
  repeat' first
    | with_reducible assumption
    | with_reducible exact sub_trans (by decide) hw
    | with_reducible apply State.setCtr_sound
    | with_reducible apply State.setBead_sound
    | with_reducible refine sound_ite (fun _ => ?_) (fun _ => ?_)
    | with_reducible refine sound_foldl (fun _ _ _ => ?_) ?_
    | with_reducible refine sound_foldl_snd (fun _ _ _ => ?_) ?_
    | with_reducible refine sound_foldl_fst (fun _ _ _ => ?_) ?_
    | with_reducible refine sound_foldl_snd2 (fun _ _ _ => ?_) ?_
    | with_reducible refine sound_snd_of (by assumption) ?_
    | with_reducible refine sound_snd2_of (by assumption) ?_
    | with_reducible refine sound_fst_of (by assumption) ?_
    | simp only []
    | split

theorem State.leakCheck_sound (s : State) (c : Nat) (hs : Sound Q s) (hw : sub 35184372091908 Q.w = true) :
    Sound Q (State.leakCheck s c) := by
  unfold State.leakCheck
  repeat' first
    | with_reducible assumption
    | with_reducible exact sub_trans (by decide) hw
    | with_reducible apply State.modCore_sound
    | with_reducible apply State.disown_sound
    | with_reducible apply State.reportLeak_sound
    | with_reducible refine sound_ite (fun _ => ?_) (fun _ => ?_)
    | with_reducible refine sound_foldl (fun _ _ _ => ?_) ?_

theorem State.setFg_sound (s : State) (n : Nat) (f : FgChanState) (hs : Sound Q s) (hw : sub 4096 Q.w = true) :
    Sound Q (State.setFg s n f) := by
  unfold State.setFg
  repeat' first
    | with_reducible assumption
    | with_reducible exact sub_trans (by decide) hw
    | with_reducible refine sound_ite (fun _ => ?_) (fun _ => ?_)
    | with_reducible refine sound_foldl (fun _ _ _ => ?_) ?_
    | with_reducible refine sound_foldl_snd (fun _ _ _ => ?_) ?_
    | with_reducible refine sound_foldl_fst (fun _ _ _ => ?_) ?_
    | with_reducible refine sound_foldl_snd2 (fun _ _ _ => ?_) ?_
    | with_reducible refine sound_snd_of (by assumption) ?_
    | with_reducible refine sound_snd2_of (by assumption) ?_
    | with_reducible refine sound_fst_of (by assumption) ?_
    | simp only [sound_set_fg (sub_trans (by decide) hw)]

theorem State.fgArrive_sound (s : State) (n : Nat) (c : Nat) (hs : Sound Q s) (hw : sub 5120 Q.w = true) :
    Sound Q (State.fgArrive s n c) := by
  unfold State.fgArrive
  repeat' first
    | with_reducible assumption
    | with_reducible exact sub_trans (by decide) hw
    | with_reducible apply State.modCore_sound
    | with_reducible apply State.setFg_sound
    | with_reducible refine sound_ite (fun _ => ?_) (fun _ => ?_)

theorem State.fgEnqueue_sound (s : State) (n : Nat) (c : Nat) (rd : XReg) (mode : Nat) (hs : Sound Q s) (hw : sub 5120 Q.w = true) :
    ISound Q (State.fgEnqueue s n c rd mode) := by
  unfold State.fgEnqueue
  repeat' first
    | with_reducible assumption
    | with_reducible exact sub_trans (by decide) hw
    | with_reducible apply ISound.done
    | with_reducible apply ISound.jump
    | with_reducible apply ISound.trap
    | with_reducible apply ISound.stall
    | with_reducible apply State.modCore_sound
    | with_reducible apply State.setFg_sound

theorem fgArriveInstr_sound (c : Nat) (n : Nat) (rd : XReg) (sync : Bool) (s : State) (hs : Sound Q s) (hw : sub 5120 Q.w = true) :
    ISound Q (fgArriveInstr c n rd sync s) := by
  unfold fgArriveInstr
  repeat' first
    | with_reducible assumption
    | with_reducible exact sub_trans (by decide) hw
    | with_reducible apply State.fgEnqueue_sound
    | with_reducible apply ISound.done
    | with_reducible apply ISound.jump
    | with_reducible apply ISound.trap
    | with_reducible apply ISound.stall
    | with_reducible apply State.setXn_sound
    | with_reducible apply State.fgArrive_sound
    | with_reducible refine pred_ite (P := ISound Q) (fun _ => ?_) (fun _ => ?_)

theorem fgWaitInstr_sound (c : Nat) (n : Nat) (rd : XReg) (s : State) (hs : Sound Q s) (hw : sub 5120 Q.w = true) :
    ISound Q (fgWaitInstr c n rd s) := by
  unfold fgWaitInstr
  repeat' first
    | with_reducible assumption
    | with_reducible exact sub_trans (by decide) hw
    | with_reducible apply State.fgEnqueue_sound
    | with_reducible apply ISound.done
    | with_reducible apply ISound.jump
    | with_reducible apply ISound.trap
    | with_reducible apply ISound.stall
    | with_reducible apply State.modCore_sound
    | with_reducible apply State.setXn_sound
    | with_reducible refine pred_ite (P := ISound Q) (fun _ => ?_) (fun _ => ?_)
    | with_reducible refine sound_ite (fun _ => ?_) (fun _ => ?_)
    | with_reducible refine sound_foldl (fun _ _ _ => ?_) ?_
    | with_reducible refine isound_trap (by assumption) ?_
    | with_reducible refine isound_stall (by assumption) ?_
    | with_reducible refine sound_foldl_snd (fun _ _ _ => ?_) ?_
    | with_reducible refine sound_foldl_fst (fun _ _ _ => ?_) ?_
    | with_reducible refine sound_foldl_snd2 (fun _ _ _ => ?_) ?_
    | with_reducible refine sound_snd_of (by assumption) ?_
    | with_reducible refine sound_snd2_of (by assumption) ?_
    | with_reducible refine sound_fst_of (by assumption) ?_
    | simp only []
    | split

theorem filInstr_sound (c : Nat) (fn : FilFn) (rd : XReg) (rs1 : XReg) (s : State) (hs : Sound Q s) (hw : sub 5120 Q.w = true) :
    ISound Q (filInstr c fn rd rs1 s) := by
  unfold filInstr
  repeat' first
    | with_reducible assumption
    | with_reducible exact sub_trans (by decide) hw
    | with_reducible apply fgWaitInstr_sound
    | with_reducible apply fgArriveInstr_sound
    | with_reducible apply ISound.done
    | with_reducible apply ISound.jump
    | with_reducible apply ISound.trap
    | with_reducible apply ISound.stall
    | with_reducible refine pred_ite (P := ISound Q) (fun _ => ?_) (fun _ => ?_)
    | with_reducible refine sound_ite (fun _ => ?_) (fun _ => ?_)
    | with_reducible refine sound_foldl (fun _ _ _ => ?_) ?_
    | with_reducible refine isound_trap (by assumption) ?_
    | with_reducible refine isound_stall (by assumption) ?_
    | with_reducible refine sound_foldl_snd (fun _ _ _ => ?_) ?_
    | with_reducible refine sound_foldl_fst (fun _ _ _ => ?_) ?_
    | with_reducible refine sound_foldl_snd2 (fun _ _ _ => ?_) ?_
    | with_reducible refine sound_snd_of (by assumption) ?_
    | with_reducible refine sound_snd2_of (by assumption) ?_
    | with_reducible refine sound_fst_of (by assumption) ?_
    | simp only []
    | split

theorem State.fgWake_sound (s : State) (c : Nat) (rd : Nat) (v : Nat) (hs : Sound Q s) (hw : sub 1028 Q.w = true) :
    Sound Q (State.fgWake s c rd v) := by
  unfold State.fgWake
  repeat' first
    | with_reducible assumption
    | with_reducible exact sub_trans (by decide) hw
    | with_reducible apply State.retire_sound
    | with_reducible apply State.modCore_sound

theorem State.fgServe_sound (s : State) (n : Nat) (hs : Sound Q s) (hw : sub 5124 Q.w = true) :
    Sound Q (State.fgServe s n) := by
  unfold State.fgServe
  repeat' first
    | with_reducible assumption
    | with_reducible exact sub_trans (by decide) hw
    | with_reducible apply State.modCore_sound
    | with_reducible apply State.fgWake_sound
    | with_reducible apply State.fgArrive_sound
    | with_reducible apply State.setFg_sound
    | with_reducible refine sound_ite (fun _ => ?_) (fun _ => ?_)
    | with_reducible refine sound_foldl (fun _ _ _ => ?_) ?_

theorem State.fgFail_sound (s : State) (n : Nat) (hs : Sound Q s) (hw : sub 5124 Q.w = true) :
    Sound Q (State.fgFail s n) := by
  unfold State.fgFail
  repeat' first
    | with_reducible assumption
    | with_reducible exact sub_trans (by decide) hw
    | with_reducible apply State.modCore_sound
    | with_reducible apply State.fgWake_sound
    | with_reducible apply State.setFg_sound
    | with_reducible refine sound_ite (fun _ => ?_) (fun _ => ?_)
    | with_reducible refine sound_foldl (fun _ _ _ => ?_) ?_
    | with_reducible refine sound_foldl_snd (fun _ _ _ => ?_) ?_
    | with_reducible refine sound_foldl_fst (fun _ _ _ => ?_) ?_
    | with_reducible refine sound_foldl_snd2 (fun _ _ _ => ?_) ?_
    | with_reducible refine sound_snd_of (by assumption) ?_
    | with_reducible refine sound_snd2_of (by assumption) ?_
    | with_reducible refine sound_fst_of (by assumption) ?_
    | simp only [sound_set_cores (sub_trans (by decide) hw)]

theorem State.fgBreak_sound (s : State) (n : Nat) (hs : Sound Q s) (hw : sub 5124 Q.w = true) :
    Sound Q (State.fgBreak s n) := by
  unfold State.fgBreak
  repeat' first
    | with_reducible assumption
    | with_reducible exact sub_trans (by decide) hw
    | with_reducible apply State.setReg_sound
    | with_reducible apply State.fgFail_sound
    | with_reducible apply State.setFg_sound

theorem State.fgBreakCore_sound (s : State) (c : Nat) (hs : Sound Q s) (hw : sub 5124 Q.w = true) :
    Sound Q (State.fgBreakCore s c) := by
  unfold State.fgBreakCore
  repeat' first
    | with_reducible assumption
    | with_reducible exact sub_trans (by decide) hw
    | with_reducible apply State.fgBreak_sound
    | with_reducible refine sound_ite (fun _ => ?_) (fun _ => ?_)
    | with_reducible refine sound_foldl (fun _ _ _ => ?_) ?_

theorem State.fgBreakStack_sound (s : State) (x : Nat) (hs : Sound Q s) (hw : sub 5124 Q.w = true) :
    Sound Q (State.fgBreakStack s x) := by
  unfold State.fgBreakStack
  repeat' first
    | with_reducible assumption
    | with_reducible exact sub_trans (by decide) hw
    | with_reducible apply State.fgBreak_sound
    | with_reducible refine sound_ite (fun _ => ?_) (fun _ => ?_)
    | with_reducible refine sound_foldl (fun _ _ _ => ?_) ?_

theorem State.hangReport_sound (s : State) (h : Nat) (o : Nat) (kind : Nat) (core : Nat) (hs : Sound Q s) (hw : sub 35184372088836 Q.w = true) :
    Sound Q (State.hangReport s h o kind core) := by
  unfold State.hangReport
  repeat' first
    | with_reducible assumption
    | with_reducible exact sub_trans (by decide) hw
    | with_reducible apply State.setReg_sound
    | with_reducible apply State.raiseVec_sound
    | with_reducible apply State.count32_sound
    | with_reducible refine sound_ite (fun _ => ?_) (fun _ => ?_)

theorem State.hangCore_sound (s : State) (c : Nat) (hs : Sound Q s) (hw : sub 35184372089860 Q.w = true) :
    Sound Q (State.hangCore s c) := by
  unfold State.hangCore
  repeat' first
    | with_reducible assumption
    | with_reducible exact sub_trans (by decide) hw
    | with_reducible apply State.modCore_sound
    | with_reducible apply State.hangReport_sound
    | with_reducible refine sound_ite (fun _ => ?_) (fun _ => ?_)
    | with_reducible refine sound_foldl (fun _ _ _ => ?_) ?_
    | with_reducible refine sound_foldl_snd (fun _ _ _ => ?_) ?_
    | with_reducible refine sound_foldl_fst (fun _ _ _ => ?_) ?_
    | with_reducible refine sound_foldl_snd2 (fun _ _ _ => ?_) ?_
    | with_reducible refine sound_snd_of (by assumption) ?_
    | with_reducible refine sound_snd2_of (by assumption) ?_
    | with_reducible refine sound_fst_of (by assumption) ?_
    | simp only []
    | split

theorem dbgSet_sound (s : State) (h : Nat) (v : Nat) (hs : Sound Q s) (hw : sub 35184372091908 Q.w = true) :
    Sound Q (dbgSet s h v) := by
  unfold dbgSet
  repeat' first
    | with_reducible assumption
    | with_reducible exact sub_trans (by decide) hw
    | with_reducible apply State.releaseCtr_sound
    | with_reducible apply State.setCtr_sound
    | with_reducible apply State.refuse_sound
    | with_reducible apply State.setBead_sound
    | with_reducible apply State.beadSettled_sound
    | with_reducible apply State.poisonWaiters_sound
    | with_reducible refine sound_ite (fun _ => ?_) (fun _ => ?_)

end Sys2Proof.Machine
end

