-- ==== Sys2Proof/Laws/SoundIssue.lean ====
section
/-! SUPPORT. Laws/SoundIssue.lean: the operations of Machine/Issue.lean keep the waiting commands and the canonical form of both
memories. -/

namespace Sys2Proof.Machine

open Sys2Proof

variable {Q : Frame}

theorem withEntries_sound (s : State) (c : Nat) (va : Nat) (n : Nat) (f : List Byte → State → IRes) (hs : Sound Q s) (hf : ∀ x s, Sound Q s → ISound Q (f x s)) (hw : sub 598160113274621 Q.w = true) :
    ISound Q (withEntries s c va n f) := by
  unfold withEntries
  repeat' first
    | with_reducible assumption
    | with_reducible exact sub_trans (by decide) hw
    | with_reducible apply withMem_sound
    | with_reducible apply ISound.done
    | with_reducible apply ISound.jump
    | with_reducible apply ISound.trap
    | with_reducible apply ISound.stall
    | with_reducible apply State.coreReadAll_sound
    | with_reducible refine pred_ite (P := ISound Q) (fun _ => ?_) (fun _ => ?_)
    | with_reducible apply hf
    | with_reducible refine sound_ite (fun _ => ?_) (fun _ => ?_)
    | with_reducible refine sound_foldl (fun _ _ _ => ?_) ?_
    | with_reducible refine isound_trap (by assumption) ?_
    | with_reducible refine isound_stall (by assumption) ?_
    | with_reducible refine sound_foldl_snd (fun _ _ _ => ?_) ?_
    | with_reducible refine sound_foldl_fst (fun _ _ _ => ?_) ?_
    | with_reducible refine sound_foldl_snd2 (fun _ _ _ => ?_) ?_
    | with_reducible refine sound_snd_of (by assumption) ?_
    | with_reducible refine sound_snd2_of (by assumption) ?_
    | with_reducible refine sound_fst_of (by assumption) ?_
    | simp only []
    | split
    | intro _

theorem issueStall_sound (s : State) (c : Nat) (l : List Byte) (hs : Sound Q s) (hw : sub 1024 Q.w = true) :
    ISound Q (issueStall s c l) := by
  unfold issueStall
  repeat' first
    | with_reducible assumption
    | with_reducible exact sub_trans (by decide) hw
    | with_reducible apply ISound.done
    | with_reducible apply ISound.jump
    | with_reducible apply ISound.trap
    | with_reducible apply ISound.stall
    | with_reducible apply State.modCore_sound

theorem issuePlaced_sound (s : State) (c : Nat) (left : Nat) (tag : Nat) (l : List Byte) (ok : State → IRes) (hs : Sound Q s) (hok : ∀ s, Sound Q s → ISound Q (ok s)) (hw : sub 1024 Q.w = true) :
    ISound Q (issuePlaced s c left tag l ok) := by
  unfold issuePlaced
  repeat' first
    | with_reducible assumption
    | with_reducible exact sub_trans (by decide) hw
    | with_reducible apply ISound.done
    | with_reducible apply ISound.jump
    | with_reducible apply ISound.trap
    | with_reducible apply ISound.stall
    | with_reducible apply State.modCore_sound
    | with_reducible refine pred_ite (P := ISound Q) (fun _ => ?_) (fun _ => ?_)
    | with_reducible apply hok

theorem issueEnd_sound (s : State) (c : Nat) (rd : XReg) (v : Nat) (hs : Sound Q s) (hw : sub 1024 Q.w = true) :
    ISound Q (issueEnd s c rd v) := by
  unfold issueEnd
  repeat' first
    | with_reducible assumption
    | with_reducible exact sub_trans (by decide) hw
    | with_reducible apply ISound.done
    | with_reducible apply ISound.jump
    | with_reducible apply ISound.trap
    | with_reducible apply ISound.stall
    | with_reducible apply State.modCore_sound
    | with_reducible apply State.setXn_sound

theorem sciInstr_sound (c : Nat) (blocking : Bool) (rd : XReg) (rs1 : XReg) (rs2 : XReg) (s : State) (hs : Sound Q s) (hw : sub 598160192966397 Q.w = true) :
    ISound Q (sciInstr c blocking rd rs1 rs2 s) := by
  unfold sciInstr
  repeat' first
    | with_reducible assumption
    | with_reducible exact sub_trans (by decide) hw
    | with_reducible apply withEntries_sound
    | with_reducible apply issueStall_sound
    | with_reducible apply issuePlaced_sound
    | with_reducible apply issueEnd_sound
    | with_reducible apply ISound.done
    | with_reducible apply ISound.jump
    | with_reducible apply ISound.trap
    | with_reducible apply ISound.stall
    | with_reducible apply State.setXn_sound
    | with_reducible apply State.feedCmd_sound
    | with_reducible apply State.issueCmd_sound
    | with_reducible apply State.count64_sound
    | with_reducible refine pred_ite (P := ISound Q) (fun _ => ?_) (fun _ => ?_)
    | with_reducible refine sound_ite (fun _ => ?_) (fun _ => ?_)
    | with_reducible refine sound_foldl (fun _ _ _ => ?_) ?_
    | with_reducible refine isound_trap (by assumption) ?_
    | with_reducible refine isound_stall (by assumption) ?_
    | with_reducible refine sound_foldl_snd (fun _ _ _ => ?_) ?_
    | with_reducible refine sound_foldl_fst (fun _ _ _ => ?_) ?_
    | with_reducible refine sound_foldl_snd2 (fun _ _ _ => ?_) ?_
    | with_reducible refine sound_snd_of (by assumption) ?_
    | with_reducible refine sound_snd2_of (by assumption) ?_
    | with_reducible refine sound_fst_of (by assumption) ?_
    | simp only []
    | split
    | intro _

theorem State.putDescs_sound (s : State) (e : Nat) (addr : Nat) (prio7 : Bool) (a4 : List (List Byte)) (hs : Sound Q s) (hw : sub 8192 Q.w = true) :
    Sound Q (State.putDescs s e addr prio7 a4) := by
  fun_induction State.putDescs s e addr prio7 a4
  all_goals
    repeat' first
      | with_reducible assumption
      | with_reducible exact sub_trans (by decide) hw
      | with_reducible apply State.setSeng_sound
      | with_reducible refine sound_ite (fun _ => ?_) (fun _ => ?_)
      | with_reducible refine sound_foldl (fun _ _ _ => ?_) ?_
      | with_reducible refine sound_foldl_snd (fun _ _ _ => ?_) ?_
      | with_reducible refine sound_foldl_fst (fun _ _ _ => ?_) ?_
      | with_reducible refine sound_foldl_snd2 (fun _ _ _ => ?_) ?_
      | with_reducible refine sound_snd_of (by assumption) ?_
      | with_reducible refine sound_snd2_of (by assumption) ?_
      | with_reducible refine sound_fst_of (by assumption) ?_
      | simp only []
      | split
      | intro _
      | with_reducible apply_assumption

theorem stiInstr_sound (c : Nat) (blocking : Bool) (rd : XReg) (rs1 : XReg) (rs2 : XReg) (s : State) (hs : Sound Q s) (hw : sub 598160113282813 Q.w = true) :
    ISound Q (stiInstr c blocking rd rs1 rs2 s) := by
  unfold stiInstr
  repeat' first
    | with_reducible assumption
    | with_reducible exact sub_trans (by decide) hw
    | with_reducible apply withEntries_sound
    | with_reducible apply issueStall_sound
    | with_reducible apply issuePlaced_sound
    | with_reducible apply issueEnd_sound
    | with_reducible apply ISound.done
    | with_reducible apply ISound.jump
    | with_reducible apply ISound.trap
    | with_reducible apply ISound.stall
    | with_reducible apply State.setSeng_sound
    | with_reducible apply State.setXn_sound
    | with_reducible apply State.putDescs_sound
    | with_reducible refine pred_ite (P := ISound Q) (fun _ => ?_) (fun _ => ?_)
    | with_reducible refine sound_ite (fun _ => ?_) (fun _ => ?_)
    | with_reducible refine sound_foldl (fun _ _ _ => ?_) ?_
    | with_reducible refine isound_trap (by assumption) ?_
    | with_reducible refine isound_stall (by assumption) ?_
    | with_reducible refine sound_foldl_snd (fun _ _ _ => ?_) ?_
    | with_reducible refine sound_foldl_fst (fun _ _ _ => ?_) ?_
    | with_reducible refine sound_foldl_snd2 (fun _ _ _ => ?_) ?_
    | with_reducible refine sound_snd_of (by assumption) ?_
    | with_reducible refine sound_snd2_of (by assumption) ?_
    | with_reducible refine sound_fst_of (by assumption) ?_
    | simp only []
    | split
    | intro _

theorem wendInstr_sound (c : Nat) (s0 : State) (hs0 : Sound Q s0) (hw : sub 35184372091908 Q.w = true) :
    ISound Q (wendInstr c s0) := by
  unfold wendInstr
  repeat' first
    | with_reducible assumption
    | with_reducible exact sub_trans (by decide) hw
    | with_reducible apply ISound.done
    | with_reducible apply ISound.jump
    | with_reducible apply ISound.trap
    | with_reducible apply ISound.stall
    | with_reducible apply State.modCore_sound
    | with_reducible apply State.drain_sound
    | with_reducible apply State.leakCheck_sound
    | with_reducible apply State.count64_sound
    | with_reducible refine pred_ite (P := ISound Q) (fun _ => ?_) (fun _ => ?_)
    | with_reducible refine sound_ite (fun _ => ?_) (fun _ => ?_)
    | with_reducible refine sound_foldl (fun _ _ _ => ?_) ?_
    | with_reducible refine sound_foldl_snd (fun _ _ _ => ?_) ?_
    | with_reducible refine sound_foldl_fst (fun _ _ _ => ?_) ?_
    | with_reducible refine sound_foldl_snd2 (fun _ _ _ => ?_) ?_
    | with_reducible refine sound_snd_of (by assumption) ?_
    | with_reducible refine sound_snd2_of (by assumption) ?_
    | with_reducible refine sound_fst_of (by assumption) ?_
    | simp only []
    | split

theorem State.startOp_sound (s : State) (c : Nat) (op : OpRef) (hs : Sound Q s) (hw : sub 1025 Q.w = true) :
    Sound Q (State.startOp s c op) := by
  unfold State.startOp
  repeat' first
    | with_reducible assumption
    | with_reducible exact sub_trans (by decide) hw
    | with_reducible apply State.modCore_sound
    | with_reducible refine sound_ite (fun _ => ?_) (fun _ => ?_)
    | with_reducible refine sound_foldl (fun _ _ _ => ?_) ?_
    | with_reducible refine sound_foldl_snd (fun _ _ _ => ?_) ?_
    | with_reducible refine sound_foldl_fst (fun _ _ _ => ?_) ?_
    | with_reducible refine sound_foldl_snd2 (fun _ _ _ => ?_) ?_
    | with_reducible refine sound_snd_of (by assumption) ?_
    | with_reducible refine sound_snd2_of (by assumption) ?_
    | with_reducible refine sound_fst_of (by assumption) ?_
    | simp only [sound_set_free (sub_trans (by decide) hw)]

theorem State.withdraw_sound (s : State) (c : Nat) (hs : Sound Q s) (hw : sub 7168 Q.w = true) :
    Sound Q (State.withdraw s c) := by
  unfold State.withdraw
  repeat' first
    | with_reducible assumption
    | with_reducible exact sub_trans (by decide) hw
    | with_reducible apply State.modCore_sound
    | with_reducible refine sound_ite (fun _ => ?_) (fun _ => ?_)
    | with_reducible refine sound_foldl (fun _ _ _ => ?_) ?_
    | with_reducible refine sound_foldl_snd (fun _ _ _ => ?_) ?_
    | with_reducible refine sound_foldl_fst (fun _ _ _ => ?_) ?_
    | with_reducible refine sound_foldl_snd2 (fun _ _ _ => ?_) ?_
    | with_reducible refine sound_snd_of (by assumption) ?_
    | with_reducible refine sound_snd2_of (by assumption) ?_
    | with_reducible refine sound_fst_of (by assumption) ?_
    | simp only [sound_set_homes_fg (sub_trans (by decide) hw)]

theorem State.restartCore_sound (s : State) (c : Nat) (hs : Sound Q s) (hw : sub 1024 Q.w = true) :
    Sound Q (State.restartCore s c) := by
  unfold State.restartCore
  repeat' first
    | with_reducible assumption
    | with_reducible exact sub_trans (by decide) hw
    | with_reducible apply State.modCore_sound

theorem State.resetCore_sound (s : State) (c : Nat) (hs : Sound Q s) (hw : sub 335559684 Q.w = true) :
    Sound Q (State.resetCore s c) := by
  unfold State.resetCore
  repeat' first
    | with_reducible assumption
    | with_reducible exact sub_trans (by decide) hw
    | with_reducible apply State.setReg_sound
    | with_reducible apply State.fgBreakCore_sound
    | with_reducible apply State.restartCore_sound
    | with_reducible apply State.ownerReset_sound
    | with_reducible apply State.withdraw_sound
    | with_reducible apply State.setCore_sound
    | with_reducible apply State.sourceReset_sound
    | with_reducible refine sound_ite (fun _ => ?_) (fun _ => ?_)
    | with_reducible refine sound_foldl (fun _ _ _ => ?_) ?_
    | with_reducible refine sound_foldl_snd (fun _ _ _ => ?_) ?_
    | with_reducible refine sound_foldl_fst (fun _ _ _ => ?_) ?_
    | with_reducible refine sound_foldl_snd2 (fun _ _ _ => ?_) ?_
    | with_reducible refine sound_snd_of (by assumption) ?_
    | with_reducible refine sound_snd2_of (by assumption) ?_
    | with_reducible refine sound_fst_of (by assumption) ?_
    | simp only [sound_set_sengs (sub_trans (by decide) hw)]

theorem coreEnable_sound (s : State) (c : Nat) (en : Bool) (hs : Sound Q s) (hw : sub 35184372096004 Q.w = true) :
    Sound Q (coreEnable s c en) := by
  unfold coreEnable
  repeat' first
    | with_reducible assumption
    | with_reducible exact sub_trans (by decide) hw
    | with_reducible apply State.fgBreakCore_sound
    | with_reducible apply State.restartCore_sound
    | with_reducible apply State.refuse_sound
    | with_reducible apply State.withdraw_sound
    | with_reducible apply State.setEn_sound
    | with_reducible refine sound_ite (fun _ => ?_) (fun _ => ?_)

theorem dbgCtl_sound (s : State) (c : Nat) (f : Core → Core) (hs : Sound Q s) (hw : sub 35184372089860 Q.w = true) :
    Sound Q (dbgCtl s c f) := by
  unfold dbgCtl
  repeat' first
    | with_reducible assumption
    | with_reducible exact sub_trans (by decide) hw
    | with_reducible apply State.modCore_sound
    | with_reducible apply State.refuse_sound
    | with_reducible refine sound_ite (fun _ => ?_) (fun _ => ?_)

end Sys2Proof.Machine
end

