-- ==== Sys2Proof/Laws/SoundSched.lean ====
section
/-! SUPPORT. Laws/SoundSched.lean: the operations of Machine/Sched.lean keep the waiting commands and the canonical form of both
memories. -/

namespace Sys2Proof.Machine

open Sys2Proof

variable {Q : Frame}

theorem State.vaRead_sound (s : State) (ag : Nat) (va : Nat) (n : Nat) (hs : Sound Q s) (hw : sub 598160113273597 Q.w = true) :
    Sound Q (State.vaRead s ag va n).2 := by
  unfold State.vaRead
  repeat' first
    | with_reducible assumption
    | with_reducible exact sub_trans (by decide) hw
    | with_reducible apply State.xlateRange_sound
    | with_reducible apply State.meetPieces_sound
    | with_reducible refine sound_ite (fun _ => ?_) (fun _ => ?_)
    | with_reducible refine sound_foldl (fun _ _ _ => ?_) ?_
    | with_reducible refine sound_foldl_snd (fun _ _ _ => ?_) ?_
    | with_reducible refine sound_foldl_fst (fun _ _ _ => ?_) ?_
    | with_reducible refine sound_foldl_snd2 (fun _ _ _ => ?_) ?_
    | with_reducible refine sound_snd_of (by assumption) ?_
    | with_reducible refine sound_snd2_of (by assumption) ?_
    | with_reducible refine sound_fst_of (by assumption) ?_
    | simp only []
    | split

theorem State.vaWrite_sound (s : State) (ag : Nat) (va : Nat) (l : List Byte) (hs : Sound Q s) (hw : sub 598160113273597 Q.w = true) :
    Sound Q (State.vaWrite s ag va l) := by
  unfold State.vaWrite
  repeat' first
    | with_reducible assumption
    | with_reducible exact sub_trans (by decide) hw
    | with_reducible apply State.writeDest_sound
    | with_reducible apply State.xlateRange_sound
    | with_reducible refine sound_ite (fun _ => ?_) (fun _ => ?_)
    | with_reducible refine sound_foldl (fun _ _ _ => ?_) ?_
    | with_reducible refine sound_foldl_snd (fun _ _ _ => ?_) ?_
    | with_reducible refine sound_foldl_fst (fun _ _ _ => ?_) ?_
    | with_reducible refine sound_foldl_snd2 (fun _ _ _ => ?_) ?_
    | with_reducible refine sound_snd_of (by assumption) ?_
    | with_reducible refine sound_snd2_of (by assumption) ?_
    | with_reducible refine sound_fst_of (by assumption) ?_
    | simp only []
    | split

theorem State.dispRead_sound (s : State) (h : Nat) (va : Nat) (n : Nat) (hs : Sound Q s) (hw : sub 598160113273597 Q.w = true) :
    Sound Q (State.dispRead s h va n).2 := by
  unfold State.dispRead
  repeat' first
    | with_reducible assumption
    | with_reducible exact sub_trans (by decide) hw
    | with_reducible apply State.fatal_sound
    | with_reducible apply State.vaRead_sound
    | with_reducible refine sound_ite (fun _ => ?_) (fun _ => ?_)
    | with_reducible refine sound_foldl (fun _ _ _ => ?_) ?_
    | with_reducible refine sound_foldl_snd (fun _ _ _ => ?_) ?_
    | with_reducible refine sound_foldl_fst (fun _ _ _ => ?_) ?_
    | with_reducible refine sound_foldl_snd2 (fun _ _ _ => ?_) ?_
    | with_reducible refine sound_snd_of (by assumption) ?_
    | with_reducible refine sound_snd2_of (by assumption) ?_
    | with_reducible refine sound_fst_of (by assumption) ?_
    | simp only []
    | split

theorem State.opRef_sound (s : State) (h : Nat) (gid : Nat) (g : Graph) (i : Nat) (hs : Sound Q s) (hw : sub 598160113273597 Q.w = true) :
    Sound Q (State.opRef s h gid g i).2 := by
  unfold State.opRef
  repeat' first
    | with_reducible assumption
    | with_reducible exact sub_trans (by decide) hw
    | with_reducible apply State.dispRead_sound
    | with_reducible refine sound_ite (fun _ => ?_) (fun _ => ?_)
    | with_reducible refine sound_foldl (fun _ _ _ => ?_) ?_
    | with_reducible refine sound_foldl_snd (fun _ _ _ => ?_) ?_
    | with_reducible refine sound_foldl_fst (fun _ _ _ => ?_) ?_
    | with_reducible refine sound_foldl_snd2 (fun _ _ _ => ?_) ?_
    | with_reducible refine sound_snd_of (by assumption) ?_
    | with_reducible refine sound_snd2_of (by assumption) ?_
    | with_reducible refine sound_fst_of (by assumption) ?_
    | simp only []
    | split

theorem State.absorb_sound (s : State) (h : Nat) (hs : Sound Q s) (hw : sub 2048 Q.w = true) :
    Sound Q (State.absorb s h) := by
  unfold State.absorb
  repeat' first
    | with_reducible assumption
    | with_reducible exact sub_trans (by decide) hw
    | with_reducible apply State.modHome_sound

theorem State.post_sound (s : State) (h : Nat) (m : SchMsg) (hs : Sound Q s) (hw : sub 2052 Q.w = true) :
    Sound Q (State.post s h m).2 := by
  unfold State.post
  repeat' first
    | with_reducible assumption
    | with_reducible exact sub_trans (by decide) hw
    | with_reducible apply State.absorb_sound
    | with_reducible apply State.modHome_sound
    | with_reducible apply State.count32_sound
    | with_reducible refine sound_ite (fun _ => ?_) (fun _ => ?_)
    | with_reducible refine sound_foldl (fun _ _ _ => ?_) ?_
    | with_reducible refine sound_foldl_snd (fun _ _ _ => ?_) ?_
    | with_reducible refine sound_foldl_fst (fun _ _ _ => ?_) ?_
    | with_reducible refine sound_foldl_snd2 (fun _ _ _ => ?_) ?_
    | with_reducible refine sound_snd_of (by assumption) ?_
    | with_reducible refine sound_snd2_of (by assumption) ?_
    | with_reducible refine sound_fst_of (by assumption) ?_
    | simp only []
    | split

theorem State.countInbox_sound (s : State) (to_ : Nat) (counted : Bool) (hs : Sound Q s) (hw : sub 4 Q.w = true) :
    Sound Q (State.countInbox s to_ counted) := by
  unfold State.countInbox
  repeat' first
    | with_reducible assumption
    | with_reducible exact sub_trans (by decide) hw
    | with_reducible apply State.count32_sound
    | with_reducible refine sound_ite (fun _ => ?_) (fun _ => ?_)

theorem State.holdMsg_sound (s : State) (h : Nat) (to_ : Nat) (m : SchMsg) (hs : Sound Q s) (hw : sub 2052 Q.w = true) :
    Sound Q (State.holdMsg s h to_ m) := by
  unfold State.holdMsg
  repeat' first
    | with_reducible assumption
    | with_reducible exact sub_trans (by decide) hw
    | with_reducible apply State.modHome_sound
    | with_reducible apply State.countInbox_sound

theorem State.sendMsg_sound (s : State) (h : Nat) (to_ : Nat) (m : SchMsg) (hs : Sound Q s) (hw : sub 2052 Q.w = true) :
    Sound Q (State.sendMsg s h to_ m) := by
  unfold State.sendMsg
  repeat' first
    | with_reducible assumption
    | with_reducible exact sub_trans (by decide) hw
    | with_reducible apply State.post_sound
    | with_reducible apply State.holdMsg_sound
    | with_reducible refine sound_ite (fun _ => ?_) (fun _ => ?_)

theorem State.sendHeld_sound (s : State) (h : Nat) (a2 : Nat) (hs : Sound Q s) (hw : sub 2052 Q.w = true) :
    Sound Q (State.sendHeld s h a2) := by
  fun_induction State.sendHeld s h a2
  all_goals
    repeat' first
      | with_reducible assumption
      | with_reducible exact sub_trans (by decide) hw
      | with_reducible apply State.post_sound
      | with_reducible apply State.modHome_sound
      | with_reducible apply State.countInbox_sound
      | with_reducible refine sound_ite (fun _ => ?_) (fun _ => ?_)
      | with_reducible refine sound_foldl (fun _ _ _ => ?_) ?_
      | with_reducible refine sound_foldl_snd (fun _ _ _ => ?_) ?_
      | with_reducible refine sound_foldl_fst (fun _ _ _ => ?_) ?_
      | with_reducible refine sound_foldl_snd2 (fun _ _ _ => ?_) ?_
      | with_reducible refine sound_snd_of (by assumption) ?_
      | with_reducible refine sound_snd2_of (by assumption) ?_
      | with_reducible refine sound_fst_of (by assumption) ?_
      | simp only []
      | split
      | intro _
      | with_reducible apply_assumption

theorem State.placeReady_sound (s : State) (h : Nat) (gid : Nat) (i : Nat) (hs : Sound Q s) (hw : sub 598160113273597 Q.w = true) :
    Sound Q (State.placeReady s h gid i) := by
  unfold State.placeReady
  repeat' first
    | with_reducible assumption
    | with_reducible exact sub_trans (by decide) hw
    | with_reducible apply State.opRef_sound
    | with_reducible apply State.dispRead_sound
    | with_reducible apply State.sendMsg_sound
    | with_reducible refine sound_ite (fun _ => ?_) (fun _ => ?_)
    | with_reducible refine sound_foldl (fun _ _ _ => ?_) ?_
    | with_reducible refine sound_foldl_snd (fun _ _ _ => ?_) ?_
    | with_reducible refine sound_foldl_fst (fun _ _ _ => ?_) ?_
    | with_reducible refine sound_foldl_snd2 (fun _ _ _ => ?_) ?_
    | with_reducible refine sound_snd_of (by assumption) ?_
    | with_reducible refine sound_snd2_of (by assumption) ?_
    | with_reducible refine sound_fst_of (by assumption) ?_
    | simp only []
    | split

theorem State.graphBad_sound (s : State) (gid : Nat) (status : Nat) (reason : Nat) (hs : Sound Q s) (hw : sub 16384 Q.w = true) :
    Sound Q (State.graphBad s gid status reason) := by
  unfold State.graphBad
  repeat' first
    | with_reducible assumption
    | with_reducible exact sub_trans (by decide) hw
    | with_reducible refine sound_ite (fun _ => ?_) (fun _ => ?_)
    | with_reducible refine sound_foldl (fun _ _ _ => ?_) ?_
    | with_reducible refine sound_foldl_snd (fun _ _ _ => ?_) ?_
    | with_reducible refine sound_foldl_fst (fun _ _ _ => ?_) ?_
    | with_reducible refine sound_foldl_snd2 (fun _ _ _ => ?_) ?_
    | with_reducible refine sound_snd_of (by assumption) ?_
    | with_reducible refine sound_snd2_of (by assumption) ?_
    | with_reducible refine sound_fst_of (by assumption) ?_
    | simp only [sound_set_graphs (sub_trans (by decide) hw)]
    | split

theorem State.graphEnd_sound (s : State) (gid : Nat) (status : Nat) (reason : Nat) (hs : Sound Q s) (hw : sub 278532 Q.w = true) :
    Sound Q (State.graphEnd s gid status reason) := by
  unfold State.graphEnd
  repeat' first
    | with_reducible assumption
    | with_reducible exact sub_trans (by decide) hw
    | with_reducible apply State.hostEnd_sound
    | with_reducible refine sound_ite (fun _ => ?_) (fun _ => ?_)
    | with_reducible refine sound_foldl (fun _ _ _ => ?_) ?_
    | with_reducible refine sound_foldl_snd (fun _ _ _ => ?_) ?_
    | with_reducible refine sound_foldl_fst (fun _ _ _ => ?_) ?_
    | with_reducible refine sound_foldl_snd2 (fun _ _ _ => ?_) ?_
    | with_reducible refine sound_snd_of (by assumption) ?_
    | with_reducible refine sound_snd2_of (by assumption) ?_
    | with_reducible refine sound_fst_of (by assumption) ?_
    | simp only [sound_set_graphs (sub_trans (by decide) hw)]
    | split

theorem State.graphCount_sound (s : State) (gid : Nat) (status : Nat) (hs : Sound Q s) (hw : sub 278532 Q.w = true) :
    Sound Q (State.graphCount s gid status) := by
  unfold State.graphCount
  repeat' first
    | with_reducible assumption
    | with_reducible exact sub_trans (by decide) hw
    | with_reducible apply State.graphBad_sound
    | with_reducible apply State.graphEnd_sound
    | with_reducible refine sound_ite (fun _ => ?_) (fun _ => ?_)
    | with_reducible refine sound_foldl (fun _ _ _ => ?_) ?_
    | with_reducible refine sound_foldl_snd (fun _ _ _ => ?_) ?_
    | with_reducible refine sound_foldl_fst (fun _ _ _ => ?_) ?_
    | with_reducible refine sound_foldl_snd2 (fun _ _ _ => ?_) ?_
    | with_reducible refine sound_snd_of (by assumption) ?_
    | with_reducible refine sound_snd2_of (by assumption) ?_
    | with_reducible refine sound_fst_of (by assumption) ?_
    | simp only [sound_set_graphs (sub_trans (by decide) hw)]
    | split

theorem State.placeRoots_sound (s : State) (gid : Nat) (a2 : List Nat) (hs : Sound Q s) (hw : sub 598160113289981 Q.w = true) :
    Sound Q (State.placeRoots s gid a2) := by
  fun_induction State.placeRoots s gid a2
  all_goals
    repeat' first
      | with_reducible assumption
      | with_reducible exact sub_trans (by decide) hw
      | with_reducible apply State.post_sound
      | with_reducible apply State.opRef_sound
      | with_reducible apply State.countInbox_sound
      | with_reducible apply State.dispRead_sound
      | with_reducible refine sound_ite (fun _ => ?_) (fun _ => ?_)
      | with_reducible refine sound_foldl (fun _ _ _ => ?_) ?_
      | with_reducible refine sound_foldl_snd (fun _ _ _ => ?_) ?_
      | with_reducible refine sound_foldl_fst (fun _ _ _ => ?_) ?_
      | with_reducible refine sound_foldl_snd2 (fun _ _ _ => ?_) ?_
      | with_reducible refine sound_snd_of (by assumption) ?_
      | with_reducible refine sound_snd2_of (by assumption) ?_
      | with_reducible refine sound_fst_of (by assumption) ?_
      | simp only [sound_set_graphs (sub_trans (by decide) hw)]
      | split
      | intro _
      | with_reducible apply_assumption

theorem State.checkOps_sound (s : State) (g : Nat) (nkern : Nat) (lmask : Nat) (a4 : Nat) (a5 : Nat) (hs : Sound Q s) (hw : sub 598160113273597 Q.w = true) :
    Sound Q (State.checkOps s g nkern lmask a4 a5).2 := by
  fun_induction State.checkOps s g nkern lmask a4 a5
  all_goals
    repeat' first
      | with_reducible assumption
      | with_reducible exact sub_trans (by decide) hw
      | with_reducible apply State.fatal_sound
      | with_reducible apply State.vaRead_sound
      | with_reducible refine sound_ite (fun _ => ?_) (fun _ => ?_)
      | with_reducible refine sound_foldl (fun _ _ _ => ?_) ?_
      | with_reducible refine sound_foldl_snd (fun _ _ _ => ?_) ?_
      | with_reducible refine sound_foldl_fst (fun _ _ _ => ?_) ?_
      | with_reducible refine sound_foldl_snd2 (fun _ _ _ => ?_) ?_
      | with_reducible refine sound_snd_of (by assumption) ?_
      | with_reducible refine sound_snd2_of (by assumption) ?_
      | with_reducible refine sound_fst_of (by assumption) ?_
      | simp only []
      | split
      | intro _
      | with_reducible apply_assumption

theorem State.checkRoots_sound (s : State) (g : Nat) (nops : Nat) (a3 : List Nat) (hs : Sound Q s) (hw : sub 598160113273597 Q.w = true) :
    Sound Q (State.checkRoots s g nops a3).2 := by
  fun_induction State.checkRoots s g nops a3
  all_goals
    repeat' first
      | with_reducible assumption
      | with_reducible exact sub_trans (by decide) hw
      | with_reducible apply State.vaRead_sound
      | with_reducible refine sound_ite (fun _ => ?_) (fun _ => ?_)
      | with_reducible refine sound_foldl (fun _ _ _ => ?_) ?_
      | with_reducible refine sound_foldl_snd (fun _ _ _ => ?_) ?_
      | with_reducible refine sound_foldl_fst (fun _ _ _ => ?_) ?_
      | with_reducible refine sound_foldl_snd2 (fun _ _ _ => ?_) ?_
      | with_reducible refine sound_snd_of (by assumption) ?_
      | with_reducible refine sound_snd2_of (by assumption) ?_
      | with_reducible refine sound_fst_of (by assumption) ?_
      | simp only []
      | split
      | intro _
      | with_reducible apply_assumption

theorem State.initOps_sound (s : State) (base : Nat) (a2 : Nat) (a3 : Nat) (hs : Sound Q s) (hw : sub 598160113273597 Q.w = true) :
    Sound Q (State.initOps s base a2 a3) := by
  fun_induction State.initOps s base a2 a3
  all_goals
    repeat' first
      | with_reducible assumption
      | with_reducible exact sub_trans (by decide) hw
      | with_reducible apply State.vaRead_sound
      | with_reducible apply State.vaWrite_sound
      | with_reducible refine sound_ite (fun _ => ?_) (fun _ => ?_)
      | with_reducible refine sound_foldl (fun _ _ _ => ?_) ?_
      | with_reducible refine sound_foldl_snd (fun _ _ _ => ?_) ?_
      | with_reducible refine sound_foldl_fst (fun _ _ _ => ?_) ?_
      | with_reducible refine sound_foldl_snd2 (fun _ _ _ => ?_) ?_
      | with_reducible refine sound_snd_of (by assumption) ?_
      | with_reducible refine sound_snd2_of (by assumption) ?_
      | with_reducible refine sound_fst_of (by assumption) ?_
      | simp only []
      | split
      | intro _
      | with_reducible apply_assumption

theorem launchGraph_sound (q : Nat) (c : HCmd) (s : State) (hs : Sound Q s) (hw : sub 598160117746429 Q.w = true) :
    Sound Q (launchGraph q c s) := by
  unfold launchGraph
  repeat' first
    | with_reducible assumption
    | with_reducible exact sub_trans (by decide) hw
    | with_reducible apply State.checkOps_sound
    | with_reducible apply State.fatal_sound
    | with_reducible apply State.initOps_sound
    | with_reducible apply State.hostStart_sound
    | with_reducible apply State.vaRead_sound
    | with_reducible apply State.checkRoots_sound
    | with_reducible apply State.hostEnd_sound
    | with_reducible apply State.placeRoots_sound
    | with_reducible refine sound_ite (fun _ => ?_) (fun _ => ?_)
    | with_reducible refine sound_foldl (fun _ _ _ => ?_) ?_
    | with_reducible refine sound_foldl_snd (fun _ _ _ => ?_) ?_
    | with_reducible refine sound_foldl_fst (fun _ _ _ => ?_) ?_
    | with_reducible refine sound_foldl_snd2 (fun _ _ _ => ?_) ?_
    | with_reducible refine sound_snd_of (by assumption) ?_
    | with_reducible refine sound_snd2_of (by assumption) ?_
    | with_reducible refine sound_fst_of (by assumption) ?_
    | simp only [sound_set_serial (sub_trans (by decide) hw), sound_set_graphs (sub_trans (by decide) hw)]
    | split

theorem State.takeRelease_sound (s : State) (h : Nat) (serial : Nat) (desc : Nat) (i : Nat) (hs : Sound Q s) (hw : sub 598160113289981 Q.w = true) :
    Sound Q (State.takeRelease s h serial desc i) := by
  unfold State.takeRelease
  repeat' first
    | with_reducible assumption
    | with_reducible exact sub_trans (by decide) hw
    | with_reducible apply State.placeReady_sound
    | with_reducible apply State.graphBad_sound
    | with_reducible apply State.vaWrite_sound
    | with_reducible apply State.dispRead_sound
    | with_reducible apply State.count32_sound
    | with_reducible apply State.count64_sound
    | with_reducible refine sound_ite (fun _ => ?_) (fun _ => ?_)
    | with_reducible refine sound_foldl (fun _ _ _ => ?_) ?_
    | with_reducible refine sound_foldl_snd (fun _ _ _ => ?_) ?_
    | with_reducible refine sound_foldl_fst (fun _ _ _ => ?_) ?_
    | with_reducible refine sound_foldl_snd2 (fun _ _ _ => ?_) ?_
    | with_reducible refine sound_snd_of (by assumption) ?_
    | with_reducible refine sound_snd2_of (by assumption) ?_
    | with_reducible refine sound_fst_of (by assumption) ?_
    | simp only []
    | split

theorem State.releaseAll_sound (s : State) (h : Nat) (gid : Nat) (g : Graph) (a4 : List Nat) (hs : Sound Q s) (hw : sub 598160113289981 Q.w = true) :
    Sound Q (State.releaseAll s h gid g a4) := by
  fun_induction State.releaseAll s h gid g a4
  all_goals
    repeat' first
      | with_reducible assumption
      | with_reducible exact sub_trans (by decide) hw
      | with_reducible apply State.graphBad_sound
      | with_reducible apply State.dispRead_sound
      | with_reducible apply State.count32_sound
      | with_reducible apply State.sendMsg_sound
      | with_reducible refine sound_ite (fun _ => ?_) (fun _ => ?_)
      | with_reducible refine sound_foldl (fun _ _ _ => ?_) ?_
      | with_reducible refine sound_foldl_snd (fun _ _ _ => ?_) ?_
      | with_reducible refine sound_foldl_fst (fun _ _ _ => ?_) ?_
      | with_reducible refine sound_foldl_snd2 (fun _ _ _ => ?_) ?_
      | with_reducible refine sound_snd_of (by assumption) ?_
      | with_reducible refine sound_snd2_of (by assumption) ?_
      | with_reducible refine sound_fst_of (by assumption) ?_
      | simp only []
      | split
      | intro _
      | with_reducible apply_assumption

theorem State.successors_sound (s : State) (h : Nat) (desc : Nat) (hs : Sound Q s) (hw : sub 598160113273597 Q.w = true) :
    Sound Q (State.successors s h desc).2 := by
  unfold State.successors
  repeat' first
    | with_reducible assumption
    | with_reducible exact sub_trans (by decide) hw
    | with_reducible apply State.dispRead_sound
    | with_reducible refine sound_ite (fun _ => ?_) (fun _ => ?_)
    | with_reducible refine sound_foldl (fun _ _ _ => ?_) ?_
    | with_reducible refine sound_foldl_snd (fun _ _ _ => ?_) ?_
    | with_reducible refine sound_foldl_fst (fun _ _ _ => ?_) ?_
    | with_reducible refine sound_foldl_snd2 (fun _ _ _ => ?_) ?_
    | with_reducible refine sound_snd_of (by assumption) ?_
    | with_reducible refine sound_snd2_of (by assumption) ?_
    | with_reducible refine sound_fst_of (by assumption) ?_
    | simp only []
    | split

theorem State.takeEnd_sound (s : State) (h : Nat) (op : OpRef) (status : Nat) (hs : Sound Q s) (hw : sub 598160113552125 Q.w = true) :
    Sound Q (State.takeEnd s h op status) := by
  unfold State.takeEnd
  repeat' first
    | with_reducible assumption
    | with_reducible exact sub_trans (by decide) hw
    | with_reducible apply State.releaseAll_sound
    | with_reducible apply State.successors_sound
    | with_reducible apply State.vaWrite_sound
    | with_reducible apply State.count32_sound
    | with_reducible apply State.count64_sound
    | with_reducible apply State.graphCount_sound
    | with_reducible refine sound_ite (fun _ => ?_) (fun _ => ?_)
    | with_reducible refine sound_foldl (fun _ _ _ => ?_) ?_
    | with_reducible refine sound_foldl_snd (fun _ _ _ => ?_) ?_
    | with_reducible refine sound_foldl_fst (fun _ _ _ => ?_) ?_
    | with_reducible refine sound_foldl_snd2 (fun _ _ _ => ?_) ?_
    | with_reducible refine sound_snd_of (by assumption) ?_
    | with_reducible refine sound_snd2_of (by assumption) ?_
    | with_reducible refine sound_fst_of (by assumption) ?_
    | simp only []
    | split

theorem State.notePlaced_sound (s : State) (h : Nat) (c : Nat) (op : OpRef) (hs : Sound Q s) (hw : sub 598160113273597 Q.w = true) :
    Sound Q (State.notePlaced s h c op) := by
  unfold State.notePlaced
  repeat' first
    | with_reducible assumption
    | with_reducible exact sub_trans (by decide) hw
    | with_reducible apply State.vaWrite_sound
    | with_reducible apply State.count64_sound

theorem State.placeFree_sound (s : State) (h : Nat) (op : OpRef) (hs : Sound Q s) (hw : sub 598160113274621 Q.w = true) :
    OSound Q (State.placeFree s h op) := by
  unfold State.placeFree
  repeat' first
    | with_reducible assumption
    | with_reducible exact sub_trans (by decide) hw
    | with_reducible apply OSound.none
    | with_reducible apply OSound.some
    | with_reducible apply State.modCore_sound
    | with_reducible apply State.notePlaced_sound
    | with_reducible refine osound_findSome (fun _ => ?_)
    | with_reducible refine osound_map ?_ (fun _ _ => ?_)
    | with_reducible refine osound_bind ?_ (fun _ _ => ?_)
    | with_reducible refine osound_foldl (fun _ _ _ => ?_) ?_
    | with_reducible refine pred_ite (P := OSound Q) (fun _ => ?_) (fun _ => ?_)
    | with_reducible refine sound_ite (fun _ => ?_) (fun _ => ?_)
    | with_reducible refine sound_foldl (fun _ _ _ => ?_) ?_
    | with_reducible refine sound_foldl_snd (fun _ _ _ => ?_) ?_
    | with_reducible refine sound_foldl_fst (fun _ _ _ => ?_) ?_
    | with_reducible refine sound_foldl_snd2 (fun _ _ _ => ?_) ?_
    | with_reducible refine sound_snd_of (by assumption) ?_
    | with_reducible refine sound_snd2_of (by assumption) ?_
    | with_reducible refine sound_fst_of (by assumption) ?_
    | simp only []
    | split

theorem State.placeOne_sound (s : State) (h : Nat) (op : OpRef) (expired : Bool) (hs : Sound Q s) (hw : sub 598160113274621 Q.w = true) :
    OSound Q (State.placeOne s h op expired) := by
  unfold State.placeOne
  repeat' first
    | with_reducible assumption
    | with_reducible exact sub_trans (by decide) hw
    | with_reducible apply State.placeFree_sound
    | with_reducible apply OSound.none
    | with_reducible apply OSound.some
    | with_reducible apply State.modCore_sound
    | with_reducible apply State.notePlaced_sound
    | with_reducible apply State.count64_sound
    | with_reducible refine osound_getD ?_ ?_
    | with_reducible refine osound_findSome (fun _ => ?_)
    | with_reducible refine osound_map ?_ (fun _ _ => ?_)
    | with_reducible refine osound_bind ?_ (fun _ _ => ?_)
    | with_reducible refine osound_foldl (fun _ _ _ => ?_) ?_
    | with_reducible refine pred_ite (P := OSound Q) (fun _ => ?_) (fun _ => ?_)
    | with_reducible refine sound_ite (fun _ => ?_) (fun _ => ?_)
    | with_reducible refine sound_foldl (fun _ _ _ => ?_) ?_
    | with_reducible refine osound_some (by assumption) ?_
    | with_reducible refine sound_foldl_snd (fun _ _ _ => ?_) ?_
    | with_reducible refine sound_foldl_fst (fun _ _ _ => ?_) ?_
    | with_reducible refine sound_foldl_snd2 (fun _ _ _ => ?_) ?_
    | with_reducible refine sound_snd_of (by assumption) ?_
    | with_reducible refine sound_snd2_of (by assumption) ?_
    | with_reducible refine sound_fst_of (by assumption) ?_
    | simp only []
    | split

theorem State.placeFirst_sound (s : State) (h : Nat) (a2 : List (OpRef × Bool)) (hs : Sound Q s) (hw : sub 598160113274621 Q.w = true) :
    OSound Q (State.placeFirst s h a2) := by
  fun_induction State.placeFirst s h a2
  all_goals
    repeat' first
      | with_reducible assumption
      | with_reducible exact sub_trans (by decide) hw
      | with_reducible apply State.placeOne_sound
      | with_reducible apply OSound.none
      | with_reducible apply OSound.some
      | with_reducible apply State.absorb_sound
      | with_reducible apply State.modHome_sound
      | with_reducible refine osound_getD ?_ ?_
      | with_reducible refine osound_findSome (fun _ => ?_)
      | with_reducible refine osound_map ?_ (fun _ _ => ?_)
      | with_reducible refine osound_bind ?_ (fun _ _ => ?_)
      | with_reducible refine osound_foldl (fun _ _ _ => ?_) ?_
      | with_reducible refine pred_ite (P := OSound Q) (fun _ => ?_) (fun _ => ?_)
      | with_reducible refine sound_ite (fun _ => ?_) (fun _ => ?_)
      | with_reducible refine sound_foldl (fun _ _ _ => ?_) ?_
      | with_reducible refine osound_some (by assumption) ?_

theorem State.placeHeld_sound (s : State) (h : Nat) (hs : Sound Q s) (hw : sub 598160113274621 Q.w = true) :
    OSound Q (State.placeHeld s h) := by
  unfold State.placeHeld
  repeat' first
    | with_reducible assumption
    | with_reducible exact sub_trans (by decide) hw
    | with_reducible apply OSound.none
    | with_reducible apply OSound.some
    | with_reducible apply State.modCore_sound
    | with_reducible apply State.notePlaced_sound
    | with_reducible apply State.count64_sound
    | with_reducible refine osound_findSome (fun _ => ?_)
    | with_reducible refine osound_map ?_ (fun _ _ => ?_)
    | with_reducible refine osound_bind ?_ (fun _ _ => ?_)
    | with_reducible refine osound_foldl (fun _ _ _ => ?_) ?_
    | with_reducible refine pred_ite (P := OSound Q) (fun _ => ?_) (fun _ => ?_)
    | with_reducible refine sound_ite (fun _ => ?_) (fun _ => ?_)
    | with_reducible refine sound_foldl (fun _ _ _ => ?_) ?_
    | with_reducible refine sound_foldl_snd (fun _ _ _ => ?_) ?_
    | with_reducible refine sound_foldl_fst (fun _ _ _ => ?_) ?_
    | with_reducible refine sound_foldl_snd2 (fun _ _ _ => ?_) ?_
    | with_reducible refine sound_snd_of (by assumption) ?_
    | with_reducible refine sound_snd2_of (by assumption) ?_
    | with_reducible refine sound_fst_of (by assumption) ?_
    | simp only []
    | split

theorem execAffinityHoldExpiry_sound (c : CoreId) (s : State) (hs : Sound Q s) (hw : sub 598160113274621 Q.w = true) :
    OutSound Q (execAffinityHoldExpiry c s) := by
  unfold execAffinityHoldExpiry
  repeat' first
    | with_reducible assumption
    | with_reducible exact sub_trans (by decide) hw
    | with_reducible apply State.placeFree_sound
    | with_reducible apply OutSound.next
    | with_reducible apply OutSound.fault
    | with_reducible apply OutSound.refused
    | with_reducible apply State.modHome_sound
    | with_reducible apply State.modCore_sound
    | with_reducible apply State.count32_sound
    | with_reducible refine osound_getD ?_ ?_
    | with_reducible refine pred_ite (P := OutSound Q) (fun _ => ?_) (fun _ => ?_)
    | with_reducible refine sound_ite (fun _ => ?_) (fun _ => ?_)
    | with_reducible refine sound_foldl (fun _ _ _ => ?_) ?_
    | with_reducible refine osound_some (by assumption) ?_
    | with_reducible refine sound_foldl_snd (fun _ _ _ => ?_) ?_
    | with_reducible refine sound_foldl_fst (fun _ _ _ => ?_) ?_
    | with_reducible refine sound_foldl_snd2 (fun _ _ _ => ?_) ?_
    | with_reducible refine sound_snd_of (by assumption) ?_
    | with_reducible refine sound_snd2_of (by assumption) ?_
    | with_reducible refine sound_fst_of (by assumption) ?_
    | simp only []
    | split

theorem State.preemptCore_sound (s0 : State) (h : Nat) (c : Nat) (old : OpRef) (op : OpRef) (hs0 : Sound Q s0) (hw : sub 598160113278717 Q.w = true) :
    Sound Q (State.preemptCore s0 h c old op) := by
  unfold State.preemptCore
  repeat' first
    | with_reducible assumption
    | with_reducible exact sub_trans (by decide) hw
    | with_reducible apply State.writePa_sound
    | with_reducible apply State.modCore_sound
    | with_reducible apply State.notePlaced_sound
    | with_reducible apply State.withdraw_sound
    | with_reducible apply State.startOp_sound
    | with_reducible apply State.count32_sound
    | with_reducible apply State.drain_sound

theorem State.restoreCtx_sound (s0 : State) (c : Nat) (op : OpRef) (hs0 : Sound Q s0) (hw : sub 598160113143549 Q.w = true) :
    Sound Q (State.restoreCtx s0 c op) := by
  unfold State.restoreCtx
  repeat' first
    | with_reducible assumption
    | with_reducible exact sub_trans (by decide) hw
    | with_reducible apply State.setReg_sound
    | with_reducible apply State.modCore_sound
    | with_reducible apply State.poisonRead_sound
    | with_reducible apply State.meet_sound
    | with_reducible refine sound_ite (fun _ => ?_) (fun _ => ?_)

end Sys2Proof.Machine
end

