-- ==== Sys2Proof/Laws/SoundCollective.lean ====
section
/-! SUPPORT. Laws/SoundCollective.lean: the operations of Machine/Collective.lean keep the waiting commands and the canonical form of both
memories. -/

namespace Sys2Proof.Machine

open Sys2Proof

variable {Q : Frame}

theorem State.countTable_sound (s : State) (c : Coll) (n : Nat) (hs : Sound Q s) (hw : sub 598160113273597 Q.w = true) :
    Sound Q (State.countTable s c n).2 := by
  unfold State.countTable
  repeat' first
    | with_reducible assumption
    | with_reducible exact sub_trans (by decide) hw
    | with_reducible apply State.fatal_sound
    | with_reducible apply State.vaRead_sound
    | with_reducible refine sound_ite (fun _ => ?_) (fun _ => ?_)
    | with_reducible refine sound_foldl (fun _ _ _ => ?_) ?_
    | with_reducible refine sound_foldl_snd (fun _ _ _ => ?_) ?_
    | with_reducible refine sound_foldl_fst (fun _ _ _ => ?_) ?_
    | with_reducible refine sound_foldl_snd2 (fun _ _ _ => ?_) ?_
    | with_reducible refine sound_snd_of (by assumption) ?_
    | with_reducible refine sound_snd2_of (by assumption) ?_
    | with_reducible refine sound_fst_of (by assumption) ?_
    | simp only []
    | split

theorem State.rangesOk_sound (s : State) (write : Bool) (a2 : List (Nat × Nat)) (hs : Sound Q s) (hw : sub 598160113273597 Q.w = true) :
    Sound Q (State.rangesOk s write a2).2 := by
  fun_induction State.rangesOk s write a2
  all_goals
    repeat' first
      | with_reducible assumption
      | with_reducible exact sub_trans (by decide) hw
      | with_reducible apply State.xlateRange_sound
      | with_reducible refine sound_ite (fun _ => ?_) (fun _ => ?_)
      | with_reducible refine sound_foldl (fun _ _ _ => ?_) ?_
      | with_reducible refine sound_foldl_snd (fun _ _ _ => ?_) ?_
      | with_reducible refine sound_foldl_fst (fun _ _ _ => ?_) ?_
      | with_reducible refine sound_foldl_snd2 (fun _ _ _ => ?_) ?_
      | with_reducible refine sound_snd_of (by assumption) ?_
      | with_reducible refine sound_snd2_of (by assumption) ?_
      | with_reducible refine sound_fst_of (by assumption) ?_
      | simp only []
      | split
      | intro _
      | with_reducible apply_assumption

theorem State.setColQ_sound (s : State) (q : Nat) (k : ColQ) (hs : Sound Q s) (hw : sub 34359738368 Q.w = true) :
    Sound Q (State.setColQ s q k) := by
  unfold State.setColQ
  repeat' first
    | with_reducible assumption
    | with_reducible exact sub_trans (by decide) hw
    | with_reducible refine sound_ite (fun _ => ?_) (fun _ => ?_)
    | with_reducible refine sound_foldl (fun _ _ _ => ?_) ?_
    | with_reducible refine sound_foldl_snd (fun _ _ _ => ?_) ?_
    | with_reducible refine sound_foldl_fst (fun _ _ _ => ?_) ?_
    | with_reducible refine sound_foldl_snd2 (fun _ _ _ => ?_) ?_
    | with_reducible refine sound_snd_of (by assumption) ?_
    | with_reducible refine sound_snd2_of (by assumption) ?_
    | with_reducible refine sound_fst_of (by assumption) ?_
    | simp only [sound_set_cols (sub_trans (by decide) hw)]

theorem State.setColl_sound (s : State) (q : Nat) (c : Coll) (hs : Sound Q s) (hw : sub 34359738368 Q.w = true) :
    Sound Q (State.setColl s q c) := by
  unfold State.setColl
  repeat' first
    | with_reducible assumption
    | with_reducible exact sub_trans (by decide) hw
    | with_reducible apply State.setColQ_sound

theorem State.colFatal_sound (s : State) (reason : Nat) (hs : Sound Q s) (hw : sub 562949971247868 Q.w = true) :
    Sound Q (State.colFatal s reason) := by
  unfold State.colFatal
  repeat' first
    | with_reducible assumption
    | with_reducible exact sub_trans (by decide) hw
    | with_reducible apply State.fatal_sound

theorem State.collSend_sound (s : State) (q : Nat) (c : Coll) (g : Group) (peer : Nat) (d : Nat) (data : List Byte) (hs : Sound Q s) (hw : sub 616551165199100 Q.w = true) :
    Sound Q (State.collSend s q c g peer d data) := by
  unfold State.collSend
  repeat' first
    | with_reducible assumption
    | with_reducible exact sub_trans (by decide) hw
    | with_reducible apply State.flowSend_sound
    | with_reducible refine sound_ite (fun _ => ?_) (fun _ => ?_)
    | with_reducible refine sound_foldl (fun _ _ _ => ?_) ?_

theorem State.redCount_sound (s : State) (die : Nat) (n : Nat) (ov : Nat) (hs : Sound Q s) (hw : sub 4 Q.w = true) :
    Sound Q (State.redCount s die n ov) := by
  unfold State.redCount
  repeat' first
    | with_reducible assumption
    | with_reducible exact sub_trans (by decide) hw
    | with_reducible apply State.count32_sound
    | with_reducible apply State.count64_sound

theorem State.bucketRun_sound (s : State) (q : Nat) (g : Group) (a3 : Nat) (a4 : Coll) (hs : Sound Q s) (hw : sub 616551165199100 Q.w = true) :
    Sound Q (State.bucketRun s q g a3 a4).1 := by
  fun_induction State.bucketRun s q g a3 a4
  all_goals
    repeat' first
      | with_reducible assumption
      | with_reducible exact sub_trans (by decide) hw
      | with_reducible apply State.redCount_sound
      | with_reducible apply State.collSend_sound
      | with_reducible refine sound_ite (fun _ => ?_) (fun _ => ?_)
      | with_reducible refine sound_foldl (fun _ _ _ => ?_) ?_
      | with_reducible refine sound_foldl_snd (fun _ _ _ => ?_) ?_
      | with_reducible refine sound_foldl_fst (fun _ _ _ => ?_) ?_
      | with_reducible refine sound_foldl_snd2 (fun _ _ _ => ?_) ?_
      | with_reducible refine sound_snd_of (by assumption) ?_
      | with_reducible refine sound_snd2_of (by assumption) ?_
      | with_reducible refine sound_fst_of (by assumption) ?_
      | simp only []
      | split
      | intro _
      | with_reducible apply_assumption

theorem State.directRun_sound (s : State) (q : Nat) (g : Group) (tbl : List (List Nat)) (c : Coll) (hs : Sound Q s) (hw : sub 616551165199100 Q.w = true) :
    Sound Q (State.directRun s q g tbl c).1 := by
  unfold State.directRun
  repeat' first
    | with_reducible assumption
    | with_reducible exact sub_trans (by decide) hw
    | with_reducible apply State.redCount_sound
    | with_reducible apply State.collSend_sound
    | with_reducible refine sound_ite (fun _ => ?_) (fun _ => ?_)
    | with_reducible refine sound_foldl (fun _ _ _ => ?_) ?_
    | with_reducible refine sound_foldl_snd (fun _ _ _ => ?_) ?_
    | with_reducible refine sound_foldl_fst (fun _ _ _ => ?_) ?_
    | with_reducible refine sound_foldl_snd2 (fun _ _ _ => ?_) ?_
    | with_reducible refine sound_snd_of (by assumption) ?_
    | with_reducible refine sound_snd2_of (by assumption) ?_
    | with_reducible refine sound_fst_of (by assumption) ?_
    | simp only []
    | split

theorem State.collRead_sound (s : State) (c : Coll) (va : Nat) (n : Nat) (hs : Sound Q s) (hw : sub 598160113273597 Q.w = true) :
    Sound Q (State.collRead s c va n).2 := by
  unfold State.collRead
  repeat' first
    | with_reducible assumption
    | with_reducible exact sub_trans (by decide) hw
    | with_reducible apply State.xlateRange_sound
    | with_reducible apply State.fatal_sound
    | with_reducible apply State.meetPieces_sound
    | with_reducible refine sound_ite (fun _ => ?_) (fun _ => ?_)
    | with_reducible refine sound_foldl (fun _ _ _ => ?_) ?_
    | with_reducible refine sound_foldl_snd (fun _ _ _ => ?_) ?_
    | with_reducible refine sound_foldl_fst (fun _ _ _ => ?_) ?_
    | with_reducible refine sound_foldl_snd2 (fun _ _ _ => ?_) ?_
    | with_reducible refine sound_snd_of (by assumption) ?_
    | with_reducible refine sound_snd2_of (by assumption) ?_
    | with_reducible refine sound_fst_of (by assumption) ?_
    | simp only []
    | split

theorem State.collBegin_sound (s : State) (c : Coll) (g : Group) (tbl : List (List Nat)) (hs : Sound Q s) (hw : sub 598160113273597 Q.w = true) :
    Sound Q (State.collBegin s c g tbl).2 := by
  unfold State.collBegin
  repeat' first
    | with_reducible assumption
    | with_reducible exact sub_trans (by decide) hw
    | with_reducible apply State.collRead_sound
    | with_reducible refine sound_ite (fun _ => ?_) (fun _ => ?_)
    | with_reducible refine sound_foldl (fun _ _ _ => ?_) ?_
    | with_reducible refine sound_foldl_snd (fun _ _ _ => ?_) ?_
    | with_reducible refine sound_foldl_fst (fun _ _ _ => ?_) ?_
    | with_reducible refine sound_foldl_snd2 (fun _ _ _ => ?_) ?_
    | with_reducible refine sound_snd_of (by assumption) ?_
    | with_reducible refine sound_snd2_of (by assumption) ?_
    | with_reducible refine sound_fst_of (by assumption) ?_
    | simp only []
    | split

theorem State.vaPut_sound (s : State) (va : Nat) (l : List Byte) (bad : Bool) (hs : Sound Q s) (hw : sub 598160113273597 Q.w = true) :
    Sound Q (State.vaPut s va l bad) := by
  unfold State.vaPut
  repeat' first
    | with_reducible assumption
    | with_reducible exact sub_trans (by decide) hw
    | with_reducible apply State.writeDest_sound
    | with_reducible apply State.xlateRange_sound
    | with_reducible refine sound_ite (fun _ => ?_) (fun _ => ?_)
    | with_reducible refine sound_foldl (fun _ _ _ => ?_) ?_
    | with_reducible refine sound_foldl_snd (fun _ _ _ => ?_) ?_
    | with_reducible refine sound_foldl_fst (fun _ _ _ => ?_) ?_
    | with_reducible refine sound_foldl_snd2 (fun _ _ _ => ?_) ?_
    | with_reducible refine sound_snd_of (by assumption) ?_
    | with_reducible refine sound_snd2_of (by assumption) ?_
    | with_reducible refine sound_fst_of (by assumption) ?_
    | simp only []
    | split

theorem State.collFinish_sound (s : State) (c : Coll) (g : Group) (tbl : List (List Nat)) (hs : Sound Q s) (hw : sub 598160113273597 Q.w = true) :
    Sound Q (State.collFinish s c g tbl).1 := by
  unfold State.collFinish
  repeat' first
    | with_reducible assumption
    | with_reducible exact sub_trans (by decide) hw
    | with_reducible apply State.vaPut_sound
    | with_reducible refine sound_ite (fun _ => ?_) (fun _ => ?_)
    | with_reducible refine sound_foldl (fun _ _ _ => ?_) ?_

theorem State.collRun_sound (s : State) (q : Nat) (c0 : Coll) (i : SliceInfo) (hs : Sound Q s) (hw : sub 616611294874365 Q.w = true) :
    Sound Q (State.collRun s q c0 i) := by
  unfold State.collRun
  repeat' first
    | with_reducible assumption
    | with_reducible exact sub_trans (by decide) hw
    | with_reducible apply State.setColl_sound
    | with_reducible apply State.collBegin_sound
    | with_reducible apply State.bucketRun_sound
    | with_reducible apply State.collFinish_sound
    | with_reducible apply State.colFatal_sound
    | with_reducible apply State.directRun_sound
    | with_reducible refine sound_ite (fun _ => ?_) (fun _ => ?_)
    | with_reducible refine sound_foldl (fun _ _ _ => ?_) ?_
    | with_reducible refine sound_foldl_snd (fun _ _ _ => ?_) ?_
    | with_reducible refine sound_foldl_fst (fun _ _ _ => ?_) ?_
    | with_reducible refine sound_foldl_snd2 (fun _ _ _ => ?_) ?_
    | with_reducible refine sound_snd_of (by assumption) ?_
    | with_reducible refine sound_snd2_of (by assumption) ?_
    | with_reducible refine sound_fst_of (by assumption) ?_
    | simp only []
    | split

theorem runColl_sound (q : Nat) (t : Nat) (s : State) (hs : Sound Q s) (hw : sub 616611294874365 Q.w = true) :
    Sound Q (runColl q t s) := by
  unfold runColl
  repeat' first
    | with_reducible assumption
    | with_reducible exact sub_trans (by decide) hw
    | with_reducible apply State.collRun_sound
    | with_reducible refine sound_ite (fun _ => ?_) (fun _ => ?_)
    | with_reducible refine sound_foldl (fun _ _ _ => ?_) ?_
    | with_reducible refine sound_foldl_snd (fun _ _ _ => ?_) ?_
    | with_reducible refine sound_foldl_fst (fun _ _ _ => ?_) ?_
    | with_reducible refine sound_foldl_snd2 (fun _ _ _ => ?_) ?_
    | with_reducible refine sound_snd_of (by assumption) ?_
    | with_reducible refine sound_snd2_of (by assumption) ?_
    | with_reducible refine sound_fst_of (by assumption) ?_
    | simp only []
    | split

theorem State.colCheck_sound (s : State) (p : Packet) (hs : Sound Q s) (hw : sub 563053050462972 Q.w = true) :
    Sound Q (State.colCheck s p) := by
  unfold State.colCheck
  repeat' first
    | with_reducible assumption
    | with_reducible exact sub_trans (by decide) hw
    | with_reducible apply State.setColl_sound
    | with_reducible apply State.setColQ_sound
    | with_reducible apply State.count32_sound
    | with_reducible apply State.colFatal_sound
    | with_reducible refine sound_ite (fun _ => ?_) (fun _ => ?_)
    | with_reducible refine sound_foldl (fun _ _ _ => ?_) ?_
    | with_reducible refine sound_foldl_snd (fun _ _ _ => ?_) ?_
    | with_reducible refine sound_foldl_fst (fun _ _ _ => ?_) ?_
    | with_reducible refine sound_foldl_snd2 (fun _ _ _ => ?_) ?_
    | with_reducible refine sound_snd_of (by assumption) ?_
    | with_reducible refine sound_snd2_of (by assumption) ?_
    | with_reducible refine sound_fst_of (by assumption) ?_
    | simp only [sound_set_disps (sub_trans (by decide) hw)]
    | split

theorem State.slowReceive_sound (s : State) (hs : Sound Q s) (hw : sub 17695265259524 Q.w = true) :
    Sound Q (State.slowReceive s) := by
  unfold State.slowReceive
  repeat' first
    | with_reducible assumption
    | with_reducible exact sub_trans (by decide) hw
    | with_reducible apply State.count32_sound
    | with_reducible refine sound_ite (fun _ => ?_) (fun _ => ?_)
    | with_reducible refine sound_foldl (fun _ _ _ => ?_) ?_
    | with_reducible refine sound_foldl_snd (fun _ _ _ => ?_) ?_
    | with_reducible refine sound_foldl_fst (fun _ _ _ => ?_) ?_
    | with_reducible refine sound_foldl_snd2 (fun _ _ _ => ?_) ?_
    | with_reducible refine sound_snd_of (by assumption) ?_
    | with_reducible refine sound_snd2_of (by assumption) ?_
    | with_reducible refine sound_fst_of (by assumption) ?_
    | simp only [sound_set_cols_disps_top (sub_trans (by decide) hw)]

theorem State.takeAhead_sound (s : State) (q : Nat) (hs : Sound Q s) (hw : sub 563053050462972 Q.w = true) :
    Sound Q (State.takeAhead s q) := by
  unfold State.takeAhead
  repeat' first
    | with_reducible assumption
    | with_reducible exact sub_trans (by decide) hw
    | with_reducible apply State.setColQ_sound
    | with_reducible apply State.colCheck_sound
    | with_reducible refine sound_ite (fun _ => ?_) (fun _ => ?_)
    | with_reducible refine sound_foldl (fun _ _ _ => ?_) ?_

theorem State.collAccept_sound (s : State) (q : Nat) (h : Nat) (ck : Nat) (i : SliceInfo) (hs : Sound Q s)
    (hw : sub 598194473011965 Q.w = true) : Sound Q (State.collAccept s q h ck i) := by
  unfold State.collAccept
  extract_lets k n base entry hd
  have he : ∀ (a : State) (j : Nat), Sound Q a → Sound Q (entry a j).2 := by
    intro a j ha
    simp only [entry]
    have := State.vaRead_sound a (agLinkDie 0) (base + 64 * ((k.head + j) % n)) 64 ha (sub_trans (by decide) hw)
    split
    · next e =>
      have h1 := sound_snd_of e this
      exact sound_ite (fun _ => State.fatal_sound _ _ _ _ _ _ h1 (sub_trans (by decide) hw)) (fun _ => h1)
    · next e => exact sound_snd_of e this
  clear_value entry
  split
  next a s1 e1 =>
  have h1 : Sound Q s1 := sound_snd_of e1 (he s 0 hs)
  extract_lets hdr nent
  refine sound_ite (fun _ => h1) (fun _ => ?_)
  split
  next b1 s2 e2 =>
  have h2 : Sound Q s2 := by
    revert e2
    split
    · exact fun e => sound_snd_of e (he s1 1 h1)
    · exact fun e => by cases e; exact h1
  split
  next b2 s3 e3 =>
  have h3 : Sound Q s3 := by
    revert e3
    split
    · exact fun e => sound_snd_of e (he s2 2 h2)
    · exact fun e => by cases e; exact h2
  extract_lets body c s4 s5 stop g
  have h4 : Sound Q s4 := State.setColQ_sound _ _ _ (State.subCtr_sound _ _ _ _ h3 (sub_trans (by decide) hw)) (sub_trans (by decide) hw)
  have h5 : Sound Q s5 := State.setReg_sound _ _ _ h4 (sub_trans (by decide) hw)
  have hstop : ∀ (a : State) (st r : Nat), Sound Q a → Sound Q (stop a st r) :=
    fun a st r ha => State.colFatal_sound _ _ (State.setColl_sound _ _ _ ha (sub_trans (by decide) hw)) (sub_trans (by decide) hw)
  clear_value s4 s5 stop
  have hset : ∀ (a : State) (d : Coll), Sound Q a → Sound Q (a.setColl q d) :=
    fun a d ha => State.setColl_sound _ _ _ ha (sub_trans (by decide) hw)
  refine sound_ite (fun _ => hstop _ _ _ h5) (fun _ => ?_)
  refine sound_ite (fun _ => hset _ _ h5) (fun _ => ?_)
  refine sound_ite (fun _ => h5) (fun _ => ?_)
  split
  · exact hstop _ _ _ h5
  · split
    next tbl s6 e6 =>
    have h6 : Sound Q s6 := by
      revert e6
      split
      · exact fun e => sound_snd_of e (State.countTable_sound _ _ _ h5 (sub_trans (by decide) hw))
      · exact fun e => by cases e; exact h5
    split
    · exact hstop _ _ _ h6
    · exact hset _ _ h6
    · split
      split
      next o1 s7 e7 =>
      have h7 : Sound Q s7 := sound_snd_of e7 (State.rangesOk_sound _ _ _ h6 (sub_trans (by decide) hw))
      split
      next o2 s8 e8 =>
      have h8 : Sound Q s8 := sound_snd_of e8 (State.rangesOk_sound _ _ _ h7 (sub_trans (by decide) hw))
      exact sound_ite (fun _ => hset _ _ h8) (fun _ => hstop _ _ _ h8)

theorem State.collRecord_sound (s : State) (q : Nat) (c : Coll) (status : Nat) (reason : Nat) (hs : Sound Q s) (hw : sub 598160113273597 Q.w = true) :
    Sound Q (State.collRecord s q c status reason) := by
  unfold State.collRecord
  repeat' first
    | with_reducible assumption
    | with_reducible exact sub_trans (by decide) hw
    | with_reducible apply State.vaPut_sound

theorem State.collEnd_sound (s : State) (q : Nat) (c : Coll) (status : Nat) (reason : Nat) (sig : Bool) (hs : Sound Q s) (hw : sub 598194473012989 Q.w = true) :
    Sound Q (State.collEnd s q c status reason sig) := by
  unfold State.collEnd
  repeat' first
    | with_reducible assumption
    | with_reducible exact sub_trans (by decide) hw
    | with_reducible apply State.collRecord_sound
    | with_reducible apply State.xlate_sound
    | with_reducible apply State.setColQ_sound
    | with_reducible apply State.signal_sound
    | with_reducible apply State.count64_sound
    | with_reducible refine sound_ite (fun _ => ?_) (fun _ => ?_)
    | with_reducible refine sound_foldl (fun _ _ _ => ?_) ?_
    | with_reducible refine sound_foldl_snd (fun _ _ _ => ?_) ?_
    | with_reducible refine sound_foldl_fst (fun _ _ _ => ?_) ?_
    | with_reducible refine sound_foldl_snd2 (fun _ _ _ => ?_) ?_
    | with_reducible refine sound_snd_of (by assumption) ?_
    | with_reducible refine sound_snd2_of (by assumption) ?_
    | with_reducible refine sound_fst_of (by assumption) ?_
    | simp only []
    | split

end Sys2Proof.Machine
end

