-- ==== Sys2Proof/Laws/SoundControlProc.lean ====
section
/-! SUPPORT. Laws/SoundControlProc.lean: the operations of Machine/ControlProc.lean keep the waiting commands and the canonical form of both
memories. -/

namespace Sys2Proof.Machine

open Sys2Proof

variable {Q : Frame}

/-- What a CSR read gives is sound. -/
inductive NSound (Q : Frame) : Option (Nat × State) → Prop where
  | none : NSound Q none
  | some {v : Nat} {s : State} (h : Sound Q s) : NSound Q (some (v, s))

theorem nsound_some {r : Option (Nat × State)} {v : Nat} {s : State} (e : r = some (v, s)) (h : NSound Q r) : Sound Q s := by
  subst e; cases h; assumption

/-- What a fetched instruction carries is sound. -/
inductive FSound (Q : Frame) : Fetched → Prop where
  | std {w raw len : Nat} {s : State} (h : Sound Q s) : FSound Q (.std w raw len s)
  | engine {s : State} (h : Sound Q s) : FSound Q (.engine s)
  | bad {raw : Nat} {s : State} (h : Sound Q s) : FSound Q (.bad raw s)
  | trap {c va : Nat} {s : State} (h : Sound Q s) : FSound Q (.trap c va s)
  | wait {s : State} (h : Sound Q s) : FSound Q (.wait s)

theorem fsound_std {r : Fetched} {w raw len : Nat} {s : State} (e : r = .std w raw len s) (h : FSound Q r) : Sound Q s := by
  subst e; cases h; assumption

theorem fsound_engine {r : Fetched} {s : State} (e : r = .engine s) (h : FSound Q r) : Sound Q s := by
  subst e; cases h; assumption

theorem fsound_bad {r : Fetched} {raw : Nat} {s : State} (e : r = .bad raw s) (h : FSound Q r) : Sound Q s := by
  subst e; cases h; assumption

theorem fsound_trap {r : Fetched} {c va : Nat} {s : State} (e : r = .trap c va s) (h : FSound Q r) : Sound Q s := by
  subst e; cases h; assumption

theorem fsound_wait {r : Fetched} {s : State} (e : r = .wait s) (h : FSound Q r) : Sound Q s := by
  subst e; cases h; assumption

theorem State.csrRead_sound (s : State) (c : Nat) (n : Nat) (hs : Sound Q s) (hw : sub 1029 Q.w = true) :
    NSound Q (State.csrRead s c n) := by
  unfold State.csrRead
  repeat' first
    | with_reducible assumption
    | with_reducible exact sub_trans (by decide) hw
    | with_reducible apply NSound.none
    | with_reducible apply NSound.some
    | with_reducible apply State.takeFree_sound
    | with_reducible apply State.drain_sound
    | with_reducible refine pred_ite (P := NSound Q) (fun _ => ?_) (fun _ => ?_)
    | with_reducible refine sound_ite (fun _ => ?_) (fun _ => ?_)
    | with_reducible refine sound_foldl (fun _ _ _ => ?_) ?_
    | with_reducible refine sound_foldl_snd (fun _ _ _ => ?_) ?_
    | with_reducible refine sound_foldl_fst (fun _ _ _ => ?_) ?_
    | with_reducible refine sound_foldl_snd2 (fun _ _ _ => ?_) ?_
    | with_reducible refine sound_snd_of (by assumption) ?_
    | with_reducible refine sound_snd2_of (by assumption) ?_
    | with_reducible refine sound_fst_of (by assumption) ?_
    | simp only []
    | split

theorem State.csrWrite_sound (s : State) (c : Nat) (n : Nat) (v : Nat) (hs : Sound Q s) (hw : sub 1028 Q.w = true) :
    Sound Q (State.csrWrite s c n v) := by
  unfold State.csrWrite
  repeat' first
    | with_reducible assumption
    | with_reducible exact sub_trans (by decide) hw
    | with_reducible apply State.setReg_sound
    | with_reducible apply State.modCore_sound
    | with_reducible apply State.drain_sound
    | with_reducible refine sound_ite (fun _ => ?_) (fun _ => ?_)
    | with_reducible refine sound_foldl (fun _ _ _ => ?_) ?_
    | with_reducible refine sound_foldl_snd (fun _ _ _ => ?_) ?_
    | with_reducible refine sound_foldl_fst (fun _ _ _ => ?_) ?_
    | with_reducible refine sound_foldl_snd2 (fun _ _ _ => ?_) ?_
    | with_reducible refine sound_snd_of (by assumption) ?_
    | with_reducible refine sound_snd2_of (by assumption) ?_
    | with_reducible refine sound_fst_of (by assumption) ?_
    | simp only []
    | split

theorem rvIllegal_sound (w : Nat) (s : State) (hs : Sound Q s) : ISound Q (rvIllegal w s) := by
  unfold rvIllegal
  repeat' first
    | with_reducible assumption
    | with_reducible apply ISound.done
    | with_reducible apply ISound.jump
    | with_reducible apply ISound.trap

theorem wrote_sound (s : State) (c : Nat) (rd : XReg) (v : Nat) (hs : Sound Q s) (hw : sub 1024 Q.w = true) :
    ISound Q (wrote s c rd v) := by
  unfold wrote
  repeat' first
    | with_reducible assumption
    | with_reducible exact sub_trans (by decide) hw
    | with_reducible apply ISound.done
    | with_reducible apply ISound.jump
    | with_reducible apply ISound.trap
    | with_reducible apply ISound.stall
    | with_reducible apply State.setXn_sound

theorem rvAtomic_sound (c : Nat) (w : Nat) (rd : XReg) (a : Nat) (v : Nat) (s : State) (hs : Sound Q s) (hw : sub 598160113274621 Q.w = true) :
    ISound Q (rvAtomic c w rd a v s) := by
  unfold rvAtomic
  repeat' first
    | with_reducible assumption
    | with_reducible exact sub_trans (by decide) hw
    | with_reducible apply rvIllegal_sound
    | with_reducible apply wrote_sound
    | with_reducible apply ISound.done
    | with_reducible apply ISound.jump
    | with_reducible apply ISound.trap
    | with_reducible apply ISound.stall
    | with_reducible apply State.modCore_sound
    | with_reducible apply State.setXn_sound
    | with_reducible apply State.poisonRead_sound
    | with_reducible apply State.coreXlate_sound
    | with_reducible apply State.atomicRead_sound
    | with_reducible apply State.atomicWrite_sound
    | with_reducible refine pred_ite (P := ISound Q) (fun _ => ?_) (fun _ => ?_)
    | with_reducible refine sound_ite (fun _ => ?_) (fun _ => ?_)
    | with_reducible refine sound_foldl (fun _ _ _ => ?_) ?_
    | with_reducible refine isound_trap (by assumption) ?_
    | with_reducible refine isound_stall (by assumption) ?_
    | with_reducible refine sound_foldl_snd (fun _ _ _ => ?_) ?_
    | with_reducible refine sound_foldl_fst (fun _ _ _ => ?_) ?_
    | with_reducible refine sound_foldl_snd2 (fun _ _ _ => ?_) ?_
    | with_reducible refine sound_snd_of (by assumption) ?_
    | with_reducible refine sound_snd2_of (by assumption) ?_
    | with_reducible refine sound_fst_of (by assumption) ?_
    | simp only []
    | split

theorem rvCsr_sound (c : Nat) (w : Nat) (rd : XReg) (rs1 : Nat) (s : State) (hs : Sound Q s) (hw : sub 1029 Q.w = true) :
    ISound Q (rvCsr c w rd rs1 s) := by
  unfold rvCsr
  repeat' first
    | with_reducible assumption
    | with_reducible exact sub_trans (by decide) hw
    | with_reducible apply State.csrRead_sound
    | with_reducible apply rvIllegal_sound
    | with_reducible apply wrote_sound
    | with_reducible apply ISound.done
    | with_reducible apply ISound.jump
    | with_reducible apply ISound.trap
    | with_reducible apply ISound.stall
    | with_reducible apply State.csrWrite_sound
    | with_reducible refine pred_ite (P := ISound Q) (fun _ => ?_) (fun _ => ?_)
    | with_reducible refine sound_ite (fun _ => ?_) (fun _ => ?_)
    | with_reducible refine sound_foldl (fun _ _ _ => ?_) ?_
    | with_reducible refine isound_trap (by assumption) ?_
    | with_reducible refine isound_stall (by assumption) ?_
    | with_reducible refine nsound_some (by assumption) ?_
    | with_reducible refine sound_foldl_snd (fun _ _ _ => ?_) ?_
    | with_reducible refine sound_foldl_fst (fun _ _ _ => ?_) ?_
    | with_reducible refine sound_foldl_snd2 (fun _ _ _ => ?_) ?_
    | with_reducible refine sound_snd_of (by assumption) ?_
    | with_reducible refine sound_snd2_of (by assumption) ?_
    | with_reducible refine sound_fst_of (by assumption) ?_
    | simp only []
    | split

theorem rvSystem_sound (c : Nat) (w : Nat) (s : State) (hs : Sound Q s) (hw : sub 1024 Q.w = true) :
    ISound Q (rvSystem c w s) := by
  unfold rvSystem
  repeat' first
    | with_reducible assumption
    | with_reducible exact sub_trans (by decide) hw
    | with_reducible apply rvIllegal_sound
    | with_reducible apply ISound.done
    | with_reducible apply ISound.jump
    | with_reducible apply ISound.trap
    | with_reducible apply ISound.stall
    | with_reducible apply State.modCore_sound
    | with_reducible refine pred_ite (P := ISound Q) (fun _ => ?_) (fun _ => ?_)
    | with_reducible refine sound_ite (fun _ => ?_) (fun _ => ?_)
    | with_reducible refine sound_foldl (fun _ _ _ => ?_) ?_
    | with_reducible refine isound_trap (by assumption) ?_
    | with_reducible refine isound_stall (by assumption) ?_
    | with_reducible refine sound_foldl_snd (fun _ _ _ => ?_) ?_
    | with_reducible refine sound_foldl_fst (fun _ _ _ => ?_) ?_
    | with_reducible refine sound_foldl_snd2 (fun _ _ _ => ?_) ?_
    | with_reducible refine sound_snd_of (by assumption) ?_
    | with_reducible refine sound_snd2_of (by assumption) ?_
    | with_reducible refine sound_fst_of (by assumption) ?_
    | simp only []
    | split

theorem rvExec_sound (c : Nat) (w : Nat) (raw : Nat) (len : Nat) (s : State) (hs : Sound Q s) (hw : sub 598160113274621 Q.w = true) :
    ISound Q (rvExec c w raw len s) := by
  unfold rvExec
  repeat' first
    | with_reducible assumption
    | with_reducible exact sub_trans (by decide) hw
    | with_reducible apply rvCsr_sound
    | with_reducible apply State.cpLoad_sound
    | with_reducible apply rvAtomic_sound
    | with_reducible apply rvIllegal_sound
    | with_reducible apply wrote_sound
    | with_reducible apply State.cpStore_sound
    | with_reducible apply rvSystem_sound
    | with_reducible apply ISound.done
    | with_reducible apply ISound.jump
    | with_reducible apply ISound.trap
    | with_reducible apply ISound.stall
    | with_reducible apply State.modCore_sound
    | with_reducible apply State.setXn_sound
    | with_reducible refine pred_ite (P := ISound Q) (fun _ => ?_) (fun _ => ?_)
    | with_reducible refine sound_ite (fun _ => ?_) (fun _ => ?_)
    | with_reducible refine sound_foldl (fun _ _ _ => ?_) ?_
    | with_reducible refine isound_trap (by assumption) ?_
    | with_reducible refine isound_stall (by assumption) ?_
    | with_reducible refine lsound_data (by assumption) ?_
    | with_reducible refine lsound_res (by assumption) ?_
    | with_reducible refine sound_foldl_snd (fun _ _ _ => ?_) ?_
    | with_reducible refine sound_foldl_fst (fun _ _ _ => ?_) ?_
    | with_reducible refine sound_foldl_snd2 (fun _ _ _ => ?_) ?_
    | with_reducible refine sound_snd_of (by assumption) ?_
    | with_reducible refine sound_snd2_of (by assumption) ?_
    | with_reducible refine sound_fst_of (by assumption) ?_
    | simp only []
    | split

theorem State.fetchMore_sound (s : State) (c : Nat) (va : Nat) (a3 : Nat) (a4 : Nat) (a5 : Nat) (hs : Sound Q s) (hw : sub 598160113274621 Q.w = true) :
    FSound Q (State.fetchMore s c va a3 a4 a5) := by
  fun_induction State.fetchMore s c va a3 a4 a5
  all_goals
    repeat' first
      | with_reducible assumption
      | with_reducible exact sub_trans (by decide) hw
      | with_reducible apply State.fetchHalf_sound
      | with_reducible apply FSound.std
      | with_reducible apply FSound.engine
      | with_reducible apply FSound.bad
      | with_reducible apply FSound.trap
      | with_reducible apply FSound.wait
      | with_reducible refine pred_ite (P := FSound Q) (fun _ => ?_) (fun _ => ?_)
      | with_reducible refine sound_ite (fun _ => ?_) (fun _ => ?_)
      | with_reducible refine sound_foldl (fun _ _ _ => ?_) ?_
      | with_reducible refine hsound_half (by assumption) ?_
      | with_reducible refine hsound_trap (by assumption) ?_
      | with_reducible refine hsound_wait (by assumption) ?_
      | with_reducible refine sound_foldl_snd (fun _ _ _ => ?_) ?_
      | with_reducible refine sound_foldl_fst (fun _ _ _ => ?_) ?_
      | with_reducible refine sound_foldl_snd2 (fun _ _ _ => ?_) ?_
      | with_reducible refine sound_snd_of (by assumption) ?_
      | with_reducible refine sound_snd2_of (by assumption) ?_
      | with_reducible refine sound_fst_of (by assumption) ?_
      | simp only []
      | split
      | intro _
      | with_reducible apply_assumption

theorem State.fetchInstr_sound (s : State) (c : Nat) (hs : Sound Q s) (hw : sub 598160113274621 Q.w = true) :
    FSound Q (State.fetchInstr s c) := by
  unfold State.fetchInstr
  repeat' first
    | with_reducible assumption
    | with_reducible exact sub_trans (by decide) hw
    | with_reducible apply State.fetchHalf_sound
    | with_reducible apply State.fetchMore_sound
    | with_reducible apply FSound.std
    | with_reducible apply FSound.engine
    | with_reducible apply FSound.bad
    | with_reducible apply FSound.trap
    | with_reducible apply FSound.wait
    | with_reducible refine pred_ite (P := FSound Q) (fun _ => ?_) (fun _ => ?_)
    | with_reducible refine sound_ite (fun _ => ?_) (fun _ => ?_)
    | with_reducible refine sound_foldl (fun _ _ _ => ?_) ?_
    | with_reducible refine fsound_std (by assumption) ?_
    | with_reducible refine fsound_engine (by assumption) ?_
    | with_reducible refine fsound_bad (by assumption) ?_
    | with_reducible refine fsound_trap (by assumption) ?_
    | with_reducible refine fsound_wait (by assumption) ?_
    | with_reducible refine hsound_half (by assumption) ?_
    | with_reducible refine hsound_trap (by assumption) ?_
    | with_reducible refine hsound_wait (by assumption) ?_
    | with_reducible refine sound_foldl_snd (fun _ _ _ => ?_) ?_
    | with_reducible refine sound_foldl_fst (fun _ _ _ => ?_) ?_
    | with_reducible refine sound_foldl_snd2 (fun _ _ _ => ?_) ?_
    | with_reducible refine sound_snd_of (by assumption) ?_
    | with_reducible refine sound_snd2_of (by assumption) ?_
    | with_reducible refine sound_fst_of (by assumption) ?_
    | simp only []
    | split

end Sys2Proof.Machine
end

