-- ==== Sys2Proof/Laws/SoundSorusFront.lean ====
section
/-! SUPPORT. Laws/SoundSorusFront.lean: the operations of Machine/SorusFront.lean keep the waiting commands and the canonical form of both
memories. -/

namespace Sys2Proof.Machine

open Sys2Proof

variable {Q : Frame}

theorem State.dstInScratch_sound (s : State) (x : Nat) (raw : Nat) (hs : Sound Q s) (hw : sub 598160113273597 Q.w = true) :
    Sound Q (State.dstInScratch s x raw).2 := by
  unfold State.dstInScratch
  repeat' first
    | with_reducible assumption
    | with_reducible exact sub_trans (by decide) hw
    | with_reducible apply State.xlate_sound
    | with_reducible refine sound_ite (fun _ => ?_) (fun _ => ?_)
    | with_reducible refine sound_foldl (fun _ _ _ => ?_) ?_
    | with_reducible refine sound_foldl_snd (fun _ _ _ => ?_) ?_
    | with_reducible refine sound_foldl_fst (fun _ _ _ => ?_) ?_
    | with_reducible refine sound_foldl_snd2 (fun _ _ _ => ?_) ?_
    | with_reducible refine sound_snd_of (by assumption) ?_
    | with_reducible refine sound_snd2_of (by assumption) ?_
    | with_reducible refine sound_fst_of (by assumption) ?_
    | simp only []
    | split

theorem State.spreadCheck_sound (s : State) (x : Nat) (raw : Nat) (vs : List Version) (hs : Sound Q s) (hw : sub 598160113273597 Q.w = true) :
    Sound Q (State.spreadCheck s x raw vs).2 := by
  unfold State.spreadCheck
  repeat' first
    | with_reducible assumption
    | with_reducible exact sub_trans (by decide) hw
    | with_reducible apply State.dstInScratch_sound
    | with_reducible refine sound_ite (fun _ => ?_) (fun _ => ?_)
    | with_reducible refine sound_foldl (fun _ _ _ => ?_) ?_
    | with_reducible refine sound_foldl_snd (fun _ _ _ => ?_) ?_
    | with_reducible refine sound_foldl_fst (fun _ _ _ => ?_) ?_
    | with_reducible refine sound_foldl_snd2 (fun _ _ _ => ?_) ?_
    | with_reducible refine sound_snd_of (by assumption) ?_
    | with_reducible refine sound_snd2_of (by assumption) ?_
    | with_reducible refine sound_fst_of (by assumption) ?_
    | simp only []
    | split

theorem State.readGraph_sound (s : State) (x : Nat) (raw : Nat) (hs : Sound Q s) (hw : sub 598160113273597 Q.w = true) :
    Sound Q (State.readGraph s x raw).2 := by
  unfold State.readGraph
  repeat' first
    | with_reducible assumption
    | with_reducible exact sub_trans (by decide) hw
    | with_reducible apply State.readList_sound
    | with_reducible refine sound_ite (fun _ => ?_) (fun _ => ?_)
    | with_reducible refine sound_foldl (fun _ _ _ => ?_) ?_
    | with_reducible refine sound_foldl_snd (fun _ _ _ => ?_) ?_
    | with_reducible refine sound_foldl_fst (fun _ _ _ => ?_) ?_
    | with_reducible refine sound_foldl_snd2 (fun _ _ _ => ?_) ?_
    | with_reducible refine sound_snd_of (by assumption) ?_
    | with_reducible refine sound_snd2_of (by assumption) ?_
    | with_reducible refine sound_fst_of (by assumption) ?_
    | simp only []
    | split

theorem State.statAddr_sound (s : State) (x : Nat) (raw : Nat) (hs : Sound Q s) (hw : sub 598160113273597 Q.w = true) :
    Sound Q (State.statAddr s x raw).2 := by
  unfold State.statAddr
  repeat' first
    | with_reducible assumption
    | with_reducible exact sub_trans (by decide) hw
    | with_reducible apply State.xlate_sound
    | with_reducible refine sound_ite (fun _ => ?_) (fun _ => ?_)
    | with_reducible refine sound_foldl (fun _ _ _ => ?_) ?_
    | with_reducible refine sound_foldl_snd (fun _ _ _ => ?_) ?_
    | with_reducible refine sound_foldl_fst (fun _ _ _ => ?_) ?_
    | with_reducible refine sound_foldl_snd2 (fun _ _ _ => ?_) ?_
    | with_reducible refine sound_snd_of (by assumption) ?_
    | with_reducible refine sound_snd2_of (by assumption) ?_
    | with_reducible refine sound_fst_of (by assumption) ?_
    | simp only []
    | split

theorem State.sigAddr_sound (s : State) (x : Nat) (raw : Nat) (hs : Sound Q s) (hw : sub 598160113273597 Q.w = true) :
    Sound Q (State.sigAddr s x raw).2 := by
  unfold State.sigAddr
  repeat' first
    | with_reducible assumption
    | with_reducible exact sub_trans (by decide) hw
    | with_reducible apply State.xlate_sound
    | with_reducible refine sound_ite (fun _ => ?_) (fun _ => ?_)
    | with_reducible refine sound_foldl (fun _ _ _ => ?_) ?_
    | with_reducible refine sound_foldl_snd (fun _ _ _ => ?_) ?_
    | with_reducible refine sound_foldl_fst (fun _ _ _ => ?_) ?_
    | with_reducible refine sound_foldl_snd2 (fun _ _ _ => ?_) ?_
    | with_reducible refine sound_snd_of (by assumption) ?_
    | with_reducible refine sound_snd2_of (by assumption) ?_
    | with_reducible refine sound_fst_of (by assumption) ?_
    | simp only []
    | split

theorem State.opCheck_sound (s : State) (x : Nat) (raw : Nat) (vs : List Version) (hs : Sound Q s) (hw : sub 598160113273597 Q.w = true) :
    Sound Q (State.opCheck s x raw vs).2 := by
  unfold State.opCheck
  repeat' first
    | with_reducible assumption
    | with_reducible exact sub_trans (by decide) hw
    | with_reducible apply State.xlateRange_sound
    | with_reducible refine sound_ite (fun _ => ?_) (fun _ => ?_)
    | with_reducible refine sound_foldl (fun _ _ _ => ?_) ?_
    | with_reducible refine sound_foldl_snd (fun _ _ _ => ?_) ?_
    | with_reducible refine sound_foldl_fst (fun _ _ _ => ?_) ?_
    | with_reducible refine sound_foldl_snd2 (fun _ _ _ => ?_) ?_
    | with_reducible refine sound_snd_of (by assumption) ?_
    | with_reducible refine sound_snd2_of (by assumption) ?_
    | with_reducible refine sound_fst_of (by assumption) ?_
    | simp only []
    | split

theorem State.graphCheck_sound (s : State) (x : Nat) (raw : Nat) (v : Verdict) (hs : Sound Q s) (hw : sub 598160113273597 Q.w = true) :
    Sound Q (State.graphCheck s x raw v).2 := by
  unfold State.graphCheck
  repeat' first
    | with_reducible assumption
    | with_reducible exact sub_trans (by decide) hw
    | with_reducible apply State.readGraph_sound
    | with_reducible refine sound_ite (fun _ => ?_) (fun _ => ?_)
    | with_reducible refine sound_foldl (fun _ _ _ => ?_) ?_
    | with_reducible refine sound_foldl_snd (fun _ _ _ => ?_) ?_
    | with_reducible refine sound_foldl_fst (fun _ _ _ => ?_) ?_
    | with_reducible refine sound_foldl_snd2 (fun _ _ _ => ?_) ?_
    | with_reducible refine sound_snd_of (by assumption) ?_
    | with_reducible refine sound_snd2_of (by assumption) ?_
    | with_reducible refine sound_fst_of (by assumption) ?_
    | simp only []
    | split

theorem State.validate_sound (s : State) (x : Nat) (raw : Nat) (hs : Sound Q s) (hw : sub 598160113273597 Q.w = true) :
    Sound Q (State.validate s x raw).2 := by
  unfold State.validate
  repeat' first
    | with_reducible assumption
    | with_reducible exact sub_trans (by decide) hw
    | with_reducible apply State.spreadCheck_sound
    | with_reducible apply State.opCheck_sound
    | with_reducible refine sound_ite (fun _ => ?_) (fun _ => ?_)
    | with_reducible refine sound_foldl (fun _ _ _ => ?_) ?_
    | with_reducible refine sound_foldl_snd (fun _ _ _ => ?_) ?_
    | with_reducible refine sound_foldl_fst (fun _ _ _ => ?_) ?_
    | with_reducible refine sound_foldl_snd2 (fun _ _ _ => ?_) ?_
    | with_reducible refine sound_snd_of (by assumption) ?_
    | with_reducible refine sound_snd2_of (by assumption) ?_
    | with_reducible refine sound_fst_of (by assumption) ?_
    | simp only []
    | split

theorem State.takeOne_sound (s : State) (x : Nat) (c : SCmd) (hs : Sound Q s) (hw : sub 598160255879933 Q.w = true) :
    Sound Q (State.takeOne s x c) := by
  unfold State.takeOne
  repeat' first
    | with_reducible assumption
    | with_reducible exact sub_trans (by decide) hw
    | with_reducible apply State.validate_sound
    | with_reducible apply State.graphCheck_sound
    | with_reducible apply State.modServer_sound
    | with_reducible apply State.seqCheck_sound
    | with_reducible apply State.statAddr_sound
    | with_reducible apply State.sigAddr_sound
    | with_reducible refine sound_ite (fun _ => ?_) (fun _ => ?_)

theorem State.leadCmd_sound (s : State) (lead : Nat) (serial : Nat) (f : SCmd → SCmd) (hs : Sound Q s) (hw : sub 8388608 Q.w = true) :
    Sound Q (State.leadCmd s lead serial f) := by
  unfold State.leadCmd
  repeat' first
    | with_reducible assumption
    | with_reducible exact sub_trans (by decide) hw
    | with_reducible apply State.modCmd_sound

theorem State.accFinish_sound (s : State) (serial : Nat) (hs : Sound Q s) (hw : sub 598160113142525 Q.w = true) :
    Sound Q (State.accFinish s serial) := by
  unfold State.accFinish
  repeat' first
    | with_reducible assumption
    | with_reducible exact sub_trans (by decide) hw
    | with_reducible apply State.accApply_sound
    | with_reducible apply State.modHome_sound
    | with_reducible refine sound_ite (fun _ => ?_) (fun _ => ?_)
    | with_reducible refine sound_foldl (fun _ _ _ => ?_) ?_

theorem State.qRecord_sound (s : State) (x : Nat) (c : SCmd) (hs : Sound Q s) (hw : sub 4 Q.w = true) :
    Sound Q (State.qRecord s x c) := by
  unfold State.qRecord
  repeat' first
    | with_reducible assumption
    | with_reducible exact sub_trans (by decide) hw
    | with_reducible apply State.setReg_sound
    | with_reducible apply State.setRfld_sound
    | with_reducible refine sound_ite (fun _ => ?_) (fun _ => ?_)

theorem State.sendFenceReport_sound (s : State) (coord : Nat) (lead : Nat) (serial : Nat) (status : Nat) (hs : Sound Q s) (hw : sub 616551165199100 Q.w = true) :
    Sound Q (State.sendFenceReport s coord lead serial status) := by
  unfold State.sendFenceReport
  repeat' first
    | with_reducible assumption
    | with_reducible exact sub_trans (by decide) hw
    | with_reducible apply State.flowSend_sound

theorem State.sendPartFail_sound (s : State) (p : RemPart) (status : Nat) (reason : Nat) (back : Bool) (hs : Sound Q s) (hw : sub 616551165199100 Q.w = true) :
    Sound Q (State.sendPartFail s p status reason back) := by
  unfold State.sendPartFail
  repeat' first
    | with_reducible assumption
    | with_reducible exact sub_trans (by decide) hw
    | with_reducible apply State.flowSend_sound

theorem State.dispEnds_sound (s : State) (j : Nat) (st : Nat) (hs : Sound Q s) (hw : sub 68719476736 Q.w = true) :
    Sound Q (State.dispEnds s j st) := by
  unfold State.dispEnds
  repeat' first
    | with_reducible assumption
    | with_reducible exact sub_trans (by decide) hw
    | with_reducible refine sound_ite (fun _ => ?_) (fun _ => ?_)
    | with_reducible refine sound_foldl (fun _ _ _ => ?_) ?_
    | with_reducible refine sound_foldl_snd (fun _ _ _ => ?_) ?_
    | with_reducible refine sound_foldl_fst (fun _ _ _ => ?_) ?_
    | with_reducible refine sound_foldl_snd2 (fun _ _ _ => ?_) ?_
    | with_reducible refine sound_snd_of (by assumption) ?_
    | with_reducible refine sound_snd2_of (by assumption) ?_
    | with_reducible refine sound_fst_of (by assumption) ?_
    | simp only [sound_set_disps (sub_trans (by decide) hw)]

theorem State.dropBags_sound (s : State) (x : Nat) (c : SCmd) (hs : Sound Q s) (hw : sub 8388608 Q.w = true) :
    Sound Q (State.dropBags s x c) := by
  unfold State.dropBags
  repeat' first
    | with_reducible assumption
    | with_reducible exact sub_trans (by decide) hw
    | with_reducible refine sound_ite (fun _ => ?_) (fun _ => ?_)
    | with_reducible refine sound_foldl (fun _ _ _ => ?_) ?_
    | with_reducible refine sound_foldl_snd (fun _ _ _ => ?_) ?_
    | with_reducible refine sound_foldl_fst (fun _ _ _ => ?_) ?_
    | with_reducible refine sound_foldl_snd2 (fun _ _ _ => ?_) ?_
    | with_reducible refine sound_snd_of (by assumption) ?_
    | with_reducible refine sound_snd2_of (by assumption) ?_
    | with_reducible refine sound_fst_of (by assumption) ?_
    | simp only [sound_set_servers (sub_trans (by decide) hw)]

theorem State.complete_sound (s : State) (x : Nat) (c : SCmd) (sig : Bool) (hs : Sound Q s) (hw : sub 616645663133437 Q.w = true) :
    Sound Q (State.complete s x c sig) := by
  unfold State.complete
  repeat' first
    | with_reducible assumption
    | with_reducible exact sub_trans (by decide) hw
    | with_reducible apply State.sendPartFail_sound
    | with_reducible apply State.writePa_sound
    | with_reducible apply State.modServer_sound
    | with_reducible apply State.qRecord_sound
    | with_reducible apply State.sendFenceReport_sound
    | with_reducible apply State.hostEnd_sound
    | with_reducible apply State.dispEnds_sound
    | with_reducible apply State.signal_sound
    | with_reducible apply State.dropBags_sound
    | with_reducible apply State.count64_sound
    | with_reducible refine sound_ite (fun _ => ?_) (fun _ => ?_)
    | with_reducible refine sound_foldl (fun _ _ _ => ?_) ?_
    | with_reducible refine sound_foldl_snd (fun _ _ _ => ?_) ?_
    | with_reducible refine sound_foldl_fst (fun _ _ _ => ?_) ?_
    | with_reducible refine sound_foldl_snd2 (fun _ _ _ => ?_) ?_
    | with_reducible refine sound_snd_of (by assumption) ?_
    | with_reducible refine sound_snd2_of (by assumption) ?_
    | with_reducible refine sound_fst_of (by assumption) ?_
    | simp only []
    | split

theorem State.abortStack_sound (s : State) (x : Nat) (fence : Bool) (hs : Sound Q s) (hw : sub 616645696818941 Q.w = true) :
    Sound Q (State.abortStack s x fence) := by
  unfold State.abortStack
  repeat' first
    | with_reducible assumption
    | with_reducible exact sub_trans (by decide) hw
    | with_reducible apply State.accFinish_sound
    | with_reducible apply State.modServer_sound
    | with_reducible apply State.complete_sound
    | with_reducible apply State.modUnit_sound
    | with_reducible apply State.leadCmd_sound
    | with_reducible apply State.statAddr_sound
    | with_reducible apply State.sigAddr_sound
    | with_reducible refine sound_ite (fun _ => ?_) (fun _ => ?_)
    | with_reducible refine sound_foldl (fun _ _ _ => ?_) ?_
    | with_reducible refine sound_foldl_snd (fun _ _ _ => ?_) ?_
    | with_reducible refine sound_foldl_fst (fun _ _ _ => ?_) ?_
    | with_reducible refine sound_foldl_snd2 (fun _ _ _ => ?_) ?_
    | with_reducible refine sound_snd_of (by assumption) ?_
    | with_reducible refine sound_snd2_of (by assumption) ?_
    | with_reducible refine sound_fst_of (by assumption) ?_
    | simp only [sound_set_upk (sub_trans (by decide) hw)]

end Sys2Proof.Machine
end

