-- ==== Sys2Proof/Laws/SoundSorusNeed.lean ====
section
/-! SUPPORT. Laws/SoundSorusNeed.lean: the operations of Machine/SorusNeed.lean keep the waiting commands and the canonical form of both
memories. -/

namespace Sys2Proof.Machine

open Sys2Proof

variable {Q : Frame}

theorem State.indexList_sound (s : State) (x : Nat) (c : SCmd) (n : Nat) (hs : Sound Q s) (hw : sub 598160113273597 Q.w = true) :
    Sound Q (State.indexList s x c n).2 := by
  unfold State.indexList
  repeat' first
    | with_reducible assumption
    | with_reducible exact sub_trans (by decide) hw
    | with_reducible apply State.readList_sound
    | with_reducible refine sound_ite (fun _ => ?_) (fun _ => ?_)
    | with_reducible refine sound_foldl (fun _ _ _ => ?_) ?_
    | with_reducible refine sound_foldl_snd (fun _ _ _ => ?_) ?_
    | with_reducible refine sound_foldl_fst (fun _ _ _ => ?_) ?_
    | with_reducible refine sound_foldl_snd2 (fun _ _ _ => ?_) ?_
    | with_reducible refine sound_snd_of (by assumption) ?_
    | with_reducible refine sound_snd2_of (by assumption) ?_
    | with_reducible refine sound_fst_of (by assumption) ?_
    | simp only []
    | split

theorem State.startCmd_sound (s : State) (x : Nat) (serial : Nat) (hs : Sound Q s) (hw : sub 8388608 Q.w = true) :
    Sound Q (State.startCmd s x serial) := by
  unfold State.startCmd
  repeat' first
    | with_reducible assumption
    | with_reducible exact sub_trans (by decide) hw
    | with_reducible apply State.modCmd_sound

theorem State.loseCmd_sound (s : State) (x : Nat) (serial : Nat) (hs : Sound Q s) (hw : sub 8388608 Q.w = true) :
    Sound Q (State.loseCmd s x serial) := by
  unfold State.loseCmd
  repeat' first
    | with_reducible assumption
    | with_reducible exact sub_trans (by decide) hw
    | with_reducible apply State.modCmd_sound

end Sys2Proof.Machine
end

