-- ==== Sys2Proof/Laws/SoundSorusPool.lean ====
section
/-! SUPPORT. Laws/SoundSorusPool.lean: the operations of Machine/SorusPool.lean keep the waiting commands and the canonical form of both
memories. -/

namespace Sys2Proof.Machine

open Sys2Proof

variable {Q : Frame}

theorem State.loseReq_sound (s : State) (r : Req) (hs : Sound Q s) (hw : sub 8388608 Q.w = true) :
    Sound Q (State.loseReq s r) := by
  unfold State.loseReq
  repeat' first
    | with_reducible assumption
    | with_reducible exact sub_trans (by decide) hw
    | with_reducible apply State.leadCmd_sound
    | with_reducible refine sound_ite (fun _ => ?_) (fun _ => ?_)
    | with_reducible refine sound_foldl (fun _ _ _ => ?_) ?_
    | with_reducible refine sound_foldl_snd (fun _ _ _ => ?_) ?_
    | with_reducible refine sound_foldl_fst (fun _ _ _ => ?_) ?_
    | with_reducible refine sound_foldl_snd2 (fun _ _ _ => ?_) ?_
    | with_reducible refine sound_snd_of (by assumption) ?_
    | with_reducible refine sound_snd2_of (by assumption) ?_
    | with_reducible refine sound_fst_of (by assumption) ?_
    | simp only []
    | split

theorem State.route_sound (s : State) (a1 : List Req) (hs : Sound Q s) (hw : sub 25165824 Q.w = true) :
    Sound Q (State.route s a1).1 := by
  fun_induction State.route s a1
  all_goals
    repeat' first
      | with_reducible assumption
      | with_reducible exact sub_trans (by decide) hw
      | with_reducible apply State.loseReq_sound
      | with_reducible apply State.modUnit_sound
      | with_reducible refine sound_ite (fun _ => ?_) (fun _ => ?_)
      | with_reducible refine sound_foldl (fun _ _ _ => ?_) ?_
      | with_reducible refine sound_foldl_snd (fun _ _ _ => ?_) ?_
      | with_reducible refine sound_foldl_fst (fun _ _ _ => ?_) ?_
      | with_reducible refine sound_foldl_snd2 (fun _ _ _ => ?_) ?_
      | with_reducible refine sound_snd_of (by assumption) ?_
      | with_reducible refine sound_snd2_of (by assumption) ?_
      | with_reducible refine sound_fst_of (by assumption) ?_
      | simp only []
      | split
      | intro _
      | with_reducible apply_assumption

theorem State.routeEach_sound (s : State) (blocked : List Nat) (a2 : List Req) (hs : Sound Q s) (hw : sub 25165824 Q.w = true) :
    Sound Q (State.routeEach s blocked a2).1 := by
  fun_induction State.routeEach s blocked a2
  all_goals
    repeat' first
      | with_reducible assumption
      | with_reducible exact sub_trans (by decide) hw
      | with_reducible apply State.loseReq_sound
      | with_reducible apply State.modUnit_sound
      | with_reducible refine sound_ite (fun _ => ?_) (fun _ => ?_)
      | with_reducible refine sound_foldl (fun _ _ _ => ?_) ?_
      | with_reducible refine sound_foldl_snd (fun _ _ _ => ?_) ?_
      | with_reducible refine sound_foldl_fst (fun _ _ _ => ?_) ?_
      | with_reducible refine sound_foldl_snd2 (fun _ _ _ => ?_) ?_
      | with_reducible refine sound_snd_of (by assumption) ?_
      | with_reducible refine sound_snd2_of (by assumption) ?_
      | with_reducible refine sound_fst_of (by assumption) ?_
      | simp only []
      | split
      | intro _
      | with_reducible apply_assumption

theorem State.routeCmd_sound (s : State) (x : Nat) (serial : Nat) (hs : Sound Q s) (hw : sub 25165824 Q.w = true) :
    Sound Q (State.routeCmd s x serial) := by
  unfold State.routeCmd
  repeat' first
    | with_reducible assumption
    | with_reducible exact sub_trans (by decide) hw
    | with_reducible apply State.route_sound
    | with_reducible apply State.modCmd_sound
    | with_reducible refine sound_ite (fun _ => ?_) (fun _ => ?_)
    | with_reducible refine sound_foldl (fun _ _ _ => ?_) ?_
    | with_reducible refine sound_foldl_snd (fun _ _ _ => ?_) ?_
    | with_reducible refine sound_foldl_fst (fun _ _ _ => ?_) ?_
    | with_reducible refine sound_foldl_snd2 (fun _ _ _ => ?_) ?_
    | with_reducible refine sound_snd_of (by assumption) ?_
    | with_reducible refine sound_snd2_of (by assumption) ?_
    | with_reducible refine sound_fst_of (by assumption) ?_
    | simp only []
    | split

theorem State.routeServer_sound (s : State) (x : Nat) (hs : Sound Q s) (hw : sub 25165824 Q.w = true) :
    Sound Q (State.routeServer s x) := by
  unfold State.routeServer
  repeat' first
    | with_reducible assumption
    | with_reducible exact sub_trans (by decide) hw
    | with_reducible apply State.modServer_sound
    | with_reducible apply State.routeEach_sound

theorem State.addBag_sound (s : State) (x : Nat) (b : Bag) (hs : Sound Q s) (hw : sub 8388608 Q.w = true) :
    Sound Q (State.addBag s x b) := by
  unfold State.addBag
  repeat' first
    | with_reducible assumption
    | with_reducible exact sub_trans (by decide) hw
    | with_reducible apply State.modServer_sound

theorem State.meetPoison_sound (s : State) (lead : Nat) (serial : Nat) (hs : Sound Q s) (hw : sub 8388608 Q.w = true) :
    Sound Q (State.meetPoison s lead serial) := by
  unfold State.meetPoison
  repeat' first
    | with_reducible assumption
    | with_reducible exact sub_trans (by decide) hw
    | with_reducible apply State.leadCmd_sound

theorem State.lostPoison_sound (s : State) (x : Nat) (serial : Nat) (hs : Sound Q s) (hw : sub 8388612 Q.w = true) :
    Sound Q (State.lostPoison s x serial) := by
  unfold State.lostPoison
  repeat' first
    | with_reducible assumption
    | with_reducible exact sub_trans (by decide) hw
    | with_reducible apply State.meetPoison_sound
    | with_reducible apply State.count64_sound

theorem State.addSpoilt_sound (s : State) (x : Nat) (b : Bag) (hs : Sound Q s) (hw : sub 8388608 Q.w = true) :
    Sound Q (State.addSpoilt s x b) := by
  unfold State.addSpoilt
  repeat' first
    | with_reducible assumption
    | with_reducible exact sub_trans (by decide) hw
    | with_reducible apply State.addBag_sound
    | with_reducible apply State.meetPoison_sound

theorem State.modBag_sound (s : State) (x : Nat) (uid : Nat) (f : Bag → Bag) (hs : Sound Q s) (hw : sub 8388608 Q.w = true) :
    Sound Q (State.modBag s x uid f) := by
  unfold State.modBag
  repeat' first
    | with_reducible assumption
    | with_reducible exact sub_trans (by decide) hw
    | with_reducible apply State.modServer_sound

theorem State.addSub_sound (s : State) (x : Nat) (c : SubCmd) (hs : Sound Q s) (hw : sub 8388608 Q.w = true) :
    Sound Q (State.addSub s x c) := by
  unfold State.addSub
  repeat' first
    | with_reducible assumption
    | with_reducible exact sub_trans (by decide) hw
    | with_reducible apply State.modServer_sound
    | with_reducible apply State.leadCmd_sound
    | with_reducible refine sound_ite (fun _ => ?_) (fun _ => ?_)

theorem State.resolveRow_sound (s : State) (v : Version) (row : Nat) (w : Nat) (comp : Option (Nat × Bool)) (r : Resolved) (hs : Sound Q s) (hw : sub 598160650013437 Q.w = true) :
    Sound Q (State.resolveRow s v row w comp r).2 := by
  unfold State.resolveRow
  repeat' first
    | with_reducible assumption
    | with_reducible exact sub_trans (by decide) hw
    | with_reducible apply State.locate_sound
    | with_reducible apply State.poisonUnit_sound
    | with_reducible refine sound_ite (fun _ => ?_) (fun _ => ?_)
    | with_reducible refine sound_foldl (fun _ _ _ => ?_) ?_
    | with_reducible refine sound_foldl_snd (fun _ _ _ => ?_) ?_
    | with_reducible refine sound_foldl_fst (fun _ _ _ => ?_) ?_
    | with_reducible refine sound_foldl_snd2 (fun _ _ _ => ?_) ?_
    | with_reducible refine sound_snd_of (by assumption) ?_
    | with_reducible refine sound_snd2_of (by assumption) ?_
    | with_reducible refine sound_fst_of (by assumption) ?_
    | simp only []
    | split

theorem State.resolveIdx_sound (s : State) (vs : List Version) (i : Nat) (w : Nat) (r : Resolved) (hs : Sound Q s) (hw : sub 598160650013437 Q.w = true) :
    Sound Q (State.resolveIdx s vs i w r).2.2 := by
  unfold State.resolveIdx
  repeat' first
    | with_reducible assumption
    | with_reducible exact sub_trans (by decide) hw
    | with_reducible apply State.resolveRow_sound
    | with_reducible refine sound_ite (fun _ => ?_) (fun _ => ?_)
    | with_reducible refine sound_foldl (fun _ _ _ => ?_) ?_
    | with_reducible refine sound_foldl_snd (fun _ _ _ => ?_) ?_
    | with_reducible refine sound_foldl_fst (fun _ _ _ => ?_) ?_
    | with_reducible refine sound_foldl_snd2 (fun _ _ _ => ?_) ?_
    | with_reducible refine sound_snd_of (by assumption) ?_
    | with_reducible refine sound_snd2_of (by assumption) ?_
    | with_reducible refine sound_fst_of (by assumption) ?_
    | simp only []
    | split

theorem State.resolveBag_sound (s : State) (vs : List Version) (oob : Nat) (a3 : List (Nat × Nat)) (a4 : Resolved) (hs : Sound Q s) (hw : sub 598160650013437 Q.w = true) :
    Sound Q (State.resolveBag s vs oob a3 a4).2.2 := by
  fun_induction State.resolveBag s vs oob a3 a4
  all_goals
    repeat' first
      | with_reducible assumption
      | with_reducible exact sub_trans (by decide) hw
      | with_reducible apply State.resolveIdx_sound
      | with_reducible refine sound_ite (fun _ => ?_) (fun _ => ?_)
      | with_reducible refine sound_foldl (fun _ _ _ => ?_) ?_
      | with_reducible refine sound_foldl_snd (fun _ _ _ => ?_) ?_
      | with_reducible refine sound_foldl_fst (fun _ _ _ => ?_) ?_
      | with_reducible refine sound_foldl_snd2 (fun _ _ _ => ?_) ?_
      | with_reducible refine sound_snd_of (by assumption) ?_
      | with_reducible refine sound_snd2_of (by assumption) ?_
      | with_reducible refine sound_fst_of (by assumption) ?_
      | simp only []
      | split
      | intro _
      | with_reducible apply_assumption

theorem State.dstPieces_sound (s : State) (x : Nat) (dst : Nat) (n : Nat) (hs : Sound Q s) (hw : sub 598160113273597 Q.w = true) :
    Sound Q (State.dstPieces s x dst n).2 := by
  unfold State.dstPieces
  repeat' first
    | with_reducible assumption
    | with_reducible exact sub_trans (by decide) hw
    | with_reducible apply State.xlateRange_sound
    | with_reducible refine sound_ite (fun _ => ?_) (fun _ => ?_)
    | with_reducible refine sound_foldl (fun _ _ _ => ?_) ?_
    | with_reducible refine sound_foldl_snd (fun _ _ _ => ?_) ?_
    | with_reducible refine sound_foldl_fst (fun _ _ _ => ?_) ?_
    | with_reducible refine sound_foldl_snd2 (fun _ _ _ => ?_) ?_
    | with_reducible refine sound_snd_of (by assumption) ?_
    | with_reducible refine sound_snd2_of (by assumption) ?_
    | with_reducible refine sound_fst_of (by assumption) ?_
    | simp only []
    | split

theorem State.accumulate_sound (s : State) (ps : List (Page × Nat)) (op : Nat) (vals : List Nat) (bad : Bool) (tag : Nat) (hs : Sound Q s) (hw : sub 2048 Q.w = true) :
    Sound Q (State.accumulate s ps op vals bad tag) := by
  fun_induction State.accumulate s ps op vals bad tag
  all_goals
    repeat' first
      | with_reducible assumption
      | with_reducible exact sub_trans (by decide) hw
      | with_reducible apply State.modHome_sound
      | with_reducible refine sound_ite (fun _ => ?_) (fun _ => ?_)
      | with_reducible refine sound_foldl (fun _ _ _ => ?_) ?_
      | with_reducible refine sound_foldl_snd (fun _ _ _ => ?_) ?_
      | with_reducible refine sound_foldl_fst (fun _ _ _ => ?_) ?_
      | with_reducible refine sound_foldl_snd2 (fun _ _ _ => ?_) ?_
      | with_reducible refine sound_snd_of (by assumption) ?_
      | with_reducible refine sound_snd2_of (by assumption) ?_
      | with_reducible refine sound_fst_of (by assumption) ?_
      | simp only []
      | split
      | intro _
      | with_reducible apply_assumption

theorem State.sendGather_sound (s : State) (x : Nat) (coord : Nat) (payload : List Byte) (hs : Sound Q s) (hw : sub 616551165199100 Q.w = true) :
    Sound Q (State.sendGather s x coord payload) := by
  unfold State.sendGather
  repeat' first
    | with_reducible assumption
    | with_reducible exact sub_trans (by decide) hw
    | with_reducible apply State.flowSendAll_sound

theorem State.sendRemote_sound (s : State) (x : Nat) (b : Bag) (rem : List RemRow) (hs : Sound Q s) (hw : sub 616551173587708 Q.w = true) :
    Sound Q (State.sendRemote s x b rem) := by
  unfold State.sendRemote
  repeat' first
    | with_reducible assumption
    | with_reducible exact sub_trans (by decide) hw
    | with_reducible apply State.modCmd_sound
    | with_reducible apply State.sendGather_sound
    | with_reducible refine sound_ite (fun _ => ?_) (fun _ => ?_)
    | with_reducible refine sound_foldl (fun _ _ _ => ?_) ?_

theorem State.spreadBag_sound (s : State) (x : Nat) (b : Bag) (hs : Sound Q s) (hw : sub 598160121662205 Q.w = true) :
    OSound Q (State.spreadBag s x b) := by
  unfold State.spreadBag
  repeat' first
    | with_reducible assumption
    | with_reducible exact sub_trans (by decide) hw
    | with_reducible apply OSound.none
    | with_reducible apply OSound.some
    | with_reducible apply State.writeDest_sound
    | with_reducible apply State.modBag_sound
    | with_reducible apply State.dstPieces_sound
    | with_reducible refine osound_findSome (fun _ => ?_)
    | with_reducible refine osound_map ?_ (fun _ _ => ?_)
    | with_reducible refine osound_bind ?_ (fun _ _ => ?_)
    | with_reducible refine osound_foldl (fun _ _ _ => ?_) ?_
    | with_reducible refine pred_ite (P := OSound Q) (fun _ => ?_) (fun _ => ?_)
    | with_reducible refine sound_ite (fun _ => ?_) (fun _ => ?_)
    | with_reducible refine sound_foldl (fun _ _ _ => ?_) ?_
    | with_reducible refine sound_foldl_snd (fun _ _ _ => ?_) ?_
    | with_reducible refine sound_foldl_fst (fun _ _ _ => ?_) ?_
    | with_reducible refine sound_foldl_snd2 (fun _ _ _ => ?_) ?_
    | with_reducible refine sound_snd_of (by assumption) ?_
    | with_reducible refine sound_snd2_of (by assumption) ?_
    | with_reducible refine sound_fst_of (by assumption) ?_
    | simp only []
    | split

theorem State.lostBag_sound (s : State) (x : Nat) (b : Bag) (hs : Sound Q s) (hw : sub 8388608 Q.w = true) :
    Sound Q (State.lostBag s x b) := by
  unfold State.lostBag
  repeat' first
    | with_reducible assumption
    | with_reducible exact sub_trans (by decide) hw
    | with_reducible apply State.modBag_sound
    | with_reducible apply State.modCmd_sound

theorem State.ownRows_sound (s : State) (x : Nat) (b : Bag) (rows : List RowRef) (hs : Sound Q s) (hw : sub 8388608 Q.w = true) :
    Sound Q (State.ownRows s x b rows).2 := by
  unfold State.ownRows
  repeat' first
    | with_reducible assumption
    | with_reducible exact sub_trans (by decide) hw
    | with_reducible apply State.addSub_sound
    | with_reducible apply State.modBag_sound
    | with_reducible refine sound_ite (fun _ => ?_) (fun _ => ?_)
    | with_reducible refine sound_foldl (fun _ _ _ => ?_) ?_

theorem State.noteSpread_sound (s : State) (at_ : Nat × Nat) (split : Bool) (remote : Bool) (hs : Sound Q s) (hw : sub 8388612 Q.w = true) :
    Sound Q (State.noteSpread s at_ split remote) := by
  unfold State.noteSpread
  repeat' first
    | with_reducible assumption
    | with_reducible exact sub_trans (by decide) hw
    | with_reducible apply State.modBag_sound
    | with_reducible apply State.count64_sound
    | with_reducible refine sound_ite (fun _ => ?_) (fun _ => ?_)
    | with_reducible refine sound_foldl (fun _ _ _ => ?_) ?_
    | with_reducible refine sound_foldl_snd (fun _ _ _ => ?_) ?_
    | with_reducible refine sound_foldl_fst (fun _ _ _ => ?_) ?_
    | with_reducible refine sound_foldl_snd2 (fun _ _ _ => ?_) ?_
    | with_reducible refine sound_snd_of (by assumption) ?_
    | with_reducible refine sound_snd2_of (by assumption) ?_
    | with_reducible refine sound_fst_of (by assumption) ?_
    | simp only []
    | split

theorem State.openBag_sound (s : State) (x : Nat) (b : Bag) (r : Resolved) (hs : Sound Q s) (hw : sub 616576943524605 Q.w = true) :
    Sound Q (State.openBag s x b r).2 := by
  unfold State.openBag
  repeat' first
    | with_reducible assumption
    | with_reducible exact sub_trans (by decide) hw
    | with_reducible apply State.spreadBag_sound
    | with_reducible apply State.addSub_sound
    | with_reducible apply State.lostBag_sound
    | with_reducible apply State.modBag_sound
    | with_reducible apply State.addBag_sound
    | with_reducible apply State.modCmd_sound
    | with_reducible apply State.noteSpread_sound
    | with_reducible apply State.ownRows_sound
    | with_reducible apply State.sendRemote_sound
    | with_reducible refine osound_getD ?_ ?_
    | with_reducible refine sound_ite (fun _ => ?_) (fun _ => ?_)
    | with_reducible refine sound_foldl (fun _ _ _ => ?_) ?_
    | with_reducible refine osound_some (by assumption) ?_
    | with_reducible refine sound_foldl_snd (fun _ _ _ => ?_) ?_
    | with_reducible refine sound_foldl_fst (fun _ _ _ => ?_) ?_
    | with_reducible refine sound_foldl_snd2 (fun _ _ _ => ?_) ?_
    | with_reducible refine sound_snd_of (by assumption) ?_
    | with_reducible refine sound_snd2_of (by assumption) ?_
    | with_reducible refine sound_fst_of (by assumption) ?_
    | simp only []
    | split

theorem State.endFault_sound (s : State) (x : Nat) (serial : Nat) (reason : Nat) (hs : Sound Q s) (hw : sub 8388608 Q.w = true) :
    Sound Q (State.endFault s x serial reason) := by
  unfold State.endFault
  repeat' first
    | with_reducible assumption
    | with_reducible exact sub_trans (by decide) hw
    | with_reducible apply State.modCmd_sound

theorem State.pooledBag_sound (s : State) (j : PoolJob) (k : Nat) (first : Nat) (l : List ((Nat × Nat) × Bool)) (hs : Sound Q s) (hw : sub 616577484589821 Q.w = true) :
    Sound Q (State.pooledBag s j k first l).2 := by
  unfold State.pooledBag
  repeat' first
    | with_reducible assumption
    | with_reducible exact sub_trans (by decide) hw
    | with_reducible apply State.lostPoison_sound
    | with_reducible apply State.resolveBag_sound
    | with_reducible apply State.endFault_sound
    | with_reducible apply State.addSpoilt_sound
    | with_reducible apply State.modCmd_sound
    | with_reducible apply State.openBag_sound
    | with_reducible apply State.count64_sound
    | with_reducible refine sound_ite (fun _ => ?_) (fun _ => ?_)
    | with_reducible refine sound_foldl (fun _ _ _ => ?_) ?_
    | with_reducible refine sound_foldl_snd (fun _ _ _ => ?_) ?_
    | with_reducible refine sound_foldl_fst (fun _ _ _ => ?_) ?_
    | with_reducible refine sound_foldl_snd2 (fun _ _ _ => ?_) ?_
    | with_reducible refine sound_snd_of (by assumption) ?_
    | with_reducible refine sound_snd2_of (by assumption) ?_
    | with_reducible refine sound_fst_of (by assumption) ?_
    | simp only [sound_set_serial (sub_trans (by decide) hw)]
    | split

theorem State.pooledBags_sound (s : State) (j : PoolJob) (a2 : List (Nat × Nat × List ((Nat × Nat) × Bool))) (a3 : List Req) (hs : Sound Q s) (hw : sub 616577484589821 Q.w = true) :
    Sound Q (State.pooledBags s j a2 a3).2 := by
  fun_induction State.pooledBags s j a2 a3
  all_goals
    repeat' first
      | with_reducible assumption
      | with_reducible exact sub_trans (by decide) hw
      | with_reducible apply State.pooledBag_sound
      | with_reducible refine sound_ite (fun _ => ?_) (fun _ => ?_)
      | with_reducible refine sound_foldl (fun _ _ _ => ?_) ?_
      | with_reducible refine sound_foldl_snd (fun _ _ _ => ?_) ?_
      | with_reducible refine sound_foldl_fst (fun _ _ _ => ?_) ?_
      | with_reducible refine sound_foldl_snd2 (fun _ _ _ => ?_) ?_
      | with_reducible refine sound_snd_of (by assumption) ?_
      | with_reducible refine sound_snd2_of (by assumption) ?_
      | with_reducible refine sound_fst_of (by assumption) ?_
      | simp only []
      | split
      | intro _
      | with_reducible apply_assumption

theorem State.routeMore_sound (s : State) (x : Nat) (serial : Nat) (reqs : List Req) (hs : Sound Q s) (hw : sub 25165824 Q.w = true) :
    Sound Q (State.routeMore s x serial reqs) := by
  unfold State.routeMore
  repeat' first
    | with_reducible assumption
    | with_reducible exact sub_trans (by decide) hw
    | with_reducible apply State.routeCmd_sound
    | with_reducible apply State.modCmd_sound

theorem State.runBags_sound (s : State) (x : Nat) (serial : Nat) (j : PoolJob) (bags : List (Nat × Nat × List ((Nat × Nat) × Bool))) (hs : Sound Q s) (hw : sub 616577484589821 Q.w = true) :
    Sound Q (State.runBags s x serial j bags) := by
  unfold State.runBags
  repeat' first
    | with_reducible assumption
    | with_reducible exact sub_trans (by decide) hw
    | with_reducible apply State.pooledBags_sound
    | with_reducible apply State.routeMore_sound

theorem State.pool_sound (s : State) (x : Nat) (c : SCmd) (bags : List (Nat × Nat × List ((Nat × Nat) × Bool))) (hs : Sound Q s) (hw : sub 616577484589821 Q.w = true) :
    Sound Q (State.pool s x c bags) := by
  unfold State.pool
  repeat' first
    | with_reducible assumption
    | with_reducible exact sub_trans (by decide) hw
    | with_reducible apply State.runBags_sound

theorem State.notePoison_sound (s : State) (x : Nat) (serial : Nat) (l : List (Nat × Bool)) (hs : Sound Q s) (hw : sub 8388608 Q.w = true) :
    Sound Q (State.notePoison s x serial l) := by
  unfold State.notePoison
  repeat' first
    | with_reducible assumption
    | with_reducible exact sub_trans (by decide) hw
    | with_reducible apply State.modCmd_sound
    | with_reducible refine sound_ite (fun _ => ?_) (fun _ => ?_)

theorem State.segBag_sound (s : State) (j : PoolJob) (c : SCmd) (k : Nat) (seg : Option (Nat × Nat)) (bad : Bool) (hs : Sound Q s) (hw : sub 616577484589821 Q.w = true) :
    Sound Q (State.segBag s j c k seg bad).2 := by
  unfold State.segBag
  repeat' first
    | with_reducible assumption
    | with_reducible exact sub_trans (by decide) hw
    | with_reducible apply State.readList_sound
    | with_reducible apply State.notePoison_sound
    | with_reducible apply State.pooledBag_sound
    | with_reducible apply State.endFault_sound
    | with_reducible apply State.modCmd_sound
    | with_reducible refine sound_ite (fun _ => ?_) (fun _ => ?_)
    | with_reducible refine sound_foldl (fun _ _ _ => ?_) ?_
    | with_reducible refine sound_foldl_snd (fun _ _ _ => ?_) ?_
    | with_reducible refine sound_foldl_fst (fun _ _ _ => ?_) ?_
    | with_reducible refine sound_foldl_snd2 (fun _ _ _ => ?_) ?_
    | with_reducible refine sound_snd_of (by assumption) ?_
    | with_reducible refine sound_snd2_of (by assumption) ?_
    | with_reducible refine sound_fst_of (by assumption) ?_
    | simp only []
    | split

theorem State.segBags_sound (s : State) (j : PoolJob) (c : SCmd) (a3 : List (Nat × Option (Nat × Nat) × Bool)) (a4 : List Req) (hs : Sound Q s) (hw : sub 616577484589821 Q.w = true) :
    Sound Q (State.segBags s j c a3 a4).2 := by
  fun_induction State.segBags s j c a3 a4
  all_goals
    repeat' first
      | with_reducible assumption
      | with_reducible exact sub_trans (by decide) hw
      | with_reducible apply State.segBag_sound
      | with_reducible refine sound_ite (fun _ => ?_) (fun _ => ?_)
      | with_reducible refine sound_foldl (fun _ _ _ => ?_) ?_
      | with_reducible refine sound_foldl_snd (fun _ _ _ => ?_) ?_
      | with_reducible refine sound_foldl_fst (fun _ _ _ => ?_) ?_
      | with_reducible refine sound_foldl_snd2 (fun _ _ _ => ?_) ?_
      | with_reducible refine sound_snd_of (by assumption) ?_
      | with_reducible refine sound_snd2_of (by assumption) ?_
      | with_reducible refine sound_fst_of (by assumption) ?_
      | simp only []
      | split
      | intro _
      | with_reducible apply_assumption

theorem State.joinAt_sound (s : State) (x : Nat) (uid : Nat) (p : NMap Nat) (bad : Bool) (hs : Sound Q s) (hw : sub 8388608 Q.w = true) :
    Sound Q (State.joinAt s x uid p bad) := by
  unfold State.joinAt
  repeat' first
    | with_reducible assumption
    | with_reducible exact sub_trans (by decide) hw
    | with_reducible apply State.modBag_sound

theorem State.settlePhy_sound (s : State) (x : Nat) (uid : Nat) (hs : Sound Q s) (hw : sub 8388608 Q.w = true) :
    Sound Q (State.settlePhy s x uid) := by
  unfold State.settlePhy
  repeat' first
    | with_reducible assumption
    | with_reducible exact sub_trans (by decide) hw
    | with_reducible apply State.modServer_sound
    | with_reducible apply State.joinAt_sound
    | with_reducible refine sound_ite (fun _ => ?_) (fun _ => ?_)
    | with_reducible refine sound_foldl (fun _ _ _ => ?_) ?_
    | with_reducible refine sound_foldl_snd (fun _ _ _ => ?_) ?_
    | with_reducible refine sound_foldl_fst (fun _ _ _ => ?_) ?_
    | with_reducible refine sound_foldl_snd2 (fun _ _ _ => ?_) ?_
    | with_reducible refine sound_snd_of (by assumption) ?_
    | with_reducible refine sound_snd2_of (by assumption) ?_
    | with_reducible refine sound_fst_of (by assumption) ?_
    | simp only []
    | split

theorem State.applySector_sound (s : State) (r : Req) (codes : NMap Nat) (hdr : Nat) (bad : Bool) (hs : Sound Q s) (hw : sub 8388612 Q.w = true) :
    Sound Q (State.applySector s r codes hdr bad) := by
  unfold State.applySector
  repeat' first
    | with_reducible assumption
    | with_reducible exact sub_trans (by decide) hw
    | with_reducible apply State.modBag_sound
    | with_reducible apply State.settlePhy_sound
    | with_reducible apply State.meetPoison_sound
    | with_reducible apply State.unitCount_sound
    | with_reducible refine sound_ite (fun _ => ?_) (fun _ => ?_)
    | with_reducible refine sound_foldl (fun _ _ _ => ?_) ?_
    | with_reducible refine sound_foldl_snd (fun _ _ _ => ?_) ?_
    | with_reducible refine sound_foldl_fst (fun _ _ _ => ?_) ?_
    | with_reducible refine sound_foldl_snd2 (fun _ _ _ => ?_) ?_
    | with_reducible refine sound_snd_of (by assumption) ?_
    | with_reducible refine sound_snd2_of (by assumption) ?_
    | with_reducible refine sound_fst_of (by assumption) ?_
    | simp only []
    | split

theorem State.passHeader_sound (s : State) (at_ : Nat × Nat) (occ : Nat) (hdr : Nat) (hs : Sound Q s) (hw : sub 8388612 Q.w = true) :
    Sound Q (State.passHeader s at_ occ hdr) := by
  unfold State.passHeader
  repeat' first
    | with_reducible assumption
    | with_reducible exact sub_trans (by decide) hw
    | with_reducible apply State.modBag_sound
    | with_reducible apply State.applySector_sound
    | with_reducible refine sound_ite (fun _ => ?_) (fun _ => ?_)
    | with_reducible refine sound_foldl (fun _ _ _ => ?_) ?_
    | with_reducible refine sound_foldl_snd (fun _ _ _ => ?_) ?_
    | with_reducible refine sound_foldl_fst (fun _ _ _ => ?_) ?_
    | with_reducible refine sound_foldl_snd2 (fun _ _ _ => ?_) ?_
    | with_reducible refine sound_snd_of (by assumption) ?_
    | with_reducible refine sound_snd2_of (by assumption) ?_
    | with_reducible refine sound_fst_of (by assumption) ?_
    | simp only []
    | split

theorem State.deliver_sound (s : State) (r : Req) (bad : Bool) (hs : Sound Q s) (hw : sub 8388612 Q.w = true) :
    Sound Q (State.deliver s r bad) := by
  unfold State.deliver
  repeat' first
    | with_reducible assumption
    | with_reducible exact sub_trans (by decide) hw
    | with_reducible apply State.modBag_sound
    | with_reducible apply State.applySector_sound
    | with_reducible apply State.passHeader_sound
    | with_reducible refine sound_ite (fun _ => ?_) (fun _ => ?_)
    | with_reducible refine sound_foldl (fun _ _ _ => ?_) ?_
    | with_reducible refine sound_foldl_snd (fun _ _ _ => ?_) ?_
    | with_reducible refine sound_foldl_fst (fun _ _ _ => ?_) ?_
    | with_reducible refine sound_foldl_snd2 (fun _ _ _ => ?_) ?_
    | with_reducible refine sound_snd_of (by assumption) ?_
    | with_reducible refine sound_snd2_of (by assumption) ?_
    | with_reducible refine sound_fst_of (by assumption) ?_
    | simp only []
    | split

theorem State.failReq_sound (s : State) (r : Req) (hs : Sound Q s) (hw : sub 8388612 Q.w = true) :
    Sound Q (State.failReq s r) := by
  unfold State.failReq
  repeat' first
    | with_reducible assumption
    | with_reducible exact sub_trans (by decide) hw
    | with_reducible apply State.modBag_sound
    | with_reducible apply State.settlePhy_sound
    | with_reducible apply State.leadCmd_sound
    | with_reducible apply State.passHeader_sound
    | with_reducible refine sound_ite (fun _ => ?_) (fun _ => ?_)
    | with_reducible refine sound_foldl (fun _ _ _ => ?_) ?_
    | with_reducible refine sound_foldl_snd (fun _ _ _ => ?_) ?_
    | with_reducible refine sound_foldl_fst (fun _ _ _ => ?_) ?_
    | with_reducible refine sound_foldl_snd2 (fun _ _ _ => ?_) ?_
    | with_reducible refine sound_snd_of (by assumption) ?_
    | with_reducible refine sound_snd2_of (by assumption) ?_
    | with_reducible refine sound_fst_of (by assumption) ?_
    | simp only []
    | split

theorem State.checkRead_sound (s : State) (sec : Nat) (f : EccFinding) (hs : Sound Q s) (hw : sub 598160113142525 Q.w = true) :
    Sound Q (State.checkRead s sec f).2 := by
  unfold State.checkRead
  repeat' first
    | with_reducible assumption
    | with_reducible exact sub_trans (by decide) hw
    | with_reducible apply State.dramFatal_sound
    | with_reducible apply State.dramCorrected_sound
    | with_reducible apply State.dramUncorrectable_sound
    | with_reducible refine sound_ite (fun _ => ?_) (fun _ => ?_)
    | with_reducible refine sound_foldl (fun _ _ _ => ?_) ?_
    | with_reducible refine sound_foldl_snd (fun _ _ _ => ?_) ?_
    | with_reducible refine sound_foldl_fst (fun _ _ _ => ?_) ?_
    | with_reducible refine sound_foldl_snd2 (fun _ _ _ => ?_) ?_
    | with_reducible refine sound_snd_of (by assumption) ?_
    | with_reducible refine sound_snd2_of (by assumption) ?_
    | with_reducible refine sound_fst_of (by assumption) ?_
    | simp only []
    | split

theorem State.dropBag_sound (s : State) (x : Nat) (uid : Nat) (hs : Sound Q s) (hw : sub 8388608 Q.w = true) :
    Sound Q (State.dropBag s x uid) := by
  unfold State.dropBag
  repeat' first
    | with_reducible assumption
    | with_reducible exact sub_trans (by decide) hw
    | with_reducible apply State.modServer_sound

theorem State.finishRow_sound (s : State) (x : Nat) (b : Bag) (hs : Sound Q s) (hw : sub 598160121662205 Q.w = true) :
    Sound Q (State.finishRow s x b) := by
  unfold State.finishRow
  repeat' first
    | with_reducible assumption
    | with_reducible exact sub_trans (by decide) hw
    | with_reducible apply State.writeDest_sound
    | with_reducible apply State.dropBag_sound
    | with_reducible apply State.endFault_sound
    | with_reducible apply State.modCmd_sound
    | with_reducible apply State.dstPieces_sound
    | with_reducible apply State.count32_sound
    | with_reducible apply State.count64_sound
    | with_reducible refine sound_ite (fun _ => ?_) (fun _ => ?_)
    | with_reducible refine sound_foldl (fun _ _ _ => ?_) ?_
    | with_reducible refine sound_foldl_snd (fun _ _ _ => ?_) ?_
    | with_reducible refine sound_foldl_fst (fun _ _ _ => ?_) ?_
    | with_reducible refine sound_foldl_snd2 (fun _ _ _ => ?_) ?_
    | with_reducible refine sound_snd_of (by assumption) ?_
    | with_reducible refine sound_snd2_of (by assumption) ?_
    | with_reducible refine sound_fst_of (by assumption) ?_
    | simp only []
    | split

theorem State.finishAcc_sound (s : State) (x : Nat) (b : Bag) (hs : Sound Q s) (hw : sub 598160121662205 Q.w = true) :
    Sound Q (State.finishAcc s x b) := by
  unfold State.finishAcc
  repeat' first
    | with_reducible assumption
    | with_reducible exact sub_trans (by decide) hw
    | with_reducible apply State.dropBag_sound
    | with_reducible apply State.accumulate_sound
    | with_reducible apply State.dstPieces_sound
    | with_reducible apply State.leadCmd_sound
    | with_reducible apply State.count64_sound
    | with_reducible refine sound_ite (fun _ => ?_) (fun _ => ?_)
    | with_reducible refine sound_foldl (fun _ _ _ => ?_) ?_
    | with_reducible refine sound_foldl_snd (fun _ _ _ => ?_) ?_
    | with_reducible refine sound_foldl_fst (fun _ _ _ => ?_) ?_
    | with_reducible refine sound_foldl_snd2 (fun _ _ _ => ?_) ?_
    | with_reducible refine sound_snd_of (by assumption) ?_
    | with_reducible refine sound_snd2_of (by assumption) ?_
    | with_reducible refine sound_fst_of (by assumption) ?_
    | simp only []
    | split

theorem State.finishFar_sound (s : State) (x : Nat) (b : Bag) (hs : Sound Q s) (hw : sub 616551173587708 Q.w = true) :
    Sound Q (State.finishFar s x b) := by
  unfold State.finishFar
  repeat' first
    | with_reducible assumption
    | with_reducible exact sub_trans (by decide) hw
    | with_reducible apply State.dropBag_sound
    | with_reducible apply State.flowSendAll_sound
    | with_reducible apply State.flowSend_sound
    | with_reducible apply State.count64_sound
    | with_reducible refine sound_ite (fun _ => ?_) (fun _ => ?_)
    | with_reducible refine sound_foldl (fun _ _ _ => ?_) ?_
    | with_reducible refine sound_foldl_snd (fun _ _ _ => ?_) ?_
    | with_reducible refine sound_foldl_fst (fun _ _ _ => ?_) ?_
    | with_reducible refine sound_foldl_snd2 (fun _ _ _ => ?_) ?_
    | with_reducible refine sound_snd_of (by assumption) ?_
    | with_reducible refine sound_snd2_of (by assumption) ?_
    | with_reducible refine sound_fst_of (by assumption) ?_
    | simp only []
    | split

theorem State.copySectors_sound (s : State) (a1 : List (Nat × Nat)) (hs : Sound Q s) (hw : sub 598160121531133 Q.w = true) :
    Sound Q (State.copySectors s a1) := by
  fun_induction State.copySectors s a1
  all_goals
    repeat' first
      | with_reducible assumption
      | with_reducible exact sub_trans (by decide) hw
      | with_reducible apply State.writePa_sound
      | with_reducible apply State.dirtyHot_sound
      | with_reducible apply State.beforeWrite_sound
      | with_reducible apply State.meet_sound
      | with_reducible refine sound_ite (fun _ => ?_) (fun _ => ?_)
      | with_reducible refine sound_foldl (fun _ _ _ => ?_) ?_
      | with_reducible refine sound_foldl_snd (fun _ _ _ => ?_) ?_
      | with_reducible refine sound_foldl_fst (fun _ _ _ => ?_) ?_
      | with_reducible refine sound_foldl_snd2 (fun _ _ _ => ?_) ?_
      | with_reducible refine sound_snd_of (by assumption) ?_
      | with_reducible refine sound_snd2_of (by assumption) ?_
      | with_reducible refine sound_fst_of (by assumption) ?_
      | simp only []
      | split
      | intro _
      | with_reducible apply_assumption

theorem State.probeOne_sound (s : State) (vs : List Version) (i : Nat) (hs : Sound Q s) (hw : sub 598160650013437 Q.w = true) :
    Sound Q (State.probeOne s vs i).2 := by
  unfold State.probeOne
  repeat' first
    | with_reducible assumption
    | with_reducible exact sub_trans (by decide) hw
    | with_reducible apply State.locate_sound
    | with_reducible apply State.poisonUnit_sound
    | with_reducible refine sound_ite (fun _ => ?_) (fun _ => ?_)
    | with_reducible refine sound_foldl (fun _ _ _ => ?_) ?_
    | with_reducible refine sound_foldl_snd (fun _ _ _ => ?_) ?_
    | with_reducible refine sound_foldl_fst (fun _ _ _ => ?_) ?_
    | with_reducible refine sound_foldl_snd2 (fun _ _ _ => ?_) ?_
    | with_reducible refine sound_snd_of (by assumption) ?_
    | with_reducible refine sound_snd2_of (by assumption) ?_
    | with_reducible refine sound_fst_of (by assumption) ?_
    | simp only []
    | split

theorem State.probeAll_sound (s : State) (x serial : Nat) (vs : List Version) (l : List (Nat × Bool)) (acc : List Byte)
    (hs : Sound Q s) (hw : sub 598160658402045 Q.w = true) : Sound Q (State.probeAll s x serial vs l acc).2 := by
  induction l generalizing s acc with
  | nil => exact hs
  | cons i l ih =>
    obtain ⟨i, _⟩ := i
    have h1 := State.probeOne_sound s vs i hs (sub_trans (by decide) hw)
    unfold State.probeAll
    split
    next e =>
      exact ih _ _ (sound_ite (fun _ => State.meetPoison_sound _ _ _ (sound_snd_of e h1) (sub_trans (by decide) hw))
        (fun _ => sound_snd_of e h1))
    next e => exact sound_snd_of e h1

end Sys2Proof.Machine
end

