-- ==== Sys2Proof/Laws/SoundSorusGraph.lean ====
section
/-! SUPPORT. Laws/SoundSorusGraph.lean: the operations of Machine/SorusGraph.lean keep the waiting commands and the canonical form of both
memories. -/

namespace Sys2Proof.Machine

open Sys2Proof

variable {Q : Frame}

theorem State.graphStop_sound (s : State) (x : Nat) (serial : Nat) (r : Nat) (hs : Sound Q s) (hw : sub 8388608 Q.w = true) :
    OSound Q (State.graphStop s x serial r) := by
  unfold State.graphStop
  repeat' first
    | with_reducible assumption
    | with_reducible exact sub_trans (by decide) hw
    | with_reducible apply OSound.none
    | with_reducible apply OSound.some
    | with_reducible apply State.loseCmd_sound
    | with_reducible apply State.endFault_sound
    | with_reducible refine osound_findSome (fun _ => ?_)
    | with_reducible refine osound_map ?_ (fun _ _ => ?_)
    | with_reducible refine osound_bind ?_ (fun _ _ => ?_)
    | with_reducible refine osound_foldl (fun _ _ _ => ?_) ?_
    | with_reducible refine pred_ite (P := OSound Q) (fun _ => ?_) (fun _ => ?_)

theorem State.graphList_sound (s : State) (x : Nat) (va : Nat) (n : Nat) (w : Nat) (hs : Sound Q s) (hw : sub 598160113273597 Q.w = true) :
    Sound Q (State.graphList s x va n w).2 := by
  unfold State.graphList
  repeat' first
    | with_reducible assumption
    | with_reducible exact sub_trans (by decide) hw
    | with_reducible apply State.xlateRange_sound
    | with_reducible apply State.fatal_sound
    | with_reducible apply State.meetPieces_sound
    | with_reducible refine sound_ite (fun _ => ?_) (fun _ => ?_)
    | with_reducible refine sound_foldl (fun _ _ _ => ?_) ?_
    | with_reducible refine sound_foldl_snd (fun _ _ _ => ?_) ?_
    | with_reducible refine sound_foldl_fst (fun _ _ _ => ?_) ?_
    | with_reducible refine sound_foldl_snd2 (fun _ _ _ => ?_) ?_
    | with_reducible refine sound_snd_of (by assumption) ?_
    | with_reducible refine sound_snd2_of (by assumption) ?_
    | with_reducible refine sound_fst_of (by assumption) ?_
    | simp only []
    | split

theorem State.vertexEdges_sound (s : State) (x : Nat) (g : Nat) (v : Nat) (hs : Sound Q s) (hw : sub 598160113273597 Q.w = true) :
    Sound Q (State.vertexEdges s x g v).2 := by
  unfold State.vertexEdges
  repeat' first
    | with_reducible assumption
    | with_reducible exact sub_trans (by decide) hw
    | with_reducible apply State.graphList_sound
    | with_reducible apply State.count32_sound
    | with_reducible refine sound_ite (fun _ => ?_) (fun _ => ?_)
    | with_reducible refine sound_foldl (fun _ _ _ => ?_) ?_
    | with_reducible refine sound_foldl_snd (fun _ _ _ => ?_) ?_
    | with_reducible refine sound_foldl_fst (fun _ _ _ => ?_) ?_
    | with_reducible refine sound_foldl_snd2 (fun _ _ _ => ?_) ?_
    | with_reducible refine sound_snd_of (by assumption) ?_
    | with_reducible refine sound_snd2_of (by assumption) ?_
    | with_reducible refine sound_fst_of (by assumption) ?_
    | simp only []
    | split

theorem State.edgesAt_sound (s : State) (x : Nat) (g : Nat) (wsum : Bool) (lo : Nat) (n : Nat) (hs : Sound Q s) (hw : sub 598160113273597 Q.w = true) :
    Sound Q (State.edgesAt s x g wsum lo n).2 := by
  unfold State.edgesAt
  repeat' first
    | with_reducible assumption
    | with_reducible exact sub_trans (by decide) hw
    | with_reducible apply State.graphList_sound
    | with_reducible refine sound_ite (fun _ => ?_) (fun _ => ?_)
    | with_reducible refine sound_foldl (fun _ _ _ => ?_) ?_
    | with_reducible refine sound_foldl_snd (fun _ _ _ => ?_) ?_
    | with_reducible refine sound_foldl_fst (fun _ _ _ => ?_) ?_
    | with_reducible refine sound_foldl_snd2 (fun _ _ _ => ?_) ?_
    | with_reducible refine sound_snd_of (by assumption) ?_
    | with_reducible refine sound_snd2_of (by assumption) ?_
    | with_reducible refine sound_fst_of (by assumption) ?_
    | simp only []
    | split

theorem State.countOob_sound (s : State) (x : Nat) (serial : Nat) (n : Nat) (hs : Sound Q s) (hw : sub 8388612 Q.w = true) :
    Sound Q (State.countOob s x serial n) := by
  unfold State.countOob
  repeat' first
    | with_reducible assumption
    | with_reducible exact sub_trans (by decide) hw
    | with_reducible apply State.modCmd_sound
    | with_reducible apply State.count64_sound
    | with_reducible refine sound_ite (fun _ => ?_) (fun _ => ?_)

theorem State.resolveVerts_sound (s : State) (vs : List Version) (a2 : List (Nat × Nat)) (a3 : Resolved) (hs : Sound Q s) (hw : sub 598160650013437 Q.w = true) :
    Sound Q (State.resolveVerts s vs a2 a3).2 := by
  fun_induction State.resolveVerts s vs a2 a3
  all_goals
    repeat' first
      | with_reducible assumption
      | with_reducible exact sub_trans (by decide) hw
      | with_reducible apply State.resolveIdx_sound
      | with_reducible refine sound_ite (fun _ => ?_) (fun _ => ?_)
      | with_reducible refine sound_foldl (fun _ _ _ => ?_) ?_
      | with_reducible refine sound_foldl_snd (fun _ _ _ => ?_) ?_
      | with_reducible refine sound_foldl_fst (fun _ _ _ => ?_) ?_
      | with_reducible refine sound_foldl_snd2 (fun _ _ _ => ?_) ?_
      | with_reducible refine sound_snd_of (by assumption) ?_
      | with_reducible refine sound_snd2_of (by assumption) ?_
      | with_reducible refine sound_fst_of (by assumption) ?_
      | simp only []
      | split
      | intro _
      | with_reducible apply_assumption

theorem State.treeRows_sound (s : State) (y : Nat) (b : Bag) (root : Nat × Nat) (r : Resolved) (hs : Sound Q s) (hw : sub 8388612 Q.w = true) :
    Sound Q (State.treeRows s y b root r).2 := by
  unfold State.treeRows
  repeat' first
    | with_reducible assumption
    | with_reducible exact sub_trans (by decide) hw
    | with_reducible apply State.addSub_sound
    | with_reducible apply State.modBag_sound
    | with_reducible apply State.noteSpread_sound
    | with_reducible refine sound_ite (fun _ => ?_) (fun _ => ?_)
    | with_reducible refine sound_foldl (fun _ _ _ => ?_) ?_

theorem State.openTree_sound (s : State) (y : Nat) (b : Bag) (root : Nat × Nat) (r : Resolved) (hs : Sound Q s) (hw : sub 616576943524605 Q.w = true) :
    Sound Q (State.openTree s y b root r).2 := by
  unfold State.openTree
  repeat' first
    | with_reducible assumption
    | with_reducible exact sub_trans (by decide) hw
    | with_reducible apply State.treeRows_sound
    | with_reducible apply State.openBag_sound

theorem State.deal_sound (s : State) (a1 : List (Nat × Chunk)) (hs : Sound Q s) (hw : sub 16777216 Q.w = true) :
    Sound Q (State.deal s a1).2 := by
  fun_induction State.deal s a1
  all_goals
    repeat' first
      | with_reducible assumption
      | with_reducible exact sub_trans (by decide) hw
      | with_reducible apply State.modUnit_sound
      | with_reducible refine sound_ite (fun _ => ?_) (fun _ => ?_)
      | with_reducible refine sound_foldl (fun _ _ _ => ?_) ?_
      | with_reducible refine sound_foldl_snd (fun _ _ _ => ?_) ?_
      | with_reducible refine sound_foldl_fst (fun _ _ _ => ?_) ?_
      | with_reducible refine sound_foldl_snd2 (fun _ _ _ => ?_) ?_
      | with_reducible refine sound_snd_of (by assumption) ?_
      | with_reducible refine sound_snd2_of (by assumption) ?_
      | with_reducible refine sound_fst_of (by assumption) ?_
      | simp only []
      | split
      | intro _
      | with_reducible apply_assumption

theorem State.dealCmd_sound (s : State) (x : Nat) (serial : Nat) (hs : Sound Q s) (hw : sub 25165824 Q.w = true) :
    Sound Q (State.dealCmd s x serial) := by
  unfold State.dealCmd
  repeat' first
    | with_reducible assumption
    | with_reducible exact sub_trans (by decide) hw
    | with_reducible apply State.deal_sound
    | with_reducible apply State.modCmd_sound
    | with_reducible refine sound_ite (fun _ => ?_) (fun _ => ?_)
    | with_reducible refine sound_foldl (fun _ _ _ => ?_) ?_
    | with_reducible refine sound_foldl_snd (fun _ _ _ => ?_) ?_
    | with_reducible refine sound_foldl_fst (fun _ _ _ => ?_) ?_
    | with_reducible refine sound_foldl_snd2 (fun _ _ _ => ?_) ?_
    | with_reducible refine sound_snd_of (by assumption) ?_
    | with_reducible refine sound_snd2_of (by assumption) ?_
    | with_reducible refine sound_fst_of (by assumption) ?_
    | simp only []
    | split

theorem State.closeHub_sound (s : State) (x : Nat) (uid : Nat) (hs : Sound Q s) (hw : sub 616576943524605 Q.w = true) :
    Sound Q (State.closeHub s x uid) := by
  unfold State.closeHub
  repeat' first
    | with_reducible assumption
    | with_reducible exact sub_trans (by decide) hw
    | with_reducible apply State.spreadBag_sound
    | with_reducible apply State.lostBag_sound
    | with_reducible apply State.modBag_sound
    | with_reducible apply State.noteSpread_sound
    | with_reducible apply State.sendRemote_sound
    | with_reducible refine osound_getD ?_ ?_
    | with_reducible refine sound_ite (fun _ => ?_) (fun _ => ?_)
    | with_reducible refine sound_foldl (fun _ _ _ => ?_) ?_
    | with_reducible refine osound_some (by assumption) ?_
    | with_reducible refine sound_foldl_snd (fun _ _ _ => ?_) ?_
    | with_reducible refine sound_foldl_fst (fun _ _ _ => ?_) ?_
    | with_reducible refine sound_foldl_snd2 (fun _ _ _ => ?_) ?_
    | with_reducible refine sound_snd_of (by assumption) ?_
    | with_reducible refine sound_snd2_of (by assumption) ?_
    | with_reducible refine sound_fst_of (by assumption) ?_
    | simp only []
    | split

theorem State.openSpec_sound (s : State) (x : Nat) (c : SCmd) (j : PoolJob) (sp : RowSpec) (hs : Sound Q s) (hw : sub 616577484589821 Q.w = true) :
    Sound Q (State.openSpec s x c j sp) := by
  unfold State.openSpec
  repeat' first
    | with_reducible assumption
    | with_reducible exact sub_trans (by decide) hw
    | with_reducible apply State.closeHub_sound
    | with_reducible apply State.resolveVerts_sound
    | with_reducible apply State.lostPoison_sound
    | with_reducible apply State.openTree_sound
    | with_reducible apply State.endFault_sound
    | with_reducible apply State.addSpoilt_sound
    | with_reducible apply State.modCmd_sound
    | with_reducible refine sound_ite (fun _ => ?_) (fun _ => ?_)
    | with_reducible refine sound_foldl (fun _ _ _ => ?_) ?_
    | with_reducible refine sound_foldl_snd (fun _ _ _ => ?_) ?_
    | with_reducible refine sound_foldl_fst (fun _ _ _ => ?_) ?_
    | with_reducible refine sound_foldl_snd2 (fun _ _ _ => ?_) ?_
    | with_reducible refine sound_snd_of (by assumption) ?_
    | with_reducible refine sound_snd2_of (by assumption) ?_
    | with_reducible refine sound_fst_of (by assumption) ?_
    | simp only [sound_set_serial (sub_trans (by decide) hw)]
    | split

theorem State.openWaiting_sound (s : State) (x : Nat) (serial : Nat) (a3 : Nat) (hs : Sound Q s) (hw : sub 616577484589821 Q.w = true) :
    Sound Q (State.openWaiting s x serial a3) := by
  fun_induction State.openWaiting s x serial a3
  all_goals
    repeat' first
      | with_reducible assumption
      | with_reducible exact sub_trans (by decide) hw
      | with_reducible apply State.routeCmd_sound
      | with_reducible apply State.loseCmd_sound
      | with_reducible apply State.modCmd_sound
      | with_reducible apply State.dealCmd_sound
      | with_reducible apply State.openSpec_sound
      | with_reducible refine sound_ite (fun _ => ?_) (fun _ => ?_)
      | with_reducible refine sound_foldl (fun _ _ _ => ?_) ?_
      | with_reducible refine sound_foldl_snd (fun _ _ _ => ?_) ?_
      | with_reducible refine sound_foldl_fst (fun _ _ _ => ?_) ?_
      | with_reducible refine sound_foldl_snd2 (fun _ _ _ => ?_) ?_
      | with_reducible refine sound_snd_of (by assumption) ?_
      | with_reducible refine sound_snd2_of (by assumption) ?_
      | with_reducible refine sound_fst_of (by assumption) ?_
      | simp only []
      | split
      | intro _
      | with_reducible apply_assumption

theorem State.resumeCmd_sound (s : State) (x : Nat) (serial : Nat) (hs : Sound Q s) (hw : sub 616577484589821 Q.w = true) :
    Sound Q (State.resumeCmd s x serial) := by
  unfold State.resumeCmd
  repeat' first
    | with_reducible assumption
    | with_reducible exact sub_trans (by decide) hw
    | with_reducible apply State.openWaiting_sound
    | with_reducible refine sound_ite (fun _ => ?_) (fun _ => ?_)
    | with_reducible refine sound_foldl (fun _ _ _ => ?_) ?_
    | with_reducible refine sound_foldl_snd (fun _ _ _ => ?_) ?_
    | with_reducible refine sound_foldl_fst (fun _ _ _ => ?_) ?_
    | with_reducible refine sound_foldl_snd2 (fun _ _ _ => ?_) ?_
    | with_reducible refine sound_snd_of (by assumption) ?_
    | with_reducible refine sound_snd2_of (by assumption) ?_
    | with_reducible refine sound_fst_of (by assumption) ?_
    | simp only []
    | split

theorem State.seedFault_sound (s : State) (x : Nat) (serial : Nat) (reason : Nat) (p : Nat) (hs : Sound Q s) (hw : sub 8388608 Q.w = true) :
    Sound Q (State.seedFault s x serial reason p) := by
  unfold State.seedFault
  repeat' first
    | with_reducible assumption
    | with_reducible exact sub_trans (by decide) hw
    | with_reducible apply State.modCmd_sound

theorem State.neighRow_sound (s : State) (x : Nat) (c : SCmd) (vs : List Version) (p : Nat) (v : Nat) (es : List Edge) (hub : Option Nat) (hs : Sound Q s) (hw : sub 8388612 Q.w = true) :
    Sound Q (State.neighRow s x c vs p v es hub).2 := by
  unfold State.neighRow
  repeat' first
    | with_reducible assumption
    | with_reducible exact sub_trans (by decide) hw
    | with_reducible apply State.countOob_sound
    | with_reducible apply State.lostPoison_sound
    | with_reducible apply State.meetPoison_sound
    | with_reducible apply State.seedFault_sound
    | with_reducible refine sound_ite (fun _ => ?_) (fun _ => ?_)
    | with_reducible refine sound_foldl (fun _ _ _ => ?_) ?_
    | with_reducible refine sound_foldl_snd (fun _ _ _ => ?_) ?_
    | with_reducible refine sound_foldl_fst (fun _ _ _ => ?_) ?_
    | with_reducible refine sound_foldl_snd2 (fun _ _ _ => ?_) ?_
    | with_reducible refine sound_snd_of (by assumption) ?_
    | with_reducible refine sound_snd2_of (by assumption) ?_
    | with_reducible refine sound_fst_of (by assumption) ?_
    | simp only []
    | split

theorem State.neighSeed_sound (s : State) (x : Nat) (c : SCmd) (vs : List Version) (p : Nat) (seed : Nat × Bool) (hs : Sound Q s) (hw : sub 598160121662205 Q.w = true) :
    Sound Q (State.neighSeed s x c vs p seed).2 := by
  unfold State.neighSeed
  repeat' first
    | with_reducible assumption
    | with_reducible exact sub_trans (by decide) hw
    | with_reducible apply State.countOob_sound
    | with_reducible apply State.neighRow_sound
    | with_reducible apply State.vertexEdges_sound
    | with_reducible apply State.meetPoison_sound
    | with_reducible apply State.edgesAt_sound
    | with_reducible apply State.seedFault_sound
    | with_reducible apply State.count64_sound
    | with_reducible refine sound_ite (fun _ => ?_) (fun _ => ?_)
    | with_reducible refine sound_foldl (fun _ _ _ => ?_) ?_
    | with_reducible refine sound_foldl_snd (fun _ _ _ => ?_) ?_
    | with_reducible refine sound_foldl_fst (fun _ _ _ => ?_) ?_
    | with_reducible refine sound_foldl_snd2 (fun _ _ _ => ?_) ?_
    | with_reducible refine sound_snd_of (by assumption) ?_
    | with_reducible refine sound_snd2_of (by assumption) ?_
    | with_reducible refine sound_fst_of (by assumption) ?_
    | simp only []
    | split

theorem State.neighSeeds_sound (s : State) (x : Nat) (c : SCmd) (vs : List Version) (a4 : Nat) (a5 : List (Nat × Bool)) (hs : Sound Q s) (hw : sub 598160121662205 Q.w = true) :
    OSound Q (State.neighSeeds s x c vs a4 a5) := by
  fun_induction State.neighSeeds s x c vs a4 a5
  all_goals
    repeat' first
      | with_reducible assumption
      | with_reducible exact sub_trans (by decide) hw
      | with_reducible apply State.graphStop_sound
      | with_reducible apply OSound.none
      | with_reducible apply OSound.some
      | with_reducible apply State.modCmd_sound
      | with_reducible apply State.neighSeed_sound
      | with_reducible refine osound_getD ?_ ?_
      | with_reducible refine osound_findSome (fun _ => ?_)
      | with_reducible refine osound_map ?_ (fun _ _ => ?_)
      | with_reducible refine osound_bind ?_ (fun _ _ => ?_)
      | with_reducible refine osound_foldl (fun _ _ _ => ?_) ?_
      | with_reducible refine pred_ite (P := OSound Q) (fun _ => ?_) (fun _ => ?_)
      | with_reducible refine sound_ite (fun _ => ?_) (fun _ => ?_)
      | with_reducible refine sound_foldl (fun _ _ _ => ?_) ?_
      | with_reducible refine osound_some (by assumption) ?_
      | with_reducible refine sound_foldl_snd (fun _ _ _ => ?_) ?_
      | with_reducible refine sound_foldl_fst (fun _ _ _ => ?_) ?_
      | with_reducible refine sound_foldl_snd2 (fun _ _ _ => ?_) ?_
      | with_reducible refine sound_snd_of (by assumption) ?_
      | with_reducible refine sound_snd2_of (by assumption) ?_
      | with_reducible refine sound_fst_of (by assumption) ?_
      | simp only []
      | split
      | intro _
      | with_reducible apply_assumption

theorem State.expandChunk_sound (s : State) (e : Nat) (k : Chunk) (hs : Sound Q s) (hw : sub 616577484589821 Q.w = true) :
    Sound Q (State.expandChunk s e k) := by
  unfold State.expandChunk
  repeat' first
    | with_reducible assumption
    | with_reducible exact sub_trans (by decide) hw
    | with_reducible apply State.closeHub_sound
    | with_reducible apply State.resolveVerts_sound
    | with_reducible apply State.lostPoison_sound
    | with_reducible apply State.modBag_sound
    | with_reducible apply State.openTree_sound
    | with_reducible apply State.modServer_sound
    | with_reducible apply State.routeServer_sound
    | with_reducible apply State.treeRows_sound
    | with_reducible apply State.routeCmd_sound
    | with_reducible apply State.meetPoison_sound
    | with_reducible apply State.endFault_sound
    | with_reducible apply State.modCmd_sound
    | with_reducible apply State.noteSpread_sound
    | with_reducible apply State.ownRows_sound
    | with_reducible apply State.count64_sound
    | with_reducible apply State.sendRemote_sound
    | with_reducible refine sound_ite (fun _ => ?_) (fun _ => ?_)
    | with_reducible refine sound_foldl (fun _ _ _ => ?_) ?_
    | with_reducible refine sound_foldl_snd (fun _ _ _ => ?_) ?_
    | with_reducible refine sound_foldl_fst (fun _ _ _ => ?_) ?_
    | with_reducible refine sound_foldl_snd2 (fun _ _ _ => ?_) ?_
    | with_reducible refine sound_snd_of (by assumption) ?_
    | with_reducible refine sound_snd2_of (by assumption) ?_
    | with_reducible refine sound_fst_of (by assumption) ?_
    | simp only [sound_set_serial (sub_trans (by decide) hw)]
    | split

theorem State.draw_sound (s : State) (key : Option Nat) (j : Nat) (i : Nat) (hs : Sound Q s) (hw : sub 1 Q.w = true) :
    Sound Q (State.draw s key j i).2 := by
  unfold State.draw
  repeat' first
    | with_reducible assumption
    | with_reducible exact sub_trans (by decide) hw
    | with_reducible refine sound_ite (fun _ => ?_) (fun _ => ?_)
    | with_reducible refine sound_foldl (fun _ _ _ => ?_) ?_
    | with_reducible refine sound_foldl_snd (fun _ _ _ => ?_) ?_
    | with_reducible refine sound_foldl_fst (fun _ _ _ => ?_) ?_
    | with_reducible refine sound_foldl_snd2 (fun _ _ _ => ?_) ?_
    | with_reducible refine sound_snd_of (by assumption) ?_
    | with_reducible refine sound_snd2_of (by assumption) ?_
    | with_reducible refine sound_fst_of (by assumption) ?_
    | simp only [sound_set_free (sub_trans (by decide) hw)]
    | split

theorem State.choose_sound (s : State) (key : Option Nat) (n j i : Nat) (ch : List Nat) (hs : Sound Q s)
    (hw : sub 1 Q.w = true) : Sound Q (State.choose s key n j i ch).2 := by
  induction n generalizing s j i ch with
  | zero => exact hs
  | succ n ih =>
    simp only [State.choose]
    exact ih _ _ _ _ (State.draw_sound s key j i hs (sub_trans (by decide) hw))

theorem State.sampleAt_go_sound (x g : Nat) (wsum : Bool) (ve : VEdges) (smp : Edge → Option Smp) (t : State) (l : List Nat)
    (ht : Sound Q t) (hw : sub 598160113273597 Q.w = true) : Sound Q (State.sampleAt.go x g wsum ve smp t l).2 := by
  induction l generalizing t with
  | nil => exact ht
  | cons a l ih =>
    simp only [State.sampleAt.go]
    have h1 := State.edgesAt_sound t x g wsum (ve.start + a) 1 ht (sub_trans (by decide) hw)
    split
    · next e => exact sound_snd_of e h1
    · next e =>
      have h2 := ih _ (sound_snd_of e h1)
      split <;> next e2 => exact sound_snd_of e2 h2

theorem State.sampleAt_sound (s : State) (x g : Nat) (wsum : Bool) (vs : List Version) (key : Option Nat) (v f : Nat)
    (hs : Sound Q s) (hw : sub 598160113273597 Q.w = true) : Sound Q (State.sampleAt s x g wsum vs key v f).2 := by
  unfold State.sampleAt
  repeat' first
    | with_reducible assumption
    | with_reducible apply State.sampleAt_go_sound
    | with_reducible apply State.vertexEdges_sound
    | with_reducible apply State.edgesAt_sound
    | with_reducible apply State.choose_sound
    | with_reducible apply State.count64_sound
    | with_reducible exact sub_trans (by decide) hw
    | with_reducible refine sound_snd_of (by assumption) ?_
    | split
    | dsimp only

theorem State.expandHop_sound (s : State) (x g : Nat) (wsum : Bool) (vs : List Version) (base : Option Nat) (h f : Nat)
    (pk : Nat → Nat) (i : Nat) (l : List (Option Smp × Bool × Bool)) (hs : Sound Q s)
    (hw : sub 598160113273597 Q.w = true) : Sound Q (State.expandHop s x g wsum vs base h f pk i l).2 := by
  induction l generalizing s i with
  | nil => exact hs
  | cons e l ih =>
    obtain ⟨o, bad, poison⟩ := e
    unfold State.expandHop
    extract_lets key live
    clear_value live
    split
    next res s1 e1 =>
    have h1 : Sound Q s1 := by
      revert e1
      split
      · exact fun e => sound_snd_of e (State.sampleAt_sound _ _ _ _ _ _ _ _ hs (sub_trans (by decide) hw))
      · exact fun e => by cases e; exact hs
    split
    · exact h1
    · have h2 := ih s1 (i + 1) h1
      split <;> next e2 => exact sound_snd_of e2 h2

theorem State.sampleHops_sound (s : State) (x : Nat) (c : SCmd) (vs : List Version) (p : Nat) (seed : Nat) (hs : Sound Q s) (hw : sub 598160113273597 Q.w = true) :
    Sound Q (State.sampleHops s x c vs p seed).2 := by
  unfold State.sampleHops
  repeat' first
    | with_reducible assumption
    | with_reducible exact sub_trans (by decide) hw
    | with_reducible apply State.expandHop_sound
    | with_reducible refine sound_ite (fun _ => ?_) (fun _ => ?_)
    | with_reducible refine sound_foldl (fun _ _ _ => ?_) ?_
    | with_reducible refine sound_foldl_snd (fun _ _ _ => ?_) ?_
    | with_reducible refine sound_foldl_fst (fun _ _ _ => ?_) ?_
    | with_reducible refine sound_foldl_snd2 (fun _ _ _ => ?_) ?_
    | with_reducible refine sound_snd_of (by assumption) ?_
    | with_reducible refine sound_snd2_of (by assumption) ?_
    | with_reducible refine sound_fst_of (by assumption) ?_
    | simp only []
    | split

theorem State.sampleList_sound (s : State) (x : Nat) (c : SCmd) (p : Nat) (total : Nat) (ids : List (Option Nat)) (hs : Sound Q s) (hw : sub 598160121662205 Q.w = true) :
    Sound Q (State.sampleList s x c p total ids) := by
  unfold State.sampleList
  repeat' first
    | with_reducible assumption
    | with_reducible exact sub_trans (by decide) hw
    | with_reducible apply State.writeDest_sound
    | with_reducible apply State.endFault_sound
    | with_reducible apply State.dstPieces_sound
    | with_reducible refine sound_ite (fun _ => ?_) (fun _ => ?_)
    | with_reducible refine sound_foldl (fun _ _ _ => ?_) ?_
    | with_reducible refine sound_foldl_snd (fun _ _ _ => ?_) ?_
    | with_reducible refine sound_foldl_fst (fun _ _ _ => ?_) ?_
    | with_reducible refine sound_foldl_snd2 (fun _ _ _ => ?_) ?_
    | with_reducible refine sound_snd_of (by assumption) ?_
    | with_reducible refine sound_snd2_of (by assumption) ?_
    | with_reducible refine sound_fst_of (by assumption) ?_
    | simp only []
    | split

theorem State.sampleSeed_sound (s : State) (x : Nat) (c : SCmd) (vs : List Version) (p : Nat) (seed : Nat × Bool) (hs : Sound Q s) (hw : sub 598160121662205 Q.w = true) :
    OSound Q (State.sampleSeed s x c vs p seed) := by
  unfold State.sampleSeed
  repeat' first
    | with_reducible assumption
    | with_reducible exact sub_trans (by decide) hw
    | with_reducible apply State.graphStop_sound
    | with_reducible apply OSound.none
    | with_reducible apply OSound.some
    | with_reducible apply State.countOob_sound
    | with_reducible apply State.loseCmd_sound
    | with_reducible apply State.meetPoison_sound
    | with_reducible apply State.modCmd_sound
    | with_reducible apply State.seedFault_sound
    | with_reducible apply State.sampleHops_sound
    | with_reducible apply State.sampleList_sound
    | with_reducible refine osound_getD ?_ ?_
    | with_reducible refine osound_findSome (fun _ => ?_)
    | with_reducible refine osound_map ?_ (fun _ _ => ?_)
    | with_reducible refine osound_bind ?_ (fun _ _ => ?_)
    | with_reducible refine osound_foldl (fun _ _ _ => ?_) ?_
    | with_reducible refine pred_ite (P := OSound Q) (fun _ => ?_) (fun _ => ?_)
    | with_reducible refine sound_ite (fun _ => ?_) (fun _ => ?_)
    | with_reducible refine sound_foldl (fun _ _ _ => ?_) ?_
    | with_reducible refine osound_some (by assumption) ?_
    | with_reducible refine sound_foldl_snd (fun _ _ _ => ?_) ?_
    | with_reducible refine sound_foldl_fst (fun _ _ _ => ?_) ?_
    | with_reducible refine sound_foldl_snd2 (fun _ _ _ => ?_) ?_
    | with_reducible refine sound_snd_of (by assumption) ?_
    | with_reducible refine sound_snd2_of (by assumption) ?_
    | with_reducible refine sound_fst_of (by assumption) ?_
    | simp only []
    | split

theorem State.sampleSeeds_sound (s : State) (x : Nat) (c : SCmd) (vs : List Version) (a4 : Nat) (a5 : List (Nat × Bool)) (hs : Sound Q s) (hw : sub 598160121662205 Q.w = true) :
    OSound Q (State.sampleSeeds s x c vs a4 a5) := by
  fun_induction State.sampleSeeds s x c vs a4 a5
  all_goals
    repeat' first
      | with_reducible assumption
      | with_reducible exact sub_trans (by decide) hw
      | with_reducible apply State.sampleSeed_sound
      | with_reducible apply OSound.none
      | with_reducible apply OSound.some
      | with_reducible refine osound_getD ?_ ?_
      | with_reducible refine osound_findSome (fun _ => ?_)
      | with_reducible refine osound_map ?_ (fun _ _ => ?_)
      | with_reducible refine osound_bind ?_ (fun _ _ => ?_)
      | with_reducible refine osound_foldl (fun _ _ _ => ?_) ?_
      | with_reducible refine pred_ite (P := OSound Q) (fun _ => ?_) (fun _ => ?_)
      | with_reducible refine sound_ite (fun _ => ?_) (fun _ => ?_)
      | with_reducible refine sound_foldl (fun _ _ _ => ?_) ?_
      | with_reducible refine osound_some (by assumption) ?_
      | with_reducible refine sound_foldl_snd (fun _ _ _ => ?_) ?_
      | with_reducible refine sound_foldl_fst (fun _ _ _ => ?_) ?_
      | with_reducible refine sound_foldl_snd2 (fun _ _ _ => ?_) ?_
      | with_reducible refine sound_snd_of (by assumption) ?_
      | with_reducible refine sound_snd2_of (by assumption) ?_
      | with_reducible refine sound_fst_of (by assumption) ?_
      | simp only []
      | split
      | intro _
      | with_reducible apply_assumption

theorem State.setHwok_sound (s : State) (x : Nat) (v : Nat) (hs : Sound Q s) (hw : sub 4 Q.w = true) :
    Sound Q (State.setHwok s x v) := by
  unfold State.setHwok
  repeat' first
    | with_reducible assumption
    | with_reducible exact sub_trans (by decide) hw
    | with_reducible apply State.setRfld_sound
    | with_reducible refine sound_ite (fun _ => ?_) (fun _ => ?_)
    | with_reducible refine sound_foldl (fun _ _ _ => ?_) ?_

end Sys2Proof.Machine
end

