-- ==== Sys2Proof/Laws/SoundSorusUpdate.lean ====
section
/-! SUPPORT. Laws/SoundSorusUpdate.lean: the operations of Machine/SorusUpdate.lean keep the waiting commands and the canonical form of both
memories. -/

namespace Sys2Proof.Machine

open Sys2Proof

variable {Q : Frame}

theorem State.scatterRows_sound (s : State) (x : Nat) (c : SCmd) (v : Version) (org : Origin) (stride : Nat) (a6 : List (Nat × Bool)) (a7 : Nat) (a8 : Scat) (hs : Sound Q s) (hw : sub 598160650144509 Q.w = true) :
    Sound Q (State.scatterRows s x c v org stride a6 a7 a8).2 := by
  fun_induction State.scatterRows s x c v org stride a6 a7 a8
  all_goals
    repeat' first
      | with_reducible assumption
      | with_reducible exact sub_trans (by decide) hw
      | with_reducible apply State.readList_sound
      | with_reducible apply State.locate_sound
      | with_reducible apply State.poisonUnit_sound
      | with_reducible apply State.count64_sound
      | with_reducible refine sound_ite (fun _ => ?_) (fun _ => ?_)
      | with_reducible refine sound_foldl (fun _ _ _ => ?_) ?_
      | with_reducible refine sound_foldl_snd (fun _ _ _ => ?_) ?_
      | with_reducible refine sound_foldl_fst (fun _ _ _ => ?_) ?_
      | with_reducible refine sound_foldl_snd2 (fun _ _ _ => ?_) ?_
      | with_reducible refine sound_snd_of (by assumption) ?_
      | with_reducible refine sound_snd2_of (by assumption) ?_
      | with_reducible refine sound_fst_of (by assumption) ?_
      | simp only []
      | split
      | intro _
      | with_reducible apply_assumption

theorem State.sendUpk_sound (s : State) (src : Nat) (epoch : Nat) (seq : Nat) (rcv : Nat) (lead : Nat) (cmd : Nat) (org : Origin) (ups : List UReq) (hs : Sound Q s) (hw : sub 46137344 Q.w = true) :
    Sound Q (State.sendUpk s src epoch seq rcv lead cmd org ups) := by
  unfold State.sendUpk
  repeat' first
    | with_reducible assumption
    | with_reducible exact sub_trans (by decide) hw
    | with_reducible apply State.leadCmd_sound
    | with_reducible refine sound_ite (fun _ => ?_) (fun _ => ?_)
    | with_reducible refine sound_foldl (fun _ _ _ => ?_) ?_
    | with_reducible refine sound_foldl_snd (fun _ _ _ => ?_) ?_
    | with_reducible refine sound_foldl_fst (fun _ _ _ => ?_) ?_
    | with_reducible refine sound_foldl_snd2 (fun _ _ _ => ?_) ?_
    | with_reducible refine sound_snd_of (by assumption) ?_
    | with_reducible refine sound_snd2_of (by assumption) ?_
    | with_reducible refine sound_fst_of (by assumption) ?_
    | simp only [sound_set_serial_upk (sub_trans (by decide) hw)]

theorem State.sendSub_sound (s : State) (x : Nat) (rcv : Nat) (cmd : Nat) (org : Origin) (ups : List UReq) (hs : Sound Q s) (hw : sub 113246208 Q.w = true) :
    Sound Q (State.sendSub s x rcv cmd org ups) := by
  unfold State.sendSub
  repeat' first
    | with_reducible assumption
    | with_reducible exact sub_trans (by decide) hw
    | with_reducible apply State.setLastSent_sound
    | with_reducible apply State.sendUpk_sound

theorem State.sendRemoteUps_sound (s : State) (x : Nat) (serial : Nat) (k : UKey) (nocomb : Bool) (v : Version) (row : Nat) (pos : Nat) (co : Nat) (parts : List (Nat × Nat × List Nat)) (hs : Sound Q s) (hw : sub 616551173587708 Q.w = true) :
    Sound Q (State.sendRemoteUps s x serial k nocomb v row pos co parts) := by
  unfold State.sendRemoteUps
  repeat' first
    | with_reducible assumption
    | with_reducible exact sub_trans (by decide) hw
    | with_reducible apply State.modCmd_sound
    | with_reducible apply State.flowSend_sound
    | with_reducible refine sound_ite (fun _ => ?_) (fun _ => ?_)
    | with_reducible refine sound_foldl (fun _ _ _ => ?_) ?_

theorem State.scatter_sound (s : State) (x : Nat) (op : Nat) (hs : Sound Q s) (hw : sub 616577585253117 Q.w = true) :
    Sound Q (State.scatter s x op) := by
  unfold State.scatter
  repeat' first
    | with_reducible assumption
    | with_reducible exact sub_trans (by decide) hw
    | with_reducible apply State.indexList_sound
    | with_reducible apply State.sendRemoteUps_sound
    | with_reducible apply State.startCmd_sound
    | with_reducible apply State.loseCmd_sound
    | with_reducible apply State.scatterRows_sound
    | with_reducible apply State.endFault_sound
    | with_reducible apply State.modCmd_sound
    | with_reducible apply State.sendSub_sound
    | with_reducible apply State.sendUpk_sound
    | with_reducible apply State.count32_sound
    | with_reducible refine sound_ite (fun _ => ?_) (fun _ => ?_)
    | with_reducible refine sound_foldl (fun _ _ _ => ?_) ?_
    | with_reducible refine sound_foldl_snd (fun _ _ _ => ?_) ?_
    | with_reducible refine sound_foldl_fst (fun _ _ _ => ?_) ?_
    | with_reducible refine sound_foldl_snd2 (fun _ _ _ => ?_) ?_
    | with_reducible refine sound_snd_of (by assumption) ?_
    | with_reducible refine sound_snd2_of (by assumption) ?_
    | with_reducible refine sound_fst_of (by assumption) ?_
    | simp only []
    | split

theorem State.upkArrive_sound (s : State) (r : Nat) (p : UPkt) (hs : Sound Q s) (hw : sub 562950139020028 Q.w = true) :
    Sound Q (State.upkArrive s r p) := by
  unfold State.upkArrive
  repeat' first
    | with_reducible assumption
    | with_reducible exact sub_trans (by decide) hw
    | with_reducible apply State.routePacket_sound
    | with_reducible apply State.modUpk_sound
    | with_reducible apply State.seqCheck_sound
    | with_reducible refine sound_ite (fun _ => ?_) (fun _ => ?_)
    | with_reducible refine sound_foldl (fun _ _ _ => ?_) ?_
    | with_reducible refine sound_foldl_snd (fun _ _ _ => ?_) ?_
    | with_reducible refine sound_foldl_fst (fun _ _ _ => ?_) ?_
    | with_reducible refine sound_foldl_snd2 (fun _ _ _ => ?_) ?_
    | with_reducible refine sound_snd_of (by assumption) ?_
    | with_reducible refine sound_snd2_of (by assumption) ?_
    | with_reducible refine sound_fst_of (by assumption) ?_
    | simp only [sound_set_upk (sub_trans (by decide) hw)]
    | split

theorem State.allocEntry_sound (s : State) (u : Nat) (r : UReq) (hs : Sound Q s) (hw : sub 16777216 Q.w = true) :
    Sound Q (State.allocEntry s u r) := by
  unfold State.allocEntry
  repeat' first
    | with_reducible assumption
    | with_reducible exact sub_trans (by decide) hw
    | with_reducible apply State.modUnit_sound

theorem State.updateFails_sound (s : State) (p : Packet) (status : Nat) (reason : Nat) (pos : Nat) (hs : Sound Q s) (hw : sub 620949211710204 Q.w = true) :
    Sound Q (State.updateFails s p status reason pos) := by
  unfold State.updateFails
  repeat' first
    | with_reducible assumption
    | with_reducible exact sub_trans (by decide) hw
    | with_reducible apply State.flowSend_sound
    | with_reducible refine sound_ite (fun _ => ?_) (fun _ => ?_)
    | with_reducible refine sound_foldl (fun _ _ _ => ?_) ?_
    | with_reducible refine sound_foldl_snd (fun _ _ _ => ?_) ?_
    | with_reducible refine sound_foldl_fst (fun _ _ _ => ?_) ?_
    | with_reducible refine sound_foldl_snd2 (fun _ _ _ => ?_) ?_
    | with_reducible refine sound_snd_of (by assumption) ?_
    | with_reducible refine sound_snd2_of (by assumption) ?_
    | with_reducible refine sound_fst_of (by assumption) ?_
    | simp only [sound_set_upFails (sub_trans (by decide) hw)]

theorem State.updateFailed_sound (s : State) (r : UReq) (hs : Sound Q s) (hw : sub 620949253653244 Q.w = true) :
    Sound Q (State.updateFailed s r) := by
  unfold State.updateFailed
  repeat' first
    | with_reducible assumption
    | with_reducible exact sub_trans (by decide) hw
    | with_reducible apply State.updateFails_sound
    | with_reducible apply State.modUpk_sound
    | with_reducible apply State.leadCmd_sound
    | with_reducible refine sound_ite (fun _ => ?_) (fun _ => ?_)
    | with_reducible refine sound_foldl (fun _ _ _ => ?_) ?_
    | with_reducible refine sound_foldl_snd (fun _ _ _ => ?_) ?_
    | with_reducible refine sound_foldl_fst (fun _ _ _ => ?_) ?_
    | with_reducible refine sound_foldl_snd2 (fun _ _ _ => ?_) ?_
    | with_reducible refine sound_snd_of (by assumption) ?_
    | with_reducible refine sound_snd2_of (by assumption) ?_
    | with_reducible refine sound_fst_of (by assumption) ?_
    | simp only []
    | split

theorem execUctctlFlush_sound (e : EngineId) (s : State) (hs : Sound Q s) (hw : sub 598160121531133 Q.w = true) :
    OutSound Q (execUctctlFlush e s) := by
  unfold execUctctlFlush
  repeat' first
    | with_reducible assumption
    | with_reducible exact sub_trans (by decide) hw
    | with_reducible apply OutSound.next
    | with_reducible apply OutSound.fault
    | with_reducible apply OutSound.refused
    | with_reducible apply State.flushWhere_sound
    | with_reducible refine pred_ite (P := OutSound Q) (fun _ => ?_) (fun _ => ?_)
    | with_reducible refine sound_ite (fun _ => ?_) (fun _ => ?_)

theorem execSrseedWrite_sound (e : EngineId) (v : Word) (s : State) (hs : Sound Q s) (hw : sub 4 Q.w = true) :
    OutSound Q (execSrseedWrite e v s) := by
  unfold execSrseedWrite
  repeat' first
    | with_reducible assumption
    | with_reducible exact sub_trans (by decide) hw
    | with_reducible apply OutSound.next
    | with_reducible apply OutSound.fault
    | with_reducible apply OutSound.refused
    | with_reducible apply State.setReg_sound
    | with_reducible refine pred_ite (P := OutSound Q) (fun _ => ?_) (fun _ => ?_)
    | with_reducible refine sound_ite (fun _ => ?_) (fun _ => ?_)

theorem State.cqcfg_sound (s : State) (x : Nat) (q : Nat) (v : Nat) (hs : Sound Q s) (hw : sub 35184372088836 Q.w = true) :
    Sound Q (State.cqcfg s x q v) := by
  unfold State.cqcfg
  repeat' first
    | with_reducible assumption
    | with_reducible exact sub_trans (by decide) hw
    | with_reducible apply State.setReg_sound
    | with_reducible apply State.refuse_sound
    | with_reducible apply State.setRfld_sound
    | with_reducible refine sound_ite (fun _ => ?_) (fun _ => ?_)

theorem State.fenceAt_sound (s : State) (c : SCmd) (r : Nat) (hs : Sound Q s) (hw : sub 598160121531133 Q.w = true) :
    Sound Q (State.fenceAt s c r).2 := by
  unfold State.fenceAt
  repeat' first
    | with_reducible assumption
    | with_reducible exact sub_trans (by decide) hw
    | with_reducible apply State.flushWhere_sound
    | with_reducible refine sound_ite (fun _ => ?_) (fun _ => ?_)
    | with_reducible refine sound_foldl (fun _ _ _ => ?_) ?_
    | with_reducible refine sound_foldl_snd (fun _ _ _ => ?_) ?_
    | with_reducible refine sound_foldl_fst (fun _ _ _ => ?_) ?_
    | with_reducible refine sound_foldl_snd2 (fun _ _ _ => ?_) ?_
    | with_reducible refine sound_snd_of (by assumption) ?_
    | with_reducible refine sound_snd2_of (by assumption) ?_
    | with_reducible refine sound_fst_of (by assumption) ?_
    | simp only []
    | split

theorem State.fanRemote_sound (s : State) (x : Nat) (c : SCmd) (hs : Sound Q s) (hw : sub 616551173587708 Q.w = true) :
    Sound Q (State.fanRemote s x c) := by
  unfold State.fanRemote
  repeat' first
    | with_reducible assumption
    | with_reducible exact sub_trans (by decide) hw
    | with_reducible apply State.modCmd_sound
    | with_reducible apply State.flowSend_sound
    | with_reducible refine sound_ite (fun _ => ?_) (fun _ => ?_)
    | with_reducible refine sound_foldl (fun _ _ _ => ?_) ?_

theorem State.fenceOne_sound (s : State) (x : Nat) (serial : Nat) (r : Nat) (hs : Sound Q s) (hw : sub 616576943393533 Q.w = true) :
    Sound Q (State.fenceOne s x serial r) := by
  unfold State.fenceOne
  repeat' first
    | with_reducible assumption
    | with_reducible exact sub_trans (by decide) hw
    | with_reducible apply State.fenceAt_sound
    | with_reducible apply State.fanRemote_sound
    | with_reducible apply State.modCmd_sound
    | with_reducible refine sound_ite (fun _ => ?_) (fun _ => ?_)
    | with_reducible refine sound_foldl (fun _ _ _ => ?_) ?_
    | with_reducible refine sound_foldl_snd (fun _ _ _ => ?_) ?_
    | with_reducible refine sound_foldl_fst (fun _ _ _ => ?_) ?_
    | with_reducible refine sound_foldl_snd2 (fun _ _ _ => ?_) ?_
    | with_reducible refine sound_snd_of (by assumption) ?_
    | with_reducible refine sound_snd2_of (by assumption) ?_
    | with_reducible refine sound_fst_of (by assumption) ?_
    | simp only []
    | split

theorem State.runFence_sound (s : State) (x : Nat) (c : SCmd) (hs : Sound Q s) (hw : sub 616576943393533 Q.w = true) :
    Sound Q (State.runFence s x c) := by
  unfold State.runFence
  repeat' first
    | with_reducible assumption
    | with_reducible exact sub_trans (by decide) hw
    | with_reducible apply State.fenceOne_sound
    | with_reducible apply State.modCmd_sound
    | with_reducible refine sound_ite (fun _ => ?_) (fun _ => ?_)
    | with_reducible refine sound_foldl (fun _ _ _ => ?_) ?_

theorem State.addFence_sound (s : State) (x : Nat) (c : SCmd) (hs : Sound Q s) (hw : sub 12582912 Q.w = true) :
    Sound Q (State.addFence s x c) := by
  unfold State.addFence
  repeat' first
    | with_reducible assumption
    | with_reducible exact sub_trans (by decide) hw
    | with_reducible apply State.modServer_sound
    | with_reducible refine sound_ite (fun _ => ?_) (fun _ => ?_)
    | with_reducible refine sound_foldl (fun _ _ _ => ?_) ?_
    | with_reducible refine sound_foldl_snd (fun _ _ _ => ?_) ?_
    | with_reducible refine sound_foldl_fst (fun _ _ _ => ?_) ?_
    | with_reducible refine sound_foldl_snd2 (fun _ _ _ => ?_) ?_
    | with_reducible refine sound_snd_of (by assumption) ?_
    | with_reducible refine sound_snd2_of (by assumption) ?_
    | with_reducible refine sound_fst_of (by assumption) ?_
    | simp only [sound_set_serial (sub_trans (by decide) hw)]

theorem State.remoteFence_sound (s : State) (coord : Nat) (lead : Nat) (serial : Nat) (rcv : Nat) (src : Nat) (n : Nat) (epoch : Nat) (allsrc : Bool) (hs : Sound Q s) (hw : sub 616551177782012 Q.w = true) :
    Sound Q (State.remoteFence s coord lead serial rcv src n epoch allsrc) := by
  unfold State.remoteFence
  repeat' first
    | with_reducible assumption
    | with_reducible exact sub_trans (by decide) hw
    | with_reducible apply State.sendFenceReport_sound
    | with_reducible apply State.addFence_sound
    | with_reducible refine sound_ite (fun _ => ?_) (fun _ => ?_)
    | with_reducible refine sound_foldl (fun _ _ _ => ?_) ?_
    | with_reducible refine sound_foldl_snd (fun _ _ _ => ?_) ?_
    | with_reducible refine sound_foldl_fst (fun _ _ _ => ?_) ?_
    | with_reducible refine sound_foldl_snd2 (fun _ _ _ => ?_) ?_
    | with_reducible refine sound_snd_of (by assumption) ?_
    | with_reducible refine sound_snd2_of (by assumption) ?_
    | with_reducible refine sound_fst_of (by assumption) ?_
    | simp only []
    | split

theorem fenceInstr_sound (c : Nat) (sc : FenceScope) (s : State) (hs : Sound Q s) (hw : sub 12583936 Q.w = true) :
    ISound Q (fenceInstr c sc s) := by
  unfold fenceInstr
  repeat' first
    | with_reducible assumption
    | with_reducible exact sub_trans (by decide) hw
    | with_reducible apply ISound.done
    | with_reducible apply ISound.jump
    | with_reducible apply ISound.trap
    | with_reducible apply ISound.stall
    | with_reducible apply State.modCore_sound
    | with_reducible apply State.addFence_sound
    | with_reducible refine pred_ite (P := ISound Q) (fun _ => ?_) (fun _ => ?_)
    | with_reducible refine sound_ite (fun _ => ?_) (fun _ => ?_)
    | with_reducible refine sound_foldl (fun _ _ _ => ?_) ?_
    | with_reducible refine sound_foldl_snd (fun _ _ _ => ?_) ?_
    | with_reducible refine sound_foldl_fst (fun _ _ _ => ?_) ?_
    | with_reducible refine sound_foldl_snd2 (fun _ _ _ => ?_) ?_
    | with_reducible refine sound_snd_of (by assumption) ?_
    | with_reducible refine sound_snd2_of (by assumption) ?_
    | with_reducible refine sound_fst_of (by assumption) ?_
    | simp only []
    | split

end Sys2Proof.Machine
end

