-- ==== Sys2Proof/Laws/SoundStream.lean ====
section
/-! SUPPORT. Laws/SoundStream.lean: the operations of Machine/Stream.lean keep the waiting commands and the canonical form of both
memories. -/

namespace Sys2Proof.Machine

open Sys2Proof

variable {Q : Frame}

/-- What a unit of a stream's work gives is sound. -/
inductive SSound (Q : Frame) : SStep → Prop where
  | ok {s : State} (h : Sound Q s) : SSound Q (.ok s)
  | page {va : Nat} {w : Bool} {s : State} (h : Sound Q s) : SSound Q (.page va w s)
  | fault {r : Nat} {s : State} (h : Sound Q s) : SSound Q (.fault r s)
  | lost {s : State} (h : Sound Q s) : SSound Q (.lost s)
  | wait {s : State} (h : Sound Q s) : SSound Q (.wait s)

theorem ssound_ok {r : SStep} {s : State} (e : r = .ok s) (h : SSound Q r) : Sound Q s := by
  subst e; cases h; assumption

theorem ssound_page {r : SStep} {va : Nat} {w : Bool} {s : State} (e : r = .page va w s) (h : SSound Q r) : Sound Q s := by
  subst e; cases h; assumption

theorem ssound_fault {r : SStep} {x : Nat} {s : State} (e : r = .fault x s) (h : SSound Q r) : Sound Q s := by
  subst e; cases h; assumption

theorem ssound_lost {r : SStep} {s : State} (e : r = .lost s) (h : SSound Q r) : Sound Q s := by
  subst e; cases h; assumption

theorem ssound_wait {r : SStep} {s : State} (e : r = .wait s) (h : SSound Q r) : Sound Q s := by
  subst e; cases h; assumption

theorem State.modSeng_sound (s : State) (e : Nat) (f : SEng → SEng) (hs : Sound Q s) (hw : sub 8192 Q.w = true) :
    Sound Q (State.modSeng s e f) := by
  unfold State.modSeng
  repeat' first
    | with_reducible assumption
    | with_reducible exact sub_trans (by decide) hw
    | with_reducible apply State.setSeng_sound

theorem State.modDesc_sound (s : State) (e : Nat) (serial : Nat) (f : SDesc → SDesc) (hs : Sound Q s) (hw : sub 8192 Q.w = true) :
    Sound Q (State.modDesc s e serial f) := by
  unfold State.modDesc
  repeat' first
    | with_reducible assumption
    | with_reducible exact sub_trans (by decide) hw
    | with_reducible apply State.modSeng_sound

theorem State.sengFault_sound (s : State) (e : Nat) (serial : Nat) (va : Nat) (write : Bool) (hs : Sound Q s) (hw : sub 8192 Q.w = true) :
    Sound Q (State.sengFault s e serial va write) := by
  unfold State.sengFault
  repeat' first
    | with_reducible assumption
    | with_reducible exact sub_trans (by decide) hw
    | with_reducible apply State.modSeng_sound

theorem State.markPending_sound (s : State) (e : Nat) (d : SDesc) (c : Nat) (hs : Sound Q s) (hw : sub 1024 Q.w = true) :
    Sound Q (State.markPending s e d c) := by
  unfold State.markPending
  repeat' first
    | with_reducible assumption
    | with_reducible exact sub_trans (by decide) hw
    | with_reducible apply State.modCore_sound

theorem State.unmark_sound (s : State) (e : Nat) (d : SDesc) (hs : Sound Q s) (hw : sub 1024 Q.w = true) :
    Sound Q (State.unmark s e d) := by
  unfold State.unmark
  repeat' first
    | with_reducible assumption
    | with_reducible exact sub_trans (by decide) hw
    | with_reducible apply State.modCore_sound
    | with_reducible refine sound_ite (fun _ => ?_) (fun _ => ?_)
    | with_reducible refine sound_foldl (fun _ _ _ => ?_) ?_

theorem State.streamEnd_sound (s : State) (e : Nat) (d : SDesc) (status : Nat) (reason : Nat) (sig : Bool) (hs : Sound Q s) (hw : sub 3076 Q.w = true) :
    Sound Q (State.streamEnd s e d status reason sig) := by
  unfold State.streamEnd
  repeat' first
    | with_reducible assumption
    | with_reducible exact sub_trans (by decide) hw
    | with_reducible apply State.unmark_sound
    | with_reducible apply State.signal_sound
    | with_reducible apply State.count64_sound
    | with_reducible refine sound_ite (fun _ => ?_) (fun _ => ?_)
    | with_reducible refine sound_foldl (fun _ _ _ => ?_) ?_
    | with_reducible refine sound_foldl_snd (fun _ _ _ => ?_) ?_
    | with_reducible refine sound_foldl_fst (fun _ _ _ => ?_) ?_
    | with_reducible refine sound_foldl_snd2 (fun _ _ _ => ?_) ?_
    | with_reducible refine sound_snd_of (by assumption) ?_
    | with_reducible refine sound_snd2_of (by assumption) ?_
    | with_reducible refine sound_fst_of (by assumption) ?_
    | simp only []
    | split

theorem State.sRead_sound (s : State) (e : Nat) (va : Nat) (n : Nat) (f : List Byte → Bool → State → SStep) (hs : Sound Q s) (hf : ∀ x y s, Sound Q s → SSound Q (f x y s)) (hw : sub 598160113273597 Q.w = true) :
    SSound Q (State.sRead s e va n f) := by
  unfold State.sRead
  repeat' first
    | with_reducible assumption
    | with_reducible exact sub_trans (by decide) hw
    | with_reducible apply SSound.ok
    | with_reducible apply SSound.page
    | with_reducible apply SSound.fault
    | with_reducible apply SSound.lost
    | with_reducible apply SSound.wait
    | with_reducible apply State.xlateRange_sound
    | with_reducible apply State.fatal_sound
    | with_reducible apply State.meetPieces_sound
    | with_reducible refine pred_ite (P := SSound Q) (fun _ => ?_) (fun _ => ?_)
    | with_reducible apply hf
    | with_reducible refine sound_ite (fun _ => ?_) (fun _ => ?_)
    | with_reducible refine sound_foldl (fun _ _ _ => ?_) ?_
    | with_reducible refine sound_foldl_snd (fun _ _ _ => ?_) ?_
    | with_reducible refine sound_foldl_fst (fun _ _ _ => ?_) ?_
    | with_reducible refine sound_foldl_snd2 (fun _ _ _ => ?_) ?_
    | with_reducible refine sound_snd_of (by assumption) ?_
    | with_reducible refine sound_snd2_of (by assumption) ?_
    | with_reducible refine sound_fst_of (by assumption) ?_
    | simp only []
    | split

theorem State.sWrite_sound (s : State) (e : Nat) (va : Nat) (l : List Byte) (bad : Bool) (f : State → SStep) (hs : Sound Q s) (hf : ∀ s, Sound Q s → SSound Q (f s)) (hw : sub 598160113273597 Q.w = true) :
    SSound Q (State.sWrite s e va l bad f) := by
  unfold State.sWrite
  repeat' first
    | with_reducible assumption
    | with_reducible exact sub_trans (by decide) hw
    | with_reducible apply SSound.ok
    | with_reducible apply SSound.page
    | with_reducible apply SSound.fault
    | with_reducible apply SSound.lost
    | with_reducible apply SSound.wait
    | with_reducible apply State.writeDest_sound
    | with_reducible apply State.xlateRange_sound
    | with_reducible refine pred_ite (P := SSound Q) (fun _ => ?_) (fun _ => ?_)
    | with_reducible apply hf
    | with_reducible refine sound_ite (fun _ => ?_) (fun _ => ?_)
    | with_reducible refine sound_foldl (fun _ _ _ => ?_) ?_
    | with_reducible refine sound_foldl_snd (fun _ _ _ => ?_) ?_
    | with_reducible refine sound_foldl_fst (fun _ _ _ => ?_) ?_
    | with_reducible refine sound_foldl_snd2 (fun _ _ _ => ?_) ?_
    | with_reducible refine sound_snd_of (by assumption) ?_
    | with_reducible refine sound_snd2_of (by assumption) ?_
    | with_reducible refine sound_fst_of (by assumption) ?_
    | simp only []
    | split

theorem State.advance_sound (s : State) (e : Nat) (d : SDesc) (units : Nat) (bytes : Nat) (bad : Bool) (hs : Sound Q s) (hw : sub 8196 Q.w = true) :
    Sound Q (State.advance s e d units bytes bad) := by
  unfold State.advance
  repeat' first
    | with_reducible assumption
    | with_reducible exact sub_trans (by decide) hw
    | with_reducible apply State.modDesc_sound
    | with_reducible apply State.count64_sound

theorem State.stridedStep_sound (s : State) (e : Nat) (d : SDesc) (hs : Sound Q s) (hw : sub 616576935144189 Q.w = true) :
    SSound Q (State.stridedStep s e d) := by
  unfold State.stridedStep
  repeat' first
    | with_reducible assumption
    | with_reducible exact sub_trans (by decide) hw
    | with_reducible apply State.sRead_sound
    | with_reducible apply State.sWrite_sound
    | with_reducible apply SSound.ok
    | with_reducible apply SSound.page
    | with_reducible apply SSound.fault
    | with_reducible apply SSound.lost
    | with_reducible apply SSound.wait
    | with_reducible apply State.xlateRange_sound
    | with_reducible apply State.modDesc_sound
    | with_reducible apply State.flowSend_sound
    | with_reducible apply State.advance_sound
    | with_reducible refine pred_ite (P := SSound Q) (fun _ => ?_) (fun _ => ?_)
    | with_reducible refine sound_ite (fun _ => ?_) (fun _ => ?_)
    | with_reducible refine sound_foldl (fun _ _ _ => ?_) ?_
    | with_reducible refine ssound_ok (by assumption) ?_
    | with_reducible refine ssound_page (by assumption) ?_
    | with_reducible refine ssound_fault (by assumption) ?_
    | with_reducible refine ssound_lost (by assumption) ?_
    | with_reducible refine ssound_wait (by assumption) ?_
    | with_reducible refine sound_foldl_snd (fun _ _ _ => ?_) ?_
    | with_reducible refine sound_foldl_fst (fun _ _ _ => ?_) ?_
    | with_reducible refine sound_foldl_snd2 (fun _ _ _ => ?_) ?_
    | with_reducible refine sound_snd_of (by assumption) ?_
    | with_reducible refine sound_snd2_of (by assumption) ?_
    | with_reducible refine sound_fst_of (by assumption) ?_
    | simp only []
    | split
    | intro _

theorem State.gatherStep_sound (s : State) (e : Nat) (d : SDesc) (hs : Sound Q s) (hw : sub 598160113281789 Q.w = true) :
    SSound Q (State.gatherStep s e d) := by
  unfold State.gatherStep
  repeat' first
    | with_reducible assumption
    | with_reducible exact sub_trans (by decide) hw
    | with_reducible apply State.sRead_sound
    | with_reducible apply State.sWrite_sound
    | with_reducible apply SSound.ok
    | with_reducible apply SSound.page
    | with_reducible apply SSound.fault
    | with_reducible apply SSound.lost
    | with_reducible apply SSound.wait
    | with_reducible apply State.advance_sound
    | with_reducible refine pred_ite (P := SSound Q) (fun _ => ?_) (fun _ => ?_)
    | with_reducible refine sound_ite (fun _ => ?_) (fun _ => ?_)
    | with_reducible refine sound_foldl (fun _ _ _ => ?_) ?_
    | with_reducible refine ssound_ok (by assumption) ?_
    | with_reducible refine ssound_page (by assumption) ?_
    | with_reducible refine ssound_fault (by assumption) ?_
    | with_reducible refine ssound_lost (by assumption) ?_
    | with_reducible refine ssound_wait (by assumption) ?_
    | with_reducible refine sound_foldl_snd (fun _ _ _ => ?_) ?_
    | with_reducible refine sound_foldl_fst (fun _ _ _ => ?_) ?_
    | with_reducible refine sound_foldl_snd2 (fun _ _ _ => ?_) ?_
    | with_reducible refine sound_snd_of (by assumption) ?_
    | with_reducible refine sound_snd2_of (by assumption) ?_
    | with_reducible refine sound_fst_of (by assumption) ?_
    | simp only []
    | split
    | intro _

theorem State.bitmapStep_sound (s : State) (e : Nat) (d : SDesc) (hs : Sound Q s) (hw : sub 598160113281789 Q.w = true) :
    SSound Q (State.bitmapStep s e d) := by
  unfold State.bitmapStep
  repeat' first
    | with_reducible assumption
    | with_reducible exact sub_trans (by decide) hw
    | with_reducible apply State.sRead_sound
    | with_reducible apply SSound.ok
    | with_reducible apply SSound.page
    | with_reducible apply SSound.fault
    | with_reducible apply SSound.lost
    | with_reducible apply SSound.wait
    | with_reducible apply State.modDesc_sound
    | with_reducible apply State.advance_sound
    | with_reducible refine pred_ite (P := SSound Q) (fun _ => ?_) (fun _ => ?_)
    | with_reducible refine sound_ite (fun _ => ?_) (fun _ => ?_)
    | with_reducible refine sound_foldl (fun _ _ _ => ?_) ?_
    | with_reducible refine ssound_ok (by assumption) ?_
    | with_reducible refine ssound_page (by assumption) ?_
    | with_reducible refine ssound_fault (by assumption) ?_
    | with_reducible refine ssound_lost (by assumption) ?_
    | with_reducible refine ssound_wait (by assumption) ?_
    | with_reducible refine sound_foldl_snd (fun _ _ _ => ?_) ?_
    | with_reducible refine sound_foldl_fst (fun _ _ _ => ?_) ?_
    | with_reducible refine sound_foldl_snd2 (fun _ _ _ => ?_) ?_
    | with_reducible refine sound_snd_of (by assumption) ?_
    | with_reducible refine sound_snd2_of (by assumption) ?_
    | with_reducible refine sound_fst_of (by assumption) ?_
    | simp only []
    | split
    | intro _

theorem State.chainStep_sound (s : State) (e : Nat) (d : SDesc) (hs : Sound Q s) (hw : sub 598160113282813 Q.w = true) :
    SSound Q (State.chainStep s e d) := by
  unfold State.chainStep
  repeat' first
    | with_reducible assumption
    | with_reducible exact sub_trans (by decide) hw
    | with_reducible apply State.sRead_sound
    | with_reducible apply SSound.ok
    | with_reducible apply SSound.page
    | with_reducible apply SSound.fault
    | with_reducible apply SSound.lost
    | with_reducible apply SSound.wait
    | with_reducible apply State.modDesc_sound
    | with_reducible apply State.advance_sound
    | with_reducible apply State.markPending_sound
    | with_reducible refine pred_ite (P := SSound Q) (fun _ => ?_) (fun _ => ?_)
    | with_reducible refine sound_ite (fun _ => ?_) (fun _ => ?_)
    | with_reducible refine sound_foldl (fun _ _ _ => ?_) ?_
    | with_reducible refine ssound_ok (by assumption) ?_
    | with_reducible refine ssound_page (by assumption) ?_
    | with_reducible refine ssound_fault (by assumption) ?_
    | with_reducible refine ssound_lost (by assumption) ?_
    | with_reducible refine ssound_wait (by assumption) ?_
    | with_reducible refine sound_foldl_snd (fun _ _ _ => ?_) ?_
    | with_reducible refine sound_foldl_fst (fun _ _ _ => ?_) ?_
    | with_reducible refine sound_foldl_snd2 (fun _ _ _ => ?_) ?_
    | with_reducible refine sound_snd_of (by assumption) ?_
    | with_reducible refine sound_snd2_of (by assumption) ?_
    | with_reducible refine sound_fst_of (by assumption) ?_
    | simp only []
    | split
    | intro _

theorem State.sorlistStep_sound (s : State) (e : Nat) (d : SDesc) (hs : Sound Q s) (hw : sub 598160192973565 Q.w = true) :
    SSound Q (State.sorlistStep s e d) := by
  unfold State.sorlistStep
  repeat' first
    | with_reducible assumption
    | with_reducible exact sub_trans (by decide) hw
    | with_reducible apply State.sRead_sound
    | with_reducible apply SSound.ok
    | with_reducible apply SSound.page
    | with_reducible apply SSound.fault
    | with_reducible apply SSound.lost
    | with_reducible apply SSound.wait
    | with_reducible apply State.feedCmd_sound
    | with_reducible apply State.issueCmd_sound
    | with_reducible apply State.advance_sound
    | with_reducible refine pred_ite (P := SSound Q) (fun _ => ?_) (fun _ => ?_)
    | with_reducible refine sound_ite (fun _ => ?_) (fun _ => ?_)
    | with_reducible refine sound_foldl (fun _ _ _ => ?_) ?_
    | with_reducible refine ssound_ok (by assumption) ?_
    | with_reducible refine ssound_page (by assumption) ?_
    | with_reducible refine ssound_fault (by assumption) ?_
    | with_reducible refine ssound_lost (by assumption) ?_
    | with_reducible refine ssound_wait (by assumption) ?_
    | with_reducible refine sound_foldl_snd (fun _ _ _ => ?_) ?_
    | with_reducible refine sound_foldl_fst (fun _ _ _ => ?_) ?_
    | with_reducible refine sound_foldl_snd2 (fun _ _ _ => ?_) ?_
    | with_reducible refine sound_snd_of (by assumption) ?_
    | with_reducible refine sound_snd2_of (by assumption) ?_
    | with_reducible refine sound_fst_of (by assumption) ?_
    | simp only []
    | split
    | intro _

theorem State.unitStep_sound (s : State) (e : Nat) (d : SDesc) (hs : Sound Q s) (hw : sub 616577014836989 Q.w = true) :
    SSound Q (State.unitStep s e d) := by
  unfold State.unitStep
  repeat' first
    | with_reducible assumption
    | with_reducible exact sub_trans (by decide) hw
    | with_reducible apply State.stridedStep_sound
    | with_reducible apply State.sorlistStep_sound
    | with_reducible apply State.chainStep_sound
    | with_reducible apply State.gatherStep_sound
    | with_reducible apply State.bitmapStep_sound
    | with_reducible apply SSound.ok
    | with_reducible apply SSound.page
    | with_reducible apply SSound.fault
    | with_reducible apply SSound.lost
    | with_reducible apply SSound.wait
    | with_reducible refine pred_ite (P := SSound Q) (fun _ => ?_) (fun _ => ?_)
    | with_reducible refine sound_ite (fun _ => ?_) (fun _ => ?_)
    | with_reducible refine sound_foldl (fun _ _ _ => ?_) ?_
    | with_reducible refine ssound_ok (by assumption) ?_
    | with_reducible refine ssound_page (by assumption) ?_
    | with_reducible refine ssound_fault (by assumption) ?_
    | with_reducible refine ssound_lost (by assumption) ?_
    | with_reducible refine ssound_wait (by assumption) ?_
    | with_reducible refine sound_foldl_snd (fun _ _ _ => ?_) ?_
    | with_reducible refine sound_foldl_fst (fun _ _ _ => ?_) ?_
    | with_reducible refine sound_foldl_snd2 (fun _ _ _ => ?_) ?_
    | with_reducible refine sound_snd_of (by assumption) ?_
    | with_reducible refine sound_snd2_of (by assumption) ?_
    | with_reducible refine sound_fst_of (by assumption) ?_
    | simp only []
    | split

theorem State.runUnits_sound (s : State) (e serial n : Nat) (hs : Sound Q s)
    (hw : sub 616577014836989 Q.w = true) : Sound Q (State.runUnits s e serial n) := by
  induction n generalizing s with
  | zero => exact hs
  | succ n ih =>
    unfold State.runUnits
    split
    · exact hs
    · next d _ =>
      have h1 := State.unitStep_sound s e d hs (sub_trans (by decide) hw)
      refine sound_ite (fun _ => hs) (fun _ => ?_)
      refine sound_ite (fun _ => State.modDesc_sound _ _ _ _ hs (sub_trans (by decide) hw)) (fun _ => ?_)
      refine sound_ite (fun _ => hs) (fun _ => ?_)
      split
      · next e => exact ih _ (ssound_ok e h1)
      · next e => exact State.sengFault_sound _ _ _ _ _ (ssound_page e h1) (sub_trans (by decide) hw)
      · next e => exact ssound_wait e h1
      · next e => exact State.modDesc_sound _ _ _ _ (ssound_lost e h1) (sub_trans (by decide) hw)
      · next e => exact State.modDesc_sound _ _ _ _ (ssound_fault e h1) (sub_trans (by decide) hw)

theorem runMode_sound (s : State) (e : Nat) (m : Nat) (n : SDesc → Nat) (hs : Sound Q s) (hw : sub 616577014836989 Q.w = true) :
    Sound Q (runMode s e m n) := by
  unfold runMode
  repeat' first
    | with_reducible assumption
    | with_reducible exact sub_trans (by decide) hw
    | with_reducible apply State.runUnits_sound
    | with_reducible refine sound_ite (fun _ => ?_) (fun _ => ?_)
    | with_reducible refine sound_foldl (fun _ _ _ => ?_) ?_
    | with_reducible refine sound_foldl_snd (fun _ _ _ => ?_) ?_
    | with_reducible refine sound_foldl_fst (fun _ _ _ => ?_) ?_
    | with_reducible refine sound_foldl_snd2 (fun _ _ _ => ?_) ?_
    | with_reducible refine sound_snd_of (by assumption) ?_
    | with_reducible refine sound_snd2_of (by assumption) ?_
    | with_reducible refine sound_fst_of (by assumption) ?_
    | simp only []
    | split

theorem State.landTile_sound (s : State) (e : Nat) (d : SDesc) (c : Nat) (m : TileMove) (hs : Sound Q s) (hw : sub 1028 Q.w = true) :
    Sound Q (State.landTile s e d c m) := by
  unfold State.landTile
  repeat' first
    | with_reducible assumption
    | with_reducible exact sub_trans (by decide) hw
    | with_reducible apply State.markPoison_sound
    | with_reducible apply State.setCore_sound
    | with_reducible refine sound_ite (fun _ => ?_) (fun _ => ?_)
    | with_reducible refine sound_foldl (fun _ _ _ => ?_) ?_
    | with_reducible refine sound_foldl_snd (fun _ _ _ => ?_) ?_
    | with_reducible refine sound_foldl_fst (fun _ _ _ => ?_) ?_
    | with_reducible refine sound_foldl_snd2 (fun _ _ _ => ?_) ?_
    | with_reducible refine sound_snd_of (by assumption) ?_
    | with_reducible refine sound_snd2_of (by assumption) ?_
    | with_reducible refine sound_fst_of (by assumption) ?_
    | simp only []
    | split

theorem State.sengHalt_sound (s : State) (e : Nat) (serial : Nat) (va : Nat) (w : Bool) (hs : Sound Q s) (hw : sub 35184372097028 Q.w = true) :
    Sound Q (State.sengHalt s e serial va w) := by
  unfold State.sengHalt
  repeat' first
    | with_reducible assumption
    | with_reducible exact sub_trans (by decide) hw
    | with_reducible apply State.setReg_sound
    | with_reducible apply State.setReg64_sound
    | with_reducible apply State.setSeng_sound
    | with_reducible apply State.raiseVec_sound
    | with_reducible apply State.count32_sound
    | with_reducible refine sound_ite (fun _ => ?_) (fun _ => ?_)
    | with_reducible refine sound_foldl (fun _ _ _ => ?_) ?_
    | with_reducible refine sound_foldl_snd (fun _ _ _ => ?_) ?_
    | with_reducible refine sound_foldl_fst (fun _ _ _ => ?_) ?_
    | with_reducible refine sound_foldl_snd2 (fun _ _ _ => ?_) ?_
    | with_reducible refine sound_snd_of (by assumption) ?_
    | with_reducible refine sound_snd2_of (by assumption) ?_
    | with_reducible refine sound_fst_of (by assumption) ?_
    | simp only []
    | split

theorem pageResume_sound (q : Nat) (c : HCmd) (s : State) (hs : Sound Q s) (hw : sub 270340 Q.w = true) :
    Sound Q (pageResume q c s) := by
  unfold pageResume
  repeat' first
    | with_reducible assumption
    | with_reducible exact sub_trans (by decide) hw
    | with_reducible apply State.setSeng_sound
    | with_reducible apply State.hostRefuse_sound
    | with_reducible apply State.modDesc_sound
    | with_reducible apply State.hostEnd_sound
    | with_reducible refine sound_ite (fun _ => ?_) (fun _ => ?_)
    | with_reducible refine sound_foldl (fun _ _ _ => ?_) ?_
    | with_reducible refine sound_foldl_snd (fun _ _ _ => ?_) ?_
    | with_reducible refine sound_foldl_fst (fun _ _ _ => ?_) ?_
    | with_reducible refine sound_foldl_snd2 (fun _ _ _ => ?_) ?_
    | with_reducible refine sound_snd_of (by assumption) ?_
    | with_reducible refine sound_snd2_of (by assumption) ?_
    | with_reducible refine sound_fst_of (by assumption) ?_
    | simp only []
    | split

theorem State.resetSeng_sound (s : State) (e : Nat) (hs : Sound Q s) (hw : sub 335552516 Q.w = true) :
    Sound Q (State.resetSeng s e) := by
  unfold State.resetSeng
  repeat' first
    | with_reducible assumption
    | with_reducible exact sub_trans (by decide) hw
    | with_reducible apply State.setReg_sound
    | with_reducible apply State.setReg64_sound
    | with_reducible apply State.modSeng_sound
    | with_reducible apply State.sourceReset_sound

end Sys2Proof.Machine
end

