-- ==== Sys2Proof/Laws/SoundDeliver.lean ====
section
/-! SUPPORT. Laws/SoundDeliver.lean: the operations of Machine/Deliver.lean keep the waiting commands and the canonical form of both
memories. -/

namespace Sys2Proof.Machine

open Sys2Proof

variable {Q : Frame}

theorem State.takeWrite_sound (s : State) (p : Packet) (hs : Sound Q s) (hw : sub 598160121531133 Q.w = true) :
    Sound Q (State.takeWrite s p) := by
  unfold State.takeWrite
  repeat' first
    | with_reducible assumption
    | with_reducible exact sub_trans (by decide) hw
    | with_reducible apply State.dirtyHot_sound
    | with_reducible apply State.store_sound
    | with_reducible apply State.beforeWrite_sound
    | with_reducible refine sound_ite (fun _ => ?_) (fun _ => ?_)

theorem State.takeAcc_sound (s : State) (p : Packet) (hs : Sound Q s) (hw : sub 598160121662205 Q.w = true) :
    Sound Q (State.takeAcc s p) := by
  unfold State.takeAcc
  repeat' first
    | with_reducible assumption
    | with_reducible exact sub_trans (by decide) hw
    | with_reducible apply State.accumulate_sound
    | with_reducible apply State.endFault_sound
    | with_reducible apply State.modCmd_sound
    | with_reducible apply State.dstPieces_sound
    | with_reducible refine sound_ite (fun _ => ?_) (fun _ => ?_)
    | with_reducible refine sound_foldl (fun _ _ _ => ?_) ?_
    | with_reducible refine sound_foldl_snd (fun _ _ _ => ?_) ?_
    | with_reducible refine sound_foldl_fst (fun _ _ _ => ?_) ?_
    | with_reducible refine sound_foldl_snd2 (fun _ _ _ => ?_) ?_
    | with_reducible refine sound_snd_of (by assumption) ?_
    | with_reducible refine sound_snd2_of (by assumption) ?_
    | with_reducible refine sound_fst_of (by assumption) ?_
    | simp only []
    | split

theorem State.partFails_sound (s : State) (coord : Nat) (status : Nat) (reason : Nat) (l : List Byte) (hs : Sound Q s) (hw : sub 616551165199100 Q.w = true) :
    Sound Q (State.partFails s coord status reason l) := by
  unfold State.partFails
  repeat' first
    | with_reducible assumption
    | with_reducible exact sub_trans (by decide) hw
    | with_reducible apply State.sendPartFail_sound

theorem State.resolvePart_sound (s : State) (v : Version) (a2 : List (Nat × Nat)) (a3 : Resolved) (hs : Sound Q s) (hw : sub 598160650013437 Q.w = true) :
    Sound Q (State.resolvePart s v a2 a3).2 := by
  fun_induction State.resolvePart s v a2 a3
  all_goals
    repeat' first
      | with_reducible assumption
      | with_reducible exact sub_trans (by decide) hw
      | with_reducible apply State.resolveRow_sound
      | with_reducible refine sound_ite (fun _ => ?_) (fun _ => ?_)
      | with_reducible refine sound_foldl (fun _ _ _ => ?_) ?_
      | with_reducible refine sound_foldl_snd (fun _ _ _ => ?_) ?_
      | with_reducible refine sound_foldl_fst (fun _ _ _ => ?_) ?_
      | with_reducible refine sound_foldl_snd2 (fun _ _ _ => ?_) ?_
      | with_reducible refine sound_snd_of (by assumption) ?_
      | with_reducible refine sound_snd2_of (by assumption) ?_
      | with_reducible refine sound_fst_of (by assumption) ?_
      | simp only []
      | split
      | intro _
      | with_reducible apply_assumption

theorem State.servePart_sound (s : State) (v : Version) (coord : Nat) (l : List Byte) (hs : Sound Q s) (hw : sub 616577484589821 Q.w = true) :
    Sound Q (State.servePart s v coord l) := by
  unfold State.servePart
  repeat' first
    | with_reducible assumption
    | with_reducible exact sub_trans (by decide) hw
    | with_reducible apply State.partFails_sound
    | with_reducible apply State.resolvePart_sound
    | with_reducible apply State.openTree_sound
    | with_reducible apply State.modServer_sound
    | with_reducible apply State.routeCmd_sound
    | with_reducible apply State.addSpoilt_sound
    | with_reducible apply State.modCmd_sound
    | with_reducible refine sound_ite (fun _ => ?_) (fun _ => ?_)
    | with_reducible refine sound_foldl (fun _ _ _ => ?_) ?_
    | with_reducible refine sound_foldl_snd (fun _ _ _ => ?_) ?_
    | with_reducible refine sound_foldl_fst (fun _ _ _ => ?_) ?_
    | with_reducible refine sound_foldl_snd2 (fun _ _ _ => ?_) ?_
    | with_reducible refine sound_snd_of (by assumption) ?_
    | with_reducible refine sound_snd2_of (by assumption) ?_
    | with_reducible refine sound_fst_of (by assumption) ?_
    | simp only [sound_set_serial (sub_trans (by decide) hw)]

theorem State.waitEpoch_sound (s : State) (srv : Nat) (tid : Nat) (epoch : Nat) (p : Packet) (hs : Sound Q s) (hw : sub 2151677956 Q.w = true) :
    Sound Q (State.waitEpoch s srv tid epoch p) := by
  unfold State.waitEpoch
  repeat' first
    | with_reducible assumption
    | with_reducible exact sub_trans (by decide) hw
    | with_reducible apply State.count64_sound
    | with_reducible refine sound_ite (fun _ => ?_) (fun _ => ?_)
    | with_reducible refine sound_foldl (fun _ _ _ => ?_) ?_
    | with_reducible refine sound_foldl_snd (fun _ _ _ => ?_) ?_
    | with_reducible refine sound_foldl_fst (fun _ _ _ => ?_) ?_
    | with_reducible refine sound_foldl_snd2 (fun _ _ _ => ?_) ?_
    | with_reducible refine sound_snd_of (by assumption) ?_
    | with_reducible refine sound_snd2_of (by assumption) ?_
    | with_reducible refine sound_fst_of (by assumption) ?_
    | simp only [sound_set_serial_epWaits (sub_trans (by decide) hw)]

theorem State.takeGather_sound (s : State) (p : Packet) (hs : Sound Q s) (hw : sub 616579632073469 Q.w = true) :
    Sound Q (State.takeGather s p) := by
  unfold State.takeGather
  repeat' first
    | with_reducible assumption
    | with_reducible exact sub_trans (by decide) hw
    | with_reducible apply State.partFails_sound
    | with_reducible apply State.servePart_sound
    | with_reducible apply State.waitEpoch_sound
    | with_reducible apply State.count32_sound
    | with_reducible refine sound_ite (fun _ => ?_) (fun _ => ?_)
    | with_reducible refine sound_foldl (fun _ _ _ => ?_) ?_
    | with_reducible refine sound_foldl_snd (fun _ _ _ => ?_) ?_
    | with_reducible refine sound_foldl_fst (fun _ _ _ => ?_) ?_
    | with_reducible refine sound_foldl_snd2 (fun _ _ _ => ?_) ?_
    | with_reducible refine sound_snd_of (by assumption) ?_
    | with_reducible refine sound_snd2_of (by assumption) ?_
    | with_reducible refine sound_fst_of (by assumption) ?_
    | simp only []
    | split

theorem State.remoteReadEvent_sound (s : State) (a : Nat) (n : Nat) (hs : Sound Q s) (hw : sub 562949971247868 Q.w = true) :
    Sound Q (State.remoteReadEvent s a n) := by
  unfold State.remoteReadEvent
  repeat' first
    | with_reducible assumption
    | with_reducible exact sub_trans (by decide) hw
    | with_reducible apply State.poisonRead_sound
    | with_reducible apply State.poisonUnit_sound
    | with_reducible refine sound_ite (fun _ => ?_) (fun _ => ?_)
    | with_reducible refine sound_foldl (fun _ _ _ => ?_) ?_
    | with_reducible refine sound_foldl_snd (fun _ _ _ => ?_) ?_
    | with_reducible refine sound_foldl_fst (fun _ _ _ => ?_) ?_
    | with_reducible refine sound_foldl_snd2 (fun _ _ _ => ?_) ?_
    | with_reducible refine sound_snd_of (by assumption) ?_
    | with_reducible refine sound_snd2_of (by assumption) ?_
    | with_reducible refine sound_fst_of (by assumption) ?_
    | simp only []
    | split

theorem State.takeSread_sound (s : State) (p : Packet) (hs : Sound Q s) (hw : sub 616576935004925 Q.w = true) :
    Sound Q (State.takeSread s p) := by
  unfold State.takeSread
  repeat' first
    | with_reducible assumption
    | with_reducible exact sub_trans (by decide) hw
    | with_reducible apply State.remoteReadEvent_sound
    | with_reducible apply State.meet_sound
    | with_reducible apply State.flowSend_sound
    | with_reducible refine sound_ite (fun _ => ?_) (fun _ => ?_)

theorem State.takeRow_sound (s : State) (l : List Byte) (hs : Sound Q s) (hw : sub 8388608 Q.w = true) :
    Sound Q (State.takeRow s l) := by
  unfold State.takeRow
  repeat' first
    | with_reducible assumption
    | with_reducible exact sub_trans (by decide) hw
    | with_reducible apply State.modBag_sound
    | with_reducible apply State.meetPoison_sound
    | with_reducible refine sound_ite (fun _ => ?_) (fun _ => ?_)
    | with_reducible refine sound_foldl (fun _ _ _ => ?_) ?_
    | with_reducible refine sound_foldl_snd (fun _ _ _ => ?_) ?_
    | with_reducible refine sound_foldl_fst (fun _ _ _ => ?_) ?_
    | with_reducible refine sound_foldl_snd2 (fun _ _ _ => ?_) ?_
    | with_reducible refine sound_snd_of (by assumption) ?_
    | with_reducible refine sound_snd2_of (by assumption) ?_
    | with_reducible refine sound_fst_of (by assumption) ?_
    | simp only []
    | split

theorem State.takeSreply_sound (s : State) (p : Packet) (hs : Sound Q s) (hw : sub 598160113281789 Q.w = true) :
    Sound Q (State.takeSreply s p) := by
  unfold State.takeSreply
  repeat' first
    | with_reducible assumption
    | with_reducible exact sub_trans (by decide) hw
    | with_reducible apply State.writeDest_sound
    | with_reducible apply State.xlateRange_sound
    | with_reducible apply State.sengFault_sound
    | with_reducible apply State.modDesc_sound
    | with_reducible refine sound_ite (fun _ => ?_) (fun _ => ?_)
    | with_reducible refine sound_foldl (fun _ _ _ => ?_) ?_
    | with_reducible refine sound_foldl_snd (fun _ _ _ => ?_) ?_
    | with_reducible refine sound_foldl_fst (fun _ _ _ => ?_) ?_
    | with_reducible refine sound_foldl_snd2 (fun _ _ _ => ?_) ?_
    | with_reducible refine sound_snd_of (by assumption) ?_
    | with_reducible refine sound_snd2_of (by assumption) ?_
    | with_reducible refine sound_fst_of (by assumption) ?_
    | simp only []
    | split

theorem State.serveUpdate_sound (s : State) (v : Version) (r : Nat) (i : Nat) (ser : Nat) (p : Packet) (hs : Sound Q s) (hw : sub 629771649157885 Q.w = true) :
    Sound Q (State.serveUpdate s v r i ser p) := by
  unfold State.serveUpdate
  repeat' first
    | with_reducible assumption
    | with_reducible exact sub_trans (by decide) hw
    | with_reducible apply State.routePacket_sound
    | with_reducible apply State.locate_sound
    | with_reducible apply State.updateFails_sound
    | with_reducible apply State.poisonUnit_sound
    | with_reducible refine sound_ite (fun _ => ?_) (fun _ => ?_)
    | with_reducible refine sound_foldl (fun _ _ _ => ?_) ?_
    | with_reducible refine sound_foldl_snd (fun _ _ _ => ?_) ?_
    | with_reducible refine sound_foldl_fst (fun _ _ _ => ?_) ?_
    | with_reducible refine sound_foldl_snd2 (fun _ _ _ => ?_) ?_
    | with_reducible refine sound_snd_of (by assumption) ?_
    | with_reducible refine sound_snd2_of (by assumption) ?_
    | with_reducible refine sound_fst_of (by assumption) ?_
    | simp only [sound_set_upStops (sub_trans (by decide) hw), sound_set_serial_upk (sub_trans (by decide) hw)]
    | split

theorem State.takeUpdate_sound (s : State) (p : Packet) (hs : Sound Q s) (hw : sub 629773930859261 Q.w = true) :
    Sound Q (State.takeUpdate s p) := by
  unfold State.takeUpdate
  repeat' first
    | with_reducible assumption
    | with_reducible exact sub_trans (by decide) hw
    | with_reducible apply State.updateFails_sound
    | with_reducible apply State.serveUpdate_sound
    | with_reducible apply State.waitEpoch_sound
    | with_reducible apply State.seqCheck_sound
    | with_reducible apply State.count32_sound
    | with_reducible refine sound_ite (fun _ => ?_) (fun _ => ?_)
    | with_reducible refine sound_foldl (fun _ _ _ => ?_) ?_
    | with_reducible refine sound_foldl_snd (fun _ _ _ => ?_) ?_
    | with_reducible refine sound_foldl_fst (fun _ _ _ => ?_) ?_
    | with_reducible refine sound_foldl_snd2 (fun _ _ _ => ?_) ?_
    | with_reducible refine sound_snd_of (by assumption) ?_
    | with_reducible refine sound_snd2_of (by assumption) ?_
    | with_reducible refine sound_fst_of (by assumption) ?_
    | simp only []
    | split

theorem State.takeControl_sound (s : State) (p : Packet) (hs : Sound Q s) (hw : sub 616551177782012 Q.w = true) :
    Sound Q (State.takeControl s p) := by
  unfold State.takeControl
  repeat' first
    | with_reducible assumption
    | with_reducible exact sub_trans (by decide) hw
    | with_reducible apply State.modBag_sound
    | with_reducible apply State.remoteFence_sound
    | with_reducible apply State.sendFenceReport_sound
    | with_reducible apply State.modCmd_sound
    | with_reducible apply State.leadCmd_sound
    | with_reducible apply State.count32_sound
    | with_reducible refine sound_ite (fun _ => ?_) (fun _ => ?_)
    | with_reducible refine sound_foldl (fun _ _ _ => ?_) ?_
    | with_reducible refine sound_foldl_snd (fun _ _ _ => ?_) ?_
    | with_reducible refine sound_foldl_fst (fun _ _ _ => ?_) ?_
    | with_reducible refine sound_foldl_snd2 (fun _ _ _ => ?_) ?_
    | with_reducible refine sound_snd_of (by assumption) ?_
    | with_reducible refine sound_snd2_of (by assumption) ?_
    | with_reducible refine sound_fst_of (by assumption) ?_
    | simp only [sound_set_top (sub_trans (by decide) hw)]
    | split

theorem State.assemble_sound (s : State) (p : Packet) (hs : Sound Q s) (hw : sub 2199023255552 Q.w = true) :
    Sound Q (State.assemble s p).2 := by
  unfold State.assemble
  repeat' first
    | with_reducible assumption
    | with_reducible exact sub_trans (by decide) hw
    | with_reducible refine sound_ite (fun _ => ?_) (fun _ => ?_)
    | with_reducible refine sound_foldl (fun _ _ _ => ?_) ?_
    | with_reducible refine sound_foldl_snd (fun _ _ _ => ?_) ?_
    | with_reducible refine sound_foldl_fst (fun _ _ _ => ?_) ?_
    | with_reducible refine sound_foldl_snd2 (fun _ _ _ => ?_) ?_
    | with_reducible refine sound_snd_of (by assumption) ?_
    | with_reducible refine sound_snd2_of (by assumption) ?_
    | with_reducible refine sound_fst_of (by assumption) ?_
    | simp only [sound_set_rxParts (sub_trans (by decide) hw)]
    | split

theorem State.takePacket_sound (s : State) (p : Packet) (hs : Sound Q s) (hw : sub 632110401596157 Q.w = true) :
    Sound Q (State.takePacket s p) := by
  unfold State.takePacket
  repeat' first
    | with_reducible assumption
    | with_reducible exact sub_trans (by decide) hw
    | with_reducible apply State.assemble_sound
    | with_reducible apply State.takeRow_sound
    | with_reducible apply State.takeWrite_sound
    | with_reducible apply State.takeAcc_sound
    | with_reducible apply State.takeGather_sound
    | with_reducible apply State.takeSread_sound
    | with_reducible apply State.takeSreply_sound
    | with_reducible apply State.takeUpdate_sound
    | with_reducible apply State.takeControl_sound
    | with_reducible refine sound_ite (fun _ => ?_) (fun _ => ?_)
    | with_reducible refine sound_foldl (fun _ _ _ => ?_) ?_
    | with_reducible refine sound_foldl_snd (fun _ _ _ => ?_) ?_
    | with_reducible refine sound_foldl_fst (fun _ _ _ => ?_) ?_
    | with_reducible refine sound_foldl_snd2 (fun _ _ _ => ?_) ?_
    | with_reducible refine sound_snd_of (by assumption) ?_
    | with_reducible refine sound_snd2_of (by assumption) ?_
    | with_reducible refine sound_fst_of (by assumption) ?_
    | simp only [sound_set_colIn (sub_trans (by decide) hw)]
    | split

theorem State.takePackets_sound (s : State) (a1 : List Packet) (hs : Sound Q s) (hw : sub 632110401596157 Q.w = true) :
    OSound Q (State.takePackets s a1) := by
  fun_induction State.takePackets s a1
  all_goals
    repeat' first
      | with_reducible assumption
      | with_reducible exact sub_trans (by decide) hw
      | with_reducible apply OSound.none
      | with_reducible apply OSound.some
      | with_reducible apply State.takePacket_sound
      | with_reducible refine osound_findSome (fun _ => ?_)
      | with_reducible refine osound_map ?_ (fun _ _ => ?_)
      | with_reducible refine osound_bind ?_ (fun _ _ => ?_)
      | with_reducible refine osound_foldl (fun _ _ _ => ?_) ?_
      | with_reducible refine pred_ite (P := OSound Q) (fun _ => ?_) (fun _ => ?_)
      | with_reducible refine sound_ite (fun _ => ?_) (fun _ => ?_)
      | with_reducible refine sound_foldl (fun _ _ _ => ?_) ?_
      | with_reducible refine sound_foldl_snd (fun _ _ _ => ?_) ?_
      | with_reducible refine sound_foldl_fst (fun _ _ _ => ?_) ?_
      | with_reducible refine sound_foldl_snd2 (fun _ _ _ => ?_) ?_
      | with_reducible refine sound_snd_of (by assumption) ?_
      | with_reducible refine sound_snd2_of (by assumption) ?_
      | with_reducible refine sound_fst_of (by assumption) ?_
      | simp only []
      | split
      | intro _
      | with_reducible apply_assumption

theorem State.epochArrives_sound (s : State) (v : Version) (hs : Sound Q s) (hw : sub 629773805161213 Q.w = true) :
    Sound Q (State.epochArrives s v) := by
  unfold State.epochArrives
  repeat' first
    | with_reducible assumption
    | with_reducible exact sub_trans (by decide) hw
    | with_reducible apply State.serveUpdate_sound
    | with_reducible apply State.servePart_sound
    | with_reducible refine sound_ite (fun _ => ?_) (fun _ => ?_)
    | with_reducible refine sound_foldl (fun _ _ _ => ?_) ?_
    | with_reducible refine sound_foldl_snd (fun _ _ _ => ?_) ?_
    | with_reducible refine sound_foldl_fst (fun _ _ _ => ?_) ?_
    | with_reducible refine sound_foldl_snd2 (fun _ _ _ => ?_) ?_
    | with_reducible refine sound_snd_of (by assumption) ?_
    | with_reducible refine sound_snd2_of (by assumption) ?_
    | with_reducible refine sound_fst_of (by assumption) ?_
    | simp only [sound_set_epWaits (sub_trans (by decide) hw)]
    | split

end Sys2Proof.Machine
end

