-- ==== Sys2Proof/Laws/SoundFault.lean ====
section
/-! SUPPORT. Laws/SoundFault.lean: the operations of Machine/Fault.lean keep the waiting commands and the canonical form of both
memories. -/

namespace Sys2Proof.Machine

open Sys2Proof

variable {Q : Frame}

theorem State.endSlice_sound (s : State) (hs : Sound Q s) (hw : sub 633183560270076 Q.w = true) :
    Sound Q (State.endSlice s) := by
  unfold State.endSlice
  repeat' first
    | with_reducible assumption
    | with_reducible exact sub_trans (by decide) hw
    | with_reducible apply State.recovDone_sound
    | with_reducible refine sound_ite (fun _ => ?_) (fun _ => ?_)
    | with_reducible refine sound_foldl (fun _ _ _ => ?_) ?_
    | with_reducible refine sound_foldl_snd (fun _ _ _ => ?_) ?_
    | with_reducible refine sound_foldl_fst (fun _ _ _ => ?_) ?_
    | with_reducible refine sound_foldl_snd2 (fun _ _ _ => ?_) ?_
    | with_reducible refine sound_snd_of (by assumption) ?_
    | with_reducible refine sound_snd2_of (by assumption) ?_
    | with_reducible refine sound_fst_of (by assumption) ?_
    | simp only [sound_set_links_and_10 (sub_trans (by decide) hw)]

theorem State.abortDone_sound (s : State) (hs : Sound Q s) (hw : sub 633183560532220 Q.w = true) :
    Sound Q (State.abortDone s) := by
  unfold State.abortDone
  repeat' first
    | with_reducible assumption
    | with_reducible exact sub_trans (by decide) hw
    | with_reducible apply State.endSlice_sound
    | with_reducible apply State.hostEnd_sound
    | with_reducible refine sound_ite (fun _ => ?_) (fun _ => ?_)
    | with_reducible refine sound_foldl (fun _ _ _ => ?_) ?_
    | with_reducible refine sound_foldl_snd (fun _ _ _ => ?_) ?_
    | with_reducible refine sound_foldl_fst (fun _ _ _ => ?_) ?_
    | with_reducible refine sound_foldl_snd2 (fun _ _ _ => ?_) ?_
    | with_reducible refine sound_snd_of (by assumption) ?_
    | with_reducible refine sound_snd2_of (by assumption) ?_
    | with_reducible refine sound_fst_of (by assumption) ?_
    | simp only [sound_set_top (sub_trans (by decide) hw)]
    | split

theorem State.sendAbort_sound (s : State) (cause : Nat) (origin : Nat) (hs : Sound Q s) (hw : sub 580542139465732 Q.w = true) :
    Sound Q (State.sendAbort s cause origin) := by
  unfold State.sendAbort
  repeat' first
    | with_reducible assumption
    | with_reducible exact sub_trans (by decide) hw
    | with_reducible apply State.setReg_sound
    | with_reducible apply State.sendControl_sound
    | with_reducible refine sound_ite (fun _ => ?_) (fun _ => ?_)
    | with_reducible refine sound_foldl (fun _ _ _ => ?_) ?_
    | with_reducible refine sound_foldl_snd (fun _ _ _ => ?_) ?_
    | with_reducible refine sound_foldl_fst (fun _ _ _ => ?_) ?_
    | with_reducible refine sound_foldl_snd2 (fun _ _ _ => ?_) ?_
    | with_reducible refine sound_snd_of (by assumption) ?_
    | with_reducible refine sound_snd2_of (by assumption) ?_
    | with_reducible refine sound_fst_of (by assumption) ?_
    | simp only [sound_set_top (sub_trans (by decide) hw)]
    | split

theorem State.applyNow_sound (s : State) (u : Nat) (r : UReq) (hs : Sound Q s) (hw : sub 598160121531133 Q.w = true) :
    Sound Q (State.applyNow s u r) := by
  unfold State.applyNow
  repeat' first
    | with_reducible assumption
    | with_reducible exact sub_trans (by decide) hw
    | with_reducible apply State.applyVals_sound
    | with_reducible apply State.modUnit_sound
    | with_reducible apply State.flushSector_sound
    | with_reducible refine sound_ite (fun _ => ?_) (fun _ => ?_)

theorem State.applyAccepted_sound (s : State) (hs : Sound Q s) (hw : sub 598160155085565 Q.w = true) :
    Sound Q (State.applyAccepted s) := by
  unfold State.applyAccepted
  repeat' first
    | with_reducible assumption
    | with_reducible exact sub_trans (by decide) hw
    | with_reducible apply State.flushWhere_sound
    | with_reducible apply State.modUnit_sound
    | with_reducible apply State.unitCount_sound
    | with_reducible apply State.applyNow_sound
    | with_reducible refine sound_ite (fun _ => ?_) (fun _ => ?_)
    | with_reducible refine sound_foldl (fun _ _ _ => ?_) ?_
    | with_reducible refine sound_foldl_snd (fun _ _ _ => ?_) ?_
    | with_reducible refine sound_foldl_fst (fun _ _ _ => ?_) ?_
    | with_reducible refine sound_foldl_snd2 (fun _ _ _ => ?_) ?_
    | with_reducible refine sound_snd_of (by assumption) ?_
    | with_reducible refine sound_snd2_of (by assumption) ?_
    | with_reducible refine sound_fst_of (by assumption) ?_
    | simp only [sound_set_upk (sub_trans (by decide) hw)]

theorem State.haltServer_sound (s : State) (x : Nat) (hs : Sound Q s) (hw : sub 616645696818941 Q.w = true) :
    Sound Q (State.haltServer s x) := by
  unfold State.haltServer
  repeat' first
    | with_reducible assumption
    | with_reducible exact sub_trans (by decide) hw
    | with_reducible apply State.abortStack_sound
    | with_reducible apply State.modServer_sound
    | with_reducible apply State.modUnit_sound
    | with_reducible refine sound_ite (fun _ => ?_) (fun _ => ?_)
    | with_reducible refine sound_foldl (fun _ _ _ => ?_) ?_

theorem State.haltStreams_sound (s : State) (hs : Sound Q s) (hw : sub 11268 Q.w = true) : Sound Q (State.haltStreams s) := by
  unfold State.haltStreams
  repeat' first
    | with_reducible assumption
    | with_reducible exact sub_trans (by decide) hw
    | with_reducible apply State.modSeng_sound
    | with_reducible apply State.streamEnd_sound
    | with_reducible refine sound_ite (fun _ => ?_) (fun _ => ?_)
    | with_reducible refine sound_foldl (fun _ _ _ => ?_) ?_

theorem State.haltColls_sound (s : State) (reason : Nat) (hs : Sound Q s) (hw : sub 598263192489725 Q.w = true) :
    Sound Q (State.haltColls s reason) := by
  unfold State.haltColls
  repeat' first
    | with_reducible assumption
    | with_reducible exact sub_trans (by decide) hw
    | with_reducible apply State.collEnd_sound
    | with_reducible refine sound_ite (fun _ => ?_) (fun _ => ?_)
    | with_reducible refine sound_foldl (fun _ _ _ => ?_) ?_
    | with_reducible refine sound_foldl_snd (fun _ _ _ => ?_) ?_
    | with_reducible refine sound_foldl_fst (fun _ _ _ => ?_) ?_
    | with_reducible refine sound_foldl_snd2 (fun _ _ _ => ?_) ?_
    | with_reducible refine sound_snd_of (by assumption) ?_
    | with_reducible refine sound_snd2_of (by assumption) ?_
    | with_reducible refine sound_fst_of (by assumption) ?_
    | simp only [sound_set_disps (sub_trans (by decide) hw)]
    | split

theorem State.haltHost_sound (s : State) (all : Bool) (hs : Sound Q s) (hw : sub 17592723194116 Q.w = true) :
    Sound Q (State.haltHost s all) := by
  unfold State.haltHost
  repeat' first
    | with_reducible assumption
    | with_reducible exact sub_trans (by decide) hw
    | with_reducible apply State.hostEnd_sound
    | with_reducible refine sound_ite (fun _ => ?_) (fun _ => ?_)
    | with_reducible refine sound_foldl (fun _ _ _ => ?_) ?_
    | with_reducible refine sound_foldl_snd (fun _ _ _ => ?_) ?_
    | with_reducible refine sound_foldl_fst (fun _ _ _ => ?_) ?_
    | with_reducible refine sound_foldl_snd2 (fun _ _ _ => ?_) ?_
    | with_reducible refine sound_snd_of (by assumption) ?_
    | with_reducible refine sound_snd2_of (by assumption) ?_
    | with_reducible refine sound_fst_of (by assumption) ?_
    | simp only [sound_set_pw_graphs_tables_top (sub_trans (by decide) hw)]

theorem State.stopWork_sound (s : State) (reason : Nat) (all : Bool) (hs : Sound Q s) (hw : sub 616682740936701 Q.w = true) :
    Sound Q (State.stopWork s reason all) := by
  unfold State.stopWork
  repeat' first
    | with_reducible assumption
    | with_reducible exact sub_trans (by decide) hw
    | with_reducible apply State.haltHost_sound
    | with_reducible apply State.haltColls_sound
    | with_reducible apply State.haltStreams_sound
    | with_reducible apply State.haltServer_sound
    | with_reducible apply State.applyAccepted_sound
    | with_reducible refine sound_ite (fun _ => ?_) (fun _ => ?_)
    | with_reducible refine sound_foldl (fun _ _ _ => ?_) ?_
    | with_reducible refine sound_foldl_snd (fun _ _ _ => ?_) ?_
    | with_reducible refine sound_foldl_fst (fun _ _ _ => ?_) ?_
    | with_reducible refine sound_foldl_snd2 (fun _ _ _ => ?_) ?_
    | with_reducible refine sound_snd_of (by assumption) ?_
    | with_reducible refine sound_snd2_of (by assumption) ?_
    | with_reducible refine sound_fst_of (by assumption) ?_
    | simp only [sound_set_epWaits (sub_trans (by decide) hw)]

theorem State.haltNow_sound (s : State) (hs : Sound Q s) (hw : sub 633312988524541 Q.w = true) :
    Sound Q (State.haltNow s) := by
  unfold State.haltNow
  repeat' first
    | with_reducible assumption
    | with_reducible exact sub_trans (by decide) hw
    | with_reducible apply State.sendAbort_sound
    | with_reducible apply State.abortDone_sound
    | with_reducible apply State.raiseVec_sound
    | with_reducible apply State.stopWork_sound
    | with_reducible refine sound_ite (fun _ => ?_) (fun _ => ?_)
    | with_reducible refine sound_foldl (fun _ _ _ => ?_) ?_
    | with_reducible refine sound_foldl_snd (fun _ _ _ => ?_) ?_
    | with_reducible refine sound_foldl_fst (fun _ _ _ => ?_) ?_
    | with_reducible refine sound_foldl_snd2 (fun _ _ _ => ?_) ?_
    | with_reducible refine sound_snd_of (by assumption) ?_
    | with_reducible refine sound_snd2_of (by assumption) ?_
    | with_reducible refine sound_fst_of (by assumption) ?_
    | simp only [sound_set_ras (sub_trans (by decide) hw)]
    | split

theorem State.bar2Do_sound (s : State) (a : Nat) (acc : Bar2Op) (hs : Sound Q s) (hw : sub 598160121531133 Q.w = true) :
    Sound Q (State.bar2Do s a acc) := by
  unfold State.bar2Do
  repeat' first
    | with_reducible assumption
    | with_reducible exact sub_trans (by decide) hw
    | with_reducible apply State.dirtyHot_sound
    | with_reducible apply State.store_sound
    | with_reducible apply State.poisonRead_sound
    | with_reducible apply State.beforeWrite_sound
    | with_reducible apply State.meet_sound
    | with_reducible apply State.emit_sound
    | with_reducible refine sound_ite (fun _ => ?_) (fun _ => ?_)
    | with_reducible refine sound_foldl (fun _ _ _ => ?_) ?_
    | with_reducible refine sound_foldl_snd (fun _ _ _ => ?_) ?_
    | with_reducible refine sound_foldl_fst (fun _ _ _ => ?_) ?_
    | with_reducible refine sound_foldl_snd2 (fun _ _ _ => ?_) ?_
    | with_reducible refine sound_snd_of (by assumption) ?_
    | with_reducible refine sound_snd2_of (by assumption) ?_
    | with_reducible refine sound_fst_of (by assumption) ?_
    | simp only []
    | split

theorem State.bar2Drain_sound (s : State) (hs : Sound Q s) (hw : sub 738897609886461 Q.w = true) :
    Sound Q (State.bar2Drain s) := by
  unfold State.bar2Drain
  repeat' first
    | with_reducible assumption
    | with_reducible exact sub_trans (by decide) hw
    | with_reducible apply State.bar2Do_sound
    | with_reducible refine sound_ite (fun _ => ?_) (fun _ => ?_)
    | with_reducible refine sound_foldl (fun _ _ _ => ?_) ?_
    | with_reducible refine sound_foldl_snd (fun _ _ _ => ?_) ?_
    | with_reducible refine sound_foldl_fst (fun _ _ _ => ?_) ?_
    | with_reducible refine sound_foldl_snd2 (fun _ _ _ => ?_) ?_
    | with_reducible refine sound_snd_of (by assumption) ?_
    | with_reducible refine sound_snd2_of (by assumption) ?_
    | with_reducible refine sound_fst_of (by assumption) ?_
    | simp only [sound_set_bar2Wait (sub_trans (by decide) hw)]
    | split

theorem State.heldDrain_sound (s : State) (hs : Sound Q s) (hw : sub 897227277994749 Q.w = true) :
    Sound Q (State.heldDrain s) := by
  unfold State.heldDrain
  repeat' first
    | with_reducible assumption
    | with_reducible exact sub_trans (by decide) hw
    | with_reducible apply detLoad_sound
    | with_reducible apply l2Disable_sound
    | with_reducible apply State.maintRun_sound
    | with_reducible apply planLoad_sound
    | with_reducible refine sound_ite (fun _ => ?_) (fun _ => ?_)
    | with_reducible refine sound_foldl (fun _ _ _ => ?_) ?_
    | with_reducible refine sound_foldl_snd (fun _ _ _ => ?_) ?_
    | with_reducible refine sound_foldl_fst (fun _ _ _ => ?_) ?_
    | with_reducible refine sound_foldl_snd2 (fun _ _ _ => ?_) ?_
    | with_reducible refine sound_snd_of (by assumption) ?_
    | with_reducible refine sound_snd2_of (by assumption) ?_
    | with_reducible refine sound_fst_of (by assumption) ?_
    | simp only [sound_set_chanWait (sub_trans (by decide) hw)]
    | split

theorem State.chanDrain_sound (s : State) (hs : Sound Q s) (hw : sub 1037964774738685 Q.w = true) :
    Sound Q (State.chanDrain s) := by
  unfold State.chanDrain
  repeat' first
    | with_reducible assumption
    | with_reducible exact sub_trans (by decide) hw
    | with_reducible apply State.heldDrain_sound
    | with_reducible apply State.bar2Drain_sound

theorem execHaltctlHalt_sound (s : State) (hs : Sound Q s) (hw : sub 562949971247868 Q.w = true) :
    OutSound Q (execHaltctlHalt s) := by
  unfold execHaltctlHalt
  repeat' first
    | with_reducible assumption
    | with_reducible exact sub_trans (by decide) hw
    | with_reducible apply OutSound.next
    | with_reducible apply OutSound.fault
    | with_reducible apply OutSound.refused
    | with_reducible apply State.fatal_sound
    | with_reducible refine pred_ite (P := OutSound Q) (fun _ => ?_) (fun _ => ?_)
    | with_reducible refine sound_ite (fun _ => ?_) (fun _ => ?_)

theorem jobAbort_sound (q : Nat) (c : HCmd) (s : State) (hs : Sound Q s) (hw : sub 633183560532732 Q.w = true) :
    Sound Q (jobAbort q c s) := by
  unfold jobAbort
  repeat' first
    | with_reducible assumption
    | with_reducible exact sub_trans (by decide) hw
    | with_reducible apply State.fatal_sound
    | with_reducible apply State.hostRefuse_sound
    | with_reducible apply State.abortDone_sound
    | with_reducible apply State.hostStart_sound
    | with_reducible refine sound_ite (fun _ => ?_) (fun _ => ?_)
    | with_reducible refine sound_foldl (fun _ _ _ => ?_) ?_
    | with_reducible refine sound_foldl_snd (fun _ _ _ => ?_) ?_
    | with_reducible refine sound_foldl_fst (fun _ _ _ => ?_) ?_
    | with_reducible refine sound_foldl_snd2 (fun _ _ _ => ?_) ?_
    | with_reducible refine sound_snd_of (by assumption) ?_
    | with_reducible refine sound_snd2_of (by assumption) ?_
    | with_reducible refine sound_fst_of (by assumption) ?_
    | simp only [sound_set_top (sub_trans (by decide) hw)]

theorem execDissolve_sound (s : State) (hs : Sound Q s) (hw : sub 633183560270076 Q.w = true) :
    OutSound Q (execDissolve s) := by
  unfold execDissolve
  repeat' first
    | with_reducible assumption
    | with_reducible exact sub_trans (by decide) hw
    | with_reducible apply OutSound.next
    | with_reducible apply OutSound.fault
    | with_reducible apply OutSound.refused
    | with_reducible apply State.refuse_sound
    | with_reducible apply State.endSlice_sound
    | with_reducible refine pred_ite (P := OutSound Q) (fun _ => ?_) (fun _ => ?_)

theorem State.deviceFatal_sound (s : State) (reason : Nat) (btype : Nat) (inst : Nat) (pll : Bool) (hs : Sound Q s) (hw : sub 616682740936701 Q.w = true) :
    Sound Q (State.deviceFatal s reason btype inst pll) := by
  unfold State.deviceFatal
  repeat' first
    | with_reducible assumption
    | with_reducible exact sub_trans (by decide) hw
    | with_reducible apply State.sendAbort_sound
    | with_reducible apply State.setReg_sound
    | with_reducible apply State.recordEvent_sound
    | with_reducible apply State.raiseVec_sound
    | with_reducible apply State.stopWork_sound
    | with_reducible apply State.alertOn_sound
    | with_reducible apply State.emit_sound
    | with_reducible refine sound_ite (fun _ => ?_) (fun _ => ?_)
    | with_reducible refine sound_foldl (fun _ _ _ => ?_) ?_
    | with_reducible refine sound_foldl_snd (fun _ _ _ => ?_) ?_
    | with_reducible refine sound_foldl_fst (fun _ _ _ => ?_) ?_
    | with_reducible refine sound_foldl_snd2 (fun _ _ _ => ?_) ?_
    | with_reducible refine sound_snd_of (by assumption) ?_
    | with_reducible refine sound_snd2_of (by assumption) ?_
    | with_reducible refine sound_fst_of (by assumption) ?_
    | simp only [sound_set_pw_boot_ras (sub_trans (by decide) hw)]

theorem State.injectL2_sound (s : State) (h : Nat) (ue : Bool) (hs : Sound Q s) (hw : sub 598160113142525 Q.w = true) :
    Sound Q (State.injectL2 s h ue) := by
  unfold State.injectL2
  repeat' first
    | with_reducible assumption
    | with_reducible exact sub_trans (by decide) hw
    | with_reducible apply State.l2MeetAlone_sound
    | with_reducible apply State.modHome_sound
    | with_reducible apply State.l2Corrected_sound
    | with_reducible apply State.takeFree_sound
    | with_reducible refine sound_ite (fun _ => ?_) (fun _ => ?_)
    | with_reducible refine sound_foldl (fun _ _ _ => ?_) ?_
    | with_reducible refine sound_foldl_snd (fun _ _ _ => ?_) ?_
    | with_reducible refine sound_foldl_fst (fun _ _ _ => ?_) ?_
    | with_reducible refine sound_foldl_snd2 (fun _ _ _ => ?_) ?_
    | with_reducible refine sound_snd_of (by assumption) ?_
    | with_reducible refine sound_snd2_of (by assumption) ?_
    | with_reducible refine sound_fst_of (by assumption) ?_
    | simp only []
    | split

theorem State.injectL1_sound (s : State) (c : Nat) (ue : Bool) (hs : Sound Q s) (hw : sub 598160113143549 Q.w = true) :
    Sound Q (State.injectL1 s c ue) := by
  unfold State.injectL1
  repeat' first
    | with_reducible assumption
    | with_reducible exact sub_trans (by decide) hw
    | with_reducible apply State.l1Corrected_sound
    | with_reducible apply State.modCore_sound
    | with_reducible apply State.l1MeetStore_sound
    | with_reducible apply State.takeFree_sound
    | with_reducible refine sound_ite (fun _ => ?_) (fun _ => ?_)
    | with_reducible refine sound_foldl (fun _ _ _ => ?_) ?_
    | with_reducible refine sound_foldl_snd (fun _ _ _ => ?_) ?_
    | with_reducible refine sound_foldl_fst (fun _ _ _ => ?_) ?_
    | with_reducible refine sound_foldl_snd2 (fun _ _ _ => ?_) ?_
    | with_reducible refine sound_snd_of (by assumption) ?_
    | with_reducible refine sound_snd2_of (by assumption) ?_
    | with_reducible refine sound_fst_of (by assumption) ?_
    | simp only []
    | split

theorem State.injectDram_sound (s : State) (u : Nat) (ue : Bool) (hs : Sound Q s) (hw : sub 598160113142525 Q.w = true) :
    Sound Q (State.injectDram s u ue) := by
  unfold State.injectDram
  repeat' first
    | with_reducible assumption
    | with_reducible exact sub_trans (by decide) hw
    | with_reducible apply State.countUE_sound
    | with_reducible apply State.dramFatal_sound
    | with_reducible apply State.fatal_sound
    | with_reducible apply State.lightEvent_sound
    | with_reducible apply State.countCE_sound
    | with_reducible apply State.dramCorrected_sound
    | with_reducible apply State.takeFree_sound
    | with_reducible apply State.dramUncorrectable_sound
    | with_reducible refine sound_ite (fun _ => ?_) (fun _ => ?_)

theorem State.injectLink_sound (s : State) (l : Nat) (ue : Bool) (hs : Sound Q s) (hw : sub 598134345433340 Q.w = true) :
    Sound Q (State.injectLink s l ue) := by
  unfold State.injectLink
  repeat' first
    | with_reducible assumption
    | with_reducible exact sub_trans (by decide) hw
    | with_reducible apply State.sendNak_sound
    | with_reducible apply State.count32_sound
    | with_reducible apply State.fecCount_sound
    | with_reducible refine sound_ite (fun _ => ?_) (fun _ => ?_)

theorem State.injectStack_sound (s : State) (x : Nat) (ue : Bool) (hs : Sound Q s) (hw : sub 616645696823037 Q.w = true) :
    Sound Q (State.injectStack s x ue) := by
  unfold State.injectStack
  repeat' first
    | with_reducible assumption
    | with_reducible exact sub_trans (by decide) hw
    | with_reducible apply State.fatal_sound
    | with_reducible apply State.abortStack_sound
    | with_reducible apply State.lightEvent_sound
    | with_reducible apply State.takeDur_sound
    | with_reducible apply State.fgBreakStack_sound
    | with_reducible refine sound_ite (fun _ => ?_) (fun _ => ?_)

theorem State.inject_sound (s : State) (b : Block) (inst : Nat) (pg : Nat) (bit : Nat) (hs : Sound Q s) (hw : sub 616682740940797 Q.w = true) :
    Sound Q (State.inject s b inst pg bit) := by
  unfold State.inject
  repeat' first
    | with_reducible assumption
    | with_reducible exact sub_trans (by decide) hw
    | with_reducible apply State.deviceFatal_sound
    | with_reducible apply State.injectDram_sound
    | with_reducible apply State.fatal_sound
    | with_reducible apply State.injectL2_sound
    | with_reducible apply State.injectStack_sound
    | with_reducible apply State.lightEvent_sound
    | with_reducible apply State.injectL1_sound
    | with_reducible apply State.setErr_sound
    | with_reducible apply State.injectLink_sound
    | with_reducible refine sound_ite (fun _ => ?_) (fun _ => ?_)
    | with_reducible refine sound_foldl (fun _ _ _ => ?_) ?_
    | with_reducible refine sound_foldl_snd (fun _ _ _ => ?_) ?_
    | with_reducible refine sound_foldl_fst (fun _ _ _ => ?_) ?_
    | with_reducible refine sound_foldl_snd2 (fun _ _ _ => ?_) ?_
    | with_reducible refine sound_snd_of (by assumption) ?_
    | with_reducible refine sound_snd2_of (by assumption) ?_
    | with_reducible refine sound_fst_of (by assumption) ?_
    | simp only []
    | split

theorem State.errinj_sound (s : State) (off : Nat) (v : Nat) (hs : Sound Q s) (hw : sub 616682740940797 Q.w = true) :
    Sound Q (State.errinj s off v) := by
  unfold State.errinj
  repeat' first
    | with_reducible assumption
    | with_reducible exact sub_trans (by decide) hw
    | with_reducible apply State.inject_sound
    | with_reducible refine sound_ite (fun _ => ?_) (fun _ => ?_)
    | with_reducible refine sound_foldl (fun _ _ _ => ?_) ?_
    | with_reducible refine sound_foldl_snd (fun _ _ _ => ?_) ?_
    | with_reducible refine sound_foldl_fst (fun _ _ _ => ?_) ?_
    | with_reducible refine sound_foldl_snd2 (fun _ _ _ => ?_) ?_
    | with_reducible refine sound_snd_of (by assumption) ?_
    | with_reducible refine sound_snd2_of (by assumption) ?_
    | with_reducible refine sound_fst_of (by assumption) ?_
    | simp only []
    | split

end Sys2Proof.Machine
end

