-- ==== Sys2Proof/Laws/SoundHostQueue.lean ====
section
/-! SUPPORT. Laws/SoundHostQueue.lean: the operations of Machine/HostQueue.lean keep the waiting commands and the canonical form of both
memories. -/

namespace Sys2Proof.Machine

open Sys2Proof

variable {Q : Frame}

theorem execSqtailDoorbell_sound (q : QueueId) (v : Word) (s : State) (hs : Sound Q s) (hw : sub 35184372350980 Q.w = true) :
    OutSound Q (execSqtailDoorbell q v s) := by
  unfold execSqtailDoorbell
  repeat' first
    | with_reducible assumption
    | with_reducible exact sub_trans (by decide) hw
    | with_reducible apply OutSound.next
    | with_reducible apply OutSound.fault
    | with_reducible apply OutSound.refused
    | with_reducible apply State.modHostQ_sound
    | with_reducible apply State.refuse_sound
    | with_reducible refine pred_ite (P := OutSound Q) (fun _ => ?_) (fun _ => ?_)

theorem execCqheadDoorbell_sound (q : QueueId) (v : Word) (s : State) (hs : Sound Q s) (hw : sub 35184372350980 Q.w = true) :
    OutSound Q (execCqheadDoorbell q v s) := by
  unfold execCqheadDoorbell
  repeat' first
    | with_reducible assumption
    | with_reducible exact sub_trans (by decide) hw
    | with_reducible apply OutSound.next
    | with_reducible apply OutSound.fault
    | with_reducible apply OutSound.refused
    | with_reducible apply State.modHostQ_sound
    | with_reducible apply State.refuse_sound
    | with_reducible refine pred_ite (P := OutSound Q) (fun _ => ?_) (fun _ => ?_)

theorem State.queueStart_sound (s : State) (q : Nat) (hs : Sound Q s) (hw : sub 262144 Q.w = true) :
    Sound Q (State.queueStart s q) := by
  unfold State.queueStart
  repeat' first
    | with_reducible assumption
    | with_reducible exact sub_trans (by decide) hw
    | with_reducible apply State.setHostQ_sound

theorem State.queueEnable_sound (s : State) (q : Nat) (hs : Sound Q s) (hw : sub 35184372350980 Q.w = true) :
    Sound Q (State.queueEnable s q) := by
  unfold State.queueEnable
  repeat' first
    | with_reducible assumption
    | with_reducible exact sub_trans (by decide) hw
    | with_reducible apply State.setReg_sound
    | with_reducible apply State.refuse_sound
    | with_reducible apply State.setRfld_sound
    | with_reducible apply State.queueStart_sound
    | with_reducible refine sound_ite (fun _ => ?_) (fun _ => ?_)
    | with_reducible refine sound_foldl (fun _ _ _ => ?_) ?_
    | with_reducible refine sound_foldl_snd (fun _ _ _ => ?_) ?_
    | with_reducible refine sound_foldl_fst (fun _ _ _ => ?_) ?_
    | with_reducible refine sound_foldl_snd2 (fun _ _ _ => ?_) ?_
    | with_reducible refine sound_snd_of (by assumption) ?_
    | with_reducible refine sound_snd2_of (by assumption) ?_
    | with_reducible refine sound_fst_of (by assumption) ?_
    | simp only []
    | split

theorem State.takeEntry_sound (s : State) (q : Nat) (raw : Nat) (hs : Sound Q s) (hw : sub 4456452 Q.w = true) :
    Sound Q (State.takeEntry s q raw) := by
  unfold State.takeEntry
  repeat' first
    | with_reducible assumption
    | with_reducible exact sub_trans (by decide) hw
    | with_reducible apply State.setReg_sound
    | with_reducible apply State.modHostQ_sound
    | with_reducible apply State.hostEnd_sound
    | with_reducible apply State.count32_sound
    | with_reducible apply State.count64_sound
    | with_reducible refine sound_ite (fun _ => ?_) (fun _ => ?_)
    | with_reducible refine sound_foldl (fun _ _ _ => ?_) ?_
    | with_reducible refine sound_foldl_snd (fun _ _ _ => ?_) ?_
    | with_reducible refine sound_foldl_fst (fun _ _ _ => ?_) ?_
    | with_reducible refine sound_foldl_snd2 (fun _ _ _ => ?_) ?_
    | with_reducible refine sound_snd_of (by assumption) ?_
    | with_reducible refine sound_snd2_of (by assumption) ?_
    | with_reducible refine sound_fst_of (by assumption) ?_
    | simp only [sound_set_serial (sub_trans (by decide) hw)]
    | split

theorem State.fetchFrom_sound (s : State) (q : Nat) (hs : Sound Q s) (hw : sub 598160118123261 Q.w = true) :
    Sound Q (State.fetchFrom s q) := by
  unfold State.fetchFrom
  repeat' first
    | with_reducible assumption
    | with_reducible exact sub_trans (by decide) hw
    | with_reducible apply State.takeEntry_sound
    | with_reducible apply State.modHostQ_sound
    | with_reducible apply State.poisonRead_sound
    | with_reducible apply State.meet_sound
    | with_reducible refine sound_ite (fun _ => ?_) (fun _ => ?_)
    | with_reducible refine sound_foldl (fun _ _ _ => ?_) ?_
    | with_reducible refine sound_foldl_snd (fun _ _ _ => ?_) ?_
    | with_reducible refine sound_foldl_fst (fun _ _ _ => ?_) ?_
    | with_reducible refine sound_foldl_snd2 (fun _ _ _ => ?_) ?_
    | with_reducible refine sound_snd_of (by assumption) ?_
    | with_reducible refine sound_snd2_of (by assumption) ?_
    | with_reducible refine sound_fst_of (by assumption) ?_
    | simp only [sound_set_hostRr (sub_trans (by decide) hw), sound_set_serial (sub_trans (by decide) hw)]

theorem State.dmaEnd_sound (s : State) (va : Bool) (a : Nat) (n : Nat) (write : Bool) (hs : Sound Q s) (hw : sub 598160113273597 Q.w = true) :
    Sound Q (State.dmaEnd s va a n write).2 := by
  unfold State.dmaEnd
  repeat' first
    | with_reducible assumption
    | with_reducible exact sub_trans (by decide) hw
    | with_reducible apply State.xlate_sound
    | with_reducible refine sound_ite (fun _ => ?_) (fun _ => ?_)
    | with_reducible refine sound_foldl (fun _ _ _ => ?_) ?_
    | with_reducible refine sound_foldl_snd (fun _ _ _ => ?_) ?_
    | with_reducible refine sound_foldl_fst (fun _ _ _ => ?_) ?_
    | with_reducible refine sound_foldl_snd2 (fun _ _ _ => ?_) ?_
    | with_reducible refine sound_snd_of (by assumption) ?_
    | with_reducible refine sound_snd2_of (by assumption) ?_
    | with_reducible refine sound_fst_of (by assumption) ?_
    | simp only []
    | split

theorem State.dmaPiece_sound (s : State) (src : Nat) (dst : Nat) (n : Nat) (hs : Sound Q s) (hw : sub 598160121531133 Q.w = true) :
    Sound Q (State.dmaPiece s src dst n) := by
  unfold State.dmaPiece
  repeat' first
    | with_reducible assumption
    | with_reducible exact sub_trans (by decide) hw
    | with_reducible apply State.writePa_sound
    | with_reducible apply State.dirtyHot_sound
    | with_reducible apply State.beforeWrite_sound
    | with_reducible refine sound_ite (fun _ => ?_) (fun _ => ?_)
    | with_reducible refine sound_foldl (fun _ _ _ => ?_) ?_
    | with_reducible refine sound_foldl_snd (fun _ _ _ => ?_) ?_
    | with_reducible refine sound_foldl_fst (fun _ _ _ => ?_) ?_
    | with_reducible refine sound_foldl_snd2 (fun _ _ _ => ?_) ?_
    | with_reducible refine sound_snd_of (by assumption) ?_
    | with_reducible refine sound_snd2_of (by assumption) ?_
    | with_reducible refine sound_fst_of (by assumption) ?_
    | simp only []
    | split

theorem State.dmaRun_sound (s : State) (srcVa dstVa : Bool) (src dst : Nat) (more : Bool) (l : List (Nat × Nat)) (r : DmaRes)
    (hs : Sound Q s) (hw : sub 598160121662205 Q.w = true) : Sound Q (State.dmaRun s srcVa dstVa src dst more l r).2 := by
  induction l generalizing s r with
  | nil => exact hs
  | cons p l ih =>
    obtain ⟨pos, n⟩ := p
    unfold State.dmaRun
    split
    next a s1 e1 =>
    have h1 := sound_snd_of e1 (State.dmaEnd_sound _ _ _ _ _ hs (sub_trans (by decide) hw))
    split
    next b s2 e2 =>
    have h2 := sound_snd_of e2 (State.dmaEnd_sound _ _ _ _ _ h1 (sub_trans (by decide) hw))
    extract_lets stop
    have hstop : ∀ st re go, Sound Q (stop st re go).2 := by
      intro st re go
      simp only [stop]
      split
      · exact ih _ _ h2
      · exact h2
    clear_value stop
    split
    · refine ih _ _ (State.dmaPiece_sound _ _ _ _ ?_ (sub_trans (by decide) hw))
      have hm := fun p => State.meet_sound s2 p n h2 (sub_trans (by decide) hw)
      exact sound_ite (fun _ => State.poisonRead_sound _ _ _ _ (hm _) (sub_trans (by decide) hw)) (fun _ => hm _)
    · exact hstop _ _ _
    · exact hstop _ _ _
    · exact hstop _ _ _
    · split
      · exact hstop _ _ _
      · exact h2

theorem dmaCopy_sound (q : Nat) (c : HCmd) (s : State) (hs : Sound Q s) (hw : sub 598160121924349 Q.w = true) :
    Sound Q (dmaCopy q c s) := by
  unfold dmaCopy
  repeat' first
    | with_reducible assumption
    | with_reducible exact sub_trans (by decide) hw
    | with_reducible apply State.dmaRun_sound
    | with_reducible apply State.raiseVec_sound
    | with_reducible apply State.hostEnd_sound
    | with_reducible apply State.takeFree_sound
    | with_reducible refine sound_ite (fun _ => ?_) (fun _ => ?_)

theorem syncDump_sound (q : Nat) (c : HCmd) (s : State) (hs : Sound Q s) (hw : sub 598160113404669 Q.w = true) :
    Sound Q (syncDump q c s) := by
  unfold syncDump
  repeat' first
    | with_reducible assumption
    | with_reducible exact sub_trans (by decide) hw
    | with_reducible apply State.writePa_sound
    | with_reducible apply State.hostRefuse_sound
    | with_reducible apply State.dropSectors_sound
    | with_reducible apply State.hostEnd_sound
    | with_reducible refine sound_ite (fun _ => ?_) (fun _ => ?_)
    | with_reducible refine sound_foldl (fun _ _ _ => ?_) ?_

end Sys2Proof.Machine
end

