-- ==== Sys2Proof/Laws/SoundPlacement.lean ====
section
/-! SUPPORT. Laws/SoundPlacement.lean: the operations of Machine/Placement.lean keep the waiting commands and the canonical form of both
memories. -/

namespace Sys2Proof.Machine

open Sys2Proof

variable {Q : Frame}

theorem State.copyRow_sound (s : State) (src : Nat) (dst : Nat) (n : Nat) (hs : Sound Q s) (hw : sub 598160121531133 Q.w = true) :
    Sound Q (State.copyRow s src dst n) := by
  unfold State.copyRow
  repeat' first
    | with_reducible assumption
    | with_reducible exact sub_trans (by decide) hw
    | with_reducible apply State.dirtyHot_sound
    | with_reducible apply State.store_sound
    | with_reducible apply State.beforeWrite_sound
    | with_reducible apply State.meet_sound
    | with_reducible refine sound_ite (fun _ => ?_) (fun _ => ?_)
    | with_reducible refine sound_foldl (fun _ _ _ => ?_) ?_
    | with_reducible refine sound_foldl_snd (fun _ _ _ => ?_) ?_
    | with_reducible refine sound_foldl_fst (fun _ _ _ => ?_) ?_
    | with_reducible refine sound_foldl_snd2 (fun _ _ _ => ?_) ?_
    | with_reducible refine sound_snd_of (by assumption) ?_
    | with_reducible refine sound_snd2_of (by assumption) ?_
    | with_reducible refine sound_fst_of (by assumption) ?_
    | simp only [sound_set_poison (sub_trans (by decide) hw)]

theorem State.sendWrites_sound (s : State) (coord : Nat) (cls : Nat) (flow : Nat) (a4 : List (Nat × Nat × List Nat)) (a5 : Nat) (a6 : Nat) (hs : Sound Q s) (hw : sub 616551165199100 Q.w = true) :
    Sound Q (State.sendWrites s coord cls flow a4 a5 a6).2 := by
  fun_induction State.sendWrites s coord cls flow a4 a5 a6
  all_goals
    repeat' first
      | with_reducible assumption
      | with_reducible exact sub_trans (by decide) hw
      | with_reducible apply State.flowSend_sound
      | with_reducible refine sound_ite (fun _ => ?_) (fun _ => ?_)
      | with_reducible refine sound_foldl (fun _ _ _ => ?_) ?_
      | with_reducible refine sound_foldl_snd (fun _ _ _ => ?_) ?_
      | with_reducible refine sound_foldl_fst (fun _ _ _ => ?_) ?_
      | with_reducible refine sound_foldl_snd2 (fun _ _ _ => ?_) ?_
      | with_reducible refine sound_snd_of (by assumption) ?_
      | with_reducible refine sound_snd2_of (by assumption) ?_
      | with_reducible refine sound_fst_of (by assumption) ?_
      | simp only []
      | split
      | intro _
      | with_reducible apply_assumption

theorem State.migrateOne_sound (s : State) (x : Nat) (c : SCmd) (v : Version) (first : Nat) (i : Nat) (hs : Sound Q s) (hw : sub 616577480264445 Q.w = true) :
    Sound Q (State.migrateOne s x c v first i) := by
  unfold State.migrateOne
  repeat' first
    | with_reducible assumption
    | with_reducible exact sub_trans (by decide) hw
    | with_reducible apply State.writePa_sound
    | with_reducible apply State.locate_sound
    | with_reducible apply State.poisonRead_sound
    | with_reducible apply State.endFault_sound
    | with_reducible apply State.sendWrites_sound
    | with_reducible apply State.modCmd_sound
    | with_reducible apply State.meet_sound
    | with_reducible apply State.flushRange_sound
    | with_reducible apply State.poisonUnit_sound
    | with_reducible apply State.copyRow_sound
    | with_reducible refine sound_ite (fun _ => ?_) (fun _ => ?_)
    | with_reducible refine sound_foldl (fun _ _ _ => ?_) ?_
    | with_reducible refine sound_foldl_snd (fun _ _ _ => ?_) ?_
    | with_reducible refine sound_foldl_fst (fun _ _ _ => ?_) ?_
    | with_reducible refine sound_foldl_snd2 (fun _ _ _ => ?_) ?_
    | with_reducible refine sound_snd_of (by assumption) ?_
    | with_reducible refine sound_snd2_of (by assumption) ?_
    | with_reducible refine sound_fst_of (by assumption) ?_
    | simp only []
    | split

theorem State.setEntry_sound (s : State) (a : Nat) (e : Nat) (hs : Sound Q s) (hw : sub 16777288 Q.w = true) :
    Sound Q (State.setEntry s a e) := by
  unfold State.setEntry
  repeat' first
    | with_reducible assumption
    | with_reducible exact sub_trans (by decide) hw
    | with_reducible apply State.dropSectors_sound
    | with_reducible apply State.setBytes_sound

theorem State.startMove_sound (s : State) (v : Version) (row : Nat) (src : Nat) (dst : Nat) (copy : Bool) (slot : Option Nat) (freed : Option Nat) (next : Option Nat) (hs : Sound Q s) (hw : sub 598161195272957 Q.w = true) :
    Sound Q (State.startMove s v row src dst copy slot freed next) := by
  unfold State.startMove
  repeat' first
    | with_reducible assumption
    | with_reducible exact sub_trans (by decide) hw
    | with_reducible apply State.setEntry_sound
    | with_reducible apply State.flushRange_sound
    | with_reducible apply State.copyRow_sound
    | with_reducible refine sound_ite (fun _ => ?_) (fun _ => ?_)
    | with_reducible refine sound_foldl (fun _ _ _ => ?_) ?_
    | with_reducible refine sound_foldl_snd (fun _ _ _ => ?_) ?_
    | with_reducible refine sound_foldl_fst (fun _ _ _ => ?_) ?_
    | with_reducible refine sound_foldl_snd2 (fun _ _ _ => ?_) ?_
    | with_reducible refine sound_snd_of (by assumption) ?_
    | with_reducible refine sound_snd2_of (by assumption) ?_
    | with_reducible refine sound_fst_of (by assumption) ?_
    | simp only [sound_set_moves (sub_trans (by decide) hw)]
    | split

theorem State.flipMove_sound (s : State) (m : Move) (hs : Sound Q s) (hw : sub 1627390028 Q.w = true) :
    Sound Q (State.flipMove s m) := by
  unfold State.flipMove
  repeat' first
    | with_reducible assumption
    | with_reducible exact sub_trans (by decide) hw
    | with_reducible apply State.setReg_sound
    | with_reducible apply State.setEntry_sound
    | with_reducible apply State.count64_sound
    | with_reducible refine sound_ite (fun _ => ?_) (fun _ => ?_)
    | with_reducible refine sound_foldl (fun _ _ _ => ?_) ?_
    | with_reducible refine sound_foldl_snd (fun _ _ _ => ?_) ?_
    | with_reducible refine sound_foldl_fst (fun _ _ _ => ?_) ?_
    | with_reducible refine sound_foldl_snd2 (fun _ _ _ => ?_) ?_
    | with_reducible refine sound_snd_of (by assumption) ?_
    | with_reducible refine sound_snd2_of (by assumption) ?_
    | with_reducible refine sound_fst_of (by assumption) ?_
    | simp only [sound_set_tables (sub_trans (by decide) hw), sound_set_moves (sub_trans (by decide) hw)]
    | split

theorem State.flipMoves_sound (s : State) (p : Move → Bool) (hs : Sound Q s) (hw : sub 1627390028 Q.w = true) :
    Sound Q (State.flipMoves s p) := by
  unfold State.flipMoves
  repeat' first
    | with_reducible assumption
    | with_reducible exact sub_trans (by decide) hw
    | with_reducible apply State.flipMove_sound
    | with_reducible refine sound_ite (fun _ => ?_) (fun _ => ?_)
    | with_reducible refine sound_foldl (fun _ _ _ => ?_) ?_

theorem State.abandonMove_sound (s : State) (m : Move) (hs : Sound Q s) (hw : sub 598161195272957 Q.w = true) :
    Sound Q (State.abandonMove s m) := by
  unfold State.abandonMove
  repeat' first
    | with_reducible assumption
    | with_reducible exact sub_trans (by decide) hw
    | with_reducible apply State.setEntry_sound
    | with_reducible apply State.flushDue_sound
    | with_reducible apply State.count32_sound
    | with_reducible refine sound_ite (fun _ => ?_) (fun _ => ?_)
    | with_reducible refine sound_foldl (fun _ _ _ => ?_) ?_
    | with_reducible refine sound_foldl_snd (fun _ _ _ => ?_) ?_
    | with_reducible refine sound_foldl_fst (fun _ _ _ => ?_) ?_
    | with_reducible refine sound_foldl_snd2 (fun _ _ _ => ?_) ?_
    | with_reducible refine sound_snd_of (by assumption) ?_
    | with_reducible refine sound_snd2_of (by assumption) ?_
    | with_reducible refine sound_fst_of (by assumption) ?_
    | simp only [sound_set_moves (sub_trans (by decide) hw)]
    | split

theorem State.abandonMoves_sound (s : State) (ch : Nat) (hs : Sound Q s) (hw : sub 598161195272957 Q.w = true) :
    Sound Q (State.abandonMoves s ch) := by
  unfold State.abandonMoves
  repeat' first
    | with_reducible assumption
    | with_reducible exact sub_trans (by decide) hw
    | with_reducible apply State.abandonMove_sound
    | with_reducible refine sound_ite (fun _ => ?_) (fun _ => ?_)
    | with_reducible refine sound_foldl (fun _ _ _ => ?_) ?_

theorem State.promote_sound (s : State) (v : Version) (row : Nat) (slot : Nat) (hs : Sound Q s) (hw : sub 598161195272957 Q.w = true) :
    Sound Q (State.promote s v row slot).2 := by
  unfold State.promote
  repeat' first
    | with_reducible assumption
    | with_reducible exact sub_trans (by decide) hw
    | with_reducible apply State.startMove_sound
    | with_reducible apply State.count32_sound
    | with_reducible refine sound_ite (fun _ => ?_) (fun _ => ?_)
    | with_reducible refine sound_foldl (fun _ _ _ => ?_) ?_
    | with_reducible refine sound_foldl_snd (fun _ _ _ => ?_) ?_
    | with_reducible refine sound_foldl_fst (fun _ _ _ => ?_) ?_
    | with_reducible refine sound_foldl_snd2 (fun _ _ _ => ?_) ?_
    | with_reducible refine sound_snd_of (by assumption) ?_
    | with_reducible refine sound_snd2_of (by assumption) ?_
    | with_reducible refine sound_fst_of (by assumption) ?_
    | simp only []
    | split

theorem State.demote_sound (s : State) (v : Version) (slot : Nat) (next : Option Nat) (hs : Sound Q s) (hw : sub 598161195272957 Q.w = true) :
    Sound Q (State.demote s v slot next).2 := by
  unfold State.demote
  repeat' first
    | with_reducible assumption
    | with_reducible exact sub_trans (by decide) hw
    | with_reducible apply State.startMove_sound
    | with_reducible apply State.flushRange_sound
    | with_reducible apply State.count32_sound
    | with_reducible refine sound_ite (fun _ => ?_) (fun _ => ?_)
    | with_reducible refine sound_foldl (fun _ _ _ => ?_) ?_
    | with_reducible refine sound_foldl_snd (fun _ _ _ => ?_) ?_
    | with_reducible refine sound_foldl_fst (fun _ _ _ => ?_) ?_
    | with_reducible refine sound_foldl_snd2 (fun _ _ _ => ?_) ?_
    | with_reducible refine sound_snd_of (by assumption) ?_
    | with_reducible refine sound_snd2_of (by assumption) ?_
    | with_reducible refine sound_fst_of (by assumption) ?_
    | simp only []
    | split

theorem State.runPlace_sound (s : State) (d : Nat) (a2 : Nat) (hs : Sound Q s) (hw : sub 598161195273213 Q.w = true) :
    Sound Q (State.runPlace s d a2) := by
  fun_induction State.runPlace s d a2
  all_goals
    repeat' first
      | with_reducible assumption
      | with_reducible exact sub_trans (by decide) hw
      | with_reducible apply State.demote_sound
      | with_reducible apply State.promote_sound
      | with_reducible apply State.count32_sound
      | with_reducible refine sound_ite (fun _ => ?_) (fun _ => ?_)
      | with_reducible refine sound_foldl (fun _ _ _ => ?_) ?_
      | with_reducible refine sound_foldl_snd (fun _ _ _ => ?_) ?_
      | with_reducible refine sound_foldl_fst (fun _ _ _ => ?_) ?_
      | with_reducible refine sound_foldl_snd2 (fun _ _ _ => ?_) ?_
      | with_reducible refine sound_snd_of (by assumption) ?_
      | with_reducible refine sound_snd2_of (by assumption) ?_
      | with_reducible refine sound_fst_of (by assumption) ?_
      | simp only [sound_set_pw (sub_trans (by decide) hw)]
      | split
      | intro _
      | with_reducible apply_assumption

theorem State.runAgents_sound (s : State) (hs : Sound Q s) (hw : sub 598161195273213 Q.w = true) :
    Sound Q (State.runAgents s) := by
  unfold State.runAgents
  repeat' first
    | with_reducible assumption
    | with_reducible exact sub_trans (by decide) hw
    | with_reducible apply State.runPlace_sound
    | with_reducible refine sound_ite (fun _ => ?_) (fun _ => ?_)
    | with_reducible refine sound_foldl (fun _ _ _ => ?_) ?_

theorem State.placeDie_sound (s : State) (d : Nat) (hs : Sound Q s) (hw : sub 536871168 Q.w = true) :
    Sound Q (State.placeDie s d) := by
  unfold State.placeDie
  repeat' first
    | with_reducible assumption
    | with_reducible exact sub_trans (by decide) hw
    | with_reducible apply State.modVersion_sound
    | with_reducible refine sound_ite (fun _ => ?_) (fun _ => ?_)
    | with_reducible refine sound_foldl (fun _ _ _ => ?_) ?_
    | with_reducible refine sound_foldl_snd (fun _ _ _ => ?_) ?_
    | with_reducible refine sound_foldl_fst (fun _ _ _ => ?_) ?_
    | with_reducible refine sound_foldl_snd2 (fun _ _ _ => ?_) ?_
    | with_reducible refine sound_snd_of (by assumption) ?_
    | with_reducible refine sound_snd2_of (by assumption) ?_
    | with_reducible refine sound_fst_of (by assumption) ?_
    | simp only [sound_set_pw (sub_trans (by decide) hw)]
    | split

theorem State.placementSlot_sound (s : State) (hs : Sound Q s) (hw : sub 598161732144125 Q.w = true) :
    Sound Q (State.placementSlot s) := by
  unfold State.placementSlot
  repeat' first
    | with_reducible assumption
    | with_reducible exact sub_trans (by decide) hw
    | with_reducible apply State.runAgents_sound
    | with_reducible apply State.placeDie_sound
    | with_reducible refine sound_ite (fun _ => ?_) (fun _ => ?_)
    | with_reducible refine sound_foldl (fun _ _ _ => ?_) ?_

theorem State.forwardEntry_sound (s : State) (e : UEnt) (sec : Nat) (vals : NMap Nat) (hs : Sound Q s) (hw : sub 598160121531133 Q.w = true) :
    OSound Q (State.forwardEntry s e sec vals) := by
  unfold State.forwardEntry
  repeat' first
    | with_reducible assumption
    | with_reducible exact sub_trans (by decide) hw
    | with_reducible apply OSound.none
    | with_reducible apply OSound.some
    | with_reducible apply State.applyVals_sound
    | with_reducible apply State.modUnit_sound
    | with_reducible apply State.flushSector_sound
    | with_reducible refine osound_findSome (fun _ => ?_)
    | with_reducible refine osound_map ?_ (fun _ _ => ?_)
    | with_reducible refine osound_bind ?_ (fun _ _ => ?_)
    | with_reducible refine osound_foldl (fun _ _ _ => ?_) ?_
    | with_reducible refine pred_ite (P := OSound Q) (fun _ => ?_) (fun _ => ?_)
    | with_reducible refine sound_ite (fun _ => ?_) (fun _ => ?_)
    | with_reducible refine sound_foldl (fun _ _ _ => ?_) ?_
    | with_reducible refine sound_foldl_snd (fun _ _ _ => ?_) ?_
    | with_reducible refine sound_foldl_fst (fun _ _ _ => ?_) ?_
    | with_reducible refine sound_foldl_snd2 (fun _ _ _ => ?_) ?_
    | with_reducible refine sound_snd_of (by assumption) ?_
    | with_reducible refine sound_snd2_of (by assumption) ?_
    | with_reducible refine sound_fst_of (by assumption) ?_
    | simp only []
    | split

theorem State.releaseEntry_sound (s : State) (m : Move) (u : Nat) (e : UEnt) (hs : Sound Q s) (hw : sub 598160121531133 Q.w = true) :
    OSound Q (State.releaseEntry s m u e) := by
  unfold State.releaseEntry
  repeat' first
    | with_reducible assumption
    | with_reducible exact sub_trans (by decide) hw
    | with_reducible apply State.forwardEntry_sound
    | with_reducible apply OSound.none
    | with_reducible apply OSound.some
    | with_reducible apply State.modUnit_sound
    | with_reducible refine osound_getD ?_ ?_
    | with_reducible refine osound_findSome (fun _ => ?_)
    | with_reducible refine osound_map ?_ (fun _ _ => ?_)
    | with_reducible refine osound_bind ?_ (fun _ _ => ?_)
    | with_reducible refine osound_foldl (fun _ _ _ => ?_) ?_

theorem State.redirectAll_sound (s : State) (m : Move) (hs : Sound Q s) (hw : sub 50331648 Q.w = true) :
    Sound Q (State.redirectAll s m) := by
  unfold State.redirectAll
  repeat' first
    | with_reducible assumption
    | with_reducible exact sub_trans (by decide) hw
    | with_reducible apply State.modUnit_sound
    | with_reducible refine sound_ite (fun _ => ?_) (fun _ => ?_)
    | with_reducible refine sound_foldl (fun _ _ _ => ?_) ?_
    | with_reducible refine sound_foldl_snd (fun _ _ _ => ?_) ?_
    | with_reducible refine sound_foldl_fst (fun _ _ _ => ?_) ?_
    | with_reducible refine sound_foldl_snd2 (fun _ _ _ => ?_) ?_
    | with_reducible refine sound_snd_of (by assumption) ?_
    | with_reducible refine sound_snd2_of (by assumption) ?_
    | with_reducible refine sound_fst_of (by assumption) ?_
    | simp only [sound_set_units_upk (sub_trans (by decide) hw)]

theorem State.releaseMove_sound (s : State) (m : Move) (hs : Sound Q s) (hw : sub 598160155085565 Q.w = true) :
    OSound Q (State.releaseMove s m) := by
  unfold State.releaseMove
  repeat' first
    | with_reducible assumption
    | with_reducible exact sub_trans (by decide) hw
    | with_reducible apply State.releaseEntry_sound
    | with_reducible apply OSound.none
    | with_reducible apply OSound.some
    | with_reducible apply State.redirectAll_sound
    | with_reducible refine osound_getD ?_ ?_
    | with_reducible refine osound_findSome (fun _ => ?_)
    | with_reducible refine osound_map ?_ (fun _ _ => ?_)
    | with_reducible refine osound_bind ?_ (fun _ _ => ?_)
    | with_reducible refine osound_foldl (fun _ _ _ => ?_) ?_
    | with_reducible refine pred_ite (P := OSound Q) (fun _ => ?_) (fun _ => ?_)
    | with_reducible refine sound_ite (fun _ => ?_) (fun _ => ?_)
    | with_reducible refine sound_foldl (fun _ _ _ => ?_) ?_
    | with_reducible refine osound_some (by assumption) ?_
    | with_reducible refine sound_foldl_snd (fun _ _ _ => ?_) ?_
    | with_reducible refine sound_foldl_fst (fun _ _ _ => ?_) ?_
    | with_reducible refine sound_foldl_snd2 (fun _ _ _ => ?_) ?_
    | with_reducible refine sound_snd_of (by assumption) ?_
    | with_reducible refine sound_snd2_of (by assumption) ?_
    | with_reducible refine sound_fst_of (by assumption) ?_
    | simp only []
    | split

theorem State.drainMove_sound (s : State) (m : Move) (hs : Sound Q s) (hw : sub 598161228827389 Q.w = true) :
    Sound Q (State.drainMove s m) := by
  unfold State.drainMove
  repeat' first
    | with_reducible assumption
    | with_reducible exact sub_trans (by decide) hw
    | with_reducible apply State.releaseMove_sound
    | with_reducible apply State.setEntry_sound
    | with_reducible apply State.flushDue_sound
    | with_reducible apply State.promote_sound
    | with_reducible refine osound_getD ?_ ?_
    | with_reducible refine sound_ite (fun _ => ?_) (fun _ => ?_)
    | with_reducible refine sound_foldl (fun _ _ _ => ?_) ?_
    | with_reducible refine osound_some (by assumption) ?_
    | with_reducible refine sound_foldl_snd (fun _ _ _ => ?_) ?_
    | with_reducible refine sound_foldl_fst (fun _ _ _ => ?_) ?_
    | with_reducible refine sound_foldl_snd2 (fun _ _ _ => ?_) ?_
    | with_reducible refine sound_snd_of (by assumption) ?_
    | with_reducible refine sound_snd2_of (by assumption) ?_
    | with_reducible refine sound_fst_of (by assumption) ?_
    | simp only [sound_set_moves (sub_trans (by decide) hw)]
    | split

theorem State.loadRecords_sound (s : State) (hs : Sound Q s) (hw : sub 598160113142525 Q.w = true) :
    Sound Q (State.loadRecords s) := by
  unfold State.loadRecords
  repeat' first
    | with_reducible assumption
    | with_reducible exact sub_trans (by decide) hw
    | with_reducible apply State.writePa_sound
    | with_reducible refine sound_ite (fun _ => ?_) (fun _ => ?_)
    | with_reducible refine sound_foldl (fun _ _ _ => ?_) ?_

theorem State.thresholdLoop_sound (s : State) (x : Nat) (hs : Sound Q s) (hw : sub 8388612 Q.w = true) :
    Sound Q (State.thresholdLoop s x) := by
  unfold State.thresholdLoop
  repeat' first
    | with_reducible assumption
    | with_reducible exact sub_trans (by decide) hw
    | with_reducible apply State.modServer_sound
    | with_reducible apply State.count32_sound
    | with_reducible apply State.setRfld_sound
    | with_reducible refine sound_ite (fun _ => ?_) (fun _ => ?_)

end Sys2Proof.Machine
end

