-- ==== Sys2Proof/Laws/SoundMemSys.lean ====
section
/-! SUPPORT. Laws/SoundMemSys.lean: the operations of Machine/MemSys.lean keep the waiting commands and the canonical form of both
memories. -/

namespace Sys2Proof.Machine

open Sys2Proof

variable {Q : Frame}

theorem rgncommit_sound (s : State) (hs : Sound Q s) (hw : sub 35184372154445 Q.w = true) : Sound Q (rgncommit s) := by
  unfold rgncommit
  repeat' first
    | with_reducible assumption
    | with_reducible exact sub_trans (by decide) hw
    | with_reducible apply State.setReg_sound
    | with_reducible apply State.refuse_sound
    | with_reducible apply State.makeJunk_sound
    | with_reducible refine sound_ite (fun _ => ?_) (fun _ => ?_)
    | with_reducible refine sound_foldl (fun _ _ _ => ?_) ?_
    | with_reducible refine sound_foldl_snd (fun _ _ _ => ?_) ?_
    | with_reducible refine sound_foldl_fst (fun _ _ _ => ?_) ?_
    | with_reducible refine sound_foldl_snd2 (fun _ _ _ => ?_) ?_
    | with_reducible refine sound_snd_of (by assumption) ?_
    | with_reducible refine sound_snd2_of (by assumption) ?_
    | with_reducible refine sound_fst_of (by assumption) ?_
    | simp only [sound_set_modes (sub_trans (by decide) hw)]
    | split

theorem State.startRetrain_sound (s : State) (ch : Nat) (fromSlot : Bool) (hs : Sound Q s) (hw : sub 598161195305725 Q.w = true) :
    Sound Q (State.startRetrain s ch fromSlot) := by
  unfold State.startRetrain
  repeat' first
    | with_reducible assumption
    | with_reducible exact sub_trans (by decide) hw
    | with_reducible apply State.abandonMoves_sound
    | with_reducible apply State.setChan_sound
    | with_reducible refine sound_ite (fun _ => ?_) (fun _ => ?_)

theorem askRetrain_sound (s : State) (ch : Nat) (hs : Sound Q s) (hw : sub 35184372121604 Q.w = true) :
    Sound Q (askRetrain s ch) := by
  unfold askRetrain
  repeat' first
    | with_reducible assumption
    | with_reducible exact sub_trans (by decide) hw
    | with_reducible apply State.setChan_sound
    | with_reducible apply State.refuse_sound
    | with_reducible refine sound_ite (fun _ => ?_) (fun _ => ?_)

theorem State.countLinkErr_sound (s : State) (ch : Nat) (hs : Sound Q s) (hw : sub 32772 Q.w = true) :
    Sound Q (State.countLinkErr s ch) := by
  unfold State.countLinkErr
  repeat' first
    | with_reducible assumption
    | with_reducible exact sub_trans (by decide) hw
    | with_reducible apply State.setChan_sound
    | with_reducible apply State.count32_sound
    | with_reducible refine sound_ite (fun _ => ?_) (fun _ => ?_)

theorem State.levelChange_sound (s : State) (hs : Sound Q s) (hw : sub 35184372088836 Q.w = true) :
    Sound Q (State.levelChange s) := by
  unfold State.levelChange
  repeat' first
    | with_reducible assumption
    | with_reducible exact sub_trans (by decide) hw
    | with_reducible apply State.raiseVec_sound
    | with_reducible apply State.alertOn_sound

theorem State.fencePhy_sound (s : State) (d : Nat) (hs : Sound Q s) (hw : sub 58720260 Q.w = true) :
    Sound Q (State.fencePhy s d) := by
  unfold State.fencePhy
  repeat' first
    | with_reducible assumption
    | with_reducible exact sub_trans (by decide) hw
    | with_reducible apply State.setReg_sound
    | with_reducible apply State.modServer_sound
    | with_reducible apply State.modUnit_sound
    | with_reducible apply State.leadCmd_sound
    | with_reducible refine sound_ite (fun _ => ?_) (fun _ => ?_)
    | with_reducible refine sound_foldl (fun _ _ _ => ?_) ?_
    | with_reducible refine sound_foldl_snd (fun _ _ _ => ?_) ?_
    | with_reducible refine sound_foldl_fst (fun _ _ _ => ?_) ?_
    | with_reducible refine sound_foldl_snd2 (fun _ _ _ => ?_) ?_
    | with_reducible refine sound_snd_of (by assumption) ?_
    | with_reducible refine sound_snd2_of (by assumption) ?_
    | with_reducible refine sound_fst_of (by assumption) ?_
    | simp only [sound_set_upk (sub_trans (by decide) hw)]

end Sys2Proof.Machine
end

