-- ==== Sys2Proof/Laws/SoundMaint.lean ====
section
/-! SUPPORT. Laws/SoundMaint.lean: the operations of Machine/Maint.lean keep the waiting commands and the canonical form of both
memories. -/

namespace Sys2Proof.Machine

open Sys2Proof

variable {Q : Frame}

theorem State.writeSnapshot_sound (s : State) (a : Nat) (hs : Sound Q s) (hw : sub 598160121531133 Q.w = true) :
    Sound Q (State.writeSnapshot s a) := by
  unfold State.writeSnapshot
  repeat' first
    | with_reducible assumption
    | with_reducible exact sub_trans (by decide) hw
    | with_reducible apply State.setReg_sound
    | with_reducible apply State.writePa_sound
    | with_reducible apply State.beforeWrite_sound
    | with_reducible apply State.dropSectors_sound
    | with_reducible refine sound_ite (fun _ => ?_) (fun _ => ?_)

theorem State.serveSnap_sound (s : State) (r : Nat × Nat × Nat) (hs : Sound Q s) (hw : sub 598160121793533 Q.w = true) :
    Sound Q (State.serveSnap s r) := by
  unfold State.serveSnap
  repeat' first
    | with_reducible assumption
    | with_reducible exact sub_trans (by decide) hw
    | with_reducible apply State.hostEnd_sound
    | with_reducible apply State.writeSnapshot_sound
    | with_reducible refine sound_ite (fun _ => ?_) (fun _ => ?_)
    | with_reducible refine sound_foldl (fun _ _ _ => ?_) ?_
    | with_reducible refine sound_foldl_snd (fun _ _ _ => ?_) ?_
    | with_reducible refine sound_foldl_fst (fun _ _ _ => ?_) ?_
    | with_reducible refine sound_foldl_snd2 (fun _ _ _ => ?_) ?_
    | with_reducible refine sound_snd_of (by assumption) ?_
    | with_reducible refine sound_snd2_of (by assumption) ?_
    | with_reducible refine sound_fst_of (by assumption) ?_
    | simp only [sound_set_pw (sub_trans (by decide) hw)]

theorem telemetrySnapshot_sound (q : Nat) (c : HCmd) (s : State) (hs : Sound Q s) (hw : sub 262404 Q.w = true) :
    Sound Q (telemetrySnapshot q c s) := by
  unfold telemetrySnapshot
  repeat' first
    | with_reducible assumption
    | with_reducible exact sub_trans (by decide) hw
    | with_reducible apply State.hostRefuse_sound
    | with_reducible apply State.hostStart_sound
    | with_reducible apply State.count32_sound
    | with_reducible refine sound_ite (fun _ => ?_) (fun _ => ?_)
    | with_reducible refine sound_foldl (fun _ _ _ => ?_) ?_
    | with_reducible refine sound_foldl_snd (fun _ _ _ => ?_) ?_
    | with_reducible refine sound_foldl_fst (fun _ _ _ => ?_) ?_
    | with_reducible refine sound_foldl_snd2 (fun _ _ _ => ?_) ?_
    | with_reducible refine sound_snd_of (by assumption) ?_
    | with_reducible refine sound_snd2_of (by assumption) ?_
    | with_reducible refine sound_fst_of (by assumption) ?_
    | simp only [sound_set_pw (sub_trans (by decide) hw)]

theorem State.rotPass_sound (s : State) (key : Nat) (i : Nat) (hs : Sound Q s) (hw : sub 256 Q.w = true) :
    Sound Q (State.rotPass s key i) := by
  unfold State.rotPass
  repeat' first
    | with_reducible assumption
    | with_reducible exact sub_trans (by decide) hw
    | with_reducible refine sound_ite (fun _ => ?_) (fun _ => ?_)
    | with_reducible refine sound_foldl (fun _ _ _ => ?_) ?_
    | with_reducible refine sound_foldl_snd (fun _ _ _ => ?_) ?_
    | with_reducible refine sound_foldl_fst (fun _ _ _ => ?_) ?_
    | with_reducible refine sound_foldl_snd2 (fun _ _ _ => ?_) ?_
    | with_reducible refine sound_snd_of (by assumption) ?_
    | with_reducible refine sound_snd2_of (by assumption) ?_
    | with_reducible refine sound_fst_of (by assumption) ?_
    | simp only [sound_set_pw (sub_trans (by decide) hw)]

theorem State.calsDone_sound (s : State) (hs : Sound Q s) (hw : sub 262404 Q.w = true) : Sound Q (State.calsDone s) := by
  unfold State.calsDone
  repeat' first
    | with_reducible assumption
    | with_reducible exact sub_trans (by decide) hw
    | with_reducible apply State.hostEnd_sound
    | with_reducible refine sound_ite (fun _ => ?_) (fun _ => ?_)
    | with_reducible refine sound_foldl (fun _ _ _ => ?_) ?_
    | with_reducible refine sound_foldl_snd (fun _ _ _ => ?_) ?_
    | with_reducible refine sound_foldl_fst (fun _ _ _ => ?_) ?_
    | with_reducible refine sound_foldl_snd2 (fun _ _ _ => ?_) ?_
    | with_reducible refine sound_snd_of (by assumption) ?_
    | with_reducible refine sound_snd2_of (by assumption) ?_
    | with_reducible refine sound_fst_of (by assumption) ?_
    | simp only [sound_set_pw (sub_trans (by decide) hw)]

theorem State.letGo_sound (s : State) (hs : Sound Q s) (hw : sub 1037966385384445 Q.w = true) : Sound Q (State.letGo s) := by
  unfold State.letGo
  repeat' first
    | with_reducible assumption
    | with_reducible exact sub_trans (by decide) hw
    | with_reducible apply State.flushDue_sound
    | with_reducible apply State.chanDrain_sound
    | with_reducible apply State.flipMoves_sound
    | with_reducible apply State.eqDone_sound
    | with_reducible refine sound_ite (fun _ => ?_) (fun _ => ?_)
    | with_reducible refine sound_foldl (fun _ _ _ => ?_) ?_
    | with_reducible refine sound_foldl_snd (fun _ _ _ => ?_) ?_
    | with_reducible refine sound_foldl_fst (fun _ _ _ => ?_) ?_
    | with_reducible refine sound_foldl_snd2 (fun _ _ _ => ?_) ?_
    | with_reducible refine sound_snd_of (by assumption) ?_
    | with_reducible refine sound_snd2_of (by assumption) ?_
    | with_reducible refine sound_fst_of (by assumption) ?_
    | simp only [sound_set_pw_chans (sub_trans (by decide) hw)]

theorem State.holdChan_sound (s : State) (ch : Nat) (hs : Sound Q s) (hw : sub 33024 Q.w = true) :
    Sound Q (State.holdChan s ch) := by
  unfold State.holdChan
  repeat' first
    | with_reducible assumption
    | with_reducible exact sub_trans (by decide) hw
    | with_reducible apply State.setChan_sound
    | with_reducible refine sound_ite (fun _ => ?_) (fun _ => ?_)
    | with_reducible refine sound_foldl (fun _ _ _ => ?_) ?_
    | with_reducible refine sound_foldl_snd (fun _ _ _ => ?_) ?_
    | with_reducible refine sound_foldl_fst (fun _ _ _ => ?_) ?_
    | with_reducible refine sound_foldl_snd2 (fun _ _ _ => ?_) ?_
    | with_reducible refine sound_snd_of (by assumption) ?_
    | with_reducible refine sound_snd2_of (by assumption) ?_
    | with_reducible refine sound_fst_of (by assumption) ?_
    | simp only [sound_set_pw (sub_trans (by decide) hw)]

theorem State.slotRefresh_sound (s : State) (hs : Sound Q s) (hw : sub 33024 Q.w = true) : Sound Q (State.slotRefresh s) := by
  unfold State.slotRefresh
  repeat' first
    | with_reducible assumption
    | with_reducible exact sub_trans (by decide) hw
    | with_reducible apply State.rotPass_sound
    | with_reducible apply State.holdChan_sound
    | with_reducible refine sound_ite (fun _ => ?_) (fun _ => ?_)
    | with_reducible refine sound_foldl (fun _ _ _ => ?_) ?_
    | with_reducible refine sound_foldl_snd (fun _ _ _ => ?_) ?_
    | with_reducible refine sound_foldl_fst (fun _ _ _ => ?_) ?_
    | with_reducible refine sound_foldl_snd2 (fun _ _ _ => ?_) ?_
    | with_reducible refine sound_snd_of (by assumption) ?_
    | with_reducible refine sound_snd2_of (by assumption) ?_
    | with_reducible refine sound_fst_of (by assumption) ?_
    | simp only []
    | split

theorem State.slotCal_sound (s : State) (rhz : Bool) (obs : SlotObs) (hs : Sound Q s) (hw : sub 598161195305981 Q.w = true) :
    Sound Q (State.slotCal s rhz obs) := by
  unfold State.slotCal
  repeat' first
    | with_reducible assumption
    | with_reducible exact sub_trans (by decide) hw
    | with_reducible apply State.setChan_sound
    | with_reducible apply State.rotPass_sound
    | with_reducible apply State.startRetrain_sound
    | with_reducible apply State.holdChan_sound
    | with_reducible refine sound_ite (fun _ => ?_) (fun _ => ?_)
    | with_reducible refine sound_foldl (fun _ _ _ => ?_) ?_
    | with_reducible refine sound_foldl_snd (fun _ _ _ => ?_) ?_
    | with_reducible refine sound_foldl_fst (fun _ _ _ => ?_) ?_
    | with_reducible refine sound_foldl_snd2 (fun _ _ _ => ?_) ?_
    | with_reducible refine sound_snd_of (by assumption) ?_
    | with_reducible refine sound_snd2_of (by assumption) ?_
    | with_reducible refine sound_fst_of (by assumption) ?_
    | simp only [sound_set_pw (sub_trans (by decide) hw)]
    | split

theorem State.slotEq_sound (s : State) (hs : Sound Q s) (hw : sub 2097412 Q.w = true) : Sound Q (State.slotEq s) := by
  unfold State.slotEq
  repeat' first
    | with_reducible assumption
    | with_reducible exact sub_trans (by decide) hw
    | with_reducible apply State.modLink_sound
    | with_reducible apply State.count32_sound
    | with_reducible apply State.rotPass_sound
    | with_reducible refine sound_ite (fun _ => ?_) (fun _ => ?_)
    | with_reducible refine sound_foldl (fun _ _ _ => ?_) ?_
    | with_reducible refine sound_foldl_snd (fun _ _ _ => ?_) ?_
    | with_reducible refine sound_foldl_fst (fun _ _ _ => ?_) ?_
    | with_reducible refine sound_foldl_snd2 (fun _ _ _ => ?_) ?_
    | with_reducible refine sound_snd_of (by assumption) ?_
    | with_reducible refine sound_snd2_of (by assumption) ?_
    | with_reducible refine sound_fst_of (by assumption) ?_
    | simp only [sound_set_pw (sub_trans (by decide) hw)]
    | split

theorem State.testEnd_sound (s : State) (r : SlotReq) (hs : Sound Q s) (hw : sub 598160113404669 Q.w = true) :
    Sound Q (State.testEnd s r) := by
  unfold State.testEnd
  repeat' first
    | with_reducible assumption
    | with_reducible exact sub_trans (by decide) hw
    | with_reducible apply State.writePa_sound
    | with_reducible apply State.dropSectors_sound
    | with_reducible apply State.hostEnd_sound
    | with_reducible refine sound_ite (fun _ => ?_) (fun _ => ?_)
    | with_reducible refine sound_foldl (fun _ _ _ => ?_) ?_
    | with_reducible refine sound_foldl_snd (fun _ _ _ => ?_) ?_
    | with_reducible refine sound_foldl_fst (fun _ _ _ => ?_) ?_
    | with_reducible refine sound_foldl_snd2 (fun _ _ _ => ?_) ?_
    | with_reducible refine sound_snd_of (by assumption) ?_
    | with_reducible refine sound_snd2_of (by assumption) ?_
    | with_reducible refine sound_fst_of (by assumption) ?_
    | simp only [sound_set_boot (sub_trans (by decide) hw)]

theorem State.scanFinds_sound (s : State) (r : SlotReq) (obs : SlotObs) (hs : Sound Q s) (hw : sub 598160113142525 Q.w = true) :
    Sound Q (State.scanFinds s r obs).2 := by
  unfold State.scanFinds
  repeat' first
    | with_reducible assumption
    | with_reducible exact sub_trans (by decide) hw
    | with_reducible apply State.checkRead_sound
    | with_reducible refine sound_ite (fun _ => ?_) (fun _ => ?_)
    | with_reducible refine sound_foldl (fun _ _ _ => ?_) ?_

theorem State.slotTest_sound (s : State) (obs : SlotObs) (hs : Sound Q s) (hw : sub 598160113437693 Q.w = true) :
    Sound Q (State.slotTest s obs) := by
  unfold State.slotTest
  repeat' first
    | with_reducible assumption
    | with_reducible exact sub_trans (by decide) hw
    | with_reducible apply State.hostEnd_sound
    | with_reducible apply State.scanFinds_sound
    | with_reducible apply State.holdChan_sound
    | with_reducible refine sound_ite (fun _ => ?_) (fun _ => ?_)
    | with_reducible refine sound_foldl (fun _ _ _ => ?_) ?_
    | with_reducible refine sound_foldl_snd (fun _ _ _ => ?_) ?_
    | with_reducible refine sound_foldl_fst (fun _ _ _ => ?_) ?_
    | with_reducible refine sound_foldl_snd2 (fun _ _ _ => ?_) ?_
    | with_reducible refine sound_snd_of (by assumption) ?_
    | with_reducible refine sound_snd2_of (by assumption) ?_
    | with_reducible refine sound_fst_of (by assumption) ?_
    | simp only [sound_set_pw (sub_trans (by decide) hw)]
    | split

theorem State.testDone_sound (s : State) (hs : Sound Q s) (hw : sub 598160113404925 Q.w = true) :
    Sound Q (State.testDone s) := by
  unfold State.testDone
  repeat' first
    | with_reducible assumption
    | with_reducible exact sub_trans (by decide) hw
    | with_reducible apply State.testEnd_sound
    | with_reducible refine sound_ite (fun _ => ?_) (fun _ => ?_)
    | with_reducible refine sound_foldl (fun _ _ _ => ?_) ?_
    | with_reducible refine sound_foldl_snd (fun _ _ _ => ?_) ?_
    | with_reducible refine sound_foldl_fst (fun _ _ _ => ?_) ?_
    | with_reducible refine sound_foldl_snd2 (fun _ _ _ => ?_) ?_
    | with_reducible refine sound_snd_of (by assumption) ?_
    | with_reducible refine sound_snd2_of (by assumption) ?_
    | with_reducible refine sound_fst_of (by assumption) ?_
    | simp only [sound_set_pw (sub_trans (by decide) hw)]
    | split

theorem State.slotEnds_sound (s : State) (hs : Sound Q s) (hw : sub 1037966385646589 Q.w = true) :
    Sound Q (State.slotEnds s) := by
  unfold State.slotEnds
  repeat' first
    | with_reducible assumption
    | with_reducible exact sub_trans (by decide) hw
    | with_reducible apply State.calsDone_sound
    | with_reducible apply State.letGo_sound
    | with_reducible apply State.testDone_sound

theorem selftest_sound (q : Nat) (c : HCmd) (s : State) (hs : Sound Q s) (hw : sub 262404 Q.w = true) :
    Sound Q (selftest q c s) := by
  unfold selftest
  repeat' first
    | with_reducible assumption
    | with_reducible exact sub_trans (by decide) hw
    | with_reducible apply State.hostRefuse_sound
    | with_reducible apply State.hostStart_sound
    | with_reducible apply State.count32_sound
    | with_reducible refine sound_ite (fun _ => ?_) (fun _ => ?_)
    | with_reducible refine sound_foldl (fun _ _ _ => ?_) ?_
    | with_reducible refine sound_foldl_snd (fun _ _ _ => ?_) ?_
    | with_reducible refine sound_foldl_fst (fun _ _ _ => ?_) ?_
    | with_reducible refine sound_foldl_snd2 (fun _ _ _ => ?_) ?_
    | with_reducible refine sound_snd_of (by assumption) ?_
    | with_reducible refine sound_snd2_of (by assumption) ?_
    | with_reducible refine sound_fst_of (by assumption) ?_
    | simp only [sound_set_pw (sub_trans (by decide) hw)]

theorem calibrate_sound (q : Nat) (c : HCmd) (s : State) (hs : Sound Q s) (hw : sub 262404 Q.w = true) :
    Sound Q (calibrate q c s) := by
  unfold calibrate
  repeat' first
    | with_reducible assumption
    | with_reducible exact sub_trans (by decide) hw
    | with_reducible apply State.hostRefuse_sound
    | with_reducible apply State.hostStart_sound
    | with_reducible apply State.count32_sound
    | with_reducible refine sound_ite (fun _ => ?_) (fun _ => ?_)
    | with_reducible refine sound_foldl (fun _ _ _ => ?_) ?_
    | with_reducible refine sound_foldl_snd (fun _ _ _ => ?_) ?_
    | with_reducible refine sound_foldl_fst (fun _ _ _ => ?_) ?_
    | with_reducible refine sound_foldl_snd2 (fun _ _ _ => ?_) ?_
    | with_reducible refine sound_snd_of (by assumption) ?_
    | with_reducible refine sound_snd2_of (by assumption) ?_
    | with_reducible refine sound_fst_of (by assumption) ?_
    | simp only [sound_set_pw (sub_trans (by decide) hw)]

theorem State.scrubLine_sound (s : State) (h : Nat) (slice : Nat) (half : Nat) (i : Nat) (bad : Bool) (hs : Sound Q s) (hw : sub 598160113142525 Q.w = true) :
    Sound Q (State.scrubLine s h slice half i bad) := by
  unfold State.scrubLine
  repeat' first
    | with_reducible assumption
    | with_reducible exact sub_trans (by decide) hw
    | with_reducible apply State.fatal_sound
    | with_reducible apply State.poisonSector_sound
    | with_reducible apply State.l2MeetAlone_sound
    | with_reducible apply State.modHome_sound
    | with_reducible apply State.l2Corrected_sound
    | with_reducible apply State.l2CountUE_sound
    | with_reducible refine sound_ite (fun _ => ?_) (fun _ => ?_)
    | with_reducible refine sound_foldl (fun _ _ _ => ?_) ?_
    | with_reducible refine sound_foldl_snd (fun _ _ _ => ?_) ?_
    | with_reducible refine sound_foldl_fst (fun _ _ _ => ?_) ?_
    | with_reducible refine sound_foldl_snd2 (fun _ _ _ => ?_) ?_
    | with_reducible refine sound_snd_of (by assumption) ?_
    | with_reducible refine sound_snd2_of (by assumption) ?_
    | with_reducible refine sound_fst_of (by assumption) ?_
    | simp only [sound_set_upsets (sub_trans (by decide) hw)]
    | split

theorem State.slotScrub_sound (s : State) (obs : SlotObs) (hs : Sound Q s) (hw : sub 598160113142781 Q.w = true) :
    Sound Q (State.slotScrub s obs) := by
  unfold State.slotScrub
  repeat' first
    | with_reducible assumption
    | with_reducible exact sub_trans (by decide) hw
    | with_reducible apply State.rotPass_sound
    | with_reducible apply State.scrubLine_sound
    | with_reducible refine sound_ite (fun _ => ?_) (fun _ => ?_)
    | with_reducible refine sound_foldl (fun _ _ _ => ?_) ?_
    | with_reducible refine sound_foldl_snd (fun _ _ _ => ?_) ?_
    | with_reducible refine sound_foldl_fst (fun _ _ _ => ?_) ?_
    | with_reducible refine sound_foldl_snd2 (fun _ _ _ => ?_) ?_
    | with_reducible refine sound_snd_of (by assumption) ?_
    | with_reducible refine sound_snd2_of (by assumption) ?_
    | with_reducible refine sound_fst_of (by assumption) ?_
    | simp only [sound_set_pw (sub_trans (by decide) hw)]
    | split

theorem State.slotAudit_sound (s : State) (obs : SlotObs) (hs : Sound Q s) (hw : sub 562949971248124 Q.w = true) :
    Sound Q (State.slotAudit s obs) := by
  unfold State.slotAudit
  repeat' first
    | with_reducible assumption
    | with_reducible exact sub_trans (by decide) hw
    | with_reducible apply State.fatal_sound
    | with_reducible apply State.count32_sound
    | with_reducible apply State.rotPass_sound
    | with_reducible refine sound_ite (fun _ => ?_) (fun _ => ?_)
    | with_reducible refine sound_foldl (fun _ _ _ => ?_) ?_
    | with_reducible refine sound_foldl_snd (fun _ _ _ => ?_) ?_
    | with_reducible refine sound_foldl_fst (fun _ _ _ => ?_) ?_
    | with_reducible refine sound_foldl_snd2 (fun _ _ _ => ?_) ?_
    | with_reducible refine sound_snd_of (by assumption) ?_
    | with_reducible refine sound_snd2_of (by assumption) ?_
    | with_reducible refine sound_fst_of (by assumption) ?_
    | simp only []
    | split

theorem State.frameBoundary_sound (s : State) (f : Nat) (n : Nat) (hs : Sound Q s) (hw : sub 1037966385646589 Q.w = true) :
    Sound Q (State.frameBoundary s f n) := by
  unfold State.frameBoundary
  repeat' first
    | with_reducible assumption
    | with_reducible exact sub_trans (by decide) hw
    | with_reducible apply State.flushWhere_sound
    | with_reducible apply State.slotEnds_sound
    | with_reducible refine sound_ite (fun _ => ?_) (fun _ => ?_)
    | with_reducible refine sound_foldl (fun _ _ _ => ?_) ?_
    | with_reducible refine sound_foldl_snd (fun _ _ _ => ?_) ?_
    | with_reducible refine sound_foldl_fst (fun _ _ _ => ?_) ?_
    | with_reducible refine sound_foldl_snd2 (fun _ _ _ => ?_) ?_
    | with_reducible refine sound_snd_of (by assumption) ?_
    | with_reducible refine sound_snd2_of (by assumption) ?_
    | with_reducible refine sound_fst_of (by assumption) ?_
    | simp only [sound_set_pw_units_tables (sub_trans (by decide) hw)]

theorem State.slotRun_sound (s : State) (n : Nat) (obs : SlotObs) (hs : Sound Q s) (hw : sub 598161734536189 Q.w = true) :
    Sound Q (State.slotRun s n obs) := by
  unfold State.slotRun
  repeat' first
    | with_reducible assumption
    | with_reducible exact sub_trans (by decide) hw
    | with_reducible apply State.serveSnap_sound
    | with_reducible apply State.placementSlot_sound
    | with_reducible apply State.slotTest_sound
    | with_reducible apply State.loadRecords_sound
    | with_reducible apply State.slotRefresh_sound
    | with_reducible apply State.slotCal_sound
    | with_reducible apply State.slotEq_sound
    | with_reducible apply State.thresholdLoop_sound
    | with_reducible apply State.slotAudit_sound
    | with_reducible apply State.slotScrub_sound
    | with_reducible refine sound_ite (fun _ => ?_) (fun _ => ?_)
    | with_reducible refine sound_foldl (fun _ _ _ => ?_) ?_
    | with_reducible refine sound_foldl_snd (fun _ _ _ => ?_) ?_
    | with_reducible refine sound_foldl_fst (fun _ _ _ => ?_) ?_
    | with_reducible refine sound_foldl_snd2 (fun _ _ _ => ?_) ?_
    | with_reducible refine sound_snd_of (by assumption) ?_
    | with_reducible refine sound_snd2_of (by assumption) ?_
    | with_reducible refine sound_fst_of (by assumption) ?_
    | simp only [sound_set_pw (sub_trans (by decide) hw)]
    | split

theorem execSlotenWrite_sound (v : Word) (s : State) (hs : Sound Q s) (hw : sub 35184372088836 Q.w = true) :
    OutSound Q (execSlotenWrite v s) := by
  unfold execSlotenWrite
  repeat' first
    | with_reducible assumption
    | with_reducible exact sub_trans (by decide) hw
    | with_reducible apply OutSound.next
    | with_reducible apply OutSound.fault
    | with_reducible apply OutSound.refused
    | with_reducible apply State.setReg_sound
    | with_reducible apply State.refuse_sound
    | with_reducible refine pred_ite (P := OutSound Q) (fun _ => ?_) (fun _ => ?_)
    | with_reducible refine sound_ite (fun _ => ?_) (fun _ => ?_)

end Sys2Proof.Machine
end

