-- ==== Sys2Proof/Laws/SoundPower.lean ====
section
/-! SUPPORT. Laws/SoundPower.lean: the operations of Machine/Power.lean keep the waiting commands and the canonical form of both
memories. -/

namespace Sys2Proof.Machine

open Sys2Proof

variable {Q : Frame}

theorem State.blank_sound (s : State) (hs : Sound Q s) (hw : sub 562949953421182 Q.w = true) : Sound Q (State.blank s) := by
  exact ⟨hs.pend, fun _ => rfl, hs.host,
    fun f hf => by cases f <;> first | exact hs.keep _ hf | exact absurd hf (testBit_of_sub hw (by decide))⟩

theorem State.deviceReset_sound (s : State) (perst : Bool) (hs : Sound Q s) (hw : sub 562949953421183 Q.w = true) :
    Sound Q (State.deviceReset s perst) := by
  unfold State.deviceReset
  repeat' first
    | with_reducible assumption
    | with_reducible exact sub_trans (by decide) hw
    | with_reducible apply State.blank_sound
    | with_reducible apply State.makeJunk_sound
    | with_reducible refine sound_ite (fun _ => ?_) (fun _ => ?_)
    | with_reducible refine sound_foldl (fun _ _ _ => ?_) ?_
    | with_reducible refine sound_foldl_snd (fun _ _ _ => ?_) ?_
    | with_reducible refine sound_foldl_fst (fun _ _ _ => ?_) ?_
    | with_reducible refine sound_foldl_snd2 (fun _ _ _ => ?_) ?_
    | with_reducible refine sound_snd_of (by assumption) ?_
    | with_reducible refine sound_snd2_of (by assumption) ?_
    | with_reducible refine sound_fst_of (by assumption) ?_
    | simp only [sound_set_pw (sub_trans (by decide) hw)]

theorem State.powerOff_sound (s : State) (hs : Sound Q s) (hw : sub 562949953421183 Q.w = true) :
    Sound Q (State.powerOff s) := by
  unfold State.powerOff
  repeat' first
    | with_reducible assumption
    | with_reducible exact sub_trans (by decide) hw
    | with_reducible apply State.blank_sound
    | with_reducible apply State.makeJunk_sound
    | with_reducible refine sound_ite (fun _ => ?_) (fun _ => ?_)
    | with_reducible refine sound_foldl (fun _ _ _ => ?_) ?_
    | with_reducible refine sound_foldl_snd (fun _ _ _ => ?_) ?_
    | with_reducible refine sound_foldl_fst (fun _ _ _ => ?_) ?_
    | with_reducible refine sound_foldl_snd2 (fun _ _ _ => ?_) ?_
    | with_reducible refine sound_snd_of (by assumption) ?_
    | with_reducible refine sound_snd2_of (by assumption) ?_
    | with_reducible refine sound_fst_of (by assumption) ?_
    | simp only [sound_set_pw (sub_trans (by decide) hw)]

theorem State.railsUp_sound (s : State) (hs : Sound Q s) (hw : sub 256 Q.w = true) : Sound Q (State.railsUp s) := by
  unfold State.railsUp
  repeat' first
    | with_reducible assumption
    | with_reducible exact sub_trans (by decide) hw
    | with_reducible refine sound_ite (fun _ => ?_) (fun _ => ?_)
    | with_reducible refine sound_foldl (fun _ _ _ => ?_) ?_
    | with_reducible refine sound_foldl_snd (fun _ _ _ => ?_) ?_
    | with_reducible refine sound_foldl_fst (fun _ _ _ => ?_) ?_
    | with_reducible refine sound_foldl_snd2 (fun _ _ _ => ?_) ?_
    | with_reducible refine sound_snd_of (by assumption) ?_
    | with_reducible refine sound_snd2_of (by assumption) ?_
    | with_reducible refine sound_fst_of (by assumption) ?_
    | simp only [sound_set_pw (sub_trans (by decide) hw)]

end Sys2Proof.Machine
end

