-- ==== Sys2Proof/Laws/SoundResets.lean ====
section
/-! SUPPORT. Laws/SoundResets.lean: the operations of Machine/Resets.lean keep the waiting commands and the canonical form of both
memories. -/

namespace Sys2Proof.Machine

open Sys2Proof

variable {Q : Frame}

theorem State.flrServer_sound (s : State) (x : Nat) (hs : Sound Q s) (hw : sub 616645663133437 Q.w = true) :
    Sound Q (State.flrServer s x) := by
  unfold State.flrServer
  repeat' first
    | with_reducible assumption
    | with_reducible exact sub_trans (by decide) hw
    | with_reducible apply State.complete_sound
    | with_reducible refine sound_ite (fun _ => ?_) (fun _ => ?_)
    | with_reducible refine sound_foldl (fun _ _ _ => ?_) ?_

theorem State.flrColls_sound (s : State) (hs : Sound Q s) (hw : sub 598194473012989 Q.w = true) :
    Sound Q (State.flrColls s) := by
  unfold State.flrColls
  repeat' first
    | with_reducible assumption
    | with_reducible exact sub_trans (by decide) hw
    | with_reducible apply State.collEnd_sound
    | with_reducible refine sound_ite (fun _ => ?_) (fun _ => ?_)
    | with_reducible refine sound_foldl (fun _ _ _ => ?_) ?_
    | with_reducible refine sound_foldl_snd (fun _ _ _ => ?_) ?_
    | with_reducible refine sound_foldl_fst (fun _ _ _ => ?_) ?_
    | with_reducible refine sound_foldl_snd2 (fun _ _ _ => ?_) ?_
    | with_reducible refine sound_snd_of (by assumption) ?_
    | with_reducible refine sound_snd2_of (by assumption) ?_
    | with_reducible refine sound_fst_of (by assumption) ?_
    | simp only []
    | split

theorem State.flrEpochs_sound (s : State) (hs : Sound Q s) (hw : sub 335544320 Q.w = true) : Sound Q (State.flrEpochs s) := by
  unfold State.flrEpochs
  repeat' first
    | with_reducible assumption
    | with_reducible exact sub_trans (by decide) hw
    | with_reducible refine sound_ite (fun _ => ?_) (fun _ => ?_)
    | with_reducible refine sound_foldl (fun _ _ _ => ?_) ?_
    | with_reducible refine sound_foldl_snd (fun _ _ _ => ?_) ?_
    | with_reducible refine sound_foldl_fst (fun _ _ _ => ?_) ?_
    | with_reducible refine sound_foldl_snd2 (fun _ _ _ => ?_) ?_
    | with_reducible refine sound_snd_of (by assumption) ?_
    | with_reducible refine sound_snd2_of (by assumption) ?_
    | with_reducible refine sound_fst_of (by assumption) ?_
    | simp only [sound_set_seqTx_srcEpoch (sub_trans (by decide) hw)]

theorem State.flrL2_sound (s : State) (hs : Sound Q s) (hw : sub 4 Q.w = true) : Sound Q (State.flrL2 s) := by
  unfold State.flrL2
  repeat' first
    | with_reducible assumption
    | with_reducible exact sub_trans (by decide) hw
    | with_reducible apply State.setRfld_sound
    | with_reducible refine sound_ite (fun _ => ?_) (fun _ => ?_)
    | with_reducible refine sound_foldl (fun _ _ _ => ?_) ?_

theorem State.flrScratch_sound (s : State) (hs : Sound Q s) (hw : sub 89 Q.w = true) : Sound Q (State.flrScratch s) := by
  unfold State.flrScratch
  repeat' first
    | with_reducible assumption
    | with_reducible exact sub_trans (by decide) hw
    | with_reducible apply State.makeJunk_sound
    | with_reducible refine sound_ite (fun _ => ?_) (fun _ => ?_)
    | with_reducible refine sound_foldl (fun _ _ _ => ?_) ?_
    | with_reducible refine sound_foldl_snd (fun _ _ _ => ?_) ?_
    | with_reducible refine sound_foldl_fst (fun _ _ _ => ?_) ?_
    | with_reducible refine sound_foldl_snd2 (fun _ _ _ => ?_) ?_
    | with_reducible refine sound_snd_of (by assumption) ?_
    | with_reducible refine sound_snd2_of (by assumption) ?_
    | with_reducible refine sound_fst_of (by assumption) ?_
    | simp only [sound_set_poison (sub_trans (by decide) hw)]

theorem State.flrOps_sound (s : State) (hs : Sound Q s) (hw : sub 598160113273597 Q.w = true) : Sound Q (State.flrOps s) := by
  unfold State.flrOps
  repeat' first
    | with_reducible assumption
    | with_reducible exact sub_trans (by decide) hw
    | with_reducible apply State.vaWrite_sound
    | with_reducible refine sound_ite (fun _ => ?_) (fun _ => ?_)
    | with_reducible refine sound_foldl (fun _ _ _ => ?_) ?_

theorem State.flrWork_sound (s : State) (hs : Sound Q s) (hw : sub 616680056557309 Q.w = true) :
    Sound Q (State.flrWork s) := by
  unfold State.flrWork
  repeat' first
    | with_reducible assumption
    | with_reducible exact sub_trans (by decide) hw
    | with_reducible apply State.flrColls_sound
    | with_reducible apply State.flrOps_sound
    | with_reducible apply State.flrServer_sound
    | with_reducible apply State.applyAccepted_sound
    | with_reducible refine sound_ite (fun _ => ?_) (fun _ => ?_)
    | with_reducible refine sound_foldl (fun _ _ _ => ?_) ?_

theorem State.flrPf1_sound (s : State) (hs : Sound Q s) (hw : sub 1125899902550013 Q.w = true) :
    Sound Q (State.flrPf1 s) := by
  unfold State.flrPf1
  repeat' first
    | with_reducible assumption
    | with_reducible exact sub_trans (by decide) hw
    | with_reducible apply State.flrScratch_sound
    | with_reducible apply State.flrEpochs_sound
    | with_reducible apply State.endSlice_sound
    | with_reducible apply State.flrWork_sound
    | with_reducible apply State.flrL2_sound
    | with_reducible refine sound_ite (fun _ => ?_) (fun _ => ?_)
    | with_reducible refine sound_foldl (fun _ _ _ => ?_) ?_
    | with_reducible refine sound_foldl_snd (fun _ _ _ => ?_) ?_
    | with_reducible refine sound_foldl_fst (fun _ _ _ => ?_) ?_
    | with_reducible refine sound_foldl_snd2 (fun _ _ _ => ?_) ?_
    | with_reducible refine sound_snd_of (by assumption) ?_
    | with_reducible refine sound_snd2_of (by assumption) ?_
    | with_reducible refine sound_fst_of (by assumption) ?_
    | simp only [sound_set_ras (sub_trans (by decide) hw), sound_set_regs_and_25 (sub_trans (by decide) hw)]

theorem State.devrst_sound (s : State) (fn : Fn) (v : Nat) (hs : Sound Q s) (hw : sub 562949953421183 Q.w = true) :
    Sound Q (State.devrst s fn v) := by
  unfold State.devrst
  repeat' first
    | with_reducible assumption
    | with_reducible exact sub_trans (by decide) hw
    | with_reducible apply State.deviceReset_sound
    | with_reducible refine sound_ite (fun _ => ?_) (fun _ => ?_)

end Sys2Proof.Machine
end

