-- ==== Sys2Proof/Laws/SoundRegWrite.lean ====
section
/-! SUPPORT. Laws/SoundRegWrite.lean: the operations of Machine/RegWrite.lean keep the waiting commands and the canonical form of both
memories. -/

namespace Sys2Proof.Machine

open Sys2Proof

variable {Q : Frame}

theorem State.via_sound (s : State) (o : Host.Outcome State Fault Refusal) (hs : Sound Q s) (ho : OutSound Q o) :
    Sound Q (State.via s o) := by
  unfold State.via
  cases ho with
  | next h => exact h
  | fault => exact hs
  | refused => exact hs

theorem State.rwWrite_sound (s : State) (b : Block) (inst : Nat) (off : Nat) (m : Nat) (v : Nat) (hs : Sound Q s) (hw : sub 35184372089092 Q.w = true) :
    Sound Q (State.rwWrite s b inst off m v) := by
  unfold State.rwWrite
  repeat' first
    | with_reducible assumption
    | with_reducible exact sub_trans (by decide) hw
    | with_reducible apply State.setReg_sound
    | with_reducible apply State.refuse_sound
    | with_reducible apply State.railsUp_sound
    | with_reducible apply State.setIntEn_sound
    | with_reducible refine sound_ite (fun _ => ?_) (fun _ => ?_)
    | with_reducible refine sound_foldl (fun _ _ _ => ?_) ?_
    | with_reducible refine sound_foldl_snd (fun _ _ _ => ?_) ?_
    | with_reducible refine sound_foldl_fst (fun _ _ _ => ?_) ?_
    | with_reducible refine sound_foldl_snd2 (fun _ _ _ => ?_) ?_
    | with_reducible refine sound_snd_of (by assumption) ?_
    | with_reducible refine sound_snd2_of (by assumption) ?_
    | with_reducible refine sound_fst_of (by assumption) ?_
    | simp only []
    | split

theorem State.qerrClear_sound (s : State) (x : Nat) (hs : Sound Q s) (hw : sub 4 Q.w = true) :
    Sound Q (State.qerrClear s x) := by
  unfold State.qerrClear
  repeat' first
    | with_reducible assumption
    | with_reducible exact sub_trans (by decide) hw
    | with_reducible apply State.setRfld_sound
    | with_reducible refine sound_ite (fun _ => ?_) (fun _ => ?_)

theorem State.w1cWrite_sound (s : State) (b : Block) (inst : Nat) (off : Nat) (m : Nat) (v : Nat) (hs : Sound Q s) (hw : sub 4 Q.w = true) :
    Sound Q (State.w1cWrite s b inst off m v) := by
  unfold State.w1cWrite
  repeat' first
    | with_reducible assumption
    | with_reducible exact sub_trans (by decide) hw
    | with_reducible apply State.setReg_sound
    | with_reducible apply State.qerrClear_sound
    | with_reducible apply State.setRfld_sound
    | with_reducible refine sound_ite (fun _ => ?_) (fun _ => ?_)
    | with_reducible refine sound_foldl (fun _ _ _ => ?_) ?_
    | with_reducible refine sound_foldl_snd (fun _ _ _ => ?_) ?_
    | with_reducible refine sound_foldl_fst (fun _ _ _ => ?_) ?_
    | with_reducible refine sound_foldl_snd2 (fun _ _ _ => ?_) ?_
    | with_reducible refine sound_snd_of (by assumption) ?_
    | with_reducible refine sound_snd2_of (by assumption) ?_
    | with_reducible refine sound_fst_of (by assumption) ?_
    | simp only []
    | split

theorem State.enSet_sound (s : State) (b : Block) (inst : Nat) (pg : Nat) (hs : Sound Q s) (hw : sub 598160113409789 Q.w = true) :
    Sound Q (State.enSet s b inst pg) := by
  unfold State.enSet
  repeat' first
    | with_reducible assumption
    | with_reducible exact sub_trans (by decide) hw
    | with_reducible apply coreEnable_sound
    | with_reducible apply l2Enable_sound
    | with_reducible apply State.refuse_sound
    | with_reducible apply State.setEn_sound
    | with_reducible apply State.queueEnable_sound
    | with_reducible refine sound_ite (fun _ => ?_) (fun _ => ?_)
    | with_reducible refine sound_foldl (fun _ _ _ => ?_) ?_
    | with_reducible refine sound_foldl_snd (fun _ _ _ => ?_) ?_
    | with_reducible refine sound_foldl_fst (fun _ _ _ => ?_) ?_
    | with_reducible refine sound_foldl_snd2 (fun _ _ _ => ?_) ?_
    | with_reducible refine sound_snd_of (by assumption) ?_
    | with_reducible refine sound_snd2_of (by assumption) ?_
    | with_reducible refine sound_fst_of (by assumption) ?_
    | simp only []
    | split

theorem State.enClear_sound (s : State) (b : Block) (inst : Nat) (pg : Nat) (hs : Sound Q s) (hw : sub 879635089858301 Q.w = true) :
    Sound Q (State.enClear s b inst pg) := by
  unfold State.enClear
  repeat' first
    | with_reducible assumption
    | with_reducible exact sub_trans (by decide) hw
    | with_reducible apply l2Disable_sound
    | with_reducible apply coreEnable_sound
    | with_reducible apply State.refuse_sound
    | with_reducible apply State.setEn_sound
    | with_reducible refine sound_ite (fun _ => ?_) (fun _ => ?_)
    | with_reducible refine sound_foldl (fun _ _ _ => ?_) ?_
    | with_reducible refine sound_foldl_snd (fun _ _ _ => ?_) ?_
    | with_reducible refine sound_foldl_fst (fun _ _ _ => ?_) ?_
    | with_reducible refine sound_foldl_snd2 (fun _ _ _ => ?_) ?_
    | with_reducible refine sound_snd_of (by assumption) ?_
    | with_reducible refine sound_snd2_of (by assumption) ?_
    | with_reducible refine sound_fst_of (by assumption) ?_
    | simp only []
    | split

theorem State.ctrlWrite_sound (s : State) (b : Block) (inst : Nat) (pg : Nat) (v : Nat) (hs : Sound Q s) (hw : sub 879635425672957 Q.w = true) :
    Sound Q (State.ctrlWrite s b inst pg v) := by
  unfold State.ctrlWrite
  repeat' first
    | with_reducible assumption
    | with_reducible exact sub_trans (by decide) hw
    | with_reducible apply State.setReg_sound
    | with_reducible apply State.resetCore_sound
    | with_reducible apply State.refuse_sound
    | with_reducible apply State.enSet_sound
    | with_reducible apply State.enClear_sound
    | with_reducible apply State.setRfld_sound
    | with_reducible refine sound_ite (fun _ => ?_) (fun _ => ?_)

theorem State.corecfg_sound (s : State) (c : Nat) (v : Nat) (hs : Sound Q s) (hw : sub 598160113274621 Q.w = true) :
    Sound Q (State.corecfg s c v) := by
  unfold State.corecfg
  repeat' first
    | with_reducible assumption
    | with_reducible exact sub_trans (by decide) hw
    | with_reducible apply execAffinityHoldExpiry_sound
    | with_reducible apply State.setReg_sound
    | with_reducible apply State.refuse_sound
    | with_reducible apply State.via_sound
    | with_reducible refine sound_ite (fun _ => ?_) (fun _ => ?_)

theorem State.dbgctl_sound (s : State) (c : Nat) (v : Nat) (hs : Sound Q s) (hw : sub 35184372089860 Q.w = true) :
    Sound Q (State.dbgctl s c v) := by
  unfold State.dbgctl
  repeat' first
    | with_reducible assumption
    | with_reducible exact sub_trans (by decide) hw
    | with_reducible apply dbgCtl_sound

theorem State.maint_sound (s : State) (h : Nat) (v : Nat) (hs : Sound Q s) (hw : sub 879635089853181 Q.w = true) :
    Sound Q (State.maint s h v) := by
  unfold State.maint
  repeat' first
    | with_reducible assumption
    | with_reducible exact sub_trans (by decide) hw
    | with_reducible apply State.refuse_sound
    | with_reducible apply maintAll_sound
    | with_reducible apply maintRange_sound
    | with_reducible refine sound_ite (fun _ => ?_) (fun _ => ?_)
    | with_reducible refine sound_foldl (fun _ _ _ => ?_) ?_
    | with_reducible refine sound_foldl_snd (fun _ _ _ => ?_) ?_
    | with_reducible refine sound_foldl_fst (fun _ _ _ => ?_) ?_
    | with_reducible refine sound_foldl_snd2 (fun _ _ _ => ?_) ?_
    | with_reducible refine sound_snd_of (by assumption) ?_
    | with_reducible refine sound_snd2_of (by assumption) ?_
    | with_reducible refine sound_fst_of (by assumption) ?_
    | simp only []
    | split

theorem State.secfg_sound (s : State) (e : Nat) (v : Nat) (hs : Sound Q s) (hw : sub 35184707641348 Q.w = true) :
    Sound Q (State.secfg s e v) := by
  unfold State.secfg
  repeat' first
    | with_reducible assumption
    | with_reducible exact sub_trans (by decide) hw
    | with_reducible apply State.setReg_sound
    | with_reducible apply State.refuse_sound
    | with_reducible apply State.resetSeng_sound
    | with_reducible refine sound_ite (fun _ => ?_) (fun _ => ?_)

theorem State.fgcfg_sound (s : State) (n : Nat) (v : Nat) (hs : Sound Q s) (hw : sub 35184372093956 Q.w = true) :
    Sound Q (State.fgcfg s n v) := by
  unfold State.fgcfg
  repeat' first
    | with_reducible assumption
    | with_reducible exact sub_trans (by decide) hw
    | with_reducible apply State.setReg_sound
    | with_reducible apply State.fgFail_sound
    | with_reducible apply State.refuse_sound
    | with_reducible apply State.setFg_sound
    | with_reducible refine sound_ite (fun _ => ?_) (fun _ => ?_)

theorem State.colcfg_sound (s : State) (q : Nat) (v : Nat) (hs : Sound Q s) (hw : sub 598160113273597 Q.w = true) :
    Sound Q (State.colcfg s q v) := by
  unfold State.colcfg
  repeat' first
    | with_reducible assumption
    | with_reducible exact sub_trans (by decide) hw
    | with_reducible apply State.setReg_sound
    | with_reducible apply State.xlate_sound
    | with_reducible apply State.refuse_sound
    | with_reducible refine sound_ite (fun _ => ?_) (fun _ => ?_)
    | with_reducible refine sound_foldl (fun _ _ _ => ?_) ?_
    | with_reducible refine sound_foldl_snd (fun _ _ _ => ?_) ?_
    | with_reducible refine sound_foldl_fst (fun _ _ _ => ?_) ?_
    | with_reducible refine sound_foldl_snd2 (fun _ _ _ => ?_) ?_
    | with_reducible refine sound_snd_of (by assumption) ?_
    | with_reducible refine sound_snd2_of (by assumption) ?_
    | with_reducible refine sound_fst_of (by assumption) ?_
    | simp only []
    | split

theorem State.rascfg_sound (s : State) (v : Nat) (hs : Sound Q s) (hw : sub 35184372088836 Q.w = true) :
    Sound Q (State.rascfg s v) := by
  unfold State.rascfg
  repeat' first
    | with_reducible assumption
    | with_reducible exact sub_trans (by decide) hw
    | with_reducible apply State.setReg_sound
    | with_reducible apply State.refuse_sound
    | with_reducible refine sound_ite (fun _ => ?_) (fun _ => ?_)

theorem State.invcmd_sound (s : State) (v : Nat) (hs : Sound Q s) (hw : sub 35184372219908 Q.w = true) :
    Sound Q (State.invcmd s v) := by
  unfold State.invcmd
  repeat' first
    | with_reducible assumption
    | with_reducible exact sub_trans (by decide) hw
    | with_reducible apply execInvcmdRange_sound
    | with_reducible apply execInvcmdAll_sound
    | with_reducible apply State.refuse_sound
    | with_reducible apply State.via_sound
    | with_reducible refine sound_ite (fun _ => ?_) (fun _ => ?_)
    | with_reducible refine sound_foldl (fun _ _ _ => ?_) ?_
    | with_reducible refine outSound_next (by assumption) ?_
    | with_reducible refine sound_foldl_snd (fun _ _ _ => ?_) ?_
    | with_reducible refine sound_foldl_fst (fun _ _ _ => ?_) ?_
    | with_reducible refine sound_foldl_snd2 (fun _ _ _ => ?_) ?_
    | with_reducible refine sound_snd_of (by assumption) ?_
    | with_reducible refine sound_snd2_of (by assumption) ?_
    | with_reducible refine sound_fst_of (by assumption) ?_
    | simp only []
    | split

theorem State.lctl_sound (s : State) (l : Nat) (v : Nat) (hs : Sound Q s) (hw : sub 598134345433340 Q.w = true) :
    Sound Q (State.lctl s l v) := by
  unfold State.lctl
  repeat' first
    | with_reducible assumption
    | with_reducible exact sub_trans (by decide) hw
    | with_reducible apply execRetrain_sound
    | with_reducible apply execLinkHold_sound
    | with_reducible apply execLinkRelease_sound
    | with_reducible apply State.via_sound
    | with_reducible refine sound_ite (fun _ => ?_) (fun _ => ?_)

theorem State.actWrite_sound (s : State) (fn : Fn) (b : Block) (inst : Nat) (off : Nat) (v : Nat) (hs : Sound Q s) (hw : sub 1125899906842623 Q.w = true) :
    Sound Q (State.actWrite s fn b inst off v) := by
  unfold State.actWrite
  repeat' first
    | with_reducible assumption
    | with_reducible exact sub_trans (by decide) hw
    | with_reducible apply execCqheadDoorbell_sound
    | with_reducible apply execHaltctlHalt_sound
    | with_reducible apply execDissolve_sound
    | with_reducible apply execDetload_sound
    | with_reducible apply execSlotenWrite_sound
    | with_reducible apply execSqtailDoorbell_sound
    | with_reducible apply execUctctlFlush_sound
    | with_reducible apply execSrseedWrite_sound
    | with_reducible apply execArbctlCommit_sound
    | with_reducible apply execPlanLoad_sound
    | with_reducible apply State.setReg_sound
    | with_reducible apply dbgSet_sound
    | with_reducible apply rgncommit_sound
    | with_reducible apply State.devrst_sound
    | with_reducible apply State.secfg_sound
    | with_reducible apply State.maint_sound
    | with_reducible apply State.errinj_sound
    | with_reducible apply State.colcfg_sound
    | with_reducible apply State.lctl_sound
    | with_reducible apply State.rascfg_sound
    | with_reducible apply State.fgcfg_sound
    | with_reducible apply State.dbgctl_sound
    | with_reducible apply State.cqcfg_sound
    | with_reducible apply State.ctrlWrite_sound
    | with_reducible apply State.invcmd_sound
    | with_reducible apply State.corecfg_sound
    | with_reducible apply State.via_sound
    | with_reducible apply fwaddrHi_sound
    | with_reducible apply askRetrain_sound
    | with_reducible refine sound_ite (fun _ => ?_) (fun _ => ?_)
    | with_reducible refine sound_foldl (fun _ _ _ => ?_) ?_
    | with_reducible refine outSound_next (by assumption) ?_
    | with_reducible refine sound_foldl_snd (fun _ _ _ => ?_) ?_
    | with_reducible refine sound_foldl_fst (fun _ _ _ => ?_) ?_
    | with_reducible refine sound_foldl_snd2 (fun _ _ _ => ?_) ?_
    | with_reducible refine sound_snd_of (by assumption) ?_
    | with_reducible refine sound_snd2_of (by assumption) ?_
    | with_reducible refine sound_fst_of (by assumption) ?_
    | simp only []
    | split

theorem State.write32_sound (s : State) (fn : Fn) (off : Nat) (v : Nat) (hs : Sound Q s) (hw : sub 1125899906842623 Q.w = true) :
    Sound Q (State.write32 s fn off v) := by
  unfold State.write32
  repeat' first
    | with_reducible assumption
    | with_reducible exact sub_trans (by decide) hw
    | with_reducible apply State.refuse_sound
    | with_reducible apply State.rwWrite_sound
    | with_reducible apply State.actWrite_sound
    | with_reducible apply State.w1cWrite_sound
    | with_reducible refine sound_ite (fun _ => ?_) (fun _ => ?_)
    | with_reducible refine sound_foldl (fun _ _ _ => ?_) ?_
    | with_reducible refine sound_foldl_snd (fun _ _ _ => ?_) ?_
    | with_reducible refine sound_foldl_fst (fun _ _ _ => ?_) ?_
    | with_reducible refine sound_foldl_snd2 (fun _ _ _ => ?_) ?_
    | with_reducible refine sound_snd_of (by assumption) ?_
    | with_reducible refine sound_snd2_of (by assumption) ?_
    | with_reducible refine sound_fst_of (by assumption) ?_
    | simp only []
    | split

end Sys2Proof.Machine
end

