-- ==== Sys2Proof/Laws/SoundRoutedDispatch.lean ====
section
/-! SUPPORT. Laws/SoundRoutedDispatch.lean: the operations of Machine/RoutedDispatch.lean keep the waiting commands and the canonical form of both
memories. -/

namespace Sys2Proof.Machine

open Sys2Proof

variable {Q : Frame}

theorem State.setDisp_sound (s : State) (j : Nat) (d : Disp) (hs : Sound Q s) (hw : sub 68719476736 Q.w = true) :
    Sound Q (State.setDisp s j d) := by
  unfold State.setDisp
  repeat' first
    | with_reducible assumption
    | with_reducible exact sub_trans (by decide) hw
    | with_reducible refine sound_ite (fun _ => ?_) (fun _ => ?_)
    | with_reducible refine sound_foldl (fun _ _ _ => ?_) ?_
    | with_reducible refine sound_foldl_snd (fun _ _ _ => ?_) ?_
    | with_reducible refine sound_foldl_fst (fun _ _ _ => ?_) ?_
    | with_reducible refine sound_foldl_snd2 (fun _ _ _ => ?_) ?_
    | with_reducible refine sound_snd_of (by assumption) ?_
    | with_reducible refine sound_snd2_of (by assumption) ?_
    | with_reducible refine sound_fst_of (by assumption) ?_
    | simp only [sound_set_disps (sub_trans (by decide) hw)]

theorem State.modDisp_sound (s : State) (j : Nat) (f : Disp → Disp) (hs : Sound Q s) (hw : sub 68719476736 Q.w = true) :
    Sound Q (State.modDisp s j f) := by
  unfold State.modDisp
  repeat' first
    | with_reducible assumption
    | with_reducible exact sub_trans (by decide) hw
    | with_reducible apply State.setDisp_sound
    | with_reducible refine sound_ite (fun _ => ?_) (fun _ => ?_)
    | with_reducible refine sound_foldl (fun _ _ _ => ?_) ?_
    | with_reducible refine sound_foldl_snd (fun _ _ _ => ?_) ?_
    | with_reducible refine sound_foldl_fst (fun _ _ _ => ?_) ?_
    | with_reducible refine sound_foldl_snd2 (fun _ _ _ => ?_) ?_
    | with_reducible refine sound_snd_of (by assumption) ?_
    | with_reducible refine sound_snd2_of (by assumption) ?_
    | with_reducible refine sound_fst_of (by assumption) ?_
    | simp only []
    | split

theorem State.dispList_sound (s : State) (j : Nat) (va : Nat) (w : Nat) (n : Nat) (hs : Sound Q s) (hw : sub 598228832750333 Q.w = true) :
    Sound Q (State.dispList s j va w n).2 := by
  unfold State.dispList
  repeat' first
    | with_reducible assumption
    | with_reducible exact sub_trans (by decide) hw
    | with_reducible apply State.fatal_sound
    | with_reducible apply State.vaRead_sound
    | with_reducible apply State.modDisp_sound
    | with_reducible refine sound_ite (fun _ => ?_) (fun _ => ?_)
    | with_reducible refine sound_foldl (fun _ _ _ => ?_) ?_
    | with_reducible refine sound_foldl_snd (fun _ _ _ => ?_) ?_
    | with_reducible refine sound_foldl_fst (fun _ _ _ => ?_) ?_
    | with_reducible refine sound_foldl_snd2 (fun _ _ _ => ?_) ?_
    | with_reducible refine sound_snd_of (by assumption) ?_
    | with_reducible refine sound_snd2_of (by assumption) ?_
    | with_reducible refine sound_fst_of (by assumption) ?_
    | simp only []
    | split

theorem State.dispCheck_sound (s : State) (j : Nat) (d : Disp) (hdr : Nat) (i : SliceInfo) (hs : Sound Q s) (hw : sub 598228832750333 Q.w = true) :
    Sound Q (State.dispCheck s j d hdr i).2 := by
  unfold State.dispCheck
  repeat' first
    | with_reducible assumption
    | with_reducible exact sub_trans (by decide) hw
    | with_reducible apply State.dispList_sound
    | with_reducible refine sound_ite (fun _ => ?_) (fun _ => ?_)
    | with_reducible refine sound_foldl (fun _ _ _ => ?_) ?_
    | with_reducible refine sound_foldl_snd (fun _ _ _ => ?_) ?_
    | with_reducible refine sound_foldl_fst (fun _ _ _ => ?_) ?_
    | with_reducible refine sound_foldl_snd2 (fun _ _ _ => ?_) ?_
    | with_reducible refine sound_snd_of (by assumption) ?_
    | with_reducible refine sound_snd2_of (by assumption) ?_
    | with_reducible refine sound_fst_of (by assumption) ?_
    | simp only []
    | split

theorem State.dispSend_sound (s : State) (j : Nat) (i : SliceInfo) (rank : Nat) (kind : Nat) (content : List Byte) (hs : Sound Q s) (hw : sub 616551165199100 Q.w = true) :
    Sound Q (State.dispSend s j i rank kind content) := by
  unfold State.dispSend
  repeat' first
    | with_reducible assumption
    | with_reducible exact sub_trans (by decide) hw
    | with_reducible apply State.flowSend_sound
    | with_reducible refine sound_ite (fun _ => ?_) (fun _ => ?_)
    | with_reducible refine sound_foldl (fun _ _ _ => ?_) ?_
    | with_reducible refine sound_foldl_snd (fun _ _ _ => ?_) ?_
    | with_reducible refine sound_foldl_fst (fun _ _ _ => ?_) ?_
    | with_reducible refine sound_foldl_snd2 (fun _ _ _ => ?_) ?_
    | with_reducible refine sound_snd_of (by assumption) ?_
    | with_reducible refine sound_snd2_of (by assumption) ?_
    | with_reducible refine sound_fst_of (by assumption) ?_
    | simp only []
    | split

theorem State.dispRow_sound (s : State) (tid : Nat) (row : Nat) (hs : Sound Q s) (hw : sub 598160650012925 Q.w = true) :
    Sound Q (State.dispRow s tid row).2 := by
  unfold State.dispRow
  repeat' first
    | with_reducible assumption
    | with_reducible exact sub_trans (by decide) hw
    | with_reducible apply State.locate_sound
    | with_reducible refine sound_ite (fun _ => ?_) (fun _ => ?_)
    | with_reducible refine sound_foldl (fun _ _ _ => ?_) ?_
    | with_reducible refine sound_foldl_snd (fun _ _ _ => ?_) ?_
    | with_reducible refine sound_foldl_fst (fun _ _ _ => ?_) ?_
    | with_reducible refine sound_foldl_snd2 (fun _ _ _ => ?_) ?_
    | with_reducible refine sound_snd_of (by assumption) ?_
    | with_reducible refine sound_snd2_of (by assumption) ?_
    | with_reducible refine sound_fst_of (by assumption) ?_
    | simp only []
    | split

theorem State.dispFail_sound (s : State) (j : Nat) (hs : Sound Q s) (hw : sub 68719476736 Q.w = true) :
    Sound Q (State.dispFail s j) := by
  unfold State.dispFail
  repeat' first
    | with_reducible assumption
    | with_reducible exact sub_trans (by decide) hw
    | with_reducible apply State.modDisp_sound

theorem State.putReturn_sound (s : State) (j : Nat) (slot : Nat) (data : List Byte) (bad : Bool) (hs : Sound Q s) (hw : sub 598229377878781 Q.w = true) :
    Sound Q (State.putReturn s j slot data bad) := by
  unfold State.putReturn
  repeat' first
    | with_reducible assumption
    | with_reducible exact sub_trans (by decide) hw
    | with_reducible apply State.store_sound
    | with_reducible apply State.dispFail_sound
    | with_reducible apply State.beforeWrite_sound
    | with_reducible apply State.dropSectors_sound
    | with_reducible apply State.dispRow_sound
    | with_reducible refine sound_ite (fun _ => ?_) (fun _ => ?_)
    | with_reducible refine sound_foldl (fun _ _ _ => ?_) ?_
    | with_reducible refine sound_foldl_snd (fun _ _ _ => ?_) ?_
    | with_reducible refine sound_foldl_fst (fun _ _ _ => ?_) ?_
    | with_reducible refine sound_foldl_snd2 (fun _ _ _ => ?_) ?_
    | with_reducible refine sound_snd_of (by assumption) ?_
    | with_reducible refine sound_snd2_of (by assumption) ?_
    | with_reducible refine sound_fst_of (by assumption) ?_
    | simp only []
    | split

theorem State.dispPut_sound (s : State) (j : Nat) (va : Nat) (l : List Byte) (bad : optParam Bool false) (hs : Sound Q s) (hw : sub 598228832750333 Q.w = true) :
    Sound Q (State.dispPut s j va l bad) := by
  unfold State.dispPut
  repeat' first
    | with_reducible assumption
    | with_reducible exact sub_trans (by decide) hw
    | with_reducible apply State.writeDest_sound
    | with_reducible apply State.xlateRange_sound
    | with_reducible apply State.dispFail_sound
    | with_reducible refine sound_ite (fun _ => ?_) (fun _ => ?_)
    | with_reducible refine sound_foldl (fun _ _ _ => ?_) ?_
    | with_reducible refine sound_foldl_snd (fun _ _ _ => ?_) ?_
    | with_reducible refine sound_foldl_fst (fun _ _ _ => ?_) ?_
    | with_reducible refine sound_foldl_snd2 (fun _ _ _ => ?_) ?_
    | with_reducible refine sound_snd_of (by assumption) ?_
    | with_reducible refine sound_snd2_of (by assumption) ?_
    | with_reducible refine sound_fst_of (by assumption) ?_
    | simp only []
    | split

theorem State.placeRow_sound (s : State) (j : Nat) (l : Nat) (p : Nat) (data : List Byte) (bad : Bool) (hs : Sound Q s) (hw : sub 598228832750333 Q.w = true) :
    Sound Q (State.placeRow s j l p data bad) := by
  unfold State.placeRow
  repeat' first
    | with_reducible assumption
    | with_reducible exact sub_trans (by decide) hw
    | with_reducible apply State.dispPut_sound
    | with_reducible apply State.modDisp_sound
    | with_reducible apply State.count64_sound
    | with_reducible refine sound_ite (fun _ => ?_) (fun _ => ?_)
    | with_reducible refine sound_foldl (fun _ _ _ => ?_) ?_
    | with_reducible refine sound_foldl_snd (fun _ _ _ => ?_) ?_
    | with_reducible refine sound_foldl_fst (fun _ _ _ => ?_) ?_
    | with_reducible refine sound_foldl_snd2 (fun _ _ _ => ?_) ?_
    | with_reducible refine sound_snd_of (by assumption) ?_
    | with_reducible refine sound_snd2_of (by assumption) ?_
    | with_reducible refine sound_fst_of (by assumption) ?_
    | simp only []
    | split

theorem State.sendRound_sound (s : State) (j : Nat) (i : SliceInfo) (rank : Nat) (hs : Sound Q s) (hw : sub 616645654612733 Q.w = true) :
    Sound Q (State.sendRound s j i rank) := by
  unfold State.sendRound
  repeat' first
    | with_reducible assumption
    | with_reducible exact sub_trans (by decide) hw
    | with_reducible apply State.fatal_sound
    | with_reducible apply State.dispSend_sound
    | with_reducible apply State.setDisp_sound
    | with_reducible apply State.dispFail_sound
    | with_reducible apply State.vaRead_sound
    | with_reducible apply State.modDisp_sound
    | with_reducible apply State.count64_sound
    | with_reducible apply State.placeRow_sound
    | with_reducible refine sound_ite (fun _ => ?_) (fun _ => ?_)
    | with_reducible refine sound_foldl (fun _ _ _ => ?_) ?_
    | with_reducible refine sound_foldl_snd (fun _ _ _ => ?_) ?_
    | with_reducible refine sound_foldl_fst (fun _ _ _ => ?_) ?_
    | with_reducible refine sound_foldl_snd2 (fun _ _ _ => ?_) ?_
    | with_reducible refine sound_snd_of (by assumption) ?_
    | with_reducible refine sound_snd2_of (by assumption) ?_
    | with_reducible refine sound_fst_of (by assumption) ?_
    | simp only []
    | split

theorem State.takeReturn_sound (s : State) (j : Nat) (i : SliceInfo) (rank : Nat) (l : Nat) (p : Nat) (data : List Byte) (bad : Bool) (hs : Sound Q s) (hw : sub 598229377878781 Q.w = true) :
    Sound Q (State.takeReturn s j i rank l p data bad) := by
  unfold State.takeReturn
  repeat' first
    | with_reducible assumption
    | with_reducible exact sub_trans (by decide) hw
    | with_reducible apply State.putReturn_sound
    | with_reducible apply State.modDisp_sound
    | with_reducible refine sound_ite (fun _ => ?_) (fun _ => ?_)
    | with_reducible refine sound_foldl (fun _ _ _ => ?_) ?_
    | with_reducible refine sound_foldl_snd (fun _ _ _ => ?_) ?_
    | with_reducible refine sound_foldl_fst (fun _ _ _ => ?_) ?_
    | with_reducible refine sound_foldl_snd2 (fun _ _ _ => ?_) ?_
    | with_reducible refine sound_snd_of (by assumption) ?_
    | with_reducible refine sound_snd2_of (by assumption) ?_
    | with_reducible refine sound_fst_of (by assumption) ?_
    | simp only []
    | split

theorem State.dispIssue_sound (s : State) (j : Nat) (tid : Nat) (raw : Nat) (stream : List Byte) (hs : Sound Q s) (hw : sub 598228979550973 Q.w = true) :
    Sound Q (State.dispIssue s j tid raw stream) := by
  unfold State.dispIssue
  repeat' first
    | with_reducible assumption
    | with_reducible exact sub_trans (by decide) hw
    | with_reducible apply State.takeOne_sound
    | with_reducible apply State.dispFail_sound
    | with_reducible apply State.modDisp_sound
    | with_reducible refine sound_ite (fun _ => ?_) (fun _ => ?_)
    | with_reducible refine sound_foldl (fun _ _ _ => ?_) ?_
    | with_reducible refine sound_foldl_snd (fun _ _ _ => ?_) ?_
    | with_reducible refine sound_foldl_fst (fun _ _ _ => ?_) ?_
    | with_reducible refine sound_foldl_snd2 (fun _ _ _ => ?_) ?_
    | with_reducible refine sound_snd_of (by assumption) ?_
    | with_reducible refine sound_snd2_of (by assumption) ?_
    | with_reducible refine sound_fst_of (by assumption) ?_
    | simp only [sound_set_serial (sub_trans (by decide) hw)]
    | split

theorem State.dispBucket_sound (s : State) (j : Nat) (i : SliceInfo) (hs : Sound Q s) (hw : sub 598228979550973 Q.w = true) :
    Sound Q (State.dispBucket s j i) := by
  unfold State.dispBucket
  repeat' first
    | with_reducible assumption
    | with_reducible exact sub_trans (by decide) hw
    | with_reducible apply State.dispIssue_sound
    | with_reducible refine sound_ite (fun _ => ?_) (fun _ => ?_)
    | with_reducible refine sound_foldl (fun _ _ _ => ?_) ?_
    | with_reducible refine sound_foldl_snd (fun _ _ _ => ?_) ?_
    | with_reducible refine sound_foldl_fst (fun _ _ _ => ?_) ?_
    | with_reducible refine sound_foldl_snd2 (fun _ _ _ => ?_) ?_
    | with_reducible refine sound_snd_of (by assumption) ?_
    | with_reducible refine sound_snd2_of (by assumption) ?_
    | with_reducible refine sound_fst_of (by assumption) ?_
    | simp only []
    | split

theorem State.dispStart_sound (s : State) (j : Nat) (i : SliceInfo) (hdr : Nat) (hs : Sound Q s) (hw : sub 616646199872253 Q.w = true) :
    Sound Q (State.dispStart s j i hdr) := by
  unfold State.dispStart
  repeat' first
    | with_reducible assumption
    | with_reducible exact sub_trans (by decide) hw
    | with_reducible apply State.putReturn_sound
    | with_reducible apply State.dispSend_sound
    | with_reducible apply State.dispCheck_sound
    | with_reducible apply State.dispPut_sound
    | with_reducible apply State.modDisp_sound
    | with_reducible apply State.count32_sound
    | with_reducible refine sound_ite (fun _ => ?_) (fun _ => ?_)
    | with_reducible refine sound_foldl (fun _ _ _ => ?_) ?_
    | with_reducible refine sound_foldl_snd (fun _ _ _ => ?_) ?_
    | with_reducible refine sound_foldl_fst (fun _ _ _ => ?_) ?_
    | with_reducible refine sound_foldl_snd2 (fun _ _ _ => ?_) ?_
    | with_reducible refine sound_snd_of (by assumption) ?_
    | with_reducible refine sound_snd2_of (by assumption) ?_
    | with_reducible refine sound_fst_of (by assumption) ?_
    | simp only []
    | split

theorem State.dispExchange_sound (s : State) (j : Nat) (i : SliceInfo) (hs : Sound Q s) (hw : sub 616645801413373 Q.w = true) :
    Sound Q (State.dispExchange s j i) := by
  unfold State.dispExchange
  repeat' first
    | with_reducible assumption
    | with_reducible exact sub_trans (by decide) hw
    | with_reducible apply State.setReg_sound
    | with_reducible apply State.dispBucket_sound
    | with_reducible apply State.dispSend_sound
    | with_reducible apply State.setDisp_sound
    | with_reducible refine sound_ite (fun _ => ?_) (fun _ => ?_)
    | with_reducible refine sound_foldl (fun _ _ _ => ?_) ?_
    | with_reducible refine sound_foldl_snd (fun _ _ _ => ?_) ?_
    | with_reducible refine sound_foldl_fst (fun _ _ _ => ?_) ?_
    | with_reducible refine sound_foldl_snd2 (fun _ _ _ => ?_) ?_
    | with_reducible refine sound_snd_of (by assumption) ?_
    | with_reducible refine sound_snd2_of (by assumption) ?_
    | with_reducible refine sound_fst_of (by assumption) ?_
    | simp only []
    | split

theorem State.dispReady_sound (s : State) (j : Nat) (hs : Sound Q s) (hw : sub 598228832751357 Q.w = true) :
    Sound Q (State.dispReady s j) := by
  unfold State.dispReady
  repeat' first
    | with_reducible assumption
    | with_reducible exact sub_trans (by decide) hw
    | with_reducible apply State.xlate_sound
    | with_reducible apply State.dispFail_sound
    | with_reducible apply State.dispPut_sound
    | with_reducible apply State.modDisp_sound
    | with_reducible apply State.count32_sound
    | with_reducible apply State.signal_sound
    | with_reducible refine sound_ite (fun _ => ?_) (fun _ => ?_)
    | with_reducible refine sound_foldl (fun _ _ _ => ?_) ?_
    | with_reducible refine sound_foldl_snd (fun _ _ _ => ?_) ?_
    | with_reducible refine sound_foldl_fst (fun _ _ _ => ?_) ?_
    | with_reducible refine sound_foldl_snd2 (fun _ _ _ => ?_) ?_
    | with_reducible refine sound_snd_of (by assumption) ?_
    | with_reducible refine sound_snd2_of (by assumption) ?_
    | with_reducible refine sound_fst_of (by assumption) ?_
    | simp only []
    | split

theorem State.takeCounts_sound (s : State) (j : Nat) (rank : Nat) (counts : List Nat) (reason : Nat) (hs : Sound Q s) (hw : sub 68719476736 Q.w = true) :
    Sound Q (State.takeCounts s j rank counts reason) := by
  unfold State.takeCounts
  repeat' first
    | with_reducible assumption
    | with_reducible exact sub_trans (by decide) hw
    | with_reducible apply State.modDisp_sound

theorem State.dispMsg_sound (s : State) (j : Nat) (i : SliceInfo) (rank : Nat) (kind : Nat) (b : List Byte) (hs : Sound Q s) (hw : sub 598229378009853 Q.w = true) :
    Sound Q (State.dispMsg s j i rank kind b) := by
  unfold State.dispMsg
  repeat' first
    | with_reducible assumption
    | with_reducible exact sub_trans (by decide) hw
    | with_reducible apply State.takeCounts_sound
    | with_reducible apply State.takeReturn_sound
    | with_reducible apply State.setDisp_sound
    | with_reducible apply State.placeRow_sound
    | with_reducible refine sound_ite (fun _ => ?_) (fun _ => ?_)
    | with_reducible refine sound_foldl (fun _ _ _ => ?_) ?_
    | with_reducible refine sound_foldl_snd (fun _ _ _ => ?_) ?_
    | with_reducible refine sound_foldl_fst (fun _ _ _ => ?_) ?_
    | with_reducible refine sound_foldl_snd2 (fun _ _ _ => ?_) ?_
    | with_reducible refine sound_snd_of (by assumption) ?_
    | with_reducible refine sound_snd2_of (by assumption) ?_
    | with_reducible refine sound_fst_of (by assumption) ?_
    | simp only []
    | split

theorem State.dispMsgs_sound (s : State) (j : Nat) (i : SliceInfo) (a3 : Nat) (hs : Sound Q s) (hw : sub 598229378009853 Q.w = true) :
    Sound Q (State.dispMsgs s j i a3) := by
  fun_induction State.dispMsgs s j i a3
  all_goals
    repeat' first
      | with_reducible assumption
      | with_reducible exact sub_trans (by decide) hw
      | with_reducible apply State.dispMsg_sound
      | with_reducible apply State.setDisp_sound
      | with_reducible refine sound_ite (fun _ => ?_) (fun _ => ?_)
      | with_reducible refine sound_foldl (fun _ _ _ => ?_) ?_
      | with_reducible refine sound_foldl_snd (fun _ _ _ => ?_) ?_
      | with_reducible refine sound_foldl_fst (fun _ _ _ => ?_) ?_
      | with_reducible refine sound_foldl_snd2 (fun _ _ _ => ?_) ?_
      | with_reducible refine sound_snd_of (by assumption) ?_
      | with_reducible refine sound_snd2_of (by assumption) ?_
      | with_reducible refine sound_fst_of (by assumption) ?_
      | simp only []
      | split
      | intro _
      | with_reducible apply_assumption

theorem State.dispDues_sound (s : State) (j : Nat) (i : SliceInfo) (hs : Sound Q s) (hw : sub 68719476736 Q.w = true) :
    Sound Q (State.dispDues s j i) := by
  unfold State.dispDues
  repeat' first
    | with_reducible assumption
    | with_reducible exact sub_trans (by decide) hw
    | with_reducible apply State.modDisp_sound

theorem State.dispRun_sound (s : State) (j : Nat) (i : SliceInfo) (hs : Sound Q s) (hw : sub 616646338285309 Q.w = true) :
    Sound Q (State.dispRun s j i) := by
  unfold State.dispRun
  repeat' first
    | with_reducible assumption
    | with_reducible exact sub_trans (by decide) hw
    | with_reducible apply State.dispDues_sound
    | with_reducible apply State.dispExchange_sound
    | with_reducible apply State.dispMsgs_sound
    | with_reducible apply State.dispReady_sound
    | with_reducible apply State.sendRound_sound
    | with_reducible refine sound_ite (fun _ => ?_) (fun _ => ?_)
    | with_reducible refine sound_foldl (fun _ _ _ => ?_) ?_

theorem State.returnRound_sound (s : State) (j : Nat) (i : SliceInfo) (hs : Sound Q s) (hw : sub 616646199872253 Q.w = true) :
    Sound Q (State.returnRound s j i) := by
  unfold State.returnRound
  repeat' first
    | with_reducible assumption
    | with_reducible exact sub_trans (by decide) hw
    | with_reducible apply State.fatal_sound
    | with_reducible apply State.dispSend_sound
    | with_reducible apply State.takeReturn_sound
    | with_reducible apply State.dispFail_sound
    | with_reducible apply State.vaRead_sound
    | with_reducible apply State.modDisp_sound
    | with_reducible refine sound_ite (fun _ => ?_) (fun _ => ?_)
    | with_reducible refine sound_foldl (fun _ _ _ => ?_) ?_
    | with_reducible refine sound_foldl_snd (fun _ _ _ => ?_) ?_
    | with_reducible refine sound_foldl_fst (fun _ _ _ => ?_) ?_
    | with_reducible refine sound_foldl_snd2 (fun _ _ _ => ?_) ?_
    | with_reducible refine sound_snd_of (by assumption) ?_
    | with_reducible refine sound_snd2_of (by assumption) ?_
    | with_reducible refine sound_fst_of (by assumption) ?_
    | simp only []
    | split

theorem State.counterAt_sound (s : State) (va : Nat) (hs : Sound Q s) (hw : sub 598160113273597 Q.w = true) :
    Sound Q (State.counterAt s va).2 := by
  unfold State.counterAt
  repeat' first
    | with_reducible assumption
    | with_reducible exact sub_trans (by decide) hw
    | with_reducible apply State.xlate_sound
    | with_reducible refine sound_ite (fun _ => ?_) (fun _ => ?_)
    | with_reducible refine sound_foldl (fun _ _ _ => ?_) ?_
    | with_reducible refine sound_foldl_snd (fun _ _ _ => ?_) ?_
    | with_reducible refine sound_foldl_fst (fun _ _ _ => ?_) ?_
    | with_reducible refine sound_foldl_snd2 (fun _ _ _ => ?_) ?_
    | with_reducible refine sound_snd_of (by assumption) ?_
    | with_reducible refine sound_snd2_of (by assumption) ?_
    | with_reducible refine sound_fst_of (by assumption) ?_
    | simp only []
    | split

end Sys2Proof.Machine
end

