-- ==== Sys2Proof/Laws/SoundSparse.lean ====
section
/-! SUPPORT. Laws/SoundSparse.lean: the operations of Machine/Sparse.lean keep the waiting commands and the canonical form of both
memories. -/

namespace Sys2Proof.Machine

open Sys2Proof

variable {Q : Frame}

theorem scompressInstr_sound (c : Nat) (op : EngOp) (src : Nat) (dst : Nat) (s0 : State) (hs0 : Sound Q s0) (hw : sub 1028 Q.w = true) :
    ISound Q (scompressInstr c op src dst s0) := by
  unfold scompressInstr
  repeat' first
    | with_reducible assumption
    | with_reducible exact sub_trans (by decide) hw
    | with_reducible apply partTrap_sound
    | with_reducible apply illegal_sound
    | with_reducible apply ISound.done
    | with_reducible apply ISound.jump
    | with_reducible apply ISound.trap
    | with_reducible apply ISound.stall
    | with_reducible apply State.setReg_sound
    | with_reducible apply State.markPoison_sound
    | with_reducible apply State.setCore_sound
    | with_reducible apply State.count32_sound
    | with_reducible apply State.addSp_sound
    | with_reducible apply State.drain_sound
    | with_reducible apply State.count64_sound
    | with_reducible refine pred_ite (P := ISound Q) (fun _ => ?_) (fun _ => ?_)
    | with_reducible refine sound_ite (fun _ => ?_) (fun _ => ?_)
    | with_reducible refine sound_foldl (fun _ _ _ => ?_) ?_
    | with_reducible refine isound_trap (by assumption) ?_
    | with_reducible refine isound_stall (by assumption) ?_
    | with_reducible refine sound_foldl_snd (fun _ _ _ => ?_) ?_
    | with_reducible refine sound_foldl_fst (fun _ _ _ => ?_) ?_
    | with_reducible refine sound_foldl_snd2 (fun _ _ _ => ?_) ?_
    | with_reducible refine sound_snd_of (by assumption) ?_
    | with_reducible refine sound_snd2_of (by assumption) ?_
    | with_reducible refine sound_fst_of (by assumption) ?_
    | simp only []
    | split

theorem stransposeInstr_sound (c : Nat) (op : EngOp) (src : Nat) (dst : Nat) (s0 : State) (hs0 : Sound Q s0) (hw : sub 1028 Q.w = true) :
    ISound Q (stransposeInstr c op src dst s0) := by
  unfold stransposeInstr
  repeat' first
    | with_reducible assumption
    | with_reducible exact sub_trans (by decide) hw
    | with_reducible apply partTrap_sound
    | with_reducible apply illegal_sound
    | with_reducible apply ISound.done
    | with_reducible apply ISound.jump
    | with_reducible apply ISound.trap
    | with_reducible apply ISound.stall
    | with_reducible apply State.markPoison_sound
    | with_reducible apply State.setCore_sound
    | with_reducible apply State.count32_sound
    | with_reducible apply State.addSp_sound
    | with_reducible apply State.drain_sound
    | with_reducible apply State.count64_sound
    | with_reducible refine pred_ite (P := ISound Q) (fun _ => ?_) (fun _ => ?_)
    | with_reducible refine sound_ite (fun _ => ?_) (fun _ => ?_)

end Sys2Proof.Machine
end

