-- ==== Sys2Proof/Laws/SoundTick.lean ====
section
/-! SUPPORT. Laws/SoundTick.lean: the operations of Machine/Tick.lean keep the waiting commands and the canonical form of both
memories. -/

namespace Sys2Proof.Machine

open Sys2Proof

variable {Q : Frame}

theorem State.sample_sound (s : State) (hs : Sound Q s) (hw : sub 16777216 Q.w = true) : Sound Q (State.sample s) := by
  unfold State.sample
  repeat' first
    | with_reducible assumption
    | with_reducible exact sub_trans (by decide) hw
    | with_reducible refine sound_ite (fun _ => ?_) (fun _ => ?_)
    | with_reducible refine sound_foldl (fun _ _ _ => ?_) ?_
    | with_reducible refine sound_foldl_snd (fun _ _ _ => ?_) ?_
    | with_reducible refine sound_foldl_fst (fun _ _ _ => ?_) ?_
    | with_reducible refine sound_foldl_snd2 (fun _ _ _ => ?_) ?_
    | with_reducible refine sound_snd_of (by assumption) ?_
    | with_reducible refine sound_snd2_of (by assumption) ?_
    | with_reducible refine sound_fst_of (by assumption) ?_
    | simp only [sound_set_units (sub_trans (by decide) hw)]

theorem State.romDone_sound (s : State) (hs : Sound Q s) (hw : sub 35184372089344 Q.w = true) :
    Sound Q (State.romDone s) := by
  unfold State.romDone
  repeat' first
    | with_reducible assumption
    | with_reducible exact sub_trans (by decide) hw
    | with_reducible apply State.bootTo_sound
    | with_reducible refine sound_ite (fun _ => ?_) (fun _ => ?_)

theorem State.tick_sound (s : State) (hs : Sound Q s) (hw : sub 35184388866562 Q.w = true) : Sound Q (State.tick s) := by
  unfold State.tick
  repeat' first
    | with_reducible assumption
    | with_reducible exact sub_trans (by decide) hw
    | with_reducible apply State.sample_sound
    | with_reducible apply State.romDone_sound
    | with_reducible refine sound_ite (fun _ => ?_) (fun _ => ?_)
    | with_reducible refine sound_foldl (fun _ _ _ => ?_) ?_
    | with_reducible refine sound_foldl_snd (fun _ _ _ => ?_) ?_
    | with_reducible refine sound_foldl_fst (fun _ _ _ => ?_) ?_
    | with_reducible refine sound_foldl_snd2 (fun _ _ _ => ?_) ?_
    | with_reducible refine sound_snd_of (by assumption) ?_
    | with_reducible refine sound_snd2_of (by assumption) ?_
    | with_reducible refine sound_fst_of (by assumption) ?_
    | simp only [sound_set_now (sub_trans (by decide) hw)]

end Sys2Proof.Machine
end

