-- ==== Sys2Proof/Laws/SoundTopology.lean ====
section
/-! SUPPORT. Laws/SoundTopology.lean: the operations of Machine/Topology.lean keep the waiting commands and the canonical form of both
memories. -/

namespace Sys2Proof.Machine

open Sys2Proof

variable {Q : Frame}

theorem State.formSlice_sound (s : State) (i : SliceInfo) (decls : List Nat) (det : NMap Word) (hs : Sound Q s) (hw : sub 35083912216580 Q.w = true) :
    Sound Q (State.formSlice s i decls det) := by
  unfold State.formSlice
  repeat' first
    | with_reducible assumption
    | with_reducible exact sub_trans (by decide) hw
    | with_reducible apply State.setReg_sound
    | with_reducible apply State.sourceReset_sound
    | with_reducible apply State.setRfld_sound
    | with_reducible refine sound_ite (fun _ => ?_) (fun _ => ?_)
    | with_reducible refine sound_foldl (fun _ _ _ => ?_) ?_
    | with_reducible refine sound_foldl_snd (fun _ _ _ => ?_) ?_
    | with_reducible refine sound_foldl_fst (fun _ _ _ => ?_) ?_
    | with_reducible refine sound_foldl_snd2 (fun _ _ _ => ?_) ?_
    | with_reducible refine sound_snd_of (by assumption) ?_
    | with_reducible refine sound_snd2_of (by assumption) ?_
    | with_reducible refine sound_fst_of (by assumption) ?_
    | simp only [sound_set_links_and_11 (sub_trans (by decide) hw)]

theorem jobForm_sound (sigs : Bool) (agreed : Bool) (q : Nat) (c : HCmd) (s : State) (hs : Sound Q s) (hw : sub 633244025621245 Q.w = true) :
    Sound Q (jobForm sigs agreed q c s) := by
  unfold jobForm
  repeat' first
    | with_reducible assumption
    | with_reducible exact sub_trans (by decide) hw
    | with_reducible apply State.fatal_sound
    | with_reducible apply State.hostRefuse_sound
    | with_reducible apply State.hostStart_sound
    | with_reducible apply State.meet_sound
    | with_reducible apply State.hostEnd_sound
    | with_reducible apply State.formSlice_sound
    | with_reducible refine sound_ite (fun _ => ?_) (fun _ => ?_)
    | with_reducible refine sound_foldl (fun _ _ _ => ?_) ?_
    | with_reducible refine sound_foldl_snd (fun _ _ _ => ?_) ?_
    | with_reducible refine sound_foldl_fst (fun _ _ _ => ?_) ?_
    | with_reducible refine sound_foldl_snd2 (fun _ _ _ => ?_) ?_
    | with_reducible refine sound_snd_of (by assumption) ?_
    | with_reducible refine sound_snd2_of (by assumption) ?_
    | with_reducible refine sound_fst_of (by assumption) ?_
    | simp only [sound_set_top (sub_trans (by decide) hw)]
    | split

end Sys2Proof.Machine
end

