-- ==== Sys2Proof/Laws/SoundVector.lean ====
section
/-! SUPPORT. Laws/SoundVector.lean: the operations of Machine/Vector.lean keep the waiting commands and the canonical form of both
memories. -/

namespace Sys2Proof.Machine

open Sys2Proof

variable {Q : Frame}

theorem State.vCount_sound (s : State) (c : Nat) (n : Nat) (hs : Sound Q s) (hw : sub 4 Q.w = true) :
    Sound Q (State.vCount s c n) := by
  unfold State.vCount
  repeat' first
    | with_reducible assumption
    | with_reducible exact sub_trans (by decide) hw
    | with_reducible apply State.count64_sound

theorem State.vFinish_sound (s : State) (c : Nat) (vd : Nat) (w : Nat) (els : List (Option Nat)) (fl : Flags) (bad : Bool) (n : Nat) (hs : Sound Q s) (hw : sub 1028 Q.w = true) :
    Sound Q (State.vFinish s c vd w els fl bad n) := by
  unfold State.vFinish
  repeat' first
    | with_reducible assumption
    | with_reducible exact sub_trans (by decide) hw
    | with_reducible apply State.markPoison_sound
    | with_reducible apply State.modCore_sound
    | with_reducible apply State.vCount_sound
    | with_reducible refine sound_ite (fun _ => ?_) (fun _ => ?_)

theorem State.vFinishMask_sound (s : State) (c : Nat) (md : Nat) (bits : List (Option Nat)) (fl : Flags) (bad : Bool) (n : Nat) (hs : Sound Q s) (hw : sub 1028 Q.w = true) :
    Sound Q (State.vFinishMask s c md bits fl bad n) := by
  unfold State.vFinishMask
  repeat' first
    | with_reducible assumption
    | with_reducible exact sub_trans (by decide) hw
    | with_reducible apply State.markPoison_sound
    | with_reducible apply State.modCore_sound
    | with_reducible apply State.vCount_sound
    | with_reducible refine sound_ite (fun _ => ?_) (fun _ => ?_)

theorem State.vGuard_sound (s : State) (c : Nat) (op : EngOp) (ok : Bool) (slots : List Nat) (f : State → IRes) (hs : Sound Q s) (hf : ∀ s, Sound Q s → ISound Q (f s)) (hw : sub 4 Q.w = true) :
    ISound Q (State.vGuard s c op ok slots f) := by
  unfold State.vGuard
  repeat' first
    | with_reducible assumption
    | with_reducible exact sub_trans (by decide) hw
    | with_reducible apply partTrap_sound
    | with_reducible apply illegal_sound
    | with_reducible apply ISound.done
    | with_reducible apply ISound.jump
    | with_reducible apply ISound.trap
    | with_reducible apply ISound.stall
    | with_reducible refine pred_ite (P := ISound Q) (fun _ => ?_) (fun _ => ?_)
    | with_reducible apply hf

theorem varithInstr_sound (c : Nat) (op : VArith) (vd : VSlot) (vs1 : VSlot) (f : VForm) (s : State) (hs : Sound Q s) (hw : sub 1028 Q.w = true) :
    ISound Q (varithInstr c op vd vs1 f s) := by
  unfold varithInstr
  repeat' first
    | with_reducible assumption
    | with_reducible exact sub_trans (by decide) hw
    | with_reducible apply State.vGuard_sound
    | with_reducible apply ISound.done
    | with_reducible apply ISound.jump
    | with_reducible apply ISound.trap
    | with_reducible apply ISound.stall
    | with_reducible apply State.vFinish_sound
    | with_reducible refine pred_ite (P := ISound Q) (fun _ => ?_) (fun _ => ?_)
    | with_reducible refine sound_ite (fun _ => ?_) (fun _ => ?_)
    | with_reducible refine sound_foldl (fun _ _ _ => ?_) ?_
    | with_reducible refine isound_trap (by assumption) ?_
    | with_reducible refine isound_stall (by assumption) ?_
    | with_reducible refine sound_foldl_snd (fun _ _ _ => ?_) ?_
    | with_reducible refine sound_foldl_fst (fun _ _ _ => ?_) ?_
    | with_reducible refine sound_foldl_snd2 (fun _ _ _ => ?_) ?_
    | with_reducible refine sound_snd_of (by assumption) ?_
    | with_reducible refine sound_snd2_of (by assumption) ?_
    | with_reducible refine sound_fst_of (by assumption) ?_
    | simp only []
    | split
    | intro _

theorem vcmpInstr_sound (c : Nat) (op : VCmp) (md : MaskId) (vs1 : VSlot) (f : VForm) (s : State) (hs : Sound Q s) (hw : sub 1028 Q.w = true) :
    ISound Q (vcmpInstr c op md vs1 f s) := by
  unfold vcmpInstr
  repeat' first
    | with_reducible assumption
    | with_reducible exact sub_trans (by decide) hw
    | with_reducible apply State.vGuard_sound
    | with_reducible apply ISound.done
    | with_reducible apply ISound.jump
    | with_reducible apply ISound.trap
    | with_reducible apply ISound.stall
    | with_reducible apply State.vFinishMask_sound
    | with_reducible refine pred_ite (P := ISound Q) (fun _ => ?_) (fun _ => ?_)
    | with_reducible refine sound_ite (fun _ => ?_) (fun _ => ?_)
    | with_reducible refine sound_foldl (fun _ _ _ => ?_) ?_
    | with_reducible refine isound_trap (by assumption) ?_
    | with_reducible refine isound_stall (by assumption) ?_
    | with_reducible refine sound_foldl_snd (fun _ _ _ => ?_) ?_
    | with_reducible refine sound_foldl_fst (fun _ _ _ => ?_) ?_
    | with_reducible refine sound_foldl_snd2 (fun _ _ _ => ?_) ?_
    | with_reducible refine sound_snd_of (by assumption) ?_
    | with_reducible refine sound_snd2_of (by assumption) ?_
    | with_reducible refine sound_fst_of (by assumption) ?_
    | simp only []
    | split
    | intro _

theorem vmlogInstr_sound (c : Nat) (md : MaskId) (ms1 : MaskId) (ms2 : MaskId) (lop : LopCode) (s : State) (hs : Sound Q s) (hw : sub 1028 Q.w = true) :
    ISound Q (vmlogInstr c md ms1 ms2 lop s) := by
  unfold vmlogInstr
  repeat' first
    | with_reducible assumption
    | with_reducible exact sub_trans (by decide) hw
    | with_reducible apply State.vGuard_sound
    | with_reducible apply ISound.done
    | with_reducible apply ISound.jump
    | with_reducible apply ISound.trap
    | with_reducible apply ISound.stall
    | with_reducible apply State.vFinishMask_sound
    | with_reducible refine pred_ite (P := ISound Q) (fun _ => ?_) (fun _ => ?_)
    | with_reducible refine sound_ite (fun _ => ?_) (fun _ => ?_)
    | with_reducible refine sound_foldl (fun _ _ _ => ?_) ?_
    | with_reducible refine isound_trap (by assumption) ?_
    | with_reducible refine isound_stall (by assumption) ?_
    | with_reducible refine sound_foldl_snd (fun _ _ _ => ?_) ?_
    | with_reducible refine sound_foldl_fst (fun _ _ _ => ?_) ?_
    | with_reducible refine sound_foldl_snd2 (fun _ _ _ => ?_) ?_
    | with_reducible refine sound_snd_of (by assumption) ?_
    | with_reducible refine sound_snd2_of (by assumption) ?_
    | with_reducible refine sound_fst_of (by assumption) ?_
    | simp only []
    | split
    | intro _

theorem vmpopInstr_sound (c : Nat) (rd : XReg) (ms : MaskId) (s : State) (hs : Sound Q s) (hw : sub 1028 Q.w = true) :
    ISound Q (vmpopInstr c rd ms s) := by
  unfold vmpopInstr
  repeat' first
    | with_reducible assumption
    | with_reducible exact sub_trans (by decide) hw
    | with_reducible apply State.vGuard_sound
    | with_reducible apply ISound.done
    | with_reducible apply ISound.jump
    | with_reducible apply ISound.trap
    | with_reducible apply ISound.stall
    | with_reducible apply State.setXn_sound
    | with_reducible apply State.vCount_sound
    | with_reducible refine pred_ite (P := ISound Q) (fun _ => ?_) (fun _ => ?_)
    | with_reducible refine sound_ite (fun _ => ?_) (fun _ => ?_)
    | with_reducible refine sound_foldl (fun _ _ _ => ?_) ?_
    | with_reducible refine isound_trap (by assumption) ?_
    | with_reducible refine isound_stall (by assumption) ?_
    | with_reducible refine sound_foldl_snd (fun _ _ _ => ?_) ?_
    | with_reducible refine sound_foldl_fst (fun _ _ _ => ?_) ?_
    | with_reducible refine sound_foldl_snd2 (fun _ _ _ => ?_) ?_
    | with_reducible refine sound_snd_of (by assumption) ?_
    | with_reducible refine sound_snd2_of (by assumption) ?_
    | with_reducible refine sound_fst_of (by assumption) ?_
    | simp only []
    | split
    | intro _

theorem vsetvlInstr_sound (c : Nat) (rd : XReg) (rs1 : XReg) (vfmt : FmtCode) (msel : Nibble) (s : State) (hs : Sound Q s) (hw : sub 1028 Q.w = true) :
    ISound Q (vsetvlInstr c rd rs1 vfmt msel s) := by
  unfold vsetvlInstr
  repeat' first
    | with_reducible assumption
    | with_reducible exact sub_trans (by decide) hw
    | with_reducible apply State.vGuard_sound
    | with_reducible apply ISound.done
    | with_reducible apply ISound.jump
    | with_reducible apply ISound.trap
    | with_reducible apply ISound.stall
    | with_reducible apply State.modCore_sound
    | with_reducible apply State.setXn_sound
    | with_reducible apply State.vCount_sound
    | with_reducible refine pred_ite (P := ISound Q) (fun _ => ?_) (fun _ => ?_)
    | with_reducible refine sound_ite (fun _ => ?_) (fun _ => ?_)
    | with_reducible refine sound_foldl (fun _ _ _ => ?_) ?_
    | with_reducible refine isound_trap (by assumption) ?_
    | with_reducible refine isound_stall (by assumption) ?_
    | with_reducible refine sound_foldl_snd (fun _ _ _ => ?_) ?_
    | with_reducible refine sound_foldl_fst (fun _ _ _ => ?_) ?_
    | with_reducible refine sound_foldl_snd2 (fun _ _ _ => ?_) ?_
    | with_reducible refine sound_snd_of (by assumption) ?_
    | with_reducible refine sound_snd2_of (by assumption) ?_
    | with_reducible refine sound_fst_of (by assumption) ?_
    | simp only []
    | split
    | intro _

theorem vcvtNarrow_sound (c : Nat) (vd : Nat) (vs1 : Nat) (a : CvtArgs) (s : State) (hs : Sound Q s) (hw : sub 1029 Q.w = true) :
    Sound Q (vcvtNarrow c vd vs1 a s) := by
  unfold vcvtNarrow
  repeat' first
    | with_reducible assumption
    | with_reducible exact sub_trans (by decide) hw
    | with_reducible apply State.setReg_sound
    | with_reducible apply State.modCore_sound
    | with_reducible apply State.vFinish_sound
    | with_reducible refine sound_ite (fun _ => ?_) (fun _ => ?_)
    | with_reducible refine sound_foldl (fun _ _ _ => ?_) ?_
    | with_reducible refine sound_foldl_snd (fun _ _ _ => ?_) ?_
    | with_reducible refine sound_foldl_fst (fun _ _ _ => ?_) ?_
    | with_reducible refine sound_foldl_snd2 (fun _ _ _ => ?_) ?_
    | with_reducible refine sound_snd_of (by assumption) ?_
    | with_reducible refine sound_snd2_of (by assumption) ?_
    | with_reducible refine sound_fst_of (by assumption) ?_
    | simp only [sound_set_free (sub_trans (by decide) hw)]

theorem vcvtWide_sound (c : Nat) (vd : Nat) (vs1 : Nat) (a : CvtArgs) (s : State) (hs : Sound Q s) (hw : sub 1028 Q.w = true) :
    Sound Q (vcvtWide c vd vs1 a s) := by
  unfold vcvtWide
  repeat' first
    | with_reducible assumption
    | with_reducible exact sub_trans (by decide) hw
    | with_reducible apply State.setReg_sound
    | with_reducible apply State.vFinish_sound
    | with_reducible refine sound_ite (fun _ => ?_) (fun _ => ?_)

theorem vcvtPlain_sound (c : Nat) (vd : Nat) (vs1 : Nat) (a : CvtArgs) (s : State) (hs : Sound Q s) (hw : sub 1028 Q.w = true) :
    Sound Q (vcvtPlain c vd vs1 a s) := by
  unfold vcvtPlain
  repeat' first
    | with_reducible assumption
    | with_reducible exact sub_trans (by decide) hw
    | with_reducible apply State.setReg_sound
    | with_reducible apply State.vFinish_sound
    | with_reducible refine sound_ite (fun _ => ?_) (fun _ => ?_)

theorem vcvtInstr_sound (c : Nat) (vd : VSlot) (vs1 : VSlot) (f : VCvtForm) (s : State) (hs : Sound Q s) (hw : sub 1029 Q.w = true) :
    ISound Q (vcvtInstr c vd vs1 f s) := by
  unfold vcvtInstr
  repeat' first
    | with_reducible assumption
    | with_reducible exact sub_trans (by decide) hw
    | with_reducible apply State.vGuard_sound
    | with_reducible apply ISound.done
    | with_reducible apply ISound.jump
    | with_reducible apply ISound.trap
    | with_reducible apply ISound.stall
    | with_reducible apply vcvtNarrow_sound
    | with_reducible apply vcvtWide_sound
    | with_reducible apply vcvtPlain_sound
    | with_reducible refine pred_ite (P := ISound Q) (fun _ => ?_) (fun _ => ?_)
    | with_reducible refine sound_ite (fun _ => ?_) (fun _ => ?_)
    | with_reducible refine sound_foldl (fun _ _ _ => ?_) ?_
    | with_reducible refine isound_trap (by assumption) ?_
    | with_reducible refine isound_stall (by assumption) ?_
    | with_reducible refine sound_foldl_snd (fun _ _ _ => ?_) ?_
    | with_reducible refine sound_foldl_fst (fun _ _ _ => ?_) ?_
    | with_reducible refine sound_foldl_snd2 (fun _ _ _ => ?_) ?_
    | with_reducible refine sound_snd_of (by assumption) ?_
    | with_reducible refine sound_snd2_of (by assumption) ?_
    | with_reducible refine sound_fst_of (by assumption) ?_
    | simp only []
    | split
    | intro _

theorem vredInstr_sound (c : Nat) (op : VRed) (vd : VSlot) (vs1 : VSlot) (f : VForm) (s : State) (hs : Sound Q s) (hw : sub 1029 Q.w = true) :
    ISound Q (vredInstr c op vd vs1 f s) := by
  unfold vredInstr
  repeat' first
    | with_reducible assumption
    | with_reducible exact sub_trans (by decide) hw
    | with_reducible apply State.vGuard_sound
    | with_reducible apply ISound.done
    | with_reducible apply ISound.jump
    | with_reducible apply ISound.trap
    | with_reducible apply ISound.stall
    | with_reducible apply State.vFinish_sound
    | with_reducible apply State.vCount_sound
    | with_reducible refine pred_ite (P := ISound Q) (fun _ => ?_) (fun _ => ?_)
    | with_reducible refine sound_ite (fun _ => ?_) (fun _ => ?_)
    | with_reducible refine sound_foldl (fun _ _ _ => ?_) ?_
    | with_reducible refine isound_trap (by assumption) ?_
    | with_reducible refine isound_stall (by assumption) ?_
    | with_reducible refine sound_foldl_snd (fun _ _ _ => ?_) ?_
    | with_reducible refine sound_foldl_fst (fun _ _ _ => ?_) ?_
    | with_reducible refine sound_foldl_snd2 (fun _ _ _ => ?_) ?_
    | with_reducible refine sound_snd_of (by assumption) ?_
    | with_reducible refine sound_snd2_of (by assumption) ?_
    | with_reducible refine sound_fst_of (by assumption) ?_
    | simp only [sound_set_free (sub_trans (by decide) hw)]
    | split
    | intro _

theorem State.iorCount_sound (s : State) (c : Nat) (n : Nat) (hs : Sound Q s) (hw : sub 4 Q.w = true) :
    Sound Q (State.iorCount s c n) := by
  unfold State.iorCount
  repeat' first
    | with_reducible assumption
    | with_reducible exact sub_trans (by decide) hw
    | with_reducible apply State.count32_sound

theorem vpermInstr_sound (c : Nat) (op : VPerm) (vd : VSlot) (vs1 : VSlot) (f : VForm) (s : State) (hs : Sound Q s) (hw : sub 1028 Q.w = true) :
    ISound Q (vpermInstr c op vd vs1 f s) := by
  unfold vpermInstr
  repeat' first
    | with_reducible assumption
    | with_reducible exact sub_trans (by decide) hw
    | with_reducible apply State.vGuard_sound
    | with_reducible apply ISound.done
    | with_reducible apply ISound.jump
    | with_reducible apply ISound.trap
    | with_reducible apply ISound.stall
    | with_reducible apply State.vFinish_sound
    | with_reducible apply State.iorCount_sound
    | with_reducible refine pred_ite (P := ISound Q) (fun _ => ?_) (fun _ => ?_)
    | with_reducible refine sound_ite (fun _ => ?_) (fun _ => ?_)
    | with_reducible refine sound_foldl (fun _ _ _ => ?_) ?_
    | with_reducible refine isound_trap (by assumption) ?_
    | with_reducible refine isound_stall (by assumption) ?_
    | with_reducible refine sound_foldl_snd (fun _ _ _ => ?_) ?_
    | with_reducible refine sound_foldl_fst (fun _ _ _ => ?_) ?_
    | with_reducible refine sound_foldl_snd2 (fun _ _ _ => ?_) ?_
    | with_reducible refine sound_snd_of (by assumption) ?_
    | with_reducible refine sound_snd2_of (by assumption) ?_
    | with_reducible refine sound_fst_of (by assumption) ?_
    | simp only []
    | split
    | intro _

theorem vshufInstr_sound (c : Nat) (vd : VSlot) (vs1 : VSlot) (imm : Word) (zm : Bool) (s : State) (hs : Sound Q s) (hw : sub 1028 Q.w = true) :
    ISound Q (vshufInstr c vd vs1 imm zm s) := by
  unfold vshufInstr
  repeat' first
    | with_reducible assumption
    | with_reducible exact sub_trans (by decide) hw
    | with_reducible apply State.vGuard_sound
    | with_reducible apply ISound.done
    | with_reducible apply ISound.jump
    | with_reducible apply ISound.trap
    | with_reducible apply ISound.stall
    | with_reducible apply State.vFinish_sound
    | with_reducible apply State.iorCount_sound
    | with_reducible refine pred_ite (P := ISound Q) (fun _ => ?_) (fun _ => ?_)
    | with_reducible refine sound_ite (fun _ => ?_) (fun _ => ?_)
    | with_reducible refine sound_foldl (fun _ _ _ => ?_) ?_
    | with_reducible refine isound_trap (by assumption) ?_
    | with_reducible refine isound_stall (by assumption) ?_
    | with_reducible refine sound_foldl_snd (fun _ _ _ => ?_) ?_
    | with_reducible refine sound_foldl_fst (fun _ _ _ => ?_) ?_
    | with_reducible refine sound_foldl_snd2 (fun _ _ _ => ?_) ?_
    | with_reducible refine sound_snd_of (by assumption) ?_
    | with_reducible refine sound_snd2_of (by assumption) ?_
    | with_reducible refine sound_fst_of (by assumption) ?_
    | simp only []
    | split
    | intro _

theorem vmemInstr_sound (c : Nat) (op : VMem) (v : VSlot) (rs1 : XReg) (rs2 : XReg) (zm : Bool) (s : State) (hs : Sound Q s) (hw : sub 598160113274621 Q.w = true) :
    ISound Q (vmemInstr c op v rs1 rs2 zm s) := by
  unfold vmemInstr
  repeat' first
    | with_reducible assumption
    | with_reducible exact sub_trans (by decide) hw
    | with_reducible apply State.vGuard_sound
    | with_reducible apply withMem_sound
    | with_reducible apply ISound.done
    | with_reducible apply ISound.jump
    | with_reducible apply ISound.trap
    | with_reducible apply ISound.stall
    | with_reducible apply State.coreWriteAll_sound
    | with_reducible apply State.vFinish_sound
    | with_reducible apply State.coreReadAll_sound
    | with_reducible apply State.vCount_sound
    | with_reducible refine pred_ite (P := ISound Q) (fun _ => ?_) (fun _ => ?_)
    | with_reducible refine sound_ite (fun _ => ?_) (fun _ => ?_)
    | with_reducible refine sound_foldl (fun _ _ _ => ?_) ?_
    | with_reducible refine isound_trap (by assumption) ?_
    | with_reducible refine isound_stall (by assumption) ?_
    | with_reducible refine sound_foldl_snd (fun _ _ _ => ?_) ?_
    | with_reducible refine sound_foldl_fst (fun _ _ _ => ?_) ?_
    | with_reducible refine sound_foldl_snd2 (fun _ _ _ => ?_) ?_
    | with_reducible refine sound_snd_of (by assumption) ?_
    | with_reducible refine sound_snd2_of (by assumption) ?_
    | with_reducible refine sound_fst_of (by assumption) ?_
    | simp only []
    | split
    | intro _

theorem vmvxInstr_sound (c : Nat) (rd : XReg) (rs1 : XReg) (vs : VSlot) (s : State) (hs : Sound Q s) (hw : sub 1028 Q.w = true) :
    ISound Q (vmvxInstr c rd rs1 vs s) := by
  unfold vmvxInstr
  repeat' first
    | with_reducible assumption
    | with_reducible exact sub_trans (by decide) hw
    | with_reducible apply State.vGuard_sound
    | with_reducible apply ISound.done
    | with_reducible apply ISound.jump
    | with_reducible apply ISound.trap
    | with_reducible apply ISound.stall
    | with_reducible apply State.setX_sound
    | with_reducible apply State.modCore_sound
    | with_reducible apply State.setXn_sound
    | with_reducible apply State.vCount_sound
    | with_reducible refine pred_ite (P := ISound Q) (fun _ => ?_) (fun _ => ?_)
    | with_reducible refine sound_ite (fun _ => ?_) (fun _ => ?_)
    | with_reducible refine sound_foldl (fun _ _ _ => ?_) ?_
    | with_reducible refine isound_trap (by assumption) ?_
    | with_reducible refine isound_stall (by assumption) ?_
    | with_reducible refine sound_foldl_snd (fun _ _ _ => ?_) ?_
    | with_reducible refine sound_foldl_fst (fun _ _ _ => ?_) ?_
    | with_reducible refine sound_foldl_snd2 (fun _ _ _ => ?_) ?_
    | with_reducible refine sound_snd_of (by assumption) ?_
    | with_reducible refine sound_snd2_of (by assumption) ?_
    | with_reducible refine sound_fst_of (by assumption) ?_
    | simp only []
    | split
    | intro _

theorem vbciInstr_sound (c : Nat) (zero : Bool) (vd : VSlot) (imm : Half) (s : State) (hs : Sound Q s) (hw : sub 1028 Q.w = true) :
    ISound Q (vbciInstr c zero vd imm s) := by
  unfold vbciInstr
  repeat' first
    | with_reducible assumption
    | with_reducible exact sub_trans (by decide) hw
    | with_reducible apply State.vGuard_sound
    | with_reducible apply ISound.done
    | with_reducible apply ISound.jump
    | with_reducible apply ISound.trap
    | with_reducible apply ISound.stall
    | with_reducible apply State.vFinish_sound
    | with_reducible refine pred_ite (P := ISound Q) (fun _ => ?_) (fun _ => ?_)
    | with_reducible refine sound_ite (fun _ => ?_) (fun _ => ?_)
    | with_reducible refine sound_foldl (fun _ _ _ => ?_) ?_
    | with_reducible refine isound_trap (by assumption) ?_
    | with_reducible refine isound_stall (by assumption) ?_
    | with_reducible refine sound_foldl_snd (fun _ _ _ => ?_) ?_
    | with_reducible refine sound_foldl_fst (fun _ _ _ => ?_) ?_
    | with_reducible refine sound_foldl_snd2 (fun _ _ _ => ?_) ?_
    | with_reducible refine sound_snd_of (by assumption) ?_
    | with_reducible refine sound_snd2_of (by assumption) ?_
    | with_reducible refine sound_fst_of (by assumption) ?_
    | simp only []
    | split
    | intro _

end Sys2Proof.Machine
end

