-- ==== Sys2Proof/Laws/State.lean ====
section
/-! SUPPORT. Laws/State.lean: the state under each of its updates: the field that an update sets, and every other field
unchanged. -/

namespace Sys2Proof.Machine

open Sys2Proof

/-! ## setReg -/

@[simp] theorem State.setReg_pending (s : State) (off v : Nat) : (s.setReg off v).pending = s.pending := rfl
@[simp] theorem State.setReg_free (s : State) (off v : Nat) : (s.setReg off v).free = s.free := rfl
@[simp] theorem State.setReg_now (s : State) (off v : Nat) : (s.setReg off v).now = s.now := rfl
@[simp] theorem State.setReg_mem (s : State) (off v : Nat) : (s.setReg off v).mem = s.mem := rfl
@[simp] theorem State.setReg_poison (s : State) (off v : Nat) : (s.setReg off v).poison = s.poison := rfl
@[simp] theorem State.setReg_upsets (s : State) (off v : Nat) : (s.setReg off v).upsets = s.upsets := rfl
@[simp] theorem State.setReg_junk (s : State) (off v : Nat) : (s.setReg off v).junk = s.junk := rfl
@[simp] theorem State.setReg_hostMem (s : State) (off v : Nat) : (s.setReg off v).hostMem = s.hostMem := rfl
@[simp] theorem State.setReg_pw (s : State) (off v : Nat) : (s.setReg off v).pw = s.pw := rfl
@[simp] theorem State.setReg_boot (s : State) (off v : Nat) : (s.setReg off v).boot = s.boot := rfl
@[simp] theorem State.setReg_cores (s : State) (off v : Nat) : (s.setReg off v).cores = s.cores := rfl
@[simp] theorem State.setReg_homes (s : State) (off v : Nat) : (s.setReg off v).homes = s.homes := rfl
@[simp] theorem State.setReg_fg (s : State) (off v : Nat) : (s.setReg off v).fg = s.fg := rfl
@[simp] theorem State.setReg_sengs (s : State) (off v : Nat) : (s.setReg off v).sengs = s.sengs := rfl
@[simp] theorem State.setReg_graphs (s : State) (off v : Nat) : (s.setReg off v).graphs = s.graphs := rfl
@[simp] theorem State.setReg_chans (s : State) (off v : Nat) : (s.setReg off v).chans = s.chans := rfl
@[simp] theorem State.setReg_modes (s : State) (off v : Nat) : (s.setReg off v).modes = s.modes := rfl
@[simp] theorem State.setReg_tlb (s : State) (off v : Nat) : (s.setReg off v).tlb = s.tlb := rfl
@[simp] theorem State.setReg_queues (s : State) (off v : Nat) : (s.setReg off v).queues = s.queues := rfl
@[simp] theorem State.setReg_hostRr (s : State) (off v : Nat) : (s.setReg off v).hostRr = s.hostRr := rfl
@[simp] theorem State.setReg_ras (s : State) (off v : Nat) : (s.setReg off v).ras = s.ras := rfl
@[simp] theorem State.setReg_links (s : State) (off v : Nat) : (s.setReg off v).links = s.links := rfl
@[simp] theorem State.setReg_serial (s : State) (off v : Nat) : (s.setReg off v).serial = s.serial := rfl
@[simp] theorem State.setReg_servers (s : State) (off v : Nat) : (s.setReg off v).servers = s.servers := rfl
@[simp] theorem State.setReg_units (s : State) (off v : Nat) : (s.setReg off v).units = s.units := rfl
@[simp] theorem State.setReg_upk (s : State) (off v : Nat) : (s.setReg off v).upk = s.upk := rfl
@[simp] theorem State.setReg_seqTx (s : State) (off v : Nat) : (s.setReg off v).seqTx = s.seqTx := rfl
@[simp] theorem State.setReg_seqRx (s : State) (off v : Nat) : (s.setReg off v).seqRx = s.seqRx := rfl
@[simp] theorem State.setReg_srcEpoch (s : State) (off v : Nat) : (s.setReg off v).srcEpoch = s.srcEpoch := rfl
@[simp] theorem State.setReg_tables (s : State) (off v : Nat) : (s.setReg off v).tables = s.tables := rfl
@[simp] theorem State.setReg_moves (s : State) (off v : Nat) : (s.setReg off v).moves = s.moves := rfl
@[simp] theorem State.setReg_epWaits (s : State) (off v : Nat) : (s.setReg off v).epWaits = s.epWaits := rfl
@[simp] theorem State.setReg_retired (s : State) (off v : Nat) : (s.setReg off v).retired = s.retired := rfl
@[simp] theorem State.setReg_repair (s : State) (off v : Nat) : (s.setReg off v).repair = s.repair := rfl
@[simp] theorem State.setReg_rowTrack (s : State) (off v : Nat) : (s.setReg off v).rowTrack = s.rowTrack := rfl
@[simp] theorem State.setReg_cols (s : State) (off v : Nat) : (s.setReg off v).cols = s.cols := rfl
@[simp] theorem State.setReg_disps (s : State) (off v : Nat) : (s.setReg off v).disps = s.disps := rfl
@[simp] theorem State.setReg_colIn (s : State) (off v : Nat) : (s.setReg off v).colIn = s.colIn := rfl
@[simp] theorem State.setReg_flowTx (s : State) (off v : Nat) : (s.setReg off v).flowTx = s.flowTx := rfl
@[simp] theorem State.setReg_flowWait (s : State) (off v : Nat) : (s.setReg off v).flowWait = s.flowWait := rfl
@[simp] theorem State.setReg_flowRx (s : State) (off v : Nat) : (s.setReg off v).flowRx = s.flowRx := rfl
@[simp] theorem State.setReg_rxParts (s : State) (off v : Nat) : (s.setReg off v).rxParts = s.rxParts := rfl
@[simp] theorem State.setReg_upFails (s : State) (off v : Nat) : (s.setReg off v).upFails = s.upFails := rfl
@[simp] theorem State.setReg_upStops (s : State) (off v : Nat) : (s.setReg off v).upStops = s.upStops := rfl
@[simp] theorem State.setReg_top (s : State) (off v : Nat) : (s.setReg off v).top = s.top := rfl
@[simp] theorem State.setReg_msix (s : State) (off v : Nat) : (s.setReg off v).msix = s.msix := rfl
@[simp] theorem State.setReg_latch (s : State) (off v : Nat) : (s.setReg off v).latch = s.latch := rfl
@[simp] theorem State.setReg_bar2Wait (s : State) (off v : Nat) : (s.setReg off v).bar2Wait = s.bar2Wait := rfl
@[simp] theorem State.setReg_chanWait (s : State) (off v : Nat) : (s.setReg off v).chanWait = s.chanWait := rfl
@[simp] theorem State.setReg_out (s : State) (off v : Nat) : (s.setReg off v).out = s.out := rfl

/-! ## setCore -/

@[simp] theorem State.setCore_pending (s : State) (c : Nat) (k : Core) : (s.setCore c k).pending = s.pending := rfl
@[simp] theorem State.setCore_free (s : State) (c : Nat) (k : Core) : (s.setCore c k).free = s.free := rfl
@[simp] theorem State.setCore_now (s : State) (c : Nat) (k : Core) : (s.setCore c k).now = s.now := rfl
@[simp] theorem State.setCore_regs (s : State) (c : Nat) (k : Core) : (s.setCore c k).regs = s.regs := rfl
@[simp] theorem State.setCore_mem (s : State) (c : Nat) (k : Core) : (s.setCore c k).mem = s.mem := rfl
@[simp] theorem State.setCore_poison (s : State) (c : Nat) (k : Core) : (s.setCore c k).poison = s.poison := rfl
@[simp] theorem State.setCore_upsets (s : State) (c : Nat) (k : Core) : (s.setCore c k).upsets = s.upsets := rfl
@[simp] theorem State.setCore_junk (s : State) (c : Nat) (k : Core) : (s.setCore c k).junk = s.junk := rfl
@[simp] theorem State.setCore_hostMem (s : State) (c : Nat) (k : Core) : (s.setCore c k).hostMem = s.hostMem := rfl
@[simp] theorem State.setCore_pw (s : State) (c : Nat) (k : Core) : (s.setCore c k).pw = s.pw := rfl
@[simp] theorem State.setCore_boot (s : State) (c : Nat) (k : Core) : (s.setCore c k).boot = s.boot := rfl
@[simp] theorem State.setCore_homes (s : State) (c : Nat) (k : Core) : (s.setCore c k).homes = s.homes := rfl
@[simp] theorem State.setCore_fg (s : State) (c : Nat) (k : Core) : (s.setCore c k).fg = s.fg := rfl
@[simp] theorem State.setCore_sengs (s : State) (c : Nat) (k : Core) : (s.setCore c k).sengs = s.sengs := rfl
@[simp] theorem State.setCore_graphs (s : State) (c : Nat) (k : Core) : (s.setCore c k).graphs = s.graphs := rfl
@[simp] theorem State.setCore_chans (s : State) (c : Nat) (k : Core) : (s.setCore c k).chans = s.chans := rfl
@[simp] theorem State.setCore_modes (s : State) (c : Nat) (k : Core) : (s.setCore c k).modes = s.modes := rfl
@[simp] theorem State.setCore_tlb (s : State) (c : Nat) (k : Core) : (s.setCore c k).tlb = s.tlb := rfl
@[simp] theorem State.setCore_queues (s : State) (c : Nat) (k : Core) : (s.setCore c k).queues = s.queues := rfl
@[simp] theorem State.setCore_hostRr (s : State) (c : Nat) (k : Core) : (s.setCore c k).hostRr = s.hostRr := rfl
@[simp] theorem State.setCore_ras (s : State) (c : Nat) (k : Core) : (s.setCore c k).ras = s.ras := rfl
@[simp] theorem State.setCore_links (s : State) (c : Nat) (k : Core) : (s.setCore c k).links = s.links := rfl
@[simp] theorem State.setCore_serial (s : State) (c : Nat) (k : Core) : (s.setCore c k).serial = s.serial := rfl
@[simp] theorem State.setCore_servers (s : State) (c : Nat) (k : Core) : (s.setCore c k).servers = s.servers := rfl
@[simp] theorem State.setCore_units (s : State) (c : Nat) (k : Core) : (s.setCore c k).units = s.units := rfl
@[simp] theorem State.setCore_upk (s : State) (c : Nat) (k : Core) : (s.setCore c k).upk = s.upk := rfl
@[simp] theorem State.setCore_seqTx (s : State) (c : Nat) (k : Core) : (s.setCore c k).seqTx = s.seqTx := rfl
@[simp] theorem State.setCore_seqRx (s : State) (c : Nat) (k : Core) : (s.setCore c k).seqRx = s.seqRx := rfl
@[simp] theorem State.setCore_srcEpoch (s : State) (c : Nat) (k : Core) : (s.setCore c k).srcEpoch = s.srcEpoch := rfl
@[simp] theorem State.setCore_tables (s : State) (c : Nat) (k : Core) : (s.setCore c k).tables = s.tables := rfl
@[simp] theorem State.setCore_moves (s : State) (c : Nat) (k : Core) : (s.setCore c k).moves = s.moves := rfl
@[simp] theorem State.setCore_epWaits (s : State) (c : Nat) (k : Core) : (s.setCore c k).epWaits = s.epWaits := rfl
@[simp] theorem State.setCore_retired (s : State) (c : Nat) (k : Core) : (s.setCore c k).retired = s.retired := rfl
@[simp] theorem State.setCore_repair (s : State) (c : Nat) (k : Core) : (s.setCore c k).repair = s.repair := rfl
@[simp] theorem State.setCore_rowTrack (s : State) (c : Nat) (k : Core) : (s.setCore c k).rowTrack = s.rowTrack := rfl
@[simp] theorem State.setCore_cols (s : State) (c : Nat) (k : Core) : (s.setCore c k).cols = s.cols := rfl
@[simp] theorem State.setCore_disps (s : State) (c : Nat) (k : Core) : (s.setCore c k).disps = s.disps := rfl
@[simp] theorem State.setCore_colIn (s : State) (c : Nat) (k : Core) : (s.setCore c k).colIn = s.colIn := rfl
@[simp] theorem State.setCore_flowTx (s : State) (c : Nat) (k : Core) : (s.setCore c k).flowTx = s.flowTx := rfl
@[simp] theorem State.setCore_flowWait (s : State) (c : Nat) (k : Core) : (s.setCore c k).flowWait = s.flowWait := rfl
@[simp] theorem State.setCore_flowRx (s : State) (c : Nat) (k : Core) : (s.setCore c k).flowRx = s.flowRx := rfl
@[simp] theorem State.setCore_rxParts (s : State) (c : Nat) (k : Core) : (s.setCore c k).rxParts = s.rxParts := rfl
@[simp] theorem State.setCore_upFails (s : State) (c : Nat) (k : Core) : (s.setCore c k).upFails = s.upFails := rfl
@[simp] theorem State.setCore_upStops (s : State) (c : Nat) (k : Core) : (s.setCore c k).upStops = s.upStops := rfl
@[simp] theorem State.setCore_top (s : State) (c : Nat) (k : Core) : (s.setCore c k).top = s.top := rfl
@[simp] theorem State.setCore_msix (s : State) (c : Nat) (k : Core) : (s.setCore c k).msix = s.msix := rfl
@[simp] theorem State.setCore_latch (s : State) (c : Nat) (k : Core) : (s.setCore c k).latch = s.latch := rfl
@[simp] theorem State.setCore_bar2Wait (s : State) (c : Nat) (k : Core) : (s.setCore c k).bar2Wait = s.bar2Wait := rfl
@[simp] theorem State.setCore_chanWait (s : State) (c : Nat) (k : Core) : (s.setCore c k).chanWait = s.chanWait := rfl
@[simp] theorem State.setCore_out (s : State) (c : Nat) (k : Core) : (s.setCore c k).out = s.out := rfl

/-! ## modCore -/

@[simp] theorem State.modCore_pending (s : State) (c : Nat) (f : Core → Core) : (s.modCore c f).pending = s.pending := rfl
@[simp] theorem State.modCore_free (s : State) (c : Nat) (f : Core → Core) : (s.modCore c f).free = s.free := rfl
@[simp] theorem State.modCore_now (s : State) (c : Nat) (f : Core → Core) : (s.modCore c f).now = s.now := rfl
@[simp] theorem State.modCore_regs (s : State) (c : Nat) (f : Core → Core) : (s.modCore c f).regs = s.regs := rfl
@[simp] theorem State.modCore_mem (s : State) (c : Nat) (f : Core → Core) : (s.modCore c f).mem = s.mem := rfl
@[simp] theorem State.modCore_poison (s : State) (c : Nat) (f : Core → Core) : (s.modCore c f).poison = s.poison := rfl
@[simp] theorem State.modCore_upsets (s : State) (c : Nat) (f : Core → Core) : (s.modCore c f).upsets = s.upsets := rfl
@[simp] theorem State.modCore_junk (s : State) (c : Nat) (f : Core → Core) : (s.modCore c f).junk = s.junk := rfl
@[simp] theorem State.modCore_hostMem (s : State) (c : Nat) (f : Core → Core) : (s.modCore c f).hostMem = s.hostMem := rfl
@[simp] theorem State.modCore_pw (s : State) (c : Nat) (f : Core → Core) : (s.modCore c f).pw = s.pw := rfl
@[simp] theorem State.modCore_boot (s : State) (c : Nat) (f : Core → Core) : (s.modCore c f).boot = s.boot := rfl
@[simp] theorem State.modCore_homes (s : State) (c : Nat) (f : Core → Core) : (s.modCore c f).homes = s.homes := rfl
@[simp] theorem State.modCore_fg (s : State) (c : Nat) (f : Core → Core) : (s.modCore c f).fg = s.fg := rfl
@[simp] theorem State.modCore_sengs (s : State) (c : Nat) (f : Core → Core) : (s.modCore c f).sengs = s.sengs := rfl
@[simp] theorem State.modCore_graphs (s : State) (c : Nat) (f : Core → Core) : (s.modCore c f).graphs = s.graphs := rfl
@[simp] theorem State.modCore_chans (s : State) (c : Nat) (f : Core → Core) : (s.modCore c f).chans = s.chans := rfl
@[simp] theorem State.modCore_modes (s : State) (c : Nat) (f : Core → Core) : (s.modCore c f).modes = s.modes := rfl
@[simp] theorem State.modCore_tlb (s : State) (c : Nat) (f : Core → Core) : (s.modCore c f).tlb = s.tlb := rfl
@[simp] theorem State.modCore_queues (s : State) (c : Nat) (f : Core → Core) : (s.modCore c f).queues = s.queues := rfl
@[simp] theorem State.modCore_hostRr (s : State) (c : Nat) (f : Core → Core) : (s.modCore c f).hostRr = s.hostRr := rfl
@[simp] theorem State.modCore_ras (s : State) (c : Nat) (f : Core → Core) : (s.modCore c f).ras = s.ras := rfl
@[simp] theorem State.modCore_links (s : State) (c : Nat) (f : Core → Core) : (s.modCore c f).links = s.links := rfl
@[simp] theorem State.modCore_serial (s : State) (c : Nat) (f : Core → Core) : (s.modCore c f).serial = s.serial := rfl
@[simp] theorem State.modCore_servers (s : State) (c : Nat) (f : Core → Core) : (s.modCore c f).servers = s.servers := rfl
@[simp] theorem State.modCore_units (s : State) (c : Nat) (f : Core → Core) : (s.modCore c f).units = s.units := rfl
@[simp] theorem State.modCore_upk (s : State) (c : Nat) (f : Core → Core) : (s.modCore c f).upk = s.upk := rfl
@[simp] theorem State.modCore_seqTx (s : State) (c : Nat) (f : Core → Core) : (s.modCore c f).seqTx = s.seqTx := rfl
@[simp] theorem State.modCore_seqRx (s : State) (c : Nat) (f : Core → Core) : (s.modCore c f).seqRx = s.seqRx := rfl
@[simp] theorem State.modCore_srcEpoch (s : State) (c : Nat) (f : Core → Core) : (s.modCore c f).srcEpoch = s.srcEpoch := rfl
@[simp] theorem State.modCore_tables (s : State) (c : Nat) (f : Core → Core) : (s.modCore c f).tables = s.tables := rfl
@[simp] theorem State.modCore_moves (s : State) (c : Nat) (f : Core → Core) : (s.modCore c f).moves = s.moves := rfl
@[simp] theorem State.modCore_epWaits (s : State) (c : Nat) (f : Core → Core) : (s.modCore c f).epWaits = s.epWaits := rfl
@[simp] theorem State.modCore_retired (s : State) (c : Nat) (f : Core → Core) : (s.modCore c f).retired = s.retired := rfl
@[simp] theorem State.modCore_repair (s : State) (c : Nat) (f : Core → Core) : (s.modCore c f).repair = s.repair := rfl
@[simp] theorem State.modCore_rowTrack (s : State) (c : Nat) (f : Core → Core) : (s.modCore c f).rowTrack = s.rowTrack := rfl
@[simp] theorem State.modCore_cols (s : State) (c : Nat) (f : Core → Core) : (s.modCore c f).cols = s.cols := rfl
@[simp] theorem State.modCore_disps (s : State) (c : Nat) (f : Core → Core) : (s.modCore c f).disps = s.disps := rfl
@[simp] theorem State.modCore_colIn (s : State) (c : Nat) (f : Core → Core) : (s.modCore c f).colIn = s.colIn := rfl
@[simp] theorem State.modCore_flowTx (s : State) (c : Nat) (f : Core → Core) : (s.modCore c f).flowTx = s.flowTx := rfl
@[simp] theorem State.modCore_flowWait (s : State) (c : Nat) (f : Core → Core) : (s.modCore c f).flowWait = s.flowWait := rfl
@[simp] theorem State.modCore_flowRx (s : State) (c : Nat) (f : Core → Core) : (s.modCore c f).flowRx = s.flowRx := rfl
@[simp] theorem State.modCore_rxParts (s : State) (c : Nat) (f : Core → Core) : (s.modCore c f).rxParts = s.rxParts := rfl
@[simp] theorem State.modCore_upFails (s : State) (c : Nat) (f : Core → Core) : (s.modCore c f).upFails = s.upFails := rfl
@[simp] theorem State.modCore_upStops (s : State) (c : Nat) (f : Core → Core) : (s.modCore c f).upStops = s.upStops := rfl
@[simp] theorem State.modCore_top (s : State) (c : Nat) (f : Core → Core) : (s.modCore c f).top = s.top := rfl
@[simp] theorem State.modCore_msix (s : State) (c : Nat) (f : Core → Core) : (s.modCore c f).msix = s.msix := rfl
@[simp] theorem State.modCore_latch (s : State) (c : Nat) (f : Core → Core) : (s.modCore c f).latch = s.latch := rfl
@[simp] theorem State.modCore_bar2Wait (s : State) (c : Nat) (f : Core → Core) : (s.modCore c f).bar2Wait = s.bar2Wait := rfl
@[simp] theorem State.modCore_chanWait (s : State) (c : Nat) (f : Core → Core) : (s.modCore c f).chanWait = s.chanWait := rfl
@[simp] theorem State.modCore_out (s : State) (c : Nat) (f : Core → Core) : (s.modCore c f).out = s.out := rfl

/-! ## setHome -/

@[simp] theorem State.setHome_pending (s : State) (h : Nat) (k : Home) : (s.setHome h k).pending = s.pending := rfl
@[simp] theorem State.setHome_free (s : State) (h : Nat) (k : Home) : (s.setHome h k).free = s.free := rfl
@[simp] theorem State.setHome_now (s : State) (h : Nat) (k : Home) : (s.setHome h k).now = s.now := rfl
@[simp] theorem State.setHome_regs (s : State) (h : Nat) (k : Home) : (s.setHome h k).regs = s.regs := rfl
@[simp] theorem State.setHome_mem (s : State) (h : Nat) (k : Home) : (s.setHome h k).mem = s.mem := rfl
@[simp] theorem State.setHome_poison (s : State) (h : Nat) (k : Home) : (s.setHome h k).poison = s.poison := rfl
@[simp] theorem State.setHome_upsets (s : State) (h : Nat) (k : Home) : (s.setHome h k).upsets = s.upsets := rfl
@[simp] theorem State.setHome_junk (s : State) (h : Nat) (k : Home) : (s.setHome h k).junk = s.junk := rfl
@[simp] theorem State.setHome_hostMem (s : State) (h : Nat) (k : Home) : (s.setHome h k).hostMem = s.hostMem := rfl
@[simp] theorem State.setHome_pw (s : State) (h : Nat) (k : Home) : (s.setHome h k).pw = s.pw := rfl
@[simp] theorem State.setHome_boot (s : State) (h : Nat) (k : Home) : (s.setHome h k).boot = s.boot := rfl
@[simp] theorem State.setHome_cores (s : State) (h : Nat) (k : Home) : (s.setHome h k).cores = s.cores := rfl
@[simp] theorem State.setHome_fg (s : State) (h : Nat) (k : Home) : (s.setHome h k).fg = s.fg := rfl
@[simp] theorem State.setHome_sengs (s : State) (h : Nat) (k : Home) : (s.setHome h k).sengs = s.sengs := rfl
@[simp] theorem State.setHome_graphs (s : State) (h : Nat) (k : Home) : (s.setHome h k).graphs = s.graphs := rfl
@[simp] theorem State.setHome_chans (s : State) (h : Nat) (k : Home) : (s.setHome h k).chans = s.chans := rfl
@[simp] theorem State.setHome_modes (s : State) (h : Nat) (k : Home) : (s.setHome h k).modes = s.modes := rfl
@[simp] theorem State.setHome_tlb (s : State) (h : Nat) (k : Home) : (s.setHome h k).tlb = s.tlb := rfl
@[simp] theorem State.setHome_queues (s : State) (h : Nat) (k : Home) : (s.setHome h k).queues = s.queues := rfl
@[simp] theorem State.setHome_hostRr (s : State) (h : Nat) (k : Home) : (s.setHome h k).hostRr = s.hostRr := rfl
@[simp] theorem State.setHome_ras (s : State) (h : Nat) (k : Home) : (s.setHome h k).ras = s.ras := rfl
@[simp] theorem State.setHome_links (s : State) (h : Nat) (k : Home) : (s.setHome h k).links = s.links := rfl
@[simp] theorem State.setHome_serial (s : State) (h : Nat) (k : Home) : (s.setHome h k).serial = s.serial := rfl
@[simp] theorem State.setHome_servers (s : State) (h : Nat) (k : Home) : (s.setHome h k).servers = s.servers := rfl
@[simp] theorem State.setHome_units (s : State) (h : Nat) (k : Home) : (s.setHome h k).units = s.units := rfl
@[simp] theorem State.setHome_upk (s : State) (h : Nat) (k : Home) : (s.setHome h k).upk = s.upk := rfl
@[simp] theorem State.setHome_seqTx (s : State) (h : Nat) (k : Home) : (s.setHome h k).seqTx = s.seqTx := rfl
@[simp] theorem State.setHome_seqRx (s : State) (h : Nat) (k : Home) : (s.setHome h k).seqRx = s.seqRx := rfl
@[simp] theorem State.setHome_srcEpoch (s : State) (h : Nat) (k : Home) : (s.setHome h k).srcEpoch = s.srcEpoch := rfl
@[simp] theorem State.setHome_tables (s : State) (h : Nat) (k : Home) : (s.setHome h k).tables = s.tables := rfl
@[simp] theorem State.setHome_moves (s : State) (h : Nat) (k : Home) : (s.setHome h k).moves = s.moves := rfl
@[simp] theorem State.setHome_epWaits (s : State) (h : Nat) (k : Home) : (s.setHome h k).epWaits = s.epWaits := rfl
@[simp] theorem State.setHome_retired (s : State) (h : Nat) (k : Home) : (s.setHome h k).retired = s.retired := rfl
@[simp] theorem State.setHome_repair (s : State) (h : Nat) (k : Home) : (s.setHome h k).repair = s.repair := rfl
@[simp] theorem State.setHome_rowTrack (s : State) (h : Nat) (k : Home) : (s.setHome h k).rowTrack = s.rowTrack := rfl
@[simp] theorem State.setHome_cols (s : State) (h : Nat) (k : Home) : (s.setHome h k).cols = s.cols := rfl
@[simp] theorem State.setHome_disps (s : State) (h : Nat) (k : Home) : (s.setHome h k).disps = s.disps := rfl
@[simp] theorem State.setHome_colIn (s : State) (h : Nat) (k : Home) : (s.setHome h k).colIn = s.colIn := rfl
@[simp] theorem State.setHome_flowTx (s : State) (h : Nat) (k : Home) : (s.setHome h k).flowTx = s.flowTx := rfl
@[simp] theorem State.setHome_flowWait (s : State) (h : Nat) (k : Home) : (s.setHome h k).flowWait = s.flowWait := rfl
@[simp] theorem State.setHome_flowRx (s : State) (h : Nat) (k : Home) : (s.setHome h k).flowRx = s.flowRx := rfl
@[simp] theorem State.setHome_rxParts (s : State) (h : Nat) (k : Home) : (s.setHome h k).rxParts = s.rxParts := rfl
@[simp] theorem State.setHome_upFails (s : State) (h : Nat) (k : Home) : (s.setHome h k).upFails = s.upFails := rfl
@[simp] theorem State.setHome_upStops (s : State) (h : Nat) (k : Home) : (s.setHome h k).upStops = s.upStops := rfl
@[simp] theorem State.setHome_top (s : State) (h : Nat) (k : Home) : (s.setHome h k).top = s.top := rfl
@[simp] theorem State.setHome_msix (s : State) (h : Nat) (k : Home) : (s.setHome h k).msix = s.msix := rfl
@[simp] theorem State.setHome_latch (s : State) (h : Nat) (k : Home) : (s.setHome h k).latch = s.latch := rfl
@[simp] theorem State.setHome_bar2Wait (s : State) (h : Nat) (k : Home) : (s.setHome h k).bar2Wait = s.bar2Wait := rfl
@[simp] theorem State.setHome_chanWait (s : State) (h : Nat) (k : Home) : (s.setHome h k).chanWait = s.chanWait := rfl
@[simp] theorem State.setHome_out (s : State) (h : Nat) (k : Home) : (s.setHome h k).out = s.out := rfl

/-! ## modHome -/

@[simp] theorem State.modHome_pending (s : State) (h : Nat) (f : Home → Home) : (s.modHome h f).pending = s.pending := rfl
@[simp] theorem State.modHome_free (s : State) (h : Nat) (f : Home → Home) : (s.modHome h f).free = s.free := rfl
@[simp] theorem State.modHome_now (s : State) (h : Nat) (f : Home → Home) : (s.modHome h f).now = s.now := rfl
@[simp] theorem State.modHome_regs (s : State) (h : Nat) (f : Home → Home) : (s.modHome h f).regs = s.regs := rfl
@[simp] theorem State.modHome_mem (s : State) (h : Nat) (f : Home → Home) : (s.modHome h f).mem = s.mem := rfl
@[simp] theorem State.modHome_poison (s : State) (h : Nat) (f : Home → Home) : (s.modHome h f).poison = s.poison := rfl
@[simp] theorem State.modHome_upsets (s : State) (h : Nat) (f : Home → Home) : (s.modHome h f).upsets = s.upsets := rfl
@[simp] theorem State.modHome_junk (s : State) (h : Nat) (f : Home → Home) : (s.modHome h f).junk = s.junk := rfl
@[simp] theorem State.modHome_hostMem (s : State) (h : Nat) (f : Home → Home) : (s.modHome h f).hostMem = s.hostMem := rfl
@[simp] theorem State.modHome_pw (s : State) (h : Nat) (f : Home → Home) : (s.modHome h f).pw = s.pw := rfl
@[simp] theorem State.modHome_boot (s : State) (h : Nat) (f : Home → Home) : (s.modHome h f).boot = s.boot := rfl
@[simp] theorem State.modHome_cores (s : State) (h : Nat) (f : Home → Home) : (s.modHome h f).cores = s.cores := rfl
@[simp] theorem State.modHome_fg (s : State) (h : Nat) (f : Home → Home) : (s.modHome h f).fg = s.fg := rfl
@[simp] theorem State.modHome_sengs (s : State) (h : Nat) (f : Home → Home) : (s.modHome h f).sengs = s.sengs := rfl
@[simp] theorem State.modHome_graphs (s : State) (h : Nat) (f : Home → Home) : (s.modHome h f).graphs = s.graphs := rfl
@[simp] theorem State.modHome_chans (s : State) (h : Nat) (f : Home → Home) : (s.modHome h f).chans = s.chans := rfl
@[simp] theorem State.modHome_modes (s : State) (h : Nat) (f : Home → Home) : (s.modHome h f).modes = s.modes := rfl
@[simp] theorem State.modHome_tlb (s : State) (h : Nat) (f : Home → Home) : (s.modHome h f).tlb = s.tlb := rfl
@[simp] theorem State.modHome_queues (s : State) (h : Nat) (f : Home → Home) : (s.modHome h f).queues = s.queues := rfl
@[simp] theorem State.modHome_hostRr (s : State) (h : Nat) (f : Home → Home) : (s.modHome h f).hostRr = s.hostRr := rfl
@[simp] theorem State.modHome_ras (s : State) (h : Nat) (f : Home → Home) : (s.modHome h f).ras = s.ras := rfl
@[simp] theorem State.modHome_links (s : State) (h : Nat) (f : Home → Home) : (s.modHome h f).links = s.links := rfl
@[simp] theorem State.modHome_serial (s : State) (h : Nat) (f : Home → Home) : (s.modHome h f).serial = s.serial := rfl
@[simp] theorem State.modHome_servers (s : State) (h : Nat) (f : Home → Home) : (s.modHome h f).servers = s.servers := rfl
@[simp] theorem State.modHome_units (s : State) (h : Nat) (f : Home → Home) : (s.modHome h f).units = s.units := rfl
@[simp] theorem State.modHome_upk (s : State) (h : Nat) (f : Home → Home) : (s.modHome h f).upk = s.upk := rfl
@[simp] theorem State.modHome_seqTx (s : State) (h : Nat) (f : Home → Home) : (s.modHome h f).seqTx = s.seqTx := rfl
@[simp] theorem State.modHome_seqRx (s : State) (h : Nat) (f : Home → Home) : (s.modHome h f).seqRx = s.seqRx := rfl
@[simp] theorem State.modHome_srcEpoch (s : State) (h : Nat) (f : Home → Home) : (s.modHome h f).srcEpoch = s.srcEpoch := rfl
@[simp] theorem State.modHome_tables (s : State) (h : Nat) (f : Home → Home) : (s.modHome h f).tables = s.tables := rfl
@[simp] theorem State.modHome_moves (s : State) (h : Nat) (f : Home → Home) : (s.modHome h f).moves = s.moves := rfl
@[simp] theorem State.modHome_epWaits (s : State) (h : Nat) (f : Home → Home) : (s.modHome h f).epWaits = s.epWaits := rfl
@[simp] theorem State.modHome_retired (s : State) (h : Nat) (f : Home → Home) : (s.modHome h f).retired = s.retired := rfl
@[simp] theorem State.modHome_repair (s : State) (h : Nat) (f : Home → Home) : (s.modHome h f).repair = s.repair := rfl
@[simp] theorem State.modHome_rowTrack (s : State) (h : Nat) (f : Home → Home) : (s.modHome h f).rowTrack = s.rowTrack := rfl
@[simp] theorem State.modHome_cols (s : State) (h : Nat) (f : Home → Home) : (s.modHome h f).cols = s.cols := rfl
@[simp] theorem State.modHome_disps (s : State) (h : Nat) (f : Home → Home) : (s.modHome h f).disps = s.disps := rfl
@[simp] theorem State.modHome_colIn (s : State) (h : Nat) (f : Home → Home) : (s.modHome h f).colIn = s.colIn := rfl
@[simp] theorem State.modHome_flowTx (s : State) (h : Nat) (f : Home → Home) : (s.modHome h f).flowTx = s.flowTx := rfl
@[simp] theorem State.modHome_flowWait (s : State) (h : Nat) (f : Home → Home) : (s.modHome h f).flowWait = s.flowWait := rfl
@[simp] theorem State.modHome_flowRx (s : State) (h : Nat) (f : Home → Home) : (s.modHome h f).flowRx = s.flowRx := rfl
@[simp] theorem State.modHome_rxParts (s : State) (h : Nat) (f : Home → Home) : (s.modHome h f).rxParts = s.rxParts := rfl
@[simp] theorem State.modHome_upFails (s : State) (h : Nat) (f : Home → Home) : (s.modHome h f).upFails = s.upFails := rfl
@[simp] theorem State.modHome_upStops (s : State) (h : Nat) (f : Home → Home) : (s.modHome h f).upStops = s.upStops := rfl
@[simp] theorem State.modHome_top (s : State) (h : Nat) (f : Home → Home) : (s.modHome h f).top = s.top := rfl
@[simp] theorem State.modHome_msix (s : State) (h : Nat) (f : Home → Home) : (s.modHome h f).msix = s.msix := rfl
@[simp] theorem State.modHome_latch (s : State) (h : Nat) (f : Home → Home) : (s.modHome h f).latch = s.latch := rfl
@[simp] theorem State.modHome_bar2Wait (s : State) (h : Nat) (f : Home → Home) : (s.modHome h f).bar2Wait = s.bar2Wait := rfl
@[simp] theorem State.modHome_chanWait (s : State) (h : Nat) (f : Home → Home) : (s.modHome h f).chanWait = s.chanWait := rfl
@[simp] theorem State.modHome_out (s : State) (h : Nat) (f : Home → Home) : (s.modHome h f).out = s.out := rfl

/-! ## setChan -/

@[simp] theorem State.setChan_pending (s : State) (c : Nat) (k : Chan) : (s.setChan c k).pending = s.pending := rfl
@[simp] theorem State.setChan_free (s : State) (c : Nat) (k : Chan) : (s.setChan c k).free = s.free := rfl
@[simp] theorem State.setChan_now (s : State) (c : Nat) (k : Chan) : (s.setChan c k).now = s.now := rfl
@[simp] theorem State.setChan_regs (s : State) (c : Nat) (k : Chan) : (s.setChan c k).regs = s.regs := rfl
@[simp] theorem State.setChan_mem (s : State) (c : Nat) (k : Chan) : (s.setChan c k).mem = s.mem := rfl
@[simp] theorem State.setChan_poison (s : State) (c : Nat) (k : Chan) : (s.setChan c k).poison = s.poison := rfl
@[simp] theorem State.setChan_upsets (s : State) (c : Nat) (k : Chan) : (s.setChan c k).upsets = s.upsets := rfl
@[simp] theorem State.setChan_junk (s : State) (c : Nat) (k : Chan) : (s.setChan c k).junk = s.junk := rfl
@[simp] theorem State.setChan_hostMem (s : State) (c : Nat) (k : Chan) : (s.setChan c k).hostMem = s.hostMem := rfl
@[simp] theorem State.setChan_pw (s : State) (c : Nat) (k : Chan) : (s.setChan c k).pw = s.pw := rfl
@[simp] theorem State.setChan_boot (s : State) (c : Nat) (k : Chan) : (s.setChan c k).boot = s.boot := rfl
@[simp] theorem State.setChan_cores (s : State) (c : Nat) (k : Chan) : (s.setChan c k).cores = s.cores := rfl
@[simp] theorem State.setChan_homes (s : State) (c : Nat) (k : Chan) : (s.setChan c k).homes = s.homes := rfl
@[simp] theorem State.setChan_fg (s : State) (c : Nat) (k : Chan) : (s.setChan c k).fg = s.fg := rfl
@[simp] theorem State.setChan_sengs (s : State) (c : Nat) (k : Chan) : (s.setChan c k).sengs = s.sengs := rfl
@[simp] theorem State.setChan_graphs (s : State) (c : Nat) (k : Chan) : (s.setChan c k).graphs = s.graphs := rfl
@[simp] theorem State.setChan_modes (s : State) (c : Nat) (k : Chan) : (s.setChan c k).modes = s.modes := rfl
@[simp] theorem State.setChan_tlb (s : State) (c : Nat) (k : Chan) : (s.setChan c k).tlb = s.tlb := rfl
@[simp] theorem State.setChan_queues (s : State) (c : Nat) (k : Chan) : (s.setChan c k).queues = s.queues := rfl
@[simp] theorem State.setChan_hostRr (s : State) (c : Nat) (k : Chan) : (s.setChan c k).hostRr = s.hostRr := rfl
@[simp] theorem State.setChan_ras (s : State) (c : Nat) (k : Chan) : (s.setChan c k).ras = s.ras := rfl
@[simp] theorem State.setChan_links (s : State) (c : Nat) (k : Chan) : (s.setChan c k).links = s.links := rfl
@[simp] theorem State.setChan_serial (s : State) (c : Nat) (k : Chan) : (s.setChan c k).serial = s.serial := rfl
@[simp] theorem State.setChan_servers (s : State) (c : Nat) (k : Chan) : (s.setChan c k).servers = s.servers := rfl
@[simp] theorem State.setChan_units (s : State) (c : Nat) (k : Chan) : (s.setChan c k).units = s.units := rfl
@[simp] theorem State.setChan_upk (s : State) (c : Nat) (k : Chan) : (s.setChan c k).upk = s.upk := rfl
@[simp] theorem State.setChan_seqTx (s : State) (c : Nat) (k : Chan) : (s.setChan c k).seqTx = s.seqTx := rfl
@[simp] theorem State.setChan_seqRx (s : State) (c : Nat) (k : Chan) : (s.setChan c k).seqRx = s.seqRx := rfl
@[simp] theorem State.setChan_srcEpoch (s : State) (c : Nat) (k : Chan) : (s.setChan c k).srcEpoch = s.srcEpoch := rfl
@[simp] theorem State.setChan_tables (s : State) (c : Nat) (k : Chan) : (s.setChan c k).tables = s.tables := rfl
@[simp] theorem State.setChan_moves (s : State) (c : Nat) (k : Chan) : (s.setChan c k).moves = s.moves := rfl
@[simp] theorem State.setChan_epWaits (s : State) (c : Nat) (k : Chan) : (s.setChan c k).epWaits = s.epWaits := rfl
@[simp] theorem State.setChan_retired (s : State) (c : Nat) (k : Chan) : (s.setChan c k).retired = s.retired := rfl
@[simp] theorem State.setChan_repair (s : State) (c : Nat) (k : Chan) : (s.setChan c k).repair = s.repair := rfl
@[simp] theorem State.setChan_rowTrack (s : State) (c : Nat) (k : Chan) : (s.setChan c k).rowTrack = s.rowTrack := rfl
@[simp] theorem State.setChan_cols (s : State) (c : Nat) (k : Chan) : (s.setChan c k).cols = s.cols := rfl
@[simp] theorem State.setChan_disps (s : State) (c : Nat) (k : Chan) : (s.setChan c k).disps = s.disps := rfl
@[simp] theorem State.setChan_colIn (s : State) (c : Nat) (k : Chan) : (s.setChan c k).colIn = s.colIn := rfl
@[simp] theorem State.setChan_flowTx (s : State) (c : Nat) (k : Chan) : (s.setChan c k).flowTx = s.flowTx := rfl
@[simp] theorem State.setChan_flowWait (s : State) (c : Nat) (k : Chan) : (s.setChan c k).flowWait = s.flowWait := rfl
@[simp] theorem State.setChan_flowRx (s : State) (c : Nat) (k : Chan) : (s.setChan c k).flowRx = s.flowRx := rfl
@[simp] theorem State.setChan_rxParts (s : State) (c : Nat) (k : Chan) : (s.setChan c k).rxParts = s.rxParts := rfl
@[simp] theorem State.setChan_upFails (s : State) (c : Nat) (k : Chan) : (s.setChan c k).upFails = s.upFails := rfl
@[simp] theorem State.setChan_upStops (s : State) (c : Nat) (k : Chan) : (s.setChan c k).upStops = s.upStops := rfl
@[simp] theorem State.setChan_top (s : State) (c : Nat) (k : Chan) : (s.setChan c k).top = s.top := rfl
@[simp] theorem State.setChan_msix (s : State) (c : Nat) (k : Chan) : (s.setChan c k).msix = s.msix := rfl
@[simp] theorem State.setChan_latch (s : State) (c : Nat) (k : Chan) : (s.setChan c k).latch = s.latch := rfl
@[simp] theorem State.setChan_bar2Wait (s : State) (c : Nat) (k : Chan) : (s.setChan c k).bar2Wait = s.bar2Wait := rfl
@[simp] theorem State.setChan_chanWait (s : State) (c : Nat) (k : Chan) : (s.setChan c k).chanWait = s.chanWait := rfl
@[simp] theorem State.setChan_out (s : State) (c : Nat) (k : Chan) : (s.setChan c k).out = s.out := rfl

/-! ## setLink -/

@[simp] theorem State.setLink_pending (s : State) (l : Nat) (k : Link) : (s.setLink l k).pending = s.pending := rfl
@[simp] theorem State.setLink_free (s : State) (l : Nat) (k : Link) : (s.setLink l k).free = s.free := rfl
@[simp] theorem State.setLink_now (s : State) (l : Nat) (k : Link) : (s.setLink l k).now = s.now := rfl
@[simp] theorem State.setLink_regs (s : State) (l : Nat) (k : Link) : (s.setLink l k).regs = s.regs := rfl
@[simp] theorem State.setLink_mem (s : State) (l : Nat) (k : Link) : (s.setLink l k).mem = s.mem := rfl
@[simp] theorem State.setLink_poison (s : State) (l : Nat) (k : Link) : (s.setLink l k).poison = s.poison := rfl
@[simp] theorem State.setLink_upsets (s : State) (l : Nat) (k : Link) : (s.setLink l k).upsets = s.upsets := rfl
@[simp] theorem State.setLink_junk (s : State) (l : Nat) (k : Link) : (s.setLink l k).junk = s.junk := rfl
@[simp] theorem State.setLink_hostMem (s : State) (l : Nat) (k : Link) : (s.setLink l k).hostMem = s.hostMem := rfl
@[simp] theorem State.setLink_pw (s : State) (l : Nat) (k : Link) : (s.setLink l k).pw = s.pw := rfl
@[simp] theorem State.setLink_boot (s : State) (l : Nat) (k : Link) : (s.setLink l k).boot = s.boot := rfl
@[simp] theorem State.setLink_cores (s : State) (l : Nat) (k : Link) : (s.setLink l k).cores = s.cores := rfl
@[simp] theorem State.setLink_homes (s : State) (l : Nat) (k : Link) : (s.setLink l k).homes = s.homes := rfl
@[simp] theorem State.setLink_fg (s : State) (l : Nat) (k : Link) : (s.setLink l k).fg = s.fg := rfl
@[simp] theorem State.setLink_sengs (s : State) (l : Nat) (k : Link) : (s.setLink l k).sengs = s.sengs := rfl
@[simp] theorem State.setLink_graphs (s : State) (l : Nat) (k : Link) : (s.setLink l k).graphs = s.graphs := rfl
@[simp] theorem State.setLink_chans (s : State) (l : Nat) (k : Link) : (s.setLink l k).chans = s.chans := rfl
@[simp] theorem State.setLink_modes (s : State) (l : Nat) (k : Link) : (s.setLink l k).modes = s.modes := rfl
@[simp] theorem State.setLink_tlb (s : State) (l : Nat) (k : Link) : (s.setLink l k).tlb = s.tlb := rfl
@[simp] theorem State.setLink_queues (s : State) (l : Nat) (k : Link) : (s.setLink l k).queues = s.queues := rfl
@[simp] theorem State.setLink_hostRr (s : State) (l : Nat) (k : Link) : (s.setLink l k).hostRr = s.hostRr := rfl
@[simp] theorem State.setLink_ras (s : State) (l : Nat) (k : Link) : (s.setLink l k).ras = s.ras := rfl
@[simp] theorem State.setLink_serial (s : State) (l : Nat) (k : Link) : (s.setLink l k).serial = s.serial := rfl
@[simp] theorem State.setLink_servers (s : State) (l : Nat) (k : Link) : (s.setLink l k).servers = s.servers := rfl
@[simp] theorem State.setLink_units (s : State) (l : Nat) (k : Link) : (s.setLink l k).units = s.units := rfl
@[simp] theorem State.setLink_upk (s : State) (l : Nat) (k : Link) : (s.setLink l k).upk = s.upk := rfl
@[simp] theorem State.setLink_seqTx (s : State) (l : Nat) (k : Link) : (s.setLink l k).seqTx = s.seqTx := rfl
@[simp] theorem State.setLink_seqRx (s : State) (l : Nat) (k : Link) : (s.setLink l k).seqRx = s.seqRx := rfl
@[simp] theorem State.setLink_srcEpoch (s : State) (l : Nat) (k : Link) : (s.setLink l k).srcEpoch = s.srcEpoch := rfl
@[simp] theorem State.setLink_tables (s : State) (l : Nat) (k : Link) : (s.setLink l k).tables = s.tables := rfl
@[simp] theorem State.setLink_moves (s : State) (l : Nat) (k : Link) : (s.setLink l k).moves = s.moves := rfl
@[simp] theorem State.setLink_epWaits (s : State) (l : Nat) (k : Link) : (s.setLink l k).epWaits = s.epWaits := rfl
@[simp] theorem State.setLink_retired (s : State) (l : Nat) (k : Link) : (s.setLink l k).retired = s.retired := rfl
@[simp] theorem State.setLink_repair (s : State) (l : Nat) (k : Link) : (s.setLink l k).repair = s.repair := rfl
@[simp] theorem State.setLink_rowTrack (s : State) (l : Nat) (k : Link) : (s.setLink l k).rowTrack = s.rowTrack := rfl
@[simp] theorem State.setLink_cols (s : State) (l : Nat) (k : Link) : (s.setLink l k).cols = s.cols := rfl
@[simp] theorem State.setLink_disps (s : State) (l : Nat) (k : Link) : (s.setLink l k).disps = s.disps := rfl
@[simp] theorem State.setLink_colIn (s : State) (l : Nat) (k : Link) : (s.setLink l k).colIn = s.colIn := rfl
@[simp] theorem State.setLink_flowTx (s : State) (l : Nat) (k : Link) : (s.setLink l k).flowTx = s.flowTx := rfl
@[simp] theorem State.setLink_flowWait (s : State) (l : Nat) (k : Link) : (s.setLink l k).flowWait = s.flowWait := rfl
@[simp] theorem State.setLink_flowRx (s : State) (l : Nat) (k : Link) : (s.setLink l k).flowRx = s.flowRx := rfl
@[simp] theorem State.setLink_rxParts (s : State) (l : Nat) (k : Link) : (s.setLink l k).rxParts = s.rxParts := rfl
@[simp] theorem State.setLink_upFails (s : State) (l : Nat) (k : Link) : (s.setLink l k).upFails = s.upFails := rfl
@[simp] theorem State.setLink_upStops (s : State) (l : Nat) (k : Link) : (s.setLink l k).upStops = s.upStops := rfl
@[simp] theorem State.setLink_top (s : State) (l : Nat) (k : Link) : (s.setLink l k).top = s.top := rfl
@[simp] theorem State.setLink_msix (s : State) (l : Nat) (k : Link) : (s.setLink l k).msix = s.msix := rfl
@[simp] theorem State.setLink_latch (s : State) (l : Nat) (k : Link) : (s.setLink l k).latch = s.latch := rfl
@[simp] theorem State.setLink_bar2Wait (s : State) (l : Nat) (k : Link) : (s.setLink l k).bar2Wait = s.bar2Wait := rfl
@[simp] theorem State.setLink_chanWait (s : State) (l : Nat) (k : Link) : (s.setLink l k).chanWait = s.chanWait := rfl
@[simp] theorem State.setLink_out (s : State) (l : Nat) (k : Link) : (s.setLink l k).out = s.out := rfl

/-! ## modLink -/

@[simp] theorem State.modLink_pending (s : State) (l : Nat) (f : Link → Link) : (s.modLink l f).pending = s.pending := rfl
@[simp] theorem State.modLink_free (s : State) (l : Nat) (f : Link → Link) : (s.modLink l f).free = s.free := rfl
@[simp] theorem State.modLink_now (s : State) (l : Nat) (f : Link → Link) : (s.modLink l f).now = s.now := rfl
@[simp] theorem State.modLink_regs (s : State) (l : Nat) (f : Link → Link) : (s.modLink l f).regs = s.regs := rfl
@[simp] theorem State.modLink_mem (s : State) (l : Nat) (f : Link → Link) : (s.modLink l f).mem = s.mem := rfl
@[simp] theorem State.modLink_poison (s : State) (l : Nat) (f : Link → Link) : (s.modLink l f).poison = s.poison := rfl
@[simp] theorem State.modLink_upsets (s : State) (l : Nat) (f : Link → Link) : (s.modLink l f).upsets = s.upsets := rfl
@[simp] theorem State.modLink_junk (s : State) (l : Nat) (f : Link → Link) : (s.modLink l f).junk = s.junk := rfl
@[simp] theorem State.modLink_hostMem (s : State) (l : Nat) (f : Link → Link) : (s.modLink l f).hostMem = s.hostMem := rfl
@[simp] theorem State.modLink_pw (s : State) (l : Nat) (f : Link → Link) : (s.modLink l f).pw = s.pw := rfl
@[simp] theorem State.modLink_boot (s : State) (l : Nat) (f : Link → Link) : (s.modLink l f).boot = s.boot := rfl
@[simp] theorem State.modLink_cores (s : State) (l : Nat) (f : Link → Link) : (s.modLink l f).cores = s.cores := rfl
@[simp] theorem State.modLink_homes (s : State) (l : Nat) (f : Link → Link) : (s.modLink l f).homes = s.homes := rfl
@[simp] theorem State.modLink_fg (s : State) (l : Nat) (f : Link → Link) : (s.modLink l f).fg = s.fg := rfl
@[simp] theorem State.modLink_sengs (s : State) (l : Nat) (f : Link → Link) : (s.modLink l f).sengs = s.sengs := rfl
@[simp] theorem State.modLink_graphs (s : State) (l : Nat) (f : Link → Link) : (s.modLink l f).graphs = s.graphs := rfl
@[simp] theorem State.modLink_chans (s : State) (l : Nat) (f : Link → Link) : (s.modLink l f).chans = s.chans := rfl
@[simp] theorem State.modLink_modes (s : State) (l : Nat) (f : Link → Link) : (s.modLink l f).modes = s.modes := rfl
@[simp] theorem State.modLink_tlb (s : State) (l : Nat) (f : Link → Link) : (s.modLink l f).tlb = s.tlb := rfl
@[simp] theorem State.modLink_queues (s : State) (l : Nat) (f : Link → Link) : (s.modLink l f).queues = s.queues := rfl
@[simp] theorem State.modLink_hostRr (s : State) (l : Nat) (f : Link → Link) : (s.modLink l f).hostRr = s.hostRr := rfl
@[simp] theorem State.modLink_ras (s : State) (l : Nat) (f : Link → Link) : (s.modLink l f).ras = s.ras := rfl
@[simp] theorem State.modLink_serial (s : State) (l : Nat) (f : Link → Link) : (s.modLink l f).serial = s.serial := rfl
@[simp] theorem State.modLink_servers (s : State) (l : Nat) (f : Link → Link) : (s.modLink l f).servers = s.servers := rfl
@[simp] theorem State.modLink_units (s : State) (l : Nat) (f : Link → Link) : (s.modLink l f).units = s.units := rfl
@[simp] theorem State.modLink_upk (s : State) (l : Nat) (f : Link → Link) : (s.modLink l f).upk = s.upk := rfl
@[simp] theorem State.modLink_seqTx (s : State) (l : Nat) (f : Link → Link) : (s.modLink l f).seqTx = s.seqTx := rfl
@[simp] theorem State.modLink_seqRx (s : State) (l : Nat) (f : Link → Link) : (s.modLink l f).seqRx = s.seqRx := rfl
@[simp] theorem State.modLink_srcEpoch (s : State) (l : Nat) (f : Link → Link) : (s.modLink l f).srcEpoch = s.srcEpoch := rfl
@[simp] theorem State.modLink_tables (s : State) (l : Nat) (f : Link → Link) : (s.modLink l f).tables = s.tables := rfl
@[simp] theorem State.modLink_moves (s : State) (l : Nat) (f : Link → Link) : (s.modLink l f).moves = s.moves := rfl
@[simp] theorem State.modLink_epWaits (s : State) (l : Nat) (f : Link → Link) : (s.modLink l f).epWaits = s.epWaits := rfl
@[simp] theorem State.modLink_retired (s : State) (l : Nat) (f : Link → Link) : (s.modLink l f).retired = s.retired := rfl
@[simp] theorem State.modLink_repair (s : State) (l : Nat) (f : Link → Link) : (s.modLink l f).repair = s.repair := rfl
@[simp] theorem State.modLink_rowTrack (s : State) (l : Nat) (f : Link → Link) : (s.modLink l f).rowTrack = s.rowTrack := rfl
@[simp] theorem State.modLink_cols (s : State) (l : Nat) (f : Link → Link) : (s.modLink l f).cols = s.cols := rfl
@[simp] theorem State.modLink_disps (s : State) (l : Nat) (f : Link → Link) : (s.modLink l f).disps = s.disps := rfl
@[simp] theorem State.modLink_colIn (s : State) (l : Nat) (f : Link → Link) : (s.modLink l f).colIn = s.colIn := rfl
@[simp] theorem State.modLink_flowTx (s : State) (l : Nat) (f : Link → Link) : (s.modLink l f).flowTx = s.flowTx := rfl
@[simp] theorem State.modLink_flowWait (s : State) (l : Nat) (f : Link → Link) : (s.modLink l f).flowWait = s.flowWait := rfl
@[simp] theorem State.modLink_flowRx (s : State) (l : Nat) (f : Link → Link) : (s.modLink l f).flowRx = s.flowRx := rfl
@[simp] theorem State.modLink_rxParts (s : State) (l : Nat) (f : Link → Link) : (s.modLink l f).rxParts = s.rxParts := rfl
@[simp] theorem State.modLink_upFails (s : State) (l : Nat) (f : Link → Link) : (s.modLink l f).upFails = s.upFails := rfl
@[simp] theorem State.modLink_upStops (s : State) (l : Nat) (f : Link → Link) : (s.modLink l f).upStops = s.upStops := rfl
@[simp] theorem State.modLink_top (s : State) (l : Nat) (f : Link → Link) : (s.modLink l f).top = s.top := rfl
@[simp] theorem State.modLink_msix (s : State) (l : Nat) (f : Link → Link) : (s.modLink l f).msix = s.msix := rfl
@[simp] theorem State.modLink_latch (s : State) (l : Nat) (f : Link → Link) : (s.modLink l f).latch = s.latch := rfl
@[simp] theorem State.modLink_bar2Wait (s : State) (l : Nat) (f : Link → Link) : (s.modLink l f).bar2Wait = s.bar2Wait := rfl
@[simp] theorem State.modLink_chanWait (s : State) (l : Nat) (f : Link → Link) : (s.modLink l f).chanWait = s.chanWait := rfl
@[simp] theorem State.modLink_out (s : State) (l : Nat) (f : Link → Link) : (s.modLink l f).out = s.out := rfl

/-! ## setSeng -/

@[simp] theorem State.setSeng_pending (s : State) (e : Nat) (k : SEng) : (s.setSeng e k).pending = s.pending := rfl
@[simp] theorem State.setSeng_free (s : State) (e : Nat) (k : SEng) : (s.setSeng e k).free = s.free := rfl
@[simp] theorem State.setSeng_now (s : State) (e : Nat) (k : SEng) : (s.setSeng e k).now = s.now := rfl
@[simp] theorem State.setSeng_regs (s : State) (e : Nat) (k : SEng) : (s.setSeng e k).regs = s.regs := rfl
@[simp] theorem State.setSeng_mem (s : State) (e : Nat) (k : SEng) : (s.setSeng e k).mem = s.mem := rfl
@[simp] theorem State.setSeng_poison (s : State) (e : Nat) (k : SEng) : (s.setSeng e k).poison = s.poison := rfl
@[simp] theorem State.setSeng_upsets (s : State) (e : Nat) (k : SEng) : (s.setSeng e k).upsets = s.upsets := rfl
@[simp] theorem State.setSeng_junk (s : State) (e : Nat) (k : SEng) : (s.setSeng e k).junk = s.junk := rfl
@[simp] theorem State.setSeng_hostMem (s : State) (e : Nat) (k : SEng) : (s.setSeng e k).hostMem = s.hostMem := rfl
@[simp] theorem State.setSeng_pw (s : State) (e : Nat) (k : SEng) : (s.setSeng e k).pw = s.pw := rfl
@[simp] theorem State.setSeng_boot (s : State) (e : Nat) (k : SEng) : (s.setSeng e k).boot = s.boot := rfl
@[simp] theorem State.setSeng_cores (s : State) (e : Nat) (k : SEng) : (s.setSeng e k).cores = s.cores := rfl
@[simp] theorem State.setSeng_homes (s : State) (e : Nat) (k : SEng) : (s.setSeng e k).homes = s.homes := rfl
@[simp] theorem State.setSeng_fg (s : State) (e : Nat) (k : SEng) : (s.setSeng e k).fg = s.fg := rfl
@[simp] theorem State.setSeng_graphs (s : State) (e : Nat) (k : SEng) : (s.setSeng e k).graphs = s.graphs := rfl
@[simp] theorem State.setSeng_chans (s : State) (e : Nat) (k : SEng) : (s.setSeng e k).chans = s.chans := rfl
@[simp] theorem State.setSeng_modes (s : State) (e : Nat) (k : SEng) : (s.setSeng e k).modes = s.modes := rfl
@[simp] theorem State.setSeng_tlb (s : State) (e : Nat) (k : SEng) : (s.setSeng e k).tlb = s.tlb := rfl
@[simp] theorem State.setSeng_queues (s : State) (e : Nat) (k : SEng) : (s.setSeng e k).queues = s.queues := rfl
@[simp] theorem State.setSeng_hostRr (s : State) (e : Nat) (k : SEng) : (s.setSeng e k).hostRr = s.hostRr := rfl
@[simp] theorem State.setSeng_ras (s : State) (e : Nat) (k : SEng) : (s.setSeng e k).ras = s.ras := rfl
@[simp] theorem State.setSeng_links (s : State) (e : Nat) (k : SEng) : (s.setSeng e k).links = s.links := rfl
@[simp] theorem State.setSeng_serial (s : State) (e : Nat) (k : SEng) : (s.setSeng e k).serial = s.serial := rfl
@[simp] theorem State.setSeng_servers (s : State) (e : Nat) (k : SEng) : (s.setSeng e k).servers = s.servers := rfl
@[simp] theorem State.setSeng_units (s : State) (e : Nat) (k : SEng) : (s.setSeng e k).units = s.units := rfl
@[simp] theorem State.setSeng_upk (s : State) (e : Nat) (k : SEng) : (s.setSeng e k).upk = s.upk := rfl
@[simp] theorem State.setSeng_seqTx (s : State) (e : Nat) (k : SEng) : (s.setSeng e k).seqTx = s.seqTx := rfl
@[simp] theorem State.setSeng_seqRx (s : State) (e : Nat) (k : SEng) : (s.setSeng e k).seqRx = s.seqRx := rfl
@[simp] theorem State.setSeng_srcEpoch (s : State) (e : Nat) (k : SEng) : (s.setSeng e k).srcEpoch = s.srcEpoch := rfl
@[simp] theorem State.setSeng_tables (s : State) (e : Nat) (k : SEng) : (s.setSeng e k).tables = s.tables := rfl
@[simp] theorem State.setSeng_moves (s : State) (e : Nat) (k : SEng) : (s.setSeng e k).moves = s.moves := rfl
@[simp] theorem State.setSeng_epWaits (s : State) (e : Nat) (k : SEng) : (s.setSeng e k).epWaits = s.epWaits := rfl
@[simp] theorem State.setSeng_retired (s : State) (e : Nat) (k : SEng) : (s.setSeng e k).retired = s.retired := rfl
@[simp] theorem State.setSeng_repair (s : State) (e : Nat) (k : SEng) : (s.setSeng e k).repair = s.repair := rfl
@[simp] theorem State.setSeng_rowTrack (s : State) (e : Nat) (k : SEng) : (s.setSeng e k).rowTrack = s.rowTrack := rfl
@[simp] theorem State.setSeng_cols (s : State) (e : Nat) (k : SEng) : (s.setSeng e k).cols = s.cols := rfl
@[simp] theorem State.setSeng_disps (s : State) (e : Nat) (k : SEng) : (s.setSeng e k).disps = s.disps := rfl
@[simp] theorem State.setSeng_colIn (s : State) (e : Nat) (k : SEng) : (s.setSeng e k).colIn = s.colIn := rfl
@[simp] theorem State.setSeng_flowTx (s : State) (e : Nat) (k : SEng) : (s.setSeng e k).flowTx = s.flowTx := rfl
@[simp] theorem State.setSeng_flowWait (s : State) (e : Nat) (k : SEng) : (s.setSeng e k).flowWait = s.flowWait := rfl
@[simp] theorem State.setSeng_flowRx (s : State) (e : Nat) (k : SEng) : (s.setSeng e k).flowRx = s.flowRx := rfl
@[simp] theorem State.setSeng_rxParts (s : State) (e : Nat) (k : SEng) : (s.setSeng e k).rxParts = s.rxParts := rfl
@[simp] theorem State.setSeng_upFails (s : State) (e : Nat) (k : SEng) : (s.setSeng e k).upFails = s.upFails := rfl
@[simp] theorem State.setSeng_upStops (s : State) (e : Nat) (k : SEng) : (s.setSeng e k).upStops = s.upStops := rfl
@[simp] theorem State.setSeng_top (s : State) (e : Nat) (k : SEng) : (s.setSeng e k).top = s.top := rfl
@[simp] theorem State.setSeng_msix (s : State) (e : Nat) (k : SEng) : (s.setSeng e k).msix = s.msix := rfl
@[simp] theorem State.setSeng_latch (s : State) (e : Nat) (k : SEng) : (s.setSeng e k).latch = s.latch := rfl
@[simp] theorem State.setSeng_bar2Wait (s : State) (e : Nat) (k : SEng) : (s.setSeng e k).bar2Wait = s.bar2Wait := rfl
@[simp] theorem State.setSeng_chanWait (s : State) (e : Nat) (k : SEng) : (s.setSeng e k).chanWait = s.chanWait := rfl
@[simp] theorem State.setSeng_out (s : State) (e : Nat) (k : SEng) : (s.setSeng e k).out = s.out := rfl

/-! ## setHostQ -/

@[simp] theorem State.setHostQ_pending (s : State) (q : Nat) (k : HostQ) : (s.setHostQ q k).pending = s.pending := rfl
@[simp] theorem State.setHostQ_free (s : State) (q : Nat) (k : HostQ) : (s.setHostQ q k).free = s.free := rfl
@[simp] theorem State.setHostQ_now (s : State) (q : Nat) (k : HostQ) : (s.setHostQ q k).now = s.now := rfl
@[simp] theorem State.setHostQ_regs (s : State) (q : Nat) (k : HostQ) : (s.setHostQ q k).regs = s.regs := rfl
@[simp] theorem State.setHostQ_mem (s : State) (q : Nat) (k : HostQ) : (s.setHostQ q k).mem = s.mem := rfl
@[simp] theorem State.setHostQ_poison (s : State) (q : Nat) (k : HostQ) : (s.setHostQ q k).poison = s.poison := rfl
@[simp] theorem State.setHostQ_upsets (s : State) (q : Nat) (k : HostQ) : (s.setHostQ q k).upsets = s.upsets := rfl
@[simp] theorem State.setHostQ_junk (s : State) (q : Nat) (k : HostQ) : (s.setHostQ q k).junk = s.junk := rfl
@[simp] theorem State.setHostQ_hostMem (s : State) (q : Nat) (k : HostQ) : (s.setHostQ q k).hostMem = s.hostMem := rfl
@[simp] theorem State.setHostQ_pw (s : State) (q : Nat) (k : HostQ) : (s.setHostQ q k).pw = s.pw := rfl
@[simp] theorem State.setHostQ_boot (s : State) (q : Nat) (k : HostQ) : (s.setHostQ q k).boot = s.boot := rfl
@[simp] theorem State.setHostQ_cores (s : State) (q : Nat) (k : HostQ) : (s.setHostQ q k).cores = s.cores := rfl
@[simp] theorem State.setHostQ_homes (s : State) (q : Nat) (k : HostQ) : (s.setHostQ q k).homes = s.homes := rfl
@[simp] theorem State.setHostQ_fg (s : State) (q : Nat) (k : HostQ) : (s.setHostQ q k).fg = s.fg := rfl
@[simp] theorem State.setHostQ_sengs (s : State) (q : Nat) (k : HostQ) : (s.setHostQ q k).sengs = s.sengs := rfl
@[simp] theorem State.setHostQ_graphs (s : State) (q : Nat) (k : HostQ) : (s.setHostQ q k).graphs = s.graphs := rfl
@[simp] theorem State.setHostQ_chans (s : State) (q : Nat) (k : HostQ) : (s.setHostQ q k).chans = s.chans := rfl
@[simp] theorem State.setHostQ_modes (s : State) (q : Nat) (k : HostQ) : (s.setHostQ q k).modes = s.modes := rfl
@[simp] theorem State.setHostQ_tlb (s : State) (q : Nat) (k : HostQ) : (s.setHostQ q k).tlb = s.tlb := rfl
@[simp] theorem State.setHostQ_hostRr (s : State) (q : Nat) (k : HostQ) : (s.setHostQ q k).hostRr = s.hostRr := rfl
@[simp] theorem State.setHostQ_ras (s : State) (q : Nat) (k : HostQ) : (s.setHostQ q k).ras = s.ras := rfl
@[simp] theorem State.setHostQ_links (s : State) (q : Nat) (k : HostQ) : (s.setHostQ q k).links = s.links := rfl
@[simp] theorem State.setHostQ_serial (s : State) (q : Nat) (k : HostQ) : (s.setHostQ q k).serial = s.serial := rfl
@[simp] theorem State.setHostQ_servers (s : State) (q : Nat) (k : HostQ) : (s.setHostQ q k).servers = s.servers := rfl
@[simp] theorem State.setHostQ_units (s : State) (q : Nat) (k : HostQ) : (s.setHostQ q k).units = s.units := rfl
@[simp] theorem State.setHostQ_upk (s : State) (q : Nat) (k : HostQ) : (s.setHostQ q k).upk = s.upk := rfl
@[simp] theorem State.setHostQ_seqTx (s : State) (q : Nat) (k : HostQ) : (s.setHostQ q k).seqTx = s.seqTx := rfl
@[simp] theorem State.setHostQ_seqRx (s : State) (q : Nat) (k : HostQ) : (s.setHostQ q k).seqRx = s.seqRx := rfl
@[simp] theorem State.setHostQ_srcEpoch (s : State) (q : Nat) (k : HostQ) : (s.setHostQ q k).srcEpoch = s.srcEpoch := rfl
@[simp] theorem State.setHostQ_tables (s : State) (q : Nat) (k : HostQ) : (s.setHostQ q k).tables = s.tables := rfl
@[simp] theorem State.setHostQ_moves (s : State) (q : Nat) (k : HostQ) : (s.setHostQ q k).moves = s.moves := rfl
@[simp] theorem State.setHostQ_epWaits (s : State) (q : Nat) (k : HostQ) : (s.setHostQ q k).epWaits = s.epWaits := rfl
@[simp] theorem State.setHostQ_retired (s : State) (q : Nat) (k : HostQ) : (s.setHostQ q k).retired = s.retired := rfl
@[simp] theorem State.setHostQ_repair (s : State) (q : Nat) (k : HostQ) : (s.setHostQ q k).repair = s.repair := rfl
@[simp] theorem State.setHostQ_rowTrack (s : State) (q : Nat) (k : HostQ) : (s.setHostQ q k).rowTrack = s.rowTrack := rfl
@[simp] theorem State.setHostQ_cols (s : State) (q : Nat) (k : HostQ) : (s.setHostQ q k).cols = s.cols := rfl
@[simp] theorem State.setHostQ_disps (s : State) (q : Nat) (k : HostQ) : (s.setHostQ q k).disps = s.disps := rfl
@[simp] theorem State.setHostQ_colIn (s : State) (q : Nat) (k : HostQ) : (s.setHostQ q k).colIn = s.colIn := rfl
@[simp] theorem State.setHostQ_flowTx (s : State) (q : Nat) (k : HostQ) : (s.setHostQ q k).flowTx = s.flowTx := rfl
@[simp] theorem State.setHostQ_flowWait (s : State) (q : Nat) (k : HostQ) : (s.setHostQ q k).flowWait = s.flowWait := rfl
@[simp] theorem State.setHostQ_flowRx (s : State) (q : Nat) (k : HostQ) : (s.setHostQ q k).flowRx = s.flowRx := rfl
@[simp] theorem State.setHostQ_rxParts (s : State) (q : Nat) (k : HostQ) : (s.setHostQ q k).rxParts = s.rxParts := rfl
@[simp] theorem State.setHostQ_upFails (s : State) (q : Nat) (k : HostQ) : (s.setHostQ q k).upFails = s.upFails := rfl
@[simp] theorem State.setHostQ_upStops (s : State) (q : Nat) (k : HostQ) : (s.setHostQ q k).upStops = s.upStops := rfl
@[simp] theorem State.setHostQ_top (s : State) (q : Nat) (k : HostQ) : (s.setHostQ q k).top = s.top := rfl
@[simp] theorem State.setHostQ_msix (s : State) (q : Nat) (k : HostQ) : (s.setHostQ q k).msix = s.msix := rfl
@[simp] theorem State.setHostQ_latch (s : State) (q : Nat) (k : HostQ) : (s.setHostQ q k).latch = s.latch := rfl
@[simp] theorem State.setHostQ_bar2Wait (s : State) (q : Nat) (k : HostQ) : (s.setHostQ q k).bar2Wait = s.bar2Wait := rfl
@[simp] theorem State.setHostQ_chanWait (s : State) (q : Nat) (k : HostQ) : (s.setHostQ q k).chanWait = s.chanWait := rfl
@[simp] theorem State.setHostQ_out (s : State) (q : Nat) (k : HostQ) : (s.setHostQ q k).out = s.out := rfl

/-! ## emit -/

@[simp] theorem State.emit_pending (s : State) (o : Output) : (s.emit o).pending = s.pending := rfl
@[simp] theorem State.emit_free (s : State) (o : Output) : (s.emit o).free = s.free := rfl
@[simp] theorem State.emit_now (s : State) (o : Output) : (s.emit o).now = s.now := rfl
@[simp] theorem State.emit_regs (s : State) (o : Output) : (s.emit o).regs = s.regs := rfl
@[simp] theorem State.emit_mem (s : State) (o : Output) : (s.emit o).mem = s.mem := rfl
@[simp] theorem State.emit_poison (s : State) (o : Output) : (s.emit o).poison = s.poison := rfl
@[simp] theorem State.emit_upsets (s : State) (o : Output) : (s.emit o).upsets = s.upsets := rfl
@[simp] theorem State.emit_junk (s : State) (o : Output) : (s.emit o).junk = s.junk := rfl
@[simp] theorem State.emit_hostMem (s : State) (o : Output) : (s.emit o).hostMem = s.hostMem := rfl
@[simp] theorem State.emit_pw (s : State) (o : Output) : (s.emit o).pw = s.pw := rfl
@[simp] theorem State.emit_boot (s : State) (o : Output) : (s.emit o).boot = s.boot := rfl
@[simp] theorem State.emit_cores (s : State) (o : Output) : (s.emit o).cores = s.cores := rfl
@[simp] theorem State.emit_homes (s : State) (o : Output) : (s.emit o).homes = s.homes := rfl
@[simp] theorem State.emit_fg (s : State) (o : Output) : (s.emit o).fg = s.fg := rfl
@[simp] theorem State.emit_sengs (s : State) (o : Output) : (s.emit o).sengs = s.sengs := rfl
@[simp] theorem State.emit_graphs (s : State) (o : Output) : (s.emit o).graphs = s.graphs := rfl
@[simp] theorem State.emit_chans (s : State) (o : Output) : (s.emit o).chans = s.chans := rfl
@[simp] theorem State.emit_modes (s : State) (o : Output) : (s.emit o).modes = s.modes := rfl
@[simp] theorem State.emit_tlb (s : State) (o : Output) : (s.emit o).tlb = s.tlb := rfl
@[simp] theorem State.emit_queues (s : State) (o : Output) : (s.emit o).queues = s.queues := rfl
@[simp] theorem State.emit_hostRr (s : State) (o : Output) : (s.emit o).hostRr = s.hostRr := rfl
@[simp] theorem State.emit_ras (s : State) (o : Output) : (s.emit o).ras = s.ras := rfl
@[simp] theorem State.emit_links (s : State) (o : Output) : (s.emit o).links = s.links := rfl
@[simp] theorem State.emit_serial (s : State) (o : Output) : (s.emit o).serial = s.serial := rfl
@[simp] theorem State.emit_servers (s : State) (o : Output) : (s.emit o).servers = s.servers := rfl
@[simp] theorem State.emit_units (s : State) (o : Output) : (s.emit o).units = s.units := rfl
@[simp] theorem State.emit_upk (s : State) (o : Output) : (s.emit o).upk = s.upk := rfl
@[simp] theorem State.emit_seqTx (s : State) (o : Output) : (s.emit o).seqTx = s.seqTx := rfl
@[simp] theorem State.emit_seqRx (s : State) (o : Output) : (s.emit o).seqRx = s.seqRx := rfl
@[simp] theorem State.emit_srcEpoch (s : State) (o : Output) : (s.emit o).srcEpoch = s.srcEpoch := rfl
@[simp] theorem State.emit_tables (s : State) (o : Output) : (s.emit o).tables = s.tables := rfl
@[simp] theorem State.emit_moves (s : State) (o : Output) : (s.emit o).moves = s.moves := rfl
@[simp] theorem State.emit_epWaits (s : State) (o : Output) : (s.emit o).epWaits = s.epWaits := rfl
@[simp] theorem State.emit_retired (s : State) (o : Output) : (s.emit o).retired = s.retired := rfl
@[simp] theorem State.emit_repair (s : State) (o : Output) : (s.emit o).repair = s.repair := rfl
@[simp] theorem State.emit_rowTrack (s : State) (o : Output) : (s.emit o).rowTrack = s.rowTrack := rfl
@[simp] theorem State.emit_cols (s : State) (o : Output) : (s.emit o).cols = s.cols := rfl
@[simp] theorem State.emit_disps (s : State) (o : Output) : (s.emit o).disps = s.disps := rfl
@[simp] theorem State.emit_colIn (s : State) (o : Output) : (s.emit o).colIn = s.colIn := rfl
@[simp] theorem State.emit_flowTx (s : State) (o : Output) : (s.emit o).flowTx = s.flowTx := rfl
@[simp] theorem State.emit_flowWait (s : State) (o : Output) : (s.emit o).flowWait = s.flowWait := rfl
@[simp] theorem State.emit_flowRx (s : State) (o : Output) : (s.emit o).flowRx = s.flowRx := rfl
@[simp] theorem State.emit_rxParts (s : State) (o : Output) : (s.emit o).rxParts = s.rxParts := rfl
@[simp] theorem State.emit_upFails (s : State) (o : Output) : (s.emit o).upFails = s.upFails := rfl
@[simp] theorem State.emit_upStops (s : State) (o : Output) : (s.emit o).upStops = s.upStops := rfl
@[simp] theorem State.emit_top (s : State) (o : Output) : (s.emit o).top = s.top := rfl
@[simp] theorem State.emit_msix (s : State) (o : Output) : (s.emit o).msix = s.msix := rfl
@[simp] theorem State.emit_latch (s : State) (o : Output) : (s.emit o).latch = s.latch := rfl
@[simp] theorem State.emit_bar2Wait (s : State) (o : Output) : (s.emit o).bar2Wait = s.bar2Wait := rfl
@[simp] theorem State.emit_chanWait (s : State) (o : Output) : (s.emit o).chanWait = s.chanWait := rfl

/-! ## setServer -/

@[simp] theorem State.setServer_pending (s : State) (x : Nat) (v : Server) : (s.setServer x v).pending = s.pending := rfl
@[simp] theorem State.setServer_free (s : State) (x : Nat) (v : Server) : (s.setServer x v).free = s.free := rfl
@[simp] theorem State.setServer_now (s : State) (x : Nat) (v : Server) : (s.setServer x v).now = s.now := rfl
@[simp] theorem State.setServer_regs (s : State) (x : Nat) (v : Server) : (s.setServer x v).regs = s.regs := rfl
@[simp] theorem State.setServer_mem (s : State) (x : Nat) (v : Server) : (s.setServer x v).mem = s.mem := rfl
@[simp] theorem State.setServer_poison (s : State) (x : Nat) (v : Server) : (s.setServer x v).poison = s.poison := rfl
@[simp] theorem State.setServer_upsets (s : State) (x : Nat) (v : Server) : (s.setServer x v).upsets = s.upsets := rfl
@[simp] theorem State.setServer_junk (s : State) (x : Nat) (v : Server) : (s.setServer x v).junk = s.junk := rfl
@[simp] theorem State.setServer_hostMem (s : State) (x : Nat) (v : Server) : (s.setServer x v).hostMem = s.hostMem := rfl
@[simp] theorem State.setServer_pw (s : State) (x : Nat) (v : Server) : (s.setServer x v).pw = s.pw := rfl
@[simp] theorem State.setServer_boot (s : State) (x : Nat) (v : Server) : (s.setServer x v).boot = s.boot := rfl
@[simp] theorem State.setServer_cores (s : State) (x : Nat) (v : Server) : (s.setServer x v).cores = s.cores := rfl
@[simp] theorem State.setServer_homes (s : State) (x : Nat) (v : Server) : (s.setServer x v).homes = s.homes := rfl
@[simp] theorem State.setServer_fg (s : State) (x : Nat) (v : Server) : (s.setServer x v).fg = s.fg := rfl
@[simp] theorem State.setServer_sengs (s : State) (x : Nat) (v : Server) : (s.setServer x v).sengs = s.sengs := rfl
@[simp] theorem State.setServer_graphs (s : State) (x : Nat) (v : Server) : (s.setServer x v).graphs = s.graphs := rfl
@[simp] theorem State.setServer_chans (s : State) (x : Nat) (v : Server) : (s.setServer x v).chans = s.chans := rfl
@[simp] theorem State.setServer_modes (s : State) (x : Nat) (v : Server) : (s.setServer x v).modes = s.modes := rfl
@[simp] theorem State.setServer_tlb (s : State) (x : Nat) (v : Server) : (s.setServer x v).tlb = s.tlb := rfl
@[simp] theorem State.setServer_queues (s : State) (x : Nat) (v : Server) : (s.setServer x v).queues = s.queues := rfl
@[simp] theorem State.setServer_hostRr (s : State) (x : Nat) (v : Server) : (s.setServer x v).hostRr = s.hostRr := rfl
@[simp] theorem State.setServer_ras (s : State) (x : Nat) (v : Server) : (s.setServer x v).ras = s.ras := rfl
@[simp] theorem State.setServer_links (s : State) (x : Nat) (v : Server) : (s.setServer x v).links = s.links := rfl
@[simp] theorem State.setServer_serial (s : State) (x : Nat) (v : Server) : (s.setServer x v).serial = s.serial := rfl
@[simp] theorem State.setServer_units (s : State) (x : Nat) (v : Server) : (s.setServer x v).units = s.units := rfl
@[simp] theorem State.setServer_upk (s : State) (x : Nat) (v : Server) : (s.setServer x v).upk = s.upk := rfl
@[simp] theorem State.setServer_seqTx (s : State) (x : Nat) (v : Server) : (s.setServer x v).seqTx = s.seqTx := rfl
@[simp] theorem State.setServer_seqRx (s : State) (x : Nat) (v : Server) : (s.setServer x v).seqRx = s.seqRx := rfl
@[simp] theorem State.setServer_srcEpoch (s : State) (x : Nat) (v : Server) : (s.setServer x v).srcEpoch = s.srcEpoch := rfl
@[simp] theorem State.setServer_tables (s : State) (x : Nat) (v : Server) : (s.setServer x v).tables = s.tables := rfl
@[simp] theorem State.setServer_moves (s : State) (x : Nat) (v : Server) : (s.setServer x v).moves = s.moves := rfl
@[simp] theorem State.setServer_epWaits (s : State) (x : Nat) (v : Server) : (s.setServer x v).epWaits = s.epWaits := rfl
@[simp] theorem State.setServer_retired (s : State) (x : Nat) (v : Server) : (s.setServer x v).retired = s.retired := rfl
@[simp] theorem State.setServer_repair (s : State) (x : Nat) (v : Server) : (s.setServer x v).repair = s.repair := rfl
@[simp] theorem State.setServer_rowTrack (s : State) (x : Nat) (v : Server) : (s.setServer x v).rowTrack = s.rowTrack := rfl
@[simp] theorem State.setServer_cols (s : State) (x : Nat) (v : Server) : (s.setServer x v).cols = s.cols := rfl
@[simp] theorem State.setServer_disps (s : State) (x : Nat) (v : Server) : (s.setServer x v).disps = s.disps := rfl
@[simp] theorem State.setServer_colIn (s : State) (x : Nat) (v : Server) : (s.setServer x v).colIn = s.colIn := rfl
@[simp] theorem State.setServer_flowTx (s : State) (x : Nat) (v : Server) : (s.setServer x v).flowTx = s.flowTx := rfl
@[simp] theorem State.setServer_flowWait (s : State) (x : Nat) (v : Server) : (s.setServer x v).flowWait = s.flowWait := rfl
@[simp] theorem State.setServer_flowRx (s : State) (x : Nat) (v : Server) : (s.setServer x v).flowRx = s.flowRx := rfl
@[simp] theorem State.setServer_rxParts (s : State) (x : Nat) (v : Server) : (s.setServer x v).rxParts = s.rxParts := rfl
@[simp] theorem State.setServer_upFails (s : State) (x : Nat) (v : Server) : (s.setServer x v).upFails = s.upFails := rfl
@[simp] theorem State.setServer_upStops (s : State) (x : Nat) (v : Server) : (s.setServer x v).upStops = s.upStops := rfl
@[simp] theorem State.setServer_top (s : State) (x : Nat) (v : Server) : (s.setServer x v).top = s.top := rfl
@[simp] theorem State.setServer_msix (s : State) (x : Nat) (v : Server) : (s.setServer x v).msix = s.msix := rfl
@[simp] theorem State.setServer_latch (s : State) (x : Nat) (v : Server) : (s.setServer x v).latch = s.latch := rfl
@[simp] theorem State.setServer_bar2Wait (s : State) (x : Nat) (v : Server) : (s.setServer x v).bar2Wait = s.bar2Wait := rfl
@[simp] theorem State.setServer_chanWait (s : State) (x : Nat) (v : Server) : (s.setServer x v).chanWait = s.chanWait := rfl
@[simp] theorem State.setServer_out (s : State) (x : Nat) (v : Server) : (s.setServer x v).out = s.out := rfl

/-! ## modServer -/

@[simp] theorem State.modServer_pending (s : State) (x : Nat) (f : Server → Server) : (s.modServer x f).pending = s.pending := rfl
@[simp] theorem State.modServer_free (s : State) (x : Nat) (f : Server → Server) : (s.modServer x f).free = s.free := rfl
@[simp] theorem State.modServer_now (s : State) (x : Nat) (f : Server → Server) : (s.modServer x f).now = s.now := rfl
@[simp] theorem State.modServer_regs (s : State) (x : Nat) (f : Server → Server) : (s.modServer x f).regs = s.regs := rfl
@[simp] theorem State.modServer_mem (s : State) (x : Nat) (f : Server → Server) : (s.modServer x f).mem = s.mem := rfl
@[simp] theorem State.modServer_poison (s : State) (x : Nat) (f : Server → Server) : (s.modServer x f).poison = s.poison := rfl
@[simp] theorem State.modServer_upsets (s : State) (x : Nat) (f : Server → Server) : (s.modServer x f).upsets = s.upsets := rfl
@[simp] theorem State.modServer_junk (s : State) (x : Nat) (f : Server → Server) : (s.modServer x f).junk = s.junk := rfl
@[simp] theorem State.modServer_hostMem (s : State) (x : Nat) (f : Server → Server) : (s.modServer x f).hostMem = s.hostMem := rfl
@[simp] theorem State.modServer_pw (s : State) (x : Nat) (f : Server → Server) : (s.modServer x f).pw = s.pw := rfl
@[simp] theorem State.modServer_boot (s : State) (x : Nat) (f : Server → Server) : (s.modServer x f).boot = s.boot := rfl
@[simp] theorem State.modServer_cores (s : State) (x : Nat) (f : Server → Server) : (s.modServer x f).cores = s.cores := rfl
@[simp] theorem State.modServer_homes (s : State) (x : Nat) (f : Server → Server) : (s.modServer x f).homes = s.homes := rfl
@[simp] theorem State.modServer_fg (s : State) (x : Nat) (f : Server → Server) : (s.modServer x f).fg = s.fg := rfl
@[simp] theorem State.modServer_sengs (s : State) (x : Nat) (f : Server → Server) : (s.modServer x f).sengs = s.sengs := rfl
@[simp] theorem State.modServer_graphs (s : State) (x : Nat) (f : Server → Server) : (s.modServer x f).graphs = s.graphs := rfl
@[simp] theorem State.modServer_chans (s : State) (x : Nat) (f : Server → Server) : (s.modServer x f).chans = s.chans := rfl
@[simp] theorem State.modServer_modes (s : State) (x : Nat) (f : Server → Server) : (s.modServer x f).modes = s.modes := rfl
@[simp] theorem State.modServer_tlb (s : State) (x : Nat) (f : Server → Server) : (s.modServer x f).tlb = s.tlb := rfl
@[simp] theorem State.modServer_queues (s : State) (x : Nat) (f : Server → Server) : (s.modServer x f).queues = s.queues := rfl
@[simp] theorem State.modServer_hostRr (s : State) (x : Nat) (f : Server → Server) : (s.modServer x f).hostRr = s.hostRr := rfl
@[simp] theorem State.modServer_ras (s : State) (x : Nat) (f : Server → Server) : (s.modServer x f).ras = s.ras := rfl
@[simp] theorem State.modServer_links (s : State) (x : Nat) (f : Server → Server) : (s.modServer x f).links = s.links := rfl
@[simp] theorem State.modServer_serial (s : State) (x : Nat) (f : Server → Server) : (s.modServer x f).serial = s.serial := rfl
@[simp] theorem State.modServer_units (s : State) (x : Nat) (f : Server → Server) : (s.modServer x f).units = s.units := rfl
@[simp] theorem State.modServer_upk (s : State) (x : Nat) (f : Server → Server) : (s.modServer x f).upk = s.upk := rfl
@[simp] theorem State.modServer_seqTx (s : State) (x : Nat) (f : Server → Server) : (s.modServer x f).seqTx = s.seqTx := rfl
@[simp] theorem State.modServer_seqRx (s : State) (x : Nat) (f : Server → Server) : (s.modServer x f).seqRx = s.seqRx := rfl
@[simp] theorem State.modServer_srcEpoch (s : State) (x : Nat) (f : Server → Server) : (s.modServer x f).srcEpoch = s.srcEpoch := rfl
@[simp] theorem State.modServer_tables (s : State) (x : Nat) (f : Server → Server) : (s.modServer x f).tables = s.tables := rfl
@[simp] theorem State.modServer_moves (s : State) (x : Nat) (f : Server → Server) : (s.modServer x f).moves = s.moves := rfl
@[simp] theorem State.modServer_epWaits (s : State) (x : Nat) (f : Server → Server) : (s.modServer x f).epWaits = s.epWaits := rfl
@[simp] theorem State.modServer_retired (s : State) (x : Nat) (f : Server → Server) : (s.modServer x f).retired = s.retired := rfl
@[simp] theorem State.modServer_repair (s : State) (x : Nat) (f : Server → Server) : (s.modServer x f).repair = s.repair := rfl
@[simp] theorem State.modServer_rowTrack (s : State) (x : Nat) (f : Server → Server) : (s.modServer x f).rowTrack = s.rowTrack := rfl
@[simp] theorem State.modServer_cols (s : State) (x : Nat) (f : Server → Server) : (s.modServer x f).cols = s.cols := rfl
@[simp] theorem State.modServer_disps (s : State) (x : Nat) (f : Server → Server) : (s.modServer x f).disps = s.disps := rfl
@[simp] theorem State.modServer_colIn (s : State) (x : Nat) (f : Server → Server) : (s.modServer x f).colIn = s.colIn := rfl
@[simp] theorem State.modServer_flowTx (s : State) (x : Nat) (f : Server → Server) : (s.modServer x f).flowTx = s.flowTx := rfl
@[simp] theorem State.modServer_flowWait (s : State) (x : Nat) (f : Server → Server) : (s.modServer x f).flowWait = s.flowWait := rfl
@[simp] theorem State.modServer_flowRx (s : State) (x : Nat) (f : Server → Server) : (s.modServer x f).flowRx = s.flowRx := rfl
@[simp] theorem State.modServer_rxParts (s : State) (x : Nat) (f : Server → Server) : (s.modServer x f).rxParts = s.rxParts := rfl
@[simp] theorem State.modServer_upFails (s : State) (x : Nat) (f : Server → Server) : (s.modServer x f).upFails = s.upFails := rfl
@[simp] theorem State.modServer_upStops (s : State) (x : Nat) (f : Server → Server) : (s.modServer x f).upStops = s.upStops := rfl
@[simp] theorem State.modServer_top (s : State) (x : Nat) (f : Server → Server) : (s.modServer x f).top = s.top := rfl
@[simp] theorem State.modServer_msix (s : State) (x : Nat) (f : Server → Server) : (s.modServer x f).msix = s.msix := rfl
@[simp] theorem State.modServer_latch (s : State) (x : Nat) (f : Server → Server) : (s.modServer x f).latch = s.latch := rfl
@[simp] theorem State.modServer_bar2Wait (s : State) (x : Nat) (f : Server → Server) : (s.modServer x f).bar2Wait = s.bar2Wait := rfl
@[simp] theorem State.modServer_chanWait (s : State) (x : Nat) (f : Server → Server) : (s.modServer x f).chanWait = s.chanWait := rfl
@[simp] theorem State.modServer_out (s : State) (x : Nat) (f : Server → Server) : (s.modServer x f).out = s.out := rfl

/-! ## setUnit -/

@[simp] theorem State.setUnit_pending (s : State) (u : Nat) (v : SUnit) : (s.setUnit u v).pending = s.pending := rfl
@[simp] theorem State.setUnit_free (s : State) (u : Nat) (v : SUnit) : (s.setUnit u v).free = s.free := rfl
@[simp] theorem State.setUnit_now (s : State) (u : Nat) (v : SUnit) : (s.setUnit u v).now = s.now := rfl
@[simp] theorem State.setUnit_regs (s : State) (u : Nat) (v : SUnit) : (s.setUnit u v).regs = s.regs := rfl
@[simp] theorem State.setUnit_mem (s : State) (u : Nat) (v : SUnit) : (s.setUnit u v).mem = s.mem := rfl
@[simp] theorem State.setUnit_poison (s : State) (u : Nat) (v : SUnit) : (s.setUnit u v).poison = s.poison := rfl
@[simp] theorem State.setUnit_upsets (s : State) (u : Nat) (v : SUnit) : (s.setUnit u v).upsets = s.upsets := rfl
@[simp] theorem State.setUnit_junk (s : State) (u : Nat) (v : SUnit) : (s.setUnit u v).junk = s.junk := rfl
@[simp] theorem State.setUnit_hostMem (s : State) (u : Nat) (v : SUnit) : (s.setUnit u v).hostMem = s.hostMem := rfl
@[simp] theorem State.setUnit_pw (s : State) (u : Nat) (v : SUnit) : (s.setUnit u v).pw = s.pw := rfl
@[simp] theorem State.setUnit_boot (s : State) (u : Nat) (v : SUnit) : (s.setUnit u v).boot = s.boot := rfl
@[simp] theorem State.setUnit_cores (s : State) (u : Nat) (v : SUnit) : (s.setUnit u v).cores = s.cores := rfl
@[simp] theorem State.setUnit_homes (s : State) (u : Nat) (v : SUnit) : (s.setUnit u v).homes = s.homes := rfl
@[simp] theorem State.setUnit_fg (s : State) (u : Nat) (v : SUnit) : (s.setUnit u v).fg = s.fg := rfl
@[simp] theorem State.setUnit_sengs (s : State) (u : Nat) (v : SUnit) : (s.setUnit u v).sengs = s.sengs := rfl
@[simp] theorem State.setUnit_graphs (s : State) (u : Nat) (v : SUnit) : (s.setUnit u v).graphs = s.graphs := rfl
@[simp] theorem State.setUnit_chans (s : State) (u : Nat) (v : SUnit) : (s.setUnit u v).chans = s.chans := rfl
@[simp] theorem State.setUnit_modes (s : State) (u : Nat) (v : SUnit) : (s.setUnit u v).modes = s.modes := rfl
@[simp] theorem State.setUnit_tlb (s : State) (u : Nat) (v : SUnit) : (s.setUnit u v).tlb = s.tlb := rfl
@[simp] theorem State.setUnit_queues (s : State) (u : Nat) (v : SUnit) : (s.setUnit u v).queues = s.queues := rfl
@[simp] theorem State.setUnit_hostRr (s : State) (u : Nat) (v : SUnit) : (s.setUnit u v).hostRr = s.hostRr := rfl
@[simp] theorem State.setUnit_ras (s : State) (u : Nat) (v : SUnit) : (s.setUnit u v).ras = s.ras := rfl
@[simp] theorem State.setUnit_links (s : State) (u : Nat) (v : SUnit) : (s.setUnit u v).links = s.links := rfl
@[simp] theorem State.setUnit_serial (s : State) (u : Nat) (v : SUnit) : (s.setUnit u v).serial = s.serial := rfl
@[simp] theorem State.setUnit_servers (s : State) (u : Nat) (v : SUnit) : (s.setUnit u v).servers = s.servers := rfl
@[simp] theorem State.setUnit_upk (s : State) (u : Nat) (v : SUnit) : (s.setUnit u v).upk = s.upk := rfl
@[simp] theorem State.setUnit_seqTx (s : State) (u : Nat) (v : SUnit) : (s.setUnit u v).seqTx = s.seqTx := rfl
@[simp] theorem State.setUnit_seqRx (s : State) (u : Nat) (v : SUnit) : (s.setUnit u v).seqRx = s.seqRx := rfl
@[simp] theorem State.setUnit_srcEpoch (s : State) (u : Nat) (v : SUnit) : (s.setUnit u v).srcEpoch = s.srcEpoch := rfl
@[simp] theorem State.setUnit_tables (s : State) (u : Nat) (v : SUnit) : (s.setUnit u v).tables = s.tables := rfl
@[simp] theorem State.setUnit_moves (s : State) (u : Nat) (v : SUnit) : (s.setUnit u v).moves = s.moves := rfl
@[simp] theorem State.setUnit_epWaits (s : State) (u : Nat) (v : SUnit) : (s.setUnit u v).epWaits = s.epWaits := rfl
@[simp] theorem State.setUnit_retired (s : State) (u : Nat) (v : SUnit) : (s.setUnit u v).retired = s.retired := rfl
@[simp] theorem State.setUnit_repair (s : State) (u : Nat) (v : SUnit) : (s.setUnit u v).repair = s.repair := rfl
@[simp] theorem State.setUnit_rowTrack (s : State) (u : Nat) (v : SUnit) : (s.setUnit u v).rowTrack = s.rowTrack := rfl
@[simp] theorem State.setUnit_cols (s : State) (u : Nat) (v : SUnit) : (s.setUnit u v).cols = s.cols := rfl
@[simp] theorem State.setUnit_disps (s : State) (u : Nat) (v : SUnit) : (s.setUnit u v).disps = s.disps := rfl
@[simp] theorem State.setUnit_colIn (s : State) (u : Nat) (v : SUnit) : (s.setUnit u v).colIn = s.colIn := rfl
@[simp] theorem State.setUnit_flowTx (s : State) (u : Nat) (v : SUnit) : (s.setUnit u v).flowTx = s.flowTx := rfl
@[simp] theorem State.setUnit_flowWait (s : State) (u : Nat) (v : SUnit) : (s.setUnit u v).flowWait = s.flowWait := rfl
@[simp] theorem State.setUnit_flowRx (s : State) (u : Nat) (v : SUnit) : (s.setUnit u v).flowRx = s.flowRx := rfl
@[simp] theorem State.setUnit_rxParts (s : State) (u : Nat) (v : SUnit) : (s.setUnit u v).rxParts = s.rxParts := rfl
@[simp] theorem State.setUnit_upFails (s : State) (u : Nat) (v : SUnit) : (s.setUnit u v).upFails = s.upFails := rfl
@[simp] theorem State.setUnit_upStops (s : State) (u : Nat) (v : SUnit) : (s.setUnit u v).upStops = s.upStops := rfl
@[simp] theorem State.setUnit_top (s : State) (u : Nat) (v : SUnit) : (s.setUnit u v).top = s.top := rfl
@[simp] theorem State.setUnit_msix (s : State) (u : Nat) (v : SUnit) : (s.setUnit u v).msix = s.msix := rfl
@[simp] theorem State.setUnit_latch (s : State) (u : Nat) (v : SUnit) : (s.setUnit u v).latch = s.latch := rfl
@[simp] theorem State.setUnit_bar2Wait (s : State) (u : Nat) (v : SUnit) : (s.setUnit u v).bar2Wait = s.bar2Wait := rfl
@[simp] theorem State.setUnit_chanWait (s : State) (u : Nat) (v : SUnit) : (s.setUnit u v).chanWait = s.chanWait := rfl
@[simp] theorem State.setUnit_out (s : State) (u : Nat) (v : SUnit) : (s.setUnit u v).out = s.out := rfl

/-! ## modUnit -/

@[simp] theorem State.modUnit_pending (s : State) (u : Nat) (f : SUnit → SUnit) : (s.modUnit u f).pending = s.pending := rfl
@[simp] theorem State.modUnit_free (s : State) (u : Nat) (f : SUnit → SUnit) : (s.modUnit u f).free = s.free := rfl
@[simp] theorem State.modUnit_now (s : State) (u : Nat) (f : SUnit → SUnit) : (s.modUnit u f).now = s.now := rfl
@[simp] theorem State.modUnit_regs (s : State) (u : Nat) (f : SUnit → SUnit) : (s.modUnit u f).regs = s.regs := rfl
@[simp] theorem State.modUnit_mem (s : State) (u : Nat) (f : SUnit → SUnit) : (s.modUnit u f).mem = s.mem := rfl
@[simp] theorem State.modUnit_poison (s : State) (u : Nat) (f : SUnit → SUnit) : (s.modUnit u f).poison = s.poison := rfl
@[simp] theorem State.modUnit_upsets (s : State) (u : Nat) (f : SUnit → SUnit) : (s.modUnit u f).upsets = s.upsets := rfl
@[simp] theorem State.modUnit_junk (s : State) (u : Nat) (f : SUnit → SUnit) : (s.modUnit u f).junk = s.junk := rfl
@[simp] theorem State.modUnit_hostMem (s : State) (u : Nat) (f : SUnit → SUnit) : (s.modUnit u f).hostMem = s.hostMem := rfl
@[simp] theorem State.modUnit_pw (s : State) (u : Nat) (f : SUnit → SUnit) : (s.modUnit u f).pw = s.pw := rfl
@[simp] theorem State.modUnit_boot (s : State) (u : Nat) (f : SUnit → SUnit) : (s.modUnit u f).boot = s.boot := rfl
@[simp] theorem State.modUnit_cores (s : State) (u : Nat) (f : SUnit → SUnit) : (s.modUnit u f).cores = s.cores := rfl
@[simp] theorem State.modUnit_homes (s : State) (u : Nat) (f : SUnit → SUnit) : (s.modUnit u f).homes = s.homes := rfl
@[simp] theorem State.modUnit_fg (s : State) (u : Nat) (f : SUnit → SUnit) : (s.modUnit u f).fg = s.fg := rfl
@[simp] theorem State.modUnit_sengs (s : State) (u : Nat) (f : SUnit → SUnit) : (s.modUnit u f).sengs = s.sengs := rfl
@[simp] theorem State.modUnit_graphs (s : State) (u : Nat) (f : SUnit → SUnit) : (s.modUnit u f).graphs = s.graphs := rfl
@[simp] theorem State.modUnit_chans (s : State) (u : Nat) (f : SUnit → SUnit) : (s.modUnit u f).chans = s.chans := rfl
@[simp] theorem State.modUnit_modes (s : State) (u : Nat) (f : SUnit → SUnit) : (s.modUnit u f).modes = s.modes := rfl
@[simp] theorem State.modUnit_tlb (s : State) (u : Nat) (f : SUnit → SUnit) : (s.modUnit u f).tlb = s.tlb := rfl
@[simp] theorem State.modUnit_queues (s : State) (u : Nat) (f : SUnit → SUnit) : (s.modUnit u f).queues = s.queues := rfl
@[simp] theorem State.modUnit_hostRr (s : State) (u : Nat) (f : SUnit → SUnit) : (s.modUnit u f).hostRr = s.hostRr := rfl
@[simp] theorem State.modUnit_ras (s : State) (u : Nat) (f : SUnit → SUnit) : (s.modUnit u f).ras = s.ras := rfl
@[simp] theorem State.modUnit_links (s : State) (u : Nat) (f : SUnit → SUnit) : (s.modUnit u f).links = s.links := rfl
@[simp] theorem State.modUnit_serial (s : State) (u : Nat) (f : SUnit → SUnit) : (s.modUnit u f).serial = s.serial := rfl
@[simp] theorem State.modUnit_servers (s : State) (u : Nat) (f : SUnit → SUnit) : (s.modUnit u f).servers = s.servers := rfl
@[simp] theorem State.modUnit_upk (s : State) (u : Nat) (f : SUnit → SUnit) : (s.modUnit u f).upk = s.upk := rfl
@[simp] theorem State.modUnit_seqTx (s : State) (u : Nat) (f : SUnit → SUnit) : (s.modUnit u f).seqTx = s.seqTx := rfl
@[simp] theorem State.modUnit_seqRx (s : State) (u : Nat) (f : SUnit → SUnit) : (s.modUnit u f).seqRx = s.seqRx := rfl
@[simp] theorem State.modUnit_srcEpoch (s : State) (u : Nat) (f : SUnit → SUnit) : (s.modUnit u f).srcEpoch = s.srcEpoch := rfl
@[simp] theorem State.modUnit_tables (s : State) (u : Nat) (f : SUnit → SUnit) : (s.modUnit u f).tables = s.tables := rfl
@[simp] theorem State.modUnit_moves (s : State) (u : Nat) (f : SUnit → SUnit) : (s.modUnit u f).moves = s.moves := rfl
@[simp] theorem State.modUnit_epWaits (s : State) (u : Nat) (f : SUnit → SUnit) : (s.modUnit u f).epWaits = s.epWaits := rfl
@[simp] theorem State.modUnit_retired (s : State) (u : Nat) (f : SUnit → SUnit) : (s.modUnit u f).retired = s.retired := rfl
@[simp] theorem State.modUnit_repair (s : State) (u : Nat) (f : SUnit → SUnit) : (s.modUnit u f).repair = s.repair := rfl
@[simp] theorem State.modUnit_rowTrack (s : State) (u : Nat) (f : SUnit → SUnit) : (s.modUnit u f).rowTrack = s.rowTrack := rfl
@[simp] theorem State.modUnit_cols (s : State) (u : Nat) (f : SUnit → SUnit) : (s.modUnit u f).cols = s.cols := rfl
@[simp] theorem State.modUnit_disps (s : State) (u : Nat) (f : SUnit → SUnit) : (s.modUnit u f).disps = s.disps := rfl
@[simp] theorem State.modUnit_colIn (s : State) (u : Nat) (f : SUnit → SUnit) : (s.modUnit u f).colIn = s.colIn := rfl
@[simp] theorem State.modUnit_flowTx (s : State) (u : Nat) (f : SUnit → SUnit) : (s.modUnit u f).flowTx = s.flowTx := rfl
@[simp] theorem State.modUnit_flowWait (s : State) (u : Nat) (f : SUnit → SUnit) : (s.modUnit u f).flowWait = s.flowWait := rfl
@[simp] theorem State.modUnit_flowRx (s : State) (u : Nat) (f : SUnit → SUnit) : (s.modUnit u f).flowRx = s.flowRx := rfl
@[simp] theorem State.modUnit_rxParts (s : State) (u : Nat) (f : SUnit → SUnit) : (s.modUnit u f).rxParts = s.rxParts := rfl
@[simp] theorem State.modUnit_upFails (s : State) (u : Nat) (f : SUnit → SUnit) : (s.modUnit u f).upFails = s.upFails := rfl
@[simp] theorem State.modUnit_upStops (s : State) (u : Nat) (f : SUnit → SUnit) : (s.modUnit u f).upStops = s.upStops := rfl
@[simp] theorem State.modUnit_top (s : State) (u : Nat) (f : SUnit → SUnit) : (s.modUnit u f).top = s.top := rfl
@[simp] theorem State.modUnit_msix (s : State) (u : Nat) (f : SUnit → SUnit) : (s.modUnit u f).msix = s.msix := rfl
@[simp] theorem State.modUnit_latch (s : State) (u : Nat) (f : SUnit → SUnit) : (s.modUnit u f).latch = s.latch := rfl
@[simp] theorem State.modUnit_bar2Wait (s : State) (u : Nat) (f : SUnit → SUnit) : (s.modUnit u f).bar2Wait = s.bar2Wait := rfl
@[simp] theorem State.modUnit_chanWait (s : State) (u : Nat) (f : SUnit → SUnit) : (s.modUnit u f).chanWait = s.chanWait := rfl
@[simp] theorem State.modUnit_out (s : State) (u : Nat) (f : SUnit → SUnit) : (s.modUnit u f).out = s.out := rfl

/-! ## setBytes -/

@[simp] theorem State.setBytes_pending (s : State) (a : Nat) (l : List Byte) : (s.setBytes a l).pending = s.pending := rfl
@[simp] theorem State.setBytes_free (s : State) (a : Nat) (l : List Byte) : (s.setBytes a l).free = s.free := rfl
@[simp] theorem State.setBytes_now (s : State) (a : Nat) (l : List Byte) : (s.setBytes a l).now = s.now := rfl
@[simp] theorem State.setBytes_regs (s : State) (a : Nat) (l : List Byte) : (s.setBytes a l).regs = s.regs := rfl
@[simp] theorem State.setBytes_poison (s : State) (a : Nat) (l : List Byte) : (s.setBytes a l).poison = s.poison := rfl
@[simp] theorem State.setBytes_upsets (s : State) (a : Nat) (l : List Byte) : (s.setBytes a l).upsets = s.upsets := rfl
@[simp] theorem State.setBytes_hostMem (s : State) (a : Nat) (l : List Byte) : (s.setBytes a l).hostMem = s.hostMem := rfl
@[simp] theorem State.setBytes_pw (s : State) (a : Nat) (l : List Byte) : (s.setBytes a l).pw = s.pw := rfl
@[simp] theorem State.setBytes_boot (s : State) (a : Nat) (l : List Byte) : (s.setBytes a l).boot = s.boot := rfl
@[simp] theorem State.setBytes_cores (s : State) (a : Nat) (l : List Byte) : (s.setBytes a l).cores = s.cores := rfl
@[simp] theorem State.setBytes_homes (s : State) (a : Nat) (l : List Byte) : (s.setBytes a l).homes = s.homes := rfl
@[simp] theorem State.setBytes_fg (s : State) (a : Nat) (l : List Byte) : (s.setBytes a l).fg = s.fg := rfl
@[simp] theorem State.setBytes_sengs (s : State) (a : Nat) (l : List Byte) : (s.setBytes a l).sengs = s.sengs := rfl
@[simp] theorem State.setBytes_graphs (s : State) (a : Nat) (l : List Byte) : (s.setBytes a l).graphs = s.graphs := rfl
@[simp] theorem State.setBytes_chans (s : State) (a : Nat) (l : List Byte) : (s.setBytes a l).chans = s.chans := rfl
@[simp] theorem State.setBytes_modes (s : State) (a : Nat) (l : List Byte) : (s.setBytes a l).modes = s.modes := rfl
@[simp] theorem State.setBytes_tlb (s : State) (a : Nat) (l : List Byte) : (s.setBytes a l).tlb = s.tlb := rfl
@[simp] theorem State.setBytes_queues (s : State) (a : Nat) (l : List Byte) : (s.setBytes a l).queues = s.queues := rfl
@[simp] theorem State.setBytes_hostRr (s : State) (a : Nat) (l : List Byte) : (s.setBytes a l).hostRr = s.hostRr := rfl
@[simp] theorem State.setBytes_ras (s : State) (a : Nat) (l : List Byte) : (s.setBytes a l).ras = s.ras := rfl
@[simp] theorem State.setBytes_links (s : State) (a : Nat) (l : List Byte) : (s.setBytes a l).links = s.links := rfl
@[simp] theorem State.setBytes_serial (s : State) (a : Nat) (l : List Byte) : (s.setBytes a l).serial = s.serial := rfl
@[simp] theorem State.setBytes_servers (s : State) (a : Nat) (l : List Byte) : (s.setBytes a l).servers = s.servers := rfl
@[simp] theorem State.setBytes_units (s : State) (a : Nat) (l : List Byte) : (s.setBytes a l).units = s.units := rfl
@[simp] theorem State.setBytes_upk (s : State) (a : Nat) (l : List Byte) : (s.setBytes a l).upk = s.upk := rfl
@[simp] theorem State.setBytes_seqTx (s : State) (a : Nat) (l : List Byte) : (s.setBytes a l).seqTx = s.seqTx := rfl
@[simp] theorem State.setBytes_seqRx (s : State) (a : Nat) (l : List Byte) : (s.setBytes a l).seqRx = s.seqRx := rfl
@[simp] theorem State.setBytes_srcEpoch (s : State) (a : Nat) (l : List Byte) : (s.setBytes a l).srcEpoch = s.srcEpoch := rfl
@[simp] theorem State.setBytes_tables (s : State) (a : Nat) (l : List Byte) : (s.setBytes a l).tables = s.tables := rfl
@[simp] theorem State.setBytes_moves (s : State) (a : Nat) (l : List Byte) : (s.setBytes a l).moves = s.moves := rfl
@[simp] theorem State.setBytes_epWaits (s : State) (a : Nat) (l : List Byte) : (s.setBytes a l).epWaits = s.epWaits := rfl
@[simp] theorem State.setBytes_retired (s : State) (a : Nat) (l : List Byte) : (s.setBytes a l).retired = s.retired := rfl
@[simp] theorem State.setBytes_repair (s : State) (a : Nat) (l : List Byte) : (s.setBytes a l).repair = s.repair := rfl
@[simp] theorem State.setBytes_rowTrack (s : State) (a : Nat) (l : List Byte) : (s.setBytes a l).rowTrack = s.rowTrack := rfl
@[simp] theorem State.setBytes_cols (s : State) (a : Nat) (l : List Byte) : (s.setBytes a l).cols = s.cols := rfl
@[simp] theorem State.setBytes_disps (s : State) (a : Nat) (l : List Byte) : (s.setBytes a l).disps = s.disps := rfl
@[simp] theorem State.setBytes_colIn (s : State) (a : Nat) (l : List Byte) : (s.setBytes a l).colIn = s.colIn := rfl
@[simp] theorem State.setBytes_flowTx (s : State) (a : Nat) (l : List Byte) : (s.setBytes a l).flowTx = s.flowTx := rfl
@[simp] theorem State.setBytes_flowWait (s : State) (a : Nat) (l : List Byte) : (s.setBytes a l).flowWait = s.flowWait := rfl
@[simp] theorem State.setBytes_flowRx (s : State) (a : Nat) (l : List Byte) : (s.setBytes a l).flowRx = s.flowRx := rfl
@[simp] theorem State.setBytes_rxParts (s : State) (a : Nat) (l : List Byte) : (s.setBytes a l).rxParts = s.rxParts := rfl
@[simp] theorem State.setBytes_upFails (s : State) (a : Nat) (l : List Byte) : (s.setBytes a l).upFails = s.upFails := rfl
@[simp] theorem State.setBytes_upStops (s : State) (a : Nat) (l : List Byte) : (s.setBytes a l).upStops = s.upStops := rfl
@[simp] theorem State.setBytes_top (s : State) (a : Nat) (l : List Byte) : (s.setBytes a l).top = s.top := rfl
@[simp] theorem State.setBytes_msix (s : State) (a : Nat) (l : List Byte) : (s.setBytes a l).msix = s.msix := rfl
@[simp] theorem State.setBytes_latch (s : State) (a : Nat) (l : List Byte) : (s.setBytes a l).latch = s.latch := rfl
@[simp] theorem State.setBytes_bar2Wait (s : State) (a : Nat) (l : List Byte) : (s.setBytes a l).bar2Wait = s.bar2Wait := rfl
@[simp] theorem State.setBytes_chanWait (s : State) (a : Nat) (l : List Byte) : (s.setBytes a l).chanWait = s.chanWait := rfl
@[simp] theorem State.setBytes_out (s : State) (a : Nat) (l : List Byte) : (s.setBytes a l).out = s.out := rfl

/-! ## Reading back -/

@[simp] theorem State.core_setCore_same (s : State) (c : Nat) (k : Core) : (s.setCore c k).core c = k := by
  simp [State.core, State.setCore]

theorem State.core_setCore_other (s : State) {c d : Nat} (k : Core) (h : d ≠ c) : (s.setCore c k).core d = s.core d := by
  simp [State.core, State.setCore, nget_nset_other _ _ _ h]

@[simp] theorem State.core_modCore_same (s : State) (c : Nat) (f : Core → Core) : (s.modCore c f).core c = f (s.core c) := by
  simp [State.modCore]

theorem State.core_modCore_other (s : State) {c d : Nat} (f : Core → Core) (h : d ≠ c) : (s.modCore c f).core d = s.core d :=
  State.core_setCore_other s _ h

@[simp] theorem State.core_setReg (s : State) (off v c : Nat) : (s.setReg off v).core c = s.core c := rfl

@[simp] theorem State.home_setHome_same (s : State) (h : Nat) (k : Home) : (s.setHome h k).home h = k := by
  simp [State.home, State.setHome]

@[simp] theorem State.home_modHome_same (s : State) (h : Nat) (f : Home → Home) : (s.modHome h f).home h = f (s.home h) := by
  simp [State.modHome]

theorem State.home_modHome_other (s : State) {h d : Nat} (f : Home → Home) (hd : d ≠ h) : (s.modHome h f).home d = s.home d := by
  simp [State.home, State.modHome, State.setHome, nget_nset_other _ _ _ hd]

@[simp] theorem State.link_modLink_same (s : State) (l : Nat) (f : Link → Link) : (s.modLink l f).link l = f (s.link l) := by
  simp [State.modLink, State.link, State.setLink]

theorem State.link_modLink_other (s : State) {l d : Nat} (f : Link → Link) (hd : d ≠ l) : (s.modLink l f).link d = s.link d := by
  simp [State.link, State.modLink, State.setLink, nget_nset_other _ _ _ hd]

@[simp] theorem State.seng_setSeng_same (s : State) (e : Nat) (k : SEng) : (s.setSeng e k).seng e = k := by
  simp [State.seng, State.setSeng]

@[simp] theorem State.chan_setChan_same (s : State) (c : Nat) (k : Chan) : (s.setChan c k).chan c = k := by
  simp [State.chan, State.setChan]

@[simp] theorem State.hostQ_setHostQ_same (s : State) (q : Nat) (k : HostQ) : (s.setHostQ q k).hostQ q = k := by
  simp [State.hostQ, State.setHostQ]

@[simp] theorem State.server_modServer_same (s : State) (x : Nat) (f : Server → Server) :
    (s.modServer x f).server x = f (s.server x) := by
  simp [State.modServer, State.server, State.setServer]

@[simp] theorem State.unit_modUnit_same (s : State) (u : Nat) (f : SUnit → SUnit) :
    (s.modUnit u f).unit u = f (s.unit u) := by
  simp [State.modUnit, State.unit, State.setUnit]

/-! ## Page registers -/

@[simp] theorem State.reg_setReg_same (s : State) (off v : Nat) : (s.setReg off v).reg off = v % 2 ^ 32 := by
  simp [State.reg, State.setReg, nfind_nset]

theorem State.reg_setReg_other (s : State) {off o : Nat} (v : Nat) (h : o ≠ off) : (s.setReg off v).reg o = s.reg o := by
  simp [State.reg, State.setReg, nfind_nset, Ne.symm h]

@[simp] theorem State.reg_setCore (s : State) (c : Nat) (k : Core) (o : Nat) : (s.setCore c k).reg o = s.reg o := rfl
@[simp] theorem State.reg_modCore (s : State) (c : Nat) (f : Core → Core) (o : Nat) : (s.modCore c f).reg o = s.reg o := rfl
@[simp] theorem State.reg_modHome (s : State) (h : Nat) (f : Home → Home) (o : Nat) : (s.modHome h f).reg o = s.reg o := rfl

/-! ## Bytes -/

/-- Whether an undefined range holds an address. -/
def Junk.has (j : Junk) (a : Nat) : Bool := decide (j.lo ≤ a) && decide (a < j.hi)

theorem State.byte_eq (s : State) (a : Nat) :
    s.byte a = match (s.junk.find? (·.has a)).map (·.gen) with
      | some g => Config.freeByte g a
      | none => cellGet s.mem a := by
  simp only [State.byte, Junk.has]
  cases List.find? (fun j => decide (j.lo ≤ a) && decide (a < j.hi)) s.junk <;> rfl

/-- What is left of a range after a cut. -/
def Junk.cut (j : Junk) (lo hi : Nat) : List Junk := junkCut [j] lo hi

theorem junkCut_cons (j : Junk) (js : List Junk) (lo hi : Nat) : junkCut (j :: js) lo hi = j.cut lo hi ++ junkCut js lo hi := by
  simp [Junk.cut, junkCut]

theorem find_cut_other (j : Junk) {lo hi b : Nat} (h : b < lo ∨ hi ≤ b) :
    ((j.cut lo hi).find? (·.has b)).map (·.gen) = if j.has b then some j.gen else none := by
  simp only [Junk.cut, junkCut, List.flatMap_cons, List.flatMap_nil, List.append_nil]
  by_cases h1 : hi ≤ j.lo <;> by_cases h2 : j.hi ≤ lo <;> by_cases h3 : j.lo < lo <;> by_cases h4 : hi < j.hi <;>
    by_cases h5 : j.lo ≤ b <;> by_cases h6 : b < j.hi <;> by_cases h7 : b < lo <;> by_cases h8 : hi ≤ b <;>
    first
    | omega
    | simp [Junk.has, h1, h2, h3, h4, h5, h6, h7, h8]

/-- Cutting a range leaves the addresses outside it as undefined as they were. -/
theorem find_junkCut_other (js : List Junk) {lo hi b : Nat} (h : b < lo ∨ hi ≤ b) :
    ((junkCut js lo hi).find? (·.has b)).map (·.gen) = (js.find? (·.has b)).map (·.gen) := by
  induction js with
  | nil => rfl
  | cons j js ih =>
    have hc := find_cut_other j h
    rw [junkCut_cons, List.find?_append, List.find?_cons]
    cases hj : j.has b
    · rw [hj] at hc
      have hn : (j.cut lo hi).find? (·.has b) = none := Option.map_eq_none_iff.1 (by rw [hc]; rfl)
      rw [hn]
      simpa using ih
    · rw [hj] at hc
      cases hf : (j.cut lo hi).find? (·.has b) with
      | none => rw [hf] at hc; simp at hc
      | some x => rw [hf] at hc; simpa using hc

/-- A byte outside a store reads as before. -/
theorem State.byte_setBytes_other (s : State) {a b : Nat} (l : List Byte) (hm : Memory.wf s.mem = true)
    (h : b < a ∨ a + l.length ≤ b) : (s.setBytes a l).byte b = s.byte b := by
  rw [State.byte_eq, State.byte_eq]
  simp only [State.setBytes, find_junkCut_other s.junk h, cellGet_cellsSet_other l hm h]

theorem find_cut_in (j : Junk) {lo hi b : Nat} (h : lo ≤ b ∧ b < hi) : (j.cut lo hi).find? (·.has b) = none := by
  simp only [Junk.cut, junkCut, List.flatMap_cons, List.flatMap_nil, List.append_nil]
  by_cases h1 : hi ≤ j.lo <;> by_cases h2 : j.hi ≤ lo <;> by_cases h3 : j.lo < lo <;> by_cases h4 : hi < j.hi <;>
    simp [Junk.has, h1, h2, h3, h4] <;> omega

theorem find_junkCut_in (js : List Junk) {lo hi b : Nat} (h : lo ≤ b ∧ b < hi) :
    (junkCut js lo hi).find? (·.has b) = none := by
  induction js with
  | nil => rfl
  | cons j js ih => rw [junkCut_cons, List.find?_append, find_cut_in j h, ih]; rfl

/-- A byte of a store reads as what was stored. -/
theorem State.byte_setBytes_in (s : State) {a i : Nat} (l : List Byte) (hm : Memory.wf s.mem = true) (hi : i < l.length) :
    (s.setBytes a l).byte (a + i) = l[i] := by
  have hj : (junkCut s.junk a (a + l.length)).find? (·.has (a + i)) = none := find_junkCut_in s.junk (by omega)
  rw [State.byte_eq]
  simp only [State.setBytes, hj, cellGet_cellsSet_in l hm hi, Option.map_none]

end Sys2Proof.Machine
end

