-- ==== Sys2Proof/Tests/Slice0.lean ====
section
/-! SUPPORT. Tests/Slice0.lean: tests of well-formedness and of the engine encodings on words written out from the spec, and a
state and operands that meet the hypotheses of every clause of every statement. -/

namespace Sys2Proof.Tests

open Sys2Proof Sys2Proof.Machine

set_option maxRecDepth 20000
set_option exponentiation.threshold 2000
set_option linter.unusedVariables false

/-! Well-formedness: one ill-formed term for each check, and one that the check accepts. -/

/-- A packet with a payload of n zero bytes. -/
def wPayload (n : Nat) : Packet :=
  { dst := 0, src := 0, cls := 0, kind := 0, detour := false, slow := false, flow := 0, fseq := 1, jobtag := 0, hops := 0
    epoch := 0, waypt := 0, extra := 0, payload := List.replicate n 0 }

theorem test_wf_refuses_short_avs : (Instr.avsUpdate [900]).wf = false := by decide
theorem test_wf_refuses_short_budget : (Instr.powerBudgetUpdate 500 [30000]).wf = false := by decide
theorem test_wf_refuses_odd_flit : (Instr.dataFlitReceive 0 ⟨[1, 0, 0, 0], 0, 0⟩).wf = false := by decide
theorem test_wf_refuses_short_fuse_image : (Instr.bootBist ⟨[0], []⟩ []).wf = false := by decide
theorem test_wf_refuses_three_rates : (Instr.train ⟨[], [], [2, 2, 2], []⟩).wf = false := by decide
theorem test_wf_refuses_long_packet : (Instr.packetReceive 0 0 (wPayload 2049)).wf = false := by
  simp [Instr.wf, Packet.wf, wPayload]
theorem test_wf_refuses_long_flow_packet : (Instr.flowPacketDeliver (wPayload 2049)).wf = false := by
  simp [Instr.wf, Packet.wf, wPayload]
theorem test_wf_refuses_long_collective_packet : (Instr.collectivePacketReceive (wPayload 2049)).wf = false := by
  simp [Instr.wf, Packet.wf, wPayload]
theorem test_wf_accepts : (Instr.avsUpdate (List.replicate 32 900)).wf = true ∧
    (Instr.powerBudgetUpdate 500 (List.replicate 32 30000)).wf = true ∧
    (Instr.dataFlitReceive 0 ⟨List.replicate 128 0, 0, 0⟩).wf = true ∧ (Instr.train ⟨[], [], [2, 2, 2, 2], []⟩).wf = true ∧
    (Instr.packetReceive 0 0 (wPayload 4)).wf = true := by decide

/-! Engine instructions: words written bit by bit from the layouts of the spec. -/

/-- R262: MMA c0, a1, b3 (opcode 0x0B, MOP 0, a in bits 22:14, b in bits 31:23). -/
theorem test_decode_mma : decodeEng32 0x0180400B = some (.mma 0 1 3) := by decide
/-- R262: MLD rs1 x5, rs2 x6, tile 2 (MOP 1). -/
theorem test_decode_mld : decodeEng32 0x0023148B = some (.mld 5 6 2 false false false) := by decide
/-- R262: MST rs1 x5, rs2 x6, accumulator 3, OFMT 2, TR 1 (MOP 2). -/
theorem test_decode_mst : decodeEng32 0x2233150B = some (.mst 5 6 3 2 false true) := by decide
/-- R262: SCOMPRESS of tile 40 into tile 60, and STRANSPOSE of tile 60 into tile 70 (MOP 5). -/
theorem test_decode_sparse : decodeEng32 0x0F05028B = some (.sparse false 40 60) ∧
    decodeEng32 0x1187868B = some (.sparse true 60 70) := by decide
/-- R265: MMAX c2, a1, b3, both formats 4, CZ 1. -/
theorem test_decode_mmax : decodeEng64 0x11100601203F = some (.mmax 2 1 3 4 4 false false true) := by decide
/-- R272: SCI rd x10, rs1 x11, rs2 x12, and WEND. -/
theorem test_decode_issue : decodeEng32 0x00C5855B = some (.issue .sci 10 11 12) ∧ decodeEng32 0x0000405B = some .wend := by
  decide
/-- R323: VADD vd 1, vs1 2, vs2 3, ZM 1. -/
theorem test_decode_vadd : decodeEng32 0x10C2042B = some (.varith .add 1 2 (.w32 3 true)) := by decide
/-- R411: BST rd x10, rs1 x11, rs2 x12, and CWAIT of the same registers. -/
theorem test_decode_sync : decodeEng32 0x00C5857B = some (.bead .bst 10 11 12) ∧
    decodeEng32 0x04C5957B = some (.ctr .cwait 10 11 12) := by decide
/-- Reserved words: MOP 7 of custom-0 (R262), FENCE.S of scope 5 (R411), CRANGE with OP 0 (R411), MLDA with bit 31 (R262). -/
theorem test_decode_reserved : decodeEng32 0x0000038B = none ∧ decodeEng32 0x0A00207B = none ∧
    decodeEng32 0x0800407B = none ∧ decodeEng32 0x8033158B = none := by decide

/-- The spec's example of a hashed table: HBITS 12, SEED 0xFF, MULT 0x10001, index 0x0123456789ABCDEF gives row 0x468. -/
theorem test_hashed_row : Version.rowOf
    { tid := 0, epoch := 0, desc := 0x01000000 + 0xFF * 2 ^ (8 * 24) + 0x10001 * 2 ^ (8 * 32) + 12 * 2 ^ (8 * 40), shards := []
      current := true }
    0x0123456789ABCDEF = some 0x468 := by decide

/-- A device in READY with its units enabled, and the address translations of the first units. -/
def wR : State := { State.reset with
  boot := { State.reset.boot with
    state := 6, clusters := BitVec.allOnes 32, stackSet := BitVec.allOnes 16, links := BitVec.allOnes 16
    rhzMapped := BitVec.allOnes 96 }
  pw := { State.reset.pw with perst := false }
  regs := [pgCpd, pgCor 0, pgMmu, pgQue 0, pgStk 0, pgLnk 0, pgL2c 0].map fun p => (p + 0x010, 1)
  tlb := ([0, 32, agHub, agLinkDie 0].map fun a => ⟨a, 0, 0, 0x200000, true, true, true, true⟩) ++
    [0, 336].map fun a => ⟨a, 0x40000000, 0x30000000000, 0x80000, true, true, true, true⟩ }
/-- A host command. -/
def wC : HCmd := { cid := 7, raw := 0, sqHead := 1 }

/-- Core 0 as given. -/
def wK (k : Core) : State := { wR with cores := [(0, k)] }
/-- Core 0 with the registers given. -/
def wX (l : NMap DWord) : State := wK { x := l }
/-- With the page registers given. -/
def wP (r : NMap Word) : State := { wR with regs := r ++ wR.regs }
/-- With the power state changed. -/
def wPw (f : Power → Power) : State := { wR with pw := f wR.pw }
/-- With the boot state changed. -/
def wB (f : Boot → Boot) : State := { wR with boot := f wR.boot }
/-- Link 0 as given. -/
def wL (l : Link) : State := { wR with links := [(0, l)] }
/-- Home 0 as given. -/
def wH (h : Home) : State := { wR with homes := [(0, h)] }
/-- The top state as given. -/
def wT (t : Top) : State := { wR with top := t }
/-- The first command of host queue 0. -/
def wQ (raw : Nat) : State := { wR with queues := [(0, { cmds := [{ cid := 7, raw := raw, sqHead := 1 }] })] }
/-- Server 0 as given. -/
def wSrv (v : Server) : State := { wR with servers := [(0, v)] }
/-- Channel n as given. -/
def wChan (n : Nat) (c : Chan) : State := { wR with chans := [(n, c)] }
/-- Stream engine 0 as given. -/
def wSeng (e : SEng) : State := { wR with sengs := [(0, e)] }
/-- An op. -/
def wOp : OpRef := ⟨0, 0, 0, 0, 0, 0, 0⟩
/-- A Sorus command. -/
def wSC : SCmd := { serial := 1, queue := 0, raw := 0, src := 0, epoch := 0 }
/-- A stream descriptor. -/
def wSD : SDesc := { serial := 1, raw := 0, addr := 0, prio7 := false }
/-- A packet. -/
def wPk : Packet :=
    { dst := 0, src := 0, cls := 0, kind := 0, detour := false, slow := false, flow := 0, fseq := 1, jobtag := 0, hops := 0, epoch := 0, waypt := 0, extra := 0, payload := [] }
/-- A version of a table. -/
def wVer : Version := { tid := 0, epoch := 0, desc := 0, shards := [], current := true }
/-- A slice of this package alone. -/
def wSl : SliceInfo := ⟨0, 0x4081, false, false, false, 0, []⟩
/-- A row. -/
def wRow : RowRef := ⟨0, 0, 0, 0, 0, 1, 4, 0, none, 0, 0⟩
/-- A read request of a unit. -/
def wReq : Req := ⟨0, 0, 0, 1, wRow, false, 3⟩
/-- A collective. -/
def wColl : Coll := { idx := 0, hdr := 0, cseq := 1 }
/-- An event. -/
def wEv : Event := { cls := 0, reason := 0x80, btype := 0, inst := 0 }
/-- A bag. -/
def wBag : Bag :=
    { uid := 1, cmd := 1, lead := 0, pos := 0, n := 1, kind := 0, nelem := 1, ofmt := 0, dst := 0, bytes := 4, sink := .row }
/-- An update request. -/
def wUR : UReq :=
    { unit := 0, sector := 0, key := ⟨0, 0, false⟩, vals := [], nocomb := false, tid := 0, ver := 0, org := ⟨0, 0, 0, 0⟩, pkt := 0, pos := 0 }
/-- An entry of an update buffer. -/
def wUE : UEnt := { sector := 0, key := ⟨0, 0, false⟩, vals := [], frame := 0, orgs := [], vers := [] }
/-- An update packet. -/
def wUP : UPkt :=
    { id := 1, src := 0, epoch := 0, seq := 1, rcv := 0, lead := 0, cmd := 1, org := ⟨0, 0, 0, 0⟩, ups := [], open_ := 0 }

/-- The state after a fetch of a standard word. -/
def fetchedSt : Fetched → State
  | .std _ _ _ s => s
  | _ => wR
/-- A fetch that reads the standard word w. -/
def isStd (w r l : Nat) : Fetched → Bool
  | .std a b c _ => a == w && b == r && c == l
  | _ => false
theorem eq_std {w r l : Nat} {f : Fetched} (h : isStd w r l f = true) : f = .std w r l (fetchedSt f) := by
  cases f <;> simp [isStd] at h
  obtain ⟨⟨rfl, rfl⟩, rfl⟩ := h
  rfl
/-- Core 0 before the four bytes of a word. -/
def wCode (a b c d : Byte) : State := { wK { pc := 0x1000 } with mem := [⟨0x1000, a⟩, ⟨0x1001, b⟩, ⟨0x1002, c⟩, ⟨0x1003, d⟩] }

theorem nget_all {α : Type} (P : α → Prop) (d : α) (h0 : P d) : ∀ (m : NMap α), (∀ p ∈ m, P p.2) → ∀ i, P (nget m i d)
  | [], _, _ => h0
  | (k, v) :: l, h, i => by
    by_cases hk : k = i
    · simpa [nget, nfind, hk] using h (k, v) (by simp)
    · simpa [nget, nfind, hk] using nget_all P d h0 l (fun p hp => h p (by simp [hp])) i
/-- A table of 100 rows of 64 bytes. -/
def wTab : Version := { wVer with desc := 0x6400000000000000000010004000000000, shards := [⟨0, 0x100000, 0, false, 0, 0⟩] }
/-- A Sorus command in progress, its table resolved. -/
def wCmd (raw : Nat) : State := { wSrv { cmds := [{ wSC with raw := raw, vers := [(0, 0)] }] } with tables := [wTab] }
/-- A Sorus command at the head of queue 0. -/
def wQue (raw : Nat) : State :=
    { wR with servers := [(0, { queues := [(0, [{ wSC with raw := raw }])] })], regs := (pgStk 0 + 0x100, 0x9) :: wR.regs }
/-- Unit 0 as given. -/
def wUnit (u : SUnit) : State := { wR with units := [(0, u)] }

/-- A SCATTER command in progress, and its first index. -/
def wScat (idx : Byte) : State :=
    { wR with servers := [(0, { cmds := [{ wSC with raw := 0x10000000000000000000000000000300000000000000020000000000000000018, vers := [(0, 0)] }] })], tables := [{ wTab with shards := [⟨0, 0, 0, false, 0, 0⟩] }], mem := if idx = 0 then [] else [⟨0x2000, idx⟩] }

/-- A table with a ring of eight slots. -/
def wTab2 : Version :=
    { wVer with desc := 0x100000000000000000000000000000000000000000000000000000000000000000006400000001000000000010004000000000, shards := [⟨0, 0x100000, 0, false, 0, 0⟩] }
/-- A table command of the host, its descriptor in memory. -/
def wTQ (op : Nat) (l : List Version) : State :=
    { wQ (op + 2 ^ 128 * 0x1000) with modes := [(0, 2)], tables := l, mem := [⟨4100, 64⟩, ⟨4102, 16⟩, ⟨4108, 1⟩, ⟨4112, 100⟩, ⟨4146, 16⟩] }

/-- The current collective of queue 0. -/
def wCol (c : Coll) : State := { wT { slice := some wSl } with cols := [(0, { cur := some c })] }
/-- A dispatch slot as given. -/
def wDisp (d : Disp) : State := { wCol { wColl with hdr := 6 } with disps := [(0, d)] }

/-- An answer that is the one given. -/
def isOk {α β : Type} [DecidableEq β] (b : β) : Except α β → Bool
  | .ok c => c == b
  | .error _ => false
theorem ok_of {α β : Type} [DecidableEq β] {x : Except α β} {b : β} (h : isOk b x = true) : x = .ok b := by
  cases x <;> simp [isOk] at h
  rw [h]

/-- A flit of zeros and its CRC. -/
def wFlit : Flit := ⟨[1, 0, 0, 0] ++ List.replicate 120 0 ++ [153, 244, 209, 97], 0, 0⟩

/-- A collective queue, and the value of the counter it awaits. -/
def wCQ (v : Nat) : State :=
    { wT { slice := some wSl } with regs := [(pgColQ 0, 0x9), (pgColQ 0 + 8, 0x1000), (pgColQ 0 + 0x10, 0x40040000)] ++ wR.regs, homes := if v = 0 then [] else [(0, { ctrs := [(0, { value := v })] })] }

/-- A reduction among two packages. -/
def wColl2 : Coll := { wColl with hdr := 0x4000000000000200000000000000010000000000100000000 }
/-- A slice of two packages. -/
def wTop2 : Top :=
    { plan := some (List.replicate 20 0 ++ [0x82, 0x40, 0, 0]), slice := some ⟨0, 0x4082, false, false, false, 0, []⟩ }

theorem ofBytes_zeros : ∀ (l : List Byte), (∀ b ∈ l, b = 0) → ofBytes l = 0
  | [], _ => rfl
  | b :: l, h => by
    have h1 : ofBytes (b :: l) = ofBytes l * 256 + b.toNat := rfl
    rw [h1, ofBytes_zeros l fun c hc => h c (by simp [hc]), h b (by simp)]
    rfl
theorem detEntries_zeros (img : List Byte) (h : ∀ b ∈ img, b = 0) : detEntries img = [] := by
  unfold detEntries
  apply List.filterMap_eq_nil_iff.2
  intro i _
  have h1 : ofBytes ((img.drop (4 * i)).take 4) = 0 :=
    ofBytes_zeros _ fun b hb => h b (List.mem_of_mem_drop (List.mem_of_mem_take hb))
  simp [h1]
theorem readDetours_zeros (s : State) (i : SliceInfo) (hm : s.mem = []) (hj : s.junk = []) (hr : s.reachableRange 0
    24576 = true)
    (hb : s.badPa 0 24576 = false) : s.readDetours i 0 = .ok [] := by
  have h1 : detEntries (s.readPa 0 24576) = [] := detEntries_zeros _ fun b hb => by
    have h2 : s.readPa 0 24576 = s.bytes 0 24576 := rfl
    rw [h2] at hb
    simp only [State.bytes, List.mem_map] at hb
    obtain ⟨k, -, rfl⟩ := hb
    simp [State.byte, hj, hm, cellGet]
  simp [State.readDetours, hr, hb, h1, State.detOk]

theorem nfind_mem {α : Type} {i : Nat} {v : α} : ∀ {l : NMap α}, nfind l i = some v → (i, v) ∈ l
  | (k, w) :: l, h => by
    unfold nfind at h
    split at h
    · cases h; simp_all
    · exact List.mem_cons_of_mem _ (nfind_mem h)
theorem settledOf (s : State) (h0 : s.upsets = []) (h1 : s.someHeld = false) (h2 : s.homes.all (fun p =>
    p.2.accQ.isEmpty) = true) :
    Settled s := by
  refine ⟨h0, h1, fun h => ?_⟩
  simp only [List.all_eq_true] at h2
  unfold State.home nget
  cases h3 : nfind s.homes h with
  | none => rfl
  | some k =>
    simpa using h2 _ (nfind_mem h3)

/-- The one shard of a table. -/
def wShard : Shard := ⟨0, 0, 0, false, 0, 0⟩

/-- A Sorus command whose list or source lies on a channel of a fenced PHY die. -/
def wLost (raw : Nat) : State :=
    { wR with servers := [(0, { cmds := [{ wSC with raw := raw, vers := [(0, 0)] }] }), (16, { fenced := true })], tables := [wTab], tlb := ⟨agStack 0, 0x50000000, 0x80000000000, 0x10000, true, true, true, true⟩ :: wR.tlb }

/-! For each statement, in the order of its clauses that have hypotheses: values that meet all of them together. -/

theorem test_meets_PowerPins :
    (∃ (s : State), s.pw.pwrEn = false) ∧
    (∃ (s : State), s.pw.pwrEn = true) ∧
    (∃ (s : State), s.pw.pwrEn = true ∧ s.pw.powered = true ∧ s.pw.pwrgd = false) ∧
    (∃ (s : State), s.pw.powered = true) ∧
    (∃ (s : State), s.pw.pwrgd = true) ∧
    (∃ (s : State), s.pw.pwrgd = false) :=
  ⟨⟨wPw fun p => { p with pwrEn := false }, by decide⟩,
   ⟨wR, by decide⟩,
   ⟨wPw fun p => { p with pwrgd := false }, by decide, by decide, by decide⟩,
   ⟨wR, by decide⟩,
   ⟨wR, by decide⟩,
   ⟨wPw fun p => { p with pwrgd := false }, by decide⟩⟩

theorem test_meets_ClocksAndTimestamps :
    (∃ (s : State), s.pw.pwrgd = true ∧ s.pw.locked = false ∧ (s.pw.rackValid || s.pw.pcieValid) = true) ∧
    (∃ (s : State), (∀ l < 16, (s.link l).drop = none)) ∧
    (∃ (s : State), s.pw.locked = true ∧ s.pw.rackValid = true) ∧
    (∃ (s : State), s.rackAligned = true ∧ s.rbit (pgTop + 0x0AC) 0 = true) ∧
    (∃ (s : State), s.rackAligned = true ∧ s.rbit (pgTop + 0x0AC) 0 = false ∧ s.top.slew = 0 ∧ s.top.corrFrom = none) ∧
    (∃ (s : State), s.pw.powered = true ∧ s.rackAligned = false) ∧
    (∃ (s : State), s.pw.powered = true) ∧
    (∃ (s : State) (l : LinkId), (s.link l).st = 4) ∧
    (∃ (s : State), s.pw.powered = true) ∧
    (∃ (s : State), s.serves .cor = true) ∧
    (∃ (s : State) (c : CoreId), s.serves .cor = true ∧ bitOf s.boot.clusters.toNat (c.val / 64) = true) :=
  ⟨⟨wPw fun p => { p with locked := false }, by decide, by decide, by decide⟩,
   ⟨wR, by decide⟩,
   ⟨wR, by decide, by decide⟩,
   ⟨wP [(pgTop + 0x0AC, 1)], by decide, by decide⟩,
   ⟨wR, by decide, by decide, by decide, by decide⟩,
   ⟨wPw fun p => { p with rackValid := false }, by decide, by decide⟩,
   ⟨wR, by decide⟩,
   ⟨wL { st := 4 }, 0, by decide⟩,
   ⟨wR, by decide⟩,
   ⟨wR, by decide⟩,
   ⟨wR, 0, by decide, by decide⟩⟩

theorem test_meets_PowerManager :
    (∃ (s : State) (h : HomeId), s.ready = true ∧ bitOf s.boot.clusters.toNat h = true ∧ s.rbit (pgCpd + 0x048) 2 = true ∧
     nfind s.pw.droop h = none) ∧
    (∃ (s : State) (h : HomeId) (t0 : Nat), nfind s.pw.droop h = some t0) ∧
    (∃ (rails : List Nat), rails.length = 32) ∧
    (∃ (s : State) (mw : List Nat), mw.length = 32 ∧ s.pw.powered = true ∧ s.ready = true ∧ s.enabled pgCpd = true) ∧
    (∃ (s : State) (avgW : Nat), s.ready = true ∧ s.enabled pgCpd = true ∧ 110 * s.rfld (pgCpd + 0x044) 0 12 < avgW * 100) ∧
    (∃ (s : State), s.ready = true) :=
  ⟨⟨wR, 0, by decide, by decide, by decide, by decide⟩,
   ⟨wPw fun p => { p with droop := [(0, 0)] }, 0, 0, rfl⟩,
   ⟨List.replicate 32 700, by decide⟩,
   ⟨wR, List.replicate 32 100, by decide, by decide, by decide, by decide⟩,
   ⟨wR, 10000, by decide, by decide, by decide⟩,
   ⟨wR, by decide⟩⟩

theorem test_meets_MaintenanceFrame :
    (∃ (s : State), s.ready = true ∧ s.pw.resync = false ∧ s.frameDue = true) ∧
    (∃ (s : State), s.ready = true ∧ s.pw.resync = true) ∧
    (∃ (s : State), s.ready = true ∧ s.pw.resync = false ∧ s.pw.frame = s.now.toNat / 128000 % 2 ^ 32) ∧
    (∃ (s : State) (n : Nat), s.ready = true ∧ s.pw.resync = false ∧ s.pw.frame = s.now.toNat / 128000 % 2 ^ 32 ∧ n =
     s.now.toNat % 128000 / 8000 ∧ s.pw.next ≤ n ∧ bitOf s.pw.slotEn.toNat n = false) ∧
    (∃ (s : State), s.ready = true ∧ s.pw.resync = false ∧ s.now.toNat % 128000 / 8000 < s.pw.next) ∧
    (∃ (s : State) (obs : SlotObs), s.ready = true ∧ s.pw.resync = false ∧ s.pw.frame = s.now.toNat / 128000 % 2 ^ 32 ∧
     s.now.toNat % 128000 / 8000 = 10 ∧ s.pw.next ≤ 10 ∧ bitOf s.pw.slotEn.toNat 10 = true ∧ obs.auditBad = true) ∧
    (∃ (s : State) (n : Nat), s.pw.holding = true ∧ (∀ l < 16, (s.link l).st ≠ 5) ∧ s.bar2Wait = [] ∧ s.chanWait = [] ∧
     s.moves = [] ∧ (∀ u, ∀ e ∈ (s.unit u).uct, e.due = none) ∧ n = s.slotKeys.length + (if s.pw.chunk.isSome then 1 else 0)
     ∧ n ≠ 0) ∧
    (∃ (s : State) (a : Nat), s.memOk = true ∧ s.ready = true ∧ s.rbit (pgTel + 0x040) 0 = true ∧ s.pw.slot = 6 ∧ s.rfld
     (pgTel + 0x040) 8 8 ≤ s.pw.autoCount ∧ a = s.reg64 (pgTel + 0x048) % 2 ^ 48 ∧ s.reachableRange a 256 = true ∧ placeOf a
     ≠ .host ∧ Settled s ∧ (∀ x ∈ sectorsOf a 256, s.hasEntry x = false)) ∧
    (∃ (s : State) (tid : TableId) (m : Move), s.moves = [m] ∧ m.tid = tid.val ∧ m.flipped = true ∧ s.moveBusy m = false ∧
     m.freeSlot = none ∧ s.pw.place = [] ∧ (∀ u, (s.unit u).uct = [])) ∧
    (∃ (s : State), s.pw.bounds - s.pw.aged < s.rfld (pgTbl + 0x048) 8 4) ∧
    (∃ (s : State), s.rfld (pgTbl + 0x048) 8 4 ≤ s.pw.bounds - s.pw.aged) :=
  ⟨⟨{ wR with now := 128000 }, by decide, by decide, by decide⟩,
   ⟨wPw fun p => { p with resync := true }, by decide, by decide⟩,
   ⟨wR, by decide, by decide, by decide⟩,
   ⟨wPw fun p => { p with slotEn := 0 }, _, by decide, by decide, by decide, rfl, by decide, by decide⟩,
   ⟨wPw fun p => { p with next := 10 }, by decide, by decide, by decide⟩,
   ⟨{ wPw (fun p => { p with next := 10 }) with now := 80000 }, ⟨false, [], [], 0, 0, true, []⟩, by decide, by decide, by
    decide, by decide, by decide, by decide, by decide⟩,
   ⟨{ wPw (fun p => { p with holding := true }) with chans := [(0, { st := 1 })] }, _, by decide, by decide, by decide, by
    decide, by decide, (by intro u e he; cases he), rfl, by decide⟩,
   ⟨{ wP [(pgTel + 0x040, 1)] with pw := { wR.pw with slot := 6 } }, _, by decide, by decide, by decide, by decide, by
    decide, rfl, by decide, by decide, settledOf _ rfl (by decide) (by decide), by decide⟩,
   ⟨{ wR with moves := [{ tid := 0, epoch := 0, row := 0, src := 0, dst := 0, bytes := 0, freeSlot := none, flipped := true }] },
    0, _, rfl, by decide, by decide, by decide, by decide, by decide, fun u => rfl⟩,
   ⟨wP [(pgTbl + 0x048, 0x100)], by decide⟩,
   ⟨wPw fun p => { p with bounds := 15 }, by decide⟩⟩

theorem test_meets_ControlProcessor :
    (∃ (s : State) (s1 : State) (c : CoreId) (w : Nat) (raw : Nat) (len : Nat), s.canIssue c = true ∧ s.fetchInstr c = .std
     w raw len s1 ∧ fld w 0 7 = 0x13 ∧ fld w 12 3 = 0) ∧
    (∃ (s : State) (s1 : State) (c : CoreId) (raw : Nat) (len : Nat), s.canIssue c = true ∧ s.fetchInstr c = .std 0x73 raw
     len s1) ∧
    (∃ (s : State) (s1 : State) (c : CoreId) (raw : Nat) (len : Nat), s.canIssue c = true ∧ s.fetchInstr c = .std 0x30200073
     raw len s1 ∧ (s1.core c).machine = true) ∧
    (∃ (s : State) (s1 : State) (c : CoreId) (raw : Nat), s.canIssue c = true ∧ s.fetchInstr c = .bad raw s1) ∧
    (∃ (s : State) (c : CoreId), s.canIssue c = false) :=
  ⟨⟨wCode 0x93 0 0x50 0, fetchedSt ((wCode 0x93 0 0x50 0).fetchInstr (0 : CoreId).val), 0, 0x500093, 0x500093, 4, by
    decide, eq_std (by decide), by decide, by decide⟩,
   ⟨wCode 0x73 0 0 0, fetchedSt ((wCode 0x73 0 0 0).fetchInstr (0 : CoreId).val), 0, 0x73, 4, by decide, eq_std (by
    decide)⟩,
   ⟨wCode 0x73 0 0x20 0x30, fetchedSt ((wCode 0x73 0 0x20 0x30).fetchInstr (0 : CoreId).val), 0, 0x30200073, 4, by decide,
    eq_std (by decide), by decide⟩,
   ⟨wR, _, 0, _, by decide, rfl⟩,
   ⟨wK { idle := true }, 0, by decide⟩⟩

theorem test_meets_MatrixProducts :
    (∃ (s : State) (c : CoreId) (acc : AccId) (a : TileId) (b : TileId), s.canIssue c = true ∧ denseOk (fld (s.core
     c).mxfmt.toNat 0 4) (fld (s.core c).mxfmt.toNat 4 4) (bitOf (s.core c).mxfmt.toNat 8) = true ∧ bitOf (s.core
     c).mxfmt.toNat 9 = false ∧ a.val ≤ 447 ∧ b.val ≤ 447 ∧ s.anyBreach c [a.val, b.val] [acc.val] [] = false ∧ (s.core
     c).pending [a.val, b.val] = false ∧ (s.core c).mmaQ.length < 16) ∧
    (∃ (s : State) (c : CoreId) (acc : AccId) (a : TileId) (b : TileId) (fa : FmtCode) (fb : FmtCode) (mx : Bool),
     s.canIssue c = true ∧ sparseOk fa.toNat fb.toNat mx = true ∧ a.val < 447 ∧ b.val < 447 ∧ s.anyBreach c [a.val, a.val +
     1, b.val, b.val + 1] [acc.val] [] = false ∧ (s.core c).pending [a.val, a.val + 1, b.val, b.val + 1] = false ∧ (s.core
     c).mmaQ.length < 16) ∧
    (∃ (s : State) (c : CoreId) (acc : AccId) (a : TileId) (b : TileId) (fa : FmtCode) (fb : FmtCode) (mx : Bool),
     s.canIssue c = true ∧ denseOk fa.toNat fb.toNat mx = true ∧ a.val ≤ 447 ∧ b.val ≤ 447 ∧ s.anyBreach c [a.val, b.val]
     [acc.val] [] = false ∧ (s.core c).pending [a.val, b.val] = false ∧ (s.core c).mmaQ.length < 16) ∧
    (∃ (s : State) (c : CoreId) (op : MmaOp) (q : List MmaOp), (s.core c).mmaQ = op :: q) ∧
    (∃ (s : State) (c : CoreId) (src : TileId) (dst : TileId), s.canIssue c = true ∧ sparseFmt (fld (s.core c).mxfmt.toNat 0
     4) = true ∧ src.val < 447 ∧ dst.val < 447 ∧ s.anyBreach c [src.val, src.val + 1, dst.val, dst.val + 1] [] [] = false ∧
     (s.core c).pending [src.val, src.val + 1, dst.val, dst.val + 1] = false) ∧
    (∃ (s : State) (c : CoreId) (src : TileId) (dst : TileId), s.canIssue c = true ∧ bitOf (s.core c).mxfmt.toNat 8 = false
     ∧ fld (s.core c).mxfmt.toNat 0 4 = 1 ∧ src.val + 3 ≤ 447 ∧ dst.val + 3 ≤ 447 ∧ s.anyBreach c [src.val, src.val + 1,
     src.val + 2, src.val + 3, dst.val, dst.val + 1, dst.val + 2, dst.val + 3] [] [] = false ∧ (s.core c).pending [src.val,
     src.val + 1, src.val + 2, src.val + 3, dst.val, dst.val + 1, dst.val + 2, dst.val + 3] = false) :=
  ⟨⟨wK { mxfmt := 0x11 }, 0, 0, 0, 0, by decide, by decide, by decide, by decide, by decide, by decide, by decide, by
    decide⟩,
   ⟨wR, 0, 0, 0, 0, 1, 1, false, by decide, by decide, by decide, by decide, by decide, by decide, by decide⟩,
   ⟨wR, 0, 0, 0, 0, 1, 1, false, by decide, by decide, by decide, by decide, by decide, by decide, by decide⟩,
   ⟨wK { mmaQ := [⟨0, 0, 0, 1, 1, false, false, false⟩] }, 0, _, _, rfl⟩,
   ⟨wK { mxfmt := 0x11 }, 0, 0, 0, by decide, by decide, by decide, by decide, by decide, by decide⟩,
   ⟨wK { mxfmt := 0x11 }, 0, 0, 0, by decide, by decide, by decide, by decide, by decide, by decide, by decide⟩⟩

theorem test_meets_StagingTransfers :
    (∃ (s : State) (s1 : State) (c : CoreId) (rs1 : XReg) (rs2 : XReg) (t : TileId) (ts : List (Target × Nat)), s.canIssue c
     = true ∧ t.val ≤ 447 ∧ s.anyBreach c [t.val] [] [] = false ∧ (s.core c).pending [t.val] = false ∧ misaligned4 ((s.core
     c).getX rs1).toNat ((s.core c).getX rs2).toNat = none ∧ rs2.val = 0 ∧ s.memCheck c false (rowPieces ((s.core c).getX
     rs1).toNat ((s.core c).getX rs2).toNat 32 1) = .ok ts s1) ∧
    (∃ (s : State) (s1 : State) (c : CoreId) (rs1 : XReg) (rs2 : XReg) (t : TileId) (tr : Bool) (fsel : Bool) (ts : List
     (Target × Nat)) (f : Nat) (n : Nat) (rows : Nat), s.canIssue c = true ∧ t.val ≤ 447 ∧ s.anyBreach c [t.val] [] [] =
     false ∧ (s.core c).pending [t.val] = false ∧ misaligned4 ((s.core c).getX rs1).toNat ((s.core c).getX rs2).toNat = none
     ∧ f = (if fsel then fld (s.core c).mxfmt.toNat 4 4 else fld (s.core c).mxfmt.toNat 0 4) ∧ tileK f ≠ 0 ∧ n = (if tr then
     16 * fmtBits f / 8 else tileL f) ∧ rows = (if tr then tileK f else 16) ∧ s.memCheck c false (rowPieces ((s.core c).getX
     rs1).toNat ((s.core c).getX rs2).toNat n rows) = .ok ts s1) ∧
    (∃ (s : State) (s1 : State) (c : CoreId) (rs1 : XReg) (rs2 : XReg) (acc : AccId) (ofmt : FmtCode) (sr : Bool) (ts : List
     (Target × Nat)), s.canIssue c = true ∧ ofmtOk ofmt.toNat sr = true ∧ s.anyBreach c [] [acc.val] [] = false ∧
     misaligned4 ((s.core c).getX rs1).toNat ((s.core c).getX rs2).toNat = none ∧ s.memCheck c true (rowPieces ((s.core
     c).getX rs1).toNat ((s.core c).getX rs2).toNat (2 * fmtBits ofmt.toNat) 16) = .ok ts s1) ∧
    (∃ (s : State) (s1 : State) (c : CoreId) (rs1 : XReg) (rs2 : XReg) (acc : AccId) (ts : List (Target × Nat)), s.canIssue
     c = true ∧ s.anyBreach c [] [acc.val] [] = false ∧ misaligned4 ((s.core c).getX rs1).toNat ((s.core c).getX rs2).toNat
     = none ∧ s.memCheck c false (rowPieces ((s.core c).getX rs1).toNat ((s.core c).getX rs2).toNat 64 16) = .ok ts s1) ∧
    (∃ (s : State) (c : CoreId) (mask : Half), s.canIssue c = true ∧ s.anyBreach c [] (maskAccs mask) [] = false) ∧
    (∃ (s : State) (c : CoreId) (v : VSlot) (acc : AccId) (ofmt : FmtCode) (sr : Bool), s.canIssue c = true ∧ ofmtOk
     ofmt.toNat sr = true ∧ s.anyBreach c [] [acc.val] [v.val] = false) ∧
    (∃ (s : State) (c : CoreId) (v : VSlot) (t : TileId), s.canIssue c = true ∧ t.val ≤ 447 ∧ s.anyBreach c [t.val] []
     [v.val] = false ∧ (s.core c).pending [t.val] = false) :=
  ⟨⟨wR, _, 0, 0, 0, 0, _, by decide, by decide, by decide, by decide, by decide, by decide, rfl⟩,
   ⟨wK { mxfmt := 0x11 }, _, 0, 0, 0, 0, false, false, _, _, _, _, by decide, by decide, by decide, by decide, by decide,
    rfl, by decide, rfl, rfl, rfl⟩,
   ⟨wR, _, 0, 0, 0, 0, 0, false, _, by decide, by decide, by decide, by decide, rfl⟩,
   ⟨wR, _, 0, 0, 0, 0, _, by decide, by decide, by decide, rfl⟩,
   ⟨wR, 0, 0, by decide, by decide⟩,
   ⟨wR, 0, 0, 0, 0, false, by decide, by decide, by decide⟩,
   ⟨wR, 0, 0, 0, by decide, by decide, by decide, by decide⟩⟩

theorem test_meets_IntegerMatrixProduct :
    ∃ (s : State) (c : CoreId) (op : MmaOp) (q : List MmaOp) (l : Nat) (j : Nat), (s.core c).mmaQ = op :: q ∧ op.spa = false
    ∧ op.mx = false ∧ op.fa = 7 ∧ op.fb = 7 ∧ l < 16 ∧ j < 16 :=
  ⟨wK { mmaQ := [⟨0, 0, 0, 7, 7, false, false, false⟩] }, 0, _, _, 0, 0, rfl, by decide, by decide, by decide, by decide, by
  decide, by decide⟩

theorem test_meets_EngineLocality :
    ∃ (i : Instr) (c : CoreId), engineLocal i = some c :=
  ⟨.mma 0 0 0 0, 0, by decide⟩

theorem test_meets_VectorArithmetic :
    ∃ (op : VArith) (c : CoreId) (vd : VSlot) (vs1 : VSlot) (f : VForm) (s : State) (k : Core) (a : VArgs), k = s.core c ∧ a
    = k.args f ∧ s.canIssue c = true ∧ op.fmtOk a.fmt = true ∧ k.vl ≤ vlMax a.fmt ∧ a.immOk = true ∧ (op.binary || a.unused)
    = true ∧ s.anyBreach c [] [] ([vd.val, vs1.val] ++ (if op.binary then a.slots else [])) = false :=
  ⟨.add, 0, 0, 0, .imm 0 false, wR, _, _, rfl, rfl, by decide, by decide, by decide, by decide, by decide, by decide⟩

theorem test_meets_VectorComparesAndSetup :
    (∃ (c : CoreId) (vs1 : VSlot) (f : VForm) (s : State) (k : Core) (a : VArgs), k = s.core c ∧ a = k.args f ∧ s.canIssue c
     = true ∧ vArithFmt a.fmt = true ∧ k.vl ≤ vlMax a.fmt ∧ a.immOk = true ∧ s.anyBreach c [] [] (vs1.val :: a.slots) =
     false) ∧
    (∃ (s : State) (c : CoreId) (vfmt : FmtCode), s.canIssue c = true ∧ vfmt.toNat ≤ 9) ∧
    (∃ (s : State) (c : CoreId) (vfmt : FmtCode), s.canIssue c = true ∧ 10 ≤ vfmt.toNat) ∧
    (∃ (s : State) (c : CoreId) (lop : LopCode), s.canIssue c = true ∧ lop.val ≤ 5) ∧
    (∃ (s : State) (c : CoreId), s.canIssue c = true) ∧
    (∃ (s : State) (c : CoreId) (vs : VSlot), s.canIssue c = true ∧ (s.core c).vfmt ≤ 9 ∧ (s.core c).vl ≤ vlMax (s.core
     c).vfmt ∧ s.anyBreach c [] [] [vs.val] = false ∧ (s.core c).vBad.contains vs.val = false) ∧
    (∃ (s : State) (c : CoreId) (vd : VSlot) (imm : Half) (v : Nat), s.canIssue c = true ∧ vbciImm (s.core c).vfmt imm.toNat
     = some v ∧ (s.core c).vl ≤ vlMax (s.core c).vfmt ∧ s.anyBreach c [] [] [vd.val] = false) :=
  ⟨⟨0, 0, .imm 0 false, wR, _, _, rfl, rfl, by decide, by decide, by decide, by decide, by decide⟩,
   ⟨wR, 0, 0, by decide, by decide⟩,
   ⟨wR, 0, 10, by decide, by decide⟩,
   ⟨wR, 0, 0, by decide, by decide⟩,
   ⟨wR, 0, by decide⟩,
   ⟨wR, 0, 0, by decide, by decide, by decide, by decide, by decide⟩,
   ⟨wR, 0, 0, 0, _, by decide, rfl, by decide, by decide⟩⟩

theorem test_meets_VectorReductions :
    ∃ (c : CoreId) (vd : VSlot) (vs1 : VSlot) (f : VForm) (s : State) (k : Core) (a : VArgs), k = s.core c ∧ a = k.args f ∧
    s.canIssue c = true ∧ vArithFmt a.fmt = true ∧ k.vl ≤ vlMax a.fmt ∧ a.unused = true ∧ a.zm = false ∧ s.anyBreach c [] []
    [vd.val, vs1.val] = false :=
  ⟨0, 0, 0, .w32 0 false, wR, _, _, rfl, rfl, by decide, by decide, by decide, by decide, by decide, by decide⟩

theorem test_meets_VectorRearrangement :
    (∃ (op : VPerm) (c : CoreId) (vd : VSlot) (vs1 : VSlot) (vs2 : VSlot) (f : VForm) (s : State) (k : Core) (a : VArgs), k
     = s.core c ∧ a = k.args f ∧ s.canIssue c = true ∧ vMoveFmt a.fmt = true ∧ k.vl ≤ vlMax a.fmt ∧ a.vs2 = some vs2.val ∧
     (op = .perm ∨ op = .packe ∨ op = .packo ∨ op = .unpkl ∨ op = .unpkh) ∧ (op = .perm ∨ vs2Zero f = true) ∧ s.anyBreach c
     [] [] [vd.val, vs1.val, vs2.val] = false) ∧
    (∃ (c : CoreId) (vd : VSlot) (vs1 : VSlot) (f : VForm) (s : State) (k : Core) (a : VArgs), k = s.core c ∧ a = k.args f ∧
     s.canIssue c = true ∧ vMoveFmt a.fmt = true ∧ k.vl ≤ vlMax a.fmt ∧ a.unused = true ∧ s.anyBreach c [] [] [vd.val,
     vs1.val] = false) ∧
    (∃ (c : CoreId) (vd : VSlot) (vs1 : VSlot) (s : State) (k : Core), k = s.core c ∧ s.canIssue c = true ∧ vMoveFmt k.vfmt
     = true ∧ k.vl ≤ vlMax k.vfmt ∧ s.anyBreach c [] [] [vd.val, vs1.val] = false) :=
  ⟨⟨.perm, 0, 0, 0, 0, .w32 0 false, wR, _, _, rfl, rfl, by decide, by decide, by decide, by decide, by decide, by decide,
    by decide⟩,
   ⟨0, 0, 0, .w32 0 false, wR, _, _, rfl, rfl, by decide, by decide, by decide, by decide, by decide⟩,
   ⟨0, 0, 0, wR, _, rfl, by decide, by decide, by decide, by decide⟩⟩

theorem test_meets_VectorConversionAndMemory :
    (∃ (c : CoreId) (vd : VSlot) (vs1 : VSlot) (f : VCvtForm) (s : State) (k : Core) (a : CvtArgs), k = s.core c ∧ a =
     k.cvtArgs f ∧ s.canIssue c = true ∧ a.ok k.vl = true ∧ s.anyBreach c [] [] ([vd.val, vs1.val] ++ if a.mx then [a.scs]
     else []) = false) ∧
    (∃ (s : State) (s1 : State) (c : CoreId) (v : VSlot) (rs1 : XReg) (k : Core) (ts : List (Target × Nat)), k = s.core c ∧
     s.canIssue c = true ∧ k.vfmt ≤ 9 ∧ k.vl ≤ vlMax k.vfmt ∧ bitOf k.vmsel 3 = false ∧ s.anyBreach c [] [] [v.val] = false
     ∧ (k.getX rs1).toNat % max 1 (fmtBits k.vfmt / 8) = 0 ∧ s.memCheck c false (pieces (k.getX rs1).toNat ((k.vl * fmtBits
     k.vfmt + 7) / 8)) = .ok ts s1) ∧
    (∃ (s : State) (s1 : State) (c : CoreId) (v : VSlot) (rs1 : XReg) (rs2 : XReg) (k : Core) (ts : List (Target × Nat)), k
     = s.core c ∧ s.canIssue c = true ∧ k.vfmt ≤ 9 ∧ 8 ≤ fmtBits k.vfmt ∧ k.vl ≤ vlMax k.vfmt ∧ s.anyBreach c [] [] [v.val]
     = false ∧ (k.getX rs1).toNat % (fmtBits k.vfmt / 8) = 0 ∧ (k.getX rs2).toInt % ((fmtBits k.vfmt / 8 : Nat) : Int) = 0 ∧
     s.memCheck c false (vPieces k (fmtBits k.vfmt) (k.getX rs1).toNat (k.getX rs2).toInt false) = .ok ts s1) ∧
    (∃ (s : State) (s1 : State) (c : CoreId) (v : VSlot) (rs1 : XReg) (k : Core) (ts : List (Target × Nat)), k = s.core c ∧
     s.canIssue c = true ∧ k.vfmt ≤ 9 ∧ k.vl ≤ vlMax k.vfmt ∧ bitOf k.vmsel 3 = false ∧ s.anyBreach c [] [] [v.val] = false
     ∧ (k.getX rs1).toNat % max 1 (fmtBits k.vfmt / 8) = 0 ∧ s.memCheck c true (pieces (k.getX rs1).toNat ((k.vl * fmtBits
     k.vfmt + 7) / 8)) = .ok ts s1) ∧
    (∃ (strided : Bool) (s : State) (s1 : State) (c : CoreId) (v : VSlot) (rs1 : XReg) (rs2 : XReg) (k : Core) (ts : List
     (Target × Nat)) (stride : Int), k = s.core c ∧ s.canIssue c = true ∧ k.vfmt ≤ 9 ∧ 8 ≤ fmtBits k.vfmt ∧ k.vl ≤ vlMax
     k.vfmt ∧ s.anyBreach c [] [] [v.val] = false ∧ (k.getX rs1).toNat % (fmtBits k.vfmt / 8) = 0 ∧ stride = (if strided
     then (k.getX rs2).toInt else ((fmtBits k.vfmt / 8 : Nat) : Int)) ∧ stride % ((fmtBits k.vfmt / 8 : Nat) : Int) = 0 ∧
     (strided = true ∨ bitOf k.vmsel 3 = true) ∧ s.memCheck c true (vPieces k (fmtBits k.vfmt) (k.getX rs1).toNat stride
     false) = .ok ts s1) :=
  ⟨⟨0, 0, 0, .w32 0 false false, wR, _, _, rfl, rfl, by decide, by decide, by decide⟩,
   ⟨wR, _, 0, 0, 0, _, _, rfl, by decide, by decide, by decide, by decide, by decide, by decide, rfl⟩,
   ⟨wR, _, 0, 0, 0, 0, _, _, rfl, by decide, by decide, by decide, by decide, by decide, by decide, by decide, rfl⟩,
   ⟨wR, _, 0, 0, 0, _, _, rfl, by decide, by decide, by decide, by decide, by decide, by decide, rfl⟩,
   ⟨true, wR, _, 0, 0, 0, 0, _, _, _, rfl, by decide, by decide, by decide, by decide, by decide, by decide, rfl, by
    decide, by decide, rfl⟩⟩

theorem test_meets_EngineExceptions :
    (∃ (s : State) (c : CoreId) (fa : FmtCode) (fb : FmtCode) (mx : Bool), s.canIssue c = true ∧ denseOk fa.toNat fb.toNat
     mx = false) ∧
    (∃ (s : State) (c : CoreId) (rs1 : XReg) (acc : AccId), s.canIssue c = true ∧ s.anyBreach c [] [acc.val] [] = false ∧
     ((s.core c).getX rs1).toNat % 4 ≠ 0) ∧
    (∃ (s : State) (c : CoreId) (rs1 : XReg) (acc : AccId) (ofmt : FmtCode) (sr : Bool), s.canIssue c = true ∧ ofmtOk
     ofmt.toNat sr = true ∧ s.anyBreach c [] [acc.val] [] = false ∧ ((s.core c).getX rs1).toNat % 4 ≠ 0) ∧
    (∃ (s : State) (c : CoreId) (t : TileId), s.canIssue c = true ∧ 384 ≤ t.val ∧ t.val ≤ 447 ∧ s.rbit (pgCor c + 0x040) 0 =
     true ∧ (s.core c).prio7 = false) ∧
    (∃ (s : State) (c : CoreId) (t : TileId), s.canIssue c = true ∧ 447 < t.val) ∧
    (∃ (s : State) (s1 : State) (c : CoreId) (rs1 : XReg) (rs2 : XReg) (acc : AccId) (va : Nat), s.canIssue c = true ∧
     s.anyBreach c [] [acc.val] [] = false ∧ misaligned4 ((s.core c).getX rs1).toNat ((s.core c).getX rs2).toNat = none ∧
     ((rowPieces ((s.core c).getX rs1).toNat ((s.core c).getX rs2).toNat 64 16).any fun p => s.coreWalkHeld c p.1 p.2) =
     false ∧ s.coreXlateAll c false (rowPieces ((s.core c).getX rs1).toNat ((s.core c).getX rs2).toNat 64 16) = (.error va,
     s1)) :=
  ⟨⟨wR, 0, 0, 0, false, by decide, by decide⟩,
   ⟨wX [(1, 2)], 0, 1, 0, by decide, by decide, by decide⟩,
   ⟨wX [(1, 2)], 0, 1, 0, 0, false, by decide, by decide, by decide, by decide⟩,
   ⟨wP [(pgCor 0 + 0x040, 1)], 0, 384, by decide, by decide, by decide, by decide, by decide⟩,
   ⟨wR, 0, 448, by decide, by decide⟩,
   ⟨wK { x := [(1, 0x600000)], machine := false }, _, 0, 1, 0, 0, _, by decide, by decide, by decide, by decide, rfl⟩⟩

theorem test_meets_CommandIssue :
    (∃ (s : State) (s1 : State) (c : CoreId) (rs1 : XReg) (rs2 : XReg) (v : Nat) (base : Nat) (ts : List (Target × Nat)) (l
     : List Byte) (s2 : State), s.canIssue c = true ∧ (s.core c).placing = none ∧ (s.core c).stalled = false ∧ v = ((s.core
     c).getX rs2).toNat ∧ base = ((s.core c).getX rs1).toNat ∧ base % 64 = 0 ∧ s.memCheck c false (pieces base (64 * fld v
     16 16)) = .ok ts s1 ∧ s1.coreReadAll c ts = (l, false, s2) ∧ fld v 10 6 = 0 ∧ fld v 32 32 = 0 ∧ fld v 16 16 ≠ 0 ∧
     s2.queueOn (fld v 0 4) (fld v 4 6) = true ∧ l.length = 64 * fld v 16 16 ∧ isScatter (ofBytes (l.take 64) % 256) = false
     ∧ s2.listBusy (fld v 0 4) (fld v 4 6) (srcCore c) = false ∧ fld v 16 16 + s2.queueOcc (fld v 0 4) (fld v 4 6) ≤
     s2.queueDepth (fld v 0 4) (fld v 4 6)) ∧
    (∃ (s : State) (s1 : State) (c : CoreId) (rs1 : XReg) (rs2 : XReg) (v : Nat) (base : Nat) (ts : List (Target × Nat)) (l
     : List Byte) (s2 : State), s.canIssue c = true ∧ (s.core c).placing = none ∧ (s.core c).stalled = false ∧ v = ((s.core
     c).getX rs2).toNat ∧ base = ((s.core c).getX rs1).toNat ∧ base % 64 = 0 ∧ s.memCheck c false (pieces base (64 * fld v
     16 16)) = .ok ts s1 ∧ s1.coreReadAll c ts = (l, false, s2) ∧ (fld v 10 6 ≠ 0 ∨ fld v 32 32 ≠ 0 ∨ fld v 16 16 = 0 ∨
     s2.queueOn (fld v 0 4) (fld v 4 6) = false)) ∧
    (∃ (s : State) (s1 : State) (c : CoreId) (rs1 : XReg) (rs2 : XReg) (v : Nat) (base : Nat) (ts : List (Target × Nat)) (l
     : List Byte) (s2 : State), s.canIssue c = true ∧ (s.core c).placing = none ∧ (s.core c).stalled = false ∧ v = ((s.core
     c).getX rs2).toNat ∧ base = ((s.core c).getX rs1).toNat ∧ base % 64 = 0 ∧ s.memCheck c false (pieces base (64 * fld v
     16 16)) = .ok ts s1 ∧ s1.coreReadAll c ts = (l, false, s2) ∧ fld v 10 6 = 0 ∧ fld v 32 32 = 0 ∧ fld v 16 16 ≠ 0 ∧
     s2.queueOn (fld v 0 4) (fld v 4 6) = true ∧ l.length = 64 * fld v 16 16 ∧ s2.queueDepth (fld v 0 4) (fld v 4 6) < fld v
     16 16 + s2.queueOcc (fld v 0 4) (fld v 4 6)) ∧
    (∃ (s : State) (s1 : State) (c : CoreId) (rs1 : XReg) (rs2 : XReg) (v : Nat) (base : Nat) (e : Nat) (ts : List (Target ×
     Nat)) (l : List Byte) (s2 : State), s.canIssue c = true ∧ (s.core c).placing = none ∧ (s.core c).stalled = false ∧ v =
     ((s.core c).getX rs2).toNat ∧ base = ((s.core c).getX rs1).toNat ∧ base % 64 = 0 ∧ s.memCheck c false (pieces base (64
     * fld v 16 16)) = .ok ts s1 ∧ s1.coreReadAll c ts = (l, false, s2) ∧ fld v 3 13 = 0 ∧ fld v 32 32 = 0 ∧ fld v 16 16 = 1
     ∧ e = homeOf c * 8 + fld v 0 3 ∧ s2.sengOn e = true ∧ (s2.seng e).placer = none ∧ (s2.seng e).queue.length < 64) ∧
    (∃ (s : State) (s1 : State) (c : CoreId) (rs1 : XReg) (rs2 : XReg) (v : Nat) (base : Nat) (e : Nat) (ts : List (Target ×
     Nat)) (l : List Byte) (s2 : State), s.canIssue c = true ∧ (s.core c).placing = none ∧ (s.core c).stalled = false ∧ v =
     ((s.core c).getX rs2).toNat ∧ base = ((s.core c).getX rs1).toNat ∧ base % 64 = 0 ∧ s.memCheck c false (pieces base (64
     * fld v 16 16)) = .ok ts s1 ∧ s1.coreReadAll c ts = (l, false, s2) ∧ fld v 3 13 = 0 ∧ fld v 32 32 = 0 ∧ fld v 16 16 ≠ 0
     ∧ fld v 16 16 ≤ 64 ∧ e = homeOf c * 8 + fld v 0 3 ∧ s2.sengOn e = true ∧ 64 < (s2.seng e).queue.length + fld v 16 16) ∧
    (∃ (s : State) (c : CoreId) (rs1 : XReg), s.canIssue c = true ∧ (s.core c).placing = none ∧ (s.core c).stalled = false ∧
     ((s.core c).getX rs1).toNat % 64 ≠ 0) ∧
    (∃ (s : State) (s1 : State) (c : CoreId) (rs1 : XReg) (rs2 : XReg) (v : Nat) (base : Nat) (ts : List (Target × Nat)) (l
     : List Byte) (s2 : State), s.canIssue c = true ∧ (s.core c).placing = none ∧ (s.core c).stalled = false ∧ v = ((s.core
     c).getX rs2).toNat ∧ base = ((s.core c).getX rs1).toNat ∧ base % 64 = 0 ∧ s.memCheck c false (pieces base (64 * fld v
     16 16)) = .ok ts s1 ∧ s1.coreReadAll c ts = (l, true, s2)) :=
  ⟨⟨{ wX [(1, 0x1000), (2, 0x10000)] with regs := [(pgStk 0 + 0x010, 1), (pgStk 0 + 0x100, 0x9), (pgSeng 0, 1)] ++ wR.regs },
    _, 0, 1, 2, _, _, _, _, _, by decide, by decide, by decide, rfl, rfl, by decide, rfl, rfl, by decide, by decide, by
    decide, by decide, by decide, by decide, by decide, by decide⟩,
   ⟨{ wX [(1, 0x1000), (2, 0x0)] with regs := [(pgStk 0 + 0x010, 1), (pgStk 0 + 0x100, 0x9), (pgSeng 0, 1)] ++ wR.regs },
    _, 0, 1, 2, _, _, _, _, _, by decide, by decide, by decide, rfl, rfl, by decide, rfl, rfl, by decide⟩,
   ⟨{ wX [(1, 0x1000), (2, 0x200000)] with regs := [(pgStk 0 + 0x010, 1), (pgStk 0 + 0x100, 0x9), (pgSeng 0, 1)] ++ wR.regs },
    _, 0, 1, 2, _, _, _, _, _, by decide, by decide, by decide, rfl, rfl, by decide, rfl, rfl, by decide, by decide, by
    decide, by decide, by decide, by decide⟩,
   ⟨{ wX [(1, 0x1000), (2, 0x10000)] with regs := [(pgStk 0 + 0x010, 1), (pgStk 0 + 0x100, 0x9), (pgSeng 0, 1)] ++ wR.regs },
    _, 0, 1, 2, _, _, _, _, _, _, by decide, by decide, by decide, rfl, rfl, by decide, rfl, rfl, by decide, by decide, by
    decide, rfl, by decide, by decide, by decide⟩,
   ⟨{ wX [(1, 0x1000), (2, 0x20000)] with regs := [(pgStk 0 + 0x010, 1), (pgStk 0 + 0x100, 0x9), (pgSeng 0, 1)] ++ wR.regs, sengs := [(0, { queue := List.replicate 63 wSD })] },
    _, 0, 1, 2, _, _, _, _, _, _, by decide, by decide, by decide, rfl, rfl, by decide, rfl, rfl, by decide, by decide, by
    decide, by decide, rfl, by decide, by decide⟩,
   ⟨wX [(1, 8)], 0, 1, by decide, by decide, by decide, by decide⟩,
   ⟨{ wX [(1, 0x1000), (2, 0x10000)] with regs := [(pgStk 0 + 0x010, 1), (pgStk 0 + 0x100, 0x9), (pgSeng 0, 1)] ++ wR.regs, poison := [64] },
    _, 0, 1, 2, _, _, _, _, _, by decide, by decide, by decide, rfl, rfl, by decide, rfl, rfl⟩⟩

theorem test_meets_CoreControl :
    (∃ (s : State) (c : CoreId) (op : OpRef), s.canIssue c = true ∧ (s.core c).active = some op ∧ (s.core c).mmaQ = [] ∧
     (s.core c).ranges = [] ∧ (s.core c).placing = none ∧ (s.core c).stalled = false ∧ (s.core c).fencing = none) ∧
    (∃ (s : State) (c : CoreId) (op : OpRef), s.coreOn c = true ∧ (s.core c).started = false ∧ (s.core c).wait ≠ .opEnd ∧
     (s.core c).preempted = none ∧ ((s.core c).active = some op ∨ ((s.core c).active = none ∧ (s.core c).prefetched = some
     op))) ∧
    (∃ (s : State) (c : CoreId), s.serves .cor = true ∧ bitOf s.boot.clusters.toNat (homeOf c) = true) ∧
    (∃ (s : State) (c : CoreId), s.serves .cor = true ∧ bitOf s.boot.clusters.toNat (homeOf c) = true ∧ s.fwLoaded 1 c =
     true ∧ s.enabled (pgCor c) = false) ∧
    (∃ (s : State) (c : CoreId), s.serves .cor = true ∧ bitOf s.boot.clusters.toNat (homeOf c) = true ∧ s.fwLoaded 1 c =
     false) ∧
    (∃ (s : State) (c : CoreId), s.serves .cor = true ∧ (s.core c).busy = true) ∧
    (∃ (s : State), s.serves .cor = true ∧ s.boot.unlocked.getLsbD 0 = true) ∧
    (∃ (s : State) (c : CoreId) (w : Nat), (s.core c).midway = some w) ∧
    (∃ (s : State) (c : CoreId) (w : Nat) (rd : XReg) (rs1 : XReg) (rs2 : XReg), (s.core c).midway = some w ∧ w ≠ (encodeEng
     (.bead .bst rd rs1 rs2)).1) ∧
    (∃ (s : State) (c : CoreId) (w : Nat) (rd : XReg) (rs1 : XReg) (rs2 : XReg), (s.core c).midway = some w ∧ w ≠ (encodeEng
     (.issue .sci rd rs1 rs2)).1) ∧
    (∃ (s : State) (c : CoreId) (i : Instr), s.serves .cor = true ∧ s.boot.unlocked.getLsbD 0 = false ∧ (i = .halt c ∨ i =
     .resume c ∨ i = .step c)) :=
  ⟨⟨wK { active := some wOp }, 0, _, by decide, rfl, by decide, by decide, by decide, by decide, by decide⟩,
   ⟨wK { active := some wOp }, 0, wOp, by decide, by decide, by decide, by decide, by decide⟩,
   ⟨wR, 0, by decide, by decide⟩,
   ⟨{ wB (fun b => { b with fetched := [(1, 0)] }) with regs := [] }, 0, by decide, by decide, by decide, by decide⟩,
   ⟨wR, 0, by decide, by decide, by decide⟩,
   ⟨wK { active := some wOp }, 0, by decide, by decide⟩,
   ⟨wB fun b => { b with unlocked := 1 }, by decide, by decide⟩,
   ⟨wK { midway := some 0 }, 0, 0, rfl⟩,
   ⟨wK { midway := some 0 }, 0, 0, 0, 0, 0, rfl, by decide⟩,
   ⟨wK { midway := some 0 }, 0, 0, 0, 0, 0, rfl, by decide⟩,
   ⟨wR, 0, .halt 0, by decide, by decide, by decide⟩⟩

theorem test_meets_Beads :
    ∃ (s : State) (s1 : State) (c : CoreId) (rs1 : XReg) (h : Nat) (b : Nat) (o : Bead), s.canIssue c = true ∧ syncTarget s
    c rs1 true = .ok (.bead h b, s1) ∧ o = s1.bead h b ∧ (∀ w ∈ (s1.home h).waiters, w.obj ≠ b) :=
  ⟨wX [(1, 0x30000000008)], _, 0, 1, _, _, _, by decide, rfl, rfl, by decide⟩

theorem test_meets_BeadHandOver :
    ∃ (s : State) (s1 : State) (c : CoreId) (d : CoreId) (rd : XReg) (rs1 : XReg) (rd' : XReg) (h : Nat) (b : Nat),
    s.canIssue c = true ∧ d ≠ c ∧ syncTarget s c rs1 true = .ok (.bead h b, s1) ∧ (s1.bead h b).st = 0 ∧ (s1.home h).waiters
    = [{ core := d, obj := b, kind := .bld, rd := rd'.val }] :=
  ⟨{ wX [(1, 0x30000000008)] with homes := [(0, { waiters := [⟨1, 1, .bld, 5⟩] })] }, _, 0, 1, 5, 1, 5, _, _, by decide, by
  decide, rfl, by decide, by decide⟩

theorem test_meets_Counters :
    ∃ (s : State) (s1 : State) (c : CoreId) (rs1 : XReg) (rs2 : XReg) (h : Nat) (k : Nat) (n : Nat) (o : Ctr) (write :
    Bool), s.canIssue c = true ∧ syncTarget s c rs1 write = .ok (.ctr h k, s1) ∧ o = s1.ctr h k ∧ n = fld ((s1.core c).getX
    rs2).toNat 0 16 ∧ o.value ≤ 0xFFFF ∧ (∀ w ∈ (s1.home h).waiters, w.obj ≠ 32768 + k) :=
  ⟨wX [(1, 0x30000040008), (2, 5)], _, 0, 1, 2, _, _, _, _, false, by decide, rfl, rfl, rfl, by decide, by decide⟩

theorem test_meets_ClaimsAndFiligree :
    (∃ (s : State) (s1 : State) (c : CoreId) (rs1 : XReg) (rs2 : XReg) (h : Nat) (b : Nat), s.canIssue c = true ∧ syncTarget
     s c rs1 true = .ok (.bead h b, s1) ∧ fld ((s1.core c).getX rs2).toNat 0 9 = 1 ∧ b < 32768 ∧ (s1.core c).taskid ≠ 0 ∧
     (s1.core c).ranges.length < 8 ∧ ((s1.bead h b).owner = 0 ∨ (s1.bead h b).owner = (s1.core c).taskid.toNat) ∧ (s1.bead h
     b).st ≠ 2) ∧
    (∃ (s : State) (s1 : State) (c : CoreId) (rs1 : XReg) (rs2 : XReg) (h : Nat) (b : Nat), s.canIssue c = true ∧ syncTarget
     s c rs1 true = .ok (.bead h b, s1) ∧ fld ((s1.core c).getX rs2).toNat 0 9 = 1 ∧ b < 32768 ∧ (s1.core c).taskid ≠ 0 ∧
     (s1.core c).ranges.length < 8 ∧ (s1.bead h b).owner ≠ 0 ∧ (s1.bead h b).owner ≠ (s1.core c).taskid.toNat) ∧
    (∃ (s : State) (c : CoreId) (rs1 : XReg) (n : Nat), s.canIssue c = true ∧ n = fld ((s.core c).getX rs1).toNat 0 5 ∧
     s.fgPart n c = true ∧ s.fgOn n = true ∧ (s.fgState n).broken = false ∧ (s.fgState n).arrived.contains c.val = false) ∧
    (∃ (s : State) (c : CoreId) (rs1 : XReg), s.canIssue c = true ∧ s.fgPart (fld ((s.core c).getX rs1).toNat 0 5) c = false) ∧
    (∃ (s : State) (c : CoreId) (rs1 : XReg) (n : Nat) (ph : Nat), s.canIssue c = true ∧ n = fld ((s.core c).getX rs1).toNat
     0 5 ∧ (s.core c).fgSeen.find? (·.1 == n) = some (n, ph) ∧ ph ≠ fgLost ∧ ph ≠ (s.fgState n).phase) ∧
    (∃ (s : State) (c : CoreId) (rs1 : XReg) (n : Nat), s.canIssue c = true ∧ n = fld ((s.core c).getX rs1).toNat 0 5 ∧
     (s.core c).fgSeen.find? (·.1 == n) = some (n, fgLost)) ∧
    (∃ (s : State) (c : CoreId) (rs1 : XReg) (n : Nat), s.canIssue c = true ∧ n = fld ((s.core c).getX rs1).toNat 0 5 ∧
     (s.core c).fgSeen.find? (·.1 == n) = some (n, (s.fgState n).phase) ∧ (s.fgState n).phase < 65536 ∧ s.fgOn n = true ∧
     (s.fgState n).broken = false) ∧
    (∃ (s : State) (c : CoreId) (rs1 : XReg) (n : Nat), s.canIssue c = true ∧ n = fld ((s.core c).getX rs1).toNat 0 5 ∧
     s.fgPart n c = true ∧ s.fgOn n = true ∧ (s.fgState n).broken = false ∧ (s.fgState n).arrived.contains c.val = false) ∧
    (∃ (s : State) (ch : FgChan) (c : CoreId) (rd : XReg), s.fgOn ch = true ∧ (s.fgState ch).broken = false ∧ (s.fgCores
     ch).isEmpty = false ∧ s.fgAllCores ch = true ∧ (s.fgStacksDone ch).length = (s.fgStacks ch).length ∧ (s.fgState
     ch).waiters = [(c.val, rd.val, fgSyncRel)]) ∧
    (∃ (s : State) (c : CoreId) (scope : FenceScope), s.canIssue c = true ∧ (s.core c).fencing = none ∧ (scope = .core ∨
     scope = .cluster ∨ scope = .die ∨ (s.seqTx.any fun p => p.1 / 32 == srcCore c) = false)) ∧
    (∃ (s : State) (c : CoreId) (x : Nat), s.canIssue c = true ∧ (s.core c).fencing = none ∧ (s.seqTx.any fun p => p.1 / 32
     == srcCore c) = true ∧ s.firstStack = some x) :=
  ⟨⟨{ wK { x := [(1, 0x30000000008), (2, 1)], taskid := 3 } with homes := [(0, {})] }, _, 0, 1, 2, _, _, by decide, rfl, by
    decide, by decide, by decide, by decide, by decide, by decide⟩,
   ⟨{ wK { x := [(1, 0x30000000008), (2, 1)], taskid := 3 } with homes := [(0, { beads := [(1, { owner := 7 })] })] }, _,
    0, 1, 2, _, _, by decide, rfl, by decide, by decide, by decide, by decide, by decide, by decide⟩,
   ⟨wP [(fgBase 0, 1), (fgBase 0 + 4, 1), (pgSyn 0 + 0x100, 1)], 0, 0, _, by decide, rfl, by decide, by decide, by decide,
    by decide⟩,
   ⟨wR, 0, 0, by decide, by decide⟩,
   ⟨wK { fgSeen := [(0, 3)] }, 0, 0, _, _, by decide, rfl, rfl, by decide, by decide⟩,
   ⟨wK { fgSeen := [(0, fgLost)] }, 0, 0, 0, by decide, by decide, rfl⟩,
   ⟨{ wP [(fgBase 0, 1), (fgBase 0 + 4, 1), (pgSyn 0 + 0x100, 1)] with cores := [(0, { fgSeen := [(0, 0)] })] }, 0, 0, _,
    by decide, rfl, by decide, by decide, by decide, by decide⟩,
   ⟨wP [(fgBase 0, 1), (fgBase 0 + 4, 1), (pgSyn 0 + 0x100, 1)], 0, 0, _, by decide, rfl, by decide, by decide, by decide,
    by decide⟩,
   ⟨{ wP [(fgBase 0, 1), (fgBase 0 + 4, 1), (pgSyn 0 + 0x100, 1)] with fg := [(0, { arrived := [0], waiters := [(0, 5, fgSyncRel)] })] },
    0, 0, 5, by decide, by decide, by decide, by decide, by decide, by decide⟩,
   ⟨wR, 0, .core, by decide, by decide, by decide⟩,
   ⟨{ wP [(pgStk 0 + 0x010, 1)] with seqTx := [(0, 1)] }, 0, _, by decide, by decide, by decide, rfl⟩⟩

theorem test_meets_LongWaits :
    (∃ (s : State) (c : CoreId), (s.core c).wait = .sync ∧ s.rfld (pgSyn (homeOf c) + 0x044) 0 16 ≠ 0) ∧
    (∃ (s : State) (c : CoreId), ((s.core c).wait ≠ .sync ∨ s.rfld (pgSyn (homeOf c) + 0x044) 0 16 = 0)) ∧
    (∃ (s : State) (c : CoreId) (o : Nat) (kind : Nat), s.waitInfo c = some (o, kind) ∧ s.rbit (pgSyn (homeOf c) + 0x040) 0
     = true ∧ (s.core c).wait = .sync ∧ (s.core c).hangSeen = false ∧ s.rbit (pgSyn (homeOf c) + 0x050) 0 = false) ∧
    (∃ (s : State) (s1 : State) (j : DispSlot) (d : Disp) (h : Nat) (k : Nat) (x : Nat), s.disp j = some d ∧ d.ready = true
     ∧ d.destDone = false ∧ d.hangSeen = false ∧ s.counterAt (d.f 96 8) = (some (h, k, x), s1) ∧ s.rbit (pgSyn h + 0x040) 0
     = true ∧ s.rbit (pgSyn h + 0x050) 0 = false) ∧
    (∃ (s : State) (c : CoreId), (s.core c).hangSeen = true) ∧
    (∃ (s : State) (h : HomeId) (v : Word) (b : Nat), s.serves .syn = true ∧ s.boot.unlocked.getLsbD 1 = true ∧ fld v.toNat
     0 2 = 0 ∧ b = fld (s.reg (pgSyn h + 0x05C)) 0 15 ∧ bitOf (s.reg (pgSyn h + 0x05C)) 15 = false ∧ (∀ w ∈ (s.home
     h).waiters, w.obj ≠ b)) ∧
    (∃ (s : State), s.serves .syn = true ∧ s.boot.unlocked.getLsbD 1 = false) :=
  ⟨⟨wK { wait := .sync }, 0, by decide, by decide⟩,
   ⟨wR, 0, by decide⟩,
   ⟨{ wK { wait := .sync } with homes := [(0, { waiters := [⟨0, 5, .bld, 1⟩] })] }, 0, _, _, rfl, by decide, by decide, by
    decide, by decide⟩,
   ⟨{ wDisp { queue := 0, body := 0x40040000000000000000000000000000000000000000000000000000000000000000000000000000000000000000000000000000000000000000000000000000000000000000000000000000000000000000000000000000000000000000000000000000, ready := true } with regs := (pgSyn 0 + 0x040, 1) :: wR.regs },
    _, 0, _, 0, 0, 0, rfl, by decide, by decide, by decide, rfl, by decide, by decide⟩,
   ⟨wK { hangSeen := true }, 0, by decide⟩,
   ⟨wB fun b => { b with unlocked := 2 }, 0, 0, _, by decide, by decide, by decide, rfl, by decide, by decide⟩,
   ⟨wR, by decide, by decide⟩⟩

theorem test_meets_Scheduling :
    (∃ (s : State) (h : HomeId) (op : OpRef) (c : Nat), s.working = true ∧ (s.home h).inbox = [] ∧ (s.home h).ready = [op] ∧
     (s.home h).expired = [] ∧ op.prio < 8 ∧ s.rbit (pgSch h + 0x040) 1 = false ∧ (∀ d, homeOf d = h → (s.core d).hold =
     none) ∧ s.someHeld = false ∧ s.slotFor h = some (c, true)) ∧
    (∃ (s : State) (h : HomeId) (op : OpRef) (c : Nat), s.working = true ∧ (s.home h).inbox = [] ∧ (s.home h).ready = [op] ∧
     (s.home h).expired = [] ∧ op.prio < 8 ∧ s.rbit (pgSch h + 0x040) 1 = false ∧ (∀ d, homeOf d = h → (s.core d).hold =
     none) ∧ s.someHeld = false ∧ s.slotFor h = some (c, false)) ∧
    (∃ (s : State) (h : HomeId) (op : OpRef), s.working = true ∧ (s.home h).inbox = [] ∧ (s.home h).ready = [op] ∧ (s.home
     h).expired = [] ∧ s.rbit (pgSch h + 0x040) 1 = false ∧ (∀ d, homeOf d = h → (s.core d).hold = none) ∧ s.someHeld =
     false ∧ s.slotFor h = none) ∧
    (∃ (s : State) (c : CoreId) (op : OpRef), (s.core c).hold = some op ∧ s.working = true ∧ s.slotFor (homeOf c) = none) ∧
    (∃ (s : State) (s1 : State) (h : HomeId) (ser : Nat) (desc : Nat) (ix : Nat) (n : Nat), s.working = true ∧ (s.home
     h).held = [] ∧ (s.home h).inbox = [.release ser desc ix] ∧ s.someHeld = false ∧ (((s.modHome h fun k =>
     { k with inbox := [] }).count64 (pgSch h + 0x068) 1).dispRead h (desc + 18) 2) = (some n, s1)) ∧
    (∃ (s : State) (h : HomeId) (op : OpRef), s.working = true ∧ (s.home h).held = [] ∧ (s.home h).inbox = [.place op] ∧
     (s.home h).ready.length + (s.home h).expired.length < 1024) ∧
    (∃ (s : State) (h : HomeId) (c : CoreId) (op : OpRef) (st : Nat) (rest : List (OpRef × Nat)), s.working = true ∧ (s.home
     h).held = [] ∧ homeOf c = h ∧ (s.core c).ended = (op, st) :: rest ∧ (∀ d, homeOf d = h → d < c → (s.core d).ended = [])
     ∧ s.someHeld = false ∧ nfind s.graphs op.graph = none) ∧
    (∃ (s : State) (s2 : State) (s4 : State) (h : HomeId) (c : CoreId) (op : OpRef) (g : Graph), s.working = true ∧ (s.home
     h).held = [] ∧ homeOf c = h ∧ (s.core c).ended = [(op, 0)] ∧ (∀ d, homeOf d = h → d < c → (s.core d).ended = []) ∧
     s.someHeld = false ∧ nfind s.graphs op.graph = some g ∧ g.ended + 1 < g.nops ∧ s2 = (s.modCore c fun k =>
     { k with ended := [], wait := if k.wait == .opEnd then .none else k.wait }).count64 (pgSch h + 0x058) 1 ∧ (s2.vaWrite h
     (op.desc + 20) (toBytes 1 0)).successors h op.desc = ([], s4)) :=
  ⟨⟨{ wP [(pgSch 0 + 0x040, 0)] with cores := [(0, {})], homes := [(0, { ready := [wOp] })] }, 0, _, _, by decide, by
    decide, rfl, by decide, by decide, by decide, fun d _ => nget_all (fun k : Core => k.hold = none) {} rfl _ (by decide)
    d, by decide, rfl⟩,
   ⟨{ wP [(pgSch 0 + 0x040, 0)] with cores := [(0, { active := some wOp })], homes := [(0, { ready := [wOp] })] }, 0, _, _,
    by decide, by decide, rfl, by decide, by decide, by decide, fun d _ => nget_all (fun k : Core => k.hold = none) {} rfl _
    (by decide) d, by decide, rfl⟩,
   ⟨{ wP [(pgSch 0 + 0x040, 0)] with cores := [(0, { active := some wOp, prefetched := some wOp })], homes := [(0, { ready := [wOp] })] },
    0, _, by decide, by decide, rfl, by decide, by decide, fun d _ => nget_all (fun k : Core => k.hold = none) {} rfl _ (by
    decide) d, by decide, by decide⟩,
   ⟨wK { active := some wOp, prefetched := some wOp, hold := some wOp }, 0, _, rfl, by decide, by decide⟩,
   ⟨{ wH { inbox := [.release 0 0 0] } with graphs := [(0, { queue := 0, cid := 0, header := 0, nops := 2, opBase := 0x1000, ktab := 0, roots := [] })], mem := [⟨0x1012, 2⟩] },
    _, 0, _, _, _, _, by decide, by decide, rfl, by decide, rfl⟩,
   ⟨wH { inbox := [.place wOp] }, 0, _, by decide, by decide, rfl, by decide⟩,
   ⟨wK { ended := [(wOp, 0)] }, 0, 0, _, _, _, by decide, by decide, rfl, rfl, fun d _ h => absurd h (Nat.not_lt_zero d),
    by decide, by decide⟩,
   ⟨{ wK { ended := [(wOp, 0)] } with graphs := [(0, { queue := 0, cid := 0, header := 0, nops := 2, opBase := 0x1000, ktab := 0, roots := [] })] },
    _, _, 0, 0, _, _, by decide, by decide, rfl, rfl, fun d _ h => absurd h (Nat.not_lt_zero d), by decide, rfl, by decide,
    rfl, rfl⟩⟩

theorem test_meets_Preemption :
    (∃ (s : State) (h : HomeId) (op : OpRef) (old : OpRef) (ex : Bool) (c : Nat), s.working = true ∧ s.rbit (pgSch h +
     0x040) 0 = true ∧ (s.home h).order.find? (fun o => o.1.prio == 7 && (s.placeOne h o.1 o.2).isNone) = some (op, ex) ∧
     s.victim h = some (c, old) ∧ s.preemptible c = true ∧ s.someHeld = false) ∧
    (∃ (s : State) (h : HomeId), s.rbit (pgSch h + 0x040) 0 = false) ∧
    (∃ (s : State) (h : HomeId), (s.home h).order.find? (fun o => o.1.prio == 7 && (s.placeOne h o.1 o.2).isNone) = none) ∧
    (∃ (s : State) (c : CoreId) (op : OpRef), (s.core c).preempted = some op ∧ (s.core c).active = none ∧ (s.core c).wait ≠
     .opEnd ∧ s.coreOn c = true ∧ Settled s ∧ s.isPoisoned (s.ctxAddr c) 0x1000 = false) ∧
    (∃ (s : State) (c : CoreId), (s.core c).preempted = none) :=
  ⟨⟨{ wP [(pgSch 0 + 0x040, 1), (pgCor 0 + 0x040, 1)] with cores := [(0, { machine := false, started := true, active := some wOp, prefetched := some wOp })], homes := [(0, { carve := 1, ready := [{ wOp with prio := 7 }] })] },
    0, _, _, _, _, by decide, by decide, rfl, rfl, by decide, by decide⟩,
   ⟨wP [(pgSch 0 + 0x040, 0)], 0, by decide⟩,
   ⟨wR, 0, by decide⟩,
   ⟨wK { preempted := some wOp }, 0, _, rfl, by decide, by decide, by decide, settledOf _ rfl (by decide) (by decide), by
    decide⟩,
   ⟨wR, 0, by decide⟩⟩

theorem test_meets_CacheFills :
    (∃ (s : State) (c : CoreId) (line : LineAddr) (strm : Bool), ((s.core c).misses.take 16).find? (·.1 == line) = some
     (line, strm) ∧ (∀ m ∈ (s.home (homeOf c)).l2Miss, m / 8 ≠ line) ∧ (s.l2Serves (homeOf c) line = false ∨ ((s.home
     (homeOf c)).findLine line).isSome = true) ∧ s.lineHeld c line = false) ∧
    (∃ (s : State) (c : CoreId) (line : LineAddr) (strm : Bool), ((s.core c).misses.take 16).find? (·.1 == line) = some
     (line, strm) ∧ (∀ m ∈ (s.home (homeOf c)).l2Miss, m / 8 ≠ line) ∧ (s.core c).findL1 line = none ∧ s.l2Serves (homeOf c)
     line = true ∧ (s.home (homeOf c)).findLine line = none) ∧
    (∃ (s : State) (c : CoreId) (line : LineAddr), ((s.core c).misses.take 16).find? (·.1 == line) = none) ∧
    (∃ (s : State) (h : HomeId) (line : LineAddr) (m : Nat), (s.home h).l2Miss.find? (· / 8 == line) = some m ∧ m % 8 < 4 ∧
     (s.home h).outstanding line = true ∧ s.chanHeld (64 * line) = false ∧ Settled s ∧ (s.home h).l2 = [] ∧ (s.home
     h).candidates (l2Slice line) ≠ [] ∧ s.l2Serves h line = true) ∧
    (∃ (s : State) (h : HomeId) (line : LineAddr), (∀ m ∈ (s.home h).l2Miss, m / 8 ≠ line)) ∧
    (∃ (s : State) (h : HomeId) (slice : Slice) (way : Way), 16 ≤ (nget (s.home h).ceWin (slice.val * 16 + way.val) (0,
     0)).1 ∧ s.rbit (pgL2c h + 0x040) 16 = true ∧ (s.home h).wayOff.contains (slice.val * 16 + way.val) = false ∧ s.someHeld
     = false) ∧
    (∃ (s : State) (h : HomeId) (slice : Slice) (way : Way), (nget (s.home h).ceWin (slice.val * 16 + way.val) (0, 0)).1 <
     16) :=
  ⟨⟨{ wK { misses := [(0, false)] } with regs := [] }, 0, 0, _, rfl, by decide, by decide, by decide⟩,
   ⟨wK { misses := [(0, false)] }, 0, 0, false, by decide, by decide, by decide, by decide, by decide⟩,
   ⟨wR, 0, 0, by decide⟩,
   ⟨wH { l2Miss := [0] }, 0, 0, _, rfl, by decide, by decide, by decide, settledOf _ rfl (by decide) (by decide), by
    decide, by decide, by decide⟩,
   ⟨wR, 0, 0, by decide⟩,
   ⟨{ wP [(pgL2c 0 + 0x040, 0x10000)] with homes := [(0, { ceWin := [(0, (16, 0))] })] }, 0, 0, 0, by decide, by decide, by
    decide, by decide⟩,
   ⟨wR, 0, 0, 0, by decide⟩⟩

theorem test_meets_CacheMaintenance :
    (∃ (s : State) (h : HomeId), s.serves .l2c = true ∧ s.someHeld = false ∧ (s.home h).mbusy = false ∧ inMemory (s.reg64
     (pgL2c h + 0x050) % 2 ^ 48) (s.reg (pgL2c h + 0x058)) = true) ∧
    (∃ (s : State) (h : HomeId), s.serves .l2c = true ∧ s.someHeld = false ∧ (s.home h).mbusy = false) ∧
    (∃ (s : State) (h : HomeId) (i : Instr), s.serves .l2c = true ∧ (s.home h).mbusy = true ∧ (i = .cleanRange h ∨ i =
     .flushRange h ∨ i = .invalidateRange h ∨ i = .cleanAll h ∨ i = .flushAll h ∨ i = .invalidateAll h)) ∧
    (∃ (s : State) (h : HomeId) (i : Instr), s.serves .l2c = true ∧ (s.home h).mbusy = false ∧ inMemory (s.reg64 (pgL2c h +
     0x050) % 2 ^ 48) (s.reg (pgL2c h + 0x058)) = false ∧ (i = .cleanRange h ∨ i = .flushRange h ∨ i = .invalidateRange h)) ∧
    (∃ (s : State) (s1 : State) (c : CoreId) (op : RangeOp) (rs1 : XReg) (rs2 : XReg) (ts : List (Target × Nat)), s.canIssue
     c = true ∧ s.someHeld = false ∧ ((s.core c).getX rs2).toNat ≤ 0x1000000 ∧ (op = .invalidate → ((s.core c).getX
     rs1).toNat % 64 = 0 ∧ ((s.core c).getX rs2).toNat % 64 = 0) ∧ s.coreXlateAll c true (pieces ((s.core c).getX rs1).toNat
     ((s.core c).getX rs2).toNat) = (.ok ts, s1)) ∧
    (∃ (s : State) (c : CoreId) (rs2 : XReg), s.canIssue c = true ∧ 0x1000000 < ((s.core c).getX rs2).toNat) ∧
    (∃ (s : State) (s1 : State) (c : CoreId) (op : RangeOp) (rs1 : XReg) (rs2 : XReg) (va : Nat), s.canIssue c = true ∧
     s.someHeld = false ∧ ((s.core c).getX rs2).toNat ≤ 0x1000000 ∧ op ≠ .invalidate ∧ s.coreXlateAll c true (pieces
     ((s.core c).getX rs1).toNat ((s.core c).getX rs2).toNat) = (.error va, s1)) ∧
    (∃ (s : State) (h : HomeId), s.serves .l2c = true ∧ bitOf s.boot.clusters.toNat h = true ∧ s.rfld (pgL2c h + 0x040) 0 4
     ≤ 8 ∧ s.rfld (pgL2c h + 0x040) 9 6 ≠ 0 ∧ (s.rbit (pgL2c h + 0x010) 2 = true ∨ (s.home h).invOk = true)) ∧
    (∃ (s : State) (h : HomeId), s.serves .l2c = true ∧ bitOf s.boot.clusters.toNat h = false) ∧
    (∃ (s : State) (h : HomeId), s.serves .l2c = true ∧ bitOf s.boot.clusters.toNat h = true ∧ s.rfld (pgL2c h + 0x040) 0 4
     ≤ 8 ∧ s.rfld (pgL2c h + 0x040) 9 6 ≠ 0 ∧ s.rbit (pgL2c h + 0x010) 2 = false ∧ (s.home h).invOk = false) ∧
    (∃ (s : State) (h : HomeId), s.serves .l2c = true ∧ s.rbit (pgL2c h + 0x010) 2 = true) ∧
    (∃ (s : State) (h : HomeId), s.serves .l2c = true ∧ s.someHeld = false ∧ s.rbit (pgL2c h + 0x010) 2 = false) :=
  ⟨⟨wR, 0, by decide, by decide, by decide, by decide⟩,
   ⟨wR, 0, by decide, by decide, by decide⟩,
   ⟨wH { mbusy := true }, 0, .cleanAll 0, by decide, by decide, by decide⟩,
   ⟨wP [(pgL2c 0 + 0x054, 0x400), (pgL2c 0 + 0x058, 64)], 0, .cleanRange 0, by decide, by decide, by decide, by decide⟩,
   ⟨wR, _, 0, .clean, 0, 0, _, by decide, by decide, by decide, by decide, rfl⟩,
   ⟨wX [(2, 0x1000001)], 0, 2, by decide, by decide⟩,
   ⟨wK { x := [(1, 0x600000), (2, 64)], machine := false }, _, 0, .clean, 1, 2, _, by decide, by decide, by decide, by
    decide, rfl⟩,
   ⟨wH { invOk := true }, 0, by decide, by decide, by decide, by decide, by decide⟩,
   ⟨wB fun b => { b with clusters := 0 }, 0, by decide, by decide⟩,
   ⟨wR, 0, by decide, by decide, by decide, by decide, by decide, by decide⟩,
   ⟨wP [(pgL2c 0 + 0x010, 5)], 0, by decide, by decide⟩,
   ⟨wR, 0, by decide, by decide, by decide⟩⟩

theorem test_meets_CommandFrontEnd :
    (∃ (s : State) (x : StackId) (q : Nat) (c : SCmd) (rest : List SCmd), s.stackLive x = true ∧ s.pickQueue x = some q ∧
     nget (s.server x).queues q [] = c :: rest ∧ s.someHeld = false ∧ fieldsOk c.raw = false ∧ isScatter (cOp c.raw) = false) ∧
    (∃ (s : State) (x : StackId) (q : Nat) (c : SCmd) (rest : List SCmd), s.stackLive x = true ∧ s.pickQueue x = some q ∧
     nget (s.server x).queues q [] = c :: rest ∧ fieldsOk c.raw = true ∧ alignOk c.raw = true ∧ cOp c.raw = opFENCE ∧
     cStaten c.raw = false ∧ cSigen c.raw = false) ∧
    (∃ (s : State) (x : StackId) (q : Nat) (c : SCmd) (rest : List SCmd), s.stackLive x = true ∧ s.pickQueue x = some q ∧
     nget (s.server x).queues q [] = c :: rest ∧ s.someHeld = false ∧ fieldsOk c.raw = true ∧ alignOk c.raw = true ∧
     usesTable (cOp c.raw) = true ∧ isScatter (cOp c.raw) = false ∧ s.bindTo (cTable c.raw) = none) ∧
    (∃ (s : State) (x : StackId), (s.stackLive x = false ∨ s.pickQueue x = none)) :=
  ⟨⟨wQue 0xFF, 0, _, _, _, by decide, rfl, rfl, by decide, by decide, by decide⟩,
   ⟨wQue 0x1C, 0, _, _, _, by decide, rfl, rfl, by decide, by decide, by decide, by decide, by decide⟩,
   ⟨wQue 0x1000000000000000000000000000000000000000000000000000000000000000000000011, 0, _, _, _, by decide, rfl, rfl, by
    decide, by decide, by decide, by decide, by decide, by decide⟩,
   ⟨wR, 0, by decide⟩⟩

theorem test_meets_PoolingCommands :
    (∃ (s : State) (s1 : State) (x : StackId) (c : SCmd) (idx : List (Nat × Bool)) (bags : List (Nat × Nat × List ((Nat ×
     Nat) × Bool))), s.startable x opGATHER = some c ∧ c.stop = false ∧ s.cmdNeed x c = .go ∧ (s.startCmd x
     c.serial).indexList x c (cN c.raw) = (some idx, s1) ∧ bags = groups 1 (cN c.raw + 1) 0 (withWeights idx [] 0)) ∧
    (∃ (s : State) (s1 : State) (x : StackId) (c : SCmd) (idx : List (Nat × Bool)) (bags : List (Nat × Nat × List ((Nat ×
     Nat) × Bool))), s.startable x opGPOOL = some c ∧ c.stop = false ∧ cPool c.raw ≠ 5 ∧ s.cmdNeed x c = .go ∧ (s.startCmd x
     c.serial).indexList x c (cN c.raw) = (some idx, s1) ∧ bags = groups (dfld c.raw 36 2) (cN c.raw / dfld c.raw 36 2 + 1)
     0 (withWeights idx [] (cFmt c.raw / 16))) ∧
    (∃ (s : State) (s1 : State) (s2 : State) (x : StackId) (c : SCmd) (idx : List (Nat × Bool)) (w : List (Nat × Bool))
     (bags : List (Nat × Nat × List ((Nat × Nat) × Bool))), s.startable x opGPOOL = some c ∧ c.stop = false ∧ cPool c.raw =
     5 ∧ s.cmdNeed x c = .go ∧ (s.startCmd x c.serial).indexList x c (cN c.raw) = (some idx, s1) ∧ (s1.notePoison x c.serial
     idx).readList (agStack x) (dfld c.raw 16 6) (cN c.raw) (esz (cFmt c.raw / 16)) .stk x = (some w, s2) ∧ bags = groups
     (dfld c.raw 36 2) (cN c.raw / dfld c.raw 36 2 + 1) 0 (withWeights idx w (cFmt c.raw / 16))) ∧
    (∃ (s : State) (s1 : State) (x : StackId) (c : SCmd) (pool : Bool), s.startable x (if pool then opGPOOL else opGATHER) =
     some c ∧ c.stop = false ∧ s.cmdNeed x c = .go ∧ (s.startCmd x c.serial).indexList x c (cN c.raw) = (none, s1)) ∧
    (∃ (s : State) (x : StackId) (c : SCmd) (pool : Bool), s.startable x (if pool then opGPOOL else opGATHER) = some c ∧
     s.cmdNeed x c = .lost) ∧
    (∃ (s : State) (x : StackId) (c : SCmd), s.startable x opSEG = some c ∧ s.cmdNeed x c = .go ∧ dfld c.raw 40 3 = 0) ∧
    (∃ (s : State) (s1 : State) (s2 : State) (x : StackId) (c : SCmd) (offs : List (Nat × Bool)) (reqs : List Req),
     s.startable x opSEG = some c ∧ c.stop = false ∧ dfld c.raw 40 3 ≠ 0 ∧ s.cmdNeed x c = .go ∧ (s.startCmd x
     c.serial).readList (agStack x) (dfld c.raw 16 6) (dfld c.raw 40 3 + 1) (if bitOf (cMode c.raw) 7 then 8 else 4) .stk x
     = (some offs, s1) ∧ s1.segBags (s1.poolJob x c) c (segments 0 offs) [] = (reqs, s2)) ∧
    (∃ (s : State) (s1 : State) (s2 : State) (x : StackId) (c : SCmd) (seeds : List (Nat × Bool)), s.startable x opNEIGH =
     some c ∧ c.stop = false ∧ s.cmdNeed x c = .go ∧ (s.startCmd x c.serial).readList (agStack x) (dfld c.raw 8 6) (cN
     c.raw) (cIdxW c.raw) .stk x = (some seeds, s1) ∧ s1.neighSeeds x c (s1.versOf c) 0 seeds = some s2) ∧
    (∃ (s : State) (s1 : State) (s2 : State) (x : StackId) (c : SCmd) (seeds : List (Nat × Bool)), s.startable x opSAMPLE =
     some c ∧ c.stop = false ∧ s.cmdNeed x c = .go ∧ (s.startCmd x c.serial).readList (agStack x) (dfld c.raw 8 6) (cN
     c.raw) (cIdxW c.raw) .stk x = (some seeds, s1) ∧ s1.sampleSeeds x c (s1.versOf c) 0 seeds = some s2) ∧
    (∃ (s : State) (e : EngineId) (k : Chunk) (rest : List Chunk) (c : SCmd) (row : Bag), (s.unit e).chunks = k :: rest ∧
     s.cmd k.lead k.cmd = some c ∧ (s.server k.lead).bags = [row] ∧ row.uid = k.bag ∧ c.stop = true) ∧
    (∃ (s : State) (e : EngineId) (k : Chunk) (rest : List Chunk) (c : SCmd) (row : Bag), (s.unit e).chunks = k :: rest ∧
     s.cmd k.lead k.cmd = some c ∧ (s.server k.lead).bags = [row] ∧ row.uid = k.bag ∧ c.stop = false ∧ c.aborted = false ∧
     k.edges = [] ∧ row.far = []) ∧
    (∃ (s : State) (e : EngineId) (k : Chunk) (rest : List Chunk) (c : SCmd), (s.unit e).chunks = k :: rest ∧ s.cmd k.lead
     k.cmd = some c ∧ c.stop = false ∧ needAll (fun v => s.indexNeed (s.versOf c) v.1) k.edges = .wait) :=
  ⟨⟨wCmd 0x10, _, 0, _, _, _, rfl, by decide, by decide, rfl, rfl⟩,
   ⟨wCmd 0x11, _, 0, _, _, _, rfl, by decide, by decide, by decide, rfl, rfl⟩,
   ⟨wCmd 0x5000000000011, _, _, 0, _, _, _, _, rfl, by decide, by decide, by decide, rfl, rfl, rfl⟩,
   ⟨wCmd 0x10000000000000000000000000000000000000000006000000000000000000010, _, 0, _, false, rfl, by decide, by decide,
    rfl⟩,
   ⟨wLost 0x10000000000000000000000000000000000000000500000000000000000000010, 0, _, false, rfl, by decide⟩,
   ⟨wCmd 0x12, 0, _, rfl, by decide, by decide⟩,
   ⟨wCmd 0x100000000000000000000000000000000000000000000100000000000000000000000000000000012, _, _, 0, _, _, _, rfl, by
    decide, by decide, by decide, rfl, rfl⟩,
   ⟨wCmd 0x14, _, _, 0, _, _, rfl, by decide, by decide, rfl, rfl⟩,
   ⟨wCmd 0x13, _, _, 0, _, _, rfl, by decide, by decide, rfl, rfl⟩,
   ⟨{ wUnit { chunks := [⟨1, 0, 1, 0, 0, []⟩] } with servers := [(0, { cmds := [{ wSC with stop := true }], bags := [wBag] })] },
    0, _, _, _, _, rfl, rfl, rfl, by decide, by decide⟩,
   ⟨{ wUnit { chunks := [⟨1, 0, 1, 0, 0, []⟩] } with servers := [(0, { cmds := [{ wSC with raw := 0x20000000000000 }], bags := [wBag] })] },
    0, _, _, _, _, rfl, rfl, rfl, by decide, by decide, by decide, by decide, by decide⟩,
   ⟨{ wUnit { chunks := [⟨1, 0, 1, 0, 1, [(0, 0)]⟩] } with servers := [(0, { cmds := [{ wSC with vers := [(0, 0)] }], bags := [wBag] })], tables := [{ wTab with desc := 0x6400000000000000000010004004000000 }], chans := [(0, { st := 2 })] },
    0, _, _, _, rfl, rfl, by decide, by decide⟩⟩

theorem test_meets_TableCommands :
    (∃ (s : State) (x : StackId) (c : SCmd), s.nextCmd x opCOPY = some c ∧ s.cmdNeed x c = .go ∧ dfld c.raw 32 4 = 0) ∧
    (∃ (s : State) (s1 : State) (s2 : State) (s3 : State) (x : StackId) (c : SCmd) (p : Page) (q : Page), s.nextCmd x opCOPY
     = some c ∧ s.cmdNeed x c = .go ∧ dfld c.raw 32 4 = 64 ∧ (s.startCmd x c.serial).xlateRange (agStack x) (dfld c.raw 8 6)
     64 false = (.ok [(p, 64)], s1) ∧ (s.startCmd x c.serial).xlateRange (agStack x) (cDst c.raw) 64 true = (.ok [(q, 64)],
     s3) ∧ (s1.xlateRange (agStack x) (cDst c.raw) 64 true).2 = s2 ∧ placeOf q.pa = .hbm ∧ s.reachable q.pa = true ∧
     s.reachable p.pa = true ∧ (s2.meet p.pa 64).badPa p.pa 64 = false) ∧
    (∃ (s : State) (s1 : State) (s2 : State) (s4 : State) (x : StackId) (c : SCmd) (idx : List (Nat × Bool)) (recs : List
     Byte) (ps : List (Page × Nat)), s.nextCmd x opPROBE = some c ∧ s.cmdNeed x c = .go ∧ (s.startCmd x c.serial).readList
     (agStack x) (dfld c.raw 8 6) (cN c.raw) (cIdxW c.raw) .stk x = (some idx, s1) ∧ (s1.notePoison x c.serial idx).probeAll
     x c.serial (s.versOf c) idx [] = (.ok recs, s2) ∧ recs ≠ [] ∧ oobCount (s.versOf c) (idx.map fun e => ((e.1, 0),
     false)) = 0 ∧ s2.dstPieces x (cDst c.raw) recs.length = (some ps, s4)) ∧
    (∃ (s : State) (s1 : State) (x : StackId) (c : SCmd) (ps : List (Page × Nat)), s.nextCmd x opHH = some c ∧ bitOf (cMode
     c.raw) 5 = false ∧ s.cmdNeed x c = .go ∧ (s.startCmd x c.serial).dstPieces x (cDst c.raw) 8192 = (some ps, s1)) ∧
    (∃ (s : State) (s1 : State) (x : StackId) (c : SCmd), s.nextCmd x opHH = some c ∧ bitOf (cMode c.raw) 5 = false ∧
     s.cmdNeed x c = .go ∧ (s.startCmd x c.serial).dstPieces x (cDst c.raw) 8192 = (none, s1)) ∧
    (∃ (s : State) (x : StackId) (c : SCmd) (v : Version) (vs : List Version), s.nextCmd x opMIGROW = some c ∧ s.cmdNeed x c
     = .go ∧ s.versOf c = v :: vs ∧ dfld c.raw 24 4 = 1) ∧
    (∃ (s : State) (x : StackId), (∀ c ∈ (s.server x).cmds, cOp c.raw = opCOPY → s.cmdNeed x c = .wait)) ∧
    (∃ (s : State) (x : StackId), (∀ c ∈ (s.server x).cmds, cOp c.raw = opMIGROW → s.cmdNeed x c = .wait)) ∧
    (∃ (s : State) (x : StackId) (c : SCmd), s.nextCmd x opCOPY = some c ∧ s.cmdNeed x c = .lost) :=
  ⟨⟨wCmd 0x20, 0, _, rfl, by decide, by decide⟩,
   ⟨wCmd 0x400000000000001000000000000000000000000000000000000000000000000020, _, _, _, 0, _, _, _, rfl, by decide, by
    decide, rfl, rfl, rfl, by decide, by decide, by decide, by decide⟩,
   ⟨wCmd 0x10000000000001000000000000000000000000000000000000000000000000022, _, _, _, 0, _, _, _, _, rfl, by decide, rfl,
    rfl, by decide, by decide, rfl⟩,
   ⟨wCmd 0x23, _, 0, _, _, rfl, by decide, by decide, rfl⟩,
   ⟨wCmd 0x600000000000000000000000000000000000000000000000000023, _, 0, _, rfl, by decide, by decide, rfl⟩,
   ⟨wCmd 0x1000000000000000000000000000000000000000000000021, 0, _, _, _, rfl, by decide, rfl, by decide⟩,
   ⟨wR, 0, by decide⟩,
   ⟨wR, 0, by decide⟩,
   ⟨wLost 0x400000000000001000000000000000000000000000500000000000000000000020, 0, _, rfl, by decide⟩⟩

theorem test_meets_EngineReads :
    (∃ (s : State) (u : UnitId) (r : Req), u.val < 512 ∧ (s.unit u).rq = [r] ∧ (s.unit u).uq = [] ∧ r.first = false ∧
     s.chanSt (64 * r.sector) = 0 ∧ s.combining u = false) ∧
    (∃ (s : State) (u : UnitId), (s.unit u).rq = []) ∧
    (∃ (s : State) (u : UnitId) (sector : Nat) (f : Flight), (s.unit u).fly.find? (·.sector == sector) = some f ∧
     s.isPoisoned (64 * sector) 64 = true ∧ s.unitOf (64 * sector) = some u.val) ∧
    (∃ (s : State) (u : UnitId) (sector : Nat) (f : Flight), (s.unit u).fly.find? (·.sector == sector) = some f ∧
     s.isPoisoned (64 * sector) 64 = false ∧ nfind s.upsets sector = none) ∧
    (∃ (s : State) (u : UnitId) (sector : Nat), (s.unit u).fly.find? (·.sector == sector) = none) ∧
    (∃ (s : State) (u : ServerId) (c : SubCmd) (rest : List SubCmd), 16 ≤ u.val ∧ (s.server u).subs = c :: rest ∧ (∀ k ∈
     (s.server u).bags, k.uid ≠ s.serial ∧ c.sink ≠ .bag u k.uid)) ∧
    (∃ (s : State) (x : StackId) (r : Req), s.stackLive x = true ∧ (s.server x).cmds = [] ∧ (s.server x).todo = [r] ∧ s.room
     r.unit (64 * r.sector) = true ∧ s.upk = []) ∧
    (∃ (s : State) (x : StackId) (b : Bag), (s.server x).bags.find? (fun b => b.left == 0 && s.rowNeed x b != .wait) = some
     b ∧ s.rowNeed x b = .go ∧ (b.sink = .row ∨ b.sink = .acc)) ∧
    (∃ (s : State) (x : StackId) (b : Bag), (s.server x).bags.find? (fun b => b.left == 0 && s.rowNeed x b != .wait) = some
     b ∧ s.rowNeed x b = .go ∧ b.sink = .far ∧ s.cmd b.lead b.cmd = none) ∧
    (∃ (s : State) (h : HomeId) (a : AccWrite) (q : List AccWrite), s.memOk = true ∧ s.upsets = [] ∧ (s.home h).accQ = a ::
     q ∧ s.chanHeld a.addr = false) ∧
    (∃ (s : State) (x : StackId) (c : SCmd) (a : Nat), s.memOk = true ∧ s.someHeld = false ∧ (s.server x).cmds.find?
     (s.cmdDone x) = some c ∧ c.stat = some a ∧ placeOf a = .hbm ∧ s.reachableRange a 16 = true ∧ c.sig = none ∧ c.host =
     none ∧ c.reply = none ∧ c.part = none ∧ c.disp = none ∧ c.queue < 64) ∧
    (∃ (s : State) (x : StackId), (s.server x).cmds.find? (s.cmdDone x) = none) ∧
    (∃ (s : State), s.pw.powered = true) ∧
    (∃ (s : State), s.pw.powered = true) :=
  ⟨⟨{ wUnit { rq := [wReq] } with regs := (pgStk 0 + 0x040, 0) :: wR.regs }, 0, _, by decide, rfl, by decide, by decide, by
    decide, by decide⟩,
   ⟨wR, 0, by decide⟩,
   ⟨{ wUnit { fly := [⟨0, [], false⟩] } with poison := [0] }, 0, 0, _, rfl, by decide, by decide⟩,
   ⟨wUnit { fly := [⟨0, [], false⟩] }, 0, 0, _, rfl, by decide, by decide⟩,
   ⟨wR, 0, 0, by decide⟩,
   ⟨{ wR with servers := [(16, { subs := [⟨0, 0, 0, 1, 0, 1, 0, 0, .row, []⟩] })] }, 16, _, _, by decide, rfl, by decide⟩,
   ⟨wSrv { todo := [wReq] }, 0, _, by decide, by decide, rfl, by decide, by decide⟩,
   ⟨wSrv { bags := [wBag] }, 0, wBag, by decide, by decide, by decide⟩,
   ⟨wSrv { bags := [{ wBag with sink := .far }] }, 0, _, rfl, by decide, by decide, by decide⟩,
   ⟨wH { accQ := [⟨0, 0, [], false, 0⟩] }, 0, _, _, by decide, by decide, rfl, by decide⟩,
   ⟨wSrv { cmds := [{ wSC with started := true, stat := some 0x1000 }] }, 0, _, _, by decide, by decide, rfl, rfl, by
    decide, by decide, by decide, by decide, by decide, by decide, by decide, by decide⟩,
   ⟨wR, 0, by decide⟩,
   ⟨wR, by decide⟩,
   ⟨wR, by decide⟩⟩

theorem test_meets_ScatterCommands :
    (∃ (s : State) (s1 : State) (s2 : State) (s3 : State) (x : StackId) (k : Fin 3) (c : SCmd) (v : Version) (vs : List
     Version) (i : Nat) (row : Nat) (pa : Nat) (j : Nat) (m : Nat) (hot : Bool) (sh : Shard) (l : List (Nat × Bool)),
     s.startable x (opADD + k) = some c ∧ (∀ r < 20, (s.upk.filter fun p => p.src == srcStack x && p.rcv == r).length <
     1024) ∧ s.versOf c = v :: vs ∧ (s.startCmd x c.serial).indexList x c (cN c.raw) = (some [(i, false)], s1) ∧ s.cmdNeed x
     c = .go ∧ v.rowOf i = some row ∧ v.shardOf row = some (j, sh) ∧ sh.frozen = false ∧ s1.readList (agStack x) (dfld c.raw
     16 6) (upElems c.raw v) (valBytes c.raw) .stk x = (some l, s2) ∧ (∀ e ∈ l, e.2 = false) ∧ s2.locate v row true = (.at_
     pa hot m, s3) ∧ (∀ q ∈ sectorsOf pa v.rowBytes, s3.mapped (64 * q) = true) ∧ (∀ q ∈ (s3.rowUps (upKey c.raw v) (bitOf
     (cMode c.raw) 7) v pa ((List.range l.length).zip (l.map fun e => upValue c.raw e.1)) (originOf c) 0), serverOf q.unit =
     x.val)) ∧
    (∃ (s : State) (s1 : State) (x : StackId) (k : Fin 3) (c : SCmd) (v : Version) (vs : List Version) (i : Nat) (rest :
     List (Nat × Bool)), s.startable x (opADD + k) = some c ∧ (∀ r < 20, (s.upk.filter fun p => p.src == srcStack x && p.rcv
     == r).length < 1024) ∧ s.versOf c = v :: vs ∧ (s.startCmd x c.serial).indexList x c (cN c.raw) = (some ((i, false) ::
     rest), s1) ∧ s.cmdNeed x c = .go ∧ v.rowOf i = none ∧ cOob c.raw = 0 ∧ (∀ d ∈ (s1.server x).cmds, d.fault = false)) ∧
    (∃ (s : State) (x : StackId) (k : Fin 3), s.startable x (opADD + k) = none) ∧
    (∃ (s : State) (x : StackId) (r : Nat), r < 20 ∧ 1024 ≤ (s.upk.filter fun p => p.src == srcStack x && p.rcv == r).length) :=
  ⟨⟨wScat 0, _, _, _, 0, 0, _, _, _, _, _, 0, _, 0, false, _, List.replicate 16 (0, false), rfl, by decide, rfl, rfl, by
    decide, rfl, rfl, by decide, rfl, by decide, rfl, by decide, by decide⟩,
   ⟨wScat 200, _, 0, 0, _, _, _, _, _, rfl, by decide, rfl, rfl, by decide, by decide, by decide, by decide⟩,
   ⟨wR, 0, 0, by decide⟩,
   ⟨{ wR with upk := List.replicate 1024 { wUP with src := srcStack 0 } }, 0, 0, by decide, by decide⟩⟩

theorem test_meets_UpdatePackets :
    (∃ (s : State) (r : ServerId) (p : UPkt) (e : SeqRx), s.receiverLive r = true ∧ s.upk.find? (fun p => p.rcv == r.val &&
     p.st == 0) = some p ∧ s.seqEntry r p.src = e ∧ e.valid = true ∧ e.epoch = p.epoch ∧ e.h < 2 ^ 32 ∧ e.win = [] ∧ p.seq =
     (e.h + 1) % 2 ^ 32) ∧
    (∃ (s : State) (r : ServerId) (p : UPkt) (e : SeqRx), s.receiverLive r = true ∧ s.upk.find? (fun p => p.rcv == r.val &&
     p.st == 0) = some p ∧ s.seqEntry r p.src = e ∧ e.valid = true ∧ e.epoch = p.epoch ∧ e.h < 2 ^ 32 ∧ p.seq = e.h) ∧
    (∃ (s : State) (r : ServerId) (p : UPkt) (e : SeqRx), s.receiverLive r = true ∧ s.upk.find? (fun p => p.rcv == r.val &&
     p.st == 0) = some p ∧ s.seqEntry r p.src = e ∧ e.valid = true ∧ 128 ≤ (p.epoch + 256 - e.epoch % 256) % 256) ∧
    (∃ (s : State) (r : ServerId) (p : UPkt) (e : SeqRx), s.receiverLive r = true ∧ s.upk.find? (fun p => p.rcv == r.val &&
     p.st == 0) = some p ∧ s.seqEntry r p.src = e ∧ e.valid = true ∧ e.epoch = p.epoch ∧ winOf p.src < (p.seq + 2 ^ 32 -
     e.h) % 2 ^ 32 ∧ (p.seq + 2 ^ 32 - e.h) % 2 ^ 32 < 2 ^ 31) ∧
    (∃ (s : State) (r : ServerId) (n : Nat) (p : UPkt) (e : SeqRx), s.receiverLive r = true ∧ (s.upk.filter fun p => p.rcv
     == r.val)[n]? = some p ∧ p.st ≠ 0 ∧ s.seqEntry r p.src = e ∧ e.valid = true ∧ e.epoch = p.epoch ∧ e.h < 2 ^ 32 ∧ p.seq
     = e.h) ∧
    (∃ (s : State) (r : ServerId), s.receiverLive r = false) ∧
    (∃ (s : State) (r : ServerId) (p : UPkt), s.upk.find? (fun p => p.rcv == r.val && p.st == 2) = some p) ∧
    (∃ (s : State) (r : ServerId), s.upk.find? (fun p => p.rcv == r.val && p.st == 2) = none) :=
  ⟨⟨{ wR with upk := [{ wUP with seq := 1, st := 0 }], seqRx := [(0, { valid := true })] }, 0, _, _, by decide, rfl, rfl,
    by decide, by decide, by decide, by decide, by decide⟩,
   ⟨{ wR with upk := [{ wUP with seq := 0, st := 0 }], seqRx := [(0, { valid := true })] }, 0, _, _, by decide, rfl, rfl,
    by decide, by decide, by decide, by decide⟩,
   ⟨{ wR with upk := [{ wUP with seq := 1, st := 0 }], seqRx := [(0, { valid := true, epoch := 1 })] }, 0, _, _, by decide,
    rfl, rfl, by decide, by decide⟩,
   ⟨{ wR with upk := [{ wUP with seq := 5000, st := 0 }], seqRx := [(0, { valid := true })] }, 0, _, _, by decide, rfl,
    rfl, by decide, by decide, by decide, by decide⟩,
   ⟨{ wR with upk := [{ wUP with seq := 0, st := 1 }], seqRx := [(0, { valid := true })] }, 0, 0, _, _, by decide, rfl, by
    decide, rfl, by decide, by decide, by decide, by decide⟩,
   ⟨wSrv { fenced := true }, 0, by decide⟩,
   ⟨{ wR with upk := [{ wUP with seq := 1, st := 2 }], seqRx := [(0, { valid := true })] }, 0, _, rfl⟩,
   ⟨wR, 0, by decide⟩⟩

theorem test_meets_SectorUpdates :
    (∃ (s : State) (u : UnitId) (r : UReq), s.upk = [] ∧ (s.unit u).uq = [r] ∧ s.chanSt (64 * r.sector) ≠ 3 ∧ r.nocomb =
     false ∧ s.ucombining u = true ∧ (s.unit u).uct.find? (·.sector == r.sector) = none ∧ ((s.unit u).uct.filter fun e =>
     uctSetOf u e.sector == uctSetOf u r.sector).length < 16) ∧
    (∃ (s : State) (u : UnitId) (r : UReq) (e : UEnt), s.upk = [] ∧ (s.unit u).uq = [r] ∧ s.chanSt (64 * r.sector) ≠ 3 ∧
     r.nocomb = false ∧ s.ucombining u = true ∧ (s.unit u).uct.find? (·.sector == r.sector) = some e ∧ e.key = r.key) ∧
    (∃ (s : State) (u : UnitId) (r : UReq), s.memOk = true ∧ s.upk = [] ∧ u.val < 512 ∧ (s.unit u).uq = [r] ∧ s.chanSt (64 *
     r.sector) ≠ 3 ∧ r.nocomb = true ∧ s.flushHeld r.sector = false ∧ s.upsets = [] ∧ (s.unit u).uct.find? (·.sector ==
     r.sector) = none ∧ s.isPoisoned (64 * r.sector) 64 = false ∧ s.hotSlotOf (64 * r.sector) = none) ∧
    (∃ (s : State) (u : UnitId) (r : UReq), (s.unit u).uq = [r] ∧ s.chanSt (64 * r.sector) ≠ 3 ∧ r.nocomb = true ∧
     s.flushHeld r.sector = true) ∧
    (∃ (s : State) (u : UnitId), (s.unit u).uq = []) ∧
    (∃ (s : State) (e : EngineId) (a : UEnt), s.serves .sor = true ∧ (s.unit e).uct = [a] ∧ s.flushHeld a.sector = false ∧
     s.upsets = []) ∧
    (∃ (s : State) (e : EngineId), (s.unit e).uct = []) ∧
    (∃ (s : State), s.serves .sor = true) :=
  ⟨⟨wUnit { uq := [wUR] }, 0, _, by decide, rfl, by decide, by decide, by decide, by decide, by decide⟩,
   ⟨wUnit { uq := [wUR], uct := [wUE] }, 0, _, _, by decide, rfl, by decide, by decide, by decide, rfl, by decide⟩,
   ⟨wUnit { uq := [{ wUR with nocomb := true }] }, 0, _, by decide, by decide, by decide, rfl, by decide, by decide, by
    decide, by decide, by decide, by decide, by decide⟩,
   ⟨{ wUnit { uq := [{ wUR with nocomb := true }] } with moves := [{ tid := 0, epoch := 0, row := 0, src := 0, dst := 0, bytes := 64, freeSlot := none }] },
    0, _, rfl, by decide, by decide, by decide⟩,
   ⟨wR, 0, by decide⟩,
   ⟨wUnit { uct := [wUE] }, 0, _, by decide, rfl, by decide, by decide⟩,
   ⟨wR, 0, by decide⟩,
   ⟨wR, by decide⟩⟩

theorem test_meets_FencesAndQueues :
    (∃ (s : State) (x : StackId) (c : SCmd), s.stackLive x = true ∧ (s.server x).fenced = false ∧ (s.server x).cmds = [c] ∧
     cOp c.raw = opFENCE ∧ c.refused = none ∧ c.aborted = false ∧ c.started = false ∧ fScope c.raw = 0 ∧ s.reached c x =
     true ∧ s.fencePending c x = false ∧ (∀ u ∈ unitsOf x, ∀ e ∈ (s.unit u).uct, e.orgs.any c.covers = false)) ∧
    (∃ (s : State) (x : StackId) (c : SCmd), s.stackLive x = true ∧ (s.server x).fenced = false ∧ (s.server x).cmds = [c] ∧
     cOp c.raw = opFENCE ∧ c.refused = none ∧ c.aborted = false ∧ c.started = false ∧ fScope c.raw = 0 ∧ s.reached c x =
     false) ∧
    (∃ (s : State) (x : StackId), s.stackLive x = false) ∧
    (∃ (s : State) (x : StackId) (q : CmdQueue) (v : Word), s.serves .stk = true ∧ s.rbit (pgStk x + 0x100 + 4 * q) 0 =
     false ∧ 4 ≤ fld v.toNat 1 4 ∧ fld v.toNat 1 4 ≤ 10 ∧ bitOf v.toNat 0 = false) ∧
    (∃ (s : State) (x : StackId) (q : CmdQueue) (v : Word), s.serves .stk = true ∧ s.rbit (pgStk x + 0x100 + 4 * q) 0 =
     false ∧ 4 ≤ fld v.toNat 1 4 ∧ fld v.toNat 1 4 ≤ 10 ∧ (∀ i < 64, i ≠ q.val → s.rbit (pgStk x + 0x100 + 4 * i) 0 = false)) ∧
    (∃ (s : State) (x : StackId) (q : CmdQueue) (v : Word), s.serves .stk = true ∧ s.rbit (pgStk x + 0x100 + 4 * q) 0 =
     false ∧ (fld v.toNat 1 4 < 4 ∨ 10 < fld v.toNat 1 4)) ∧
    (∃ (s : State) (x : StackId) (q : CmdQueue) (v : Word), s.serves .stk = true ∧ s.rbit (pgStk x + 0x100 + 4 * q) 0 = true
     ∧ v.toNat % 2 ^ 12 % 2 = 0 ∧ s.queueOcc x q ≠ 0) :=
  ⟨⟨wSrv { cmds := [{ wSC with raw := 0x1C }] }, 0, _, by decide, by decide, rfl, by decide, by decide, by decide, by
    decide, by decide, by decide, by decide, by decide⟩,
   ⟨wSrv { cmds := [{ wSC with raw := 0x1C, carried := [(0, 1)] }] }, 0, _, by decide, by decide, rfl, by decide, by
    decide, by decide, by decide, by decide, by decide⟩,
   ⟨wSrv { fenced := true }, 0, by decide⟩,
   ⟨wR, 0, 0, 8, by decide, by decide, by decide, by decide, by decide⟩,
   ⟨wR, 0, 0, 9, by decide, by decide, by decide, by decide, by decide⟩,
   ⟨wR, 0, 0, 0, by decide, by decide, by decide⟩,
   ⟨wQue 0x10, 0, 0, 0, by decide, by decide, by decide, by decide⟩⟩

theorem test_meets_TableVersions :
    (∃ (s : State) (q : QueueId) (c : HCmd) (v : Version), s.hostNext q 0x04 = some c ∧ s.epWaits = [] ∧ Settled s ∧ (∀ o ∈
     s.tables, o.tid ≠ dfld c.raw 8 2) ∧ s.readDesc c = .ok v) ∧
    (∃ (s : State) (q : QueueId) (c : HCmd), s.hostNext q 0x04 = some c ∧ (∃ o ∈ s.tables, o.tid = dfld c.raw 8 2)) ∧
    (∃ (s : State) (q : QueueId) (c : HCmd) (o : Version) (v : Version), s.hostNext q 0x05 = some c ∧ s.epWaits = [] ∧
     Settled s ∧ s.current (dfld c.raw 8 2) = some o ∧ s.retireFull (dfld c.raw 8 2) = false ∧ s.readDesc c = .ok v ∧
     s.version (dfld c.raw 8 2) v.epoch = none) ∧
    (∃ (s : State) (q : QueueId) (c : HCmd), s.hostNext q 0x05 = some c ∧ s.current (dfld c.raw 8 2) = none) ∧
    (∃ (s : State) (q : QueueId) (c : HCmd) (o : Version), s.hostNext q 0x05 = some c ∧ s.current (dfld c.raw 8 2) = some o
     ∧ s.retireFull (dfld c.raw 8 2) = true) ∧
    (∃ (s : State) (q : QueueId) (c : HCmd) (o : Version) (v : Version) (w : Version), s.hostNext q 0x05 = some c ∧
     s.current (dfld c.raw 8 2) = some o ∧ s.retireFull (dfld c.raw 8 2) = false ∧ Settled s ∧ s.readDesc c = .ok v ∧
     s.version (dfld c.raw 8 2) v.epoch = some w) ∧
    (∃ (s : State) (q : QueueId) (c : HCmd) (v : Version), s.hostNext q 0x06 = some c ∧ s.version (dfld c.raw 8 2) (dfld
     c.raw 12 4) = some v ∧ (v.current = false ∨ s.retireFull (dfld c.raw 8 2) = false)) ∧
    (∃ (s : State) (q : QueueId) (c : HCmd), s.hostNext q 0x06 = some c ∧ s.version (dfld c.raw 8 2) (dfld c.raw 12 4) =
     none) ∧
    (∃ (s : State) (tid : TableId) (epoch : Word) (v : Version) (q : Nat) (cid : Nat), s.version tid epoch.toNat = some v ∧
     v.current = false ∧ v.retire = [(q, cid, false)] ∧ v.told = true ∧ s.versionIdle tid epoch.toNat = true) ∧
    (∃ (s : State) (tid : TableId) (epoch : Word), (s.version tid epoch.toNat = none ∨ s.versionIdle tid epoch.toNat =
     false)) ∧
    (∃ (s : State) (q : QueueId) (c : HCmd) (v : Version) (j : Nat) (h : Shard), s.hostNext q 0x07 = some c ∧ s.current
     (dfld c.raw 8 2) = some v ∧ v.shardOf (dfld (migrateRaw c.raw) 8 6) = some (j, h) ∧ h.kind ≠ 2 ∧ s.stackLive (h.whereAt
     % 16) = true) ∧
    (∃ (s : State) (q : QueueId) (c : HCmd), s.hostNext q 0x07 = some c ∧ s.current (dfld c.raw 8 2) = none) ∧
    (∃ (s : State) (x : ServerId) (w : EpWait), s.epWaits.find? (·.srv == x.val) = some w) ∧
    (∃ (s : State) (x : ServerId), (∀ w ∈ s.epWaits, w.srv ≠ x.val)) :=
  ⟨⟨wTQ 4 [], 0, _, wTab2, rfl, by decide, settledOf _ rfl (by decide) (by decide), by decide, rfl⟩,
   ⟨wTQ 4 [wTab], 0, _, rfl, by decide⟩,
   ⟨wTQ 5 [{ wTab with epoch := 3 }], 0, _, _, wTab2, rfl, by decide, settledOf _ rfl (by decide) (by decide), rfl, by
    decide, rfl, by decide⟩,
   ⟨wTQ 5 [], 0, _, rfl, by decide⟩,
   ⟨wTQ 5 [wTab, { wTab with epoch := 1, current := false }, { wTab with epoch := 2, current := false },
    { wTab with epoch := 3, current := false }], 0, _, _, rfl, rfl, by decide⟩,
   ⟨wTQ 5 [wTab], 0, _, _, wTab2, _, rfl, rfl, by decide, settledOf _ rfl (by decide) (by decide), rfl, rfl⟩,
   ⟨wTQ 6 [wTab], 0, _, _, rfl, rfl, by decide⟩,
   ⟨wTQ 6 [], 0, _, rfl, by decide⟩,
   ⟨{ wR with tables := [{ wVer with current := false, retire := [(0, 7, false)], told := true }] }, 0, 0, _, _, _, rfl, by
    decide, rfl, by decide, by decide⟩,
   ⟨wR, 0, 0, by decide⟩,
   ⟨wTQ 7 [wTab], 0, _, _, _, _, rfl, rfl, rfl, by decide, by decide⟩,
   ⟨wTQ 7 [], 0, _, rfl, by decide⟩,
   ⟨{ wR with epWaits := [⟨0, 0, 0, wPk, 0⟩] }, 0, _, rfl⟩,
   ⟨wR, 0, by decide⟩⟩

theorem test_meets_RoutedDispatch :
    (∃ (s : State) (q : ColQueue) (c : Coll) (i : SliceInfo) (r : Nat), (s.colQ q).cur = some c ∧ s.top.slice = some i ∧
     s.working = true ∧ s.someHeld = false ∧ c.type = 6 ∧ c.done = none ∧ c.rx = [] ∧ i.size = 1 ∧ s.disps = [] ∧
     s.colRunning < 8 ∧ bodyReason { queue := q.val, body := c.body } c.hdr (s.tokBytes { queue := q.val, body := c.body })
     (s.retBytes { queue := q.val, body := c.body }) = some r) ∧
    (∃ (s : State) (q : ColQueue) (c : Coll) (i : SliceInfo) (e : Nat × Disp), (s.colQ q).cur = some c ∧ s.top.slice = some
     i ∧ s.working = true ∧ c.type = 6 ∧ c.done = none ∧ s.disps.find? (fun e => e.2.queue == q.val) = some e) ∧
    (∃ (s : State) (q : ColQueue), ((s.colQ q).cur = none ∨ s.top.slice = none ∨ s.working = false)) ∧
    (∃ (s : State) (d : DispSlot) (peer : Rank) (reason : Byte) (i : SliceInfo) (e : Disp), s.top.slice = some i ∧ s.working
     = true ∧ peer.val < i.size ∧ s.disp d = some e ∧ nfind e.oks peer.val = none ∧ e.exchanged = false ∧ e.rx = [] ∧
     e.opened = [] ∧ (nset e.oks peer.val reason.toNat).length < i.size) ∧
    (∃ (s : State), s.top.slice = none) ∧
    (∃ (s : State) (s1 : State) (d : DispSlot) (e : Disp) (i : SliceInfo) (h : Nat) (k : Nat) (v : Nat), s.disp d = some e ∧
     s.top.slice = some i ∧ s.working = true ∧ s.someHeld = false ∧ e.ready = true ∧ e.destDone = false ∧ s.counterAt (e.f
     96 8) = (some (h, k, v), s1) ∧ v < e.round + 1) ∧
    (∃ (s : State) (s1 : State) (d : DispSlot) (e : Disp) (i : SliceInfo) (h : Nat) (k : Nat) (v : Nat), s.disp d = some e ∧
     s.top.slice = some i ∧ s.working = true ∧ s.someHeld = false ∧ e.ready = true ∧ e.destDone = false ∧ s.counterAt (e.f
     96 8) = (some (h, k, v), s1) ∧ e.round + 1 ≤ v ∧ e.rounds ≤ e.round + 1) ∧
    (∃ (s : State) (d : DispSlot) (e : Disp) (i : SliceInfo), s.disp d = some e ∧ s.top.slice = some i ∧ s.working = true ∧
     s.someHeld = false ∧ e.ready = true ∧ e.destDone = false ∧ (s.xlate agDisp (e.f 96 8) true false).1 = none) ∧
    (∃ (s : State) (d : DispSlot) (e : Disp) (h : Shard), s.disp d = some e ∧ s.working = true ∧ e.exchanged = true ∧
     e.combined = false ∧ e.combining = false ∧ e.waits = 0 ∧ e.order.length ≤ e.returned ∧ (s.current e.rtid).bind
     (·.shards.head?) = some h ∧ (s.server (h.whereAt % 16)).fenced = false ∧ s.stackLive (h.whereAt % 16) = true) ∧
    (∃ (s : State) (d : DispSlot) (e : Disp), s.disp d = some e ∧ s.working = true ∧ e.exchanged = true ∧ e.combined = false
     ∧ e.combining = false ∧ e.waits = 0 ∧ e.order.length ≤ e.returned ∧ (s.current e.rtid).bind (·.shards.head?) = none) ∧
    (∃ (s : State) (d : DispSlot) (e : Disp), s.disp d = some e ∧ e.returned < e.order.length) ∧
    (∃ (s : State) (d : DispSlot) (e : Disp) (c : Coll), s.disp d = some e ∧ (s.colQ e.queue).cur = some c ∧ s.working =
     true ∧ s.someHeld = false ∧ c.type = 6 ∧ e.combined = true ∧ e.destDone = true ∧ e.waits = 0) ∧
    (∃ (s : State) (d : DispSlot) (e : Disp) (c : Coll), s.disp d = some e ∧ (s.colQ e.queue).cur = some c ∧ s.working =
     true ∧ s.someHeld = false ∧ e.combined = true ∧ e.destDone = true ∧ e.waits = 0 ∧ e.aborted = false ∧ e.poisoned =
     false ∧ e.failed = false ∧ e.reason ≠ 0) ∧
    (∃ (s : State) (s0 : State) (s1 : State) (s2 : State) (d : DispSlot) (e : Disp) (c : Coll), s.disp d = some e ∧ (s.colQ
     e.queue).cur = some c ∧ s.working = true ∧ s.someHeld = false ∧ e.combined = true ∧ e.destDone = true ∧ e.waits = 0 ∧
     e.aborted = false ∧ e.poisoned = false ∧ e.reason = 0 ∧ s0 = (s.xlate agDisp (e.f 104 8) true false).2 ∧ s1 =
     (s0.counterAt (e.f 88 8)).1.elim (s0.counterAt (e.f 88 8)).2 (fun k => (s0.counterAt (e.f 88 8)).2.subCtr k.1 k.2.1
     e.rounds) ∧ s2 = (s1.counterAt (e.f 96 8)).1.elim (s1.counterAt (e.f 96 8)).2 (fun k => (s1.counterAt (e.f 96
     8)).2.subCtr k.1 k.2.1 e.rounds) ∧ (s.xlate agDisp (e.f 104 8) true false).1 = none) ∧
    (∃ (s : State) (d : DispSlot), s.disp d = none) :=
  ⟨⟨wCol { wColl with hdr := 6 }, 0, _, _, _, rfl, rfl, by decide, by decide, by decide, by decide, by decide, by decide,
    by decide, by decide, rfl⟩,
   ⟨wDisp { queue := 0, body := 0 }, 0, _, _, _, rfl, rfl, by decide, by decide, by decide, rfl⟩,
   ⟨wR, 0, by decide⟩,
   ⟨{ wDisp { queue := 0, body := 0 } with top := { slice := some ⟨0, 0x4082, false, false, false, 0, []⟩ } }, 0, 0, 0, _,
    _, rfl, by decide, by decide, rfl, by decide, by decide, by decide, by decide, by decide⟩,
   ⟨wR, by decide⟩,
   ⟨wDisp
    { queue := 0, body := 0x40040000000000000000000000000000000000000000000000000000000000000000000000000000000000000000000000000000000000000000000000000000000000000000000000000000000000000000000000000000000000000000000000000000, ready := true },
    _, 0, _, _, _, _, _, rfl, rfl, by decide, by decide, by decide, by decide, rfl, by decide⟩,
   ⟨{ wDisp { queue := 0, body := 0x40040000000000000000000000000000000000000000000000000000000000000000000000000000000000000000000000000000000000000000000000000000000000000000000000000000000000000000000000000000000000000000000000000000, ready := true } with homes := [(0, { ctrs := [(0, { value := 1 })] })] },
    _, 0, _, _, _, _, _, rfl, rfl, by decide, by decide, by decide, by decide, rfl, by decide, by decide⟩,
   ⟨wDisp
    { queue := 0, body := 0x8000000000000000000000000000000000000000000000000000000000000000000000000000000000000000000000000000000000000000000000000000000000000000000000000000000000000000000000000000000000000000000000000000000000, ready := true },
    0, _, _, rfl, rfl, by decide, by decide, by decide, by decide, by decide⟩,
   ⟨{ wDisp { queue := 0, body := 0, exchanged := true } with tables := [{ wVer with shards := [wShard] }] }, 0, _, wShard,
    rfl, by decide, by decide, by decide, by decide, by decide, by decide, by decide, by decide, by decide⟩,
   ⟨wDisp { queue := 0, body := 0, exchanged := true }, 0, _, rfl, by decide, by decide, by decide, by decide, by decide,
    by decide, by decide⟩,
   ⟨wDisp { queue := 0, body := 0, order := [(0, 0)] }, 0, _, rfl, by decide⟩,
   ⟨wDisp { queue := 0, body := 0, combined := true, destDone := true }, 0, _, _, rfl, rfl, by decide, by decide, by
    decide, by decide, by decide, by decide⟩,
   ⟨wDisp { queue := 0, body := 0, combined := true, destDone := true, reason := 5 }, 0, _, _, rfl, rfl, by decide, by
    decide, by decide, by decide, by decide, by decide, by decide, by decide, by decide⟩,
   ⟨wDisp
    { queue := 0, body := 0x80000000000000000000000000000000000000000000000000000000000000000000000000000000000000000000000000000000000000000000000000000000000000000000000000000000000000000000000000000000000000000000000000000000000000000000000000, combined := true, destDone := true },
    _, _, _, 0, _, _, rfl, rfl, by decide, by decide, by decide, by decide, by decide, by decide, by decide, by decide, rfl,
    rfl, rfl, by decide⟩,
   ⟨wR, 0, by decide⟩⟩

theorem test_meets_StreamEngines :
    (∃ (s : State) (e : SEngId) (d : SDesc) (rest : List SDesc), s.sengRuns e = true ∧ (s.seng e).work.length < 4 ∧ (s.seng
     e).queue = d :: rest ∧ (sOrd d.raw = false ∨ (s.seng e).work = []) ∧ sSigen d.raw = false ∧ s.streamCheck e d = none ∧
     sMode d.raw ≠ 2) ∧
    (∃ (s : State) (e : SEngId) (d : SDesc) (rest : List SDesc) (r : Nat), s.sengRuns e = true ∧ (s.seng e).work.length < 4
     ∧ (s.seng e).queue = d :: rest ∧ (sOrd d.raw = false ∨ (s.seng e).work = []) ∧ sSigen d.raw = false ∧ s.streamCheck e d
     = some r ∧ d.path = []) ∧
    (∃ (s : State) (e : SEngId), (s.sengRuns e = false ∨ 4 ≤ (s.seng e).work.length ∨ (s.seng e).queue = [])) ∧
    (∃ (s : State) (s1 : State) (e : SEngId) (d : SDesc) (va : Nat) (w : Bool), s.sengRuns e = true ∧ (s.seng e).work = [d]
     ∧ d.moves = [] ∧ d.remote = 0 ∧ d.rflow = none ∧ d.ended = none ∧ d.more = true ∧ s.unitStep e d = .page va w s1) ∧
    (∃ (s : State) (e : SEngId), s.sengRuns e = false ∧ (s.seng e).fault = none) ∧
    (∃ (s : State) (e : SEngId) (n : Nat) (va : Nat) (w : Bool), (s.seng e).fault = some (n, va, w) ∧ s.sengDrained e =
     false) ∧
    (∃ (s : State) (q : QueueId) (c : HCmd) (n : Nat), s.hostNext q 0x0C = some c ∧ (s.seng (dfld c.raw 8 1)).halt = some n) ∧
    (∃ (s : State) (q : QueueId) (c : HCmd), s.hostNext q 0x0C = some c ∧ (s.seng (dfld c.raw 8 1)).halt = none) ∧
    (∃ (s : State) (e : SEngId) (d : SDesc), (s.seng e).work.find? (fun d => d.ended.isSome && s.streamVisible d) = some d ∧
     d.sig = none) ∧
    (∃ (s : State) (e : SEngId), (s.seng e).work.find? (fun d => d.ended.isSome && s.streamVisible d) = none) ∧
    (∃ (s : State) (e : SEngId) (d : SDesc) (m : TileMove) (c : CoreId), s.ready = true ∧ (s.seng e).work = [d] ∧ d.moves =
     [m] ∧ d.path = [c.val] ∧ m.hop = 0 ∧ m.scale = none ∧ m.poison = false ∧ (s.core c).pend = [(sTslot d.raw + m.k, markOf
     e d)]) ∧
    (∃ (s : State), s.ready = false) ∧
    (∃ (s : State) (e : SEngId), s.serves .clu = true ∧ s.rbit (pgSeng e) 1 = true ∧ (s.seng e).idle = true) ∧
    (∃ (s : State) (e : SEngId), s.serves .clu = true ∧ (s.rbit (pgSeng e) 1 = false ∨ (s.seng e).idle = false)) :=
  ⟨⟨{ wSeng { queue := [{ wSD with raw := 0x1000100000040000000000000200000000000000010000000000000000000 }] } with regs := (pgSeng 0, 1) :: wR.regs },
    0, _, _, by decide, by decide, rfl, by decide, by decide, by decide, by decide⟩,
   ⟨{ wSeng { queue := [{ wSD with raw := 0x9 }] } with regs := (pgSeng 0, 1) :: wR.regs }, 0, _, _, _, by decide, by
    decide, rfl, by decide, by decide, rfl, by decide⟩,
   ⟨wR, 0, by decide⟩,
   ⟨{ wSeng { work := [{ wSD with raw := 0x1000100000040000000000000200000000000006000000000000000000000 }] } with regs := (pgSeng 0, 1) :: wR.regs },
    _, 0, _, _, _, by decide, rfl, by decide, by decide, by decide, by decide, by decide, rfl⟩,
   ⟨wSeng { halt := some 0 }, 0, by decide, by decide⟩,
   ⟨{ wSeng { fault := some (1, 0, false), work := [{ wSD with remote := 1 }] } with regs := (pgSeng 0, 1) :: wR.regs }, 0,
    1, 0, false, rfl, by decide⟩,
   ⟨{ wQ 0x0C with sengs := [(0, { halt := some 0 })] }, 0, _, _, rfl, rfl⟩,
   ⟨wQ 0x0C, 0, _, rfl, by decide⟩,
   ⟨wSeng { work := [{ wSD with ended := some (0, 0) }] }, 0, _, rfl, by decide⟩,
   ⟨wR, 0, by decide⟩,
   ⟨{ wSeng { work := [{ wSD with path := [0], moves := [⟨0, 0, 0, none, false, 256, 256⟩] }] } with cores := [(0, { pend := [(0, 1)] })] },
    0, _, _, 0, by decide, rfl, rfl, by decide, by decide, by decide, by decide, by decide⟩,
   ⟨wB fun b => { b with state := 3 }, by decide⟩,
   ⟨wP [(pgSeng 0, 3)], 0, by decide, by decide, by decide⟩,
   ⟨wR, 0, by decide, by decide⟩⟩

theorem test_meets_StreamModes :
    (∃ (s : State) (s1 : State) (s2 : State) (e : SEngId) (d : SDesc) (ps : List (Page × Nat)) (l : List Byte), s.sengRuns e
     = true ∧ (s.seng e).work = [d] ∧ sMode d.raw = 0 ∧ d.ended = none ∧ sRsrc d.raw = false ∧ sRdst d.raw = false ∧ d.pos <
     sTotal d.raw ∧ d.pos + pieceLen d.raw d.pos = sTotal d.raw ∧ l.length = pieceLen d.raw d.pos ∧ streamReads s s1 e
     (stridedAt d.raw d.pos).1 (pieceLen d.raw d.pos) l ∧ streamWrites s1 s2 e (stridedAt d.raw d.pos).2 (pieceLen d.raw
     d.pos) ps) ∧
    (∃ (s : State) (s1 : State) (s2 : State) (s3 : State) (e : SEngId) (d : SDesc) (ps : List (Page × Nat)) (il : List Byte)
     (l : List Byte) (w : Nat) (len : Nat), s.sengRuns e = true ∧ (s.seng e).work = [d] ∧ sMode d.raw = 1 ∧ d.ended = none ∧
     d.pos + 1 = dfld d.raw 32 4 ∧ w = (if bitOf (dfld d.raw 6 1) 0 then 8 else 4) ∧ len = dfld d.raw 36 4 ∧ streamReads s
     s1 e ((dfld d.raw 24 8 + w * d.pos) % 2 ^ 64) w il ∧ ofBytes il < dfld d.raw 48 6 ∧ streamReads s1 s2 e ((dfld d.raw 8
     8 + ofBytes il * dfld d.raw 40 4) % 2 ^ 64) len l ∧ l.length = len ∧ streamWrites s2 s3 e ((dfld d.raw 16 8 + d.pos *
     (if dfld d.raw 44 4 = 0 then len else dfld d.raw 44 4)) % 2 ^ 64) len ps) ∧
    (∃ (s : State) (s1 : State) (e : SEngId) (d : SDesc) (il : List Byte) (w : Nat), s.sengRuns e = true ∧ (s.seng e).work =
     [d] ∧ sMode d.raw = 1 ∧ d.ended = none ∧ d.pos < dfld d.raw 32 4 ∧ w = (if bitOf (dfld d.raw 6 1) 0 then 8 else 4) ∧
     streamReads s s1 e ((dfld d.raw 24 8 + w * d.pos) % 2 ^ 64) w il ∧ dfld d.raw 48 6 ≤ ofBytes il) ∧
    (∃ (s : State) (s1 : State) (s2 : State) (e : SEngId) (d : SDesc) (hl : List Byte) (l : List Byte) (img : Nat) (sc :
     Option Nat) (h : BHdr), s.sengRuns e = true ∧ (s.seng e).work = [d] ∧ sMode d.raw = 2 ∧ d.ended = none ∧ d.sent <
     sNtiles d.raw ∧ d.pos < sNtiles d.raw ∧ streamReads s s1 e ((dfld d.raw 8 8 + d.next) % 2 ^ 64) 16 hl ∧ h = bitmapHdr
     (ofBytes hl) ∧ h.ok = true ∧ streamReads s1 s2 e ((dfld d.raw 8 8 + d.next) % 2 ^ 64 + 16) (h.bytes - 16) l ∧
     expandBitmap h (ofBytes l) = some (img, sc)) ∧
    (∃ (s : State) (s1 : State) (e : SEngId) (d : SDesc) (hl : List Byte), s.sengRuns e = true ∧ (s.seng e).work = [d] ∧
     sMode d.raw = 2 ∧ d.ended = none ∧ d.sent < sNtiles d.raw ∧ d.pos < sNtiles d.raw ∧ streamReads s s1 e ((dfld d.raw 8 8
     + d.next) % 2 ^ 64) 16 hl ∧ (bitmapHdr (ofBytes hl)).ok = false) ∧
    (∃ (s : State) (s1 : State) (e : SEngId) (d : SDesc) (l : List Byte) (n : Nat), s.sengRuns e = true ∧ (s.seng e).work =
     [d] ∧ sMode d.raw = 3 ∧ d.ended = none ∧ d.path ≠ [] ∧ d.sent < sNtiles d.raw ∧ d.pos < sNtiles d.raw ∧ n = (if sCmx
     d.raw then 544 else 512) ∧ streamReads s s1 e ((dfld d.raw 8 8 + d.sent * dfld d.raw 32 4) % 2 ^ 64) n l) ∧
    (∃ (s : State) (s1 : State) (s2 : State) (e : SEngId) (d : SDesc) (l : List Byte) (x : Nat) (q : Nat) (va : Nat),
     s.sengRuns e = true ∧ (s.seng e).work = [d] ∧ sMode d.raw = 4 ∧ d.ended = none ∧ d.pos + 1 = dfld d.raw 16 4 ∧ x = dfld
     d.raw 6 1 % 16 ∧ q = dfld d.raw 7 1 % 64 ∧ va = (dfld d.raw 8 8 + 64 * d.pos) % 2 ^ 64 ∧ s.queueOn x q = true ∧
     ((s.server x).queues.flatMap (·.2) ++ (s.server x).cmds).find? (fun c => c.src == srcSeng e && c.queue == q &&
     c.missing != 0) = none ∧ streamReads s s1 e va 64 l ∧ streamReads s1 s2 e va 64 l ∧ l.length = 64 ∧ isScatter (ofBytes
     l % 256) = false ∧ s2.queueOn x q = true ∧ s2.listBusy x q (srcSeng e) = false ∧ s2.queueOcc x q < s2.queueDepth x q) ∧
    (∃ (s : State) (e : SEngId) (d : SDesc), s.sengRuns e = true ∧ (s.seng e).work = [d] ∧ sMode d.raw = 4 ∧ d.ended = none
     ∧ d.pos < dfld d.raw 16 4 ∧ s.queueOn (dfld d.raw 6 1 % 16) (dfld d.raw 7 1 % 64) = false) ∧
    (∃ (s : State) (e : SEngId) (d : SDesc) (i : Instr), s.sengRuns e = true ∧ (s.seng e).work = [d] ∧ d.ended = none ∧
     d.allDone = false ∧ d.more = true ∧ streamInstr e (sMode d.raw) = some i) ∧
    (∃ (s : State) (e : SEngId) (m : Nat) (i : Instr), s.sengRuns e = false ∧ streamInstr e m = some i) :=
  ⟨⟨{ wSeng { work := [{ wSD with raw := 0x1000100000040000000000000200000000000000010000000000000000000 }] } with regs := (pgSeng 0, 1) :: wR.regs },
    _, _, 0, _, _, List.replicate 64 0, by decide, rfl, by decide, by decide, by decide, by decide, by decide, by decide, by
    decide, ⟨by decide, _, _, rfl, by decide, by decide, by decide, rfl, by decide⟩, ⟨by decide, rfl, by decide, by decide,
    by decide⟩⟩,
   ⟨{ wSeng { work := [{ wSD with raw := 0xa000000000000004000000040000000010000000000003000000000000000200000000000000010000000000000000001 }] } with regs := (pgSeng 0, 1) :: wR.regs },
    _, _, _, 0, _, _, List.replicate 4 0, List.replicate 64 0, _, _, by decide, rfl, by decide, by decide, by decide, rfl,
    rfl, ⟨by decide, _, _, rfl, by decide, by decide, by decide, rfl, by decide⟩, by decide, ⟨by decide, _, _, rfl, by
    decide, by decide, by decide, rfl, by decide⟩, by decide, ⟨by decide, rfl, by decide, by decide, by decide⟩⟩,
   ⟨{ wSeng { work := [{ wSD with raw := 0x4000000040000000010000000000003000000000000000200000000000000010000000000000000001 }] } with regs := (pgSeng 0, 1) :: wR.regs },
    _, 0, _, List.replicate 4 0, _, by decide, rfl, by decide, by decide, by decide, rfl, ⟨by decide, _, _, rfl, by decide,
    by decide, by decide, rfl, by decide⟩, by decide⟩,
   ⟨{ wSeng { work := [{ wSD with raw := 0x1000000000000000010000000000000000002 }] } with regs := (pgSeng 0, 1) :: wR.regs, mem := [⟨0x1000, 1⟩, ⟨0x1004, 48⟩] },
    _, _, 0, _, [1, 0, 0, 0, 48, 0, 0, 0, 0, 0, 0, 0, 0, 0, 0, 0], List.replicate 32 0, 0, none, _, by decide, rfl, by
    decide, by decide, by decide, by decide, ⟨by decide, _, _, rfl, by decide, by decide, by decide, rfl, by decide⟩, rfl,
    by decide, ⟨by decide, _, _, rfl, by decide, by decide, by decide, rfl, by decide⟩, by decide⟩,
   ⟨{ wSeng { work := [{ wSD with raw := 0x1000000000000000010000000000000000002 }] } with regs := (pgSeng 0, 1) :: wR.regs },
    _, 0, _, List.replicate 16 0, by decide, rfl, by decide, by decide, by decide, by decide, ⟨by decide, _, _, rfl, by
    decide, by decide, by decide, rfl, by decide⟩, by decide⟩,
   ⟨{ wSeng { work := [{ wSD with raw := 0x2000000000000010000000000000000000000000000000010000000000000000003, path := [0] }] } with regs := (pgSeng 0, 1) :: wR.regs },
    _, 0, _, List.replicate 512 0, _, by decide, rfl, by decide, by decide, by decide, by decide, by decide, rfl, ⟨by
    decide, _, _, rfl, by decide, by decide, by decide, rfl, by decide⟩⟩,
   ⟨{ wSeng { work := [{ wSD with raw := 0x100000000000010000000000000000004 }] } with regs := [(pgSeng 0, 1), (pgStk 0 + 0x100, 0x69)] ++ wR.regs },
    _, _, 0, _, List.replicate 64 0, _, _, _, by decide, rfl, by decide, by decide, by decide, rfl, rfl, rfl, by decide, by
    decide, ⟨by decide, _, _, rfl, by decide, by decide, by decide, rfl, by decide⟩, ⟨by decide, _, _, rfl, by decide, by
    decide, by decide, rfl, by decide⟩, by decide, by decide, by decide, by decide, by decide⟩,
   ⟨{ wSeng { work := [{ wSD with raw := 0x100000000000000000000000000000004 }] } with regs := (pgSeng 0, 1) :: wR.regs },
    0, _, by decide, rfl, by decide, by decide, by decide, by decide⟩,
   ⟨{ wSeng { work := [{ wSD with raw := 0x1000100000040000000000000200000000000006000000000000000000000 }] } with regs := (pgSeng 0, 1) :: wR.regs },
    0, _, _, by decide, rfl, by decide, by decide, by decide, rfl⟩,
   ⟨wSeng { halt := some 0 }, 0, 0, _, by decide, rfl⟩⟩

theorem test_meets_MemorySystem :
    (∃ (s : State), s.serves .mem = true ∧ s.memOk = true ∧ (∀ r < 1024, s.regionWrong r = none)) ∧
    (∃ (s : State) (r : Nat) (c : Nat), s.serves .mem = true ∧ r < 1024 ∧ s.regionWrong r = some c ∧ (∀ q < r, s.regionWrong
     q = none)) ∧
    (∃ (s : State) (e : EngineId) (half : Bool) (ch : Nat), ch = 2 * e.val + (if half then 1 else 0) ∧ s.serves .sor = true
     ∧ s.chanLive ch = true ∧ (s.chan ch).st ≠ 3) ∧
    (∃ (s : State) (ch : RhzCh), s.serves .rhz = true ∧ s.chanLive (1024 + ch.val) = true ∧ (s.chan (1024 + ch.val)).st ≠ 3) ∧
    (∃ (s : State) (ch : RhzCh), s.serves .rhz = true ∧ s.chanLive (1024 + ch.val) = true ∧ (s.chan (1024 + ch.val)).st = 3) ∧
    (∃ (s : State) (ch : ChanId) (n : Nat), s.ready = true ∧ s.chanLive ch = true ∧ (s.chan ch).st < 2 ∧ n = (if (s.chan
     ch).errFrame = s.pw.bounds then (s.chan ch).errs + 1 else 1)) ∧
    (∃ (s : State) (ch : ChanId) (n : Nat), s.ready = true ∧ s.chanLive ch = true ∧ (s.chan ch).st < 2 ∧ n = (if (s.chan
     ch).errFrame = s.pw.bounds then (s.chan ch).errs + 1 else 1)) ∧
    (∃ (s : State) (ch : ChanId) (m : Move), s.ready = true ∧ s.chanLive ch = true ∧ (s.chan ch).st < 2 ∧ s.moves = [m] ∧
     m.flipped = false ∧ m.copied = true ∧ (∃ a, a < m.bytes ∧ s.chanOf ((m.dst + a) / 64 * 64) = some ch.val)) ∧
    (∃ (s : State) (ch : ChanId), (s.ready = false ∨ s.chanLive ch = false ∨ 2 ≤ (s.chan ch).st)) ∧
    (∃ (s : State) (ch : ChanId), (s.chan ch).st = 2 ∧ s.chanWait = []) ∧
    (∃ (s : State) (ch : ChanId), (s.chan ch).st = 2 ∧ (s.chan ch).attempts < 3) ∧
    (∃ (s : State) (ch : ChanId), (s.chan ch).st = 2 ∧ 3 ≤ (s.chan ch).attempts) ∧
    (∃ (s : State) (ch : ChanId), (s.chan ch).st ≠ 2) ∧
    (∃ (s : State) (x : StackId) (temp : Byte) (old : Nat) (new : Nat) (r : Nat), s.ready = true ∧ bitOf
     s.boot.stackSet.toNat x = true ∧ r = pgMem + 0x100 + 0x10 * x.val ∧ old = s.rfld r 8 2 ∧ new = tempLevel [95, 105, 115]
     old temp.toNat ∧ (new ≠ 3 ∨ s.rbit r 10 = true)) ∧
    (∃ (s : State) (x : StackId) (temp : Byte) (r : Nat), s.ready = true ∧ bitOf s.boot.stackSet.toNat x = true ∧ r = pgMem
     + 0x100 + 0x10 * x.val ∧ tempLevel [95, 105, 115] (s.rfld r 8 2) temp.toNat = 3 ∧ s.rbit r 10 = false) ∧
    (∃ (s : State) (k : PkgId) (temp : Byte) (old : Nat) (new : Nat) (r : Nat), s.ready = true ∧ r = pgRhz (k.val / 6) +
     0x078 + 4 * (k.val % 6) ∧ old = s.rfld r 8 2 ∧ new = tempLevel [85, 95, 105] old temp.toNat ∧ (new ≠ 3 ∨ s.rbit (pgRhz
     (k.val / 6) + 0x090) 0 = true)) ∧
    (∃ (s : State) (k : PkgId) (temp : Byte) (r : Nat), s.ready = true ∧ r = pgRhz (k.val / 6) + 0x078 + 4 * (k.val % 6) ∧
     tempLevel [85, 95, 105] (s.rfld r 8 2) temp.toNat = 3 ∧ s.rbit (pgRhz (k.val / 6) + 0x090) 0 = false) :=
  ⟨⟨wB fun b => { b with stackSet := 0 }, by decide, by decide, by decide⟩,
   ⟨wP [(pgMem + 0x400, 3)], 0, _, by decide, by decide, rfl, by decide⟩,
   ⟨wR, 0, false, _, rfl, by decide, by decide, by decide⟩,
   ⟨wR, 0, by decide, by decide, by decide⟩,
   ⟨wChan 1024 { st := 3 }, 0, by decide, by decide, by decide⟩,
   ⟨wR, 0, _, by decide, by decide, by decide, rfl⟩,
   ⟨wR, 0, _, by decide, by decide, by decide, rfl⟩,
   ⟨{ wR with moves := [{ tid := 0, epoch := 0, row := 0, src := 0x1000, dst := 0, bytes := 64, freeSlot := none, copied := true }] },
    0, _, by decide, by decide, by decide, rfl, by decide, by decide, ⟨0, by decide, by decide⟩⟩,
   ⟨wChan 0 { st := 2 }, 0, by decide⟩,
   ⟨wChan 0 { st := 2 }, 0, by decide, by decide⟩,
   ⟨wChan 0 { st := 2 }, 0, by decide, by decide⟩,
   ⟨wChan 0 { st := 2, attempts := 3 }, 0, by decide, by decide⟩,
   ⟨wR, 0, by decide⟩,
   ⟨wR, 0, 0, _, _, _, by decide, by decide, rfl, rfl, rfl, by decide⟩,
   ⟨wR, 0, 120, _, by decide, by decide, rfl, by decide, by decide⟩,
   ⟨wR, 0, 0, _, _, _, by decide, rfl, rfl, rfl, by decide⟩,
   ⟨wR, 0, 110, _, by decide, rfl, by decide, by decide⟩⟩

theorem test_meets_LinkFlits :
    (∃ (s : State) (l : LinkId) (flit : Flit), flit.bytes.length ≠ flitLen (s.link l).v2) ∧
    (∃ (s : State) (l : LinkId) (flit : Flit), flit.bytes.length = flitLen (s.link l).v2 ∧ ((s.link l).st ≠ 4 ∧ (s.link
     l).st ≠ 5 ∨ s.looped l = true)) ∧
    (∃ (s : State) (s1 : State) (l : LinkId) (flit : Flit), flit.bytes.length = flitLen (s.link l).v2 ∧ (s.link l).st = 4 ∧
     s.looped l = false ∧ s1 = s.fecCount l flit ∧ (crc32 (flit.bytes.take (flit.bytes.length - 4))).toNat ≠ ofBytes
     (flit.bytes.drop (flit.bytes.length - 4))) ∧
    (∃ (s : State) (s1 : State) (l : LinkId) (flit : Flit), flit.bytes.length = flitLen (s.link l).v2 ∧ (s.link l).st = 4 ∧
     s.looped l = false ∧ s1 = s.fecCount l flit ∧ (crc32 (flit.bytes.take (flit.bytes.length - 4))).toNat = ofBytes
     (flit.bytes.drop (flit.bytes.length - 4)) ∧ (s.link l).retry = [] ∧ (ofBytes (flit.bytes.take 1) % 16 = 1 ∨ ofBytes
     (flit.bytes.take 1) % 16 = 2) ∧ ofBytes ((flit.bytes.drop 2).take 2) = (s.link l).rxSeq) ∧
    (∃ (s : State) (s1 : State) (l : LinkId) (flit : Flit), flit.bytes.length = flitLen (s.link l).v2 ∧ (s.link l).st = 4 ∧
     s.looped l = false ∧ s1 = s.fecCount l flit ∧ (crc32 (flit.bytes.take (flit.bytes.length - 4))).toNat = ofBytes
     (flit.bytes.drop (flit.bytes.length - 4)) ∧ (s.link l).retry = [] ∧ (ofBytes (flit.bytes.take 1) % 16 = 1 ∨ ofBytes
     (flit.bytes.take 1) % 16 = 2) ∧ ofBytes ((flit.bytes.drop 2).take 2) ≠ (s.link l).rxSeq) ∧
    (∃ (s : State) (l : LinkId) (lseq : Lseq) (i : Nat), State.takeLack.posOfSeq (s.link l).retry lseq.toNat 0 = some i ∧
     (s.link l).st = 4 ∧ (s.link l).resends < 16) ∧
    (∃ (s : State) (l : LinkId), (s.link l).st = 5) ∧
    (∃ (s : State) (l : LinkId) (lseq : Lseq), (s.link l).st ≠ 5 ∧ State.takeLack.posOfSeq (s.link l).retry lseq.toNat 0 =
     none) ∧
    (∃ (s : State) (l : LinkId), 16 ≤ (s.link l).resends) ∧
    (∃ (s : State) (l : LinkId), (s.link l).resends < 16) ∧
    (∃ (s : State) (l : LinkId), ((s.link l).st = 4 ∨ (s.link l).st = 5) ∧ s.looped l = false ∧ (s.link l).waitPkts = []) ∧
    (∃ (s : State) (l : LinkId), ((s.link l).st < 4 ∨ s.looped l = true)) :=
  ⟨⟨wR, 0, ⟨[], 0, 0⟩, by decide⟩,
   ⟨wL { v2 := true }, 0, ⟨List.replicate 128 0, 0, 0⟩, by decide, by decide⟩,
   ⟨wL { v2 := true, st := 4 }, _, 0, ⟨List.replicate 128 0, 0, 0⟩, by decide, by decide, by decide, rfl, by
    decide +kernel⟩,
   ⟨wL { v2 := true, st := 4 }, _, 0, wFlit, by decide, by decide, by decide, rfl, by decide +kernel, by decide, by decide,
    by decide⟩,
   ⟨wL { v2 := true, st := 4, rxSeq := 5 }, _, 0, wFlit, by decide, by decide, by decide, rfl, by decide +kernel, by
    decide, by decide, by decide⟩,
   ⟨wL { st := 4, retry := [(0, [])] }, 0, 0, 0, by decide, by decide, by decide⟩,
   ⟨wL { st := 5 }, 0, by decide⟩,
   ⟨wR, 0, 0, by decide, by decide⟩,
   ⟨wL { resends := 16 }, 0, by decide⟩,
   ⟨wR, 0, by decide⟩,
   ⟨wL { st := 4 }, 0, by decide, by decide, by decide⟩,
   ⟨wR, 0, by decide⟩⟩

theorem test_meets_LinkStates :
    (∃ (s : State) (l : LinkId), (s.link l).st = 0) ∧
    (∃ (s : State) (l : LinkId) (lane : Lane), (s.link l).st ≠ 0 ∧ ((s.link l).failed ||| (1#8 <<< lane.val)) &&& 0x0F ≠ 0 ∧
     ((s.link l).failed ||| (1#8 <<< lane.val)) &&& 0xF0 ≠ 0) ∧
    (∃ (s : State) (l : LinkId), (s.link l).st = 4 ∧ (s.link l).failed = 0 ∧ (s.link l).x4 = false ∧ s.rbit (pgLnk l +
     0x040) 0 = true) ∧
    (∃ (s : State) (l : LinkId), (s.link l).st = 1 ∧ s.linkOn l = true) ∧
    (∃ (s : State) (l : LinkId), ((s.link l).st ≠ 1 ∨ s.linkOn l = false)) ∧
    (∃ (s : State) (l : LinkId), (s.link l).st = 1) ∧
    (∃ (s : State) (l : LinkId), (s.link l).st ≠ 1) ∧
    (∃ (s : State) (l : LinkId), s.serves .lnk = true ∧ (s.link l).held = false ∧ s.linkOn l = true) ∧
    (∃ (s : State) (l : LinkId), ((s.link l).held = true ∨ s.linkOn l = false)) ∧
    (∃ (s : State), s.serves .lnk = true) ∧
    (∃ (s : State), s.serves .lnk = true) ∧
    (∃ (s : State) (l : LinkId), (s.link l).st = 2 ∧ (s.link l).peer = none ∧ s.top.plan = none) ∧
    (∃ (s : State) (l : LinkId) (p : PeerInfo), (s.link l).st = 2 ∧ (s.link l).peer = some p ∧ s.top.plan = none) ∧
    (∃ (s : State) (l : LinkId) (p : PeerInfo), 2 < (s.link l).st ∧ (s.link l).peer ≠ some p) ∧
    (∃ (s : State) (l : LinkId) (p : PeerInfo) (pl : List Byte), (s.link l).st = 2 ∧ (s.link l).peer = none ∧ (s.link
     l).retryTrain = false ∧ (s.link l).waitPkts = [] ∧ s.top.plan = some pl ∧ planSer pl l ≠ 0 ∧ p.v2 = planV2 pl l ∧ p.v2
     = (s.link l).v2 ∧ peerMatches pl l p = true) ∧
    (∃ (s : State) (l : LinkId), (s.link l).st < 2) ∧
    (∃ (s : State), s.top.plan = none) ∧
    (∃ (s : State) (pl : List Byte), s.top.plan = some pl) ∧
    (∃ (s : State) (a : Nat), s.serves .top = true ∧ Settled s ∧ a = s.reg64 (pgTop + 0x050) % 2 ^ 48 ∧ s.top.slice = none ∧
     a % 64 = 0 ∧ s.reachableRange a 576 = true ∧ s.badPa a 576 = false ∧ planFld (s.readPa a 576) 8 8 = s.reg64 (pgTop +
     0x044) ∧ planOk (s.readPa a 576) = true) ∧
    (∃ (s : State) (a : Nat), s.serves .top = true ∧ a = s.reg64 (pgTop + 0x050) % 2 ^ 48 ∧ s.top.slice = none ∧ a % 64 = 0
     ∧ s.reachableRange a 576 = true ∧ s.anyHeld a 576 = true) ∧
    (∃ (s : State), s.serves .top = true ∧ s.top.slice.isSome = true) ∧
    (∃ (s : State), s.serves .top = true ∧ s.top.slice = none ∧ s.reg64 (pgTop + 0x050) % 2 ^ 48 % 64 ≠ 0) ∧
    (∃ (s : State), s.serves .top = true ∧ s.top.slice = none) ∧
    (∃ (s : State) (i : SliceInfo) (d : NMap Word), s.serves .top = true ∧ Settled s ∧ s.top.slice = some i ∧ s.readDetours
     i (s.reg64 (pgTop + 0x088) % 2 ^ 48) = .ok d) :=
  ⟨⟨wR, 0, by decide⟩,
   ⟨wL { st := 4, failed := 0x10 }, 0, 0, by decide, by decide, by decide⟩,
   ⟨wL { st := 4 }, 0, by decide, by decide, by decide, by decide⟩,
   ⟨wL { st := 1 }, 0, by decide, by decide⟩,
   ⟨wR, 0, by decide⟩,
   ⟨wL { st := 1 }, 0, by decide⟩,
   ⟨wR, 0, by decide⟩,
   ⟨wR, 0, by decide, by decide, by decide⟩,
   ⟨wL { held := true }, 0, by decide⟩,
   ⟨wR, by decide⟩,
   ⟨wR, by decide⟩,
   ⟨wL { st := 2 }, 0, by decide, by decide, by decide⟩,
   ⟨wL { st := 2, peer := some ⟨0, 0, 0, 0, false⟩ }, 0, _, by decide, rfl, by decide⟩,
   ⟨wL { st := 3 }, 0, ⟨0, 0, 0, 0, false⟩, by decide, by decide⟩,
   ⟨{ wL { st := 2 } with top := { plan := some (List.replicate 64 0 ++ [5]) } }, 0, ⟨5, 0, 0, 0, false⟩, _, by decide, by
    decide, by decide, by decide, rfl, by decide, by decide, by decide, by decide⟩,
   ⟨wR, 0, by decide⟩,
   ⟨wR, by decide⟩,
   ⟨wT { plan := some [] }, _, rfl⟩,
   ⟨{ wR with mem := [⟨20, 0x81⟩, ⟨21, 0x40⟩] }, _, by decide, settledOf _ rfl (by decide) (by decide), rfl, by decide, by
    decide, by decide, by decide, by decide +kernel, by decide +kernel⟩,
   ⟨wChan 0 { st := 2 }, _, by decide, rfl, by decide, by decide, by decide, by decide⟩,
   ⟨wT { slice := some wSl }, by decide, by decide⟩,
   ⟨wP [(pgTop + 0x050, 8)], by decide, by decide, by decide⟩,
   ⟨wR, by decide, by decide⟩,
   ⟨wT { slice := some wSl }, wSl, [], by decide, settledOf _ rfl (by decide) (by decide), by decide, readDetours_zeros _ _
    rfl rfl (by decide +kernel) (by decide +kernel)⟩⟩

theorem test_meets_PacketsAndFlows :
    (∃ (s : State) (l : LinkId) (p : Packet), maxPayload (s.link l).v2 < p.payload.length) ∧
    (∃ (s : State) (l : LinkId) (p : Packet), p.payload.length ≤ maxPayload (s.link l).v2 ∧ (s.link l).st ≠ 4) ∧
    (∃ (s : State) (s0 : State) (l : LinkId) (vl : VLane) (p : Packet), p.payload.length ≤ maxPayload (s.link l).v2 ∧
     (s.link l).st = 4 ∧ s0 = (s.setLink l { s.link l with rxPkts := (s.link l).rxPkts.erase (vl.val, p) }).sendCredit l vl
     1) ∧
    (∃ (s : State) (p : Packet) (i : SliceInfo), s.top.slice = some i ∧ maxPayload i.v2 < p.payload.length) ∧
    (∃ (s : State) (p : Packet) (i : SliceInfo), s.top.slice = some i ∧ p.payload.length ≤ maxPayload i.v2 ∧ (p.kind = 5 ∨
     s.pw.powered = false)) ∧
    (∃ (s : State) (p : Packet) (i : SliceInfo), s.pw.powered = true ∧ s.top.slice = some i ∧ p.payload.length ≤ maxPayload
     i.v2 ∧ p.kind ≠ 5 ∧ (s.sliceAllows p = false ∨ p.dst.toNat ≠ s.coord)) ∧
    (∃ (s : State) (s0 : State) (s1 : State) (p : Packet) (i : SliceInfo) (f : FlowRx), s.pw.powered = true ∧ s.top.slice =
     some i ∧ p.payload.length ≤ maxPayload i.v2 ∧ p.kind ≠ 5 ∧ s.sliceAllows p = true ∧ p.dst.toNat = s.coord ∧ s.top.dest
     = [(p, 0)] ∧ s0 = { s with top := { s.top with dest := [] } } ∧ s.flowRxOf (pktKey p) = f ∧ f.held = [] ∧ (p.fseq.toNat
     + 2 ^ 32 - f.high) % 2 ^ 32 = 1 ∧ f.owed < 63 ∧ s1 = s0.setFlowRx
     { f with die := 0, high := (f.high + 1) % 2 ^ 32, owed := f.owed + 1 }) ∧
    (∃ (s : State) (s0 : State) (p : Packet) (i : SliceInfo) (f : FlowRx), s.pw.powered = true ∧ s.top.slice = some i ∧
     p.payload.length ≤ maxPayload i.v2 ∧ p.kind ≠ 5 ∧ s.sliceAllows p = true ∧ p.dst.toNat = s.coord ∧ s.top.dest = [(p,
     0)] ∧ s0 = { s with top := { s.top with dest := [] } } ∧ s.flowRxOf (pktKey p) = f ∧ (∀ q ∈ f.held, q.fseq ≠ p.fseq) ∧
     2 ≤ (p.fseq.toNat + 2 ^ 32 - f.high) % 2 ^ 32 ∧ (p.fseq.toNat + 2 ^ 32 - f.high) % 2 ^ 32 ≤ 4096 ∧ s.reorderBytes 0 +
     32 + p.payload.length ≤ 2 ^ 22) ∧
    (∃ (s : State) (k : FlowKey), (s.flowRxOf k).owed = 0) ∧
    (∃ (s : State) (k : FlowKey) (i : SliceInfo), (s.flowRxOf k).owed ≠ 0 ∧ s.top.slice = some i) ∧
    (∃ (s : State) (k : FlowKey) (e : Packet × Nat), (∀ p ∈ s.flowWait, pktKey p ≠ k) ∧ s.top.dest.find? (fun e => e.1.kind
     == 5 && e.1.dst == k.src && e.1.src == k.dst && e.1.cls == k.cls && e.1.flow == k.flow) = some e) ∧
    (∃ (s : State), s.top.dest = []) ∧
    (∃ (s : State) (k : FlowKey), (s.flowTxOf k).unacked = []) ∧
    (∃ (s : State) (k : FlowKey) (p : Packet) (n : Nat) (rest : List (Packet × Nat)), (s.flowTxOf k).unacked = (p, n) ::
     rest ∧ n < 16) ∧
    (∃ (s : State) (k : FlowKey) (p : Packet) (rest : List (Packet × Nat)), (s.flowTxOf k).unacked = (p, 16) :: rest) ∧
    (∃ (s : State) (k : FlowKey) (p : Packet) (n : Nat) (rest : List (Packet × Nat)), (s.flowTxOf k).unacked = (p, n) ::
     rest ∧ 16 < n) ∧
    (∃ (s : State) (l : LinkId), ((s.link l).st ≠ 0 ∨ s.pw.powered = false)) ∧
    (∃ (s : State) (l : LinkId), s.pw.powered = true ∧ (s.link l).st = 0 ∧ (s.link l).fell = none ∧ (s.link l).waitPkts = []
     ∧ (∀ f ∈ s.flowTx, f.link ≠ some l.val) ∧ s.ras.recov = []) ∧
    (∃ (s : State) (l : LinkId) (n : Nat), s.pw.powered = true ∧ (s.link l).st = 0 ∧ (s.link l).fell = some n ∧ (s.link
     l).waitPkts = [] ∧ s.flowTx = []) ∧
    (∃ (s : State) (l : LinkId) (f : FlowTx) (n : Nat), s.pw.powered = true ∧ (s.link l).st = 0 ∧ (s.link l).fell = some n ∧
     s.flowTx = [f] ∧ f.link = some l.val) :=
  ⟨⟨wR, 0, { wPk with payload := List.replicate 2049 0 }, by decide⟩,
   ⟨wR, 0, wPk, by decide, by decide⟩,
   ⟨wL { st := 4 }, _, 0, 0, wPk, by decide, by decide, rfl⟩,
   ⟨wT { slice := some wSl }, { wPk with payload := List.replicate 2049 0 }, _, rfl, by decide⟩,
   ⟨wT { slice := some wSl }, { wPk with kind := 5 }, wSl, rfl, by decide, by decide⟩,
   ⟨wT { slice := some wSl }, { wPk with dst := 1 }, _, by decide, rfl, by decide, by decide, by decide⟩,
   ⟨wT { slice := some wSl, dest := [(wPk, 0)] }, _, _, _, _, _, by decide, rfl, by decide, by decide, by decide, by
    decide, rfl, rfl, rfl, by decide, by decide, by decide, rfl⟩,
   ⟨wT { slice := some wSl, dest := [({ wPk with fseq := 5 }, 0)] }, _, { wPk with fseq := 5 }, _, _, by decide, rfl, by
    decide, by decide, by decide, by decide, by decide, rfl, rfl, by decide, by decide, by decide, by decide⟩,
   ⟨wR, ⟨0, 0, 0, 0⟩, by decide⟩,
   ⟨{ wT { slice := some wSl } with flowRx := [{ key := ⟨0, 0, 0, 0⟩, owed := 1 }] }, ⟨0, 0, 0, 0⟩, _, by decide, rfl⟩,
   ⟨wT { dest := [({ wPk with kind := 5 }, 0)] }, ⟨0, 0, 0, 0⟩, _, by decide, rfl⟩,
   ⟨wR, by decide⟩,
   ⟨wR, ⟨0, 0, 0, 0⟩, by decide⟩,
   ⟨{ wR with flowTx := [{ key := ⟨0, 0, 0, 0⟩, unacked := [(wPk, 0)] }] }, ⟨0, 0, 0, 0⟩, _, _, _, rfl, by decide⟩,
   ⟨{ wR with flowTx := [{ key := ⟨0, 0, 0, 0⟩, unacked := [(wPk, 16)] }] }, ⟨0, 0, 0, 0⟩, _, _, rfl⟩,
   ⟨{ wR with flowTx := [{ key := ⟨0, 0, 0, 0⟩, unacked := [(wPk, 17)] }] }, ⟨0, 0, 0, 0⟩, _, _, _, rfl, by decide⟩,
   ⟨wL { st := 4 }, 0, by decide⟩,
   ⟨wR, 0, by decide, by decide, by decide, by decide, by decide, by decide⟩,
   ⟨wL { fell := some 0 }, 0, 0, by decide, by decide, by decide, by decide, by decide⟩,
   ⟨{ wL { fell := some 0 } with flowTx := [{ key := ⟨0, 0, 0, 0⟩, link := some 0 }] }, 0, _, 0, by decide, by decide, by
    decide, rfl, by decide⟩⟩

theorem test_meets_Collectives :
    (∃ (s : State) (s1 : State) (q : ColQueue) (k : Fin 6) (c : Coll) (i : SliceInfo) (l : List (Nat × Bool)), k.val < 4 ∧
     s.someHeld = false ∧ collReady s q k c i ∧ collAlone s c i ∧ c.direct = false ∧ c.root = 0 ∧ 0 < c.count ∧ l.length =
     c.count ∧ (∀ e ∈ l, e.2 = false) ∧ s.collRead { c with running := true } c.src c.count = (some l, s1)) ∧
    (∃ (s : State) (s2 : State) (q : ColQueue) (c : Coll) (i : SliceInfo) (so : Nat) (n : Nat) (ro : Nat) (m : Nat) (l :
     List (Nat × Bool)), n ≠ m ∧ s.someHeld = false ∧ collReady s q 4 c i ∧ collAlone s c i ∧ c.tbl = [[so, n, ro, m]] ∧
     s.collRead { c with running := true } (c.src + so * c.esz) n = (some l, s2)) ∧
    (∃ (s : State) (s2 : State) (q : ColQueue) (c : Coll) (i : SliceInfo) (so : Nat) (n : Nat) (ro : Nat) (l : List (Nat ×
     Bool)), s.someHeld = false ∧ collReady s q 4 c i ∧ collAlone s c i ∧ 0 < n ∧ l.length = n ∧ (∀ e ∈ l, e.2 = false) ∧
     c.tbl = [[so, n, ro, n]] ∧ s.collRead { c with running := true } (c.src + so * c.esz) n = (some l, s2)) ∧
    (∃ (s : State) (q : ColQueue) (c : Coll) (i : SliceInfo), collReady s q 5 c i ∧ collAlone s c i ∧ c.direct = false ∧
     c.poisoned = false) ∧
    (∃ (s : State) (s1 : State) (q : ColQueue) (k : Fin 6) (c : Coll) (i : SliceInfo), (k.val = 0 ∨ k.val = 2) ∧ s.someHeld
     = false ∧ collReady s q k c i ∧ s.collRead { c with running := true } c.src c.count = (none, s1)) ∧
    (∃ (s : State) (q : ColQueue), ((s.colQ q).cur = none ∨ s.top.slice = none ∨ s.working = false)) :=
  ⟨⟨{ wCol { wColl with hdr := 0x4000000000000200000000000000010000000000000000000 } with top := { slice := some wSl } },
    _, 0, 0, _, _, List.replicate 4 (0, false), by decide, by decide, ⟨rfl, rfl, by decide, by decide, rfl, by decide, rfl⟩,
    ⟨by decide, by decide⟩, by decide, by decide, by decide, by decide, by decide, rfl⟩,
   ⟨{ wCol { wColl with hdr := 0x300000000000000000000000000000000004000000000000200000000000000010000000000000000004, tbl := [[0, 4, 0, 8]] } with top := { slice := some wSl } },
    _, 0, _, _, _, _, _, _, _, by decide, by decide, ⟨rfl, rfl, by decide, by decide, rfl, by decide, rfl⟩, ⟨by decide, by
    decide⟩, rfl, rfl⟩,
   ⟨{ wCol { wColl with hdr := 0x300000000000000000000000000000000004000000000000200000000000000010000000000000000004, tbl := [[0, 4, 0, 4]] } with top := { slice := some wSl } },
    _, 0, _, _, 0, 4, 0, List.replicate 4 (0, false), by decide, ⟨rfl, rfl, by decide, by decide, rfl, by decide, rfl⟩, ⟨by
    decide, by decide⟩, by decide, by decide, by decide, rfl, rfl⟩,
   ⟨{ wCol { wColl with hdr := 5 } with top := { slice := some wSl } }, 0, _, _, ⟨rfl, rfl, by decide, by decide, rfl, by
    decide, rfl⟩, ⟨by decide, by decide⟩, by decide, by decide⟩,
   ⟨{ wCol { wColl with hdr := 0x4000000000000200000000000006000000000000000000000 } with top := { slice := some wSl } },
    _, 0, 0, _, _, by decide, by decide, ⟨rfl, rfl, by decide, by decide, rfl, by decide, rfl⟩, rfl⟩,
   ⟨wR, 0, by decide⟩⟩

theorem test_meets_CollectiveQueues :
    (∃ (s : State) (s1 : State) (s2 : State) (q : ColQueue) (i : SliceInfo) (p : Page) (h : Nat) (k : Nat) (m : Nat) (l :
     List Byte) (b : Bool), s.top.slice = some i ∧ (s.colQ q).cur = none ∧ s.working = true ∧ s.someHeld = false ∧ s.rbit
     (pgColQ q) 0 = true ∧ s.xlate (agLinkDie 0) (s.reg64 (pgColQ q + 0x10) % 2 ^ 48) true false = (some p, s1) ∧ s1.objAt
     p.pa = some (.ctr h k) ∧ (s1.ctr h k).value ≠ 0 ∧ (s1.colQ q).ahead = [] ∧ s1.vaRead (agLinkDie 0) (s1.reg64 (pgColQ q
     + 8) % 2 ^ 48 + 64 * (((s1.colQ q).head + 0) % 2 ^ s1.rfld (pgColQ q) 1 4)) 64 = (some (l, b), s2) ∧ m = max 1 (dfld
     (ofBytes l) 5 1) ∧ m ≠ 3 ∧ m ≤ (s2.ctr h k).value) ∧
    (∃ (s : State) (s1 : State) (q : ColQueue) (i : SliceInfo) (p : Page) (h : Nat) (k : Nat), s.top.slice = some i ∧
     (s.colQ q).cur = none ∧ s.working = true ∧ s.rbit (pgColQ q) 0 = true ∧ s.xlate (agLinkDie 0) (s.reg64 (pgColQ q +
     0x10) % 2 ^ 48) true false = (some p, s1) ∧ s1.objAt p.pa = some (.ctr h k) ∧ (s1.ctr h k).value = 0) ∧
    (∃ (s : State) (q : ColQueue), (s.top.slice = none ∨ s.working = false ∨ s.rbit (pgColQ q) 0 = false)) ∧
    (∃ (s : State) (p : Packet), s.colIn.find? (fun o => pktKey o == pktKey p) ≠ some p) ∧
    (∃ (s : State) (p : Packet), s.colIn.find? (fun o => pktKey o == pktKey p) = some p ∧ s.working = false) ∧
    (∃ (s : State) (p : Packet) (i : SliceInfo) (q : Nat), s.working = true ∧ s.colIn.find? (fun o => pktKey o == pktKey p)
     = some p ∧ p.slow = false ∧ s.top.slice = some i ∧ q = fld p.extra.toNat 0 4 ∧ (s.colQ q).ahead = [] ∧ (s.colQ q).cur =
     none ∧ (fld p.extra.toNat 16 16 + 0x10000 - (s.colQ q).reached) % 0x10000 = 0) ∧
    (∃ (s : State) (p : Packet) (i : SliceInfo) (q : Nat) (c : Coll), s.working = true ∧ s.colIn.find? (fun o => pktKey o ==
     pktKey p) = some p ∧ p.slow = false ∧ s.top.slice = some i ∧ q = fld p.extra.toNat 0 4 ∧ (s.colQ q).ahead = [] ∧
     (s.colQ q).cur = some c ∧ c.type ≠ 6 ∧ fld p.extra.toNat 16 16 = c.cseq ∧ c.cseq < 2 ^ 16 ∧ fld p.extra.toNat 8 8 =
     c.type ∧ fld p.extra.toNat 32 8 = c.fmtByte ∧ fld p.extra.toNat 40 8 = c.axes ∧ (s.streamLens c (s.group i c.axes)
     c.tbl (2 * s.groupRank (s.group i c.axes) p.src.toNat + p.flow.toNat % 2))[ (c.stream (2 * s.groupRank (s.group i
     c.axes) p.src.toNat + p.flow.toNat % 2)).length]? = some p.payload.length) ∧
    (∃ (s : State) (p : Packet) (i : SliceInfo) (q : Nat), s.working = true ∧ s.colIn.find? (fun o => pktKey o == pktKey p)
     = some p ∧ p.slow = false ∧ s.top.slice = some i ∧ q = fld p.extra.toNat 0 4 ∧ 1 ≤ (fld p.extra.toNat 16 16 + 0x10000 -
     (s.colQ q).reached) % 0x10000 ∧ (fld p.extra.toNat 16 16 + 0x10000 - (s.colQ q).reached) % 0x10000 < 0x8000) ∧
    (∃ (s : State) (p : Packet) (i : SliceInfo) (q : Nat) (j : Nat) (c : Coll) (e : Disp), s.working = true ∧ s.colIn.find?
     (fun o => pktKey o == pktKey p) = some p ∧ p.slow = false ∧ s.top.slice = some i ∧ q = fld p.extra.toNat 0 4 ∧ (s.colQ
     q).ahead = [] ∧ (s.colQ q).cur = some c ∧ c.type = 6 ∧ fld p.extra.toNat 16 16 = c.cseq ∧ c.cseq < 2 ^ 16 ∧ fld
     p.extra.toNat 8 8 = c.type ∧ fld p.extra.toNat 32 8 = c.fmtByte ∧ fld p.extra.toNat 40 8 = c.axes ∧ s.disps.find? (fun
     e => e.2.queue == q) = some (j, e)) ∧
    (∃ (s : State) (q : ColQueue) (c : Coll) (d : Nat), (s.colQ q).cur = some c ∧ c.done = none ∧ d ≤ s.now.toNat ∧
     (c.deadline = some d ∨ ∃ e ∈ s.disps, e.2.queue = q.val ∧ ∃ w ∈ e.2.dues, w.2 = d)) ∧
    (∃ (s : State) (q : ColQueue) (c : Coll) (d : Nat), (s.colQ q).cur = some c ∧ c.deadline = some d ∧ s.now.toNat < d ∧ (∀
     e ∈ s.disps, e.2.queue = q.val → ∀ w ∈ e.2.dues, s.now.toNat < w.2)) ∧
    (∃ (s : State) (q : ColQueue) (c : Coll) (r : Nat × Nat), s.someHeld = false ∧ (s.colQ q).cur = some c ∧ c.done = some r) ∧
    (∃ (s : State) (q : ColQueue) (c : Coll), (s.colQ q).cur = some c ∧ c.done = none) ∧
    (∃ (s : State), s.top.slowRelay = true ∧ s.top.slowAt + 1000000 ≤ s.now.toNat) ∧
    (∃ (s : State), (s.top.slowRelay = false ∨ s.now.toNat < s.top.slowAt + 1000000)) :=
  ⟨⟨wCQ 1, wCQ 1, wCQ 1, 0, _, ⟨0x30000040000, true, true, true, true⟩, 0, 0, _, List.replicate 64 0, false, rfl, by
    decide, by decide, by decide, by decide, by decide, by decide, by decide, by decide, by decide, rfl, by decide, by
    decide⟩,
   ⟨wCQ 0, wCQ 0, 0, _, ⟨0x30000040000, true, true, true, true⟩, 0, 0, rfl, by decide, by decide, by decide, by decide, by
    decide, by decide⟩,
   ⟨wR, 0, by decide⟩,
   ⟨wR, wPk, by decide⟩,
   ⟨{ wR with colIn := [wPk], ras := { halted := true } }, wPk, by decide, by decide⟩,
   ⟨{ wT { slice := some wSl } with colIn := [{ wPk with kind := 6, extra := 0xFFFF0000 }] },
    { wPk with kind := 6, extra := 0xFFFF0000 }, _, _, by decide, by decide, by decide, rfl, rfl, by decide, by decide, by
    decide⟩,
   ⟨{ wCol wColl2 with top := wTop2, colIn := [{ wPk with kind := 6, src := 0x1000, extra := 0x10000010000, payload := List.replicate 4 0 }] },
    { wPk with kind := 6, src := 0x1000, extra := 0x10000010000, payload := List.replicate 4 0 }, _, _, _, by decide, by
    decide, by decide, rfl, rfl, by decide, rfl, by decide, by decide, by decide, by decide, by decide, by decide, by
    decide⟩,
   ⟨{ wT { slice := some wSl } with colIn := [{ wPk with kind := 6, extra := 0x10000 }] },
    { wPk with kind := 6, extra := 0x10000 }, _, _, by decide, by decide, by decide, rfl, rfl, by decide, by decide⟩,
   ⟨{ wDisp { queue := 0, body := 0 } with colIn := [{ wPk with kind := 6, extra := 0x10600, payload := List.replicate 8 0 }] },
    { wPk with kind := 6, extra := 0x10600, payload := List.replicate 8 0 }, _, _, 0, _, _, by decide, by decide, by decide,
    rfl, rfl, by decide, rfl, by decide, by decide, by decide, by decide, by decide, by decide, rfl⟩,
   ⟨{ wCol { wColl with hdr := 0, deadline := some 0 } with top := { slice := some wSl } }, 0, _, 0, rfl, by decide, by
    decide, by decide⟩,
   ⟨{ wCol { wColl with hdr := 0, deadline := some 9 } with top := { slice := some wSl } }, 0, _, _, rfl, rfl, by decide,
    by decide⟩,
   ⟨{ wCol { wColl with hdr := 0, done := some (0, 0) } with top := { slice := some wSl } }, 0, _, _, by decide, rfl, rfl⟩,
   ⟨{ wCol { wColl with hdr := 0 } with top := { slice := some wSl } }, 0, _, rfl, by decide⟩,
   ⟨{ wT { slowRelay := true } with now := 1000000 }, by decide, by decide⟩,
   ⟨wR, by decide⟩⟩

theorem test_meets_SliceForming :
    (∃ (s : State) (q : QueueId) (c : HCmd) (b : Nat) (ds : List Nat), Settled s ∧ s.hostNext q 0x0D = some c ∧ s.top.slice
     = none ∧ s.top.forming = none ∧ s.reachableRange (dfld c.raw 16 8) 64 = true ∧ s.badPa (dfld c.raw 16 8) 64 = false ∧ b
     = s.readPaNat (dfld c.raw 16 8) 64 ∧ s.top.plan.isSome = true ∧ s.jfOk b = true ∧ jfPlan b = s.reg64 (pgTop + 0x060) ∧
     s.inSlice (s.jfSlice b) s.coord = true ∧ (s.jfSlice b).size ≤ 1024 ∧ jfDetour b = false ∧ s.portsOk (s.jfSlice b) =
     true ∧ s.readDecls (s.jfSlice b) (jfDecls b) (jfCount b) = .ok ds) ∧
    (∃ (s : State) (q : QueueId) (c : HCmd), s.hostNext q 0x0D = some c ∧ s.top.slice.isSome = true) ∧
    (∃ (s : State) (q : QueueId) (c : HCmd), Settled s ∧ s.hostNext q 0x0D = some c ∧ s.top.slice = none ∧ s.top.forming =
     none ∧ s.reachableRange (dfld c.raw 16 8) 64 = true ∧ s.badPa (dfld c.raw 16 8) 64 = false ∧ s.top.plan = none) ∧
    (∃ (s : State) (q : Nat) (cid : Nat) (i : SliceInfo), s.top.forming = some i ∧ s.top.host = [(q, cid)]) ∧
    (∃ (s : State), s.top.forming = none) ∧
    (∃ (s : State), s.top.slice = none) ∧
    (∃ (s : State), s.top.slice.isSome = true ∧ (s.flowsBusy = true ∨ ∃ p ∈ s.cols, p.2.cur.isSome = true)) ∧
    (∃ (s : State), s.top.slice.isSome = true ∧ s.flowsBusy = false ∧ (∀ p ∈ s.cols, p.2.cur = none)) :=
  ⟨⟨{ wQ 0x0D with top := { plan := some (List.replicate 20 0 ++ [0x81, 0x40, 0, 0]) }, mem := [⟨12, 0x81⟩, ⟨13, 0x40⟩] },
    0, _, _, [], settledOf _ rfl (by decide) (by decide), rfl, by decide, by decide, by decide, by decide, rfl, by decide,
    by decide, by decide, by decide, by decide, by decide, by decide, rfl⟩,
   ⟨{ wQ 0x0D with top := { slice := some wSl } }, 0, _, rfl, by decide⟩,
   ⟨wQ 0x0D, 0, _, settledOf _ rfl (by decide) (by decide), rfl, by decide, by decide, by decide, by decide, by decide⟩,
   ⟨wT { forming := some wSl, host := [(0, 7)] }, _, _, _, rfl, rfl⟩,
   ⟨wR, by decide⟩,
   ⟨wR, by decide⟩,
   ⟨{ wT { slice := some wSl } with cols := [(0, { cur := some wColl })] }, by decide, by decide⟩,
   ⟨wT { slice := some wSl }, by decide, by decide, by decide⟩⟩

theorem test_meets_FaultsAndAborts :
    (∃ (s : State) (e : Event) (l : List Event), s.ras.fatals = e :: l) ∧
    (∃ (s : State), s.ras.fatals = []) ∧
    (∃ (s : State), s.ras.fatals ≠ []) ∧
    (∃ (s : State), s.pw.powered = true) ∧
    (∃ (s : State), s.serves .ras = true) ∧
    (∃ (off : Bar0Off), off.toNat / 0x1000 < 0x50) ∧
    (∃ (s : State) (fn : Fn) (off : Bar0Off) (b : Block) (n : Nat), s.serves b = true ∧ (fn = .pf0 ∨ 0x50 ≤ off.toNat /
     0x1000) ∧ off.toNat % 0x1000 = 0x024 ∧ pageOf (off.toNat / 0x1000) = some (b, n)) ∧
    (∃ (s : State) (l : LinkId) (ab : AbortInfo), (s.linkUp l = false ∨ s.abortIsOurs ab = false)) ∧
    (∃ (s : State) (l : LinkId) (ab : AbortInfo), s.linkUp l = true ∧ s.abortIsOurs ab = true ∧ ab.echo = true ∧
     s.top.abortCause = none) ∧
    (∃ (s : State) (l : LinkId) (ab : AbortInfo), s.linkUp l = true ∧ s.abortIsOurs ab = true ∧ ab.echo = false ∧
     s.top.abortCause = none) ∧
    (∃ (s : State) (l : LinkId) (i : SliceInfo) (cause : Nat) (d : Nat), s.top.slice = some i ∧ s.top.abortCause = some
     cause ∧ s.linkDir l = some d ∧ s.linkUp l = true ∧ (s.neighbourDirs i).contains d = true ∧ (∀ m ∈ s.dirLinks d, (s.link
     m).echoed = false)) ∧
    (∃ (s : State), s.top.abortCause = none) ∧
    (∃ (s : State) (q : QueueId) (c : HCmd), s.hostNext q 0x0E = some c ∧ s.top.slice = none) ∧
    (∃ (s : State) (q : QueueId) (c : HCmd), s.hostNext q 0x0E = some c ∧ s.top.slice.isSome = true ∧ s.top.abortCause =
     none) ∧
    (∃ (s : State) (x : StackId), s.ready = true ∧ bitOf s.boot.stackSet.toNat x = true ∧ (s.server x).fenced = false) ∧
    (∃ (s : State) (x : StackId), (s.server x).fenced = true) ∧
    (∃ (s : State) (x : StackId), s.ready = true ∧ bitOf s.boot.stackSet.toNat x = true) :=
  ⟨⟨{ wR with ras := { fatals := [wEv] } }, _, _, rfl⟩,
   ⟨wR, by decide⟩,
   ⟨{ wR with ras := { fatals := [wEv] } }, by decide⟩,
   ⟨wR, by decide⟩,
   ⟨wR, by decide⟩,
   ⟨0, by decide⟩,
   ⟨wR, .pf0, 0x24, _, _, by decide, by decide, by decide, rfl⟩,
   ⟨wR, 0, ⟨false, 0, 0, 0⟩, by decide⟩,
   ⟨{ wL { st := 4 } with top := { slice := some wSl } }, 0, ⟨true, 0, 0, 0⟩, by decide, by decide, by decide, by decide⟩,
   ⟨{ wL { st := 4 } with top := { slice := some wSl } }, 0, ⟨false, 0, 0, 0⟩, by decide, by decide, by decide, by decide⟩,
   ⟨{ wL { st := 4 } with top := { slice := some ⟨0, 0x4082, false, false, false, 0, []⟩, abortCause := some 0 } }, 0, _,
    _, _, rfl, rfl, rfl, by decide, by decide, by decide⟩,
   ⟨wR, by decide⟩,
   ⟨wQ 0x0E, 0, _, rfl, by decide⟩,
   ⟨{ wQ 0x0E with top := { slice := some wSl } }, 0, _, rfl, by decide, by decide⟩,
   ⟨wR, 0, by decide, by decide, by decide⟩,
   ⟨wSrv { fenced := true }, 0, by decide⟩,
   ⟨wR, 0, by decide, by decide⟩⟩

theorem test_meets_BootStates :
    (∃ (s : State) (f : FuseReads), f.first.length = 0x800 ∧ (s.boot.state ≠ 1 ∨ s.pw.perst = true ∨ s.pw.pwrgd = false)) ∧
    (∃ (s : State) (f : FuseReads), f.first.length = 0x800 ∧ s.boot.state = 1 ∧ s.pw.perst = false ∧ s.pw.pwrgd = true) ∧
    (∃ (s : State), s.serves .hub = true ∧ s.boot.state ≠ 2) ∧
    (∃ (s : State) (v : Word) (a : Nat), s.serves .hub = true ∧ s.boot.state = 2 ∧ a = s.reg (pgHub 2 + 0x048) + 2 ^ 32 *
     (v.toNat % 2 ^ 16)) ∧
    (∃ (s : State), s.boot.state ≠ 3) ∧
    (∃ (s : State) (n : Nat) (m : List Byte) (key : List Byte) (sig : List Byte), s.boot.state = 3 ∧ n = s.readPaNat
     (s.boot.bundle + 6) 2 % 4097 ∧ m = s.readPa s.boot.bundle (64 + 64 * n) ∧ key = s.readPa (s.boot.bundle + 64 + 64 * n)
     1312 ∧ sig = s.readPa (s.boot.bundle + 64 + 64 * n + 1312) 2420) ∧
    (∃ (s : State) (r : TrainResult), r.rates.length = 4 ∧ s.boot.state ≠ 4) ∧
    (∃ (s : State) (r : TrainResult), r.rates.length = 4 ∧ s.boot.state = 4) ∧
    (∃ (s : State), (s.boot.state ≠ 5 ∨ s.boot.loaded = true)) ∧
    (∃ (s : State) (m : List Byte) (mib : Nat) (base : Nat), s.boot.state = 5 ∧ s.boot.loaded = false ∧ m = s.boot.manifest
     ∧ manFld m 16 8 ≤ 2 ^ 28 ∧ mib = (manFld m 16 8 + 2 ^ 26 - 1) / 2 ^ 26 * 64 ∧ base = (s.imgRegion + 1) * 2 ^ 30 - mib *
     2 ^ 20) ∧
    (∃ (s : State) (u : FwUnit), (s.boot.state ≠ 5 ∨ s.boot.loaded = false ∨ (u.kind.val, u.id.toNat) ∉ s.fwUnits ∨
     s.fwLoaded u.kind.val u.id.toNat = true)) ∧
    (∃ (s : State) (u : FwUnit) (m : List Byte) (j : Nat), s.boot.state = 5 ∧ s.boot.loaded = true ∧ m = s.boot.manifest ∧
     sectionOf m u.kind.val u.id.toNat = some j ∧ (u.kind.val, u.id.toNat) ∈ s.fwUnits ∧ s.fwLoaded u.kind.val u.id.toNat =
     false) ∧
    (∃ (s : State), (s.boot.state ≠ 5 ∨ s.boot.loaded = false ∨ (s.fwUnits.all fun u => s.fwLoaded u.1 u.2) = false)) ∧
    (∃ (s : State), s.boot.state = 5 ∧ s.boot.loaded = true ∧ (s.fwUnits.all fun u => s.fwLoaded u.1 u.2) = true) ∧
    (∃ (s : State) (svn : Nat) (f : List Byte), svn = manFld s.boot.manifest 8 1 ∧ f = s.boot.fuses ∧ s.serves .hub = true ∧
     s.ready = true ∧ bitOf (manFld s.boot.manifest 9 1) 0 = true ∧ fusedSvn f < svn ∧ s.boot.fatalSince = false) ∧
    (∃ (s : State), s.serves .hub = true ∧ (s.ready = false ∨ bitOf (manFld s.boot.manifest 9 1) 0 = false ∨ manFld
     s.boot.manifest 8 1 ≤ fusedSvn s.boot.fuses ∨ s.boot.fatalSince = true)) :=
  ⟨⟨wR, ⟨List.replicate 2048 0, []⟩, by decide, by decide⟩,
   ⟨wB fun b => { b with state := 1 }, ⟨List.replicate 2048 0, []⟩, by decide, by decide, by decide, by decide⟩,
   ⟨wR, by decide, by decide⟩,
   ⟨wB fun b => { b with state := 2 }, 0, _, by decide, by decide, rfl⟩,
   ⟨wR, by decide⟩,
   ⟨wB fun b => { b with state := 3 }, _, _, _, _, by decide, rfl, rfl, rfl, rfl⟩,
   ⟨wR, ⟨[], [], [0, 0, 0, 0], []⟩, by decide, by decide⟩,
   ⟨wB fun b => { b with state := 4 }, ⟨[], [], [0, 0, 0, 0], []⟩, by decide, by decide⟩,
   ⟨wR, by decide⟩,
   ⟨wB fun b => { b with state := 5 }, _, _, _, by decide, by decide, rfl, by decide, rfl, rfl⟩,
   ⟨wR, ⟨1, 0⟩, by decide⟩,
   ⟨wB fun b => { b with state := 5, loaded := true, manifest := List.replicate 6 0 ++ [1] ++ List.replicate 57 0 ++ [1] },
    ⟨1, 0⟩, _, 0, by decide, by decide, rfl, by decide, by decide, by decide⟩,
   ⟨wR, by decide⟩,
   ⟨wB fun b =>
    { b with state := 5, loaded := true, clusters := 0, stackSet := 0, links := 0, rhzMapped := 0, fetched := [(3, 0), (3, 1)] ++ ((List.range 8).map fun i => (4, i)) ++ ((List.range 4).map fun i => (5, i)) ++ [(6, 0), (7, 0)] },
    by decide, by decide, by decide⟩,
   ⟨wB fun b => { b with manifest := List.replicate 8 0 ++ [1, 1] }, _, _, rfl, rfl, by decide, by decide, by decide, by
    decide, by decide⟩,
   ⟨wR, by decide, by decide⟩⟩

theorem test_meets_IdentityAndDebugUnlock :
    (∃ (s : State), s.doeOn = false) ∧
    (∃ (s : State) (key : List Byte), s.doeOn = true ∧ key = (Config.mldsaPublic s.idSeed).toList) ∧
    (∃ (s : State) (nonce : List Byte) (r : List Byte) (sig : List Byte), s.doeOn = true ∧ nonce.length = 32 ∧ r = s.report
     nonce ∧ sig = (Config.mldsaSign s.idSeed r).toList) ∧
    (∃ (s : State), s.doeOn = true) ∧
    (∃ (s : State), s.doeOn = true) ∧
    (∃ (s : State), s.boot.nonce = none) :=
  ⟨⟨wB fun b => { b with state := 0 }, by decide⟩,
   ⟨wR, _, by decide, rfl⟩,
   ⟨wR, List.replicate 32 0, _, _, by decide, by decide, rfl, rfl⟩,
   ⟨wR, by decide⟩,
   ⟨wR, by decide⟩,
   ⟨wR, by decide⟩⟩

theorem test_meets_HostQueues :
    (∃ (s : State) (q : QueueId), s.enabled (pgQue q) = false) ∧
    (∃ (s : State) (q : QueueId) (v : Word), s.enabled (pgQue q) = true ∧ v.toNat % 0x10000 < s.sqSize q) ∧
    (∃ (s : State) (q : QueueId) (v : Word), s.enabled (pgQue q) = true ∧ v.toNat % 0x10000 < s.cqSize q) ∧
    (∃ (s : State) (q : QueueId), s.enabled (pgQue q) = true) ∧
    (∃ (s : State) (q : QueueId), s.enabled (pgQue q) = true) ∧
    (∃ (s : State) (q : QueueId), s.serves .que = true ∧ s.enabled (pgQue q) = false) ∧
    (∃ (s : State), (s.ready = false ∨ s.pickHostQ = none)) ∧
    (∃ (s : State) (q : Nat), s.pickHostQ = some q) ∧
    (∃ (s : State) (q : Nat) (a : Nat) (raw : Nat), Settled s ∧ s.ready = true ∧ s.pickHostQ = some q ∧ a = s.sqBase q +
     s.sqEntry q * (s.hostQ q).sqHead ∧ raw = s.readPaNat a (s.sqEntry q) ∧ s.reachableRange a (s.sqEntry q) = true ∧
     s.badPa a (s.sqEntry q) = false) ∧
    (∃ (s : State) (q : QueueId), ((s.hostQ q).cmds = [] ∨ (∃ c l, (s.hostQ q).cmds = c :: l ∧ c.done = none) ∨ s.cqFull
     (s.cqOf q) = true)) ∧
    (∃ (s : State) (q : QueueId) (c : HCmd) (rest : List HCmd) (st : Nat) (re : Nat) (res : Nat) (p : Nat) (a : Nat),
     s.memOk = true ∧ Settled s ∧ (∀ x ∈ sectorsOf a 16, s.hasEntry x = false) ∧ (s.hostQ q).cmds = c :: rest ∧ c.done =
     some (st, re, res) ∧ p = s.cqOf q ∧ s.cqFull p = false ∧ a = s.cqBase p + 16 * (s.hostQ p).cqTail ∧ s.reachableRange a
     16 = true) :=
  ⟨⟨{ wR with regs := [] }, 0, by decide⟩,
   ⟨wR, 0, 0, by decide, by decide⟩,
   ⟨wR, 0, 0, by decide, by decide⟩,
   ⟨wR, 0, by decide⟩,
   ⟨wR, 0, by decide⟩,
   ⟨{ wR with regs := [] }, 0, by decide, by decide⟩,
   ⟨wR, by decide⟩,
   ⟨{ wR with queues := [(0, { sqTail := 1 })] }, _, rfl⟩,
   ⟨{ wR with queues := [(0, { sqTail := 1 })] }, _, _, _, settledOf _ rfl (by decide) (by decide), by decide, rfl, rfl,
    rfl, by decide, by decide⟩,
   ⟨wR, 0, Or.inl rfl⟩,
   ⟨{ wR with queues := [(0, { cmds := [{ cid := 7, raw := 0, sqHead := 1, done := some (0, 0, 0) }] })] }, 0, _, _, _, _,
    _, _, _, by decide, settledOf _ rfl (by decide) (by decide), by decide, rfl, rfl, rfl, by decide, rfl, by decide⟩⟩

theorem test_meets_HostCommands :
    (∃ (s : State) (q : Nat) (op : Nat) (c : HCmd), s.hostNext q op = some c ∧ c.dup = false) ∧
    (∃ (s : State) (q : QueueId) (c : HCmd), s.hostNext q 0x0F = some c) ∧
    (∃ (s : State) (q : QueueId) (c : HCmd), s.hostNext q 0x03 = some c) ∧
    (∃ (s : State) (q : QueueId) (c : HCmd), s.hostNext q 0x02 = some c ∧ dfld c.raw 24 8 % 2 ^ 40 = 0) ∧
    (∃ (s : State) (q : QueueId) (c : HCmd) (src : Nat) (dst : Nat) (len : Nat), s.hostNext q 0x02 = some c ∧ src = dfld
     c.raw 8 8 ∧ dst = dfld c.raw 16 8 ∧ len = dfld c.raw 24 8 % 2 ^ 40 ∧ dfld c.raw 32 1 % 4 = 0 ∧ 0 < len ∧ len ≤ 64 - src
     % 64 ∧ len ≤ 64 - dst % 64 ∧ s.reachableRange src len = true ∧ s.reachableRange dst len = true ∧ s.badPa src len =
     false ∧ Settled s ∧ s.moves = []) ∧
    (∃ (s : State) (q : QueueId) (c : HCmd), s.hostNext q 0x0A = some c) ∧
    (∃ (s : State) (q : QueueId) (c : HCmd) (code : Nat) (u : Nat) (a : Nat), s.hostNext q 0x08 = some c ∧ code = dfld c.raw
     8 1 ∧ u = dfld c.raw 10 2 ∧ a = dfld c.raw 16 8) ∧
    (∃ (s : State) (q : QueueId) (c : HCmd) (kind : Nat) (u : Nat), s.hostNext q 0x09 = some c ∧ kind = dfld c.raw 8 1 ∧ u =
     dfld c.raw 10 2) ∧
    (∃ (s : State) (q : QueueId) (c : HCmd) (a : Nat), s.hostNext q 0x0B = some c ∧ a = dfld c.raw 16 8) ∧
    (∃ (s : State) (q : QueueId) (gid : Nat) (g : Graph), s.working = true ∧ s.someHeld = false ∧ (s.graphs.find? fun g =>
     g.2.queue == q.val && !g.2.roots.isEmpty) = some (gid, g)) ∧
    (∃ (s : State) (q : QueueId) (c : HCmd), s.working = true ∧ s.someHeld = false ∧ (s.graphs.find? fun g => g.2.queue ==
     q.val && !g.2.roots.isEmpty) = none ∧ s.hostNext q 0x01 = some c) :=
  ⟨⟨wQ 0xf, 0, 0x0F, _, rfl, by decide⟩,
   ⟨wQ 0xf, 0, _, rfl⟩,
   ⟨wQ 0x3, 0, _, rfl⟩,
   ⟨wQ 0x2, 0, _, rfl, by decide⟩,
   ⟨wQ 0x40000000000000200000000000000010000000000000000002, 0, _, _, _, _, rfl, rfl, rfl, rfl, by decide, by decide, by
    decide, by decide, by decide, by decide, by decide, settledOf _ rfl (by decide) (by decide), by decide⟩,
   ⟨wQ 0xa, 0, _, rfl⟩,
   ⟨wQ 0x8, 0, _, _, _, _, rfl, rfl, rfl, rfl⟩,
   ⟨wQ 0x9, 0, _, _, _, rfl, rfl, rfl⟩,
   ⟨wQ 0xb, 0, _, _, rfl, rfl⟩,
   ⟨{ wR with graphs := [(0, { queue := 0, cid := 0, header := 0, nops := 2, opBase := 0, ktab := 0, roots := [0] })] }, 0,
    _, _, by decide, by decide, rfl⟩,
   ⟨wQ 0x1, 0, _, by decide, by decide, by decide, rfl⟩⟩

theorem test_meets_ResetsAndWindows :
    (∃ (s : State), s.pw.pwrgd = true ∧ s.pw.perst = false) ∧
    (∃ (s : State), s.pw.pwrgd = true ∧ s.pw.perst = false) ∧
    (∃ (s : State), (s.pw.pwrgd = false ∨ s.pw.perst = true)) ∧
    (∃ (s : State) (v : Word), s.serves .hub = true ∧ v.toNat % 256 = 0xA5) ∧
    (∃ (fn : Fn) (v : Word), (fn = .pf1 ∨ v.toNat % 256 ≠ 0xA5)) ∧
    (∃ (s : State), s.serves .mmu = true) ∧
    (∃ (s : State) (a : Nat) (n : Nat), s.serves .mmu = true ∧ n = s.reg (pgMmu + 0x058) ∧ n ≠ 0 ∧ a = s.reg64 (pgMmu +
     0x050) % 2 ^ 48 / 0x10000 * 0x10000) ∧
    (∃ (s : State), s.serves .mmu = true ∧ s.reg (pgMmu + 0x058) = 0) ∧
    (∃ (s : State) (off : BitVec 42) (acc : Bar2Op) (a : Nat), s.serves .mem = true ∧ a = s.reg64 (pgMmu + 0x060) % 2 ^ 48 +
     off.toNat ∧ (s.bar2Wait ≠ [] ∨ s.bar2Held a acc = true)) ∧
    (∃ (s : State) (off : BitVec 42) (a : Nat), s.serves .mem = true ∧ a = s.reg64 (pgMmu + 0x060) % 2 ^ 48 + off.toNat ∧
     s.bar2Wait = [] ∧ Settled s) ∧
    (∃ (s : State) (off : BitVec 42) (a : Nat), s.serves .mem = true ∧ a = s.reg64 (pgMmu + 0x060) % 2 ^ 48 + off.toNat ∧
     s.bar2Wait = []) ∧
    (∃ (s : State), s.pw.pwrgd = false) ∧
    (∃ (s : State), s.pw.pwrgd = true) ∧
    (∃ (s : State), s.pw.pwrgd = true) :=
  ⟨⟨wR, by decide, by decide⟩,
   ⟨wR, by decide, by decide⟩,
   ⟨wPw fun p => { p with perst := true }, by decide⟩,
   ⟨wR, 0xA5, by decide, by decide⟩,
   ⟨.pf0, 0, by decide⟩,
   ⟨wR, by decide⟩,
   ⟨wP [(pgMmu + 0x058, 1)], _, _, by decide, rfl, by decide, rfl⟩,
   ⟨wR, by decide, by decide⟩,
   ⟨{ wR with bar2Wait := [(0, .read 64)] }, 0, .read 64, _, by decide, rfl, Or.inl (by decide)⟩,
   ⟨wR, 0, _, by decide, rfl, by decide, settledOf _ rfl (by decide) (by decide)⟩,
   ⟨wR, 0, _, by decide, rfl, by decide⟩,
   ⟨wPw fun p => { p with pwrgd := false }, by decide⟩,
   ⟨wR, by decide⟩,
   ⟨wR, by decide⟩⟩

theorem test_meets_RegisterWrites :
    (∃ (s : State) (fn : Fn) (off : Bar0Off), (s.pw.pwrgd = false ∨ s.pw.perst = true ∨ (fn = .pf1 ∧ off.toNat / 0x1000 <
     0x50) ∨ off.toNat % 4 ≠ 0 ∨ pageOf (off.toNat / 0x1000) = none ∨ (s.boot.state = 7 ∧ ∀ n, pageOf (off.toNat / 0x1000) ≠
     some (.hub, n)))) ∧
    (∃ (s : State) (fn : Fn) (p : Bar0Page), (s.pw.pwrgd = false ∨ s.pw.perst = true ∨ (fn = .pf1 ∧ p.val < 0x50) ∨ pageOf
     p.val = none ∨ (s.boot.state = 7 ∧ ∀ n, pageOf p.val ≠ some (.hub, n)))) ∧
    (∃ (off : Bar0Off), off.toNat % 8 = 0 ∧ off.toNat + 4 < 2 ^ 25) ∧
    (∃ (off : Bar0Off), off.toNat % 8 ≠ 0) ∧
    (∃ (s : State) (fn : Fn) (off : Bar0Off) (b : Block) (n : Nat), s.serves b = true ∧ (fn = .pf0 ∨ 0x50 ≤ off.toNat /
     0x1000) ∧ off.toNat % 4 = 0 ∧ pageOf (off.toNat / 0x1000) = some (b, n)) ∧
    (∃ (s : State) (fn : Fn) (p : Bar0Page) (b : Block) (n : Nat), s.serves b = true ∧ (fn = .pf0 ∨ 0x50 ≤ p.val) ∧ pageOf
     p.val = some (b, n) ∧ isMsix b n = false ∧ s.pageLive b n = false) ∧
    (∃ (s : State) (fn : Fn) (p : Bar0Page) (b : Block) (n : Nat), s.serves b = true ∧ (fn = .pf0 ∨ 0x50 ≤ p.val) ∧ pageOf
     p.val = some (b, n) ∧ isMsix b n = false ∧ s.pageLive b n = true ∧ s.reg (p.val * 0x1000 + 0x010) % 8 / 2 = 0 ∧
     s.enabled (p.val * 0x1000) = false ∧ b ∉ [.cor, .l2c, .que]) :=
  ⟨⟨wPw fun p => { p with pwrgd := false }, .pf0, 0, Or.inl rfl⟩,
   ⟨wPw fun p => { p with pwrgd := false }, .pf0, 0, Or.inl rfl⟩,
   ⟨0, by decide, by decide⟩,
   ⟨4, by decide⟩,
   ⟨wR, .pf0, 0, _, _, by decide, by decide, by decide, rfl⟩,
   ⟨wB fun b => { b with clusters := 0 }, .pf0, ⟨pgL2c 0 / 0x1000, by decide⟩, .l2c, 0, by decide, by decide, by decide, by
    decide, by decide⟩,
   ⟨wR, .pf0, 0, _, _, by decide, by decide, rfl, by decide, by decide, by decide, by decide, by decide⟩⟩

theorem test_meets_SlotEnables :
    (∃ (s : State), s.serves .cpd = true) ∧
    (∃ (s : State), s.ready = true ∧ (s.pw.resync = true ∨ s.frameDue = true)) ∧
    (∃ (s : State), (s.ready = false ∨ (s.pw.resync = false ∧ s.pw.frame = s.now.toNat / 128000 % 2 ^ 32))) ∧
    (∃ (s : State) (obs : SlotObs) (n : Nat), s.ready = true ∧ s.pw.resync = false ∧ s.pw.frame = s.now.toNat / 128000 % 2 ^
     32 ∧ n = s.now.toNat % 128000 / 8000 ∧ s.pw.next ≤ n ∧ s.pw.slotEn.toNat.testBit n = false ∧ obs.upsets = [] ∧
     s.bar2Wait = [] ∧ s.chanWait = [] ∧ s.moves = [] ∧ s.pw.chunk = none ∧ (∀ p ∈ s.chans, p.2.st ≠ 1) ∧ (∀ l < 16, (s.link
     l).st ≠ 5) ∧ (∀ r ∈ s.pw.cals, r.run ≠ 1)) :=
  ⟨⟨wR, by decide⟩,
   ⟨{ wR with now := 128000 }, by decide, by decide⟩,
   ⟨wR, by decide⟩,
   ⟨wPw fun p => { p with slotEn := 0 }, ⟨false, [], [], 0, 0, false, []⟩, _, by decide, by decide, by decide, rfl, by
    decide, by decide, by decide, by decide, by decide, by decide, by decide, by decide, by decide, by decide⟩⟩

theorem test_meets_QueueDepthLimit :
    (∃ (s : State) (x : StackId) (q : CmdQueue) (v : Word), s.serves .stk = true ∧ s.rbit (pgStk x + 0x100 + 4 * q) 0 =
     false ∧ v.toNat.testBit 0 = true ∧ 4 ≤ fld v.toNat 1 4 ∧ fld v.toNat 1 4 ≤ 10 ∧ 8192 < ((List.range 64).map fun i => if
     i ≠ q.val ∧ s.rbit (pgStk x + 0x100 + 4 * i) 0 = true then s.queueDepth x i else 0).foldl (· + ·) 0 + 2 ^ fld v.toNat 1
     4) ∧
    (∃ (s : State) (x : StackId) (q : CmdQueue) (v : Word), s.serves .stk = true ∧ s.rbit (pgStk x + 0x100 + 4 * q) 0 = true
     ∧ v.toNat.testBit 0 = false ∧ s.queueOcc x q ≠ 0) :=
  ⟨⟨wP ((List.range 8).map fun i => (pgStk 0 + 0x104 + 4 * i, 0x15)), 0, 0, 0x15, by decide, by decide, by decide, by
    decide, by decide, by decide⟩,
   ⟨wQue 0x10, 0, 0, 0, by decide, by decide, by decide, by decide⟩⟩

theorem test_meets_StepRunsTheFrontCommand :
    (∃ (s : State), s.pending = [] ∧ (s.pw.powered = false ∨ s.pw.locked = false)) ∧
    (∃ (s : State), s.pending = [] ∧ s.pw.powered = true ∧ s.pw.locked = true) :=
  ⟨⟨wPw fun p => { p with locked := false }, by decide, by decide⟩,
   ⟨wR, by decide, by decide, by decide⟩⟩

theorem test_meets_StepKeepsMemoryCanonical :
    ∃ (s : State) (t : State), s.memOk = true ∧ step s = .next t :=
  ⟨wPw fun p => { p with locked := false }, wPw fun p => { p with locked := false }, by decide, rfl⟩

theorem test_meets_EngineWordsAgree :
    (∃ (op : EngOp), op.wf = true ∧ (encodeEng op).2 = 4) ∧
    (∃ (op : EngOp), op.wf = true ∧ (encodeEng op).2 ≠ 4) ∧
    (∃ (w : Nat) (op : EngOp), w < 2 ^ 32 ∧ decodeEng32 w = some op) ∧
    (∃ (w : Nat) (op : EngOp), w < 2 ^ 64 ∧ decodeEng64 w = some op) :=
  ⟨⟨.wend, by decide, by decide⟩,
   ⟨.varith .add 1 2 (.imm 0x3F800000 false), by decide, by decide⟩,
   ⟨(encodeEng .wend).1, .wend, by decide, by decide⟩,
   ⟨(encodeEng (.varith .add 1 2 (.imm 0x3F800000 false))).1, .varith .add 1 2 (.imm 0x3F800000 false), by decide, by
    decide⟩⟩

theorem test_meets_CommandFrames : ∃ (i : Instr) (s t : State),
    exec i s = .next t ∧ .mem ∉ writes i ∧ .junk ∉ writes i :=
  ⟨.perstNDeassert, wR, _, rfl, by decide, by decide⟩

theorem test_meets_PowerCycleRequest :
    (∃ (i : Instr) (s t : State), exec i s = .next t ∧ s.pw.rstReq = false ∧ t.pw.rstReq = true) ∧
    (∃ (i : Instr) (s t : State), exec i s = .next t ∧ s.pw.rstReq = true ∧ t.pw.rstReq = false) :=
  ⟨⟨.deviceFatal 0 1, wR, _, rfl, by decide, by decide⟩,
   ⟨.pwrEnRise, wPw fun p => { p with pwrEn := false, rstReq := true }, _, rfl, by decide, by decide⟩⟩

end Sys2Proof.Tests
end

section
/-! PROOFS. What a refused register write leaves in its page (R631, R633), and the bound on the depths of a stack's enabled
queues (R106). -/

namespace Sys2Proof.Machine

open Sys2Proof

/-! ## The registers of a page that a refusal writes -/

@[simp] theorem State.reg_raiseVec (s : State) (fn vec o : Nat) : (s.raiseVec fn vec).reg o = s.reg o := by
  unfold State.raiseVec
  split <;> rfl

/-- An interrupt writes no register but INTSTAT. -/
theorem State.reg_setInt_other (s : State) {pg o : Nat} (bits : Nat) (h : o ≠ pg + 0x028) :
    (s.setInt pg bits).reg o = s.reg o := by
  simp only [State.setInt]
  split
  · rw [State.reg_raiseVec, State.reg_setReg_other _ _ h]
  · exact State.reg_setReg_other _ _ h

/-- An error bit writes no register but ERRSTAT and INTSTAT. -/
theorem State.reg_setErr_other (s : State) {pg o : Nat} (bit : Nat) (hErr : o ≠ pg + 0x01C) (hInt : o ≠ pg + 0x028) :
    (s.setErr pg bit).reg o = s.reg o := by
  simp only [State.setErr]
  split
  · rw [State.reg_setInt_other _ _ hInt, State.reg_setReg_other _ _ hErr]
  · exact State.reg_setReg_other _ _ hErr

/-- A refusal writes no register but STATUS, REASON, ERRSTAT and INTSTAT of the page. -/
theorem State.reg_refuse_other (s : State) {off pg o : Nat} (reason : Nat) (hpg : off / 0x1000 * 0x1000 = pg)
    (hStatus : o ≠ pg + 0x014) (hReason : o ≠ pg + 0x018) (hErr : o ≠ pg + 0x01C) (hInt : o ≠ pg + 0x028) :
    (s.refuse off reason).reg o = s.reg o := by
  simp only [State.refuse, State.setRfld, hpg]
  rw [State.reg_setErr_other _ _ hErr hInt, State.reg_setReg_other _ _ hReason, State.reg_setReg_other _ _ hStatus]

/-- REASON after a refusal holds the reason code in its low byte. -/
theorem State.reg_refuse_reason (s : State) {off pg reason : Nat} (hpg : off / 0x1000 * 0x1000 = pg)
    (hr : reason < 2 ^ 8) : (s.refuse off reason).reg (pg + 0x018) % 2 ^ 8 = reason := by
  simp only [State.refuse, hpg]
  rw [State.reg_setErr_other _ _ (by omega) (by omega), State.reg_setReg_same]
  omega

/-- STATUS.REFUSED is set after a refusal. -/
theorem State.rbit_refuse_refused (s : State) {off pg : Nat} (reason : Nat) (hpg : off / 0x1000 * 0x1000 = pg) :
    (s.refuse off reason).rbit (pg + 0x014) 1 = true := by
  simp only [State.refuse, State.setRfld, State.setRfld.setBits, State.rbit, bitOf, hpg]
  rw [State.reg_setErr_other _ _ (by omega) (by omega), State.reg_setReg_other _ _ (by omega), State.reg_setReg_same,
    Nat.testBit_eq_decide_div_mod_eq, decide_eq_true_eq]
  omega

/-! ## Queue configuration -/

/-- CQCFG of a command queue lies in its stack's page. -/
theorem page_cqcfg (x : Nat) {q : Nat} (hq : q < 64) : (pgStk x + 0x100 + 4 * q) / 0x1000 * 0x1000 = pgStk x := by
  unfold pgStk
  omega

/-- The configuration register of a queue outlives a refusal of a write to it. -/
theorem State.reg_cqcfg_refuse (s : State) (x reason : Nat) {q : Nat} (hq : q < 64) :
    (s.refuse (pgStk x + 0x100 + 4 * q) reason).reg (pgStk x + 0x100 + 4 * q) = s.reg (pgStk x + 0x100 + 4 * q) :=
  s.reg_refuse_other reason (page_cqcfg x hq) (by omega) (by omega) (by omega) (by omega)

/-- The entries that the enabled queues of a stack other than `q` take of its command store (R105). -/
def State.otherDepths (s : State) (x q : Nat) : Nat :=
  ((List.range 64).map fun i =>
    if i ≠ q ∧ s.rbit (pgStk x + 0x100 + 4 * i) 0 = true then s.queueDepth x i else 0).foldl (· + ·) 0

theorem bitOf_zero_mod (v : Nat) : bitOf (v % 2 ^ 12) 0 = v.testBit 0 := by
  simp [bitOf]

theorem fld_depth_mod (v : Nat) : fld (v % 2 ^ 12) 1 4 = fld v 1 4 := by
  simp only [fld, Nat.shiftRight_eq_div_pow]
  omega

/-- Enabling a queue past the command store stores the write without EN and refuses it with 0x86. -/
theorem State.cqcfg_enable_refused (s : State) {x q v : Nat} (hoff : s.rbit (pgStk x + 0x100 + 4 * q) 0 = false)
    (hen : v.testBit 0 = true) (hlo : 4 ≤ fld v 1 4) (hhi : fld v 1 4 ≤ 10)
    (hsum : 8192 < s.otherDepths x q + 2 ^ fld v 1 4) :
    s.cqcfg x q v =
      (s.setReg (pgStk x + 0x100 + 4 * q) (v % 2 ^ 12 / 2 * 2)).refuse (pgStk x + 0x100 + 4 * q) 0x86 := by
  have hold : bitOf (s.reg (pgStk x + 0x100 + 4 * q)) 0 = false := hoff
  have hdepth : (decide (fld v 1 4 < 4) || decide (10 < fld v 1 4)) = false := by simp; omega
  have hfull := decide_eq_true hsum
  unfold State.otherDepths at hfull
  simp only [State.cqcfg, hold, bitOf_zero_mod, fld_depth_mod, hdepth, hen, hfull, Bool.and_self, if_true,
    Bool.false_eq_true, if_false]

/-- Clearing EN of a queue with waiting commands is refused with 0x0D; a change of another field of the enabled queue in the
same write is refused with 0x0D once more. -/
theorem State.cqcfg_disable_refused (s : State) {x q v : Nat} (hon : s.rbit (pgStk x + 0x100 + 4 * q) 0 = true)
    (hen : v.testBit 0 = false) (hocc : s.queueOcc x q ≠ 0) :
    ∃ r : State, s.cqcfg x q v = r.refuse (pgStk x + 0x100 + 4 * q) 0x0D ∧
      (r = s ∨ r = s.refuse (pgStk x + 0x100 + 4 * q) 0x0D) := by
  have hold : bitOf (s.reg (pgStk x + 0x100 + 4 * q)) 0 = true := hon
  have hbusy : (s.queueOcc x q != 0) = true := bne_iff_ne.2 hocc
  simp only [State.cqcfg, hold, bitOf_zero_mod, hen, hbusy, if_true, Bool.false_eq_true, if_false]
  split
  · exact ⟨_, rfl, .inr rfl⟩
  · exact ⟨s, rfl, .inl rfl⟩

theorem exec_cqcfgEn_of_serves {s : State} (x : StackId) (q : CmdQueue) (v : Word) (h : s.serves .stk = true) :
    exec (.cqcfgEn x q v) s = .next (s.cqcfg x q v.toNat) := by
  simp [exec, execCqcfgEn, h]

/-- Settles O54: each of the two writes ends in a refusal of the queue's CQCFG, which the refusal itself leaves as it was. -/
theorem queueDepthLimit : Obligations.QueueDepthLimit := by
  unfold Obligations.QueueDepthLimit
  constructor
  · intro s x q v hserves hoff hen hlo hhi hsum
    have hpg := page_cqcfg x q.isLt
    refine ⟨_, exec_cqcfgEn_of_serves x q v hserves, ?_⟩
    rw [s.cqcfg_enable_refused hoff hen hlo hhi hsum]
    refine ⟨?_, State.rbit_refuse_refused _ _ hpg, State.reg_refuse_reason _ hpg (by decide)⟩
    rw [State.rbit, State.reg_cqcfg_refuse _ _ _ q.isLt, State.reg_setReg_same, bitOf, Nat.testBit_zero,
      decide_eq_false_iff_not]
    omega
  · intro s x q v hserves hon hen hocc
    have hpg := page_cqcfg x q.isLt
    obtain ⟨r, hr, hcase⟩ := s.cqcfg_disable_refused hon hen hocc
    refine ⟨_, exec_cqcfgEn_of_serves x q v hserves, ?_⟩
    rw [hr]
    refine ⟨?_, State.rbit_refuse_refused _ _ hpg, State.reg_refuse_reason _ hpg (by decide)⟩
    have hreg : r.reg (pgStk x + 0x100 + 4 * q) = s.reg (pgStk x + 0x100 + 4 * q) := by
      obtain rfl | rfl := hcase
      · rfl
      · exact s.reg_cqcfg_refuse _ _ q.isLt
    rwa [State.rbit, State.reg_cqcfg_refuse _ _ _ q.isLt, hreg]

end Sys2Proof.Machine
end

section
/-! PROOFS. What the end of a slot leaves alone: no activity of a slot that ends, and nothing that waited for it, writes a
register of the HUB pages or of the CPD page (R582, R586). -/

namespace Sys2Proof.Machine

open Sys2Proof

/-- The stored registers of the HUB pages and of the CPD page, which stand below every other page (R630). -/
def hubRegs (m : NMap Word) (o : Nat) : Option Word := if o < 0x100000 then nfind m o else none

/-- A register offset above the HUB and CPD pages. -/
def PastHub (off : Nat) : Prop := 0x100000 ≤ off

@[simp] theorem pastHub_add {a : Nat} (b : Nat) (h : PastHub a) : PastHub (a + b) := Nat.le_add_right_of_le h

@[simp] theorem pastHub_pgL2c (h : Nat) : PastHub (pgL2c h) := by
  unfold PastHub pgL2c pgClu
  omega

@[simp] theorem pastHub_pgStk (x : Nat) : PastHub (pgStk x) := by
  unfold PastHub pgStk
  omega

@[simp] theorem pastHub_pgLnk (l : Nat) : PastHub (pgLnk l) := by
  unfold PastHub pgLnk
  omega

@[simp] theorem pastHub_pgRhz (i : Nat) : PastHub (pgRhz i) := by
  unfold PastHub pgRhz
  omega

@[simp] theorem pastHub_pgQue (q : Nat) : PastHub (pgQue q) := by
  unfold PastHub pgQue
  omega

@[simp] theorem pastHub_pgSor (e : Nat) : PastHub (pgSor e) := by
  unfold PastHub pgSor
  omega

@[simp] theorem pastHub_pgRas : PastHub pgRas := by
  unfold PastHub pgRas
  decide

@[simp] theorem pastHub_pgTbl : PastHub pgTbl := by
  unfold PastHub pgTbl
  decide

@[simp] theorem pastHub_pgTop : PastHub pgTop := by
  unfold PastHub pgTop
  decide

@[simp] theorem pastHub_pcRegs (ch : Nat) : PastHub (pcRegs ch) := by
  unfold pcRegs
  split <;> simp

@[simp] theorem pastHub_chanPage (ch : Nat) : PastHub (chanPage ch) := by
  unfold chanPage
  split <;> simp

/-! ## Operations that write no HUB or CPD register -/

@[simp] theorem State.hubRegs_setReg (s : State) {off : Nat} (v : Nat) (h : PastHub off) :
    hubRegs (s.setReg off v).regs = hubRegs s.regs := by
  funext o
  unfold PastHub at h
  unfold hubRegs State.setReg
  split
  · rw [nfind_nset, if_neg (by omega)]
  · rfl

theorem State.reg_eq_of_hubRegs {s t : State} (h : hubRegs t.regs = hubRegs s.regs) {o : Nat} (ho : o < 0x100000) :
    t.reg o = s.reg o := by
  have hf : nfind t.regs o = nfind s.regs o := by simpa [hubRegs, ho] using congrFun h o
  unfold State.reg
  rw [hf]

/-- A fold keeps the HUB and CPD registers when each of its steps does. -/
@[simp] theorem hubRegs_foldl {α : Type} {f : State → α → State} (hf : ∀ a x, hubRegs (f a x).regs = hubRegs a.regs) (l : List α)
    (s : State) : hubRegs (l.foldl f s).regs = hubRegs s.regs := by
  induction l generalizing s with
  | nil => rfl
  | cons x l ih => rw [List.foldl_cons, ih, hf]

/-- A fold that carries something beside the state. -/
theorem hubRegs_foldl_fst {α β : Type} {f : State × β → α → State × β} (hf : ∀ a x, hubRegs (f a x).1.regs = hubRegs a.1.regs)
    (l : List α) (p : State × β) : hubRegs (l.foldl f p).1.regs = hubRegs p.1.regs := by
  induction l generalizing p with
  | nil => rfl
  | cons x l ih => rw [List.foldl_cons, ih, hf]

section
variable (s : State)

/-! Registers, interrupts and events. -/

@[simp] theorem State.hubRegs_setReg64 {off : Nat} (v : Nat) (h : PastHub off) :
    hubRegs (s.setReg64 off v).regs = hubRegs s.regs := by
  simp [State.setReg64, h]

@[simp] theorem State.hubRegs_setRfld {off : Nat} (lo w v : Nat) (h : PastHub off) :
    hubRegs (s.setRfld off lo w v).regs = hubRegs s.regs := by
  simp [State.setRfld, h]

@[simp] theorem State.hubRegs_count64 {off : Nat} (n : Nat) (h : PastHub off) :
    hubRegs (s.count64 off n).regs = hubRegs s.regs := by
  simp [State.count64, h]

@[simp] theorem State.hubRegs_count32 {off : Nat} (n : Nat) (h : PastHub off) :
    hubRegs (s.count32 off n).regs = hubRegs s.regs := by
  simp [State.count32, h]

@[simp] theorem State.regs_raiseVec (fn vec : Nat) : (s.raiseVec fn vec).regs = s.regs :=
  unwritten (fun _ hs hw => s.raiseVec_sound fn vec hs hw) .regs rfl

@[simp] theorem State.hubRegs_setInt {pg : Nat} (bits : Nat) (h : PastHub pg) :
    hubRegs (s.setInt pg bits).regs = hubRegs s.regs := by
  simp only [State.setInt]
  split <;> simp [h]

@[simp] theorem State.hubRegs_setErr {pg : Nat} (bit : Nat) (h : PastHub pg) :
    hubRegs (s.setErr pg bit).regs = hubRegs s.regs := by
  simp only [State.setErr]
  split <;> simp [h]

@[simp] theorem State.hubRegs_refuse {off : Nat} (reason : Nat) (h : PastHub (off / 0x1000 * 0x1000)) :
    hubRegs (s.refuse off reason).regs = hubRegs s.regs := by
  simp [State.refuse, h]

@[simp] theorem State.regs_putPa (a : Nat) (l : List Byte) (bad : Bool) : (s.putPa a l bad).regs = s.regs :=
  unwritten (fun _ hs hw => s.putPa_sound a l bad hs hw) .regs rfl

@[simp] theorem State.hubRegs_recordEvent (e : Event) : hubRegs (s.recordEvent e).regs = hubRegs s.regs := by
  have hcnt : PastHub (pgRas + 0x060 + 4 * e.cls) := by simp
  simp only [State.recordEvent]
  split
  · simp [hcnt]
  · split
    · simp [hcnt]
    · split <;> simp [hcnt]

@[simp] theorem State.hubRegs_lightEvent (e : Event) : hubRegs (s.lightEvent e).regs = hubRegs s.regs := by
  simp only [State.lightEvent]
  split <;> simp

@[simp] theorem State.hubRegs_fatalEvent (e : Event) : hubRegs (s.fatalEvent e).regs = hubRegs s.regs := by
  simp only [State.fatalEvent]
  split <;> simp

@[simp] theorem State.hubRegs_fatal (b : Block) (inst reason unit : Nat) (addr : Option Nat) :
    hubRegs (s.fatal b inst reason unit addr).regs = hubRegs s.regs := by
  simp [State.fatal]

@[simp] theorem State.hubRegs_poisonRead (b : Block) (inst a : Nat) :
    hubRegs (s.poisonRead b inst a).regs = hubRegs s.regs := by
  simp [State.poisonRead]

/-! Memory and its errors. -/

@[simp] theorem State.regs_dropSector (sec : Nat) : (s.dropSector sec).regs = s.regs :=
  unwritten (fun _ hs hw => s.dropSector_sound sec hs hw) .regs rfl

@[simp] theorem State.regs_dropSectors (a n : Nat) : (s.dropSectors a n).regs = s.regs :=
  unwritten (fun _ hs hw => s.dropSectors_sound a n hs hw) .regs rfl

@[simp] theorem State.regs_storeRaw (a : Nat) (l : List Byte) (bad : Bool) : (s.storeRaw a l bad).regs = s.regs := rfl

@[simp] theorem State.regs_store (a : Nat) (l : List Byte) (bad : Bool) : (s.store a l bad).regs = s.regs :=
  unwritten (fun _ hs hw => s.store_sound a l bad hs hw) .regs rfl

@[simp] theorem State.regs_dirtyHot (pa : Nat) : (s.dirtyHot pa).regs = s.regs :=
  unwritten (fun _ hs hw => s.dirtyHot_sound pa hs hw) .regs rfl

@[simp] theorem State.regs_poisonSector (sec : Nat) : (s.poisonSector sec).regs = s.regs := rfl

@[simp] theorem State.regs_logRow (st row : Nat) : (s.logRow st row).regs = s.regs :=
  unwritten (fun _ hs hw => s.logRow_sound st row hs hw) .regs rfl

@[simp] theorem State.regs_trackRow (st row : Nat) : (s.trackRow st row).regs = s.regs :=
  unwritten (fun _ hs hw => s.trackRow_sound st row hs hw) .regs rfl

@[simp] theorem State.regs_takeDur (bound : Nat) : (s.takeDur bound).2.regs = s.regs :=
  unwritten (fun _ hs hw => s.takeDur_sound bound hs hw) .regs rfl

@[simp] theorem State.hubRegs_countCE (ch : Nat) : hubRegs (s.countCE ch).regs = hubRegs s.regs := by
  simp only [State.countCE]
  split <;> simp

@[simp] theorem State.hubRegs_countUE (ch : Nat) : hubRegs (s.countUE ch).regs = hubRegs s.regs := by
  simp only [State.countUE]
  split <;> simp

@[simp] theorem State.hubRegs_l2Corrected (h slice way : Nat) :
    hubRegs (s.l2Corrected h slice way).regs = hubRegs s.regs := by
  simp [State.l2Corrected]

@[simp] theorem State.hubRegs_l2CountUE (h : Nat) : hubRegs (s.l2CountUE h).regs = hubRegs s.regs := by
  simp [State.l2CountUE]

@[simp] theorem State.hubRegs_dramCorrected (sec : Nat) : hubRegs (s.dramCorrected sec).regs = hubRegs s.regs := by
  simp only [State.dramCorrected]
  split <;> split <;> simp

@[simp] theorem State.hubRegs_dramCountUE (sec : Nat) : hubRegs (s.dramCountUE sec).regs = hubRegs s.regs := by
  simp only [State.dramCountUE]
  split <;> simp

@[simp] theorem State.hubRegs_meetPlain (sec : Nat) : hubRegs (s.meetPlain sec).regs = hubRegs s.regs := by
  simp only [State.meetPlain]
  split
  · rfl
  · split
    · rfl
    · split <;> split <;> simp

theorem State.hubRegs_recoverHot {sec : Nat} {t : State} (h : s.recoverHot sec = some t) :
    hubRegs t.regs = hubRegs s.regs := by
  simp only [State.recoverHot] at h
  split at h
  · exact absurd h (by simp)
  · split at h
    · exact absurd h (by simp)
    · cases h
      simp

@[simp] theorem State.hubRegs_dramUncorrectable (sec : Nat) :
    hubRegs (s.dramUncorrectable sec).regs = hubRegs s.regs := by
  simp only [State.dramUncorrectable]
  cases h : (s.dramCountUE sec).recoverHot sec with
  | none => simp
  | some t => simp [State.hubRegs_recoverHot _ h]

@[simp] theorem State.hubRegs_meetSector (sec : Nat) : hubRegs (s.meetSector sec).regs = hubRegs s.regs := by
  simp only [State.meetSector]
  split
  · split <;> simp
  · simp

@[simp] theorem State.hubRegs_accApply (h : Nat) (a : AccWrite) : hubRegs (s.accApply h a).regs = hubRegs s.regs := by
  simp only [State.accApply]
  split <;> simp

@[simp] theorem State.hubRegs_accDrain (a n : Nat) : hubRegs (s.accDrain a n).regs = hubRegs s.regs := by
  simp only [State.accDrain]
  split
  · split <;> simp
  · rfl

@[simp] theorem State.hubRegs_writePa (a : Nat) (l : List Byte) (bad : Bool) :
    hubRegs (s.writePa a l bad).regs = hubRegs s.regs := by
  simp [State.writePa]

@[simp] theorem State.hubRegs_meet (a n : Nat) : hubRegs (s.meet a n).regs = hubRegs s.regs := by
  simp only [State.meet]
  split <;> simp

/-! Flushes of the update tables. -/

@[simp] theorem State.hubRegs_unitCount {u eng rhz : Nat} (n : Nat) :
    hubRegs (s.unitCount u eng rhz n).regs = hubRegs s.regs := by
  simp only [State.unitCount]
  split
  · simp
  · split <;> simp

@[simp] theorem State.hubRegs_rmw (u sec : Nat) (k : UKey) (vals : NMap Nat) :
    hubRegs (s.rmw u sec k vals).2.regs = hubRegs s.regs := by
  simp only [State.rmw]
  split
  · split <;> simp
  · repeat' split
    all_goals simp

@[simp] theorem State.regs_poisonFences (r : Nat) (orgs : List Origin) : (s.poisonFences r orgs).regs = s.regs := rfl

@[simp] theorem State.hubRegs_applyVals (u sec : Nat) (k : UKey) (vals : NMap Nat) (orgs : List Origin) :
    hubRegs (s.applyVals u sec k vals orgs).regs = hubRegs s.regs := by
  simp only [State.applyVals]
  split <;> simp

@[simp] theorem FlushWhy.hubRegs_count (w : FlushWhy) (u : Nat) : hubRegs (w.count u s).regs = hubRegs s.regs := by
  cases w <;> simp [FlushWhy.count]

@[simp] theorem State.hubRegs_flushSector (u sec : Nat) (why : FlushWhy) :
    hubRegs (s.flushSector u sec why).regs = hubRegs s.regs := by
  simp only [State.flushSector]
  split <;> simp

@[simp] theorem State.regs_markDue (u sec : Nat) (why : FlushWhy) : (s.markDue u sec why).regs = s.regs := rfl

@[simp] theorem State.hubRegs_flushRange (a n : Nat) : hubRegs (s.flushRange a n).regs = hubRegs s.regs := by
  refine hubRegs_foldl (fun t sec => ?_) _ _
  split
  · split
    · rfl
    · split <;> simp
  · rfl

@[simp] theorem State.hubRegs_beforeWrite (a n : Nat) : hubRegs (s.beforeWrite a n).regs = hubRegs s.regs := by
  simp [State.beforeWrite]

@[simp] theorem State.hubRegs_flushDue (u : Nat) : hubRegs (s.flushDue u).regs = hubRegs s.regs := by
  refine hubRegs_foldl (fun t e => ?_) _ _
  split
  · split <;> simp
  · rfl

/-! Maintenance of an L2. -/

@[simp] theorem State.hubRegs_l2Uncorrectable (h key : Nat) : hubRegs (s.l2Uncorrectable h key).regs = hubRegs s.regs := by
  simp only [State.l2Uncorrectable]
  split
  · rfl
  · split <;> simp

@[simp] theorem State.hubRegs_l2Meet (h key : Nat) : hubRegs (s.l2Meet h key).regs = hubRegs s.regs := by
  simp only [State.l2Meet]
  split
  · rfl
  · split <;> simp

@[simp] theorem State.hubRegs_l2MeetAlone (h key : Nat) : hubRegs (s.l2MeetAlone h key).regs = hubRegs s.regs := by
  simp only [State.l2MeetAlone]
  split <;> simp

@[simp] theorem State.hubRegs_l2WriteBack (h key : Nat) : hubRegs (s.l2WriteBack h key).regs = hubRegs s.regs := by
  have hmet : hubRegs (if ((nfind (s.home h).l2 key).map (·.dirty)).getD false then s.l2MeetAlone h key else s).regs =
      hubRegs s.regs := by
    split <;> simp
  simp only [State.l2WriteBack]
  split
  · split <;> simp [hmet]
  · exact hmet

@[simp] theorem State.hubRegs_l2Op (h : Nat) (op : RangeOp) (key : Nat) : hubRegs (s.l2Op h op key).regs = hubRegs s.regs := by
  cases op <;> simp [State.l2Op, State.l2Drop]

@[simp] theorem State.regs_l2Known (h : Nat) : (s.l2Known h).regs = s.regs :=
  unwritten (fun _ hs hw => s.l2Known_sound h hs hw) .regs rfl

@[simp] theorem State.hubRegs_l2Range (h : Nat) (op : RangeOp) (inRange : Nat → Bool) :
    hubRegs (s.l2Range h op inRange).regs = hubRegs s.regs := by
  simp only [State.l2Range]
  rw [hubRegs_foldl, State.regs_l2Known]
  intro t e
  split <;> simp

@[simp] theorem State.hubRegs_maintRun (h : Nat) (op : RangeOp) (r : Option (Nat × Nat)) :
    hubRegs (s.maintRun h op r).regs = hubRegs s.regs := by
  simp only [State.maintRun]
  split <;> simp

@[simp] theorem State.hubRegs_setEn {pg : Nat} (on : Bool) (h : PastHub pg) :
    hubRegs (s.setEn pg on).regs = hubRegs s.regs := by
  simp [State.setEn, h]

@[simp] theorem State.regs_makeJunk (lo hi : Nat) : (s.makeJunk lo hi).regs = s.regs :=
  unwritten (fun _ hs hw => s.makeJunk_sound lo hi hs hw) .regs rfl

@[simp] theorem hubRegs_l2Disable (h : Nat) : hubRegs (l2Disable s h).regs = hubRegs s.regs := by
  simp only [l2Disable]
  split
  · simp
  · split
    · split <;> rfl
    · split <;> simp

/-! Links, the plan and the detour tables. -/

@[simp] theorem State.hubRegs_linkEvent (bit : Nat) : hubRegs (s.linkEvent bit).regs = hubRegs s.regs := by
  simp [State.linkEvent]

@[simp] theorem State.hubRegs_dropDone (l : Nat) : hubRegs (s.dropDone l).regs = hubRegs s.regs := by
  simp only [State.dropDone]
  split <;> simp

@[simp] theorem State.regs_foldl_emit {α : Type} (g : α → Output) (l : List α) :
    (l.foldl (fun acc x => acc.emit (g x)) s).regs = s.regs := by
  induction l generalizing s with
  | nil => rfl
  | cons x l ih => rw [List.foldl_cons, ih, State.emit_regs]

@[simp] theorem State.hubRegs_putPacket (l vl : Nat) (p : Packet) :
    hubRegs (s.putPacket l vl p).regs = hubRegs s.regs := by
  simp only [State.putPacket]
  split <;> simp

@[simp] theorem State.hubRegs_drainLink (l : Nat) : hubRegs (s.drainLink l).regs = hubRegs s.regs := by
  simp only [State.drainLink, State.modLink_regs]
  rw [hubRegs_foldl_fst, State.modLink_regs]
  intro a x
  split <;> simp

@[simp] theorem State.hubRegs_resendFrom (l i : Nat) : hubRegs (s.resendFrom l i).regs = hubRegs s.regs := by
  simp only [State.resendFrom]
  split <;> simp

@[simp] theorem State.hubRegs_takeNak (l lseq : Nat) : hubRegs (s.takeNak l lseq).regs = hubRegs s.regs := by
  simp only [State.takeNak]
  split
  · split <;> simp
  · rfl

@[simp] theorem State.hubRegs_eqDone (l : Nat) : hubRegs (s.eqDone l).regs = hubRegs s.regs := by
  simp only [State.eqDone]
  split <;> simp

@[simp] theorem State.hubRegs_sendCredit (l vl n : Nat) : hubRegs (s.sendCredit l vl n).regs = hubRegs s.regs := by
  simp only [State.sendCredit]
  split <;> simp

@[simp] theorem State.hubRegs_setClass (l cls : Nat) (pair : Option Nat) :
    hubRegs (s.setClass l cls pair).regs = hubRegs s.regs := by
  simp only [State.setClass]
  split <;> simp

@[simp] theorem State.hubRegs_classPartner (pl : List Byte) (l m : Nat) :
    hubRegs (s.classPartner pl l m).regs = hubRegs s.regs := by
  simp only [State.classPartner]
  split
  · rfl
  · split <;> simp

@[simp] theorem State.hubRegs_linkGoUp (l : Nat) : hubRegs (s.linkGoUp l).regs = hubRegs s.regs := by
  simp only [State.linkGoUp]
  split <;> split <;> simp

@[simp] theorem State.hubRegs_classify (l : Nat) : hubRegs (s.classify l).regs = hubRegs s.regs := by
  simp only [State.classify]
  split
  · split
    · simp
    · split
      · simp
      · split
        · split <;> simp
        · split <;> simp
  · simp

@[simp] theorem hubRegs_planLoad : hubRegs (planLoad s).regs = hubRegs s.regs := by
  have hpg : PastHub ((pgTop + 0x058) / 0x1000 * 0x1000) := by
    unfold PastHub
    decide
  have hclass (t : State) (l : Nat) : hubRegs (if 3 ≤ (t.link l).st then t.classify l else t).regs = hubRegs t.regs := by
    split <;> simp
  simp only [planLoad]
  repeat' split
  all_goals simp [hpg, hubRegs_foldl hclass]

@[simp] theorem hubRegs_detLoad : hubRegs (detLoad s).regs = hubRegs s.regs := by
  have hpg : PastHub ((pgTop + 0x090) / 0x1000 * 0x1000) := by
    unfold PastHub
    decide
  simp only [detLoad]
  repeat' split
  all_goals simp [hpg]

/-! The end of a slot. -/

@[simp] theorem State.regs_setEntry (a e : Nat) : (s.setEntry a e).regs = s.regs :=
  unwritten (fun _ hs hw => s.setEntry_sound a e hs hw) .regs rfl

@[simp] theorem State.hubRegs_flipMove (m : Move) : hubRegs (s.flipMove m).regs = hubRegs s.regs := by
  simp only [State.flipMove]
  split
  · rfl
  · split
    · rfl
    · split
      · simp
      · split <;> simp

@[simp] theorem State.hubRegs_bar2Do (a : Nat) (acc : Bar2Op) : hubRegs (s.bar2Do a acc).regs = hubRegs s.regs := by
  cases acc <;> simp only [State.bar2Do] <;> split
  · rfl
  · split <;> simp
  · rfl
  · simp

@[simp] theorem State.hubRegs_bar2Drain : hubRegs s.bar2Drain.regs = hubRegs s.regs := by
  simp only [State.bar2Drain]
  split
  · rfl
  · rw [hubRegs_foldl]
    intro t w
    split <;> simp

@[simp] theorem State.hubRegs_heldDrain : hubRegs s.heldDrain.regs = hubRegs s.regs := by
  simp only [State.heldDrain]
  rw [hubRegs_foldl]
  intro t w
  cases w <;> simp

@[simp] theorem State.hubRegs_letGo : hubRegs s.letGo.regs = hubRegs s.regs := by
  simp [State.letGo, State.chanDrain, State.flipMoves]

@[simp] theorem State.hubRegs_hostEnd (q cid status reason result : Nat) :
    hubRegs (s.hostEnd q cid status reason result).regs = hubRegs s.regs := by
  simp only [State.hostEnd]
  split <;> simp [State.modHostQ]

@[simp] theorem State.hubRegs_testEnd (r : SlotReq) : hubRegs (s.testEnd r).regs = hubRegs s.regs := by
  simp only [State.testEnd]
  split <;> split <;> simp

@[simp] theorem State.hubRegs_testDone : hubRegs s.testDone.regs = hubRegs s.regs := by
  simp only [State.testDone]
  split
  · rfl
  · split
    · rfl
    · split <;> simp

@[simp] theorem State.hubRegs_calsDone : hubRegs s.calsDone.regs = hubRegs s.regs := by
  simp [State.calsDone]

/-- The end of a slot writes no register of the HUB pages and none of the CPD page. -/
theorem State.hubRegs_slotEnds : hubRegs s.slotEnds.regs = hubRegs s.regs := by
  simp [State.slotEnds]

end

end Sys2Proof.Machine
end

section
/-! PROOFS. Slot enables: the write of SLOTEN, the frame boundary that takes the enables over, and a slot whose enable was 0
(R581, R586). -/

namespace Sys2Proof.Machine

open Sys2Proof

/-! ## The write of SLOTEN -/

theorem pgCpd_page : (pgCpd + 0x054) / 0x1000 * 0x1000 = pgCpd := by decide

theorem State.pw_refuse (s : State) (off reason : Nat) : (s.refuse off reason).pw = s.pw :=
  unwritten (fun _ hs hw => s.refuse_sound off reason hs hw) .pw rfl

theorem State.reg_sloten_refuse (s : State) (reason : Nat) :
    (s.refuse (pgCpd + 0x054) reason).reg (pgCpd + 0x054) = s.reg (pgCpd + 0x054) :=
  s.reg_refuse_other reason pgCpd_page (by decide) (by decide) (by decide) (by decide)

/-- The write of SLOTEN stores bits 0 and 6 set, and its refusal leaves the register alone. -/
theorem exec_slotenWrite {s : State} (v : Word) (h : s.serves .cpd = true) :
    exec (.slotenWrite v) s = .next (if v.toNat &&& 0x41 = 0x41 then s.setReg (pgCpd + 0x054) (v.toNat % 2 ^ 11 ||| 0x41)
      else (s.setReg (pgCpd + 0x054) (v.toNat % 2 ^ 11 ||| 0x41)).refuse (pgCpd + 0x054) 0x0C) := by
  simp [exec, execSlotenWrite, h]

/-- The bits of SLOTEN that cannot be cleared are 0 and 6. -/
theorem testBit_0x41 (i : Nat) : (0x41 : Nat).testBit i = (i == 0 || i == 6) := by
  obtain hi | hi := Nat.lt_or_ge i 7
  · revert i
    decide
  · rw [Nat.testBit_lt_two_pow (Nat.lt_of_lt_of_le (by decide) (Nat.pow_le_pow_right (by decide) hi)),
      beq_false_of_ne (by omega), beq_false_of_ne (by omega), Bool.or_false]

theorem and_0x41_eq_iff (n : Nat) : n &&& 0x41 = 0x41 ↔ n.testBit 0 = true ∧ n.testBit 6 = true := by
  have hbits (i : Nat) : (n &&& 0x41).testBit i = (n.testBit i && (i == 0 || i == 6)) := by
    rw [Nat.testBit_and, testBit_0x41]
  constructor
  · intro h
    simp only [h, testBit_0x41] at hbits
    exact ⟨by simpa using (hbits 0).symm, by simpa using (hbits 6).symm⟩
  · rintro ⟨h0, h6⟩
    refine Nat.eq_of_testBit_eq fun i => ?_
    rw [hbits, testBit_0x41]
    by_cases hi : i = 0 ∨ i = 6
    · obtain rfl | rfl := hi
      · simp [h0]
      · simp [h6]
    · simp only [not_or] at hi
      simp [hi]

/-- What the write stores: the bits written, and the two that cannot be cleared. -/
theorem testBit_sloten (n : Nat) {i : Nat} (hi : i < 11) :
    ((n % 2 ^ 11 ||| 0x41) % 2 ^ 32).testBit i = (n.testBit i || i == 0 || i == 6) := by
  simp only [Nat.testBit_mod_two_pow, Nat.testBit_or, testBit_0x41, hi, show i < 32 by omega, decide_true, Bool.true_and,
    Bool.or_assoc]

/-! ## The frame boundary -/

/-- SLOTEN stands through the end of the frame's last slot. -/
theorem State.reg_sloten_slotEnds (s : State) : s.slotEnds.reg (pgCpd + 0x054) = s.reg (pgCpd + 0x054) :=
  State.reg_eq_of_hubRegs s.hubRegs_slotEnds (by decide)

theorem State.pw_flushWhere (s : State) (u : Nat) (p : UEnt → Bool) (why : FlushWhy) : (s.flushWhere u p why).pw = s.pw :=
  unwritten (fun _ hs hw => s.flushWhere_sound u p why hs hw) .pw rfl

theorem pw_foldl {α : Type} {f : State → α → State} (hf : ∀ a x, (f a x).pw = a.pw) (l : List α) (s : State) :
    (l.foldl f s).pw = s.pw := by
  induction l generalizing s with
  | nil => rfl
  | cons x l ih => rw [List.foldl_cons, ih, hf]

/-- The frame, the slot to come and the enables that a boundary leaves; the flushes behind it write none of them. -/
theorem State.pw_frameBoundary (s : State) (f n : Nat) :
    (s.frameBoundary f n).pw.frame = f ∧ (s.frameBoundary f n).pw.next = n ∧ (s.frameBoundary f n).pw.resync = false ∧
      (s.frameBoundary f n).pw.slotEn = BitVec.ofNat 11 (s.reg (pgCpd + 0x054)) := by
  simp only [State.frameBoundary, pw_foldl (fun a x => State.pw_flushWhere a _ _ _), State.reg_sloten_slotEnds, and_self]

/-- The enables of the frame that begins are the bits of SLOTEN (R586). -/
theorem State.slotEn_frameBoundary_testBit (s : State) (f n : Nat) {i : Nat} (hi : i < 11) :
    (s.frameBoundary f n).pw.slotEn.toNat.testBit i = s.rbit (pgCpd + 0x054) i := by
  obtain ⟨-, -, -, hen⟩ := s.pw_frameBoundary f n
  simp only [hen, BitVec.toNat_ofNat, Nat.testBit_mod_two_pow, hi, decide_true, Bool.true_and, State.rbit, bitOf]

theorem State.frameDue_eq_false {s : State} (h : s.pw.frame = s.frameOf) : s.frameDue = false := by
  simp [State.frameDue, h]

/-- A boundary is counted in READY once the timestamp was loaded or names a later frame (R581). -/
theorem exec_maintenanceFrameBoundary {s : State} (hr : s.ready = true) (hb : s.pw.resync = true ∨ s.frameDue = true) :
    exec .maintenanceFrameBoundary s = .next (s.frameBoundary s.frameOf (if s.pw.resync then s.slotOf else 0)) := by
  simp only [exec, execMaintenanceFrameBoundary, hr]
  cases hs : s.pw.resync with
  | true => simp
  | false => simp [hb.resolve_left (by simp [hs])]

/-- Outside READY, and while the timestamp names the frame that runs, no boundary is counted. -/
theorem exec_maintenanceFrameBoundary_idle {s : State}
    (h : s.ready = false ∨ (s.pw.resync = false ∧ s.pw.frame = s.frameOf)) : exec .maintenanceFrameBoundary s = .next s := by
  obtain hr | ⟨hs, hf⟩ := h
  · simp [exec, execMaintenanceFrameBoundary, hr]
  · simp [exec, execMaintenanceFrameBoundary, hs, State.frameDue_eq_false hf]

/-! ## A slot whose enable was 0 -/

theorem State.chanDrain_of_none_waiting {s : State} (hbar : s.bar2Wait = []) (hchan : s.chanWait = []) : s.chanDrain = s := by
  have hdrain : s.bar2Drain = s := by
    rw [State.bar2Drain, hbar]
  rw [State.chanDrain, hdrain, State.heldDrain, hchan, List.foldl_nil, ← hchan]

theorem State.flipMoves_of_none {s : State} (p : Move → Bool) (hmoves : s.moves = []) : s.flipMoves p = s := by
  simp [State.flipMoves, hmoves]

/-- A slot that holds no channel and no link, with no access waiting and no move under way, has nothing more to let go of than its
hold. -/
theorem State.letGo_of_idle {s : State} (hbar : s.bar2Wait = []) (hchan : s.chanWait = []) (hmoves : s.moves = [])
    (hst : ∀ p ∈ s.chans, p.2.st ≠ 1) (hlink : ∀ l < 16, (s.link l).st ≠ 5) :
    s.letGo = { s with pw := { s.pw with holding := false, scrub := none } } := by
  have hfreed : (s.chans.filter fun p => p.2.st == 1) = [] := by
    simpa [List.filter_eq_nil_iff] using hst
  have hchans : (s.chans.map fun (p : Nat × Chan) => (p.1, if p.2.st = 1 then { p.2 with st := 0 } else p.2)) = s.chans :=
    List.map_congr_left (fun p hp => by simp [hst p hp]) |>.trans (List.map_id _)
  have heq : ((List.range 16).filter fun l => (s.link l).st == 5) = [] := by
    simpa [List.filter_eq_nil_iff] using hlink
  simp only [State.letGo, hfreed, hchans, List.map_nil, List.foldl_nil]
  rw [State.chanDrain_of_none_waiting, State.flipMoves_of_none]
  · exact congrArg (List.foldl State.eqDone _) heq
  · exact hmoves
  · exact hbar
  · exact hchan

theorem State.calsDone_of_idle {s : State} (h : ∀ r ∈ s.pw.cals, r.run ≠ 1) : s.calsDone = s := by
  have hrun : (s.pw.cals.filter fun r => r.run == 1) = [] := by
    simpa [List.filter_eq_nil_iff] using h
  have hrest : (s.pw.cals.filter fun r => r.run != 1) = s.pw.cals := by
    simpa [List.filter_eq_self] using h
  simp [State.calsDone, hrun, hrest]

/-- The end of a slot that did nothing only releases its hold. -/
theorem State.slotEnds_of_idle {s : State} (hbar : s.bar2Wait = []) (hchan : s.chanWait = []) (hmoves : s.moves = [])
    (hchunk : s.pw.chunk = none) (hst : ∀ p ∈ s.chans, p.2.st ≠ 1) (hlink : ∀ l < 16, (s.link l).st ≠ 5)
    (hcals : ∀ r ∈ s.pw.cals, r.run ≠ 1) : s.slotEnds = { s with pw := { s.pw with holding := false, scrub := none } } := by
  rw [State.slotEnds, State.letGo_of_idle hbar hchan hmoves hst hlink]
  simp only [State.testDone, hchunk]
  exact State.calsDone_of_idle hcals

/-- A slot whose enable was 0 at the boundary ends the slot before and starts no activity. -/
theorem exec_slotStart_off {s : State} {obs : SlotObs} (hr : s.ready = true) (hres : s.pw.resync = false)
    (hframe : s.pw.frame = s.frameOf) (hnext : s.pw.next ≤ s.slotOf) (hen : s.slotEnds.pw.slotEn.toNat.testBit s.slotOf = false)
    (hups : obs.upsets = []) :
    exec (.slotStart obs) s =
      .next { s.slotEnds with pw := { s.slotEnds.pw with slot := s.slotOf, next := s.slotOf + 1 } } := by
  simp [exec, execSlotStart, hr, hres, hframe, hups, bitOf, hen, Nat.not_lt.2 hnext]

/-- Settles O53: bits 0 and 6 are set in what a write stores, the boundary takes the stored bits over because the end of a slot
leaves the CPD page alone, and a slot whose enable was 0 only ends the slot before it. -/
theorem slotEnables : Obligations.SlotEnables := by
  unfold Obligations.SlotEnables
  refine ⟨?_, ?_, fun s h => exec_maintenanceFrameBoundary_idle h, ?_⟩
  · intro s v hserves
    refine ⟨_, exec_slotenWrite v hserves, ?_, ?_, ?_, ?_⟩
    · split
      · rfl
      · exact State.pw_refuse _ _ _
    · intro i hi
      rw [State.rbit, bitOf, ← testBit_sloten v.toNat hi]
      split
      · rw [State.reg_setReg_same]
      · rw [State.reg_sloten_refuse, State.reg_setReg_same]
    · intro hcleared
      rw [if_neg (by simpa [and_0x41_eq_iff, imp_iff_not_or] using hcleared)]
      exact ⟨State.rbit_refuse_refused _ _ pgCpd_page, State.reg_refuse_reason _ pgCpd_page (by decide)⟩
    · intro h0 h6 o ho
      rw [if_pos ((and_0x41_eq_iff _).2 ⟨h0, h6⟩)]
      exact State.reg_setReg_other _ _ ho
  · intro s hr hb
    obtain ⟨hframe, hnext, hres, -⟩ := s.pw_frameBoundary s.frameOf (if s.pw.resync then s.slotOf else 0)
    exact ⟨_, exec_maintenanceFrameBoundary hr hb, hframe, hnext, hres, fun i hi => s.slotEn_frameBoundary_testBit _ _ hi⟩
  · intro s obs n hr hres hframe hn hnext hen hups hbar hchan hmoves hchunk hst hlink hcals
    obtain rfl : n = s.slotOf := hn
    have hends := State.slotEnds_of_idle hbar hchan hmoves hchunk hst hlink hcals
    rw [exec_slotStart_off hr hres hframe hnext (by rw [hends]; exact hen) hups, hends]

end Sys2Proof.Machine
end
